-- ==== Sys2Proof/Word.lean ====
section
/-!
DEFINITION. The word types of the Askesh A12: bytes, 32-bit and 64-bit words. Bit 0 is the least significant bit (R4).
-/
namespace Sys2Proof

/-- One byte of memory. -/
abbrev Byte := BitVec 8
/-- A 32-bit word: an FP32 code, a 32-bit register. -/
abbrev W32 := BitVec 32
/-- A 64-bit word: a packet word, a register, a descriptor word. -/
abbrev W64 := BitVec 64

end Sys2Proof
end

