-- ==== Sys2Proof/Syntax.lean ====
section
/-!
DEFINITION. The commands of the block: one constructor per row of the spec's opcode table, with the row's operands. A
command is an access from the companion, an event of an engine, the expiry of a timer, a frame or an event on a pin.
Numbers name the part concerned: c a context slot, id the issue number of an in-flight packet, d a die, st a set, n a
stack, p a pseudo-channel, port or partition, u a unit (32 times its stack, and its pseudo-channel), t a tier (0 to 11
a stack, 12 the deep tier) or a ticket. A verdict the spec leaves to cryptography or to a physical check (a signature that verifies, a self-test that passes) is an operand
(log entries 7 and 9).
-/
namespace Sys2Proof

/-- The commit groups the chapters name (R9 to R12): a stack's channel map (R200), the deep tier's, a stack's regulators
(R179), the deep tier's, the fabric's (R346), the prefix index (R280), a partition (R308), the dance card (R319). -/
inductive Group where
  | stkMap (n : Nat) | dtMap | stkReg (n : Nat) | dtReg | fabReg | srvPfx | schPart (p : Nat) | schCard
  deriving DecidableEq, Repr

/-- A write to a unit's window: by a caller (0), a management core (1) or another agent (2); its offset in the window; the words
it carries (R207, R208). -/
structure Poke where
  agent : Nat
  off : Nat
  words : List W64
  deriving DecidableEq, Repr

/-- The row of the opcode table that a window write belongs to: 0 and 1 a CONTROL write's, 1 one that asks to EXIT; 2 a COMMAND
write's; 3 a RESULT write's. -/
def Poke.row (x : Poke) : Nat :=
  if 0x1000 ≤ x.off ∧ x.off < 0x2000 then 2
  else if 0x2000 ≤ x.off then 3
  else if (x.words.headD 0).toNat % 4 = 2 then 1 else 0

/-- One command of the block: a row of the opcode table. -/
inductive Instr where
  /-- `REGISTER_WRITE` (R6): A write to a register field that has no row of its own sets, clears or ignores bits by access type. -/
  | registerWrite (off width : Nat) (data : W64)
  /-- `COMMIT_GO` (R10): writing GO to a commit group checks the shadow copies, then either marks the commit pending or refuses it and reloads the shadows. -/
  | commitGo (g : Group)
  /-- `COMMIT_LOCK` (R11): writing LOCK to a commit group locks it once any pending commit has been applied or refused. -/
  | commitLock (g : Group)
  /-- `COMMIT_APPLY` (R10): at the group's safe point a pending commit applies all shadow copies together and sets APPLIED. -/
  | commitApply (g : Group)
  /-- `SQ_DOORBELL` (R37): A write of TAIL to CLR_SQ_DB is accepted, or refused with DB_OVERRUN. -/
  | sqDoorbell (c q tail : Nat)
  /-- `SQ_ABORT` (R40): writing ABORT stops fetch, discards unissued slots and posts one ST_CANCELLED record. -/
  | sqAbort (c q : Nat)
  /-- `SQ_RESUME` (R41): writing RESUME ends a halt and restarts fetch at HEAD. -/
  | sqResume (c q : Nat)
  /-- `CQ_ENABLE` (R74): setting CLR_CQ_CFG.EN translates and records every ring page, or refuses with CQ_XLATE_ERR, then writes any held records. -/
  | cqEnable (c : Nat)
  /-- `EVENT_COUNTER_WRITE` (R67): A companion write to CLR_EVENT_e sets the counter and rechecks waiting EVENT_WAIT packets. -/
  | eventCounterWrite (c e : Nat) (v : W64)
  /-- `PACKET_FETCH` (R46): when issue conditions and completion room allow, the caller takes the next packet, validates it and issues, skips or fails it. -/
  | packetFetch (c : Nat)
  /-- `PACKET_COMPLETION` (R73): when every part of an issued packet has ended, the caller writes its completion record if one is due and raises the interrupt. -/
  | packetCompletion (c id : Nat)
  /-- `NOP` (R53): does nothing. -/
  | nop (c id : Nat)
  /-- `SET_SCALAR` (R53): writes an immediate value to scalar sD. -/
  | setScalar (c id : Nat)
  /-- `SCALAR_OP` (R54): computes sD := sA OP B in 64-bit modular arithmetic. -/
  | scalarOp (c id : Nat)
  /-- `SET_PRED` (R55): sets a predicate from a scalar comparison or predicate logic. -/
  | setPred (c id : Nat)
  /-- `BRANCH` (R57): skips forward in a ring or jumps within a chain to a packet start. -/
  | branch (c id : Nat)
  /-- `CALL` (R58): runs a chain of packets from memory as part of the queue's issue order, completing when the chain ends. -/
  | call (c id : Nat)
  /-- `RETURN` (R58): ends the running chain. -/
  | ret (c id : Nat)
  /-- `LOAD_SCALAR` (R53): loads a 64-bit word from memory into sD. -/
  | loadScalar (c id : Nat)
  /-- `STORE_SCALAR` (R53): stores sA to an 8-byte aligned address. -/
  | storeScalar (c id : Nat)
  /-- `REDUCE` (R56): folds a tensor into sD and optionally sets a predicate. -/
  | reduce (c id : Nat)
  /-- `WAIT_VALUE` (R59): compares a memory word at issue and starts waiting until the comparison holds or times out. -/
  | waitValue (c id : Nat)
  /-- `WAIT_VALUE_POLL` (R59): at each serving-counter microsecond a waiting WAIT_VALUE compares again and completes when it holds. -/
  | waitValuePoll (c id : Nat)
  /-- `WAIT_VALUE_TIMEOUT` (R59): at TIMEOUT_US expiry the WAIT_VALUE compares once more and completes, setting its predicate. -/
  | waitValueTimeout (c id : Nat)
  /-- `SIGNAL` (R60): writes a 64-bit value to an address and optionally raises the interrupt. -/
  | signal (c id : Nat)
  /-- `MATMUL` (R118): computes C from A, B, an optional addend, prologue, epilogue and adapters with fixed-order accumulation. -/
  | matmul (c id : Nat)
  /-- `MATMUL_BATCHED` (R61): runs MATMUL over the outermost batch dimension. -/
  | matmulBatched (c id : Nat)
  /-- `ADAPTER` (R291): accumulates adapter corrections into Y. -/
  | adapter (c id : Nat)
  /-- `MLP_GATED` (R123): computes a gated MLP: gate and up products, activation, down product. -/
  | mlpGated (c id : Nat)
  /-- `ELTWISE` (R61): applies an elementwise operation. -/
  | eltwise (c id : Nat)
  /-- `NORM` (R83): applies RMSNorm or LayerNorm row by row. -/
  | norm (c id : Nat)
  /-- `SOFTMAX` (R83): computes row softmax. -/
  | softmax (c id : Nat)
  /-- `QUANTISE` (R61): converts a tensor to the destination format. -/
  | quantise (c id : Nat)
  /-- `ROTARY_Q` (R248): applies rotary positions to queries. -/
  | rotaryQ (c id : Nat)
  /-- `MOE_ROUTE` (R61): chooses top-k experts and routing weights from router logits. -/
  | moeRoute (c id : Nat)
  /-- `MOE_DISPATCH` (R18): places each expert near or on cores and sums expert outputs in expert order. -/
  | moeDispatch (c id : Nat)
  /-- `COPY` (R144): copies a source view to a destination view without conversion. -/
  | copy (c id : Nat)
  /-- `COPY_T` (R148): copies with the two innermost dimensions transposed. -/
  | copyT (c id : Nat)
  /-- `GATHER` (R151): gathers rows of the source's outermost dimension by index. -/
  | gather (c id : Nat)
  /-- `SCATTER` (R157): scatters updates into destination rows by index, with optional reduction. -/
  | scatter (c id : Nat)
  /-- `FILL` (R164): fills a destination from a 64-bit pattern. -/
  | fill (c id : Nat)
  /-- `TIER_MOVE` (R165): copies between the deep tier and another tier. -/
  | tierMove (c id : Nat)
  /-- `NEAR_MATVEC` (R225): runs a small-batch projection on galliard units and finishes it on a die. -/
  | nearMatvec (c id : Nat)
  /-- `NEAR_EXPERT` (R226): runs a gated MoE expert on galliard units. -/
  | nearExpert (c id : Nat)
  /-- `NEAR_ELT` (R227): runs an elementwise operation on galliard units. -/
  | nearElt (c id : Nat)
  /-- `NEAR_COPY` (R228): copies within one stack over the promenade bus. -/
  | nearCopy (c id : Nat)
  /-- `NEAR_MODE` (R213): writes ENTER or EXIT to the named units and completes when they settle. -/
  | nearMode (c id : Nat)
  /-- `NEAR_RAW` (R229): sends two raw unit commands to one pseudo-channel as a run. -/
  | nearRaw (c id : Nat)
  /-- `KV_APPEND` (R269): appends new K and V rows to their pages. -/
  | kvAppend (c id : Nat)
  /-- `ATTEND` (R267): optionally appends rows, then attends each sequence near or on cores and combines partials. -/
  | attend (c id : Nat)
  /-- `KV_RELEASE` (R262): releases pages no query can reach, or all pages under CLOSE. -/
  | kvRelease (c id : Nat)
  /-- `PREFIX_LOOKUP` (R275): hashes prompt pages and reports leading hits. -/
  | prefixLookup (c id : Nat)
  /-- `PREFIX_INSERT` (R276): records prompt pages in the prefix index. -/
  | prefixInsert (c id : Nat)
  /-- `KV_MOVE` (R270): moves whole KV pages between tiers and updates their entries. -/
  | kvMove (c id : Nat)
  /-- `STEP_BEGIN` (R293): after no named slot is OPENING, opens a step, makes slots ACTIVE, checkpoints and latches HB_SPLIT_CFG. -/
  | stepBegin (c id : Nat)
  /-- `STEP_END` (R295): waits for the step's packets and any encore before the commit. -/
  | stepEnd (c id : Nat)
  /-- `STEP_COMMIT` (R296): at the commit point each entry is cancelled, left, or delivered its token; FLAGS written and STEP_END completed. -/
  | stepCommit (c id : Nat)
  /-- `REQ_OPEN` (R284): checks and opens a request slot, clears counts and writes the ledger. -/
  | reqOpen (c id : Nat)
  /-- `REQ_CLOSE` (R287): frees a request slot, latching a cancel first when needed. -/
  | reqClose (c id : Nat)
  /-- `REQ_CANCEL` (R304): latches a cancel and completes once it has taken full effect. -/
  | reqCancel (c id : Nat)
  /-- `SAMPLE` (R294): draws one pending token per sampled row on the named dies. -/
  | sample (c id : Nat)
  /-- `ADAPTER_BIND` (R289): binds, rebinds or unbinds an adapter image. -/
  | adapterBind (c id : Nat)
  /-- `ALL_REDUCE` (R356): reduces elements over all ranks in rank order and delivers the result to every member. -/
  | allReduce (c id : Nat)
  /-- `ALL_GATHER` (R354): gathers every member's elements to every member. -/
  | allGather (c id : Nat)
  /-- `REDUCE_SCATTER` (R354): reduces and gives each member its block. -/
  | reduceScatter (c id : Nat)
  /-- `ALL_TO_ALL` (R354): exchanges blocks between every pair of members. -/
  | allToAll (c id : Nat)
  /-- `FENCE` (R69): completes once earlier packets of the queue have finished their effects on storage in scope. -/
  | fence (c id : Nat)
  /-- `CUE` (R71): announces a phase to the tempo controller and completes at issue. -/
  | cue (c id : Nat)
  /-- `EVENT_SIGNAL` (R67): drains its scope, then adds a value to an event counter. -/
  | eventSignal (c id : Nat)
  /-- `EVENT_WAIT` (R67): waits until an event counter reaches a threshold, comparing at every change. -/
  | eventWait (c id : Nat)
  /-- `EVENT_WAIT_TIMEOUT` (R67): at timeout expiry EVENT_WAIT compares once more and completes. -/
  | eventWaitTimeout (c id : Nat)
  /-- `TIMESTAMP` (R67): writes the serving counter into sD and optionally to memory. -/
  | timestamp (c id : Nat)
  /-- `TILE_REEXECUTION` (R96): A failed tile re-executes on a free spare or the next free core; after three failures the part is exhausted. -/
  | tileReexecution (c id d st core cause : Nat)
  /-- `SPARE_TAKEOVER` (R98): at the next tile boundary a retired core's logical number moves to a spare, or the set enters RETIRING. -/
  | spareTakeover (d st core : Nat)
  /-- `SET_LEAVE_SERVICE` (R98): at the packet boundary a RETIRING set leaves service and FEAT values update. -/
  | setLeaveService (d st : Nat)
  /-- `STRIKE_EXPIRY` (R97): A strike older than WINDOW_H hours is forgotten. -/
  | strikeExpiry
  /-- `STRIKE_AGE_REWRITE` (R100): at least every 10 minutes the firmware rewrites stored strike ages. -/
  | strikeAgeRewrite
  /-- `SET_RETIRE` (R101): CD_SET_CTRL RETIRE retires a free set or makes a busy one RETIRING. -/
  | setRetire (d st : Nat)
  /-- `SET_TEST` (R101): CD_SET_CTRL TEST starts self-test of a free set. -/
  | setTest (d st : Nat)
  /-- `SET_RETURN` (R101): CD_SET_CTRL RETURN tests a retired set on all 130 cores with strikes cleared. -/
  | setReturn (d st : Nat)
  /-- `SET_TEST_DONE` (R101): at the end of self-test the set becomes FREE with remapped cores or RETIRED. -/
  | setTestDone (d st : Nat) (fails : List Nat)
  /-- `MESH_FLIT_RETRY` (R91): A flit failing its CRC is retried; after 16 failures the link shuts. -/
  | meshFlitRetry (d router dir : Nat) (ok : Bool)
  /-- `PERF_SNAP` (R107): SNAP copies every counter of the die into its snapshot copy. -/
  | perfSnap (d : Nat)
  /-- `PERF_SNAP_DONE` (R107): within 64 core cycles the snapshot completes and SNAP_BUSY clears. -/
  | perfSnapDone (d : Nat)
  /-- `PERF_CLEAR` (R107): CLEAR zeroes every live and snapshot counter of the die. -/
  | perfClear (d : Nat)
  /-- `SERVING_COUNTER_TICK` (R178): each microsecond the serving counter advances and every token bucket is refilled. -/
  | servingCounterTick
  /-- `BULK_AGE_PROMOTE` (R177): A BULK request waiting longer than BULK_AGE_US moves up to the first step. -/
  | bulkAgePromote (target part : Nat)
  /-- `MERGE_TIMEOUT` (R186): A merge entry open for 256 base-die cycles is written out by read-modify-write. -/
  | mergeTimeout (gran : Nat)
  /-- `SCRUB_GRANULE` (R188): every INTERVAL cycles the scrubber reads, decodes and corrects one granule. -/
  | scrubGranule (t ch : Nat)
  /-- `SCRUB_ALARM` (R189): when a lap runs longer than ALARM_US, ALARM is set and one record written. -/
  | scrubAlarm (t ch : Nat)
  /-- `PARITY_SEAL` (R193): HB_PARITY_CMD GO with SEAL refuses writes to the rows, computes parity and marks them sealed. -/
  | paritySeal (first last : Nat)
  /-- `PARITY_UNSEAL` (R193): HB_PARITY_CMD GO with UNSEAL clears the rows' sealed marks. -/
  | parityUnseal (first last : Nat)
  /-- `PARITY_CMD_DONE` (R193): A running parity command completes and sets DONE. -/
  | parityCmdDone
  /-- `PARITY_REBUILD` (R195): an uncorrectable sealed-row granule is rebuilt from the other eleven stacks and written back. -/
  | parityRebuild (dpa : Nat)
  /-- `CHANNEL_FAIL` (R198): A FAIL write or the UE_LIMIT makes a GOOD channel FAILING: channel k mod 16 of tier k / 16. -/
  | channelFail (k : Nat) (byCount : Bool)
  /-- `MAPOUT_START` (R201): after any seal or map-out ends, channels enter MAPPING and blocks move. -/
  | mapoutStart (t : Nat)
  /-- `MAPOUT_SWITCH` (R201): at the 1 µs boundary after the last block the stack switches placement and the channels become MAPPED. -/
  | mapoutSwitch (t : Nat)
  /-- `NEAR_ENTER` (R209): an accepted ENTER CONTROL write starts powering and loading a unit. -/
  | nearEnter (u : Nat) (x : Poke)
  /-- `NEAR_ENTER_DONE` (R210): after CRC and self-check the unit becomes NEAR, or goes OUT of service. -/
  | nearEnterDone (n p : Nat) (ok : Bool)
  /-- `NEAR_EXIT` (R211): an accepted EXIT CONTROL write makes the unit EXITING. -/
  | nearExit (u : Nat) (x : Poke)
  /-- `NEAR_EXIT_DONE` (R211): after runs complete and the buffer clears, the unit is gated and NORMAL. -/
  | nearExitDone (n p : Nat)
  /-- `NEAR_IDLE_EXIT` (R213): A unit idle in NEAR for IDLE_EXIT_US exits. -/
  | nearIdleExit (n p : Nat)
  /-- `UNIT_COMMAND_WRITE` (R215): A COMMAND write queues a command on a free ticket, or is refused. -/
  | unitCommandWrite (n p off : Nat) (words : List W64) (agent : Nat)
  /-- `UNIT_TICKET_RELEASE` (R220): A zero write to a DONE RESULT entry frees the ticket. -/
  | unitTicketRelease (n p : Nat) (x : Poke)
  /-- `UOP_NONE` (R221): does nothing as the second command of NEAR_RAW. -/
  | uopNone (n p t : Nat)
  /-- `UOP_LOAD` (R221): A unit loads bank data into its operand buffer, optionally converting. -/
  | uopLoad (u t : Nat) (pass : Bool)
  /-- `UOP_STORE` (R221): A unit stores buffer data to its bank in whole granules. -/
  | uopStore (u t : Nat) (pass : Bool)
  /-- `MATVEC` (R222): A unit multiplies a share and writes FP32 chunk values. -/
  | matvec (n p t : Nat) (pass : Bool)
  /-- `EXPERT` (R226): A unit runs gate, up, activation and down products for its expert slice. -/
  | expert (n p t : Nat) (pass : Bool)
  /-- `ELT` (R221): A unit applies an elementwise operation. -/
  | elt (n p t : Nat) (pass : Bool)
  /-- `KV_WRITE` (R249): A unit rotates, quantises and writes new K and V rows whole. -/
  | kvWrite (u t : Nat) (pass : Bool)
  /-- `ATTN_PART` (R264): A unit forms the partial softmax over the pages it owns. -/
  | attnPart (n p t : Nat) (pass : Bool)
  /-- `JOIN` (R266): A unit combines partials arriving over the promenade bus into a stack record. -/
  | join (u t : Nat) (pass : Bool)
  /-- `PCOPY` (R233): A unit copies bytes to another pseudo-channel over the promenade bus. -/
  | pcopy (n p t : Nat)
  /-- `SELFTEST` (R221): A management-only unit self-test of about 2 ms. -/
  | selftest (n p t : Nat) (pass : Bool)
  /-- `UNIT_OUT` (R236): GAL_UNIT_CTRL OUT takes an IN unit out after its current run. -/
  | unitOut (n p : Nat)
  /-- `UNIT_TEST` (R236): GAL_UNIT_CTRL TEST runs entry, self-test and exit on an OUT unit. -/
  | unitTest (n p : Nat)
  /-- `UNIT_RETURN` (R236): GAL_UNIT_CTRL RETURN tests an OUT unit with strikes cleared. -/
  | unitReturn (n p : Nat)
  /-- `UNIT_TEST_DONE` (R236): A unit test ends, leaving the unit IN, or OUT with TEST_FAILED. -/
  | unitTestDone (n p : Nat) (pass : Bool)
  /-- `PFX_KEY_LOAD` (R279): LOAD copies the key registers into the selected key slot. -/
  | pfxKeyLoad
  /-- `PFX_KEY_CLEAR` (R279): CLEAR empties the selected key slot. -/
  | pfxKeyClear
  /-- `REQ_SNAPSHOT` (R286): A write to SRV_REQ_SEL copies a slot's 24 words atomically into the data registers. -/
  | reqSnapshot (slot : Nat)
  /-- `ADAPTER_SNAPSHOT` (R306): A write to SRV_ADAPTER_SEL copies an adapter's binding into the data registers. -/
  | adapterSnapshot (a : Nat)
  /-- `CANCEL_REGISTER` (R302): SRV_CANCEL GO latches a cancel of a slot from the companion. -/
  | cancelRegister (slot : Nat)
  /-- `TLB_INVALIDATE` (R312): SCH_INVAL GO drops a range of translations from every cache. -/
  | tlbInvalidate (all : Bool) (part va count : Nat)
  /-- `INVALIDATE_DONE` (R312): once accesses through the dropped entries complete, DONE is set. -/
  | invalidateDone
  /-- `CONTEXT_ENABLE` (R314): setting SCH_CTX_CFG.EN checks the context, records save pages and binds it SWAPPED to a caller. -/
  | contextEnable (c part : Nat) (keeps : Bool)
  /-- `CONTEXT_DISABLE` (R317): clearing EN discards queues, stops packets, closes the step and wipes the sets. -/
  | contextDisable (c : Nat)
  /-- `PARTITION_TEARDOWN` (R334): TEARDOWN disables contexts, frees slots and adapters and starts wiping the windows. -/
  | partitionTeardown (p : Nat)
  /-- `TEARDOWN_DONE` (R334): after the wipe the partition's enables are cleared and TD_DONE set. -/
  | teardownDone (p : Nat)
  /-- `CARD_FRAME_START` (R319): A new dance-card frame begins and a pending card commit applies. -/
  | cardFrameStart
  /-- `CARD_SLOT_START` (R320): A valid slot begins, reserving sets and requesting preemptions. -/
  | cardSlotStart (i : Nat)
  /-- `OPEN_TIME_START` (R325): open time, or time cut by debt, begins and base shares load. -/
  | openTimeStart (cut : Bool)
  /-- `QUANTUM_EXPIRY` (R320): A RUNNING holder loaded for QUANTUM_US must yield to a waiting context. -/
  | quantumExpiry (c : Nat)
  /-- `BLOCK_EVICT_EXPIRY` (R320): A holder BLOCKED for BLOCK_EVICT_US must yield. -/
  | blockEvictExpiry (c : Nat)
  /-- `STEP_HOLD_EXPIRY` (R324): A step still open STEP_HOLD_MAX_MS after the request is preempted at once. -/
  | stepHoldExpiry (c : Nat)
  /-- `PREEMPTION_POINT` (R322): when nothing but waits is in flight, the context's caller state and sets start saving. -/
  | preemptionPoint (c : Nat)
  /-- `CONTEXT_SAVE_DONE` (R326): when a set's image save ends, the set becomes free for restore. -/
  | contextSaveDone (c d st : Nat)
  /-- `CONTEXT_LOADED` (R326): once every set is restored and caller state loaded, the context runs. -/
  | contextLoaded (c : Nat)
  /-- `HARD_SWAP` (R327): when all loaded contexts are blocked and one is runnable, it is swapped in at once. -/
  | hardSwap (c : Nat)
  /-- `FAULT_RESOLVE_RETRY` (R332): RETRY walks the faulting access again and resumes the part. -/
  | faultResolveRetry (fid : Nat)
  /-- `FAULT_RESOLVE_FAIL` (R332): FAIL stops the packet as ABORT and completes it with the fault's status. -/
  | faultResolveFail (fid : Nat)
  /-- `FAULT_TIMEOUT` (R332): A fault unanswered for FAULT_TIMEOUT_MS resolves as FAIL with a record. -/
  | faultTimeout (fid : Nat)
  /-- `FRAME_RECEIVE` (R341): A received fabric frame is checked in order and discarded or delivered. -/
  | frameReceive (port : Nat) (frame : List Byte)
  /-- `DATA` (R342): A DATA frame is placed by stream and offset, and combined or forwarded for its collective. -/
  | data
  /-- `ACK` (R343): an ACK frees acknowledged frames and triggers fast retransmission. -/
  | ack
  /-- `CREDIT` (R358): A CREDIT frame grants chunks to send. -/
  | credit
  /-- `HOLD` (R358): A HOLD frame keeps a partner's silence timer from expiring. -/
  | hold
  /-- `HELLO` (R349): A HELLO starts admission; the responder checks it and replies. -/
  | hello (ok : Bool)
  /-- `HELLO_REPLY` (R349): the initiator checks the reply and sends ATTEST with the ciphertext. -/
  | helloReply (ok : Bool)
  /-- `FABRIC_ATTEST` (R349): the responder checks the initiator, decapsulates and sends CONFIRM. -/
  | fabricAttest (ok : Bool)
  /-- `CONFIRM` (R349): A verified CONFIRM makes both sides ADMITTED under the new key. -/
  | confirm (ok : Bool)
  /-- `CLOSE` (R348): A CLOSE frame ends the peer's admission. -/
  | close
  /-- `ACK_TIMER` (R342): 4 µs after the oldest unacknowledged arrival, an ACK is sent. -/
  | ackTimer (peer : Nat)
  /-- `RETRANSMIT_TIMEOUT` (R343): A frame unacknowledged for RTO_US is retransmitted and the timeout doubles. -/
  | retransmitTimeout (peer psn : Nat)
  /-- `PEER_LOST` (R344): A frame unacknowledged for LOST_MS makes the peer LOST and fails waiting collectives. -/
  | peerLost (peer : Nat)
  /-- `READMIT_RETRY` (R344): once per second admission of a LOST or silent peer is retried. -/
  | readmitRetry (peer : Nat)
  /-- `CC_PERIOD` (R345): each period alpha and each flow's rate are updated from CE counts. -/
  | ccPeriod
  /-- `HANDSHAKE_RESEND` (R349): an unanswered handshake message is resent after 10 ms, up to five times. -/
  | handshakeResend (peer : Nat)
  /-- `REKEY_DUE` (R350): key age or the TXSEQ limit starts a new handshake. -/
  | rekeyDue (peer : Nat)
  /-- `OLD_EPOCH_EXPIRY` (R350): 100 ms after a rekey the old key epoch is no longer accepted. -/
  | oldEpochExpiry (peer : Nat)
  /-- `HOLD_TIMER` (R358): A partner not sent a frame for 1,000 µs is sent a HOLD. -/
  | holdTimer (g rank : Nat)
  /-- `COLLECTIVE_SILENCE` (R358): A partner silent for the timeout fails the collective with ST_PEER_LOST and breaks the group. -/
  | collectiveSilence (g rank : Nat)
  /-- `PEER_LOAD` (R348): FAB_PEER_CTRL LOAD reads a peer entry and begins admission. -/
  | peerLoad (peer : Nat)
  /-- `PEER_DROP` (R348): FAB_PEER_CTRL DROP sends CLOSE and makes the peer IDLE. -/
  | peerDrop (peer : Nat)
  /-- `GROUP_ARM` (R352): REEL_GROUP_CTRL ARM checks a group and arms it, admitting members. -/
  | groupArm (g : Nat)
  /-- `GROUP_DISARM` (R352): REEL_GROUP_CTRL DISARM makes a group IDLE. -/
  | groupDisarm (g : Nat)
  /-- `LANE_FAIL` (R338): A lane losing lock or exceeding its error limit forces a port retrain or retirement. -/
  | laneFail (p lane : Nat)
  /-- `PORT_RETRAIN_DONE` (R338): A retrained port resumes and lost frames are retransmitted. -/
  | portRetrainDone (p : Nat)
  /-- `PORT_ENABLE` (R338): writing EN from 0 to 1 trains the port with failed lanes cleared. -/
  | portEnable (p : Nat)
  /-- `INJECT_REORDER_RELEASE` (R361): A reordered frame held for 100 µs is released. -/
  | injectReorderRelease (p : Nat)
  /-- `THEAM_FLIT_REPLAY` (R364): A Theam flit failing CRC is replayed at link level. -/
  | theamFlitReplay
  /-- `LINK_TRAINING_DONE` (R365): training ends ACTIVE at the widest sound width, or DOWN. -/
  | linkTrainingDone (lanes : Nat)
  /-- `LINK_LANE_LOSS` (R365): A lane losing lock puts the link into RECOVERY and retraining. -/
  | linkLaneLoss (lane : Nat)
  /-- `LINK_DOWN_RETRY` (R365): A DOWN link retries training every 100 ms. -/
  | linkDownRetry
  /-- `RETRAIN` (R365): THM_LINK_CTRL RETRAIN retrains the link with failed lanes cleared. -/
  | retrain
  /-- `COMPANION_MEM_READ` (R368): A companion read of the memory window returns data or an error response. -/
  | companionMemRead (addr len : Nat)
  /-- `COMPANION_MEM_WRITE` (R368): A companion write of the memory window performs whole or is refused. -/
  | companionMemWrite (addr : Nat) (bytes : List Byte)
  /-- `COMPANION_CACHEABLE_READ` (R371): A cacheable flush-class read is granted and tracked, back-invalidating when the filter is full. -/
  | companionCacheableRead (addr : Nat)
  /-- `COMPANION_WRITEBACK` (R371): A companion write-back or eviction replaces a granule whole and updates the filter. -/
  | companionWriteback (addr : Nat) (bytes : List Byte) (evict : Bool)
  /-- `SNOOP_TIMEOUT` (R372): A snoop unanswered for 1 ms completes against memory, drops the entry and is recorded. -/
  | snoopTimeout
  /-- `THM_SYNC` (R374): A read of THM_SYNC returns only after earlier writes and write-backs are performed. -/
  | thmSync
  /-- `VECTOR_UNMASK` (R377): unmasking a vector with its PEND bit set delivers it once. -/
  | vectorUnmask (v : Nat)
  /-- `INPUT_SAMPLE` (R380): each microsecond input voltage and current are sampled and alarms, brake or faults decided. -/
  | inputSample (mv ma : Nat)
  /-- `INPUT_BRAKE_END` (R380): after the input stays at or above 40 V for 1 ms, the undervoltage brake ends. -/
  | inputBrakeEnd
  /-- `RAIL_CHECK` (R382): at the end of every microsecond each rail is checked against its windows and responses applied. -/
  | railCheck (r i1 i10 i100 mv : Nat)
  /-- `RAIL_CEILING_RECOVERY` (R382): each 1 ms under 95 % of the limit raises a lowered ceiling one point. -/
  | railCeilingRecovery (r : Nat)
  /-- `POL_OVERCURRENT` (R384): A rail above 125 % of its factory limit turns off, acting as a thermal trip. -/
  | polOvercurrent (r : Nat)
  /-- `TEMPO_TICK` (R387): every 10 µs the controller computes grants and sets operating points. -/
  | tempoTick (draws : List Nat)
  /-- `PWRBRK_ASSERT` (R389): PWRBRK_N low starts braking at BRAKE_W within 10 µs. -/
  | pwrbrkAssert
  /-- `PWRBRK_RELEASE` (R389): PWRBRK_N high ends braking. -/
  | pwrbrkRelease
  /-- `CUE_PHASE_START` (R390): A cue's hold or phase start arrives, holding dies out of rest and reserving budget. -/
  | cuePhaseStart (i : Nat)
  /-- `CUE_PHASE_END` (R390): A cue's phase ends and its reservation lapses. -/
  | cuePhaseEnd (i : Nat)
  /-- `CUE_EVALUATION` (R391): 20 µs after the phase start a cue is counted as hit or miss. -/
  | cueEvaluation (i busy : Nat)
  /-- `DROOP_DETECT` (R392): A detector below threshold stretches the die's next cycle as a half-step. -/
  | droopDetect (d : Nat)
  /-- `DROOP_FALLBACK` (R393): after eight half-steps the die clock halves and the die is capped DROOP. -/
  | droopFallback (d : Nat)
  /-- `DROOP_RECOVER` (R393): after every detector stays above threshold for 1 µs the clock returns. -/
  | droopRecover (d : Nat)
  /-- `SENSOR_READ` (R395): an internal sensor read every 20 µs updates its reading and thermal actions. -/
  | sensorRead (i : Nat) (raw : Int) (bad : Bool)
  /-- `EXTERNAL_SENSOR_READ` (R396): an external input is read at its adaptive interval. -/
  | externalSensorRead (i : Nat) (raw : Int) (bad : Bool)
  /-- `THERMAL_STEP` (R398): every 100 µs or 1 ms a hot part's point steps down or recovers. -/
  | thermalStep (part : Nat)
  /-- `EXT_THROTTLE_STEP` (R398): every 1 ms or 10 ms the cap is lowered or restored for an external input at THROTTLE. -/
  | extThrottleStep (j : Nat)
  /-- `ALERT_RELEASE` (R398): after readings stay below thresholds for 1 ms, ALERT_N is released. -/
  | alertRelease
  /-- `IDLE_ENTER` (R399): after the dwell time the module enters the deepest allowed idle state. -/
  | idleEnter
  /-- `IDLE_WAKE` (R400): A wake event cancels an entry or starts exit from an idle state. -/
  | idleWake (cause : Nat)
  /-- `IDLE_WAKE_DONE` (R399): the idle state's work is restored and the module returns to I0. -/
  | idleWakeDone
  /-- `POWER_ON_ASSERT` (R406): VAON out of limits or no crystal holds the whole module in reset. -/
  | powerOnAssert
  /-- `POWER_ON_RELEASE` (R412): 10 ms after VAON is good the module starts up from the always-on domain. -/
  | powerOnRelease
  /-- `MRST_ASSERT` (R406): MRST_N low for 1 µs resets all but the always-on domain. -/
  | mrstAssert
  /-- `MRST_RELEASE` (R412): MRST_N rising starts the start-up sequence with the option record read. -/
  | mrstRelease
  /-- `HOT_RESET_ASSERT` (R406): theam hot reset signalling resets the hub, dies and stacks. -/
  | hotResetAssert
  /-- `HOT_RESET_RELEASE` (R412): end of hot-reset signalling releases the reached blocks through start-up. -/
  | hotResetRelease
  /-- `WATCHDOG_EXPIRY` (R406): an unserviced management watchdog resets management cores and callers. -/
  | watchdogExpiry
  /-- `WATCHDOG_RELEASE` (R469): 10 µs later contexts resume, steps encore and other in-flight packets restart. -/
  | watchdogRelease
  /-- `TRIP_LATCH_RELEASE` (R408): input removal or MRST_N low 10 ms releases the THERMTRIP_N latch. -/
  | tripLatchRelease
  /-- `SECURITY_VIOLATION` (R450): A violation asserts a wiping reset, journals it and destroys key material. -/
  | securityViolation (code : Nat)
  /-- `SECURITY_RESET_RELEASE` (R406): 10 ms after a violation the module is released into start-up. -/
  | securityResetRelease
  /-- `DEBUG_RESET` (R406): A debug-port request asserts a reset of the permitted reach. -/
  | debugReset (reach : Nat)
  /-- `SOFT_RESET` (R417): RST_SOFT GO resets and clears one set, stack, port or caller, or is refused. -/
  | softReset (kind die idx : Nat)
  /-- `SOFT_RESET_RELEASE` (R417): after the block's clear the block is released and DONE set. -/
  | softResetRelease
  /-- `REFCLK_FAIL` (R405): A reference absent or off for 20 µs resets the module or takes the fabric ports down. -/
  | refclkFail (core : Bool)
  /-- `REFCLK_RECOVER` (R405): A reference within limits for 1 ms ends the reset or retrains ports. -/
  | refclkRecover (core : Bool)
  /-- `FIRMWARE_VERIFY` (R412): the monitor verifies management firmware and releases the management cores or sets BOOT_FAIL. -/
  | firmwareVerify (okA okB chainOk : Bool)
  /-- `STACK_CLEAR_DONE` (R412): A stack's bank clear completes during start-up. -/
  | stackClearDone (n : Nat)
  /-- `DEEP_WIPE_DONE` (R412): A deep-tier package completes training and wipe. -/
  | deepWipeDone (q : Nat)
  /-- `FEAT_PUBLISH` (R412): management firmware applies the retirement log and publishes FEAT values. -/
  | featPublish
  /-- `READY` (R412): with clears, wipes and firmware done, READY is set and callers may fetch. -/
  | ready
  /-- `WIPE_TIMEOUT` (R416): A stack or package whose wipe overruns stays in reset as unpopulated. -/
  | wipeTimeout (deep : Bool) (n : Nat)
  /-- `ATTEST` (R430): the monitor produces signed evidence over a nonce with the chain. -/
  | attest
  /-- `CEILING_CONFIRM` (R424): A programmed ceiling entry is read back and raises CEIL. -/
  | ceilingConfirm (ok : Bool)
  /-- `BOTTOM_TREE_BUILT` (R425): A background bottom tree completes, is signed and written as the next state block. -/
  | bottomTreeBuilt
  /-- `NODE_CACHE_REBUILD` (R425): after reset the monitor rebuilds the subtree holding the next index. -/
  | nodeCacheRebuild
  /-- `LC_CHANGE` (R433): checks a forward life-cycle transition and posts OK or an error. -/
  | lcChange (sigOk : Bool)
  /-- `LC_TRANSITION_RESET` (R434): 10 ms after an accepted transition a reset blows and reads back the fuses. -/
  | lcTransitionReset (ok : Bool)
  /-- `DBG_AUTH` (R436): checks a debug token and grants a level, draws a new nonce, or locks out. -/
  | dbgAuth (sigOk : Bool)
  /-- `DBG_CLOSE` (R439): ends the debug session. -/
  | dbgClose
  /-- `DEBUG_SESSION_EXPIRY` (R439): DURATION_S expiry returns debug to CLOSED. -/
  | debugSessionExpiry
  /-- `DBG_LOCKOUT_EXPIRY` (R436): A debug authentication lockout ends. -/
  | dbgLockoutExpiry
  /-- `DEBUG_PORT_ACCESS` (R437): A debug-port register or memory access is served, waking or refused per level. -/
  | debugPortAccess (write : Bool) (wind off : Nat) (data : W64)
  /-- `CHAIN_WRITE` (R451): writes the certificate chain in PROVISIONED. -/
  | chainWrite (ok : Bool)
  /-- `FW_WRITE` (R446): programs the inactive image slot or overlay. -/
  | fwWrite (ok : Bool)
  /-- `FW_ACTIVATE` (R446): verifies the written slot, switches the directory or record and optionally raises SVN. -/
  | fwActivate (sigOk ok : Bool)
  /-- `FW_SWITCH_STEP` (R447): one caller, unit, port or block takes the activated image while the rest works. -/
  | fwSwitchStep (kind idx : Nat)
  /-- `CAL_RELOAD` (R442): reads and applies the valid calibration overlay, or refuses it. -/
  | calReload
  /-- `ENCORE_START` (R459): A failure in an open step stops further issue for the context and waits for in-flight work. -/
  | encoreStart (c : Nat)
  /-- `ENCORE_RERUN` (R459): after in-flight work and restores complete, the checkpoint reloads and logged packets reissue. -/
  | encoreRerun (c : Nat)
  /-- `I3C_SETDASA` (R489): the I3C target answers SETDASA at static address 0x4C. -/
  | i3cSetdasa (addr : Nat)
  /-- `I3C_PRIVATE_WRITE` (R489): A private write sets the offset and writes following bytes, reaching WATTS. -/
  | i3cPrivateWrite (bytes : List Byte)
  /-- `I3C_PRIVATE_READ` (R490): A private read returns successive target register bytes. -/
  | i3cPrivateRead (n : Nat)
  /-- `COLLECTIVE_ADMISSION_TIMEOUT` (R353): A collective that has waited its timeout for a member still in HANDSHAKE completes with ST_PEER_UNAUTH. -/
  | collectiveAdmissionTimeout (c id : Nat)
  /-- `SNOOP_RESPONSE` (R371): the companion's answer to a snoop or back-invalidation arrives, with or without written-back data, and the waiting device access proceeds. -/
  | snoopResponse (data : Option (List Byte))
  /-- `PLL_LOCK` (R407): A domain's PLL locks and, 16 cycles later, the domain is released, for the hub resetting the serving counter and incrementing RST_HUB_EPOCH. -/
  | pllLock (domain : Nat)
  /-- `RAIL_POWER_GOOD_TIMEOUT` (R412): A rail enabled in start-up that is not power-good within 2 ms is treated as a power fault. -/
  | railPowerGoodTimeout (r : Nat)
  /-- `DEBUG_RESET_RELEASE` (R406): A debug reset is released as its request states, and the reached blocks go through start-up. -/
  | debugResetRelease
  /-- `MGMT_MEMORY_UNCORRECTABLE` (R469): an uncorrectable word in management-core memory forces the management watchdog reset. -/
  | mgmtMemoryUncorrectable (core : Nat)
  deriving DecidableEq, Repr

end Sys2Proof
end

