-- ==== Sys2Proof/Decode.lean ====
section
/-!
DEFINITION. Decoding by the opcode table's bits. No row of this block's table has bits: its commands are accesses, events and
frames, which come to it as such. Packets are decoded where the caller validates them (Machine/Validate.lean).
-/
namespace Sys2Proof

/-- The command that a word spells by the table's bits: none, for no row gives bits. -/
def decodeTableWord (_nbits _w : Nat) : Option Instr := none

end Sys2Proof
end

