-- ==== Sys2Proof/Machine/Bits.lean ====
section
/-!
DEFINITION. Bit fields, byte order and signed readings (R4: bit 0 is the least significant bit, every multi-byte field is
little-endian). Fields are read as natural numbers.
-/
namespace Sys2Proof.Machine

/-- Bits [hi:lo] of a number. -/
def bits (w : Nat) (hi lo : Nat) : Nat := (w >>> lo) % 2 ^ (hi + 1 - lo)

/-- Bit i of a number. -/
def bit (w i : Nat) : Bool := w.testBit i

/-- A number with bits [hi:lo] replaced by v (v is cut to the field). -/
def setBits (w : Nat) (hi lo v : Nat) : Nat :=
  let n := 2 ^ (hi + 1 - lo)
  w - ((w >>> lo) % n) <<< lo + (v % n) <<< lo

/-- A truth value as a bit. -/
def b2n (b : Bool) : Nat := if b then 1 else 0

/-- The mask of bits [hi:lo]. -/
def maskOf (hi lo : Nat) : Nat := (2 ^ (hi + 1 - lo) - 1) <<< lo

/-- The number of set bits among bits 0 to n - 1. -/
def popcount : (n w : Nat) → Nat
  | 0, _ => 0
  | n + 1, w => popcount n w + b2n (w.testBit n)

/-- The lowest set bit among bits 0 to n - 1, or 0. -/
def lowestBit (n w : Nat) : Nat := ((List.range n).find? (fun i => w.testBit i)).getD 0

/-- The set bits among bits 0 to n - 1, ascending. -/
def bitList (n w : Nat) : List Nat := (List.range n).filter (fun i => w.testBit i)

/-- The signed reading of the low n bits. -/
def signed (n w : Nat) : Int :=
  let v := w % 2 ^ n
  if v < 2 ^ (n - 1) then (v : Int) else (v : Int) - (2 ^ n : Nat)

/-- An integer modulo 2^n, as a natural number (two's complement). -/
def wrap (n : Nat) (i : Int) : Nat := (i % ((2 ^ n : Nat) : Int)).toNat

/-- A number as n bytes, little-endian (R4). -/
def toBytes : (n w : Nat) → List Byte
  | 0, _ => []
  | n + 1, w => BitVec.ofNat 8 w :: toBytes n (w / 256)

/-- Bytes read as a little-endian number (R4). -/
def ofBytes : List Byte → Nat
  | [] => 0
  | b :: bs => b.toNat + 256 * ofBytes bs

/-- The 64-bit word at byte offset 8 * i of a byte list. -/
def wordAt (bs : List Byte) (i : Nat) : Nat := ofBytes ((bs.drop (8 * i)).take 8)

/-- n words of 8 bytes. -/
def wordsOf (bs : List Byte) (n : Nat) : List Nat := (List.range n).map (wordAt bs)

/-- Division rounding up. -/
def ceilDiv (a b : Nat) : Nat := (a + b - 1) / b

/-- A counter that saturates at its n-bit ceiling. -/
def satAdd (n v d : Nat) : Nat := min (v + d) (2 ^ n - 1)

/-- Element i of a list of numbers, 0 beyond its end. -/
def nth (l : List Nat) (i : Nat) : Nat := l.getD i 0

/-- An element put into a list before the first that it may stand before. -/
def putBefore {α : Type} (le : α → α → Bool) (x : α) : List α → List α
  | [] => [x]
  | y :: ys => if le x y then x :: y :: ys else y :: putBefore le x ys

/-- A list sorted, equal elements in their order. -/
def sortBy {α : Type} (le : α → α → Bool) (l : List α) : List α := l.foldr (putBefore le) []

end Sys2Proof.Machine
end

