-- ==== Sys2Proof/Machine/Hash.lean ====
section
/-!
DEFINITION. SipHash-2-4 as published by its authors (R272, PRESUMED, log entry 24) and the CRC-32 of the model's records
(R210, R441).
-/
namespace Sys2Proof.Machine

/-- The four words of a SipHash state. -/
structure Sip where
  v0 : W64
  v1 : W64
  v2 : W64
  v3 : W64
  deriving DecidableEq, Repr

/-- One SipRound. -/
def Sip.round (s : Sip) : Sip :=
  let v0 := s.v0 + s.v1
  let v1 := s.v1.rotateLeft 13 ^^^ v0
  let v0 := v0.rotateLeft 32
  let v2 := s.v2 + s.v3
  let v3 := s.v3.rotateLeft 16 ^^^ v2
  let v0 := v0 + v3
  let v3 := v3.rotateLeft 21 ^^^ v0
  let v2 := v2 + v1
  let v1 := v1.rotateLeft 17 ^^^ v2
  let v2 := v2.rotateLeft 32
  ⟨v0, v1, v2, v3⟩

/-- One word of the message. -/
def Sip.absorb (s : Sip) (m : W64) : Sip :=
  let t := ({ s with v3 := s.v3 ^^^ m } : Sip).round.round
  { t with v0 := t.v0 ^^^ m }

/-- SipHash-2-4 of a message under a key (bytes 0 to 7 of the key in k0). -/
def sipHash (k0 k1 : Nat) (msg : List Byte) : Nat :=
  let a : W64 := BitVec.ofNat 64 k0
  let b : W64 := BitVec.ofNat 64 k1
  let s : Sip := ⟨a ^^^ 0x736f6d6570736575, b ^^^ 0x646f72616e646f6d, a ^^^ 0x6c7967656e657261, b ^^^ 0x7465646279746573⟩
  let n := msg.length / 8
  let last := ofBytes (msg.drop (8 * n)) + msg.length % 256 * 2 ^ 56
  let s := ((wordsOf msg n) ++ [last]).foldl (fun s m => s.absorb (BitVec.ofNat 64 m)) s
  let s : Sip := ({ s with v2 := s.v2 ^^^ 0xFF } : Sip).round.round.round.round
  (s.v0 ^^^ s.v1 ^^^ s.v2 ^^^ s.v3).toNat

/-- One bit of a reflected CRC. -/
def crcBit (poly c : Nat) : Nat := if c % 2 = 1 then (c / 2) ^^^ poly else c / 2

/-- One byte of a reflected CRC. -/
def crcByte (poly c : Nat) (b : Byte) : Nat :=
  let x := c ^^^ b.toNat
  crcBit poly (crcBit poly (crcBit poly (crcBit poly (crcBit poly (crcBit poly (crcBit poly (crcBit poly x)))))))

/-- CRC-32 of IEEE 802.3: polynomial 0x04C11DB7, reflected, start and final value all ones. -/
def crc32 (bs : List Byte) : Nat := bs.foldl (crcByte 0xEDB88320) 0xFFFFFFFF ^^^ 0xFFFFFFFF

end Sys2Proof.Machine
end

