-- ==== Sys2Proof/Machine/Crypto.lean ====
section
/-!
DEFINITION. The cryptographic standards the spec names: SHA-256, HMAC and HKDF-SHA-256 (R350), AES-256-GCM (R339, R350). Their definitions are those of the standards (log entry 24).
-/
namespace Sys2Proof.Machine

/-- Bytes read as a big-endian number. -/
def ofBytesBE (bs : List Byte) : Nat := bs.foldl (fun a b => a * 256 + b.toNat) 0

/-- A number as n bytes, big-endian. -/
def toBytesBE (n w : Nat) : List Byte := (toBytes n w).reverse

/-- A list cut into pieces of n. -/
def piecesOf {α : Type} (n : Nat) (xs : List α) : List (List α) :=
  (List.range (ceilDiv xs.length n)).map fun i => (xs.drop (n * i)).take n

/-! ### SHA-256 (FIPS 180-4) -/

/-- The whole part of the e-th root of n, below 2^36: its bits from the highest down, each kept while the power stays within n. -/
def rootOf (e n : Nat) : Nat :=
  (List.range 36).foldl (fun r i => let r' := r + 2 ^ (35 - i); if r' ^ e ≤ n then r' else r) 0

/-- The primes below 312, the first 64: every other number there has a prime divisor up to 17. -/
def shaPrimes : List Nat :=
  ((List.range 312).drop 2).filter fun n => [2, 3, 5, 7, 11, 13, 17].all fun d => n == d || n % d != 0

/-- The first 32 bits of the fraction of the e-th root of a prime. -/
def rootFraction (e p : Nat) : Nat := rootOf e (p * 2 ^ (32 * e)) % 2 ^ 32

/-- The round constants: of the cube roots of the first 64 primes. -/
def shaK : List Nat := shaPrimes.map (rootFraction 3)

/-- The initial hash value: of the square roots of the first eight. -/
def shaInit : List Nat := (shaPrimes.take 8).map (rootFraction 2)

def rotr (n x : Nat) : Nat := x >>> n ||| x <<< (32 - n) % 2 ^ 32

def wadd32 (a b : Nat) : Nat := (a + b) % 2 ^ 32

/-- The message schedule extended by n words, newest first. -/
def shaSchedule : (n : Nat) → List Nat → List Nat
  | 0, ws => ws
  | n + 1, ws =>
    let a := nth ws 14
    let b := nth ws 1
    let s0 := rotr 7 a ^^^ rotr 18 a ^^^ a >>> 3
    let s1 := rotr 17 b ^^^ rotr 19 b ^^^ b >>> 10
    shaSchedule n ((nth ws 15 + s0 + nth ws 6 + s1) % 2 ^ 32 :: ws)

/-- One round on the eight working words. -/
def shaRound (v : List Nat) (kw : Nat) : List Nat :=
  let e := nth v 4
  let a := nth v 0
  let ch := (e &&& nth v 5) ^^^ ((2 ^ 32 - 1 - e) &&& nth v 6)
  let t1 := nth v 7 + (rotr 6 e ^^^ rotr 11 e ^^^ rotr 25 e) + ch + kw
  let maj := (a &&& nth v 1) ^^^ (a &&& nth v 2) ^^^ (nth v 1 &&& nth v 2)
  let t2 := (rotr 2 a ^^^ rotr 13 a ^^^ rotr 22 a) + maj
  [(t1 + t2) % 2 ^ 32, a, nth v 1, nth v 2, (nth v 3 + t1) % 2 ^ 32, e, nth v 5, nth v 6]

/-- One block of 64 bytes. -/
def shaBlock (h : List Nat) (block : List Byte) : List Nat :=
  let w := (shaSchedule 48 ((List.range 16).map fun i => ofBytesBE ((block.drop (4 * i)).take 4)).reverse).reverse
  List.zipWith wadd32 h ((List.zipWith (· + ·) shaK w).foldl shaRound h)

/-- SHA-256. -/
def sha256 (m : List Byte) : List Byte :=
  let pad := (119 - m.length % 64) % 64
  let padded := m ++ [0x80] ++ List.replicate pad 0 ++ toBytesBE 8 (8 * m.length)
  ((piecesOf 64 padded).foldl shaBlock shaInit).flatMap (toBytesBE 4)

/-- HMAC-SHA-256 (RFC 2104). -/
def hmac (key m : List Byte) : List Byte :=
  let k0 := if 64 < key.length then sha256 key else key
  let k := k0 ++ List.replicate (64 - k0.length) 0
  sha256 (k.map (· ^^^ 0x5C) ++ sha256 (k.map (· ^^^ 0x36) ++ m))

/-- HKDF-SHA-256 with an output of 32 bytes (RFC 5869). -/
def hkdf (salt ikm info : List Byte) : List Byte := hmac (hmac salt ikm) (info ++ [1])

/-! ### AES-256 (FIPS 197) -/

/-- Multiplication by x in GF(2^8). -/
def xtime (a : Nat) : Nat := if a < 128 then 2 * a else (2 * a - 256) ^^^ 0x1B

def gmulBits : (n a b : Nat) → Nat
  | 0, _, _ => 0
  | n + 1, a, b => (if b % 2 = 1 then a else 0) ^^^ gmulBits n (xtime a) (b / 2)

/-- Multiplication in GF(2^8). -/
def gmul (a b : Nat) : Nat := gmulBits 8 a b

/-- The inverse in GF(2^8), as the power 254. -/
def ginv (a : Nat) : Nat :=
  let a2 := gmul a a
  let a4 := gmul a2 a2
  let a8 := gmul a4 a4
  let a16 := gmul a8 a8
  let a32 := gmul a16 a16
  let a64 := gmul a32 a32
  gmul (gmul a64 a64) (gmul a64 (gmul a32 (gmul a16 (gmul a8 (gmul a4 a2)))))

def rotl8 (n x : Nat) : Nat := (x <<< n ||| x >>> (8 - n)) % 256

/-- The S-box. -/
def sbox (a : Nat) : Nat :=
  let i := ginv a
  i ^^^ rotl8 1 i ^^^ rotl8 2 i ^^^ rotl8 3 i ^^^ rotl8 4 i ^^^ 0x63

/-- The key schedule continued by n words of four bytes, newest first; i is the number of the next word. -/
def aesSchedule : (n i rcon : Nat) → List (List Nat) → List (List Nat)
  | 0, _, _, ws => ws
  | n + 1, i, rcon, ws =>
    let t := ws.getD 0 []
    let u := if i % 8 = 0 then List.zipWith (· ^^^ ·) ((t.drop 1 ++ t.take 1).map sbox) [rcon, 0, 0, 0]
      else if i % 8 = 4 then t.map sbox else t
    aesSchedule n (i + 1) (if i % 8 = 0 then xtime rcon else rcon) (List.zipWith (· ^^^ ·) (ws.getD 7 []) u :: ws)

/-- The fifteen round keys of a 32-byte key. -/
def aesKeys (key : List Byte) : List (List Nat) :=
  let ws := (piecesOf 4 (key.map BitVec.toNat)).reverse
  (piecesOf 4 (aesSchedule 52 8 1 ws).reverse).map List.flatten

def shiftRows (s : List Nat) : List Nat := (List.range 16).map fun i => nth s ((i + 4 * (i % 4)) % 16)

def mixColumn (c : List Nat) : List Nat :=
  (List.range 4).map fun i => gmul 2 (nth c i) ^^^ gmul 3 (nth c ((i + 1) % 4)) ^^^ nth c ((i + 2) % 4) ^^^ nth c ((i + 3) % 4)

def mixColumns (s : List Nat) : List Nat := (piecesOf 4 s).flatMap mixColumn

def addKey (s k : List Nat) : List Nat := List.zipWith (· ^^^ ·) s k

/-- One block of 16 bytes enciphered. -/
def aesBlock (keys : List (List Nat)) (block : List Nat) : List Nat :=
  let s := ((keys.drop 1).take 13).foldl (fun s k => addKey (mixColumns (shiftRows (s.map sbox))) k)
    (addKey block (keys.getD 0 []))
  addKey (shiftRows (s.map sbox)) (keys.getD 14 [])

/-! ### GCM (SP 800-38D) -/

/-- The product in GF(2^128), bit 127 of the number the coefficient of x^0. -/
def ghashMul : (n x v z : Nat) → Nat
  | 0, _, _, z => z
  | n + 1, x, v, z =>
    ghashMul n x (if v % 2 = 1 then v / 2 ^^^ 0xE1 <<< 120 else v / 2) (if bit x n then z ^^^ v else z)

def padded16 (bs : List Byte) : List Byte := bs ++ List.replicate ((16 - bs.length % 16) % 16) 0

/-- GHASH of the additional data and the ciphertext. -/
def ghash (h : Nat) (aad ct : List Byte) : Nat :=
  (piecesOf 16 (padded16 aad ++ padded16 ct ++ toBytesBE 8 (8 * aad.length) ++ toBytesBE 8 (8 * ct.length))).foldl
    (fun y b => ghashMul 128 (y ^^^ ofBytesBE b) h 0) 0

/-- The key stream block of counter i. -/
def ctrBlock (keys : List (List Nat)) (nonce : List Byte) (i : Nat) : List Byte :=
  (aesBlock keys ((nonce ++ toBytesBE 4 i).map BitVec.toNat)).map (BitVec.ofNat 8)

/-- The text enciphered or deciphered in counter mode. -/
def gcmCrypt (key nonce text : List Byte) : List Byte :=
  let keys := aesKeys key
  (List.range (ceilDiv text.length 16)).flatMap fun i =>
    List.zipWith (· ^^^ ·) ((text.drop (16 * i)).take 16) (ctrBlock keys nonce (i + 2))

/-- The tag over additional data and ciphertext. -/
def gcmTag (key nonce aad ct : List Byte) : List Byte :=
  let keys := aesKeys key
  let h := ofBytesBE ((aesBlock keys (List.replicate 16 0)).map (BitVec.ofNat 8))
  List.zipWith (· ^^^ ·) (toBytesBE 16 (ghash h aad ct)) (ctrBlock keys nonce 1)

end Sys2Proof.Machine
end

