-- ==== Sys2Proof/Config.lean ====
section
/-!
DEFINITION. What the spec leaves open: free values (no body, so no proof can see what they are) and functions the spec
leaves to the implementation. Each is named in the assumption log.
-/
namespace Sys2Proof

/-- A free value, by its number (log entry 8): random words, results the spec calls undefined, old or new content. -/
opaque Config.free : Nat → W64

/-- Which of two allowed outcomes stands, by the number of the free value (log entry 8). -/
def Config.freeBit (n : Nat) : Bool := (Config.free n).getLsbD 0

/-- What a count of a set's or core's work rises by for one packet, by the number of the free value, the count and the set and
core (R105, R106, R155, R167; log entry 63). -/
opaque Config.work : (n count set core : Nat) → Nat

/-- What a packet leaves in the core SRAM of a set and in the part of the set buffer that is the set controller's, as words by
their place (R82, R87; log entry 64). -/
opaque Config.leftover : Nat → List (Nat × W64)

/-! Results the spec names and does not state, as functions of the operands (R20; log entry 20). FP32 values are codes. -/

/-- What LayerNorm squares of an element, from the row's sum, its length and the element (R61, R83). -/
opaque Config.layerTerm : (sum : W32) → (n : Nat) → (x : W32) → W32

/-- An element after LayerNorm, from epsilon, the row's sum, its sum of squares, its length, the element and its gain (R61,
R83). -/
opaque Config.layerNorm : (eps sum squares : W32) → (n : Nat) → (x gain : W32) → W32

/-- The rank of expert e among equal or unordered logits of a row (R61). -/
opaque Config.routeTie : (row : List W32) → (e : Nat) → Nat

/-- The rank of a chosen expert in the order MOE_ROUTE writes the chosen ones (R61). -/
opaque Config.routeOrder : (row : List W32) → (k e : Nat) → Nat

/-- The routing weight of expert e, one of the k chosen of a row (R61). -/
opaque Config.routeWeight : (row : List W32) → (k e : Nat) → W32

/-! What the spec leaves to cryptography, the fabric and the implementation (log entry 7). -/

/-- Byte i of what is hashed in the identity key's signature at an index over a message: C and y, then the path (R421,
R422). -/
opaque Config.signature : (index : Nat) → (message : List Byte) → (i : Nat) → Byte

/-- The same of the top-level signature over bottom tree q0, and byte i of that tree's identifier and root (R421, R422). -/
opaque Config.topSignature : (q0 i : Nat) → Byte
opaque Config.bottomTree : (q0 i : Nat) → Byte

/-- Byte i of the top-level root of the identity key with an identifier (R421). -/
opaque Config.identityRoot : (idI : List Byte) → (i : Nat) → Byte

/-- Byte i of the ML-KEM-1024 encapsulation key, and of a ciphertext for a key, by the number of the free value (R349). -/
opaque Config.kemKey : (n i : Nat) → Byte
opaque Config.kemCipher : (n : Nat) → (key : List Byte) → (i : Nat) → Byte

/-- Byte i of the secret a ciphertext carries (R349). -/
opaque Config.kemSecret : (cipher : List Byte) → (i : Nat) → Byte

/-- The flow hash of a pair of nodes (R339). -/
opaque Config.flowHash : (src dst : Nat) → Nat

/-- The power in mW that the controller predicts for a consumer at a point, from the tick's measurements (R387). -/
opaque Config.powerModel : (draws : List Nat) → (consumer point : Nat) → Nat

/-- The factory VCORE voltage of a die at a point, in mV (R440). -/
opaque Config.dieVoltage : (die point : Nat) → Nat

/-- One step of the fabric injection's maximal-length LFSR (R361). -/
opaque Config.lfsr : W32 → W32

end Sys2Proof
end

