-- ==== Sys2Proof/Machine/Map.lean ====
section
/-!
DEFINITION. Sparse tables in one canonical form: a list of key and value pairs, keys strictly rising, no entry equal to
what an unlisted key reads as. Equal tables are then equal lists.
-/
namespace Sys2Proof.Machine

/-- The value a key reads as; `d` gives what an unlisted key reads as. -/
def Map.get {κ α : Type} [DecidableEq κ] (d : κ → α) : List (κ × α) → κ → α
  | [], k => d k
  | e :: l, k => if e.1 = k then e.2 else Map.get d l k

/-- A table without a key's entry. -/
def Map.erase {κ α : Type} [DecidableEq κ] (l : List (κ × α)) (k : κ) : List (κ × α) :=
  l.filter (fun e => !decide (e.1 = k))

/-- A table with an entry put before the first entry of a larger key. -/
def Map.insert {κ α : Type} (lt : κ → κ → Bool) (k : κ) (v : α) : List (κ × α) → List (κ × α)
  | [] => [(k, v)]
  | e :: l => if lt k e.1 then (k, v) :: e :: l else e :: Map.insert lt k v l

/-- A table with a key's value set, in canonical form: the value an unlisted key reads as removes the entry. -/
def Map.put {κ α : Type} [DecidableEq κ] [DecidableEq α] (d : κ → α) (lt : κ → κ → Bool) (l : List (κ × α))
    (k : κ) (v : α) : List (κ × α) :=
  if v = d k then Map.erase l k else Map.insert lt k v (Map.erase l k)

/-- The canonical form: keys strictly rising, no entry equal to what an unlisted key reads as. -/
def Map.wf {κ α : Type} [DecidableEq α] (d : κ → α) (lt : κ → κ → Bool) : List (κ × α) → Bool
  | [] => true
  | e :: l => l.all (fun f => lt e.1 f.1) && !decide (e.2 = d e.1) && Map.wf d lt l

/-- The order of numbers as keys. -/
def natLt (a b : Nat) : Bool := decide (a < b)

/-- A table keyed by numbers whose unlisted keys all read as `default`. -/
abbrev Tab (α : Type) := List (Nat × α)

/-- The value of a table of numbers at a key. -/
def Tab.get {α : Type} (d : α) (l : Tab α) (k : Nat) : α := Map.get (fun _ => d) l k

/-- A table of numbers with one value set. -/
def Tab.put {α : Type} [DecidableEq α] (d : α) (l : Tab α) (k : Nat) (v : α) : Tab α :=
  Map.put (fun _ => d) natLt l k v

end Sys2Proof.Machine
end

