-- ==== Sys2Proof/Machine/Regs.lean ====
section
/-!
DEFINITION. The register map: one name per register of the register window (R367), with its base offset, its index
strides, its width, which of its bits have which access type (R6, R7), and its reset value; and one named field per
field of the spec's register tables. Reset values the spec does not give are in notes/assumptions/2.md.
-/
namespace Sys2Proof.Machine

/-- Every register of the register window (R367), by the spec's name. -/
inductive RegName where
  | hbRegErr | featVersion | featCores | featSets | featArray | featFormats | featStacks | featStackBytes
  | featDeepBytes | featGalliard | featQueues | featQueueDepth | featScalars | featSeq | featDenseAttn
  | featSparse | featServing | featAdapters | featVocab | featMoe | featPartitions | featFabric | featClock
  | featOpcodes | featGen | hbSplitCfg | hbSplitFallback | hbParityCmd | hbParityStatus | hbEngineRate
  | hbParityRebuilds | hbParityDouble | hbParityMap | hbAttnNearSeqs | hbAttnCoreSeqs | hbAttnJoins
  | hbKvPagesOpened | hbKvPagesReleased | hbKvPagesMoved | hbErrBase | hbErrCfg | hbErrPtr | hbEncoreCfg
  | hbRestoreBase | hbErrLost | hbEncores | hbEncoreRecovered | hbEncoreExhausted | hbReplayMarks
  | hbPartRetries | hbPartExhausted | hbParityRestores | pwrCfg | pwrCap | pwrStatus | pwrInput | pwrIdleCfg
  | pwrDie | pwrCapRail | pwrRail | pwrHalfSteps | pwrDroops | pwrFallbacks | pwrCappedUs | pwrCueHits
  | pwrCueMisses | pwrEvenBroken | pwrIdleUs | tmpSense | tmpExtLim | tmpTripCause | rstStatus | rstCause
  | rstHubEpoch | rstSoft | rstSoftStatus | rstGpio | rstWdogCount | rstIsoErrors | rstOptRecord | secLc
  | secCmd | secCmdStatus | secIdDigest | secSigNext | secSigCeil | secSigCount | secDbgStatus | secDbgNonce
  | secFw | secCal | secDbgFails | secDigest | secStage | schCfg | schStatus | schCardFrame | schCardCommit
  | schCardStatus | schCardPos | schSlot | schInval | schInvalStatus | schFaultBase | schFaultCfg
  | schFaultPtr | schFaultResolve | schPartCfg | schPartAlloc0 | schPartAlloc1 | schPartQuota | schPartShare
  | schPartRoot | schPartWin | schPartCtrl | schPartState | schPartCommit | schPartStatus | schPartDebtUs
  | schPartOverruns | schPartMaxOverrunUs | schPartLostUs | schPartSwitches | schPartFaults
  | schPartHardSwaps | schCtxCfg | schCtxSets0 | schCtxSets1 | schCtxSave | schCtxSpill | schCtxState
  | schCtxSince | srvStatus | srvLedgerBase | srvCounter | srvCancel | srvReqSel | srvDegenerate
  | srvAdapterSel | srvAdapterData0 | srvAdapterData1 | srvReqData | srvMissTtft | srvMissTbt | srvTokens
  | srvCancels | srvTenant | srvPfxCfg | srvPfxKeySel | srvPfxKeyLo | srvPfxKeyHi | srvPfxKeyCtrl
  | srvPfxKeyStatus | srvPfxLookups | srvPfxHits | srvPfxInserts | srvPfxEvicts | srvPfxBase | srvPfxCommit
  | srvPfxStatus | clrCtxCfg | clrCtxStatus | clrSqBase | clrSqCfg | clrSqDb | clrSqStatus | clrSqCtrl
  | clrSqSeq | clrCqBase | clrCqCfg | clrCqDb | clrCqStatus | clrCqStall | clrS | clrPred | clrEvent
  | clrEncBase | clrEncCfg | fabPortCtrl | fabPortStatus | fabPortMac | fabPortGwMac | fabInjCtrl
  | fabInjSeed | fabTxFrames | fabRxFrames | fabFecCorrected | fabFecUncorrected | fabRxBadFcs | fabRxForeign
  | fabRxUnknown | fabRxUnauth | fabRxReplay | fabRxTag | fabRxDup | fabRxCe | fabTxRetrans | fabInjFrames
  | fabNode | fabNodeIpLo | fabNodeIpHi | fabCfg | fabCc | fabPeerBase | fabPeerCtrl | reelGroupBase
  | reelGroupCtrl | reelGroupStatus | fabStatus | fabReg | fabRegCommit | fabRegStatus | fabRegGranules
  | fabRegThrottled | reelCollectives | reelCappedEvents | reelMismatch | reelHandshakes | reelHandshakeFail
  | fabPeerState | reelGroupState | thmLinkStatus | thmLinkCtrl | thmRegBase | thmMemBase | thmSync
  | thmTimePair | thmVecMask | thmVecPend | thmReplays | thmRefused | thmSnoopTimeouts | thmBackinv
  | dtMapDead | dtMapCapacity | dtMapCommit | dtMapStatus | dtMapoutCfg | dtMapoutProgress | dtArbCfg | dtReg
  | dtRegCommit | dtRegStatus | dtRegGranules | dtRegThrottled | dtChState | dtChCe | dtChUe | dtChMergeRmw
  | dtScrubCfg | dtScrubStatus | dtScrubAlarmUs | dtScrubLapStart | dtScrubLastLapUs | dtFlip | dtFlipCtrl
  | dtFlipHit | stkMapDead | stkMapCapacity | stkMapCommit | stkMapStatus | stkMapoutCfg | stkMapoutProgress
  | stkArbCfg | stkReg | stkRegCommit | stkRegStatus | stkRegGranules | stkRegThrottled | stkChState
  | stkChCe | stkChUe | stkChMergeRmw | stkScrubCfg | stkScrubStatus | stkScrubAlarmUs | stkScrubLapStart
  | stkScrubLastLapUs | stkFlip | stkFlipCtrl | stkFlipHit | galCfg | galPromBytes | galPromWait
  | galFlushViol | galWindowRefused | galUnitState | galUnitCtrl | galUnitBusyCycles | galUnitMacs
  | galUnitRdBytes | galUnitWrBytes | galUnitYields | galUnitCommands | galUnitReexec | galUnitEntries | cdId
  | cdSetsInService | cdStrikeCfg | cdPerfCtrl | cdMeshStatus | cdMeshRetries | cdArrayCfg | cdArrayInject
  | cdArraySat | cdArrayNan | cdDmaOobElems | cdDmaIdxHits | cdDmaTlbMisses | cdDmaTurnBlocks | cdSetStatus
  | cdSetCtrl | cdSpareMap | cdSetOwner | cdSetTiles | cdSetReexecTiles | cdSetFigures | cdSetSbufRdBytes
  | cdSetSbufWrBytes | cdSetMeshInBytes | cdSetMeshOutBytes | cdSetBarrierCycles | cdSetSaves | cdCoreStatus
  | cdCoreBusyCycles | cdCoreArrayCycles | cdCoreMacCells | cdCoreFreezeFeed | cdCoreFreezeDrain
  | cdCoreBypassCycles | cdCoreVectorCycles | cdCoreSramConflict | cdCoreSramCe | cdCoreDmaBytes
  | cdCoreChecksumFail
  deriving DecidableEq, Repr

/-- What the spec's tables say of one register: its offset in the window, the (stride, count) of each index, its width,
the masks of its RW or RWL bits, W1C bits, WO bits and RO bits, and its reset value (R6, R7). -/
structure RegSpec where
  base  : Nat
  dims  : List (Nat × Nat)
  width : Nat
  rw    : Nat
  w1c   : Nat
  wo    : Nat
  ro    : Nat
  reset : Nat
  deriving DecidableEq, Repr

/-- The register table. -/
def RegName.spec : RegName → RegSpec
  | .hbRegErr => ⟨0x100, [], 32, 0x0, 0x3, 0x0, 0x0, 0x0⟩ -- R379
  | .featVersion => ⟨0x1000, [], 32, 0x0, 0x0, 0x0, 0xffffffff, 0x10000⟩ -- R76
  | .featCores => ⟨0x1008, [], 32, 0x0, 0x0, 0x0, 0xffffffff, 0x2800⟩ -- R76
  | .featSets => ⟨0x1010, [], 32, 0x0, 0x0, 0x0, 0xffffffff, 0x2828⟩ -- R76
  | .featArray => ⟨0x1018, [], 32, 0x0, 0x0, 0x0, 0xffffffff, 0x1001010⟩ -- R76
  | .featFormats => ⟨0x1020, [], 32, 0x0, 0x0, 0x0, 0xffffffff, 0x1fff⟩ -- R76
  | .featStacks => ⟨0x1028, [], 32, 0x0, 0x0, 0x0, 0xffffffff, 0xfff⟩ -- R76
  | .featStackBytes => ⟨0x1030, [], 64, 0x0, 0x0, 0x0, 0xffffffffffffffff, 0xc000000000⟩ -- R76
  | .featDeepBytes => ⟨0x1038, [], 64, 0x0, 0x0, 0x0, 0xffffffffffffffff, 0x10000000000⟩ -- R76
  | .featGalliard => ⟨0x1040, [], 32, 0x0, 0x0, 0x0, 0xffffffff, 0x180⟩ -- R76
  | .featQueues => ⟨0x1048, [], 32, 0x0, 0x0, 0x0, 0xffffffff, 0x4080100⟩ -- R76
  | .featQueueDepth => ⟨0x1050, [], 32, 0x0, 0x0, 0x0, 0xffffffff, 0x1000⟩ -- R76
  | .featScalars => ⟨0x1058, [], 32, 0x0, 0x0, 0x0, 0xffffffff, 0x4400840⟩ -- R76
  | .featSeq => ⟨0x1060, [], 32, 0x0, 0x0, 0x0, 0xffffffff, 0x200000⟩ -- R76
  | .featDenseAttn => ⟨0x1068, [], 32, 0x0, 0x0, 0x0, 0xffffffff, 0x40000⟩ -- R76
  | .featSparse => ⟨0x1070, [], 64, 0x0, 0x0, 0x0, 0xffffffffffffffff, 0x1000000004000⟩ -- R76
  | .featServing => ⟨0x1078, [], 32, 0x0, 0x0, 0x0, 0xffffffff, 0x10002000⟩ -- R76
  | .featAdapters => ⟨0x1080, [], 32, 0x0, 0x0, 0x0, 0xffffffff, 0x801000⟩ -- R76
  | .featVocab => ⟨0x1088, [], 64, 0x0, 0x0, 0x0, 0xffffffffffffffff, 0x40000040000⟩ -- R76
  | .featMoe => ⟨0x1090, [], 32, 0x0, 0x0, 0x0, 0xffffffff, 0x80100⟩ -- R76
  | .featPartitions => ⟨0x1098, [], 32, 0x0, 0x0, 0x0, 0xffffffff, 0x10⟩ -- R76
  | .featFabric => ⟨0x10a0, [], 64, 0x0, 0x0, 0x0, 0xffffffffffffffff, 0xffffffffffff⟩ -- R76
  | .featClock => ⟨0x10a8, [], 32, 0x0, 0x0, 0x0, 0xffffffff, 0x3e80352⟩ -- R76
  | .featOpcodes => ⟨0x10b0, [(0x8, 4)], 64, 0x0, 0x0, 0x0, 0xffffffffffffffff, 0x0⟩ -- R76
  | .featGen => ⟨0x10f8, [], 64, 0x0, 0x0, 0x0, 0xffffffffffffffff, 0x0⟩ -- R76
  | .hbSplitCfg => ⟨0x2000, [], 32, 0x1f000f, 0x0, 0x0, 0x0, 0x100004⟩ -- R19
  | .hbSplitFallback => ⟨0x2008, [], 32, 0x0, 0x0, 0x0, 0xffffffff, 0x0⟩ -- R29
  | .hbParityCmd => ⟨0x3000, [], 64, 0x40007fff00007fff, 0x0, 0x8000000000000000, 0x0, 0x0⟩ -- R205
  | .hbParityStatus => ⟨0x3008, [], 32, 0x0, 0x60000000, 0x0, 0x80007fff, 0x0⟩ -- R205
  | .hbEngineRate => ⟨0x3010, [], 32, 0xffff, 0x0, 0x0, 0x0, 0x2000⟩ -- R205
  | .hbParityRebuilds => ⟨0x3018, [], 64, 0x0, 0x0, 0x0, 0xffffffffffffffff, 0x0⟩ -- R195
  | .hbParityDouble => ⟨0x3020, [], 64, 0x0, 0x0, 0x0, 0xffffffffffffffff, 0x0⟩ -- R196
  | .hbParityMap => ⟨0x3400, [(0x8, 384)], 64, 0x0, 0x0, 0x0, 0xffffffffffffffff, 0x0⟩ -- R193
  | .hbAttnNearSeqs => ⟨0x4000, [], 64, 0x0, 0x0, 0x0, 0xffffffffffffffff, 0x0⟩ -- R278
  | .hbAttnCoreSeqs => ⟨0x4008, [], 64, 0x0, 0x0, 0x0, 0xffffffffffffffff, 0x0⟩ -- R278
  | .hbAttnJoins => ⟨0x4010, [], 64, 0x0, 0x0, 0x0, 0xffffffffffffffff, 0x0⟩ -- R278
  | .hbKvPagesOpened => ⟨0x4018, [], 64, 0x0, 0x0, 0x0, 0xffffffffffffffff, 0x0⟩ -- R278
  | .hbKvPagesReleased => ⟨0x4020, [], 64, 0x0, 0x0, 0x0, 0xffffffffffffffff, 0x0⟩ -- R278
  | .hbKvPagesMoved => ⟨0x4028, [], 64, 0x0, 0x0, 0x0, 0xffffffffffffffff, 0x0⟩ -- R278
  | .hbErrBase => ⟨0x5000, [], 64, 0xfffffffff000, 0x0, 0x0, 0x0, 0x0⟩ -- R474
  | .hbErrCfg => ⟨0x5008, [], 32, 0x83ff000f, 0x0, 0x0, 0x0, 0x200000a⟩ -- R474
  | .hbErrPtr => ⟨0x5010, [], 64, 0xffffffff, 0x0, 0x0, 0xffffffff00000000, 0x0⟩ -- R474
  | .hbEncoreCfg => ⟨0x5018, [], 32, 0x3, 0x0, 0x0, 0x0, 0x3⟩ -- R474
  | .hbRestoreBase => ⟨0x5020, [], 64, 0xfffffffff000, 0x0, 0x0, 0x0, 0x0⟩ -- R474
  | .hbErrLost => ⟨0x5100, [], 64, 0x0, 0x0, 0x0, 0xffffffffffffffff, 0x0⟩ -- R474
  | .hbEncores => ⟨0x5108, [], 64, 0x0, 0x0, 0x0, 0xffffffffffffffff, 0x0⟩ -- R474
  | .hbEncoreRecovered => ⟨0x5110, [], 64, 0x0, 0x0, 0x0, 0xffffffffffffffff, 0x0⟩ -- R474
  | .hbEncoreExhausted => ⟨0x5118, [], 64, 0x0, 0x0, 0x0, 0xffffffffffffffff, 0x0⟩ -- R474
  | .hbReplayMarks => ⟨0x5120, [], 64, 0x0, 0x0, 0x0, 0xffffffffffffffff, 0x0⟩ -- R474
  | .hbPartRetries => ⟨0x5128, [], 64, 0x0, 0x0, 0x0, 0xffffffffffffffff, 0x0⟩ -- R474
  | .hbPartExhausted => ⟨0x5130, [], 64, 0x0, 0x0, 0x0, 0xffffffffffffffff, 0x0⟩ -- R474
  | .hbParityRestores => ⟨0x5138, [], 64, 0x0, 0x0, 0x0, 0xffffffffffffffff, 0x0⟩ -- R474
  | .pwrCfg => ⟨0x100000, [], 32, 0xe00fffff, 0x0, 0x0, 0x0, 0x60080064⟩ -- R401
  | .pwrCap => ⟨0x100008, [], 64, 0x7ff07ff000000ff, 0x0, 0x0, 0x0, 0x190019000000019⟩ -- R401
  | .pwrStatus => ⟨0x100010, [], 32, 0x0, 0x30000000, 0x0, 0xc000003f, 0x8⟩ -- R401
  | .pwrInput => ⟨0x100018, [], 64, 0x0, 0x0, 0x0, 0xffff0000ffffffff, 0x0⟩ -- R401
  | .pwrIdleCfg => ⟨0x100020, [], 32, 0x7, 0x0, 0x0, 0x0, 0x4⟩ -- R401
  | .pwrDie => ⟨0x100040, [(0x8, 3)], 64, 0x0, 0x0, 0x0, 0xfffffffffffffc00, 0x352035200000000⟩ -- R401
  | .pwrCapRail => ⟨0x100100, [(0x8, 13)], 32, 0xfffffffc, 0x0, 0x0, 0x0, 0x0⟩ -- R401
  | .pwrRail => ⟨0x100180, [(0x8, 13)], 64, 0x0, 0x7, 0x0, 0xffffffff0000, 0x0⟩ -- R401
  | .pwrHalfSteps => ⟨0x100200, [(0x8, 2)], 64, 0x0, 0x0, 0x0, 0xffffffffffffffff, 0x0⟩ -- R401
  | .pwrDroops => ⟨0x100210, [(0x8, 2)], 64, 0x0, 0x0, 0x0, 0xffffffffffffffff, 0x0⟩ -- R401
  | .pwrFallbacks => ⟨0x100220, [(0x8, 2)], 64, 0x0, 0x0, 0x0, 0xffffffffffffffff, 0x0⟩ -- R401
  | .pwrCappedUs => ⟨0x100230, [(0x8, 3)], 64, 0x0, 0x0, 0x0, 0xffffffffffffffff, 0x0⟩ -- R401
  | .pwrCueHits => ⟨0x100250, [], 64, 0x0, 0x0, 0x0, 0xffffffffffffffff, 0x0⟩ -- R401
  | .pwrCueMisses => ⟨0x100258, [], 64, 0x0, 0x0, 0x0, 0xffffffffffffffff, 0x0⟩ -- R401
  | .pwrEvenBroken => ⟨0x100260, [], 64, 0x0, 0x0, 0x0, 0xffffffffffffffff, 0x0⟩ -- R401
  | .pwrIdleUs => ⟨0x100270, [(0x8, 4)], 64, 0x0, 0x0, 0x0, 0xffffffffffffffff, 0x0⟩ -- R401
  | .tmpSense => ⟨0x100400, [(0x8, 106)], 32, 0x0, 0x0, 0x0, 0xe000ffff, 0x0⟩ -- R401
  | .tmpExtLim => ⟨0x100800, [(0x8, 10)], 32, 0xffffffff, 0x0, 0x0, 0x0, 0x0⟩ -- R401
  | .tmpTripCause => ⟨0x100900, [], 32, 0x0, 0x80000000, 0x0, 0x700000ff, 0x0⟩ -- R401
  | .rstStatus => ⟨0x110000, [], 32, 0x0, 0x0, 0x0, 0xff000000, 0x0⟩ -- R419
  | .rstCause => ⟨0x110008, [], 32, 0x0, 0xff, 0x0, 0x0, 0x1⟩ -- R419
  | .rstHubEpoch => ⟨0x110010, [], 32, 0x0, 0x0, 0x0, 0xffffffff, 0x0⟩ -- R419
  | .rstSoft => ⟨0x110018, [], 32, 0xe3f, 0x0, 0x80000000, 0x0, 0x0⟩ -- R419
  | .rstSoftStatus => ⟨0x110020, [], 32, 0x0, 0x60000000, 0x0, 0x80000000, 0x0⟩ -- R419
  | .rstGpio => ⟨0x110028, [], 64, 0xffffffff, 0x0, 0x0, 0xffff00000000, 0x0⟩ -- R419
  | .rstWdogCount => ⟨0x110030, [], 64, 0x0, 0x0, 0x0, 0xffffffffffffffff, 0x0⟩ -- R419
  | .rstIsoErrors => ⟨0x110038, [], 64, 0x0, 0x0, 0x0, 0xffffffffffffffff, 0x0⟩ -- R419
  | .rstOptRecord => ⟨0x110100, [(0x8, 32)], 64, 0x0, 0x0, 0x0, 0xffffffffffffffff, 0x0⟩ -- R409
  | .secLc => ⟨0x120000, [], 32, 0x0, 0x0, 0x0, 0xf0f7, 0xf000⟩ -- R453
  | .secCmd => ⟨0x120008, [], 32, 0xf, 0x0, 0x80000000, 0x0, 0x0⟩ -- R453
  | .secCmdStatus => ⟨0x120010, [], 32, 0x0, 0x60000000, 0x0, 0x800000ff, 0x0⟩ -- R453
  | .secIdDigest => ⟨0x120020, [(0x8, 4)], 64, 0x0, 0x0, 0x0, 0xffffffffffffffff, 0x0⟩ -- R421
  | .secSigNext => ⟨0x120040, [], 64, 0x0, 0x0, 0x0, 0xffffffffff, 0x0⟩ -- R424
  | .secSigCeil => ⟨0x120048, [], 64, 0x0, 0x0, 0x0, 0xffffffffff, 0x0⟩ -- R424
  | .secSigCount => ⟨0x120050, [], 64, 0x0, 0x0, 0x0, 0xffffffffffffffff, 0x0⟩ -- R453
  | .secDbgStatus => ⟨0x120058, [], 32, 0x0, 0x0, 0x0, 0xffffffff, 0x0⟩ -- R453
  | .secDbgNonce => ⟨0x120060, [(0x8, 4)], 64, 0x0, 0x0, 0x0, 0xffffffffffffffff, 0x0⟩ -- R436
  | .secFw => ⟨0x120080, [(0x8, 6)], 64, 0x0, 0x0, 0x0, 0xffffffffffff0003, 0x0⟩ -- R453
  | .secCal => ⟨0x1200c0, [], 32, 0x0, 0x80000000, 0x0, 0x7fff0000, 0x20000000⟩ -- R453
  | .secDbgFails => ⟨0x1200d0, [], 64, 0x0, 0x0, 0x0, 0xffffffffffffffff, 0x0⟩ -- R453
  | .secDigest => ⟨0x120100, [(0x20, 4), (0x8, 4)], 64, 0x0, 0x0, 0x0, 0xffffffffffffffff, 0x0⟩ -- R420
  | .secStage => ⟨0x128000, [(0x8, 4096)], 64, 0xffffffffffffffff, 0x0, 0x0, 0x0, 0x0⟩ -- R451
  | .schCfg => ⟨0x200000, [], 64, 0xffffffffffffff, 0x0, 0x0, 0x0, 0xa0fa0006407d0⟩ -- R329
  | .schStatus => ⟨0x200008, [], 32, 0x0, 0x3, 0x0, 0x4, 0x0⟩ -- R333
  | .schCardFrame => ⟨0x200010, [], 32, 0x800fffff, 0x0, 0x0, 0x0, 0x2710⟩ -- R319
  | .schCardCommit => ⟨0x200018, [], 32, 0x0, 0x0, 0x3, 0x0, 0x0⟩ -- R12
  | .schCardStatus => ⟨0x200020, [], 32, 0x0, 0x2e, 0x0, 0xff11, 0x0⟩ -- R12
  | .schCardPos => ⟨0x200028, [], 64, 0x0, 0x0, 0x0, 0xffffffff0000033f, 0x0⟩ -- R319
  | .schSlot => ⟨0x200100, [(0x8, 64)], 64, 0xcfffffffffffffff, 0x0, 0x0, 0x0, 0x0⟩ -- R319
  | .schInval => ⟨0x200400, [], 64, 0x40ffffffffffffff, 0x0, 0x8000000000000000, 0x0, 0x0⟩ -- R312
  | .schInvalStatus => ⟨0x200408, [], 32, 0x0, 0x3, 0x0, 0x80000000, 0x0⟩ -- R312
  | .schFaultBase => ⟨0x200500, [], 64, 0xfffffffff000, 0x0, 0x0, 0x0, 0x0⟩ -- R333
  | .schFaultCfg => ⟨0x200508, [], 32, 0x80ff000f, 0x0, 0x0, 0x0, 0x6⟩ -- R333
  | .schFaultPtr => ⟨0x200510, [], 64, 0xffffffff, 0x0, 0x0, 0xffffffff00000000, 0x0⟩ -- R333
  | .schFaultResolve => ⟨0x200518, [], 64, 0x0, 0x0, 0xffffffff00000003, 0x0, 0x0⟩ -- R333
  | .schPartCfg => ⟨0x210000, [(0x200, 16)], 32, 0xe0ffffff, 0x0, 0x0, 0x0, 0x20640003⟩ -- R313
  | .schPartAlloc0 => ⟨0x210008, [(0x200, 16)], 64, 0xffffffffff, 0x0, 0x0, 0x0, 0x0⟩ -- R313
  | .schPartAlloc1 => ⟨0x210010, [(0x200, 16)], 64, 0xffffffffff, 0x0, 0x0, 0x0, 0x0⟩ -- R313
  | .schPartQuota => ⟨0x210018, [(0x200, 16)], 64, 0x1fff00003fff, 0x0, 0x0, 0x0, 0x0⟩ -- R313
  | .schPartShare => ⟨0x210020, [(0x200, 16)], 32, 0x80ffffff, 0x0, 0x0, 0x0, 0x80000000⟩ -- R313
  | .schPartRoot => ⟨0x210028, [(0x200, 16)], 64, 0xffffffff0001, 0x0, 0x0, 0x0, 0x0⟩ -- R313
  | .schPartWin => ⟨0x210040, [(0x200, 16), (0x8, 8)], 64, 0xcfffff0007ffffff, 0x0, 0x0, 0x0, 0x0⟩ -- R313
  | .schPartCtrl => ⟨0x210080, [(0x200, 16)], 32, 0x0, 0x0, 0x1, 0x0, 0x0⟩ -- R334
  | .schPartState => ⟨0x210088, [(0x200, 16)], 32, 0x0, 0x300, 0x0, 0xc000007f, 0x0⟩ -- R335
  | .schPartCommit => ⟨0x2100f0, [(0x200, 16)], 32, 0x0, 0x0, 0x3, 0x0, 0x0⟩ -- R12
  | .schPartStatus => ⟨0x2100f8, [(0x200, 16)], 32, 0x0, 0x2e, 0x0, 0xff11, 0x0⟩ -- R12
  | .schPartDebtUs => ⟨0x210100, [(0x200, 16)], 64, 0x0, 0x0, 0x0, 0xffffffffffffffff, 0x0⟩ -- R335
  | .schPartOverruns => ⟨0x210108, [(0x200, 16)], 64, 0x0, 0x0, 0x0, 0xffffffffffffffff, 0x0⟩ -- R335
  | .schPartMaxOverrunUs => ⟨0x210110, [(0x200, 16)], 64, 0x0, 0x0, 0x0, 0xffffffffffffffff, 0x0⟩ -- R335
  | .schPartLostUs => ⟨0x210118, [(0x200, 16)], 64, 0x0, 0x0, 0x0, 0xffffffffffffffff, 0x0⟩ -- R335
  | .schPartSwitches => ⟨0x210120, [(0x200, 16)], 64, 0x0, 0x0, 0x0, 0xffffffffffffffff, 0x0⟩ -- R335
  | .schPartFaults => ⟨0x210128, [(0x200, 16)], 64, 0x0, 0x0, 0x0, 0xffffffffffffffff, 0x0⟩ -- R335
  | .schPartHardSwaps => ⟨0x210130, [(0x200, 16)], 64, 0x0, 0x0, 0x0, 0xffffffffffffffff, 0x0⟩ -- R335
  | .schCtxCfg => ⟨0x230000, [(0x40, 256)], 32, 0xc000000f, 0x0, 0x0, 0x0, 0x0⟩ -- R318
  | .schCtxSets0 => ⟨0x230008, [(0x40, 256)], 64, 0xffffffffff, 0x0, 0x0, 0x0, 0x0⟩ -- R318
  | .schCtxSets1 => ⟨0x230010, [(0x40, 256)], 64, 0xffffffffff, 0x0, 0x0, 0x0, 0x0⟩ -- R318
  | .schCtxSave => ⟨0x230018, [(0x40, 256)], 64, 0xfffffffe00000, 0x0, 0x0, 0x0, 0x0⟩ -- R318
  | .schCtxSpill => ⟨0x230020, [(0x40, 256)], 64, 0xfffffffe00000, 0x0, 0x0, 0x0, 0x0⟩ -- R318
  | .schCtxState => ⟨0x230028, [(0x40, 256)], 32, 0x0, 0x80000, 0x0, 0xfff00000, 0x0⟩ -- R318
  | .schCtxSince => ⟨0x230030, [(0x40, 256)], 64, 0x0, 0x0, 0x0, 0xffffffffffffffff, 0x0⟩ -- R318
  | .srvStatus => ⟨0x300000, [], 32, 0x0, 0xf, 0x0, 0x0, 0x0⟩ -- R306
  | .srvLedgerBase => ⟨0x300008, [], 64, 0xfffffffc0001, 0x0, 0x0, 0x0, 0x0⟩ -- R306
  | .srvCounter => ⟨0x300010, [], 64, 0x0, 0x0, 0x0, 0xffffffffffffffff, 0x0⟩ -- R306
  | .srvCancel => ⟨0x300018, [], 32, 0x0, 0x0, 0x80001fff, 0x0, 0x0⟩ -- R306
  | .srvReqSel => ⟨0x300020, [], 32, 0x1fff, 0x0, 0x0, 0x0, 0x0⟩ -- R306
  | .srvDegenerate => ⟨0x300030, [], 64, 0x0, 0x0, 0x0, 0xffffffffffffffff, 0x0⟩ -- R306
  | .srvAdapterSel => ⟨0x300040, [], 32, 0xfff, 0x0, 0x0, 0x0, 0x0⟩ -- R306
  | .srvAdapterData0 => ⟨0x300048, [], 64, 0x0, 0x0, 0x0, 0xfffffffffffff, 0x0⟩ -- R306
  | .srvAdapterData1 => ⟨0x300050, [], 64, 0x0, 0x0, 0x0, 0xffffffff00001fff, 0x0⟩ -- R306
  | .srvReqData => ⟨0x300100, [(0x8, 24)], 64, 0x0, 0x0, 0x0, 0xffffffffffffffff, 0x0⟩ -- R306
  | .srvMissTtft => ⟨0x301000, [(0x8, 16)], 64, 0x0, 0x0, 0x0, 0xffffffffffffffff, 0x0⟩ -- R306
  | .srvMissTbt => ⟨0x301080, [(0x8, 16)], 64, 0x0, 0x0, 0x0, 0xffffffffffffffff, 0x0⟩ -- R306
  | .srvTokens => ⟨0x301100, [(0x8, 16)], 64, 0x0, 0x0, 0x0, 0xffffffffffffffff, 0x0⟩ -- R306
  | .srvCancels => ⟨0x301180, [(0x8, 16)], 64, 0x0, 0x0, 0x0, 0xffffffffffffffff, 0x0⟩ -- R306
  | .srvTenant => ⟨0x310000, [(0x4, 4096)], 32, 0x8000000f, 0x0, 0x0, 0x0, 0x0⟩ -- R306
  | .srvPfxCfg => ⟨0x308000, [], 32, 0x1, 0x0, 0x0, 0x0, 0x1⟩ -- R279
  | .srvPfxKeySel => ⟨0x308010, [], 32, 0x80000fff, 0x0, 0x0, 0x0, 0x0⟩ -- R279
  | .srvPfxKeyLo => ⟨0x308018, [], 64, 0x0, 0x0, 0xffffffffffffffff, 0x0, 0x0⟩ -- R279
  | .srvPfxKeyHi => ⟨0x308020, [], 64, 0x0, 0x0, 0xffffffffffffffff, 0x0, 0x0⟩ -- R279
  | .srvPfxKeyCtrl => ⟨0x308028, [], 32, 0x0, 0x0, 0x3, 0x0, 0x0⟩ -- R279
  | .srvPfxKeyStatus => ⟨0x308030, [], 32, 0x0, 0x0, 0x0, 0x1, 0x0⟩ -- R279
  | .srvPfxLookups => ⟨0x308040, [], 64, 0x0, 0x0, 0x0, 0xffffffffffffffff, 0x0⟩ -- R279
  | .srvPfxHits => ⟨0x308048, [], 64, 0x0, 0x0, 0x0, 0xffffffffffffffff, 0x0⟩ -- R279
  | .srvPfxInserts => ⟨0x308050, [], 64, 0x0, 0x0, 0x0, 0xffffffffffffffff, 0x0⟩ -- R279
  | .srvPfxEvicts => ⟨0x308058, [], 64, 0x0, 0x0, 0x0, 0xffffffffffffffff, 0x0⟩ -- R279
  | .srvPfxBase => ⟨0x308100, [(0x8, 16)], 64, 0xffffffffff01f, 0x0, 0x0, 0x0, 0x0⟩ -- R279
  | .srvPfxCommit => ⟨0x308180, [], 32, 0x0, 0x0, 0x3, 0x0, 0x0⟩ -- R12
  | .srvPfxStatus => ⟨0x308188, [], 32, 0x0, 0x2e, 0x0, 0xff11, 0x0⟩ -- R12
  | .clrCtxCfg => ⟨0x500000, [(0x1000, 256)], 32, 0xff010f, 0x0, 0x0, 0x0, 0x0⟩ -- R31
  | .clrCtxStatus => ⟨0x500008, [(0x1000, 256)], 32, 0x0, 0x20100, 0x0, 0x1007f, 0x0⟩ -- R32
  | .clrSqBase => ⟨0x500100, [(0x1000, 256), (0x40, 4)], 64, 0xffffffffff000, 0x0, 0x0, 0x0, 0x0⟩ -- R33
  | .clrSqCfg => ⟨0x500108, [(0x1000, 256), (0x40, 4)], 32, 0xf0301, 0x0, 0x0, 0x0, 0x40001⟩ -- R33
  | .clrSqDb => ⟨0x500110, [(0x1000, 256), (0x40, 4)], 32, 0x1fff, 0x0, 0x0, 0x0, 0x0⟩ -- R33
  | .clrSqStatus => ⟨0x500118, [(0x1000, 256), (0x40, 4)], 32, 0x0, 0x20000000, 0x0, 0xdfff1fff, 0x80000000⟩ -- R33
  | .clrSqCtrl => ⟨0x500120, [(0x1000, 256), (0x40, 4)], 32, 0x0, 0x0, 0x3, 0x0, 0x0⟩ -- R33
  | .clrSqSeq => ⟨0x500128, [(0x1000, 256), (0x40, 4)], 32, 0xffffffff, 0x0, 0x0, 0x0, 0x0⟩ -- R33
  | .clrCqBase => ⟨0x500200, [(0x1000, 256)], 64, 0xffffffffff000, 0x0, 0x0, 0x0, 0x0⟩ -- R34
  | .clrCqCfg => ⟨0x500208, [(0x1000, 256)], 32, 0xf0003, 0x0, 0x0, 0x0, 0x60002⟩ -- R34
  | .clrCqDb => ⟨0x500210, [(0x1000, 256)], 32, 0x7fff, 0x0, 0x0, 0x0, 0x0⟩ -- R34
  | .clrCqStatus => ⟨0x500218, [(0x1000, 256)], 32, 0x0, 0x0, 0x0, 0x80007fff, 0x0⟩ -- R34
  | .clrCqStall => ⟨0x500220, [(0x1000, 256)], 64, 0x0, 0x0, 0x0, 0xffffffffffffffff, 0x0⟩ -- R34
  | .clrS => ⟨0x500400, [(0x1000, 256), (0x8, 64)], 64, 0xffffffffffffffff, 0x0, 0x0, 0x0, 0x0⟩ -- R35
  | .clrPred => ⟨0x500600, [(0x1000, 256)], 32, 0xff, 0x0, 0x0, 0x0, 0x0⟩ -- R35
  | .clrEvent => ⟨0x500800, [(0x1000, 256), (0x8, 32)], 64, 0xffffffffffffffff, 0x0, 0x0, 0x0, 0x0⟩ -- R35
  | .clrEncBase => ⟨0x500a00, [(0x1000, 256)], 64, 0xffffffffff000, 0x0, 0x0, 0x0, 0x0⟩ -- R457
  | .clrEncCfg => ⟨0x500a08, [(0x1000, 256)], 32, 0x8000000f, 0x0, 0x0, 0x0, 0x8⟩ -- R457
  | .fabPortCtrl => ⟨0x800000, [(0x10000, 48)], 32, 0xfffc0fff, 0x0, 0x0, 0x0, 0x0⟩ -- R363
  | .fabPortStatus => ⟨0x800008, [(0x10000, 48)], 32, 0x0, 0x0, 0x0, 0xf000ff00, 0x0⟩ -- R363
  | .fabPortMac => ⟨0x800010, [(0x10000, 48)], 64, 0xffffffffffff, 0x0, 0x0, 0x0, 0x0⟩ -- R363
  | .fabPortGwMac => ⟨0x800018, [(0x10000, 48)], 64, 0xffffffffffff, 0x0, 0x0, 0x0, 0x0⟩ -- R363
  | .fabInjCtrl => ⟨0x800020, [(0x10000, 48)], 64, 0xf81f003fffffffff, 0x0, 0x0, 0x0, 0x100000000⟩ -- R363
  | .fabInjSeed => ⟨0x800028, [(0x10000, 48)], 32, 0xffffffff, 0x0, 0x0, 0x0, 0x1⟩ -- R363
  | .fabTxFrames => ⟨0x800100, [(0x10000, 48)], 64, 0x0, 0x0, 0x0, 0xffffffffffffffff, 0x0⟩ -- R363
  | .fabRxFrames => ⟨0x800108, [(0x10000, 48)], 64, 0x0, 0x0, 0x0, 0xffffffffffffffff, 0x0⟩ -- R363
  | .fabFecCorrected => ⟨0x800110, [(0x10000, 48)], 64, 0x0, 0x0, 0x0, 0xffffffffffffffff, 0x0⟩ -- R363
  | .fabFecUncorrected => ⟨0x800118, [(0x10000, 48)], 64, 0x0, 0x0, 0x0, 0xffffffffffffffff, 0x0⟩ -- R363
  | .fabRxBadFcs => ⟨0x800120, [(0x10000, 48)], 64, 0x0, 0x0, 0x0, 0xffffffffffffffff, 0x0⟩ -- R363
  | .fabRxForeign => ⟨0x800128, [(0x10000, 48)], 64, 0x0, 0x0, 0x0, 0xffffffffffffffff, 0x0⟩ -- R363
  | .fabRxUnknown => ⟨0x800130, [(0x10000, 48)], 64, 0x0, 0x0, 0x0, 0xffffffffffffffff, 0x0⟩ -- R363
  | .fabRxUnauth => ⟨0x800138, [(0x10000, 48)], 64, 0x0, 0x0, 0x0, 0xffffffffffffffff, 0x0⟩ -- R363
  | .fabRxReplay => ⟨0x800140, [(0x10000, 48)], 64, 0x0, 0x0, 0x0, 0xffffffffffffffff, 0x0⟩ -- R363
  | .fabRxTag => ⟨0x800148, [(0x10000, 48)], 64, 0x0, 0x0, 0x0, 0xffffffffffffffff, 0x0⟩ -- R363
  | .fabRxDup => ⟨0x800150, [(0x10000, 48)], 64, 0x0, 0x0, 0x0, 0xffffffffffffffff, 0x0⟩ -- R363
  | .fabRxCe => ⟨0x800158, [(0x10000, 48)], 64, 0x0, 0x0, 0x0, 0xffffffffffffffff, 0x0⟩ -- R363
  | .fabTxRetrans => ⟨0x800160, [(0x10000, 48)], 64, 0x0, 0x0, 0x0, 0xffffffffffffffff, 0x0⟩ -- R363
  | .fabInjFrames => ⟨0x800168, [(0x10000, 48)], 64, 0x0, 0x0, 0x0, 0xffffffffffffffff, 0x0⟩ -- R363
  | .fabNode => ⟨0xb00000, [], 32, 0xffff, 0x0, 0x0, 0x0, 0x0⟩ -- R362
  | .fabNodeIpLo => ⟨0xb00008, [], 64, 0xffffffffffffffff, 0x0, 0x0, 0x0, 0x0⟩ -- R362
  | .fabNodeIpHi => ⟨0xb00010, [], 64, 0xffffffffffffffff, 0x0, 0x0, 0x0, 0x0⟩ -- R362
  | .fabCfg => ⟨0xb00018, [], 64, 0xffffffffffffffdf, 0x0, 0x0, 0x0, 0xc0a1003200643c14⟩ -- R362
  | .fabCc => ⟨0xb00020, [], 32, 0xffffffff, 0x0, 0x0, 0x0, 0x5104010⟩ -- R362
  | .fabPeerBase => ⟨0xb00028, [], 64, 0xffffffe00000, 0x0, 0x0, 0x0, 0x0⟩ -- R362
  | .fabPeerCtrl => ⟨0xb00030, [], 32, 0x0, 0x0, 0xc00003ff, 0x0, 0x0⟩ -- R362
  | .reelGroupBase => ⟨0xb00038, [], 64, 0xffffffe00000, 0x0, 0x0, 0x0, 0x0⟩ -- R362
  | .reelGroupCtrl => ⟨0xb00040, [], 32, 0x0, 0x0, 0xc00003ff, 0x0, 0x0⟩ -- R362
  | .reelGroupStatus => ⟨0xb00048, [], 32, 0x0, 0xe0000000, 0x0, 0xf, 0x0⟩ -- R362
  | .fabStatus => ⟨0xb00050, [], 32, 0x0, 0x1, 0x0, 0x0, 0x0⟩ -- R362
  | .fabReg => ⟨0xb00100, [(0x8, 16)], 32, 0xffff7fff, 0x0, 0x0, 0x0, 0x80000000⟩ -- R346
  | .fabRegCommit => ⟨0xb00180, [], 32, 0x0, 0x0, 0x3, 0x0, 0x0⟩ -- R12
  | .fabRegStatus => ⟨0xb00188, [], 32, 0x0, 0x2e, 0x0, 0xff11, 0x0⟩ -- R12
  | .fabRegGranules => ⟨0xb00200, [(0x10, 16)], 64, 0x0, 0x0, 0x0, 0xffffffffffffffff, 0x0⟩ -- R180
  | .fabRegThrottled => ⟨0xb00208, [(0x10, 16)], 64, 0x0, 0x0, 0x0, 0xffffffffffffffff, 0x0⟩ -- R180
  | .reelCollectives => ⟨0xb00400, [], 64, 0x0, 0x0, 0x0, 0xffffffffffffffff, 0x0⟩ -- R362
  | .reelCappedEvents => ⟨0xb00408, [], 64, 0x0, 0x0, 0x0, 0xffffffffffffffff, 0x0⟩ -- R362
  | .reelMismatch => ⟨0xb00410, [], 64, 0x0, 0x0, 0x0, 0xffffffffffffffff, 0x0⟩ -- R362
  | .reelHandshakes => ⟨0xb00418, [], 64, 0x0, 0x0, 0x0, 0xffffffffffffffff, 0x0⟩ -- R362
  | .reelHandshakeFail => ⟨0xb00420, [], 64, 0x0, 0x0, 0x0, 0xffffffffffffffff, 0x0⟩ -- R362
  | .fabPeerState => ⟨0xb10000, [(0x8, 1024)], 64, 0x0, 0x0, 0x0, 0xff0000000000ffff, 0x0⟩ -- R362
  | .reelGroupState => ⟨0xb20000, [(0x8, 1024)], 64, 0x0, 0x0, 0x0, 0xc00001ffffffffff, 0x0⟩ -- R362
  | .thmLinkStatus => ⟨0xc00000, [], 64, 0x0, 0x0, 0x0, 0xfffffffff000ffff, 0x0⟩ -- R379
  | .thmLinkCtrl => ⟨0xc00008, [], 32, 0x6, 0x0, 0x1, 0x0, 0x0⟩ -- R379
  | .thmRegBase => ⟨0xc00010, [], 64, 0x0, 0x0, 0x0, 0xfffffffff0000000, 0x80000000⟩ -- R379
  | .thmMemBase => ⟨0xc00018, [], 64, 0xfffffe0000000001, 0x0, 0x0, 0x0, 0x0⟩ -- R379
  | .thmSync => ⟨0xc00020, [], 64, 0x0, 0x0, 0x0, 0xffffffffffffffff, 0x0⟩ -- R379
  | .thmTimePair => ⟨0xc00028, [], 64, 0x0, 0x0, 0x0, 0xffffffffffffffff, 0x0⟩ -- R378
  | .thmVecMask => ⟨0xc00040, [(0x8, 4)], 64, 0xffffffffffffffff, 0x0, 0x0, 0x0, 0xffffffffffffffff⟩ -- R377
  | .thmVecPend => ⟨0xc00060, [(0x8, 4)], 64, 0x0, 0xffffffffffffffff, 0x0, 0x0, 0x0⟩ -- R377
  | .thmReplays => ⟨0xc00100, [], 64, 0x0, 0x0, 0x0, 0xffffffffffffffff, 0x0⟩ -- R379
  | .thmRefused => ⟨0xc00108, [], 64, 0x0, 0x0, 0x0, 0xffffffffffffffff, 0x0⟩ -- R379
  | .thmSnoopTimeouts => ⟨0xc00110, [], 64, 0x0, 0x0, 0x0, 0xffffffffffffffff, 0x0⟩ -- R379
  | .thmBackinv => ⟨0xc00118, [], 64, 0x0, 0x0, 0x0, 0xffffffffffffffff, 0x0⟩ -- R379
  | .dtMapDead => ⟨0xd00010, [], 32, 0xffff, 0x0, 0x0, 0x0, 0x0⟩ -- R204
  | .dtMapCapacity => ⟨0xd00018, [], 32, 0x7ff, 0x0, 0x0, 0x0, 0x400⟩ -- R200
  | .dtMapCommit => ⟨0xd00020, [], 32, 0x0, 0x0, 0x3, 0x0, 0x0⟩ -- R12
  | .dtMapStatus => ⟨0xd00028, [], 32, 0x0, 0x2e, 0x0, 0xff11, 0x0⟩ -- R12
  | .dtMapoutCfg => ⟨0xd00030, [], 32, 0xff, 0x0, 0x0, 0x0, 0x8⟩ -- R204
  | .dtMapoutProgress => ⟨0xd00038, [], 64, 0x0, 0x0, 0x0, 0xffffffffffffffff, 0x0⟩ -- R204
  | .dtArbCfg => ⟨0xd00040, [], 32, 0xff, 0x0, 0x0, 0x0, 0x14⟩ -- R204
  | .dtReg => ⟨0xd00100, [(0x8, 16)], 32, 0xffff7fff, 0x0, 0x0, 0x0, 0x80000000⟩ -- R179
  | .dtRegCommit => ⟨0xd00180, [], 32, 0x0, 0x0, 0x3, 0x0, 0x0⟩ -- R12
  | .dtRegStatus => ⟨0xd00188, [], 32, 0x0, 0x2e, 0x0, 0xff11, 0x0⟩ -- R12
  | .dtRegGranules => ⟨0xd00200, [(0x10, 16)], 64, 0x0, 0x0, 0x0, 0xffffffffffffffff, 0x0⟩ -- R180
  | .dtRegThrottled => ⟨0xd00208, [(0x10, 16)], 64, 0x0, 0x0, 0x0, 0xffffffffffffffff, 0x0⟩ -- R180
  | .dtChState => ⟨0xd10000, [(0x1000, 16)], 32, 0x0, 0x0, 0x1, 0xc0000000, 0x0⟩ -- R204
  | .dtChCe => ⟨0xd10008, [(0x1000, 16)], 64, 0x0, 0x0, 0x0, 0xffffffffffffffff, 0x0⟩ -- R183
  | .dtChUe => ⟨0xd10010, [(0x1000, 16)], 64, 0x0, 0x0, 0x0, 0xffffffffffffffff, 0x0⟩ -- R183
  | .dtChMergeRmw => ⟨0xd10018, [(0x1000, 16)], 64, 0x0, 0x0, 0x0, 0xffffffffffffffff, 0x0⟩ -- R186
  | .dtScrubCfg => ⟨0xd10020, [(0x1000, 16)], 32, 0x800000ff, 0x0, 0x0, 0x0, 0x80000040⟩ -- R204
  | .dtScrubStatus => ⟨0xd10028, [(0x1000, 16)], 32, 0x0, 0x80000000, 0x0, 0x3ffffff, 0x0⟩ -- R204
  | .dtScrubAlarmUs => ⟨0xd10030, [(0x1000, 16)], 64, 0xffffffffffffffff, 0x0, 0x0, 0x0, 0x141dd76000⟩ -- R204
  | .dtScrubLapStart => ⟨0xd10038, [(0x1000, 16)], 64, 0x0, 0x0, 0x0, 0xffffffffffffffff, 0x0⟩ -- R204
  | .dtScrubLastLapUs => ⟨0xd10040, [(0x1000, 16)], 64, 0x0, 0x0, 0x0, 0xffffffffffffffff, 0x0⟩ -- R204
  | .dtFlip => ⟨0xd10080, [(0x1000, 16), (0x8, 9)], 64, 0xffffffffffffffff, 0x0, 0x0, 0x0, 0x0⟩ -- R190
  | .dtFlipCtrl => ⟨0xd100d0, [(0x1000, 16)], 32, 0x80000000, 0x0, 0x0, 0x0, 0x0⟩ -- R204
  | .dtFlipHit => ⟨0xd100d8, [(0x1000, 16)], 64, 0x0, 0x0, 0x0, 0x8000ffffffffffff, 0x0⟩ -- R204
  | .stkMapDead => ⟨0x4000010, [(0x400000, 12)], 32, 0xffff, 0x0, 0x0, 0x0, 0x0⟩ -- R204
  | .stkMapCapacity => ⟨0x4000018, [(0x400000, 12)], 32, 0x7f, 0x0, 0x0, 0x0, 0x40⟩ -- R204
  | .stkMapCommit => ⟨0x4000020, [(0x400000, 12)], 32, 0x0, 0x0, 0x3, 0x0, 0x0⟩ -- R12
  | .stkMapStatus => ⟨0x4000028, [(0x400000, 12)], 32, 0x0, 0x2e, 0x0, 0xff11, 0x0⟩ -- R12
  | .stkMapoutCfg => ⟨0x4000030, [(0x400000, 12)], 32, 0xff, 0x0, 0x0, 0x0, 0x8⟩ -- R204
  | .stkMapoutProgress => ⟨0x4000038, [(0x400000, 12)], 64, 0x0, 0x0, 0x0, 0xffffffffffffffff, 0x0⟩ -- R204
  | .stkArbCfg => ⟨0x4000040, [(0x400000, 12)], 32, 0xff, 0x0, 0x0, 0x0, 0x14⟩ -- R204
  | .stkReg => ⟨0x4000100, [(0x400000, 12), (0x8, 16)], 32, 0xffff7fff, 0x0, 0x0, 0x0, 0x80000000⟩ -- R179
  | .stkRegCommit => ⟨0x4000180, [(0x400000, 12)], 32, 0x0, 0x0, 0x3, 0x0, 0x0⟩ -- R12
  | .stkRegStatus => ⟨0x4000188, [(0x400000, 12)], 32, 0x0, 0x2e, 0x0, 0xff11, 0x0⟩ -- R12
  | .stkRegGranules => ⟨0x4000200, [(0x400000, 12), (0x10, 16)], 64, 0x0, 0x0, 0x0, 0xffffffffffffffff, 0x0⟩ -- R180
  | .stkRegThrottled => ⟨0x4000208, [(0x400000, 12), (0x10, 16)], 64, 0x0, 0x0, 0x0, 0xffffffffffffffff, 0x0⟩ -- R180
  | .stkChState => ⟨0x4010000, [(0x400000, 12), (0x1000, 16)], 32, 0x0, 0x0, 0x1, 0xc0000000, 0x0⟩ -- R204
  | .stkChCe => ⟨0x4010008, [(0x400000, 12), (0x1000, 16)], 64, 0x0, 0x0, 0x0, 0xffffffffffffffff, 0x0⟩ -- R183
  | .stkChUe => ⟨0x4010010, [(0x400000, 12), (0x1000, 16)], 64, 0x0, 0x0, 0x0, 0xffffffffffffffff, 0x0⟩ -- R183
  | .stkChMergeRmw => ⟨0x4010018, [(0x400000, 12), (0x1000, 16)], 64, 0x0, 0x0, 0x0, 0xffffffffffffffff, 0x0⟩ -- R186
  | .stkScrubCfg => ⟨0x4010020, [(0x400000, 12), (0x1000, 16)], 32, 0x800000ff, 0x0, 0x0, 0x0, 0x80000040⟩ -- R204
  | .stkScrubStatus => ⟨0x4010028, [(0x400000, 12), (0x1000, 16)], 32, 0x0, 0x80000000, 0x0, 0x3ffffff, 0x0⟩ -- R204
  | .stkScrubAlarmUs => ⟨0x4010030, [(0x400000, 12), (0x1000, 16)], 64, 0xffffffffffffffff, 0x0, 0x0, 0x0, 0x141dd76000⟩ -- R204
  | .stkScrubLapStart => ⟨0x4010038, [(0x400000, 12), (0x1000, 16)], 64, 0x0, 0x0, 0x0, 0xffffffffffffffff, 0x0⟩ -- R204
  | .stkScrubLastLapUs => ⟨0x4010040, [(0x400000, 12), (0x1000, 16)], 64, 0x0, 0x0, 0x0, 0xffffffffffffffff, 0x0⟩ -- R204
  | .stkFlip => ⟨0x4010080, [(0x400000, 12), (0x1000, 16), (0x8, 9)], 64, 0xffffffffffffffff, 0x0, 0x0, 0x0, 0x0⟩ -- R190
  | .stkFlipCtrl => ⟨0x40100d0, [(0x400000, 12), (0x1000, 16)], 32, 0x80000000, 0x0, 0x0, 0x0, 0x0⟩ -- R204
  | .stkFlipHit => ⟨0x40100d8, [(0x400000, 12), (0x1000, 16)], 64, 0x0, 0x0, 0x0, 0x8000ffffffffffff, 0x0⟩ -- R204
  | .galCfg => ⟨0x4020000, [(0x400000, 12)], 32, 0x8f01ffff, 0x0, 0x0, 0x0, 0x84000000⟩ -- R237
  | .galPromBytes => ⟨0x4020008, [(0x400000, 12)], 64, 0x0, 0x0, 0x0, 0xffffffffffffffff, 0x0⟩ -- R237
  | .galPromWait => ⟨0x4020010, [(0x400000, 12)], 64, 0x0, 0x0, 0x0, 0xffffffffffffffff, 0x0⟩ -- R237
  | .galFlushViol => ⟨0x4020018, [(0x400000, 12)], 64, 0x0, 0x0, 0x0, 0xffffffffffffffff, 0x0⟩ -- R237
  | .galWindowRefused => ⟨0x4020020, [(0x400000, 12)], 64, 0x0, 0x0, 0x0, 0xffffffffffffffff, 0x0⟩ -- R237
  | .galUnitState => ⟨0x4030000, [(0x400000, 12), (0x100, 32)], 32, 0x0, 0x3000000, 0x0, 0xfcffff3f, 0x0⟩ -- R238
  | .galUnitCtrl => ⟨0x4030008, [(0x400000, 12), (0x100, 32)], 32, 0x0, 0x0, 0x7, 0x0, 0x0⟩ -- R238
  | .galUnitBusyCycles => ⟨0x4030010, [(0x400000, 12), (0x100, 32)], 64, 0x0, 0x0, 0x0, 0xffffffffffffffff, 0x0⟩ -- R239
  | .galUnitMacs => ⟨0x4030018, [(0x400000, 12), (0x100, 32)], 64, 0x0, 0x0, 0x0, 0xffffffffffffffff, 0x0⟩ -- R239
  | .galUnitRdBytes => ⟨0x4030020, [(0x400000, 12), (0x100, 32)], 64, 0x0, 0x0, 0x0, 0xffffffffffffffff, 0x0⟩ -- R239
  | .galUnitWrBytes => ⟨0x4030028, [(0x400000, 12), (0x100, 32)], 64, 0x0, 0x0, 0x0, 0xffffffffffffffff, 0x0⟩ -- R239
  | .galUnitYields => ⟨0x4030030, [(0x400000, 12), (0x100, 32)], 64, 0x0, 0x0, 0x0, 0xffffffffffffffff, 0x0⟩ -- R239
  | .galUnitCommands => ⟨0x4030038, [(0x400000, 12), (0x100, 32)], 64, 0x0, 0x0, 0x0, 0xffffffffffffffff, 0x0⟩ -- R239
  | .galUnitReexec => ⟨0x4030040, [(0x400000, 12), (0x100, 32)], 64, 0x0, 0x0, 0x0, 0xffffffffffffffff, 0x0⟩ -- R239
  | .galUnitEntries => ⟨0x4030048, [(0x400000, 12), (0x100, 32)], 64, 0x0, 0x0, 0x0, 0xffffffffffffffff, 0x0⟩ -- R239
  | .cdId => ⟨0x1000000, [(0x1000000, 2)], 32, 0x0, 0x0, 0x0, 0xffff01, 0x0⟩ -- R102
  | .cdSetsInService => ⟨0x1000008, [(0x1000000, 2)], 64, 0x0, 0x0, 0x0, 0xffffffffff, 0xffffffffff⟩ -- R102
  | .cdStrikeCfg => ⟨0x1000010, [(0x1000000, 2)], 32, 0xffff, 0x0, 0x0, 0x0, 0xa8⟩ -- R102
  | .cdPerfCtrl => ⟨0x1000018, [(0x1000000, 2)], 32, 0x100, 0x0, 0x3, 0x4, 0x0⟩ -- R107
  | .cdMeshStatus => ⟨0x1000020, [(0x1000000, 2)], 32, 0x0, 0x0, 0x0, 0x8000033f, 0x0⟩ -- R102
  | .cdMeshRetries => ⟨0x1000028, [(0x1000000, 2)], 64, 0x0, 0x0, 0x0, 0xffffffffffffffff, 0x0⟩ -- R102
  | .cdArrayCfg => ⟨0x1000030, [(0x1000000, 2)], 32, 0xf, 0x0, 0x0, 0x0, 0x8⟩ -- R135
  | .cdArrayInject => ⟨0x1000038, [(0x1000000, 2)], 32, 0x803fff00, 0x0, 0x0, 0x0, 0x0⟩ -- R136
  | .cdArraySat => ⟨0x1000040, [(0x1000000, 2)], 64, 0x0, 0x0, 0x0, 0xffffffffffffffff, 0x0⟩ -- R137
  | .cdArrayNan => ⟨0x1000048, [(0x1000000, 2)], 64, 0x0, 0x0, 0x0, 0xffffffffffffffff, 0x0⟩ -- R137
  | .cdDmaOobElems => ⟨0x1000050, [(0x1000000, 2)], 64, 0x0, 0x0, 0x0, 0xffffffffffffffff, 0x0⟩ -- R167
  | .cdDmaIdxHits => ⟨0x1000058, [(0x1000000, 2)], 64, 0x0, 0x0, 0x0, 0xffffffffffffffff, 0x0⟩ -- R167
  | .cdDmaTlbMisses => ⟨0x1000060, [(0x1000000, 2)], 64, 0x0, 0x0, 0x0, 0xffffffffffffffff, 0x0⟩ -- R167
  | .cdDmaTurnBlocks => ⟨0x1000068, [(0x1000000, 2)], 64, 0x0, 0x0, 0x0, 0xffffffffffffffff, 0x0⟩ -- R167
  | .cdSetStatus => ⟨0x1100000, [(0x1000000, 2), (0x10000, 40)], 32, 0x0, 0x6000000, 0x0, 0xf803ffff, 0x20080⟩ -- R103
  | .cdSetCtrl => ⟨0x1100008, [(0x1000000, 2), (0x10000, 40)], 32, 0x0, 0x0, 0x7, 0x0, 0x0⟩ -- R103
  | .cdSpareMap => ⟨0x1100010, [(0x1000000, 2), (0x10000, 40)], 32, 0x0, 0x0, 0x0, 0xffff, 0xffff⟩ -- R103
  | .cdSetOwner => ⟨0x1100018, [(0x1000000, 2), (0x10000, 40)], 32, 0x0, 0x0, 0x0, 0x1fff, 0x0⟩ -- R103
  | .cdSetTiles => ⟨0x1100100, [(0x1000000, 2), (0x10000, 40)], 64, 0x0, 0x0, 0x0, 0xffffffffffffffff, 0x0⟩ -- R106
  | .cdSetReexecTiles => ⟨0x1100108, [(0x1000000, 2), (0x10000, 40)], 64, 0x0, 0x0, 0x0, 0xffffffffffffffff, 0x0⟩ -- R106
  | .cdSetFigures => ⟨0x1100110, [(0x1000000, 2), (0x10000, 40)], 64, 0x0, 0x0, 0x0, 0xffffffffffffffff, 0x0⟩ -- R106
  | .cdSetSbufRdBytes => ⟨0x1100118, [(0x1000000, 2), (0x10000, 40)], 64, 0x0, 0x0, 0x0, 0xffffffffffffffff, 0x0⟩ -- R106
  | .cdSetSbufWrBytes => ⟨0x1100120, [(0x1000000, 2), (0x10000, 40)], 64, 0x0, 0x0, 0x0, 0xffffffffffffffff, 0x0⟩ -- R106
  | .cdSetMeshInBytes => ⟨0x1100128, [(0x1000000, 2), (0x10000, 40)], 64, 0x0, 0x0, 0x0, 0xffffffffffffffff, 0x0⟩ -- R106
  | .cdSetMeshOutBytes => ⟨0x1100130, [(0x1000000, 2), (0x10000, 40)], 64, 0x0, 0x0, 0x0, 0xffffffffffffffff, 0x0⟩ -- R106
  | .cdSetBarrierCycles => ⟨0x1100138, [(0x1000000, 2), (0x10000, 40)], 64, 0x0, 0x0, 0x0, 0xffffffffffffffff, 0x0⟩ -- R106
  | .cdSetSaves => ⟨0x1100140, [(0x1000000, 2), (0x10000, 40)], 64, 0x0, 0x0, 0x0, 0xffffffffffffffff, 0x0⟩ -- R106
  | .cdCoreStatus => ⟨0x1101000, [(0x1000000, 2), (0x10000, 40), (0x80, 130)], 32, 0x0, 0x0, 0x0, 0xf0ff0003, 0x0⟩ -- R104
  | .cdCoreBusyCycles => ⟨0x1101008, [(0x1000000, 2), (0x10000, 40), (0x80, 130)], 64, 0x0, 0x0, 0x0, 0xffffffffffffffff, 0x0⟩ -- R105
  | .cdCoreArrayCycles => ⟨0x1101010, [(0x1000000, 2), (0x10000, 40), (0x80, 130)], 64, 0x0, 0x0, 0x0, 0xffffffffffffffff, 0x0⟩ -- R105
  | .cdCoreMacCells => ⟨0x1101018, [(0x1000000, 2), (0x10000, 40), (0x80, 130)], 64, 0x0, 0x0, 0x0, 0xffffffffffffffff, 0x0⟩ -- R105
  | .cdCoreFreezeFeed => ⟨0x1101020, [(0x1000000, 2), (0x10000, 40), (0x80, 130)], 64, 0x0, 0x0, 0x0, 0xffffffffffffffff, 0x0⟩ -- R105
  | .cdCoreFreezeDrain => ⟨0x1101028, [(0x1000000, 2), (0x10000, 40), (0x80, 130)], 64, 0x0, 0x0, 0x0, 0xffffffffffffffff, 0x0⟩ -- R105
  | .cdCoreBypassCycles => ⟨0x1101030, [(0x1000000, 2), (0x10000, 40), (0x80, 130)], 64, 0x0, 0x0, 0x0, 0xffffffffffffffff, 0x0⟩ -- R105
  | .cdCoreVectorCycles => ⟨0x1101038, [(0x1000000, 2), (0x10000, 40), (0x80, 130)], 64, 0x0, 0x0, 0x0, 0xffffffffffffffff, 0x0⟩ -- R105
  | .cdCoreSramConflict => ⟨0x1101040, [(0x1000000, 2), (0x10000, 40), (0x80, 130)], 64, 0x0, 0x0, 0x0, 0xffffffffffffffff, 0x0⟩ -- R105
  | .cdCoreSramCe => ⟨0x1101048, [(0x1000000, 2), (0x10000, 40), (0x80, 130)], 64, 0x0, 0x0, 0x0, 0xffffffffffffffff, 0x0⟩ -- R105
  | .cdCoreDmaBytes => ⟨0x1101050, [(0x1000000, 2), (0x10000, 40), (0x80, 130)], 64, 0x0, 0x0, 0x0, 0xffffffffffffffff, 0x0⟩ -- R105
  | .cdCoreChecksumFail => ⟨0x1101058, [(0x1000000, 2), (0x10000, 40), (0x80, 130)], 64, 0x0, 0x0, 0x0, 0xffffffffffffffff, 0x0⟩ -- R105

/-- Part 0 of the list of register names. -/
def RegName.all0 : List RegName :=
  [.hbRegErr, .featVersion, .featCores, .featSets, .featArray, .featFormats, .featStacks, .featStackBytes, .featDeepBytes, .featGalliard, .featQueues, .featQueueDepth, .featScalars, .featSeq, .featDenseAttn, .featSparse, .featServing, .featAdapters, .featVocab, .featMoe, .featPartitions, .featFabric, .featClock, .featOpcodes, .featGen, .hbSplitCfg, .hbSplitFallback, .hbParityCmd, .hbParityStatus, .hbEngineRate]

/-- Part 1 of the list of register names. -/
def RegName.all1 : List RegName :=
  [.hbParityRebuilds, .hbParityDouble, .hbParityMap, .hbAttnNearSeqs, .hbAttnCoreSeqs, .hbAttnJoins, .hbKvPagesOpened, .hbKvPagesReleased, .hbKvPagesMoved, .hbErrBase, .hbErrCfg, .hbErrPtr, .hbEncoreCfg, .hbRestoreBase, .hbErrLost, .hbEncores, .hbEncoreRecovered, .hbEncoreExhausted, .hbReplayMarks, .hbPartRetries, .hbPartExhausted, .hbParityRestores, .pwrCfg, .pwrCap, .pwrStatus, .pwrInput, .pwrIdleCfg, .pwrDie, .pwrCapRail, .pwrRail]

/-- Part 2 of the list of register names. -/
def RegName.all2 : List RegName :=
  [.pwrHalfSteps, .pwrDroops, .pwrFallbacks, .pwrCappedUs, .pwrCueHits, .pwrCueMisses, .pwrEvenBroken, .pwrIdleUs, .tmpSense, .tmpExtLim, .tmpTripCause, .rstStatus, .rstCause, .rstHubEpoch, .rstSoft, .rstSoftStatus, .rstGpio, .rstWdogCount, .rstIsoErrors, .rstOptRecord, .secLc, .secCmd, .secCmdStatus, .secIdDigest, .secSigNext, .secSigCeil, .secSigCount, .secDbgStatus, .secDbgNonce, .secFw]

/-- Part 3 of the list of register names. -/
def RegName.all3 : List RegName :=
  [.secCal, .secDbgFails, .secDigest, .secStage, .schCfg, .schStatus, .schCardFrame, .schCardCommit, .schCardStatus, .schCardPos, .schSlot, .schInval, .schInvalStatus, .schFaultBase, .schFaultCfg, .schFaultPtr, .schFaultResolve, .schPartCfg, .schPartAlloc0, .schPartAlloc1, .schPartQuota, .schPartShare, .schPartRoot, .schPartWin, .schPartCtrl, .schPartState, .schPartCommit, .schPartStatus, .schPartDebtUs, .schPartOverruns]

/-- Part 4 of the list of register names. -/
def RegName.all4 : List RegName :=
  [.schPartMaxOverrunUs, .schPartLostUs, .schPartSwitches, .schPartFaults, .schPartHardSwaps, .schCtxCfg, .schCtxSets0, .schCtxSets1, .schCtxSave, .schCtxSpill, .schCtxState, .schCtxSince, .srvStatus, .srvLedgerBase, .srvCounter, .srvCancel, .srvReqSel, .srvDegenerate, .srvAdapterSel, .srvAdapterData0, .srvAdapterData1, .srvReqData, .srvMissTtft, .srvMissTbt, .srvTokens, .srvCancels, .srvTenant, .srvPfxCfg, .srvPfxKeySel, .srvPfxKeyLo]

/-- Part 5 of the list of register names. -/
def RegName.all5 : List RegName :=
  [.srvPfxKeyHi, .srvPfxKeyCtrl, .srvPfxKeyStatus, .srvPfxLookups, .srvPfxHits, .srvPfxInserts, .srvPfxEvicts, .srvPfxBase, .srvPfxCommit, .srvPfxStatus, .clrCtxCfg, .clrCtxStatus, .clrSqBase, .clrSqCfg, .clrSqDb, .clrSqStatus, .clrSqCtrl, .clrSqSeq, .clrCqBase, .clrCqCfg, .clrCqDb, .clrCqStatus, .clrCqStall, .clrS, .clrPred, .clrEvent, .clrEncBase, .clrEncCfg, .fabPortCtrl, .fabPortStatus]

/-- Part 6 of the list of register names. -/
def RegName.all6 : List RegName :=
  [.fabPortMac, .fabPortGwMac, .fabInjCtrl, .fabInjSeed, .fabTxFrames, .fabRxFrames, .fabFecCorrected, .fabFecUncorrected, .fabRxBadFcs, .fabRxForeign, .fabRxUnknown, .fabRxUnauth, .fabRxReplay, .fabRxTag, .fabRxDup, .fabRxCe, .fabTxRetrans, .fabInjFrames, .fabNode, .fabNodeIpLo, .fabNodeIpHi, .fabCfg, .fabCc, .fabPeerBase, .fabPeerCtrl, .reelGroupBase, .reelGroupCtrl, .reelGroupStatus, .fabStatus, .fabReg]

/-- Part 7 of the list of register names. -/
def RegName.all7 : List RegName :=
  [.fabRegCommit, .fabRegStatus, .fabRegGranules, .fabRegThrottled, .reelCollectives, .reelCappedEvents, .reelMismatch, .reelHandshakes, .reelHandshakeFail, .fabPeerState, .reelGroupState, .thmLinkStatus, .thmLinkCtrl, .thmRegBase, .thmMemBase, .thmSync, .thmTimePair, .thmVecMask, .thmVecPend, .thmReplays, .thmRefused, .thmSnoopTimeouts, .thmBackinv, .dtMapDead, .dtMapCapacity, .dtMapCommit, .dtMapStatus, .dtMapoutCfg, .dtMapoutProgress, .dtArbCfg]

/-- Part 8 of the list of register names. -/
def RegName.all8 : List RegName :=
  [.dtReg, .dtRegCommit, .dtRegStatus, .dtRegGranules, .dtRegThrottled, .dtChState, .dtChCe, .dtChUe, .dtChMergeRmw, .dtScrubCfg, .dtScrubStatus, .dtScrubAlarmUs, .dtScrubLapStart, .dtScrubLastLapUs, .dtFlip, .dtFlipCtrl, .dtFlipHit, .stkMapDead, .stkMapCapacity, .stkMapCommit, .stkMapStatus, .stkMapoutCfg, .stkMapoutProgress, .stkArbCfg, .stkReg, .stkRegCommit, .stkRegStatus, .stkRegGranules, .stkRegThrottled, .stkChState]

/-- Part 9 of the list of register names. -/
def RegName.all9 : List RegName :=
  [.stkChCe, .stkChUe, .stkChMergeRmw, .stkScrubCfg, .stkScrubStatus, .stkScrubAlarmUs, .stkScrubLapStart, .stkScrubLastLapUs, .stkFlip, .stkFlipCtrl, .stkFlipHit, .galCfg, .galPromBytes, .galPromWait, .galFlushViol, .galWindowRefused, .galUnitState, .galUnitCtrl, .galUnitBusyCycles, .galUnitMacs, .galUnitRdBytes, .galUnitWrBytes, .galUnitYields, .galUnitCommands, .galUnitReexec, .galUnitEntries, .cdId, .cdSetsInService, .cdStrikeCfg, .cdPerfCtrl]

/-- Part 10 of the list of register names. -/
def RegName.all10 : List RegName :=
  [.cdMeshStatus, .cdMeshRetries, .cdArrayCfg, .cdArrayInject, .cdArraySat, .cdArrayNan, .cdDmaOobElems, .cdDmaIdxHits, .cdDmaTlbMisses, .cdDmaTurnBlocks, .cdSetStatus, .cdSetCtrl, .cdSpareMap, .cdSetOwner, .cdSetTiles, .cdSetReexecTiles, .cdSetFigures, .cdSetSbufRdBytes, .cdSetSbufWrBytes, .cdSetMeshInBytes, .cdSetMeshOutBytes, .cdSetBarrierCycles, .cdSetSaves, .cdCoreStatus, .cdCoreBusyCycles, .cdCoreArrayCycles, .cdCoreMacCells, .cdCoreFreezeFeed, .cdCoreFreezeDrain, .cdCoreBypassCycles]

/-- Part 11 of the list of register names. -/
def RegName.all11 : List RegName :=
  [.cdCoreVectorCycles, .cdCoreSramConflict, .cdCoreSramCe, .cdCoreDmaBytes, .cdCoreChecksumFail]

/-- Every register name, in the order of the table. -/
def RegName.all : List RegName :=
  List.flatten [RegName.all0, RegName.all1, RegName.all2, RegName.all3, RegName.all4, RegName.all5, RegName.all6, RegName.all7, RegName.all8, RegName.all9, RegName.all10, RegName.all11]

/-- A field of a register: its bits [hi:lo]. -/
structure Fld where
  reg : RegName
  hi  : Nat
  lo  : Nat
  deriving DecidableEq, Repr

namespace F
/-- `HB_REG_ERR`.UNMAPPED, W1C (R379). -/
def hbRegErr_unmapped : Fld := ⟨.hbRegErr, 1, 1⟩
/-- `HB_REG_ERR`.MISALIGNED, W1C (R379). -/
def hbRegErr_misaligned : Fld := ⟨.hbRegErr, 0, 0⟩
/-- `FEAT_VERSION`.VALUE, RO (R76). -/
def featVersion_value : Fld := ⟨.featVersion, 31, 0⟩
/-- `FEAT_CORES`.VALUE, RO (R76). -/
def featCores_value : Fld := ⟨.featCores, 31, 0⟩
/-- `FEAT_SETS`.VALUE, RO (R76). -/
def featSets_value : Fld := ⟨.featSets, 31, 0⟩
/-- `FEAT_ARRAY`.VALUE, RO (R76). -/
def featArray_value : Fld := ⟨.featArray, 31, 0⟩
/-- `FEAT_FORMATS`.VALUE, RO (R76). -/
def featFormats_value : Fld := ⟨.featFormats, 31, 0⟩
/-- `FEAT_STACKS`.VALUE, RO (R76). -/
def featStacks_value : Fld := ⟨.featStacks, 31, 0⟩
/-- `FEAT_STACK_BYTES`.VALUE, RO (R76). -/
def featStackBytes_value : Fld := ⟨.featStackBytes, 63, 0⟩
/-- `FEAT_DEEP_BYTES`.VALUE, RO (R76). -/
def featDeepBytes_value : Fld := ⟨.featDeepBytes, 63, 0⟩
/-- `FEAT_GALLIARD`.VALUE, RO (R76). -/
def featGalliard_value : Fld := ⟨.featGalliard, 31, 0⟩
/-- `FEAT_QUEUES`.VALUE, RO (R76). -/
def featQueues_value : Fld := ⟨.featQueues, 31, 0⟩
/-- `FEAT_QUEUE_DEPTH`.VALUE, RO (R76). -/
def featQueueDepth_value : Fld := ⟨.featQueueDepth, 31, 0⟩
/-- `FEAT_SCALARS`.VALUE, RO (R76). -/
def featScalars_value : Fld := ⟨.featScalars, 31, 0⟩
/-- `FEAT_SEQ`.VALUE, RO (R76). -/
def featSeq_value : Fld := ⟨.featSeq, 31, 0⟩
/-- `FEAT_DENSE_ATTN`.VALUE, RO (R76). -/
def featDenseAttn_value : Fld := ⟨.featDenseAttn, 31, 0⟩
/-- `FEAT_SPARSE`.VALUE, RO (R76). -/
def featSparse_value : Fld := ⟨.featSparse, 63, 0⟩
/-- `FEAT_SERVING`.VALUE, RO (R76). -/
def featServing_value : Fld := ⟨.featServing, 31, 0⟩
/-- `FEAT_ADAPTERS`.VALUE, RO (R76). -/
def featAdapters_value : Fld := ⟨.featAdapters, 31, 0⟩
/-- `FEAT_VOCAB`.VALUE, RO (R76). -/
def featVocab_value : Fld := ⟨.featVocab, 63, 0⟩
/-- `FEAT_MOE`.VALUE, RO (R76). -/
def featMoe_value : Fld := ⟨.featMoe, 31, 0⟩
/-- `FEAT_PARTITIONS`.VALUE, RO (R76). -/
def featPartitions_value : Fld := ⟨.featPartitions, 31, 0⟩
/-- `FEAT_FABRIC`.VALUE, RO (R76). -/
def featFabric_value : Fld := ⟨.featFabric, 63, 0⟩
/-- `FEAT_CLOCK`.VALUE, RO (R76). -/
def featClock_value : Fld := ⟨.featClock, 31, 0⟩
/-- `FEAT_OPCODES`.VALUE, RO (R76). -/
def featOpcodes_value : Fld := ⟨.featOpcodes, 63, 0⟩
/-- `FEAT_GEN`.VALUE, RO (R76). -/
def featGen_value : Fld := ⟨.featGen, 63, 0⟩
/-- `HB_SPLIT_CFG`.ATTN_NEAR_MAX, RW (R19). -/
def hbSplitCfg_attnNearMax : Fld := ⟨.hbSplitCfg, 20, 16⟩
/-- `HB_SPLIT_CFG`.EXPERT_NEAR_MAX, RW (R19). -/
def hbSplitCfg_expertNearMax : Fld := ⟨.hbSplitCfg, 3, 0⟩
/-- `HB_SPLIT_FALLBACK`.COUNT, RO (R29). -/
def hbSplitFallback_count : Fld := ⟨.hbSplitFallback, 31, 0⟩
/-- `HB_PARITY_CMD`.GO, WO (R205). -/
def hbParityCmd_go : Fld := ⟨.hbParityCmd, 63, 63⟩
/-- `HB_PARITY_CMD`.OP, RW (R205). -/
def hbParityCmd_op : Fld := ⟨.hbParityCmd, 62, 62⟩
/-- `HB_PARITY_CMD`.LAST_ROW, RW (R205). -/
def hbParityCmd_lastRow : Fld := ⟨.hbParityCmd, 46, 32⟩
/-- `HB_PARITY_CMD`.FIRST_ROW, RW (R205). -/
def hbParityCmd_firstRow : Fld := ⟨.hbParityCmd, 14, 0⟩
/-- `HB_PARITY_STATUS`.BUSY, RO (R205). -/
def hbParityStatus_busy : Fld := ⟨.hbParityStatus, 31, 31⟩
/-- `HB_PARITY_STATUS`.REFUSED, W1C (R205). -/
def hbParityStatus_refused : Fld := ⟨.hbParityStatus, 30, 30⟩
/-- `HB_PARITY_STATUS`.DONE, W1C (R205). -/
def hbParityStatus_done : Fld := ⟨.hbParityStatus, 29, 29⟩
/-- `HB_PARITY_STATUS`.ROW, RO (R205). -/
def hbParityStatus_row : Fld := ⟨.hbParityStatus, 14, 0⟩
/-- `HB_ENGINE_RATE`.RATE, RW (R205). -/
def hbEngineRate_rate : Fld := ⟨.hbEngineRate, 15, 0⟩
/-- `HB_PARITY_REBUILDS`.COUNT, RO (R195). -/
def hbParityRebuilds_count : Fld := ⟨.hbParityRebuilds, 63, 0⟩
/-- `HB_PARITY_DOUBLE`.COUNT, RO (R196). -/
def hbParityDouble_count : Fld := ⟨.hbParityDouble, 63, 0⟩
/-- `HB_PARITY_MAP`.MAP, RO (R193). -/
def hbParityMap_map : Fld := ⟨.hbParityMap, 63, 0⟩
/-- `HB_ATTN_NEAR_SEQS`.COUNT, RO (R278). -/
def hbAttnNearSeqs_count : Fld := ⟨.hbAttnNearSeqs, 63, 0⟩
/-- `HB_ATTN_CORE_SEQS`.COUNT, RO (R278). -/
def hbAttnCoreSeqs_count : Fld := ⟨.hbAttnCoreSeqs, 63, 0⟩
/-- `HB_ATTN_JOINS`.COUNT, RO (R278). -/
def hbAttnJoins_count : Fld := ⟨.hbAttnJoins, 63, 0⟩
/-- `HB_KV_PAGES_OPENED`.COUNT, RO (R278). -/
def hbKvPagesOpened_count : Fld := ⟨.hbKvPagesOpened, 63, 0⟩
/-- `HB_KV_PAGES_RELEASED`.COUNT, RO (R278). -/
def hbKvPagesReleased_count : Fld := ⟨.hbKvPagesReleased, 63, 0⟩
/-- `HB_KV_PAGES_MOVED`.COUNT, RO (R278). -/
def hbKvPagesMoved_count : Fld := ⟨.hbKvPagesMoved, 63, 0⟩
/-- `HB_ERR_BASE`.DPA, RW (R474). -/
def hbErrBase_dpa : Fld := ⟨.hbErrBase, 47, 12⟩
/-- `HB_ERR_CFG`.EN, RW (R474). -/
def hbErrCfg_en : Fld := ⟨.hbErrCfg, 31, 31⟩
/-- `HB_ERR_CFG`.IRQ_MIN, RW (R474). -/
def hbErrCfg_irqMin : Fld := ⟨.hbErrCfg, 25, 24⟩
/-- `HB_ERR_CFG`.VECTOR, RW (R474). -/
def hbErrCfg_vector : Fld := ⟨.hbErrCfg, 23, 16⟩
/-- `HB_ERR_CFG`.DEPTH_LOG2, RW (R474). -/
def hbErrCfg_depthLog2 : Fld := ⟨.hbErrCfg, 3, 0⟩
/-- `HB_ERR_PTR`.TAIL, RO (R474). -/
def hbErrPtr_tail : Fld := ⟨.hbErrPtr, 63, 32⟩
/-- `HB_ERR_PTR`.HEAD, RW (R474). -/
def hbErrPtr_head : Fld := ⟨.hbErrPtr, 31, 0⟩
/-- `HB_ENCORE_CFG`.MAX, RW (R474). -/
def hbEncoreCfg_max : Fld := ⟨.hbEncoreCfg, 1, 0⟩
/-- `HB_RESTORE_BASE`.DPA, RW (R474). -/
def hbRestoreBase_dpa : Fld := ⟨.hbRestoreBase, 47, 12⟩
/-- `HB_ERR_LOST`.COUNT, RO (R474). -/
def hbErrLost_count : Fld := ⟨.hbErrLost, 63, 0⟩
/-- `HB_ENCORES`.COUNT, RO (R474). -/
def hbEncores_count : Fld := ⟨.hbEncores, 63, 0⟩
/-- `HB_ENCORE_RECOVERED`.COUNT, RO (R474). -/
def hbEncoreRecovered_count : Fld := ⟨.hbEncoreRecovered, 63, 0⟩
/-- `HB_ENCORE_EXHAUSTED`.COUNT, RO (R474). -/
def hbEncoreExhausted_count : Fld := ⟨.hbEncoreExhausted, 63, 0⟩
/-- `HB_REPLAY_MARKS`.COUNT, RO (R474). -/
def hbReplayMarks_count : Fld := ⟨.hbReplayMarks, 63, 0⟩
/-- `HB_PART_RETRIES`.COUNT, RO (R474). -/
def hbPartRetries_count : Fld := ⟨.hbPartRetries, 63, 0⟩
/-- `HB_PART_EXHAUSTED`.COUNT, RO (R474). -/
def hbPartExhausted_count : Fld := ⟨.hbPartExhausted, 63, 0⟩
/-- `HB_PARITY_RESTORES`.COUNT, RO (R474). -/
def hbParityRestores_count : Fld := ⟨.hbParityRestores, 63, 0⟩
/-- `PWR_CFG`.EVEN_TEMPO, RW (R401). -/
def pwrCfg_evenTempo : Fld := ⟨.pwrCfg, 31, 31⟩
/-- `PWR_CFG`.BOOST_EN, RW (R401). -/
def pwrCfg_boostEn : Fld := ⟨.pwrCfg, 30, 30⟩
/-- `PWR_CFG`.CUE_EN, RW (R401). -/
def pwrCfg_cueEn : Fld := ⟨.pwrCfg, 29, 29⟩
/-- `PWR_CFG`.DROOP_MARGIN, RW (R401). -/
def pwrCfg_droopMargin : Fld := ⟨.pwrCfg, 19, 16⟩
/-- `PWR_CFG`.CUE_HOLD_US, RW (R401). -/
def pwrCfg_cueHoldUs : Fld := ⟨.pwrCfg, 15, 0⟩
/-- `PWR_CAP`.BRAKE_W, RW (R401). -/
def pwrCap_brakeW : Fld := ⟨.pwrCap, 58, 48⟩
/-- `PWR_CAP`.WATTS, RW (R401). -/
def pwrCap_watts : Fld := ⟨.pwrCap, 42, 32⟩
/-- `PWR_CAP`.GUARD_W, RW (R401). -/
def pwrCap_guardW : Fld := ⟨.pwrCap, 7, 0⟩
/-- `PWR_STATUS`.BRAKE, RO (R401). -/
def pwrStatus_brake : Fld := ⟨.pwrStatus, 31, 31⟩
/-- `PWR_STATUS`.ALERT, RO (R401). -/
def pwrStatus_alert : Fld := ⟨.pwrStatus, 30, 30⟩
/-- `PWR_STATUS`.EVEN_BROKEN, W1C (R401). -/
def pwrStatus_evenBroken : Fld := ⟨.pwrStatus, 29, 29⟩
/-- `PWR_STATUS`.CAP_UNMET, W1C (R401). -/
def pwrStatus_capUnmet : Fld := ⟨.pwrStatus, 28, 28⟩
/-- `PWR_STATUS`.ALLOWED, RO (R401). -/
def pwrStatus_allowed : Fld := ⟨.pwrStatus, 5, 3⟩
/-- `PWR_STATUS`.IDLE, RO (R401). -/
def pwrStatus_idle : Fld := ⟨.pwrStatus, 2, 0⟩
/-- `PWR_INPUT`.VOLTS, RO (R401). -/
def pwrInput_volts : Fld := ⟨.pwrInput, 63, 48⟩
/-- `PWR_INPUT`.MILLIWATTS, RO (R401). -/
def pwrInput_milliwatts : Fld := ⟨.pwrInput, 31, 0⟩
/-- `PWR_IDLE_CFG`.MAX_STATE, RW (R401). -/
def pwrIdleCfg_maxState : Fld := ⟨.pwrIdleCfg, 2, 0⟩
/-- `PWR_DIE`.F_REQ, RO (R401). -/
def pwrDie_fReq : Fld := ⟨.pwrDie, 63, 48⟩
/-- `PWR_DIE`.F_NOW, RO (R401). -/
def pwrDie_fNow : Fld := ⟨.pwrDie, 47, 32⟩
/-- `PWR_DIE`.V_NOW, RO (R401). -/
def pwrDie_vNow : Fld := ⟨.pwrDie, 31, 16⟩
/-- `PWR_DIE`.CAPPED, RO (R401). -/
def pwrDie_capped : Fld := ⟨.pwrDie, 15, 15⟩
/-- `PWR_DIE`.CAUSE, RO (R401). -/
def pwrDie_cause : Fld := ⟨.pwrDie, 14, 12⟩
/-- `PWR_DIE`.REST, RO (R401). -/
def pwrDie_rest : Fld := ⟨.pwrDie, 11, 11⟩
/-- `PWR_DIE`.CUE_HOLD, RO (R401). -/
def pwrDie_cueHold : Fld := ⟨.pwrDie, 10, 10⟩
/-- `PWR_CAP_RAIL`.LIM_1US, RW (R401). -/
def pwrCapRail_lim1us : Fld := ⟨.pwrCapRail, 31, 22⟩
/-- `PWR_CAP_RAIL`.LIM_10US, RW (R401). -/
def pwrCapRail_lim10us : Fld := ⟨.pwrCapRail, 21, 12⟩
/-- `PWR_CAP_RAIL`.LIM_100US, RW (R401). -/
def pwrCapRail_lim100us : Fld := ⟨.pwrCapRail, 11, 2⟩
/-- `PWR_RAIL`.AMPS, RO (R401). -/
def pwrRail_amps : Fld := ⟨.pwrRail, 47, 32⟩
/-- `PWR_RAIL`.MV, RO (R401). -/
def pwrRail_mv : Fld := ⟨.pwrRail, 31, 16⟩
/-- `PWR_RAIL`.OVER_100US, W1C (R401). -/
def pwrRail_over100us : Fld := ⟨.pwrRail, 2, 2⟩
/-- `PWR_RAIL`.OVER_10US, W1C (R401). -/
def pwrRail_over10us : Fld := ⟨.pwrRail, 1, 1⟩
/-- `PWR_RAIL`.OVER_1US, W1C (R401). -/
def pwrRail_over1us : Fld := ⟨.pwrRail, 0, 0⟩
/-- `PWR_HALF_STEPS`.COUNT, RO (R401). -/
def pwrHalfSteps_count : Fld := ⟨.pwrHalfSteps, 63, 0⟩
/-- `PWR_DROOPS`.COUNT, RO (R401). -/
def pwrDroops_count : Fld := ⟨.pwrDroops, 63, 0⟩
/-- `PWR_FALLBACKS`.COUNT, RO (R401). -/
def pwrFallbacks_count : Fld := ⟨.pwrFallbacks, 63, 0⟩
/-- `PWR_CAPPED_US`.COUNT, RO (R401). -/
def pwrCappedUs_count : Fld := ⟨.pwrCappedUs, 63, 0⟩
/-- `PWR_CUE_HITS`.COUNT, RO (R401). -/
def pwrCueHits_count : Fld := ⟨.pwrCueHits, 63, 0⟩
/-- `PWR_CUE_MISSES`.COUNT, RO (R401). -/
def pwrCueMisses_count : Fld := ⟨.pwrCueMisses, 63, 0⟩
/-- `PWR_EVEN_BROKEN`.COUNT, RO (R401). -/
def pwrEvenBroken_count : Fld := ⟨.pwrEvenBroken, 63, 0⟩
/-- `PWR_IDLE_US`.COUNT, RO (R401). -/
def pwrIdleUs_count : Fld := ⟨.pwrIdleUs, 63, 0⟩
/-- `TMP_SENSE`.VALID, RO (R401). -/
def tmpSense_valid : Fld := ⟨.tmpSense, 31, 31⟩
/-- `TMP_SENSE`.BROKEN, RO (R401). -/
def tmpSense_broken : Fld := ⟨.tmpSense, 30, 30⟩
/-- `TMP_SENSE`.DISABLED, RO (R401). -/
def tmpSense_disabled : Fld := ⟨.tmpSense, 29, 29⟩
/-- `TMP_SENSE`.TEMP, RO (R401). -/
def tmpSense_temp : Fld := ⟨.tmpSense, 15, 0⟩
/-- `TMP_EXT_LIM`.TRIP, RW (R401). -/
def tmpExtLim_trip : Fld := ⟨.tmpExtLim, 31, 16⟩
/-- `TMP_EXT_LIM`.THROTTLE, RW (R401). -/
def tmpExtLim_throttle : Fld := ⟨.tmpExtLim, 15, 0⟩
/-- `TMP_TRIP_CAUSE`.VALID, W1C (R401). -/
def tmpTripCause_valid : Fld := ⟨.tmpTripCause, 31, 31⟩
/-- `TMP_TRIP_CAUSE`.KIND, RO (R401). -/
def tmpTripCause_kind : Fld := ⟨.tmpTripCause, 30, 28⟩
/-- `TMP_TRIP_CAUSE`.INDEX, RO (R401). -/
def tmpTripCause_index : Fld := ⟨.tmpTripCause, 7, 0⟩
/-- `RST_STATUS`.READY, RO (R419). -/
def rstStatus_ready : Fld := ⟨.rstStatus, 31, 31⟩
/-- `RST_STATUS`.WIPING, RO (R419). -/
def rstStatus_wiping : Fld := ⟨.rstStatus, 30, 30⟩
/-- `RST_STATUS`.BOOT_FAIL, RO (R419). -/
def rstStatus_bootFail : Fld := ⟨.rstStatus, 29, 29⟩
/-- `RST_STATUS`.BOOT_USED, RO (R419). -/
def rstStatus_bootUsed : Fld := ⟨.rstStatus, 28, 28⟩
/-- `RST_STATUS`.OPT_SRC, RO (R419). -/
def rstStatus_optSrc : Fld := ⟨.rstStatus, 27, 26⟩
/-- `RST_STATUS`.OPT_COPY_BAD, RO (R419). -/
def rstStatus_optCopyBad : Fld := ⟨.rstStatus, 25, 25⟩
/-- `RST_STATUS`.OPT_PRIMARY_BAD, RO (R419). -/
def rstStatus_optPrimaryBad : Fld := ⟨.rstStatus, 24, 24⟩
/-- `RST_CAUSE`.REFCLK, W1C (R419). -/
def rstCause_refclk : Fld := ⟨.rstCause, 7, 7⟩
/-- `RST_CAUSE`.DEBUG, W1C (R419). -/
def rstCause_debug : Fld := ⟨.rstCause, 6, 6⟩
/-- `RST_CAUSE`.SECURITY, W1C (R419). -/
def rstCause_security : Fld := ⟨.rstCause, 5, 5⟩
/-- `RST_CAUSE`.TRIP, W1C (R419). -/
def rstCause_trip : Fld := ⟨.rstCause, 4, 4⟩
/-- `RST_CAUSE`.WDOG, W1C (R419). -/
def rstCause_wdog : Fld := ⟨.rstCause, 3, 3⟩
/-- `RST_CAUSE`.HOT, W1C (R419). -/
def rstCause_hot : Fld := ⟨.rstCause, 2, 2⟩
/-- `RST_CAUSE`.MRST, W1C (R419). -/
def rstCause_mrst : Fld := ⟨.rstCause, 1, 1⟩
/-- `RST_CAUSE`.POR, W1C (R419). -/
def rstCause_por : Fld := ⟨.rstCause, 0, 0⟩
/-- `RST_HUB_EPOCH`.EPOCH, RO (R419). -/
def rstHubEpoch_epoch : Fld := ⟨.rstHubEpoch, 31, 0⟩
/-- `RST_SOFT`.GO, WO (R419). -/
def rstSoft_go : Fld := ⟨.rstSoft, 31, 31⟩
/-- `RST_SOFT`.KIND, RW (R419). -/
def rstSoft_kind : Fld := ⟨.rstSoft, 11, 10⟩
/-- `RST_SOFT`.DIE, RW (R419). -/
def rstSoft_die : Fld := ⟨.rstSoft, 9, 9⟩
/-- `RST_SOFT`.INDEX, RW (R419). -/
def rstSoft_index : Fld := ⟨.rstSoft, 5, 0⟩
/-- `RST_SOFT_STATUS`.BUSY, RO (R419). -/
def rstSoftStatus_busy : Fld := ⟨.rstSoftStatus, 31, 31⟩
/-- `RST_SOFT_STATUS`.REFUSED, W1C (R419). -/
def rstSoftStatus_refused : Fld := ⟨.rstSoftStatus, 30, 30⟩
/-- `RST_SOFT_STATUS`.DONE, W1C (R419). -/
def rstSoftStatus_done : Fld := ⟨.rstSoftStatus, 29, 29⟩
/-- `RST_GPIO`.IN, RO (R419). -/
def rstGpio_in : Fld := ⟨.rstGpio, 47, 32⟩
/-- `RST_GPIO`.OUT, RW (R419). -/
def rstGpio_out : Fld := ⟨.rstGpio, 31, 16⟩
/-- `RST_GPIO`.DIR, RW (R419). -/
def rstGpio_dir : Fld := ⟨.rstGpio, 15, 0⟩
/-- `RST_WDOG_COUNT`.COUNT, RO (R419). -/
def rstWdogCount_count : Fld := ⟨.rstWdogCount, 63, 0⟩
/-- `RST_ISO_ERRORS`.COUNT, RO (R419). -/
def rstIsoErrors_count : Fld := ⟨.rstIsoErrors, 63, 0⟩
/-- `RST_OPT_RECORD`.WORD, RO (R409). -/
def rstOptRecord_word : Fld := ⟨.rstOptRecord, 63, 0⟩
/-- `SEC_LC`.LAST_CHANGE, RO (R453). -/
def secLc_lastChange : Fld := ⟨.secLc, 15, 12⟩
/-- `SEC_LC`.FUSES, RO (R453). -/
def secLc_fuses : Fld := ⟨.secLc, 7, 4⟩
/-- `SEC_LC`.STATE, RO (R453). -/
def secLc_state : Fld := ⟨.secLc, 2, 0⟩
/-- `SEC_CMD`.GO, WO (R453). -/
def secCmd_go : Fld := ⟨.secCmd, 31, 31⟩
/-- `SEC_CMD`.OP, RW (R453). -/
def secCmd_op : Fld := ⟨.secCmd, 3, 0⟩
/-- `SEC_CMD_STATUS`.BUSY, RO (R453). -/
def secCmdStatus_busy : Fld := ⟨.secCmdStatus, 31, 31⟩
/-- `SEC_CMD_STATUS`.DONE, W1C (R453). -/
def secCmdStatus_done : Fld := ⟨.secCmdStatus, 30, 30⟩
/-- `SEC_CMD_STATUS`.IGNORED, W1C (R453). -/
def secCmdStatus_ignored : Fld := ⟨.secCmdStatus, 29, 29⟩
/-- `SEC_CMD_STATUS`.RESULT, RO (R453). -/
def secCmdStatus_result : Fld := ⟨.secCmdStatus, 7, 0⟩
/-- `SEC_ID_DIGEST`.DIGEST, RO (R421). -/
def secIdDigest_digest : Fld := ⟨.secIdDigest, 63, 0⟩
/-- `SEC_SIG_NEXT`.INDEX, RO (R424). -/
def secSigNext_index : Fld := ⟨.secSigNext, 39, 0⟩
/-- `SEC_SIG_CEIL`.INDEX, RO (R424). -/
def secSigCeil_index : Fld := ⟨.secSigCeil, 39, 0⟩
/-- `SEC_SIG_COUNT`.COUNT, RO (R453). -/
def secSigCount_count : Fld := ⟨.secSigCount, 63, 0⟩
/-- `SEC_DBG_STATUS`.LEVEL, RO (R453). -/
def secDbgStatus_level : Fld := ⟨.secDbgStatus, 31, 30⟩
/-- `SEC_DBG_STATUS`.OPERATOR, RO (R453). -/
def secDbgStatus_operator : Fld := ⟨.secDbgStatus, 29, 29⟩
/-- `SEC_DBG_STATUS`.INJECT, RO (R453). -/
def secDbgStatus_inject : Fld := ⟨.secDbgStatus, 28, 28⟩
/-- `SEC_DBG_STATUS`.RESET_OK, RO (R453). -/
def secDbgStatus_resetOk : Fld := ⟨.secDbgStatus, 27, 27⟩
/-- `SEC_DBG_STATUS`.LOCKED, RO (R453). -/
def secDbgStatus_locked : Fld := ⟨.secDbgStatus, 26, 26⟩
/-- `SEC_DBG_STATUS`.REMAIN_S, RO (R453). -/
def secDbgStatus_remainS : Fld := ⟨.secDbgStatus, 25, 0⟩
/-- `SEC_DBG_NONCE`.NONCE, RO (R436). -/
def secDbgNonce_nonce : Fld := ⟨.secDbgNonce, 63, 0⟩
/-- `SEC_FW`.REV, RO (R453). -/
def secFw_rev : Fld := ⟨.secFw, 63, 32⟩
/-- `SEC_FW`.SVN, RO (R453). -/
def secFw_svn : Fld := ⟨.secFw, 31, 24⟩
/-- `SEC_FW`.MIN_SVN, RO (R453). -/
def secFw_minSvn : Fld := ⟨.secFw, 23, 16⟩
/-- `SEC_FW`.PENDING, RO (R453). -/
def secFw_pending : Fld := ⟨.secFw, 1, 1⟩
/-- `SEC_FW`.SLOT, RO (R453). -/
def secFw_slot : Fld := ⟨.secFw, 0, 0⟩
/-- `SEC_CAL`.REFUSED, W1C (R453). -/
def secCal_refused : Fld := ⟨.secCal, 31, 31⟩
/-- `SEC_CAL`.SOURCE, RO (R453). -/
def secCal_source : Fld := ⟨.secCal, 30, 30⟩
/-- `SEC_CAL`.NONE, RO (R453). -/
def secCal_none : Fld := ⟨.secCal, 29, 29⟩
/-- `SEC_CAL`.BAD_ENTRY, RO (R453). -/
def secCal_badEntry : Fld := ⟨.secCal, 28, 16⟩
/-- `SEC_DBG_FAILS`.COUNT, RO (R453). -/
def secDbgFails_count : Fld := ⟨.secDbgFails, 63, 0⟩
/-- `SEC_DIGEST`.DIGEST, RO (R420). -/
def secDigest_digest : Fld := ⟨.secDigest, 63, 0⟩
/-- `SEC_STAGE`.WORD, RW (R451). -/
def secStage_word : Fld := ⟨.secStage, 63, 0⟩
/-- `SCH_CFG`.STEP_HOLD_MAX_MS, RW (R329). -/
def schCfg_stepHoldMaxMs : Fld := ⟨.schCfg, 55, 48⟩
/-- `SCH_CFG`.QUANTUM_US, RW (R329). -/
def schCfg_quantumUs : Fld := ⟨.schCfg, 47, 32⟩
/-- `SCH_CFG`.BLOCK_EVICT_US, RW (R329). -/
def schCfg_blockEvictUs : Fld := ⟨.schCfg, 31, 16⟩
/-- `SCH_CFG`.OVERRUN_REC_US, RW (R329). -/
def schCfg_overrunRecUs : Fld := ⟨.schCfg, 15, 0⟩
/-- `SCH_STATUS`.FAULT_RING_FULL, RO (R333). -/
def schStatus_faultRingFull : Fld := ⟨.schStatus, 2, 2⟩
/-- `SCH_STATUS`.RESOLVE_IGNORED, W1C (R333). -/
def schStatus_resolveIgnored : Fld := ⟨.schStatus, 1, 1⟩
/-- `SCH_STATUS`.REG_OWNED, W1C (R333). -/
def schStatus_regOwned : Fld := ⟨.schStatus, 0, 0⟩
/-- `SCH_CARD_FRAME`.EN, RW (R319). -/
def schCardFrame_en : Fld := ⟨.schCardFrame, 31, 31⟩
/-- `SCH_CARD_FRAME`.FRAME_US, RW (R319). -/
def schCardFrame_frameUs : Fld := ⟨.schCardFrame, 19, 0⟩
/-- `SCH_CARD_COMMIT`.LOCK, WO (R12). -/
def schCardCommit_lock : Fld := ⟨.schCardCommit, 1, 1⟩
/-- `SCH_CARD_COMMIT`.GO, WO (R12). -/
def schCardCommit_go : Fld := ⟨.schCardCommit, 0, 0⟩
/-- `SCH_CARD_STATUS`.BAD_FIELD, RO (R12). -/
def schCardStatus_badField : Fld := ⟨.schCardStatus, 15, 8⟩
/-- `SCH_CARD_STATUS`.LOCK_IGNORED, W1C (R12). -/
def schCardStatus_lockIgnored : Fld := ⟨.schCardStatus, 5, 5⟩
/-- `SCH_CARD_STATUS`.LOCKED, RO (R12). -/
def schCardStatus_locked : Fld := ⟨.schCardStatus, 4, 4⟩
/-- `SCH_CARD_STATUS`.LATE, W1C (R12). -/
def schCardStatus_late : Fld := ⟨.schCardStatus, 3, 3⟩
/-- `SCH_CARD_STATUS`.REFUSED, W1C (R12). -/
def schCardStatus_refused : Fld := ⟨.schCardStatus, 2, 2⟩
/-- `SCH_CARD_STATUS`.APPLIED, W1C (R12). -/
def schCardStatus_applied : Fld := ⟨.schCardStatus, 1, 1⟩
/-- `SCH_CARD_STATUS`.PENDING, RO (R12). -/
def schCardStatus_pending : Fld := ⟨.schCardStatus, 0, 0⟩
/-- `SCH_CARD_POS`.FRAMES, RO (R319). -/
def schCardPos_frames : Fld := ⟨.schCardPos, 63, 32⟩
/-- `SCH_CARD_POS`.CUT, RO (R319). -/
def schCardPos_cut : Fld := ⟨.schCardPos, 9, 9⟩
/-- `SCH_CARD_POS`.OPEN, RO (R319). -/
def schCardPos_open : Fld := ⟨.schCardPos, 8, 8⟩
/-- `SCH_CARD_POS`.SLOT, RO (R319). -/
def schCardPos_slot : Fld := ⟨.schCardPos, 5, 0⟩
/-- `SCH_SLOT`.VALID, RW (R319). -/
def schSlot_valid : Fld := ⟨.schSlot, 63, 63⟩
/-- `SCH_SLOT`.FIXED, RW (R319). -/
def schSlot_fixed : Fld := ⟨.schSlot, 62, 62⟩
/-- `SCH_SLOT`.PARTITION, RW (R319). -/
def schSlot_partition : Fld := ⟨.schSlot, 59, 56⟩
/-- `SCH_SLOT`.STK, RW (R319). -/
def schSlot_stk : Fld := ⟨.schSlot, 55, 48⟩
/-- `SCH_SLOT`.DT, RW (R319). -/
def schSlot_dt : Fld := ⟨.schSlot, 47, 40⟩
/-- `SCH_SLOT`.FAB, RW (R319). -/
def schSlot_fab : Fld := ⟨.schSlot, 39, 32⟩
/-- `SCH_SLOT`.MIN_CD1, RW (R319). -/
def schSlot_minCd1 : Fld := ⟨.schSlot, 31, 26⟩
/-- `SCH_SLOT`.MIN_CD0, RW (R319). -/
def schSlot_minCd0 : Fld := ⟨.schSlot, 25, 20⟩
/-- `SCH_SLOT`.LENGTH_US, RW (R319). -/
def schSlot_lengthUs : Fld := ⟨.schSlot, 19, 0⟩
/-- `SCH_INVAL`.GO, WO (R312). -/
def schInval_go : Fld := ⟨.schInval, 63, 63⟩
/-- `SCH_INVAL`.ALL, RW (R312). -/
def schInval_all : Fld := ⟨.schInval, 62, 62⟩
/-- `SCH_INVAL`.PARTITION, RW (R312). -/
def schInval_partition : Fld := ⟨.schInval, 55, 52⟩
/-- `SCH_INVAL`.VA, RW (R312). -/
def schInval_va : Fld := ⟨.schInval, 51, 16⟩
/-- `SCH_INVAL`.COUNT, RW (R312). -/
def schInval_count : Fld := ⟨.schInval, 15, 0⟩
/-- `SCH_INVAL_STATUS`.BUSY, RO (R312). -/
def schInvalStatus_busy : Fld := ⟨.schInvalStatus, 31, 31⟩
/-- `SCH_INVAL_STATUS`.IGNORED, W1C (R312). -/
def schInvalStatus_ignored : Fld := ⟨.schInvalStatus, 1, 1⟩
/-- `SCH_INVAL_STATUS`.DONE, W1C (R312). -/
def schInvalStatus_done : Fld := ⟨.schInvalStatus, 0, 0⟩
/-- `SCH_FAULT_BASE`.DPA, RW (R333). -/
def schFaultBase_dpa : Fld := ⟨.schFaultBase, 47, 12⟩
/-- `SCH_FAULT_CFG`.EN, RW (R333). -/
def schFaultCfg_en : Fld := ⟨.schFaultCfg, 31, 31⟩
/-- `SCH_FAULT_CFG`.VECTOR, RW (R333). -/
def schFaultCfg_vector : Fld := ⟨.schFaultCfg, 23, 16⟩
/-- `SCH_FAULT_CFG`.DEPTH_LOG2, RW (R333). -/
def schFaultCfg_depthLog2 : Fld := ⟨.schFaultCfg, 3, 0⟩
/-- `SCH_FAULT_PTR`.TAIL, RO (R333). -/
def schFaultPtr_tail : Fld := ⟨.schFaultPtr, 63, 32⟩
/-- `SCH_FAULT_PTR`.HEAD, RW (R333). -/
def schFaultPtr_head : Fld := ⟨.schFaultPtr, 31, 0⟩
/-- `SCH_FAULT_RESOLVE`.FAULT_ID, WO (R333). -/
def schFaultResolve_faultId : Fld := ⟨.schFaultResolve, 63, 32⟩
/-- `SCH_FAULT_RESOLVE`.ACTION, WO (R333). -/
def schFaultResolve_action : Fld := ⟨.schFaultResolve, 1, 0⟩
/-- `SCH_PART_CFG`.EN, RW (R313). -/
def schPartCfg_en : Fld := ⟨.schPartCfg, 31, 31⟩
/-- `SCH_PART_CFG`.RESTART, RW (R313). -/
def schPartCfg_restart : Fld := ⟨.schPartCfg, 30, 30⟩
/-- `SCH_PART_CFG`.STEP_HOLD, RW (R313). -/
def schPartCfg_stepHold : Fld := ⟨.schPartCfg, 29, 29⟩
/-- `SCH_PART_CFG`.FAULT_TIMEOUT_MS, RW (R313). -/
def schPartCfg_faultTimeoutMs : Fld := ⟨.schPartCfg, 23, 16⟩
/-- `SCH_PART_CFG`.WAKE_US, RW (R313). -/
def schPartCfg_wakeUs : Fld := ⟨.schPartCfg, 15, 0⟩
/-- `SCH_PART_ALLOC0`.MASK, RW (R313). -/
def schPartAlloc0_mask : Fld := ⟨.schPartAlloc0, 39, 0⟩
/-- `SCH_PART_ALLOC1`.MASK, RW (R313). -/
def schPartAlloc1_mask : Fld := ⟨.schPartAlloc1, 39, 0⟩
/-- `SCH_PART_QUOTA`.ADAPTERS, RW (R313). -/
def schPartQuota_adapters : Fld := ⟨.schPartQuota, 44, 32⟩
/-- `SCH_PART_QUOTA`.REQ_SLOTS, RW (R313). -/
def schPartQuota_reqSlots : Fld := ⟨.schPartQuota, 13, 0⟩
/-- `SCH_PART_SHARE`.BORROW, RW (R313). -/
def schPartShare_borrow : Fld := ⟨.schPartShare, 31, 31⟩
/-- `SCH_PART_SHARE`.FAB, RW (R313). -/
def schPartShare_fab : Fld := ⟨.schPartShare, 23, 16⟩
/-- `SCH_PART_SHARE`.DT, RW (R313). -/
def schPartShare_dt : Fld := ⟨.schPartShare, 15, 8⟩
/-- `SCH_PART_SHARE`.STK, RW (R313). -/
def schPartShare_stk : Fld := ⟨.schPartShare, 7, 0⟩
/-- `SCH_PART_ROOT`.ADDR, RW (R313). -/
def schPartRoot_addr : Fld := ⟨.schPartRoot, 47, 16⟩
/-- `SCH_PART_ROOT`.V, RW (R313). -/
def schPartRoot_v : Fld := ⟨.schPartRoot, 0, 0⟩
/-- `SCH_PART_WIN`.EN, RW (R313). -/
def schPartWin_en : Fld := ⟨.schPartWin, 63, 63⟩
/-- `SCH_PART_WIN`.SHARED, RW (R313). -/
def schPartWin_shared : Fld := ⟨.schPartWin, 62, 62⟩
/-- `SCH_PART_WIN`.SIZE, RW (R313). -/
def schPartWin_size : Fld := ⟨.schPartWin, 59, 40⟩
/-- `SCH_PART_WIN`.BASE, RW (R313). -/
def schPartWin_base : Fld := ⟨.schPartWin, 26, 0⟩
/-- `SCH_PART_CTRL`.TEARDOWN, WO (R334). -/
def schPartCtrl_teardown : Fld := ⟨.schPartCtrl, 0, 0⟩
/-- `SCH_PART_STATE`.STATE, RO (R335). -/
def schPartState_state : Fld := ⟨.schPartState, 31, 30⟩
/-- `SCH_PART_STATE`.TD_REFUSED, W1C (R335). -/
def schPartState_tdRefused : Fld := ⟨.schPartState, 9, 9⟩
/-- `SCH_PART_STATE`.TD_DONE, W1C (R335). -/
def schPartState_tdDone : Fld := ⟨.schPartState, 8, 8⟩
/-- `SCH_PART_STATE`.LOADED_SETS, RO (R335). -/
def schPartState_loadedSets : Fld := ⟨.schPartState, 6, 0⟩
/-- `SCH_PART_COMMIT`.LOCK, WO (R12). -/
def schPartCommit_lock : Fld := ⟨.schPartCommit, 1, 1⟩
/-- `SCH_PART_COMMIT`.GO, WO (R12). -/
def schPartCommit_go : Fld := ⟨.schPartCommit, 0, 0⟩
/-- `SCH_PART_STATUS`.BAD_FIELD, RO (R12). -/
def schPartStatus_badField : Fld := ⟨.schPartStatus, 15, 8⟩
/-- `SCH_PART_STATUS`.LOCK_IGNORED, W1C (R12). -/
def schPartStatus_lockIgnored : Fld := ⟨.schPartStatus, 5, 5⟩
/-- `SCH_PART_STATUS`.LOCKED, RO (R12). -/
def schPartStatus_locked : Fld := ⟨.schPartStatus, 4, 4⟩
/-- `SCH_PART_STATUS`.LATE, W1C (R12). -/
def schPartStatus_late : Fld := ⟨.schPartStatus, 3, 3⟩
/-- `SCH_PART_STATUS`.REFUSED, W1C (R12). -/
def schPartStatus_refused : Fld := ⟨.schPartStatus, 2, 2⟩
/-- `SCH_PART_STATUS`.APPLIED, W1C (R12). -/
def schPartStatus_applied : Fld := ⟨.schPartStatus, 1, 1⟩
/-- `SCH_PART_STATUS`.PENDING, RO (R12). -/
def schPartStatus_pending : Fld := ⟨.schPartStatus, 0, 0⟩
/-- `SCH_PART_DEBT_US`.COUNT, RO (R335). -/
def schPartDebtUs_count : Fld := ⟨.schPartDebtUs, 63, 0⟩
/-- `SCH_PART_OVERRUNS`.COUNT, RO (R335). -/
def schPartOverruns_count : Fld := ⟨.schPartOverruns, 63, 0⟩
/-- `SCH_PART_MAX_OVERRUN_US`.COUNT, RO (R335). -/
def schPartMaxOverrunUs_count : Fld := ⟨.schPartMaxOverrunUs, 63, 0⟩
/-- `SCH_PART_LOST_US`.COUNT, RO (R335). -/
def schPartLostUs_count : Fld := ⟨.schPartLostUs, 63, 0⟩
/-- `SCH_PART_SWITCHES`.COUNT, RO (R335). -/
def schPartSwitches_count : Fld := ⟨.schPartSwitches, 63, 0⟩
/-- `SCH_PART_FAULTS`.COUNT, RO (R335). -/
def schPartFaults_count : Fld := ⟨.schPartFaults, 63, 0⟩
/-- `SCH_PART_HARD_SWAPS`.COUNT, RO (R335). -/
def schPartHardSwaps_count : Fld := ⟨.schPartHardSwaps, 63, 0⟩
/-- `SCH_CTX_CFG`.EN, RW (R318). -/
def schCtxCfg_en : Fld := ⟨.schCtxCfg, 31, 31⟩
/-- `SCH_CTX_CFG`.KEEPS_SBUF, RW (R318). -/
def schCtxCfg_keepsSbuf : Fld := ⟨.schCtxCfg, 30, 30⟩
/-- `SCH_CTX_CFG`.PARTITION, RW (R318). -/
def schCtxCfg_partition : Fld := ⟨.schCtxCfg, 3, 0⟩
/-- `SCH_CTX_SETS0`.MASK, RW (R318). -/
def schCtxSets0_mask : Fld := ⟨.schCtxSets0, 39, 0⟩
/-- `SCH_CTX_SETS1`.MASK, RW (R318). -/
def schCtxSets1_mask : Fld := ⟨.schCtxSets1, 39, 0⟩
/-- `SCH_CTX_SAVE`.VA, RW (R318). -/
def schCtxSave_va : Fld := ⟨.schCtxSave, 51, 21⟩
/-- `SCH_CTX_SPILL`.VA, RW (R318). -/
def schCtxSpill_va : Fld := ⟨.schCtxSpill, 51, 21⟩
/-- `SCH_CTX_STATE`.STATE, RO (R318). -/
def schCtxState_state : Fld := ⟨.schCtxState, 31, 28⟩
/-- `SCH_CTX_STATE`.RUNNABLE, RO (R318). -/
def schCtxState_runnable : Fld := ⟨.schCtxState, 27, 27⟩
/-- `SCH_CTX_STATE`.CALLER, RO (R318). -/
def schCtxState_caller : Fld := ⟨.schCtxState, 26, 24⟩
/-- `SCH_CTX_STATE`.ENABLE_ERR, RO (R318). -/
def schCtxState_enableErr : Fld := ⟨.schCtxState, 23, 20⟩
/-- `SCH_CTX_STATE`.WRITE_IGNORED, W1C (R318). -/
def schCtxState_writeIgnored : Fld := ⟨.schCtxState, 19, 19⟩
/-- `SCH_CTX_SINCE`.TIME, RO (R318). -/
def schCtxSince_time : Fld := ⟨.schCtxSince, 63, 0⟩
/-- `SRV_STATUS`.LEDGER_FAULT, W1C (R306). -/
def srvStatus_ledgerFault : Fld := ⟨.srvStatus, 3, 3⟩
/-- `SRV_STATUS`.BASE_IGNORED, W1C (R306). -/
def srvStatus_baseIgnored : Fld := ⟨.srvStatus, 2, 2⟩
/-- `SRV_STATUS`.CANCEL_IGNORED, W1C (R306). -/
def srvStatus_cancelIgnored : Fld := ⟨.srvStatus, 1, 1⟩
/-- `SRV_STATUS`.TENANT_WRITE_IGNORED, W1C (R306). -/
def srvStatus_tenantWriteIgnored : Fld := ⟨.srvStatus, 0, 0⟩
/-- `SRV_LEDGER_BASE`.DPA, RW (R306). -/
def srvLedgerBase_dpa : Fld := ⟨.srvLedgerBase, 47, 18⟩
/-- `SRV_LEDGER_BASE`.EN, RW (R306). -/
def srvLedgerBase_en : Fld := ⟨.srvLedgerBase, 0, 0⟩
/-- `SRV_COUNTER`.COUNTER, RO (R306). -/
def srvCounter_counter : Fld := ⟨.srvCounter, 63, 0⟩
/-- `SRV_CANCEL`.GO, WO (R306). -/
def srvCancel_go : Fld := ⟨.srvCancel, 31, 31⟩
/-- `SRV_CANCEL`.SLOT, WO (R306). -/
def srvCancel_slot : Fld := ⟨.srvCancel, 12, 0⟩
/-- `SRV_REQ_SEL`.SLOT, RW (R306). -/
def srvReqSel_slot : Fld := ⟨.srvReqSel, 12, 0⟩
/-- `SRV_DEGENERATE`.COUNT, RO (R306). -/
def srvDegenerate_count : Fld := ⟨.srvDegenerate, 63, 0⟩
/-- `SRV_ADAPTER_SEL`.ADAPTER, RW (R306). -/
def srvAdapterSel_adapter : Fld := ⟨.srvAdapterSel, 11, 0⟩
/-- `SRV_ADAPTER_DATA0`.IMAGE, RO (R306). -/
def srvAdapterData0_image : Fld := ⟨.srvAdapterData0, 51, 0⟩
/-- `SRV_ADAPTER_DATA1`.USERS, RO (R306). -/
def srvAdapterData1_users : Fld := ⟨.srvAdapterData1, 63, 32⟩
/-- `SRV_ADAPTER_DATA1`.BOUND, RO (R306). -/
def srvAdapterData1_bound : Fld := ⟨.srvAdapterData1, 12, 12⟩
/-- `SRV_ADAPTER_DATA1`.PARTITION, RO (R306). -/
def srvAdapterData1_partition : Fld := ⟨.srvAdapterData1, 11, 8⟩
/-- `SRV_ADAPTER_DATA1`.RANK, RO (R306). -/
def srvAdapterData1_rank : Fld := ⟨.srvAdapterData1, 7, 0⟩
/-- `SRV_REQ_DATA`.WORD, RO (R306). -/
def srvReqData_word : Fld := ⟨.srvReqData, 63, 0⟩
/-- `SRV_MISS_TTFT`.COUNT, RO (R306). -/
def srvMissTtft_count : Fld := ⟨.srvMissTtft, 63, 0⟩
/-- `SRV_MISS_TBT`.COUNT, RO (R306). -/
def srvMissTbt_count : Fld := ⟨.srvMissTbt, 63, 0⟩
/-- `SRV_TOKENS`.COUNT, RO (R306). -/
def srvTokens_count : Fld := ⟨.srvTokens, 63, 0⟩
/-- `SRV_CANCELS`.COUNT, RO (R306). -/
def srvCancels_count : Fld := ⟨.srvCancels, 63, 0⟩
/-- `SRV_TENANT`.VALID, RW (R306). -/
def srvTenant_valid : Fld := ⟨.srvTenant, 31, 31⟩
/-- `SRV_TENANT`.PARTITION, RW (R306). -/
def srvTenant_partition : Fld := ⟨.srvTenant, 3, 0⟩
/-- `SRV_PFX_CFG`.EN, RW (R279). -/
def srvPfxCfg_en : Fld := ⟨.srvPfxCfg, 0, 0⟩
/-- `SRV_PFX_KEY_SEL`.SHARED, RW (R279). -/
def srvPfxKeySel_shared : Fld := ⟨.srvPfxKeySel, 31, 31⟩
/-- `SRV_PFX_KEY_SEL`.TENANT, RW (R279). -/
def srvPfxKeySel_tenant : Fld := ⟨.srvPfxKeySel, 11, 0⟩
/-- `SRV_PFX_KEY_LO`.KEY, WO (R279). -/
def srvPfxKeyLo_key : Fld := ⟨.srvPfxKeyLo, 63, 0⟩
/-- `SRV_PFX_KEY_HI`.KEY, WO (R279). -/
def srvPfxKeyHi_key : Fld := ⟨.srvPfxKeyHi, 63, 0⟩
/-- `SRV_PFX_KEY_CTRL`.CLEAR, WO (R279). -/
def srvPfxKeyCtrl_clear : Fld := ⟨.srvPfxKeyCtrl, 1, 1⟩
/-- `SRV_PFX_KEY_CTRL`.LOAD, WO (R279). -/
def srvPfxKeyCtrl_load : Fld := ⟨.srvPfxKeyCtrl, 0, 0⟩
/-- `SRV_PFX_KEY_STATUS`.VALID, RO (R279). -/
def srvPfxKeyStatus_valid : Fld := ⟨.srvPfxKeyStatus, 0, 0⟩
/-- `SRV_PFX_LOOKUPS`.COUNT, RO (R279). -/
def srvPfxLookups_count : Fld := ⟨.srvPfxLookups, 63, 0⟩
/-- `SRV_PFX_HITS`.COUNT, RO (R279). -/
def srvPfxHits_count : Fld := ⟨.srvPfxHits, 63, 0⟩
/-- `SRV_PFX_INSERTS`.COUNT, RO (R279). -/
def srvPfxInserts_count : Fld := ⟨.srvPfxInserts, 63, 0⟩
/-- `SRV_PFX_EVICTS`.COUNT, RO (R279). -/
def srvPfxEvicts_count : Fld := ⟨.srvPfxEvicts, 63, 0⟩
/-- `SRV_PFX_BASE`.BASE, RW (R279). -/
def srvPfxBase_base : Fld := ⟨.srvPfxBase, 51, 12⟩
/-- `SRV_PFX_BASE`.SIZE_LOG2, RW (R279). -/
def srvPfxBase_sizeLog2 : Fld := ⟨.srvPfxBase, 4, 0⟩
/-- `SRV_PFX_COMMIT`.LOCK, WO (R12). -/
def srvPfxCommit_lock : Fld := ⟨.srvPfxCommit, 1, 1⟩
/-- `SRV_PFX_COMMIT`.GO, WO (R12). -/
def srvPfxCommit_go : Fld := ⟨.srvPfxCommit, 0, 0⟩
/-- `SRV_PFX_STATUS`.BAD_FIELD, RO (R12). -/
def srvPfxStatus_badField : Fld := ⟨.srvPfxStatus, 15, 8⟩
/-- `SRV_PFX_STATUS`.LOCK_IGNORED, W1C (R12). -/
def srvPfxStatus_lockIgnored : Fld := ⟨.srvPfxStatus, 5, 5⟩
/-- `SRV_PFX_STATUS`.LOCKED, RO (R12). -/
def srvPfxStatus_locked : Fld := ⟨.srvPfxStatus, 4, 4⟩
/-- `SRV_PFX_STATUS`.LATE, W1C (R12). -/
def srvPfxStatus_late : Fld := ⟨.srvPfxStatus, 3, 3⟩
/-- `SRV_PFX_STATUS`.REFUSED, W1C (R12). -/
def srvPfxStatus_refused : Fld := ⟨.srvPfxStatus, 2, 2⟩
/-- `SRV_PFX_STATUS`.APPLIED, W1C (R12). -/
def srvPfxStatus_applied : Fld := ⟨.srvPfxStatus, 1, 1⟩
/-- `SRV_PFX_STATUS`.PENDING, RO (R12). -/
def srvPfxStatus_pending : Fld := ⟨.srvPfxStatus, 0, 0⟩
/-- `CLR_CTX_CFG`.VECTOR, RW (R31). -/
def clrCtxCfg_vector : Fld := ⟨.clrCtxCfg, 23, 16⟩
/-- `CLR_CTX_CFG`.PRIV, RW (R31). -/
def clrCtxCfg_priv : Fld := ⟨.clrCtxCfg, 8, 8⟩
/-- `CLR_CTX_CFG`.SQ_EN, RW (R31). -/
def clrCtxCfg_sqEn : Fld := ⟨.clrCtxCfg, 3, 0⟩
/-- `CLR_CTX_STATUS`.CQ_XLATE_ERR, W1C (R32). -/
def clrCtxStatus_cqXlateErr : Fld := ⟨.clrCtxStatus, 17, 17⟩
/-- `CLR_CTX_STATUS`.STEP_OPEN, RO (R32). -/
def clrCtxStatus_stepOpen : Fld := ⟨.clrCtxStatus, 16, 16⟩
/-- `CLR_CTX_STATUS`.STATE_WRITE_IGNORED, W1C (R32). -/
def clrCtxStatus_stateWriteIgnored : Fld := ⟨.clrCtxStatus, 8, 8⟩
/-- `CLR_CTX_STATUS`.IN_FLIGHT, RO (R32). -/
def clrCtxStatus_inFlight : Fld := ⟨.clrCtxStatus, 6, 0⟩
/-- `CLR_SQ_BASE`.BASE, RW (R33). -/
def clrSqBase_base : Fld := ⟨.clrSqBase, 51, 12⟩
/-- `CLR_SQ_CFG`.DEPTH_LOG2, RW (R33). -/
def clrSqCfg_depthLog2 : Fld := ⟨.clrSqCfg, 19, 16⟩
/-- `CLR_SQ_CFG`.PRIO, RW (R33). -/
def clrSqCfg_prio : Fld := ⟨.clrSqCfg, 9, 8⟩
/-- `CLR_SQ_CFG`.STOP_ON_ERR, RW (R33). -/
def clrSqCfg_stopOnErr : Fld := ⟨.clrSqCfg, 0, 0⟩
/-- `CLR_SQ_DB`.TAIL, RW (R33). -/
def clrSqDb_tail : Fld := ⟨.clrSqDb, 12, 0⟩
/-- `CLR_SQ_STATUS`.STOPPED, RO (R33). -/
def clrSqStatus_stopped : Fld := ⟨.clrSqStatus, 31, 31⟩
/-- `CLR_SQ_STATUS`.ERR_STOP, RO (R33). -/
def clrSqStatus_errStop : Fld := ⟨.clrSqStatus, 30, 30⟩
/-- `CLR_SQ_STATUS`.DB_OVERRUN, W1C (R33). -/
def clrSqStatus_dbOverrun : Fld := ⟨.clrSqStatus, 29, 29⟩
/-- `CLR_SQ_STATUS`.FREE, RO (R33). -/
def clrSqStatus_free : Fld := ⟨.clrSqStatus, 28, 16⟩
/-- `CLR_SQ_STATUS`.HEAD, RO (R33). -/
def clrSqStatus_head : Fld := ⟨.clrSqStatus, 12, 0⟩
/-- `CLR_SQ_CTRL`.ABORT, WO (R33). -/
def clrSqCtrl_abort : Fld := ⟨.clrSqCtrl, 1, 1⟩
/-- `CLR_SQ_CTRL`.RESUME, WO (R33). -/
def clrSqCtrl_resume : Fld := ⟨.clrSqCtrl, 0, 0⟩
/-- `CLR_SQ_SEQ`.NEXT_SEQ, RW (R33). -/
def clrSqSeq_nextSeq : Fld := ⟨.clrSqSeq, 31, 0⟩
/-- `CLR_CQ_BASE`.BASE, RW (R34). -/
def clrCqBase_base : Fld := ⟨.clrCqBase, 51, 12⟩
/-- `CLR_CQ_CFG`.DEPTH_LOG2, RW (R34). -/
def clrCqCfg_depthLog2 : Fld := ⟨.clrCqCfg, 19, 16⟩
/-- `CLR_CQ_CFG`.IRQ_ON_ERR, RW (R34). -/
def clrCqCfg_irqOnErr : Fld := ⟨.clrCqCfg, 1, 1⟩
/-- `CLR_CQ_CFG`.EN, RW (R34). -/
def clrCqCfg_en : Fld := ⟨.clrCqCfg, 0, 0⟩
/-- `CLR_CQ_DB`.HEAD, RW (R34). -/
def clrCqDb_head : Fld := ⟨.clrCqDb, 14, 0⟩
/-- `CLR_CQ_STATUS`.FULL, RO (R34). -/
def clrCqStatus_full : Fld := ⟨.clrCqStatus, 31, 31⟩
/-- `CLR_CQ_STATUS`.TAIL, RO (R34). -/
def clrCqStatus_tail : Fld := ⟨.clrCqStatus, 14, 0⟩
/-- `CLR_CQ_STALL`.STALL_US, RO (R34). -/
def clrCqStall_stallUs : Fld := ⟨.clrCqStall, 63, 0⟩
/-- `CLR_S`.VALUE, RW (R35). -/
def clrS_value : Fld := ⟨.clrS, 63, 0⟩
/-- `CLR_PRED`.P, RW (R35). -/
def clrPred_p : Fld := ⟨.clrPred, 7, 0⟩
/-- `CLR_EVENT`.COUNT, RW (R35). -/
def clrEvent_count : Fld := ⟨.clrEvent, 63, 0⟩
/-- `CLR_ENC_BASE`.BASE, RW (R457). -/
def clrEncBase_base : Fld := ⟨.clrEncBase, 51, 12⟩
/-- `CLR_ENC_CFG`.EN, RW (R457). -/
def clrEncCfg_en : Fld := ⟨.clrEncCfg, 31, 31⟩
/-- `CLR_ENC_CFG`.SIZE_LOG2, RW (R457). -/
def clrEncCfg_sizeLog2 : Fld := ⟨.clrEncCfg, 3, 0⟩
/-- `FAB_PORT_CTRL`.EN, RW (R363). -/
def fabPortCtrl_en : Fld := ⟨.fabPortCtrl, 31, 31⟩
/-- `FAB_PORT_CTRL`.WIDTH, RW (R363). -/
def fabPortCtrl_width : Fld := ⟨.fabPortCtrl, 30, 29⟩
/-- `FAB_PORT_CTRL`.ENCAP, RW (R363). -/
def fabPortCtrl_encap : Fld := ⟨.fabPortCtrl, 28, 28⟩
/-- `FAB_PORT_CTRL`.VLAN_EN, RW (R363). -/
def fabPortCtrl_vlanEn : Fld := ⟨.fabPortCtrl, 27, 27⟩
/-- `FAB_PORT_CTRL`.PCP, RW (R363). -/
def fabPortCtrl_pcp : Fld := ⟨.fabPortCtrl, 26, 24⟩
/-- `FAB_PORT_CTRL`.DSCP, RW (R363). -/
def fabPortCtrl_dscp : Fld := ⟨.fabPortCtrl, 23, 18⟩
/-- `FAB_PORT_CTRL`.VLAN_ID, RW (R363). -/
def fabPortCtrl_vlanId : Fld := ⟨.fabPortCtrl, 11, 0⟩
/-- `FAB_PORT_STATUS`.UP, RO (R363). -/
def fabPortStatus_up : Fld := ⟨.fabPortStatus, 31, 31⟩
/-- `FAB_PORT_STATUS`.WIDTH_ACTIVE, RO (R363). -/
def fabPortStatus_widthActive : Fld := ⟨.fabPortStatus, 30, 29⟩
/-- `FAB_PORT_STATUS`.RETIRED, RO (R363). -/
def fabPortStatus_retired : Fld := ⟨.fabPortStatus, 28, 28⟩
/-- `FAB_PORT_STATUS`.LANES_FAILED, RO (R363). -/
def fabPortStatus_lanesFailed : Fld := ⟨.fabPortStatus, 15, 8⟩
/-- `FAB_PORT_MAC`.MAC, RW (R363). -/
def fabPortMac_mac : Fld := ⟨.fabPortMac, 47, 0⟩
/-- `FAB_PORT_GW_MAC`.MAC, RW (R363). -/
def fabPortGwMac_mac : Fld := ⟨.fabPortGwMac, 47, 0⟩
/-- `FAB_INJ_CTRL`.ARM, RW (R363). -/
def fabInjCtrl_arm : Fld := ⟨.fabInjCtrl, 63, 63⟩
/-- `FAB_INJ_CTRL`.MODE, RW (R363). -/
def fabInjCtrl_mode : Fld := ⟨.fabInjCtrl, 62, 61⟩
/-- `FAB_INJ_CTRL`.DIR, RW (R363). -/
def fabInjCtrl_dir : Fld := ⟨.fabInjCtrl, 60, 60⟩
/-- `FAB_INJ_CTRL`.FCS_KEEP, RW (R363). -/
def fabInjCtrl_fcsKeep : Fld := ⟨.fabInjCtrl, 59, 59⟩
/-- `FAB_INJ_CTRL`.RATE_LOG2, RW (R363). -/
def fabInjCtrl_rateLog2 : Fld := ⟨.fabInjCtrl, 52, 48⟩
/-- `FAB_INJ_CTRL`.DEPTH, RW (R363). -/
def fabInjCtrl_depth : Fld := ⟨.fabInjCtrl, 37, 32⟩
/-- `FAB_INJ_CTRL`.COUNT, RW (R363). -/
def fabInjCtrl_count : Fld := ⟨.fabInjCtrl, 31, 0⟩
/-- `FAB_INJ_SEED`.SEED, RW (R363). -/
def fabInjSeed_seed : Fld := ⟨.fabInjSeed, 31, 0⟩
/-- `FAB_TX_FRAMES`.COUNT, RO (R363). -/
def fabTxFrames_count : Fld := ⟨.fabTxFrames, 63, 0⟩
/-- `FAB_RX_FRAMES`.COUNT, RO (R363). -/
def fabRxFrames_count : Fld := ⟨.fabRxFrames, 63, 0⟩
/-- `FAB_FEC_CORRECTED`.COUNT, RO (R363). -/
def fabFecCorrected_count : Fld := ⟨.fabFecCorrected, 63, 0⟩
/-- `FAB_FEC_UNCORRECTED`.COUNT, RO (R363). -/
def fabFecUncorrected_count : Fld := ⟨.fabFecUncorrected, 63, 0⟩
/-- `FAB_RX_BAD_FCS`.COUNT, RO (R363). -/
def fabRxBadFcs_count : Fld := ⟨.fabRxBadFcs, 63, 0⟩
/-- `FAB_RX_FOREIGN`.COUNT, RO (R363). -/
def fabRxForeign_count : Fld := ⟨.fabRxForeign, 63, 0⟩
/-- `FAB_RX_UNKNOWN`.COUNT, RO (R363). -/
def fabRxUnknown_count : Fld := ⟨.fabRxUnknown, 63, 0⟩
/-- `FAB_RX_UNAUTH`.COUNT, RO (R363). -/
def fabRxUnauth_count : Fld := ⟨.fabRxUnauth, 63, 0⟩
/-- `FAB_RX_REPLAY`.COUNT, RO (R363). -/
def fabRxReplay_count : Fld := ⟨.fabRxReplay, 63, 0⟩
/-- `FAB_RX_TAG`.COUNT, RO (R363). -/
def fabRxTag_count : Fld := ⟨.fabRxTag, 63, 0⟩
/-- `FAB_RX_DUP`.COUNT, RO (R363). -/
def fabRxDup_count : Fld := ⟨.fabRxDup, 63, 0⟩
/-- `FAB_RX_CE`.COUNT, RO (R363). -/
def fabRxCe_count : Fld := ⟨.fabRxCe, 63, 0⟩
/-- `FAB_TX_RETRANS`.COUNT, RO (R363). -/
def fabTxRetrans_count : Fld := ⟨.fabTxRetrans, 63, 0⟩
/-- `FAB_INJ_FRAMES`.COUNT, RO (R363). -/
def fabInjFrames_count : Fld := ⟨.fabInjFrames, 63, 0⟩
/-- `FAB_NODE`.NODE, RW (R362). -/
def fabNode_node : Fld := ⟨.fabNode, 15, 0⟩
/-- `FAB_NODE_IP_LO`.IP, RW (R362). -/
def fabNodeIpLo_ip : Fld := ⟨.fabNodeIpLo, 63, 0⟩
/-- `FAB_NODE_IP_HI`.IP, RW (R362). -/
def fabNodeIpHi_ip : Fld := ⟨.fabNodeIpHi, 63, 0⟩
/-- `FAB_CFG`.UDP_PORT, RW (R362). -/
def fabCfg_udpPort : Fld := ⟨.fabCfg, 63, 48⟩
/-- `FAB_CFG`.LOST_MS, RW (R362). -/
def fabCfg_lostMs : Fld := ⟨.fabCfg, 47, 32⟩
/-- `FAB_CFG`.RTO_US, RW (R362). -/
def fabCfg_rtoUs : Fld := ⟨.fabCfg, 31, 16⟩
/-- `FAB_CFG`.KEY_AGE_MIN, RW (R362). -/
def fabCfg_keyAgeMin : Fld := ⟨.fabCfg, 15, 8⟩
/-- `FAB_CFG`.ALLOW_PROVISIONED, RW (R362). -/
def fabCfg_allowProvisioned : Fld := ⟨.fabCfg, 7, 7⟩
/-- `FAB_CFG`.JUMBO, RW (R362). -/
def fabCfg_jumbo : Fld := ⟨.fabCfg, 6, 6⟩
/-- `FAB_CFG`.LANE_LIMIT_LOG2, RW (R362). -/
def fabCfg_laneLimitLog2 : Fld := ⟨.fabCfg, 4, 0⟩
/-- `FAB_CC`.PERIOD_US, RW (R362). -/
def fabCc_periodUs : Fld := ⟨.fabCc, 31, 24⟩
/-- `FAB_CC`.AI, RW (R362). -/
def fabCc_ai : Fld := ⟨.fabCc, 23, 16⟩
/-- `FAB_CC`.G, RW (R362). -/
def fabCc_g : Fld := ⟨.fabCc, 15, 12⟩
/-- `FAB_CC`.R_MIN, RW (R362). -/
def fabCc_rMin : Fld := ⟨.fabCc, 11, 0⟩
/-- `FAB_PEER_BASE`.DPA, RW (R362). -/
def fabPeerBase_dpa : Fld := ⟨.fabPeerBase, 47, 21⟩
/-- `FAB_PEER_CTRL`.LOAD, WO (R362). -/
def fabPeerCtrl_load : Fld := ⟨.fabPeerCtrl, 31, 31⟩
/-- `FAB_PEER_CTRL`.DROP, WO (R362). -/
def fabPeerCtrl_drop : Fld := ⟨.fabPeerCtrl, 30, 30⟩
/-- `FAB_PEER_CTRL`.PEER, WO (R362). -/
def fabPeerCtrl_peer : Fld := ⟨.fabPeerCtrl, 9, 0⟩
/-- `REEL_GROUP_BASE`.DPA, RW (R362). -/
def reelGroupBase_dpa : Fld := ⟨.reelGroupBase, 47, 21⟩
/-- `REEL_GROUP_CTRL`.ARM, WO (R362). -/
def reelGroupCtrl_arm : Fld := ⟨.reelGroupCtrl, 31, 31⟩
/-- `REEL_GROUP_CTRL`.DISARM, WO (R362). -/
def reelGroupCtrl_disarm : Fld := ⟨.reelGroupCtrl, 30, 30⟩
/-- `REEL_GROUP_CTRL`.GROUP, WO (R362). -/
def reelGroupCtrl_group : Fld := ⟨.reelGroupCtrl, 9, 0⟩
/-- `REEL_GROUP_STATUS`.REFUSED, W1C (R362). -/
def reelGroupStatus_refused : Fld := ⟨.reelGroupStatus, 31, 31⟩
/-- `REEL_GROUP_STATUS`.IGNORED, W1C (R362). -/
def reelGroupStatus_ignored : Fld := ⟨.reelGroupStatus, 30, 30⟩
/-- `REEL_GROUP_STATUS`.DONE, W1C (R362). -/
def reelGroupStatus_done : Fld := ⟨.reelGroupStatus, 29, 29⟩
/-- `REEL_GROUP_STATUS`.REASON, RO (R362). -/
def reelGroupStatus_reason : Fld := ⟨.reelGroupStatus, 3, 0⟩
/-- `FAB_STATUS`.WRITE_IGNORED, W1C (R362). -/
def fabStatus_writeIgnored : Fld := ⟨.fabStatus, 0, 0⟩
/-- `FAB_REG`.BORROW, RW (R346). -/
def fabReg_borrow : Fld := ⟨.fabReg, 31, 31⟩
/-- `FAB_REG`.BURST, RW (R346). -/
def fabReg_burst : Fld := ⟨.fabReg, 30, 16⟩
/-- `FAB_REG`.RATE, RW (R346). -/
def fabReg_rate : Fld := ⟨.fabReg, 14, 0⟩
/-- `FAB_REG_COMMIT`.LOCK, WO (R12). -/
def fabRegCommit_lock : Fld := ⟨.fabRegCommit, 1, 1⟩
/-- `FAB_REG_COMMIT`.GO, WO (R12). -/
def fabRegCommit_go : Fld := ⟨.fabRegCommit, 0, 0⟩
/-- `FAB_REG_STATUS`.BAD_FIELD, RO (R12). -/
def fabRegStatus_badField : Fld := ⟨.fabRegStatus, 15, 8⟩
/-- `FAB_REG_STATUS`.LOCK_IGNORED, W1C (R12). -/
def fabRegStatus_lockIgnored : Fld := ⟨.fabRegStatus, 5, 5⟩
/-- `FAB_REG_STATUS`.LOCKED, RO (R12). -/
def fabRegStatus_locked : Fld := ⟨.fabRegStatus, 4, 4⟩
/-- `FAB_REG_STATUS`.LATE, W1C (R12). -/
def fabRegStatus_late : Fld := ⟨.fabRegStatus, 3, 3⟩
/-- `FAB_REG_STATUS`.REFUSED, W1C (R12). -/
def fabRegStatus_refused : Fld := ⟨.fabRegStatus, 2, 2⟩
/-- `FAB_REG_STATUS`.APPLIED, W1C (R12). -/
def fabRegStatus_applied : Fld := ⟨.fabRegStatus, 1, 1⟩
/-- `FAB_REG_STATUS`.PENDING, RO (R12). -/
def fabRegStatus_pending : Fld := ⟨.fabRegStatus, 0, 0⟩
/-- `FAB_REG_GRANULES`.COUNT, RO (R180). -/
def fabRegGranules_count : Fld := ⟨.fabRegGranules, 63, 0⟩
/-- `FAB_REG_THROTTLED`.COUNT, RO (R180). -/
def fabRegThrottled_count : Fld := ⟨.fabRegThrottled, 63, 0⟩
/-- `REEL_COLLECTIVES`.COUNT, RO (R362). -/
def reelCollectives_count : Fld := ⟨.reelCollectives, 63, 0⟩
/-- `REEL_CAPPED_EVENTS`.COUNT, RO (R362). -/
def reelCappedEvents_count : Fld := ⟨.reelCappedEvents, 63, 0⟩
/-- `REEL_MISMATCH`.COUNT, RO (R362). -/
def reelMismatch_count : Fld := ⟨.reelMismatch, 63, 0⟩
/-- `REEL_HANDSHAKES`.COUNT, RO (R362). -/
def reelHandshakes_count : Fld := ⟨.reelHandshakes, 63, 0⟩
/-- `REEL_HANDSHAKE_FAIL`.COUNT, RO (R362). -/
def reelHandshakeFail_count : Fld := ⟨.reelHandshakeFail, 63, 0⟩
/-- `FAB_PEER_STATE`.STATE, RO (R362). -/
def fabPeerState_state : Fld := ⟨.fabPeerState, 63, 61⟩
/-- `FAB_PEER_STATE`.REASON, RO (R362). -/
def fabPeerState_reason : Fld := ⟨.fabPeerState, 60, 56⟩
/-- `FAB_PEER_STATE`.NODE, RO (R362). -/
def fabPeerState_node : Fld := ⟨.fabPeerState, 15, 0⟩
/-- `REEL_GROUP_STATE`.STATE, RO (R362). -/
def reelGroupState_state : Fld := ⟨.reelGroupState, 63, 62⟩
/-- `REEL_GROUP_STATE`.BROKEN_BY, RO (R362). -/
def reelGroupState_brokenBy : Fld := ⟨.reelGroupState, 40, 32⟩
/-- `REEL_GROUP_STATE`.NEXT_SEQ, RO (R362). -/
def reelGroupState_nextSeq : Fld := ⟨.reelGroupState, 31, 0⟩
/-- `THM_LINK_STATUS`.LANES_FAILED, RO (R379). -/
def thmLinkStatus_lanesFailed : Fld := ⟨.thmLinkStatus, 63, 32⟩
/-- `THM_LINK_STATUS`.STATE, RO (R379). -/
def thmLinkStatus_state : Fld := ⟨.thmLinkStatus, 31, 30⟩
/-- `THM_LINK_STATUS`.WIDTH_ACTIVE, RO (R379). -/
def thmLinkStatus_widthActive : Fld := ⟨.thmLinkStatus, 29, 28⟩
/-- `THM_LINK_STATUS`.RETRAINS, RO (R379). -/
def thmLinkStatus_retrains : Fld := ⟨.thmLinkStatus, 15, 0⟩
/-- `THM_LINK_CTRL`.WIDTH, RW (R379). -/
def thmLinkCtrl_width : Fld := ⟨.thmLinkCtrl, 2, 1⟩
/-- `THM_LINK_CTRL`.RETRAIN, WO (R379). -/
def thmLinkCtrl_retrain : Fld := ⟨.thmLinkCtrl, 0, 0⟩
/-- `THM_REG_BASE`.BASE, RO (R379). -/
def thmRegBase_base : Fld := ⟨.thmRegBase, 63, 28⟩
/-- `THM_MEM_BASE`.BASE, RW (R379). -/
def thmMemBase_base : Fld := ⟨.thmMemBase, 63, 41⟩
/-- `THM_MEM_BASE`.EN, RW (R379). -/
def thmMemBase_en : Fld := ⟨.thmMemBase, 0, 0⟩
/-- `THM_SYNC`.ZERO, RO (R379). -/
def thmSync_zero : Fld := ⟨.thmSync, 63, 0⟩
/-- `THM_TIME_PAIR`.TIME, RO (R378). -/
def thmTimePair_time : Fld := ⟨.thmTimePair, 63, 0⟩
/-- `THM_VEC_MASK`.MASK, RW (R377). -/
def thmVecMask_mask : Fld := ⟨.thmVecMask, 63, 0⟩
/-- `THM_VEC_PEND`.PEND, W1C (R377). -/
def thmVecPend_pend : Fld := ⟨.thmVecPend, 63, 0⟩
/-- `THM_REPLAYS`.COUNT, RO (R379). -/
def thmReplays_count : Fld := ⟨.thmReplays, 63, 0⟩
/-- `THM_REFUSED`.COUNT, RO (R379). -/
def thmRefused_count : Fld := ⟨.thmRefused, 63, 0⟩
/-- `THM_SNOOP_TIMEOUTS`.COUNT, RO (R379). -/
def thmSnoopTimeouts_count : Fld := ⟨.thmSnoopTimeouts, 63, 0⟩
/-- `THM_BACKINV`.COUNT, RO (R379). -/
def thmBackinv_count : Fld := ⟨.thmBackinv, 63, 0⟩
/-- `DT_MAP_DEAD`.DEAD, RW (R204). -/
def dtMapDead_dead : Fld := ⟨.dtMapDead, 15, 0⟩
/-- `DT_MAP_CAPACITY`.GIB, RW (R200). -/
def dtMapCapacity_gib : Fld := ⟨.dtMapCapacity, 10, 0⟩
/-- `DT_MAP_COMMIT`.LOCK, WO (R12). -/
def dtMapCommit_lock : Fld := ⟨.dtMapCommit, 1, 1⟩
/-- `DT_MAP_COMMIT`.GO, WO (R12). -/
def dtMapCommit_go : Fld := ⟨.dtMapCommit, 0, 0⟩
/-- `DT_MAP_STATUS`.BAD_FIELD, RO (R12). -/
def dtMapStatus_badField : Fld := ⟨.dtMapStatus, 15, 8⟩
/-- `DT_MAP_STATUS`.LOCK_IGNORED, W1C (R12). -/
def dtMapStatus_lockIgnored : Fld := ⟨.dtMapStatus, 5, 5⟩
/-- `DT_MAP_STATUS`.LOCKED, RO (R12). -/
def dtMapStatus_locked : Fld := ⟨.dtMapStatus, 4, 4⟩
/-- `DT_MAP_STATUS`.LATE, W1C (R12). -/
def dtMapStatus_late : Fld := ⟨.dtMapStatus, 3, 3⟩
/-- `DT_MAP_STATUS`.REFUSED, W1C (R12). -/
def dtMapStatus_refused : Fld := ⟨.dtMapStatus, 2, 2⟩
/-- `DT_MAP_STATUS`.APPLIED, W1C (R12). -/
def dtMapStatus_applied : Fld := ⟨.dtMapStatus, 1, 1⟩
/-- `DT_MAP_STATUS`.PENDING, RO (R12). -/
def dtMapStatus_pending : Fld := ⟨.dtMapStatus, 0, 0⟩
/-- `DT_MAPOUT_CFG`.UE_LIMIT, RW (R204). -/
def dtMapoutCfg_ueLimit : Fld := ⟨.dtMapoutCfg, 7, 0⟩
/-- `DT_MAPOUT_PROGRESS`.TOTAL, RO (R204). -/
def dtMapoutProgress_total : Fld := ⟨.dtMapoutProgress, 63, 32⟩
/-- `DT_MAPOUT_PROGRESS`.DONE, RO (R204). -/
def dtMapoutProgress_done : Fld := ⟨.dtMapoutProgress, 31, 0⟩
/-- `DT_ARB_CFG`.BULK_AGE_US, RW (R204). -/
def dtArbCfg_bulkAgeUs : Fld := ⟨.dtArbCfg, 7, 0⟩
/-- `DT_REG`.BORROW, RW (R179). -/
def dtReg_borrow : Fld := ⟨.dtReg, 31, 31⟩
/-- `DT_REG`.BURST, RW (R179). -/
def dtReg_burst : Fld := ⟨.dtReg, 30, 16⟩
/-- `DT_REG`.RATE, RW (R179). -/
def dtReg_rate : Fld := ⟨.dtReg, 14, 0⟩
/-- `DT_REG_COMMIT`.LOCK, WO (R12). -/
def dtRegCommit_lock : Fld := ⟨.dtRegCommit, 1, 1⟩
/-- `DT_REG_COMMIT`.GO, WO (R12). -/
def dtRegCommit_go : Fld := ⟨.dtRegCommit, 0, 0⟩
/-- `DT_REG_STATUS`.BAD_FIELD, RO (R12). -/
def dtRegStatus_badField : Fld := ⟨.dtRegStatus, 15, 8⟩
/-- `DT_REG_STATUS`.LOCK_IGNORED, W1C (R12). -/
def dtRegStatus_lockIgnored : Fld := ⟨.dtRegStatus, 5, 5⟩
/-- `DT_REG_STATUS`.LOCKED, RO (R12). -/
def dtRegStatus_locked : Fld := ⟨.dtRegStatus, 4, 4⟩
/-- `DT_REG_STATUS`.LATE, W1C (R12). -/
def dtRegStatus_late : Fld := ⟨.dtRegStatus, 3, 3⟩
/-- `DT_REG_STATUS`.REFUSED, W1C (R12). -/
def dtRegStatus_refused : Fld := ⟨.dtRegStatus, 2, 2⟩
/-- `DT_REG_STATUS`.APPLIED, W1C (R12). -/
def dtRegStatus_applied : Fld := ⟨.dtRegStatus, 1, 1⟩
/-- `DT_REG_STATUS`.PENDING, RO (R12). -/
def dtRegStatus_pending : Fld := ⟨.dtRegStatus, 0, 0⟩
/-- `DT_REG_GRANULES`.COUNT, RO (R180). -/
def dtRegGranules_count : Fld := ⟨.dtRegGranules, 63, 0⟩
/-- `DT_REG_THROTTLED`.COUNT, RO (R180). -/
def dtRegThrottled_count : Fld := ⟨.dtRegThrottled, 63, 0⟩
/-- `DT_CH_STATE`.STATE, RO (R204). -/
def dtChState_state : Fld := ⟨.dtChState, 31, 30⟩
/-- `DT_CH_STATE`.FAIL, WO (R204). -/
def dtChState_fail : Fld := ⟨.dtChState, 0, 0⟩
/-- `DT_CH_CE`.COUNT, RO (R183). -/
def dtChCe_count : Fld := ⟨.dtChCe, 63, 0⟩
/-- `DT_CH_UE`.COUNT, RO (R183). -/
def dtChUe_count : Fld := ⟨.dtChUe, 63, 0⟩
/-- `DT_CH_MERGE_RMW`.COUNT, RO (R186). -/
def dtChMergeRmw_count : Fld := ⟨.dtChMergeRmw, 63, 0⟩
/-- `DT_SCRUB_CFG`.EN, RW (R204). -/
def dtScrubCfg_en : Fld := ⟨.dtScrubCfg, 31, 31⟩
/-- `DT_SCRUB_CFG`.INTERVAL, RW (R204). -/
def dtScrubCfg_interval : Fld := ⟨.dtScrubCfg, 7, 0⟩
/-- `DT_SCRUB_STATUS`.ALARM, W1C (R204). -/
def dtScrubStatus_alarm : Fld := ⟨.dtScrubStatus, 31, 31⟩
/-- `DT_SCRUB_STATUS`.POS, RO (R204). -/
def dtScrubStatus_pos : Fld := ⟨.dtScrubStatus, 25, 0⟩
/-- `DT_SCRUB_ALARM_US`.US, RW (R204). -/
def dtScrubAlarmUs_us : Fld := ⟨.dtScrubAlarmUs, 63, 0⟩
/-- `DT_SCRUB_LAP_START`.TIME, RO (R204). -/
def dtScrubLapStart_time : Fld := ⟨.dtScrubLapStart, 63, 0⟩
/-- `DT_SCRUB_LAST_LAP_US`.US, RO (R204). -/
def dtScrubLastLapUs_us : Fld := ⟨.dtScrubLastLapUs, 63, 0⟩
/-- `DT_FLIP`.MASK, RW (R190). -/
def dtFlip_mask : Fld := ⟨.dtFlip, 63, 0⟩
/-- `DT_FLIP_CTRL`.ARM, RW (R204). -/
def dtFlipCtrl_arm : Fld := ⟨.dtFlipCtrl, 31, 31⟩
/-- `DT_FLIP_HIT`.VALID, RO (R204). -/
def dtFlipHit_valid : Fld := ⟨.dtFlipHit, 63, 63⟩
/-- `DT_FLIP_HIT`.DPA, RO (R204). -/
def dtFlipHit_dpa : Fld := ⟨.dtFlipHit, 47, 0⟩
/-- `STK_MAP_DEAD`.DEAD, RW (R204). -/
def stkMapDead_dead : Fld := ⟨.stkMapDead, 15, 0⟩
/-- `STK_MAP_CAPACITY`.GIB, RW (R204). -/
def stkMapCapacity_gib : Fld := ⟨.stkMapCapacity, 6, 0⟩
/-- `STK_MAP_COMMIT`.LOCK, WO (R12). -/
def stkMapCommit_lock : Fld := ⟨.stkMapCommit, 1, 1⟩
/-- `STK_MAP_COMMIT`.GO, WO (R12). -/
def stkMapCommit_go : Fld := ⟨.stkMapCommit, 0, 0⟩
/-- `STK_MAP_STATUS`.BAD_FIELD, RO (R12). -/
def stkMapStatus_badField : Fld := ⟨.stkMapStatus, 15, 8⟩
/-- `STK_MAP_STATUS`.LOCK_IGNORED, W1C (R12). -/
def stkMapStatus_lockIgnored : Fld := ⟨.stkMapStatus, 5, 5⟩
/-- `STK_MAP_STATUS`.LOCKED, RO (R12). -/
def stkMapStatus_locked : Fld := ⟨.stkMapStatus, 4, 4⟩
/-- `STK_MAP_STATUS`.LATE, W1C (R12). -/
def stkMapStatus_late : Fld := ⟨.stkMapStatus, 3, 3⟩
/-- `STK_MAP_STATUS`.REFUSED, W1C (R12). -/
def stkMapStatus_refused : Fld := ⟨.stkMapStatus, 2, 2⟩
/-- `STK_MAP_STATUS`.APPLIED, W1C (R12). -/
def stkMapStatus_applied : Fld := ⟨.stkMapStatus, 1, 1⟩
/-- `STK_MAP_STATUS`.PENDING, RO (R12). -/
def stkMapStatus_pending : Fld := ⟨.stkMapStatus, 0, 0⟩
/-- `STK_MAPOUT_CFG`.UE_LIMIT, RW (R204). -/
def stkMapoutCfg_ueLimit : Fld := ⟨.stkMapoutCfg, 7, 0⟩
/-- `STK_MAPOUT_PROGRESS`.TOTAL, RO (R204). -/
def stkMapoutProgress_total : Fld := ⟨.stkMapoutProgress, 63, 32⟩
/-- `STK_MAPOUT_PROGRESS`.DONE, RO (R204). -/
def stkMapoutProgress_done : Fld := ⟨.stkMapoutProgress, 31, 0⟩
/-- `STK_ARB_CFG`.BULK_AGE_US, RW (R204). -/
def stkArbCfg_bulkAgeUs : Fld := ⟨.stkArbCfg, 7, 0⟩
/-- `STK_REG`.BORROW, RW (R179). -/
def stkReg_borrow : Fld := ⟨.stkReg, 31, 31⟩
/-- `STK_REG`.BURST, RW (R179). -/
def stkReg_burst : Fld := ⟨.stkReg, 30, 16⟩
/-- `STK_REG`.RATE, RW (R179). -/
def stkReg_rate : Fld := ⟨.stkReg, 14, 0⟩
/-- `STK_REG_COMMIT`.LOCK, WO (R12). -/
def stkRegCommit_lock : Fld := ⟨.stkRegCommit, 1, 1⟩
/-- `STK_REG_COMMIT`.GO, WO (R12). -/
def stkRegCommit_go : Fld := ⟨.stkRegCommit, 0, 0⟩
/-- `STK_REG_STATUS`.BAD_FIELD, RO (R12). -/
def stkRegStatus_badField : Fld := ⟨.stkRegStatus, 15, 8⟩
/-- `STK_REG_STATUS`.LOCK_IGNORED, W1C (R12). -/
def stkRegStatus_lockIgnored : Fld := ⟨.stkRegStatus, 5, 5⟩
/-- `STK_REG_STATUS`.LOCKED, RO (R12). -/
def stkRegStatus_locked : Fld := ⟨.stkRegStatus, 4, 4⟩
/-- `STK_REG_STATUS`.LATE, W1C (R12). -/
def stkRegStatus_late : Fld := ⟨.stkRegStatus, 3, 3⟩
/-- `STK_REG_STATUS`.REFUSED, W1C (R12). -/
def stkRegStatus_refused : Fld := ⟨.stkRegStatus, 2, 2⟩
/-- `STK_REG_STATUS`.APPLIED, W1C (R12). -/
def stkRegStatus_applied : Fld := ⟨.stkRegStatus, 1, 1⟩
/-- `STK_REG_STATUS`.PENDING, RO (R12). -/
def stkRegStatus_pending : Fld := ⟨.stkRegStatus, 0, 0⟩
/-- `STK_REG_GRANULES`.COUNT, RO (R180). -/
def stkRegGranules_count : Fld := ⟨.stkRegGranules, 63, 0⟩
/-- `STK_REG_THROTTLED`.COUNT, RO (R180). -/
def stkRegThrottled_count : Fld := ⟨.stkRegThrottled, 63, 0⟩
/-- `STK_CH_STATE`.STATE, RO (R204). -/
def stkChState_state : Fld := ⟨.stkChState, 31, 30⟩
/-- `STK_CH_STATE`.FAIL, WO (R204). -/
def stkChState_fail : Fld := ⟨.stkChState, 0, 0⟩
/-- `STK_CH_CE`.COUNT, RO (R183). -/
def stkChCe_count : Fld := ⟨.stkChCe, 63, 0⟩
/-- `STK_CH_UE`.COUNT, RO (R183). -/
def stkChUe_count : Fld := ⟨.stkChUe, 63, 0⟩
/-- `STK_CH_MERGE_RMW`.COUNT, RO (R186). -/
def stkChMergeRmw_count : Fld := ⟨.stkChMergeRmw, 63, 0⟩
/-- `STK_SCRUB_CFG`.EN, RW (R204). -/
def stkScrubCfg_en : Fld := ⟨.stkScrubCfg, 31, 31⟩
/-- `STK_SCRUB_CFG`.INTERVAL, RW (R204). -/
def stkScrubCfg_interval : Fld := ⟨.stkScrubCfg, 7, 0⟩
/-- `STK_SCRUB_STATUS`.ALARM, W1C (R204). -/
def stkScrubStatus_alarm : Fld := ⟨.stkScrubStatus, 31, 31⟩
/-- `STK_SCRUB_STATUS`.POS, RO (R204). -/
def stkScrubStatus_pos : Fld := ⟨.stkScrubStatus, 25, 0⟩
/-- `STK_SCRUB_ALARM_US`.US, RW (R204). -/
def stkScrubAlarmUs_us : Fld := ⟨.stkScrubAlarmUs, 63, 0⟩
/-- `STK_SCRUB_LAP_START`.TIME, RO (R204). -/
def stkScrubLapStart_time : Fld := ⟨.stkScrubLapStart, 63, 0⟩
/-- `STK_SCRUB_LAST_LAP_US`.US, RO (R204). -/
def stkScrubLastLapUs_us : Fld := ⟨.stkScrubLastLapUs, 63, 0⟩
/-- `STK_FLIP`.MASK, RW (R190). -/
def stkFlip_mask : Fld := ⟨.stkFlip, 63, 0⟩
/-- `STK_FLIP_CTRL`.ARM, RW (R204). -/
def stkFlipCtrl_arm : Fld := ⟨.stkFlipCtrl, 31, 31⟩
/-- `STK_FLIP_HIT`.VALID, RO (R204). -/
def stkFlipHit_valid : Fld := ⟨.stkFlipHit, 63, 63⟩
/-- `STK_FLIP_HIT`.DPA, RO (R204). -/
def stkFlipHit_dpa : Fld := ⟨.stkFlipHit, 47, 0⟩
/-- `GAL_CFG`.AUTO_ENTER, RW (R237). -/
def galCfg_autoEnter : Fld := ⟨.galCfg, 31, 31⟩
/-- `GAL_CFG`.BURST_RATIO, RW (R237). -/
def galCfg_burstRatio : Fld := ⟨.galCfg, 27, 24⟩
/-- `GAL_CFG`.MICRO_SLOT, RW (R237). -/
def galCfg_microSlot : Fld := ⟨.galCfg, 16, 16⟩
/-- `GAL_CFG`.IDLE_EXIT_US, RW (R237). -/
def galCfg_idleExitUs : Fld := ⟨.galCfg, 15, 0⟩
/-- `GAL_PROM_BYTES`.COUNT, RO (R237). -/
def galPromBytes_count : Fld := ⟨.galPromBytes, 63, 0⟩
/-- `GAL_PROM_WAIT`.COUNT, RO (R237). -/
def galPromWait_count : Fld := ⟨.galPromWait, 63, 0⟩
/-- `GAL_FLUSH_VIOL`.COUNT, RO (R237). -/
def galFlushViol_count : Fld := ⟨.galFlushViol, 63, 0⟩
/-- `GAL_WINDOW_REFUSED`.COUNT, RO (R237). -/
def galWindowRefused_count : Fld := ⟨.galWindowRefused, 63, 0⟩
/-- `GAL_UNIT_STATE`.MODE, RO (R238). -/
def galUnitState_mode : Fld := ⟨.galUnitState, 31, 30⟩
/-- `GAL_UNIT_STATE`.SERVICE, RO (R238). -/
def galUnitState_service : Fld := ⟨.galUnitState, 29, 28⟩
/-- `GAL_UNIT_STATE`.STRIKES, RO (R238). -/
def galUnitState_strikes : Fld := ⟨.galUnitState, 27, 26⟩
/-- `GAL_UNIT_STATE`.CTRL_IGNORED, W1C (R238). -/
def galUnitState_ctrlIgnored : Fld := ⟨.galUnitState, 25, 25⟩
/-- `GAL_UNIT_STATE`.TEST_FAILED, W1C (R238). -/
def galUnitState_testFailed : Fld := ⟨.galUnitState, 24, 24⟩
/-- `GAL_UNIT_STATE`.MICRO_REV, RO (R238). -/
def galUnitState_microRev : Fld := ⟨.galUnitState, 23, 8⟩
/-- `GAL_UNIT_STATE`.QUEUED, RO (R238). -/
def galUnitState_queued : Fld := ⟨.galUnitState, 5, 0⟩
/-- `GAL_UNIT_CTRL`.TEST, WO (R238). -/
def galUnitCtrl_test : Fld := ⟨.galUnitCtrl, 2, 2⟩
/-- `GAL_UNIT_CTRL`.RETURN, WO (R238). -/
def galUnitCtrl_return : Fld := ⟨.galUnitCtrl, 1, 1⟩
/-- `GAL_UNIT_CTRL`.OUT, WO (R238). -/
def galUnitCtrl_out : Fld := ⟨.galUnitCtrl, 0, 0⟩
/-- `GAL_UNIT_BUSY_CYCLES`.COUNT, RO (R239). -/
def galUnitBusyCycles_count : Fld := ⟨.galUnitBusyCycles, 63, 0⟩
/-- `GAL_UNIT_MACS`.COUNT, RO (R239). -/
def galUnitMacs_count : Fld := ⟨.galUnitMacs, 63, 0⟩
/-- `GAL_UNIT_RD_BYTES`.COUNT, RO (R239). -/
def galUnitRdBytes_count : Fld := ⟨.galUnitRdBytes, 63, 0⟩
/-- `GAL_UNIT_WR_BYTES`.COUNT, RO (R239). -/
def galUnitWrBytes_count : Fld := ⟨.galUnitWrBytes, 63, 0⟩
/-- `GAL_UNIT_YIELDS`.COUNT, RO (R239). -/
def galUnitYields_count : Fld := ⟨.galUnitYields, 63, 0⟩
/-- `GAL_UNIT_COMMANDS`.COUNT, RO (R239). -/
def galUnitCommands_count : Fld := ⟨.galUnitCommands, 63, 0⟩
/-- `GAL_UNIT_REEXEC`.COUNT, RO (R239). -/
def galUnitReexec_count : Fld := ⟨.galUnitReexec, 63, 0⟩
/-- `GAL_UNIT_ENTRIES`.COUNT, RO (R239). -/
def galUnitEntries_count : Fld := ⟨.galUnitEntries, 63, 0⟩
/-- `CD_ID`.FIGURE_REV, RO (R102). -/
def cdId_figureRev : Fld := ⟨.cdId, 23, 8⟩
/-- `CD_ID`.DIE, RO (R102). -/
def cdId_die : Fld := ⟨.cdId, 0, 0⟩
/-- `CD_SETS_IN_SERVICE`.MASK, RO (R102). -/
def cdSetsInService_mask : Fld := ⟨.cdSetsInService, 39, 0⟩
/-- `CD_STRIKE_CFG`.WINDOW_H, RW (R102). -/
def cdStrikeCfg_windowH : Fld := ⟨.cdStrikeCfg, 15, 0⟩
/-- `CD_PERF_CTRL`.VIEW, RW (R107). -/
def cdPerfCtrl_view : Fld := ⟨.cdPerfCtrl, 8, 8⟩
/-- `CD_PERF_CTRL`.SNAP_BUSY, RO (R107). -/
def cdPerfCtrl_snapBusy : Fld := ⟨.cdPerfCtrl, 2, 2⟩
/-- `CD_PERF_CTRL`.CLEAR, WO (R107). -/
def cdPerfCtrl_clear : Fld := ⟨.cdPerfCtrl, 1, 1⟩
/-- `CD_PERF_CTRL`.SNAP, WO (R107). -/
def cdPerfCtrl_snap : Fld := ⟨.cdPerfCtrl, 0, 0⟩
/-- `CD_MESH_STATUS`.DETOUR, RO (R102). -/
def cdMeshStatus_detour : Fld := ⟨.cdMeshStatus, 31, 31⟩
/-- `CD_MESH_STATUS`.SHUT_DIR, RO (R102). -/
def cdMeshStatus_shutDir : Fld := ⟨.cdMeshStatus, 9, 8⟩
/-- `CD_MESH_STATUS`.SHUT_SET, RO (R102). -/
def cdMeshStatus_shutSet : Fld := ⟨.cdMeshStatus, 5, 0⟩
/-- `CD_MESH_RETRIES`.COUNT, RO (R102). -/
def cdMeshRetries_count : Fld := ⟨.cdMeshRetries, 63, 0⟩
/-- `CD_ARRAY_CFG`.BYPASS_ROWS, RW (R135). -/
def cdArrayCfg_bypassRows : Fld := ⟨.cdArrayCfg, 3, 0⟩
/-- `CD_ARRAY_INJECT`.ARM, RW (R136). -/
def cdArrayInject_arm : Fld := ⟨.cdArrayInject, 31, 31⟩
/-- `CD_ARRAY_INJECT`.SET, RW (R136). -/
def cdArrayInject_set : Fld := ⟨.cdArrayInject, 21, 16⟩
/-- `CD_ARRAY_INJECT`.CORE, RW (R136). -/
def cdArrayInject_core : Fld := ⟨.cdArrayInject, 15, 8⟩
/-- `CD_ARRAY_SAT`.COUNT, RO (R137). -/
def cdArraySat_count : Fld := ⟨.cdArraySat, 63, 0⟩
/-- `CD_ARRAY_NAN`.COUNT, RO (R137). -/
def cdArrayNan_count : Fld := ⟨.cdArrayNan, 63, 0⟩
/-- `CD_DMA_OOB_ELEMS`.COUNT, RO (R167). -/
def cdDmaOobElems_count : Fld := ⟨.cdDmaOobElems, 63, 0⟩
/-- `CD_DMA_IDX_HITS`.COUNT, RO (R167). -/
def cdDmaIdxHits_count : Fld := ⟨.cdDmaIdxHits, 63, 0⟩
/-- `CD_DMA_TLB_MISSES`.COUNT, RO (R167). -/
def cdDmaTlbMisses_count : Fld := ⟨.cdDmaTlbMisses, 63, 0⟩
/-- `CD_DMA_TURN_BLOCKS`.COUNT, RO (R167). -/
def cdDmaTurnBlocks_count : Fld := ⟨.cdDmaTurnBlocks, 63, 0⟩
/-- `CD_SET_STATUS`.STATE, RO (R103). -/
def cdSetStatus_state : Fld := ⟨.cdSetStatus, 31, 28⟩
/-- `CD_SET_STATUS`.GATED, RO (R103). -/
def cdSetStatus_gated : Fld := ⟨.cdSetStatus, 27, 27⟩
/-- `CD_SET_STATUS`.CTRL_IGNORED, W1C (R103). -/
def cdSetStatus_ctrlIgnored : Fld := ⟨.cdSetStatus, 26, 26⟩
/-- `CD_SET_STATUS`.TEST_FAILED, W1C (R103). -/
def cdSetStatus_testFailed : Fld := ⟨.cdSetStatus, 25, 25⟩
/-- `CD_SET_STATUS`.SPARES_FREE, RO (R103). -/
def cdSetStatus_sparesFree : Fld := ⟨.cdSetStatus, 17, 16⟩
/-- `CD_SET_STATUS`.RETIRED_CORES, RO (R103). -/
def cdSetStatus_retiredCores : Fld := ⟨.cdSetStatus, 15, 8⟩
/-- `CD_SET_STATUS`.ACTIVE_CORES, RO (R103). -/
def cdSetStatus_activeCores : Fld := ⟨.cdSetStatus, 7, 0⟩
/-- `CD_SET_CTRL`.TEST, WO (R103). -/
def cdSetCtrl_test : Fld := ⟨.cdSetCtrl, 2, 2⟩
/-- `CD_SET_CTRL`.RETURN, WO (R103). -/
def cdSetCtrl_return : Fld := ⟨.cdSetCtrl, 1, 1⟩
/-- `CD_SET_CTRL`.RETIRE, WO (R103). -/
def cdSetCtrl_retire : Fld := ⟨.cdSetCtrl, 0, 0⟩
/-- `CD_SPARE_MAP`.SPARE1, RO (R103). -/
def cdSpareMap_spare1 : Fld := ⟨.cdSpareMap, 15, 8⟩
/-- `CD_SPARE_MAP`.SPARE0, RO (R103). -/
def cdSpareMap_spare0 : Fld := ⟨.cdSpareMap, 7, 0⟩
/-- `CD_SET_OWNER`.ALLOCATED, RO (R103). -/
def cdSetOwner_allocated : Fld := ⟨.cdSetOwner, 12, 12⟩
/-- `CD_SET_OWNER`.PARTITION, RO (R103). -/
def cdSetOwner_partition : Fld := ⟨.cdSetOwner, 11, 8⟩
/-- `CD_SET_OWNER`.CONTEXT, RO (R103). -/
def cdSetOwner_context : Fld := ⟨.cdSetOwner, 7, 0⟩
/-- `CD_SET_TILES`.COUNT, RO (R106). -/
def cdSetTiles_count : Fld := ⟨.cdSetTiles, 63, 0⟩
/-- `CD_SET_REEXEC_TILES`.COUNT, RO (R106). -/
def cdSetReexecTiles_count : Fld := ⟨.cdSetReexecTiles, 63, 0⟩
/-- `CD_SET_FIGURES`.COUNT, RO (R106). -/
def cdSetFigures_count : Fld := ⟨.cdSetFigures, 63, 0⟩
/-- `CD_SET_SBUF_RD_BYTES`.COUNT, RO (R106). -/
def cdSetSbufRdBytes_count : Fld := ⟨.cdSetSbufRdBytes, 63, 0⟩
/-- `CD_SET_SBUF_WR_BYTES`.COUNT, RO (R106). -/
def cdSetSbufWrBytes_count : Fld := ⟨.cdSetSbufWrBytes, 63, 0⟩
/-- `CD_SET_MESH_IN_BYTES`.COUNT, RO (R106). -/
def cdSetMeshInBytes_count : Fld := ⟨.cdSetMeshInBytes, 63, 0⟩
/-- `CD_SET_MESH_OUT_BYTES`.COUNT, RO (R106). -/
def cdSetMeshOutBytes_count : Fld := ⟨.cdSetMeshOutBytes, 63, 0⟩
/-- `CD_SET_BARRIER_CYCLES`.COUNT, RO (R106). -/
def cdSetBarrierCycles_count : Fld := ⟨.cdSetBarrierCycles, 63, 0⟩
/-- `CD_SET_SAVES`.COUNT, RO (R106). -/
def cdSetSaves_count : Fld := ⟨.cdSetSaves, 63, 0⟩
/-- `CD_CORE_STATUS`.RETIRED, RO (R104). -/
def cdCoreStatus_retired : Fld := ⟨.cdCoreStatus, 31, 31⟩
/-- `CD_CORE_STATUS`.CAUSE, RO (R104). -/
def cdCoreStatus_cause : Fld := ⟨.cdCoreStatus, 30, 28⟩
/-- `CD_CORE_STATUS`.LOGICAL, RO (R104). -/
def cdCoreStatus_logical : Fld := ⟨.cdCoreStatus, 23, 16⟩
/-- `CD_CORE_STATUS`.STRIKES, RO (R104). -/
def cdCoreStatus_strikes : Fld := ⟨.cdCoreStatus, 1, 0⟩
/-- `CD_CORE_BUSY_CYCLES`.COUNT, RO (R105). -/
def cdCoreBusyCycles_count : Fld := ⟨.cdCoreBusyCycles, 63, 0⟩
/-- `CD_CORE_ARRAY_CYCLES`.COUNT, RO (R105). -/
def cdCoreArrayCycles_count : Fld := ⟨.cdCoreArrayCycles, 63, 0⟩
/-- `CD_CORE_MAC_CELLS`.COUNT, RO (R105). -/
def cdCoreMacCells_count : Fld := ⟨.cdCoreMacCells, 63, 0⟩
/-- `CD_CORE_FREEZE_FEED`.COUNT, RO (R105). -/
def cdCoreFreezeFeed_count : Fld := ⟨.cdCoreFreezeFeed, 63, 0⟩
/-- `CD_CORE_FREEZE_DRAIN`.COUNT, RO (R105). -/
def cdCoreFreezeDrain_count : Fld := ⟨.cdCoreFreezeDrain, 63, 0⟩
/-- `CD_CORE_BYPASS_CYCLES`.COUNT, RO (R105). -/
def cdCoreBypassCycles_count : Fld := ⟨.cdCoreBypassCycles, 63, 0⟩
/-- `CD_CORE_VECTOR_CYCLES`.COUNT, RO (R105). -/
def cdCoreVectorCycles_count : Fld := ⟨.cdCoreVectorCycles, 63, 0⟩
/-- `CD_CORE_SRAM_CONFLICT`.COUNT, RO (R105). -/
def cdCoreSramConflict_count : Fld := ⟨.cdCoreSramConflict, 63, 0⟩
/-- `CD_CORE_SRAM_CE`.COUNT, RO (R105). -/
def cdCoreSramCe_count : Fld := ⟨.cdCoreSramCe, 63, 0⟩
/-- `CD_CORE_DMA_BYTES`.COUNT, RO (R105). -/
def cdCoreDmaBytes_count : Fld := ⟨.cdCoreDmaBytes, 63, 0⟩
/-- `CD_CORE_CHECKSUM_FAIL`.COUNT, RO (R105). -/
def cdCoreChecksumFail_count : Fld := ⟨.cdCoreChecksumFail, 63, 0⟩
end F

end Sys2Proof.Machine
end

