-- ==== Sys2Proof/Machine/RegFile.lean ====
section
/-!
DEFINITION. One register of the window: its name with its indexes; which exist; their order as keys of a table; their
reset values (R6, R7). The register file is a sparse table of the registers that hold something else than their reset
value.
-/
namespace Sys2Proof.Machine

/-- A register of the window: a name of the register map with its indexes (0 where it has none). -/
structure Reg where
  name : RegName
  i : Nat := 0
  j : Nat := 0
  k : Nat := 0
  deriving DecidableEq, Repr

/-- The count of a name's n-th index; 1 where it has fewer. -/
def RegName.count (r : RegName) (n : Nat) : Nat := ((r.spec.dims)[n]?.map Prod.snd).getD 1

/-- The stride of a name's n-th index. -/
def RegName.stride (r : RegName) (n : Nat) : Nat := ((r.spec.dims)[n]?.map Prod.fst).getD 0

/-- The register exists: each index lies in its range. -/
def Reg.exists (r : Reg) : Bool :=
  decide (r.i < r.name.count 0) && decide (r.j < r.name.count 1) && decide (r.k < r.name.count 2)

/-- The register's byte offset in the window (R367). -/
def Reg.offset (r : Reg) : Nat :=
  r.name.spec.base + r.i * r.name.stride 0 + r.j * r.name.stride 1 + r.k * r.name.stride 2

/-- The order of registers as keys: by name, then by index. -/
def Reg.lt (a b : Reg) : Bool :=
  decide (a.name.ctorIdx < b.name.ctorIdx) || (decide (a.name.ctorIdx = b.name.ctorIdx) &&
    (decide (a.i < b.i) || (decide (a.i = b.i) &&
      (decide (a.j < b.j) || (decide (a.j = b.j) && decide (a.k < b.k))))))

/-- The bits of the register that hold something; every other bit is reserved and reads 0 (R7). -/
def RegName.held (r : RegName) : Nat := r.spec.rw ||| r.spec.w1c ||| r.spec.wo ||| r.spec.ro

/-- The bits a read returns: a write-only bit reads 0 (R6). -/
def RegName.readable (r : RegName) : Nat := r.spec.rw ||| r.spec.w1c ||| r.spec.ro

/-- The opcodes the A12 implements, bit x of FEAT_OPCODES word x / 64 (R76 and the opcode tables R53 to R67). -/
def opcodesDefined : List Nat :=
  [0x00, 0x01, 0x02, 0x03, 0x04, 0x05, 0x06, 0x07, 0x08, 0x09, 0x0A, 0x0B,
   0x10, 0x11, 0x12, 0x13, 0x18, 0x19, 0x1A, 0x1B, 0x1C, 0x20, 0x21,
   0x30, 0x31, 0x32, 0x33, 0x34, 0x35, 0x40, 0x41, 0x42, 0x43, 0x4E, 0x4F,
   0x50, 0x51, 0x52, 0x53, 0x54, 0x55, 0x60, 0x61, 0x62, 0x63, 0x64, 0x65, 0x66,
   0x70, 0x71, 0x72, 0x73, 0x80, 0x81, 0x82, 0x83, 0x84]

/-- Word i of the opcode bit map. -/
def opcodeWord (i : Nat) : Nat :=
  (opcodesDefined.filter (fun x => x / 64 == i)).foldl (fun w x => w + 2 ^ (x % 64)) 0

/-- The factory limits of a rail, over 100, 10 and 1 microseconds, in A (R381); VAON's in units of 0.1 A (R401). -/
def railLimits (r : Nat) : Nat × Nat × Nat :=
  match r with
  | 0 | 1 => (450, 520, 600)
  | 2 | 3 => (60, 70, 80)
  | 4 | 11 => (130, 150, 170)
  | 5 | 6 | 7 | 8 => (80, 95, 110)
  | 9 => (120, 140, 160)
  | 10 => (45, 52, 60)
  | _ => (20, 25, 30)

/-- The reset value of a register. Registers whose reset value depends on the index, and those the spec gives no number
for, are named in notes/assumptions/2.md. -/
def Reg.reset (r : Reg) : W64 :=
  BitVec.ofNat 64 <| match r.name with
  | .cdId => setBits r.name.spec.reset 0 0 r.i
  | .cdCoreStatus => setBits r.name.spec.reset 23 16 (if r.k < 128 then r.k else 0xFF)
  | .featOpcodes => opcodeWord r.i
  | .pwrDie => if r.i = 2 then 1200 * 2 ^ 48 + 1200 * 2 ^ 32 else r.name.spec.reset
  | .pwrCapRail =>
    let (l100, l10, l1) := railLimits r.i
    l1 * 2 ^ 22 + l10 * 2 ^ 12 + l100 * 2 ^ 2
  | n => n.spec.reset

/-- The register file: registers that hold something else than their reset value. -/
abbrev Bank := List (Reg × W64)

/-- The value a register of a file holds. -/
def Bank.get (b : Bank) (r : Reg) : W64 := Map.get Reg.reset b r

/-- A file with a register set; a register that does not exist holds nothing, and reserved bits hold 0 (R7). -/
def Bank.put (b : Bank) (r : Reg) (v : W64) : Bank :=
  if r.exists then Map.put Reg.reset Reg.lt b r (v &&& BitVec.ofNat 64 r.name.held) else b

end Sys2Proof.Machine
end

