-- ==== Sys2Proof/Machine/State.lean ====
section
/-!
DEFINITION. The state of the block as plain data: the register files, memory, and what the spec gives the block beside its
registers (the callers' packets, the request slots, the scheduler's faults, the units' tickets, the fabric's peers and the
rest), with the queue of waiting commands; the reasons a step can stop; the state at power-on reset.
-/
namespace Sys2Proof.Machine

/-- Why a step stops with a fault. -/
inductive Fault where
  /-- Raised by INPUT_SAMPLE: the input lies beyond the absolute maximum ratings, where the A12 guarantees no behaviour
  (R493). Safe: the spec gives no effect there. -/
  | beyondRatings
  deriving DecidableEq, Repr

/-- Why a step is refused. -/
inductive Refusal where
  /-- Raised by the dispatcher for a command that has no meaning yet. Safe: the model stops. -/
  | notModelled (mnemonic : String)
  deriving DecidableEq, Repr

/-! ### The callers (chapters 01, 02, 09, 16) -/

/-- Where an issued packet stands. -/
inductive PState where
  /-- Issued; its operation has not run. -/
  | issued
  /-- A WAIT_VALUE or EVENT_WAIT that waits, or another packet that waits for an event (R59, R67). -/
  | waiting
  /-- A part stalls on a RESTART fault with this identifier (R331). -/
  | stalled (fid : Nat)
  /-- Every part has ended; the completion record is due (R73). -/
  | done
  deriving DecidableEq, Repr

/-- A packet issued and not yet completed (R32, R50). -/
structure Pkt where
  /-- the caller's issue number -/
  id : Nat := 0
  /-- the submission queue -/
  q : Nat := 0
  /-- the record's SEQ (R72) -/
  seq : Nat := 0
  /-- the opcode -/
  op : Nat := 0
  /-- the words after substitution (R45) -/
  words : List Nat := []
  /-- the CALL it runs under, where it came from a chain -/
  parent : Option Nat := none
  /-- its slot offset in its innermost chain (R72) -/
  chainOff : Nat := 0
  /-- the dies that run it, as resolved under R43 -/
  dies : Nat := 0
  st : PState := .issued
  status : Nat := 0
  detail : Nat := 0
  /-- the DPA of a failing access, the index of the one sequence every failing access belonged to, and its length table's
  COUNT (R463, R471) -/
  dpa : Nat := 0
  seqIdx : Nat := 0xFFFFFFFF
  seqCount : Nat := 0
  recovered : Bool := false
  split : Bool := false
  skipped : Bool := false
  /-- the comparison of a WAIT_VALUE saved with its context was last seen to hold (R316) -/
  met : Bool := false
  /-- serving counter at issue -/
  at_ : Nat := 0
  /-- the descriptors and records the packet's words name, as read at validation (R143): word index and words -/
  descs : List (Nat × List Nat) := []
  /-- tokens paid so far, and granules counted as served, by target (R178, R180) -/
  paid : Tab Nat := []
  served : Tab Nat := []
  /-- targets whose tokens it waits for, each with the serving counter since when (R177) -/
  waits : List (Nat × Nat) := []
  /-- targets whose oldest request has been promoted (R177) -/
  promoted : List Nat := []
  /-- executions of its tiles that failed (R96) -/
  tries : Nat := 0
  /-- a part of it is exhausted (R455) -/
  exhausted : Bool := false
  /-- issued inside an open step (R458) -/
  inStep : Bool := false
  /-- its number among its queue's packets of the step, for the encore log (R460) -/
  ord : Nat := 0
  /-- KV pages reserved at validation and popped at issue (R256) -/
  pages : List Nat := []
  /-- numbers a class keeps with its packet -/
  aux : List Nat := []
  deriving DecidableEq, Repr

/-- A running chain (R58): its address, length, next slot, the CALL that runs it, and where its packets start (R57). -/
structure Frame where
  base : Nat
  len : Nat
  pos : Nat
  call : Nat
  starts : List Nat
  deriving DecidableEq, Repr

/-- A ring BRANCH that skips toward its target (R57): the BRANCH's issue number, slots still to skip, slots skipped. -/
structure Skip where
  branch : Nat
  left : Nat
  done : Nat
  deriving DecidableEq, Repr

/-- A submission queue's state beside its registers (R40, R41, R494, R495). -/
structure Queue where
  /-- the stop left by ABORT -/
  halt : Bool := false
  /-- the stop of R41 or R42 -/
  errStop : Bool := false
  /-- running chains, the innermost first -/
  chain : List Frame := []
  skip : Option Skip := none
  /-- a skip of a packet behind STEP_END that stands still while a rerun's own BRANCH skips (R459) -/
  laterSkip : Option Skip := none
  /-- the fault that its slot read (R495) or its next packet's validation (R143) waits on -/
  fault : Option Nat := none
  /-- status and DETAIL that its next packet fails with: such a fault resolved as FAIL -/
  failAs : Option (Nat × Nat) := none
  /-- its next packet waits under R50 for an event of another packet -/
  stuck : Bool := false
  /-- tokens that the caller's reads for its next packet have paid, granules of them counted as served, and the targets
  whose tokens they wait for (R176, R178) -/
  paid : Tab Nat := []
  served : Tab Nat := []
  waits : List (Nat × Nat) := []
  /-- targets where these reads have been promoted (R177) -/
  promoted : List Nat := []
  deriving DecidableEq, Repr

/-- An open step (R19, R293, R294). -/
structure Step where
  stepId : Nat
  /-- `HB_SPLIT_CFG` as latched (R19) -/
  attnMax : Nat
  expertMax : Nat
  /-- address of the batch table -/
  batch : Nat
  /-- address of the FLAGS tensor, or 0 -/
  flags : Nat
  /-- the row entries (R292) -/
  rows : List Nat
  /-- entries whose request was FINISHED or CANCELLED at STEP_BEGIN (R296) -/
  idle : List Nat
  /-- those of them whose slot has been freed since -/
  gone : List Nat := []
  /-- pending tokens: entry and token (R294) -/
  pend : List (Nat × Nat) := []
  /-- issue number of the STEP_BEGIN -/
  first : Nat
  /-- STEP_END's commit point reached: issue number of the STEP_END -/
  ending : Option Nat := none
  deriving DecidableEq, Repr

/-- A failure that sends a step to encore (R458, R463): status, poisoned DPA, sequence index and the length table's COUNT,
opcode; whether it exhausted the step's encores (R462). -/
structure StepFail where
  status : Nat := 0
  dpa : Nat := 0
  seqIdx : Nat := 0xFFFFFFFF
  seqCount : Nat := 0
  op : Nat := 0
  spent : Bool := false
  deriving DecidableEq, Repr

/-- The encore state of a context (R457 to R463). -/
structure Encore where
  /-- scalars, predicates and event counters at STEP_BEGIN -/
  scalars : List Nat := []
  preds : Nat := 0
  events : List Nat := []
  /-- ring packets of the step in issue order: queue, words, SEQ, slots of the log used -/
  log : List (Nat × List Nat) := []
  /-- the log has overflowed, or CLR_ENC_CFG.EN was 0 (R457) -/
  lost : Bool := false
  /-- outcomes logged in the first run: queue, number in the step, value (R460) -/
  outs : List (Nat × Nat × Nat) := []
  /-- KV pages opened in the first run: queue, number in the step, page addresses (R256) -/
  pages : List (Nat × Nat × List Nat) := []
  /-- packets that posted a record in an earlier run: queue, number in the step -/
  posted : List (Nat × Nat) := []
  /-- packets issued in the step, per queue -/
  ords : List Nat := []
  /-- encores run -/
  count : Nat := 0
  /-- a failure waits for the encore (R459 beat 1) -/
  fail : Option StepFail := none
  /-- an encore has started and waits for packets in flight (beat 2) -/
  stopped : Bool := false
  /-- a rerun is under way: logged packets still to issue -/
  replay : List (Nat × List Nat) := []
  rerun : Bool := false
  /-- packets issued in the runs before, per queue -/
  seen : List Nat := []
  /-- the DPAs of the run's failures with ST_POISON, and of the run before (R462) -/
  dpas : List Nat := []
  lastDpas : List Nat := []
  /-- the encores are exhausted (R462): the batch entry marked for replay, or 0xFFFF_FFFF -/
  dead : Option Nat := none
  deriving DecidableEq, Repr

/-- A context's state beside its registers. -/
structure Ctx where
  /-- next issue number -/
  nextId : Nat := 0
  /-- by PRIO, the queue after which round-robin goes on (R52) -/
  rr : List Nat := []
  /-- DPAs of the completion ring's pages as recorded at EN (R74) -/
  cqPages : List Nat := []
  /-- records held while EN is 0: words, interrupt wanted (R73) -/
  held : List (List Nat × Bool) := []
  /-- packets issued and not completed, oldest first -/
  pkts : List Pkt := []
  step : Option Step := none
  /-- issue number of the STEP_END whose step has closed, until it completes (R32) -/
  ended : Option Nat := none
  enc : Encore := {}
  /-- recorded pages of the save and spill areas, 2 MiB each (R314) -/
  savePages : List Nat := []
  spillPages : List Nat := []
  /-- bound sets never loaded yet, 40 * die + set (R314) -/
  fresh : List Nat := []
  /-- bound sets still to be restored (R326) -/
  restoring : List Nat := []
  /-- bound sets still to be saved -/
  saving : List Nat := []
  /-- a preemption is requested: moment it must yield, partition it yields to, 16 where no overrun is charged (R322, R325) -/
  yieldTo : Option (Nat × Nat) := none
  /-- serving counter when a preemption was requested (R324) -/
  asked : Nat := 0
  /-- the step hold of R324 has ended -/
  holdOver : Bool := false
  /-- serving counter when it became runnable while swapped out -/
  since : Nat := 0
  /-- serving counter when it was loaded, and when it became BLOCKED -/
  loadedAt : Nat := 0
  blockedAt : Nat := 0
  /-- the bound sets in the order of their images in the save area (R314) -/
  layout : List Nat := []
  deriving DecidableEq, Repr

/-! ### The serving engine (chapters 08, 09) -/

/-- A request slot (R286): its 24 words, the replay mark (R463), the closes that wait (R287). -/
structure Slot where
  words : List Nat := []
  marked : Bool := false
  /-- the REQ_CLOSE packets that wait for the step, in the order they came: context and issue number -/
  closing : List (Nat × Nat) := []
  /-- REQ_CANCEL packets whose latch has not taken full effect (R304) -/
  cancels : List (Nat × Nat) := []
  /-- the REQ_OPEN that opens it: context and issue number -/
  opener : Option (Nat × Nat) := none
  deriving DecidableEq, Repr

/-- An adapter binding (R289). -/
structure Adapter where
  bound : Bool := false
  image : Nat := 0
  part : Nat := 0
  rank : Nat := 0
  users : Nat := 0
  deriving DecidableEq, Repr

/-! ### Memory (chapter 06) -/

/-- A merge entry (R185): granule number, byte mask, bytes. Entries stand in order of opening. -/
structure Merge where
  gran : Nat
  mask : Nat
  data : List Byte
  /-- opened by a completion record (R74) -/
  record : Bool := false
  deriving DecidableEq, Repr

/-- The state of the channels beside registers: times of uncorrectable errors (R198), the running parity command (R193),
the running map-outs (R201). -/
structure Tier where
  /-- serving-counter times of uncorrectable errors, per channel key target * 16 + channel -/
  ueTimes : List (Nat × Nat) := []
  /-- the running parity command: unseal, first row, last row -/
  parity : Option (Bool × Nat × Nat) := none
  /-- stacks, or 12 for the deep tier, whose map-out has its commit accepted and not begun, and those that move blocks -/
  mapWait : List Nat := []
  mapRun : List Nat := []
  /-- stacks LOST (R467); targets not populated (R416) -/
  lost : List Nat := []
  absent : List Nat := []
  /-- channels whose first lap since the reset has begun, and those whose lap's alarm record has been written (R189) -/
  laps : List Nat := []
  alarmed : List Nat := []
  /-- double faults that wait for a restore (R466) -/
  restores : List Nat := []
  /-- the scrubber's position in each deep-tier package, of which DT_SCRUB_STATUS shows the low bits (R189) -/
  deepPos : Tab Nat := []
  deriving DecidableEq, Repr

/-! ### Scheduling (chapter 10) -/

/-- An open fault (R331). -/
structure OpenFault where
  fid : Nat
  status : Nat
  ctx : Nat
  part : Nat
  source : Nat
  write : Bool
  va : Nat
  time : Nat
  seq : Nat
  op : Nat
  q : Nat
  /-- the stalled packet, or none for a ring slot's read -/
  pkt : Option Nat
  /-- its entry stands in the fault ring; else the ring was full -/
  entered : Bool
  deriving DecidableEq, Repr

/-- The scheduler's state beside its registers. -/
structure Sched where
  faults : List OpenFault := []
  nextFid : Nat := 0
  /-- token buckets: key target * 16 + partition; targets 0 to 11 stacks, 12 the deep tier, 13 the fabric (R178) -/
  buckets : Tab Nat := []
  /-- targets where a partition's request waits for tokens in this microsecond -/
  throttled : List Nat := []
  /-- serving counter at the start of the frame and of the slot in progress; its end -/
  frameStart : Nat := 0
  slotStart : Nat := 0
  slotEnd : Nat := 0
  /-- packets of the serving engine that act in issue order, module-wide: context, issue number, opcode (R255, R274) -/
  engine : List (Nat × Nat × Nat) := []
  /-- sets reserved by the slot: 40 * die + set (R320), partition served -/
  reserved : List Nat := []
  owner : Option Nat := none
  /-- slots of the frame that have had their moment: those below this number (R319) -/
  begun : Nat := 0
  /-- context loaded on each set -/
  holder : Tab (Option Nat) := []
  /-- the context that a hard swap brings in (R327) -/
  hard : Option Nat := none
  /-- groups with LOCK waiting for a pending commit (R11), by the group -/
  lockWait : List Group := []
  /-- groups whose GO came within this microsecond (R179) -/
  justGo : List Group := []
  deriving DecidableEq, Repr

/-! ### Cores, sets and units (chapters 03, 07) -/

/-- A set's state beside its registers (R78, R98, R101). -/
structure SetSt where
  /-- a test that runs is a RETURN (R101) -/
  ret : Bool := false
  /-- cores retired and still to be taken over (R98) -/
  leaving : List Nat := []
  /-- failed retries in a row on the router's links: 0 east, 1 south, 2 edge, 3 bridge (R91) -/
  fails : Tab Nat := []
  /-- links of the router that are shut -/
  shut : List Nat := []
  /-- numbers of the free values that the set's work counts have risen by since CLEAR, and those in the snapshot (R105, R106) -/
  jobs : List Nat := []
  snapJobs : List Nat := []
  /-- words that are not 0, by place: the SRAM of L0 to L127, then the top 1 MiB of the set buffer (R87, R89) -/
  inner : List (Nat × W64) := []
  /-- uncorrectable errors of the set buffer: granule, serving counter (R88) -/
  ues : List (Nat × Nat) := []
  deriving DecidableEq, Repr

/-- A ticket of a galliard unit: 0 FREE, 1 QUEUED, 2 RUNNING, 3 DONE; its command words and RESULT words (R214). -/
structure Ticket where
  st : Nat := 0
  words : List Nat := []
  result : List Nat := []
  /-- written by a caller, not by a management core -/
  caller : Bool := false
  /-- its place in its run -/
  pos : Nat := 0
  /-- the first granule of a check of it that failed, as its RESULT will name it -/
  failLa : Option Nat := none
  deriving DecidableEq, Repr

/-- A galliard unit's state beside its registers and its operand buffer (which lies in memory). -/
structure UnitSt where
  tickets : Tab Ticket := []
  /-- tickets not yet DONE, in the order in which they run -/
  queue : List Nat := []
  /-- runs whose last command has not been written: the last ticket written and its place (R216) -/
  tails : List (Nat × Nat) := []
  /-- the caller of the run that has started and not ended (R216) -/
  running : Option Nat := none
  /-- moment the unit became idle in near mode -/
  idleSince : Nat := 0
  /-- MODE_TIME of the STATUS read -/
  modeTime : Nat := 0
  /-- a test or a return runs; it is a return -/
  test : Bool := false
  ret : Bool := false
  /-- OUT takes effect after the current run -/
  outDue : Bool := false
  /-- it had left FEAT_GALLIARD before its channel failed -/
  gone : Bool := false
  /-- executions of the current run after the first -/
  reexec : Nat := 0
  deriving DecidableEq, Repr

/-- A strike (R97, R234): the core's or unit's number among all, serving counter. -/
structure Strike where
  loc : Nat
  unit : Bool
  /-- negative where it happened before the counter's last restart (R100) -/
  time : Int
  deriving DecidableEq, Repr

/-! ### What the block has sent -/

/-- An output of the block. -/
inductive Out where
  /-- an interrupt message on a Theam link vector -/
  | irq (vector : Nat)
  /-- the link's answer to a companion access: data bytes -/
  | linkData (bytes : List Byte)
  /-- an error response on the link -/
  | linkError
  /-- the link's acknowledgement of a write -/
  | linkAck
  /-- a snoop or back-invalidation of a granule -/
  | snoop (gran : Nat)
  /-- a frame that a fabric port sends -/
  | frame (port : Nat) (bytes : List Byte)
  /-- the debug port's answer; an error where it is none -/
  | debug (v : Option W64)
  /-- the debug port's answer for a block that is powered down (R437) -/
  | poweredDown
  /-- bytes read by the I3C controller -/
  | i3c (bytes : List Byte)
  deriving DecidableEq, Repr

/-- Error records held and dropped (R472). -/
structure ErrSt where
  /-- records not yet written, oldest first, each as its words with SEQ and PHASE 0 -/
  held : List (List Nat) := []
  /-- records dropped and not yet reported by a record of kind 0xFE -/
  dropped : Nat := 0
  /-- records written since the ring was enabled (R470) -/
  seq : Nat := 0
  /-- the die fault of R468 is in force -/
  dieFault : Bool := false
  deriving DecidableEq, Repr

/-! ### The fabric and the reel engine (chapter 11) -/

/-- A frame kept until it is acknowledged (R342, R343): PSN, the header's words H0 and H3 to H6, the payload, when it was
first and last sent, its retransmissions. -/
structure TxFrame where
  psn : Nat
  hdr : List Nat
  body : List Byte
  first : Nat
  sent : Nat
  tries : Nat := 0
  deriving DecidableEq, Repr

/-- The receive side of one pair key (R341, R350): the key, one more than the highest TXSEQ accepted, those accepted within
the window. -/
structure RxKey where
  key : List Byte := []
  top : Nat := 0
  seen : List Nat := []
  deriving DecidableEq, Repr

/-- A peer (R344 to R350). -/
structure Peer where
  node : Nat := 0
  ports : Nat := 0
  ip : List Byte := []
  digest : List Byte := []
  /-- the handshake: 0 none, 1 HELLO sent, 2 ATTEST sent, 3 HELLO_REPLY sent, 4 waiting for HELLO -/
  hs : Nat := 0
  /-- the last handshake message sent: type and payload; when; how often sent again -/
  msg : Nat × List Byte := (0, [])
  msgTime : Nat := 0
  msgTries : Nat := 0
  /-- payloads of the handshake so far, for the transcript -/
  script : List Byte := []
  nonceI : List Byte := []
  nonceR : List Byte := []
  /-- the key formed, before CONFIRM -/
  fresh : List Byte := []
  epoch : Bool := false
  txSeq : Nat := 0
  rx : RxKey := {}
  old : RxKey := {}
  /-- when the old epoch ends, while it is accepted -/
  oldUntil : Option Nat := none
  admittedAt : Nat := 0
  triedAt : Nat := 0
  txPsn : Nat := 0
  unacked : List TxFrame := []
  /-- every PSN below this one has been received; those received beyond -/
  rxPsn : Nat := 0
  rxBeyond : List Nat := []
  /-- data frames since the last ACK; when the oldest unacknowledged one arrived -/
  ackDue : Nat := 0
  ackSince : Option Nat := none
  /-- frames received with CE; the count the peer last reported; counted in this period -/
  ce : Nat := 0
  ceSeen : Nat := 0
  cePeriod : Nat := 0
  /-- alpha and rate, 16 fractional bits (R345) -/
  alpha : Nat := 65536
  rate : Nat := 0
  /-- the port of the next frame, round-robin -/
  turn : Nat := 0
  deriving DecidableEq, Repr

/-- A running collective of a group (R356 to R359). Keys of its tables are stream * 512 + rank. -/
structure Coll where
  seq : Nat
  /-- the packet, once it has issued here: context, issue number -/
  owner : Option (Nat × Nat) := none
  /-- when a frame of it was first seen; when it issued -/
  firstSeen : Option Nat := none
  issuedAt : Nat := 0
  /-- its kind (opcode bits [1:0]), operation, send format, send element count, elements per member -/
  kind : Nat := 0
  op : Nat := 0
  fmt : Nat := 0
  count : Nat := 0
  per : Nat := 0
  /-- silence time-out in microseconds -/
  timeout : Nat := 0
  /-- the send operand's codes, widened for a reduction -/
  own : List Nat := []
  /-- elements sent, received (contiguous from 0) and their codes, credit had, credit granted in chunks -/
  sent : Tab Nat := []
  got : Tab (List Nat) := []
  /-- pieces that arrived out of order: key, offset, codes -/
  ahead : List (Nat × Nat × List Nat) := []
  credit : Tab Nat := []
  granted : Tab Nat := []
  /-- per rank, when a frame was last received and last sent -/
  heard : Tab Nat := []
  said : Tab Nat := []
  /-- ranks whose frames are discarded (R357) -/
  mute : List Nat := []
  lagRank : Nat := 0xFFFF
  lagUs : Nat := 0
  capped : Bool := false
  /-- microseconds in which no stream could advance (R359) -/
  waitUs : Nat := 0
  /-- the first CREDIT frames have been sent -/
  begun : Bool := false
  /-- the member's own lag; H5 of the frames of each rank before the issue here, and their number (R357, R359) -/
  lag : Nat := 0
  params : Tab (Option Nat) := []
  early : Tab Nat := []
  /-- a frame of it was retransmitted (R343) -/
  recovered : Bool := false
  deriving DecidableEq, Repr

/-- A group as ARM read it (R351, R352). -/
structure GroupSt where
  part : Nat := 0
  epoch : Nat := 0
  timeoutMs : Nat := 0
  chunk : Nat := 0
  rank : Nat := 0
  size : Nat := 0
  members : List Nat := []
  coll : Option Coll := none
  /-- the next collective, where a frame of it has come before its issue here (R358) -/
  ahead : Option Coll := none
  /-- serving counter of the last capped-in-collective record -/
  capRec : Option Nat := none
  deriving DecidableEq, Repr

/-- A frame delivered by a port's checks and not yet acted on (R341): peer, header words, payload. -/
structure RxFrame where
  peer : Nat
  hdr : List Nat
  body : List Byte
  deriving DecidableEq, Repr

/-- A frame held by REORDER (R361): port, direction, frame, frames still to pass, since. -/
structure HeldFrame where
  port : Nat
  rx : Bool
  frame : List Byte
  left : Nat
  since : Nat
  deriving DecidableEq, Repr

/-- The fabric's state beside its registers. -/
structure Fab where
  peers : Tab Peer := []
  groups : Tab GroupSt := []
  inbox : List RxFrame := []
  held : List HeldFrame := []
  /-- the injection generators, by port (R361) -/
  lfsr : Tab Nat := []
  /-- frames chosen since ARM, by port -/
  chosen : Tab Nat := []
  /-- ports whose training after EN or a lane's failure is not done -/
  training : List Nat := []
  /-- the fabric reference has failed (R405) -/
  refDown : Bool := false
  /-- serving counter of the last update under R345 -/
  ccAt : Nat := 0
  deriving DecidableEq, Repr

/-! ### The Theam link (chapter 12) -/

/-- A snoop that waits for the companion's answer (R371): granule number, whether it invalidates, whether it is a
back-invalidation for a full filter, and then the granule to grant, and when it was sent. -/
structure Snoop where
  gran : Nat
  inval : Bool
  back : Option Nat
  since : Nat := 0
  deriving DecidableEq, Repr

/-- The link's state beside its registers. -/
structure Thm where
  /-- the snoop filter, longest-granted first: granule number, may be dirty (R371) -/
  filter : List (Nat × Bool) := []
  snoop : Option Snoop := none
  /-- interrupt vectors held while the link is not ACTIVE (R366) -/
  held : List Nat := []
  /-- serving counter when the last training ended DOWN (R365) -/
  downAt : Nat := 0
  deriving DecidableEq, Repr

/-! ### Power and temperature (chapter 13) -/

/-- A cue (R390): kind, dies, moment of issue, phase start and end, LEVEL; whether its phase has begun, has ended, has been
counted (R391). -/
structure Cue where
  kind : Nat
  dies : Nat
  at_ : Nat
  start : Nat
  finish : Nat
  level : Nat
  /-- the moment from which it holds its dies out of rest; it holds them -/
  hold : Nat := 0
  holding : Bool := false
  begun : Bool := false
  ended : Bool := false
  counted : Bool := false
  deriving DecidableEq, Repr

/-- The tempo controller's state beside its registers. Consumers are numbered 0 and 1 for the dies (points in steps of 25 MHz
from 500 MHz), 2 to 5 for the stack groups (points in sixteenths), 6 for the hub (0 for 1,200, 1 for 900, 2 for 600 MHz). -/
structure Pwr where
  /-- PWRBRK_N is low; the input calls for a brake (R380) -/
  land : Bool := false
  inBrake : Bool := false
  /-- since when the input has been below 40 V, below 36 V, above 62 V, at or above 40 V -/
  below40 : Option Nat := none
  below36 : Option Nat := none
  above62 : Option Nat := none
  above40 : Option Nat := none
  /-- input above 60 V, for ALERT_N -/
  highIn : Bool := false
  cues : List Cue := []
  /-- the tick's measurements: watts of consumers 0 to 5 in mW, percent busy of the dies; input samples since, in mV and mW -/
  draws : List Nat := []
  samples : List (Nat × Nat) := []
  /-- points the last tick gave consumers 0 to 5 -/
  points : List Nat := []
  /-- the points they requested then (R386) -/
  asked : List Nat := []
  /-- points lowered: per rail by its 10 us window and below the top by its 100 us ceiling; below the top by temperature, per
  part 0 to 2 -/
  low10 : Tab Nat := []
  ceil : Tab Nat := []
  hot : Tab Nat := []
  /-- per rail, when its 100 us window was last acted on, and since when it has been below 95 % of that limit -/
  acted : Tab Nat := []
  under95 : Tab (Option Nat) := []
  /-- rails over their 1 us limit in this microsecond -/
  gated : List Nat := []
  /-- per die, the microsecond of the last half-step and the half-steps in a row (R392) -/
  runs : Tab (Nat × Nat) := []
  /-- dies in droop fallback -/
  droop : List Nat := []
  /-- watts by which each external input lowers the cap (R398) -/
  extLow : Tab Nat := []
  /-- when each part's point last stepped: 0 to 2 CD0, CD1, HB, 3 and on the stacks, 16 and on the external inputs -/
  stepped : Tab Nat := []
  /-- bad reads in a row, by sensor (R397) -/
  badReads : Tab Nat := []
  /-- by sensor, one more than the serving counter at its last read (R395, R396) -/
  reads : Tab Nat := []
  /-- sensors above an alert threshold; when the last one fell below -/
  alerts : List Nat := []
  alertOver : Option Nat := none
  /-- serving counter of the last record of each cause that is limited to one a second -/
  recorded : Tab Nat := []
  /-- when the entry condition of idle states 1 to 4 began to hold -/
  since : List (Option Nat) := []
  /-- contexts saved for I3 and restored at the wake -/
  parked : List Nat := []
  /-- a wake is under way -/
  waking : Bool := false
  /-- debug-port accesses held for the wake: write, window, offset, data (R438) -/
  heldDebug : List (Bool × Nat × Nat × W64) := []
  /-- every point-of-load stage but VAON is off (R398); the THERMTRIP_N latch is set -/
  off : Bool := false
  latched : Bool := false
  /-- serving counter of the last tick -/
  tick : Nat := 0
  deriving DecidableEq, Repr

/-! ### Resets and start-up (chapter 14) -/

/-- A block that a reset can reach (R406, R418). -/
inductive Blk where
  | hub | link | mgmt | deep | aon
  | caller (k : Nat) | die (d : Nat) | set (d s : Nat) | stack (n : Nat) | port (p : Nat)
  deriving DecidableEq, Repr

/-- The reset controller's state beside its registers. -/
structure Rst where
  /-- reset sources asserted: 0 power-on, 1 MRST_N, 2 hot reset, 3 watchdog, 4 trip, 5 security, 6 debug, 7 reference -/
  sources : List Nat := [0]
  /-- the sources whose reaches the debug reset joins (R406) -/
  reach : List Nat := []
  /-- blocks in reset: their isolation wrapper is closed (R418) -/
  closed : List Blk := [.aon, .hub, .link, .mgmt, .deep, .die 0, .die 1] ++ (List.range 12).map Blk.stack ++
    (List.range 8).map Blk.caller
  /-- domains released and whose PLL has not locked: 0 hub, 1 and 2 the dies, 3 and on the stacks (R407) -/
  unlocked : List Nat := []
  /-- stacks whose bank clear, and packages whose training and wipe, is not done (R412, R415) -/
  clearing : List Nat := []
  wiping : List Nat := []
  /-- parts whose wipe timed out: stacks, and 16 and on the packages (R416) -/
  timedOut : List Nat := []
  /-- management firmware has been verified and runs; FEAT_* values have been published -/
  firmware : Bool := false
  published : Bool := false
  /-- the block soft reset that runs: kind, die, index (R417) -/
  soft : Option (Nat × Nat × Nat) := none
  deriving DecidableEq, Repr

/-! ### The security monitor (chapter 15) -/

/-- An image that runs (R430, R444): revision, security version, digest, slot, save-area format. -/
structure Image where
  rev : Nat := 0
  svn : Nat := 0
  digest : List Byte := []
  slot : Nat := 0
  compat : Nat := 0
  deriving DecidableEq, Repr

/-- A monitor request that has been accepted and acts later (R434, R447): the life-cycle state it moves to, or the image
switch that runs: kind, next part, raise the security version, the link at once. -/
structure Switch where
  kind : Nat
  next : Nat := 0
  raise : Bool := false
  linkNow : Bool := false
  image : Image := {}
  deriving DecidableEq, Repr

/-- The monitor's state beside its registers, its fuses among it. -/
structure Sec where
  /-- LC_FUSES -/
  fuses : Nat := 0
  /-- ID_I, and the seed's mark: 0 none, 1 generated, 2 destroyed -/
  idI : List Byte := []
  seed : Nat := 0
  /-- VENDOR_ROOT_DIGEST, FW_KEY_DIGEST, VENDOR_DBG_DIGEST, OPERATOR_DBG_DIGEST -/
  digests : List (List Byte) := []
  /-- MIN_SVN_k -/
  minSvn : List Nat := []
  /-- LAST + 1 and CEIL of the key-use checker (R426) -/
  used : Nat := 0
  ceil : Nat := 0
  /-- the next index, once the state has been read after a reset; a raise of the ceiling is being programmed -/
  next : Nat := 0
  raising : Option Nat := none
  /-- the subtree of the next index is rebuilt (R425) -/
  cached : Bool := false
  /-- bottom trees built -/
  trees : List Nat := []
  /-- the serving counter at each of the last 64 signatures, oldest first (R427) -/
  signed : List Nat := []
  /-- the signature-state block in force: which, its SEQ, the entries of its ceiling log (R423) -/
  sigBlock : Nat := 0
  sigSeq : Nat := 0
  sigLog : List Nat := []
  /-- last life-cycle state before a transition -/
  lastChange : Nat := 0xF
  /-- the transition accepted: target, operator digest, moment -/
  moving : Option (Nat × List Byte × Nat) := none
  /-- the running images, by kind -/
  images : List Image := []
  /-- the galliard microcode in slots A and B of the stacks' microcode stores (R210, R447) -/
  micro : List Image := []
  /-- the switches that FW_ACTIVATE began and that have not ended, at most one of a kind (R447) -/
  switches : List Switch := []
  /-- the chain passes R429; only recovery requests are accepted (R445) -/
  chainOk : Bool := false
  recovery : Bool := false
  /-- failures in a row, lock-outs so far, end of the lock-out (R436) -/
  fails : Nat := 0
  lockouts : Nat := 0
  lockUntil : Option Nat := none
  /-- end of the debug session (R439) -/
  ends : Option Nat := none
  /-- the overlay in force: GEN and entries (R441, R442) -/
  overlay : Option (Nat × List (Nat × Nat × Int)) := none
  deriving DecidableEq, Repr

/-- Elementwise maximum of two lists of numbers. -/
def maxList (a b : List Nat) : List Nat :=
  (List.range (max a.length b.length)).map fun i => max (a.getD i 0) (b.getD i 0)

/-- What a change of the monitor's state leaves: fuses only gain bits, security floors and the last index released only
rise (R420, R426). -/
def Sec.merge (old new : Sec) : Sec :=
  { new with
    fuses := old.fuses ||| new.fuses
    seed := max old.seed new.seed
    minSvn := maxList old.minSvn new.minSvn
    used := max old.used new.used }

/-- The I3C target (R489, R490). -/
structure I3c where
  addr : Option Nat := none
  offset : Nat := 0
  /-- the sixteen bytes as each field was last sampled (R490) -/
  shown : List Byte := List.replicate 16 0
  deriving DecidableEq, Repr

/-! ### The state -/

/-- The state of the block. -/
structure State where
  /-- waiting commands, first in, first out -/
  pending : List Instr
  /-- the serving counter (R5, R404) -/
  now : Nat
  /-- the model's own count of free values taken (log entry 8) -/
  fresh : Nat
  /-- the registers as software reads them; the shadow copies of commit groups (R9) -/
  bank : Bank
  /-- commit-group fields in force (R9) -/
  force : Bank
  /-- snapshot copies of the performance counters (R107) -/
  snap : Bank
  /-- device and companion memory, by device physical address (R168) -/
  mem : List Host.Cell
  /-- per granule, stored check bytes XOR the check bytes of the stored data (R181) -/
  chk : Tab Nat
  /-- the board's flash (R443) -/
  flash : List Host.Cell
  /-- open merge entries, in order of opening (R185) -/
  merges : List Merge
  /-- granules noted as injected (R190) -/
  injected : List Nat
  tier : Tier
  que : Tab Queue
  ctxs : Tab Ctx
  slots : Tab Slot
  adapters : Tab Adapter
  /-- prefix keys by tenant, 4096 the shared namespace (R279) -/
  keys : Tab (Option Nat)
  sched : Sched
  units : Tab UnitSt
  sets : Tab SetSt
  strikes : List Strike
  /-- the retirement log kept in flash (R99): kind, index, data -/
  retlog : List (Nat × Nat × Nat)
  err : ErrSt
  fab : Fab
  thm : Thm
  pwr : Pwr
  rst : Rst
  sec : Sec
  i3c : I3c
  out : List Out
  deriving DecidableEq, Repr

/-- The module held in power-on reset with nothing placed: every register at its reset value, memory unwritten, the board's
flash erased, every queue empty. The commands of chapter 14 bring it up (log entry 1). -/
def State.reset : State where
  pending := []
  now := 0
  fresh := 0
  bank := []
  force := []
  snap := []
  mem := []
  chk := []
  flash := []
  merges := []
  injected := []
  tier := {}
  que := []
  ctxs := []
  slots := []
  adapters := []
  keys := []
  sched := {}
  units := []
  sets := []
  strikes := []
  retlog := []
  err := {}
  fab := {}
  thm := {}
  pwr := {}
  rst := {}
  sec := {}
  i3c := {}
  out := []

end Sys2Proof.Machine
end

