-- ==== Sys2Proof/Machine/Act.lean ====
section
/-!
DEFINITION. What a command can do to the state, said once: the elementary effects, `Eff.apply`, and the relation `Reach`
between states that a run of elementary effects joins. A meaning is an action of type `M s0`: a state-passing program whose
state is a successor of the state s0 it began in, so that every meaning is by its type a run of elementary effects.
-/
namespace Sys2Proof.Machine

/-- The elementary effects on a state. None of them touches the queue of waiting commands. -/
inductive Eff where
  /-- a register as software reads it takes a value (reserved bits stay 0, R7) -/
  | reg (r : Reg) (v : W64)
  /-- a commit-group register in force takes a value -/
  | force (r : Reg) (v : W64)
  /-- a snapshot copy takes a value -/
  | snap (r : Reg) (v : W64)
  /-- registers of a reset's reach return to their reset values -/
  | dropRegs (p : Reg → Bool)
  /-- the serving counter advances by one microsecond (R5) -/
  | tick
  /-- a hub reset returns the serving counter to 0 (R404) -/
  | hubZero
  /-- a free value has been taken -/
  | fresh
  /-- a byte of memory takes a value -/
  | byte (a : Nat) (v : Byte)
  /-- bytes of a range of memory return to what unwritten memory reads as -/
  | dropMem (p : Nat → Bool)
  /-- a granule's check deviation takes a value -/
  | chk (g v : Nat)
  /-- a byte of the board's flash takes a value -/
  | flash (a : Nat) (v : Byte)
  /-- a range of the board's flash is erased -/
  | eraseFlash (p : Nat → Bool)
  | merges (v : List Merge)
  | injected (v : List Nat)
  | tier (v : Tier)
  | sched (v : Sched)
  | strikes (v : List Strike)
  | retlog (v : List (Nat × Nat × Nat))
  | err (v : ErrSt)
  | i3c (v : I3c)
  | fab (v : Fab)
  | thm (v : Thm)
  | pwr (v : Pwr)
  | rst (v : Rst)
  | que (k : Nat) (v : Queue)
  | queClear
  | ctxs (k : Nat) (v : Ctx)
  | ctxsClear
  | slots (k : Nat) (v : Slot)
  | slotsClear
  | adapters (k : Nat) (v : Adapter)
  | adaptersClear
  | keys (k : Nat) (v : Option Nat)
  | keysClear
  | units (k : Nat) (v : UnitSt)
  | unitsClear
  | sets (k : Nat) (v : SetSt)
  | setsClear
  /-- the security monitor's state: fuses only gain bits, floors and the last signature index only rise (R420, R426) -/
  | sec (v : Sec)
  /-- the block sends something -/
  | emit (o : Out)

/-- Unwritten memory reads as zero (log entry 3). -/
def memDefault : Nat → Byte := fun _ => 0

/-- Erased flash reads as ones (log entry 3). -/
def flashDefault : Nat → Byte := fun _ => 0xFF

/-- The state after an elementary effect. -/
def Eff.apply (e : Eff) (s : State) : State :=
  match e with
  | .reg r v => { s with bank := Bank.put s.bank r v }
  | .force r v => { s with force := Bank.put s.force r v }
  | .snap r v => { s with snap := Bank.put s.snap r v }
  | .dropRegs p => { s with bank := s.bank.filter (fun x => !p x.1), force := s.force.filter (fun x => !p x.1),
                            snap := s.snap.filter (fun x => !p x.1) }
  | .tick => { s with now := (s.now + 1) % 2 ^ 64 }
  | .hubZero => { s with now := 0 }
  | .fresh => { s with fresh := s.fresh + 1 }
  | .byte a v => { s with mem := Map.put memDefault natLt s.mem a v }
  | .dropMem p => { s with mem := s.mem.filter (fun x => !p x.1) }
  | .chk g v => { s with chk := Tab.put 0 s.chk g v }
  | .flash a v => { s with flash := Map.put flashDefault natLt s.flash a v }
  | .eraseFlash p => { s with flash := s.flash.filter (fun x => !p x.1) }
  | .merges v => { s with merges := v }
  | .injected v => { s with injected := v }
  | .tier v => { s with tier := v }
  | .sched v => { s with sched := v }
  | .strikes v => { s with strikes := v }
  | .retlog v => { s with retlog := v }
  | .err v => { s with err := v }
  | .i3c v => { s with i3c := v }
  | .fab v => { s with fab := v }
  | .thm v => { s with thm := v }
  | .pwr v => { s with pwr := v }
  | .rst v => { s with rst := v }
  | .que k v => { s with que := Tab.put {} s.que k v }
  | .queClear => { s with que := [] }
  | .ctxs k v => { s with ctxs := Tab.put {} s.ctxs k v }
  | .ctxsClear => { s with ctxs := [] }
  | .slots k v => { s with slots := Tab.put {} s.slots k v }
  | .slotsClear => { s with slots := [] }
  | .adapters k v => { s with adapters := Tab.put {} s.adapters k v }
  | .adaptersClear => { s with adapters := [] }
  | .keys k v => { s with keys := Tab.put none s.keys k v }
  | .keysClear => { s with keys := [] }
  | .units k v => { s with units := Tab.put {} s.units k v }
  | .unitsClear => { s with units := [] }
  | .sets k v => { s with sets := Tab.put {} s.sets k v }
  | .setsClear => { s with sets := [] }
  | .sec v => { s with sec := Sec.merge s.sec v }
  | .emit o => { s with out := s.out ++ [o] }

/-- A run of elementary effects leads from the first state to the second. -/
inductive Reach : State → State → Prop where
  | refl (s : State) : Reach s s
  | step {s t : State} (h : Reach s t) (e : Eff) : Reach s (e.apply t)

/-- What a command answers. -/
abbrev Outcome := Host.Outcome State Fault Refusal

/-- An action begun in state s0: a program that passes on a state reached from s0. -/
abbrev M (s0 : State) := StateM { t : State // Reach s0 t }

variable {s0 : State}

/-- The current state. -/
def cur : M s0 State := fun t => (t.1, t)

/-- An elementary effect as an action. -/
def eff (e : Eff) : M s0 Unit := fun t => ((), ⟨e.apply t.1, Reach.step t.2 e⟩)

/-- The outcome of an action begun in a state. -/
def M.go (s : State) (m : M s Unit) : Outcome := .next (m ⟨s, Reach.refl s⟩).2.1

/-- The state after an action begun in a state. -/
def M.result (s : State) (m : M s Unit) : State := (m ⟨s, Reach.refl s⟩).2.1

/-- `merges` changed by a function. -/
def modMerges (f : List Merge → List Merge) : M s0 Unit := do eff (.merges (f (← cur).merges))
/-- `injected` changed by a function. -/
def modInjected (f : List Nat → List Nat) : M s0 Unit := do eff (.injected (f (← cur).injected))
/-- `tier` changed by a function. -/
def modTier (f : Tier → Tier) : M s0 Unit := do eff (.tier (f (← cur).tier))
/-- `sched` changed by a function. -/
def modSched (f : Sched → Sched) : M s0 Unit := do eff (.sched (f (← cur).sched))
/-- `strikes` changed by a function. -/
def modStrikes (f : List Strike → List Strike) : M s0 Unit := do eff (.strikes (f (← cur).strikes))
/-- `retlog` changed by a function. -/
def modRetlog (f : List (Nat × Nat × Nat) → List (Nat × Nat × Nat)) : M s0 Unit := do eff (.retlog (f (← cur).retlog))
/-- `err` changed by a function. -/
def modErr (f : ErrSt → ErrSt) : M s0 Unit := do eff (.err (f (← cur).err))
/-- `i3c` changed by a function. -/
def modI3c (f : I3c → I3c) : M s0 Unit := do eff (.i3c (f (← cur).i3c))
/-- `fab` changed by a function. -/
def modFab (f : Fab → Fab) : M s0 Unit := do eff (.fab (f (← cur).fab))
/-- `thm` changed by a function. -/
def modThm (f : Thm → Thm) : M s0 Unit := do eff (.thm (f (← cur).thm))
/-- `pwr` changed by a function. -/
def modPwr (f : Pwr → Pwr) : M s0 Unit := do eff (.pwr (f (← cur).pwr))
/-- `rst` changed by a function. -/
def modRst (f : Rst → Rst) : M s0 Unit := do eff (.rst (f (← cur).rst))
/-- Entry k of `que`. -/
def State.queAt (s : State) (k : Nat) : Queue := Tab.get {} s.que k
/-- Entry k of `que` changed by a function. -/
def modQue (k : Nat) (f : Queue → Queue) : M s0 Unit := do eff (.que k (f ((← cur).queAt k)))
/-- Entry k of `ctxs`. -/
def State.ctxsAt (s : State) (k : Nat) : Ctx := Tab.get {} s.ctxs k
/-- Entry k of `ctxs` changed by a function. -/
def modCtxs (k : Nat) (f : Ctx → Ctx) : M s0 Unit := do eff (.ctxs k (f ((← cur).ctxsAt k)))
/-- Entry k of `slots`. -/
def State.slotsAt (s : State) (k : Nat) : Slot := Tab.get {} s.slots k
/-- Entry k of `slots` changed by a function. -/
def modSlots (k : Nat) (f : Slot → Slot) : M s0 Unit := do eff (.slots k (f ((← cur).slotsAt k)))
/-- Entry k of `adapters`. -/
def State.adaptersAt (s : State) (k : Nat) : Adapter := Tab.get {} s.adapters k
/-- Entry k of `adapters` changed by a function. -/
def modAdapters (k : Nat) (f : Adapter → Adapter) : M s0 Unit := do eff (.adapters k (f ((← cur).adaptersAt k)))
/-- Entry k of `keys`. -/
def State.keysAt (s : State) (k : Nat) : Option Nat := Tab.get none s.keys k
/-- Entry k of `units`. -/
def State.unitsAt (s : State) (k : Nat) : UnitSt := Tab.get {} s.units k
/-- Entry k of `units` changed by a function. -/
def modUnits (k : Nat) (f : UnitSt → UnitSt) : M s0 Unit := do eff (.units k (f ((← cur).unitsAt k)))
/-- Entry k of `sets`. -/
def State.setsAt (s : State) (k : Nat) : SetSt := Tab.get {} s.sets k
/-- Entry k of `sets` changed by a function. -/
def modSets (k : Nat) (f : SetSt → SetSt) : M s0 Unit := do eff (.sets k (f ((← cur).setsAt k)))
/-- The security state changed by a function. -/
def modSec (f : Sec → Sec) : M s0 Unit := do eff (.sec (f (← cur).sec))

/-- The block sends something. -/
def emit (o : Out) : M s0 Unit := eff (.emit o)

/-- A fresh number of a free value (log entry 8). -/
def takeFresh : M s0 Nat := do
  let n := (← cur).fresh
  eff .fresh
  pure n

/-- An action where a condition holds; nothing otherwise (log entry 5). -/
def whenM (c : Prop) [Decidable c] (m : M s0 Unit) : M s0 Unit := if c then m else pure ()

/-- An action on each element of a list, in order. -/
def each {α : Type} (xs : List α) (f : α → M s0 Unit) : M s0 Unit :=
  match xs with
  | [] => pure ()
  | x :: xs => do f x; each xs f

end Sys2Proof.Machine
end

