-- ==== Sys2Proof/Machine/Code.lean ====
section
/-!
DEFINITION. The granule code (R181, R182, R184) and the device physical address map (R168 to R172, R199): what a granule's
check symbols are, how a read decodes, which target, row and pseudo-channel an address lies in.
-/
namespace Sys2Proof.Machine

/-! ### GF(2^16) and the code -/

/-- Multiplication by α in GF(2^16), p(x) = x^16 + x^12 + x^3 + x + 1 (R181). -/
def gfTwice (a : Nat) : Nat := if a < 2 ^ 15 then 2 * a else (2 * a - 2 ^ 16) ^^^ 0x100B

/-- Multiplication in GF(2^16), from the multiplier's bits. -/
def gfMulBits : (n a b : Nat) → Nat
  | 0, _, _ => 0
  | n + 1, a, b => (if b % 2 == 1 then a else 0) ^^^ gfMulBits n (gfTwice a) (b / 2)

/-- Multiplication in GF(2^16). -/
def gfMul (a b : Nat) : Nat := gfMulBits 16 a b

/-- α^t. -/
def gfPow : Nat → Nat
  | 0 => 1
  | t + 1 => gfTwice (gfPow t)

/-- One step of the division by the generator (x - 1)(x - α)(x - α^2)(x - α^3); the remainder is r0 + r1 x + r2 x^2 + r3 x^3. -/
def rsStep (g : List Nat) (r : List Nat) (d : Nat) : List Nat :=
  let fb := d ^^^ r.getD 3 0
  [gfMul (g.getD 0 0) fb, r.getD 0 0 ^^^ gfMul (g.getD 1 0) fb, r.getD 1 0 ^^^ gfMul (g.getD 2 0) fb,
   r.getD 2 0 ^^^ gfMul (g.getD 3 0) fb]

/-- The product of a monic polynomial (coefficients below its degree) with x - a, in characteristic 2. -/
def polyTimes (p : List Nat) (a : Nat) : List Nat :=
  let full := p ++ [1]
  (List.range full.length).map fun i => (if i = 0 then 0 else full.getD (i - 1) 0) ^^^ gfMul a (full.getD i 0)

/-- The generator's four low coefficients. -/
def rsGen : List Nat := polyTimes (polyTimes (polyTimes [1] (gfPow 1)) (gfPow 2)) (gfPow 3)

/-- The data symbols of a granule: bytes [2i+1:2i], little-endian (R181). -/
def symbols (bs : List Byte) : List Nat := (List.range 32).map fun i => ofBytes ((bs.drop (2 * i)).take 2)

/-- The check bytes of a granule's data, as a 64-bit number (R181). -/
def encode (bs : List Byte) : Nat :=
  let r := (symbols bs).reverse.foldl (rsStep rsGen) [0, 0, 0, 0]
  (List.range 4).foldl (fun w j => w + r.getD j 0 * 2 ^ (16 * j)) 0

/-- The syndromes S_0 to S_3 of a granule whose stored check bytes differ from its data's by `dev` (the code is linear, so
they depend on the difference alone, R182). -/
def syndromes (dev : Nat) : List Nat :=
  (List.range 4).map fun i => (List.range 4).foldl (fun acc j => acc ^^^ gfMul (bits dev (16 * j + 15) (16 * j)) (gfPow (i * j))) 0

/-- What a read of a granule finds (R182). -/
inductive Decoded where
  | clean
  /-- the symbol at degree t differs by e -/
  | single (t e : Nat)
  | bad
  deriving DecidableEq, Repr

/-- The decision of R182 from the syndromes. -/
def decode (dev : Nat) : Decoded :=
  let s := syndromes dev
  let s0 := s.getD 0 0
  if s.all (· == 0) then .clean
  else match (List.range 36).find? (fun t => s0 != 0 && gfMul s0 (gfPow t) == s.getD 1 0 &&
      gfMul (s.getD 1 0) (gfPow t) == s.getD 2 0 && gfMul (s.getD 2 0) (gfPow t) == s.getD 3 0) with
    | some t => .single t s0
    | none => .bad

/-- A byte list with one data symbol changed by e. -/
def fixSymbol (bs : List Byte) (i e : Nat) : List Byte :=
  (List.range bs.length).map fun n =>
    let b := bs.getD n 0
    if n = 2 * i then b ^^^ BitVec.ofNat 8 e else if n = 2 * i + 1 then b ^^^ BitVec.ofNat 8 (e / 256) else b

/-- The check deviation of the poison pattern: c_0 = c_3 = 0x5A5A over zero data (R184). -/
def poisonDev : Nat := 0x5A5A000000005A5A

/-- A granule of zeros. -/
def zeroGran : List Byte := List.replicate 64 0

/-! ### Device physical addresses -/

/-- What a device physical address names (R168). Addresses from 2^48 are the model's own, for storage no software address
reaches. -/
inductive Region where
  | stack (n : Nat)
  | deep
  | window
  | setBuf (set : Nat)
  | companion
  | inner
  | nothing
  deriving DecidableEq, Repr

/-- The region of an address (R168). -/
def regionOf (a : Nat) : Region :=
  if a < 0xC000000000 then .stack (a / 2 ^ 36)
  else if a < 2 ^ 40 then .nothing
  else if a < 2 ^ 41 then .deep
  else if a < 0x30000000000 then .window
  else if a < 0x30014000000 then
    if (a - 0x30000000000) % 0x400000 < 0x300000 then .setBuf ((a - 0x30000000000) / 0x400000) else .nothing
  else if a < 2 ^ 47 then .nothing
  else if a < 2 ^ 48 then .companion
  else .inner

/-- The target of an address: 0 to 11 a stack, 12 the deep tier, 13 anything else. -/
def targetOf (a : Nat) : Nat :=
  match regionOf a with
  | .stack n => n
  | .deep => 12
  | _ => 13

/-- The base address of a target. -/
def targetBase (t : Nat) : Nat := if t < 12 then t * 2 ^ 36 else 2 ^ 40

/-- Units per row: pseudo-channels of a stack, packages of the deep tier (R199). -/
def unitsPerRow (t : Nat) : Nat := if t < 12 then 32 else 16

/-- Rows of a tier (R170, R171). -/
def tierRows (t : Nat) : Nat := if t < 12 then 32768 else 16777216

/-- Bytes of one block: 64 KiB of a pseudo-channel, 4 KiB of a package. -/
def blockBytes (t : Nat) : Nat := if t < 12 then 65536 else 4096

/-- The row of an address in its target (R170, R171). -/
def rowOf (a : Nat) : Nat :=
  let t := targetOf a
  (a - targetBase t) / (blockBytes t * unitsPerRow t)

/-- The logical unit of an address (R170, R171). -/
def unitOf (a : Nat) : Nat :=
  let t := targetOf a
  (a - targetBase t) / blockBytes t % unitsPerRow t

/-- The dead units of a DEAD mask: a stack channel holds pseudo-channels 2c and 2c + 1, a package is one unit (R170, R199). -/
def deadUnits (t dead : Nat) : List Nat :=
  if t < 12 then (bitList 16 dead).flatMap fun c => [2 * c, 2 * c + 1] else bitList 16 dead

/-- Rows that stay addressable (R199). -/
def liveRows (t dead : Nat) : Nat := tierRows t - tierRows t * (deadUnits t dead).length / unitsPerRow t

/-- The physical row and unit of a logical block (R199). -/
def place (t dead r u : Nat) : Nat × Nat :=
  let ds := deadUnits t dead
  let live := (List.range (unitsPerRow t)).filter fun x => !ds.contains x
  if ds.contains u then
    let j := ds.length * r + ds.idxOf u
    (liveRows t dead + j / live.length, live.getD (j % live.length) 0)
  else (r, u)

/-- An address in the flush-class range: logical pseudo-channels 0 to 3 of ST0 and ST6 (R172). -/
def flushClass (a : Nat) : Bool :=
  match regionOf a with
  | .stack n => (n == 0 || n == 6) && unitOf a < 4
  | _ => false

end Sys2Proof.Machine
end

