-- ==== Sys2Proof/Machine/Ops.lean ====
section
/-!
DEFINITION. The named operations over registers, interrupts and error records that every family of commands uses: reading
and writing a field, counting (R6, R7), delivering an interrupt (R366, R377), writing an error record (R470 to R472),
changing a feature value (R77).
-/
namespace Sys2Proof.Machine

variable {s0 : State}

/-! ### Registers -/

/-- The register of a field at an index. -/
def Fld.at (f : Fld) (i j k : Nat) : Reg := ⟨f.reg, i, j, k⟩

/-- A register as it stands (the shadow copy of a commit group's register, R9). -/
def State.reg (s : State) (r : Reg) : Nat := (Bank.get s.bank r).toNat

/-- A field of a register as it stands. -/
def State.fld (s : State) (f : Fld) (i : Nat := 0) (j : Nat := 0) (k : Nat := 0) : Nat :=
  bits (s.reg (f.at i j k)) f.hi f.lo

/-- A one-bit field of a register as it stands. -/
def State.flag (s : State) (f : Fld) (i : Nat := 0) (j : Nat := 0) (k : Nat := 0) : Bool := s.fld f i j k != 0

/-- A field of a commit group's register in force (R9). -/
def State.inForce (s : State) (f : Fld) (i : Nat := 0) (j : Nat := 0) (k : Nat := 0) : Nat :=
  bits (Bank.get s.force (f.at i j k)).toNat f.hi f.lo

/-- A register takes a value. -/
def setReg (r : Reg) (v : Nat) : M s0 Unit := eff (.reg r (BitVec.ofNat 64 v))

/-- A field takes a value; the register's other bits stay. -/
def setF (f : Fld) (v : Nat) (i : Nat := 0) (j : Nat := 0) (k : Nat := 0) : M s0 Unit := do
  setReg (f.at i j k) (setBits ((← cur).reg (f.at i j k)) f.hi f.lo v)

/-- A one-bit field becomes 1 or 0. -/
def setFlag (f : Fld) (v : Bool) (i : Nat := 0) (j : Nat := 0) (k : Nat := 0) : M s0 Unit := setF f (b2n v) i j k

/-- A field in force takes a value. -/
def setForce (f : Fld) (v : Nat) (i : Nat := 0) (j : Nat := 0) (k : Nat := 0) : M s0 Unit := do
  eff (.force (f.at i j k) (BitVec.ofNat 64 (setBits (Bank.get (← cur).force (f.at i j k)).toNat f.hi f.lo v)))

/-- A field takes a value both in its shadow copy and in force. -/
def setBoth (f : Fld) (v : Nat) (i : Nat := 0) (j : Nat := 0) (k : Nat := 0) : M s0 Unit := do
  setF f v i j k
  setForce f v i j k

/-- The counters of a set page or a core page, which wrap (R105, R106). -/
def wrapsRound : RegName → Bool
  | .cdSetTiles | .cdSetReexecTiles | .cdSetFigures | .cdSetSbufRdBytes | .cdSetSbufWrBytes | .cdSetMeshInBytes
  | .cdSetMeshOutBytes | .cdSetBarrierCycles | .cdSetSaves | .cdCoreBusyCycles | .cdCoreArrayCycles | .cdCoreMacCells
  | .cdCoreFreezeFeed | .cdCoreFreezeDrain | .cdCoreBypassCycles | .cdCoreVectorCycles | .cdCoreSramConflict | .cdCoreSramCe
  | .cdCoreDmaBytes | .cdCoreChecksumFail => true
  | _ => false

/-- A counter rises by d; it saturates at its field's ceiling, but for the counters of a set page or a core page. -/
def bump (f : Fld) (d : Nat) (i : Nat := 0) (j : Nat := 0) (k : Nat := 0) : M s0 Unit := do
  let old := (← cur).fld f i j k
  setF f (if wrapsRound f.reg then (old + d) % 2 ^ 64 else satAdd (f.hi + 1 - f.lo) old d) i j k

/-- A field of a channel register: a stack's, or the deep tier's for t = 12. -/
def State.ch (s : State) (fs fd : Fld) (t c : Nat) (i : Nat := 0) : Nat :=
  if t < 12 then s.fld fs t c i else s.fld fd c i

/-- A field of a channel register takes a value. -/
def setCh (fs fd : Fld) (v t c : Nat) (i : Nat := 0) : M s0 Unit :=
  if t < 12 then setF fs v t c i else setF fd v c i

/-- A channel's counter rises. -/
def bumpCh (fs fd : Fld) (d t c : Nat) (i : Nat := 0) : M s0 Unit :=
  if t < 12 then bump fs d t c i else bump fd d c i

/-! ### Free values -/

/-- Free words, each of its own (log entry 8). -/
def freeWords : Nat → M s0 (List W64)
  | 0 => pure []
  | k + 1 => do
    let n ← takeFresh
    let rest ← freeWords k
    pure (Config.free n :: rest)

/-- n free bytes (log entry 8). -/
def freeBytes (n : Nat) : M s0 (List Byte) := do
  let ws ← freeWords (ceilDiv n 8)
  pure ((ws.flatMap fun w => toBytes 8 w.toNat).take n)

/-! ### Interrupts -/

/-- The Theam link is ACTIVE. -/
def State.linkActive (s : State) : Bool := s.fld F.thmLinkStatus_state == 2

/-- Vector v is masked. -/
def State.vecMasked (s : State) (v : Nat) : Bool := bit (s.fld F.thmVecMask_mask (v / 64)) (v % 64)

/-- An interrupt message on vector v: pending while masked (R377), held while the link is not ACTIVE (R366). -/
def raiseVec (v : Nat) : M s0 Unit := do
  let s ← cur
  if s.vecMasked v then
    setF F.thmVecPend_pend (s.fld F.thmVecPend_pend (v / 64) ||| 2 ^ (v % 64)) (v / 64)
  else if s.linkActive then emit (.irq v)
  else modThm fun t => { t with held := t.held ++ [v] }

/-! ### Memory: what is backed, and storing a granule -/

/-- A byte of memory as it stands, with no decoding. -/
def State.byteAt (s : State) (a : Nat) : Byte := Map.get memDefault s.mem a

/-- n bytes of memory as they stand. -/
def State.bytesAt (s : State) (a n : Nat) : List Byte := (List.range n).map fun i => s.byteAt (a + i)

/-- The 64 bytes of granule g as they stand. -/
def State.granAt (s : State) (g : Nat) : List Byte := s.bytesAt (64 * g) 64

/-- The check deviation of granule g. -/
def State.devAt (s : State) (g : Nat) : Nat := Tab.get 0 s.chk g

/-- The DEAD mask in force of a target (R200). -/
def State.dead (s : State) (t : Nat) : Nat :=
  if t < 12 then s.inForce F.stkMapDead_dead t else s.inForce F.dtMapDead_dead

/-- The capacity in force of a target in bytes (R200); a target that is not populated has none (R416). -/
def State.capacity (s : State) (t : Nat) : Nat :=
  if s.tier.absent.contains t then 0
  else (if t < 12 then s.inForce F.stkMapCapacity_gib t else s.inForce F.dtMapCapacity_gib) * 2 ^ 30

/-- The address is backed (R169); a set's own test belongs to the translation (R310). -/
def State.backed (s : State) (a : Nat) : Bool :=
  match regionOf a with
  | .stack n => decide (a - targetBase n < s.capacity n)
  | .deep => decide (a - 2 ^ 40 < s.capacity 12)
  | .setBuf _ | .companion | .inner => true
  | .window | .nothing => false

/-- The physical unit that holds an address of a stack or the deep tier: stack * 32 + pseudo-channel, or 384 + package. -/
def State.physUnit (s : State) (a : Nat) : Nat :=
  let t := targetOf a
  let u := (place t (s.dead t) (rowOf a) (unitOf a)).2
  if t < 12 then t * 32 + u else 384 + u

/-- The target and channel of a physical unit: a stack's channel holds two pseudo-channels (R170). -/
def chanOf (pu : Nat) : Nat × Nat := if pu < 384 then (pu / 32, pu % 32 / 2) else (12, pu - 384)

/-- Row r is sealed (R193). -/
def State.rowSealed (s : State) (r : Nat) : Bool := bit (s.fld F.hbParityMap_map (r / 64)) (r % 64)

/-- Row r lies in the range of the running parity command, and refuses writes (R193). -/
def State.rowBusy (s : State) (r : Nat) : Bool :=
  match s.tier.parity with
  | some (_, f, l) => decide (f ≤ r) && decide (r ≤ l)
  | none => false

/-- The address lies in a sealed row of a stack (R192). -/
def State.sealed (s : State) (a : Nat) : Bool := decide (targetOf a < 12) && s.rowSealed (rowOf a)

/-- The address refuses writes: a sealed row (R194), a row a parity command works on (R193), a LOST stack (R467). -/
def State.refusesWrite (s : State) (a : Nat) : Bool :=
  decide (targetOf a < 12) &&
    (s.rowSealed (rowOf a) || s.rowBusy (rowOf a) || s.tier.lost.contains (targetOf a))

/-- The granule carries the granule code: it lies in a stack or the deep tier (R181). -/
def coded (g : Nat) : Bool := decide (targetOf (64 * g) < 13)

/-- A run of bytes into memory as it stands, with no code and no refusal. -/
def pokeBytes (a : Nat) (bs : List Byte) : M s0 Unit :=
  match bs with
  | [] => pure ()
  | b :: bs => do eff (.byte a b); pokeBytes (a + 1) bs

/-- A granule's merge entry, where it has one, is discarded (R186). -/
def dropMerge (g : Nat) : M s0 Unit :=
  modMerges fun ms => ms.filter fun m => m.gran != g

/-- The flip-mask's data bytes (R190). -/
def State.flipData (s : State) (t c : Nat) : List Byte :=
  (List.range 8).flatMap fun i => toBytes 8 (s.ch F.stkFlip_mask F.dtFlip_mask t c i)

/-- Two byte lists joined by XOR. -/
def xorBytes (a b : List Byte) : List Byte := List.zipWith (· ^^^ ·) a b

/-- A granule is stored through its channel's encoder. An armed flip-mask changes the stored data and check bytes, clears
ARM and records the granule (R190); an unmasked store ends the granule's injected note. Storage outside the tiers carries
no code. -/
def storeGran (g : Nat) (bs : List Byte) : M s0 Unit := do
  let s ← cur
  if coded g then
    let (t, c) := chanOf (s.physUnit (64 * g))
    if s.ch F.stkFlipCtrl_arm F.dtFlipCtrl_arm t c != 0 then
      let m := s.flipData t c
      pokeBytes (64 * g) (xorBytes bs m)
      eff (.chk g (encode m ^^^ s.ch F.stkFlip_mask F.dtFlip_mask t c 8))
      setCh F.stkFlipCtrl_arm F.dtFlipCtrl_arm 0 t c
      setCh F.stkFlipHit_valid F.dtFlipHit_valid 1 t c
      setCh F.stkFlipHit_dpa F.dtFlipHit_dpa (64 * g) t c
      modInjected fun l => if l.contains g then l else l ++ [g]
    else
      pokeBytes (64 * g) bs
      eff (.chk g 0)
      modInjected fun l => l.filter (· != g)
  else
    pokeBytes (64 * g) bs
    eff (.chk g 0)

/-- A granule is written back with its code right, by a correction, a rebuild or the scrubber: no flip-mask (R190). -/
def backGran (g : Nat) (bs : List Byte) : M s0 Unit := do
  pokeBytes (64 * g) bs
  eff (.chk g 0)
  modInjected fun l => l.filter (· != g)

/-- The poison pattern over a granule of the tiers (R184); a granule of a set buffer is marked poisoned (R88). -/
def poisonGran (g : Nat) : M s0 Unit := do
  dropMerge g
  if coded g then pokeBytes (64 * g) zeroGran
  eff (.chk g poisonDev)

/-- A whole-granule write: it replaces an open merge entry (R186) and any poison (R184). -/
def writeGran (g : Nat) (bs : List Byte) : M s0 Unit := do
  dropMerge g
  storeGran g bs

/-! ### Error records -/

/-- An error record's fields (R470). -/
structure ErrRec where
  kind : Nat
  sev : Nat
  source : Nat
  status : Nat := 0
  injected : Bool := false
  recovered : Bool := false
  part : Nat := 0
  ctx : Nat := 0
  slot : Nat := 0x1FFF
  loc : Nat := 0
  addr : Nat := 0
  step : Nat := 0
  count : Nat := 0
  d5 : Nat := 0
  d6 : Nat := 0
  deriving DecidableEq, Repr

/-- The record's words, with SEQ and PHASE still 0 (R470). -/
def ErrRec.words (e : ErrRec) (now epoch : Nat) : List Nat :=
  [e.status % 256 * 2 ^ 24 + e.kind % 256 * 2 ^ 16 + e.source % 16 * 2 ^ 12 + b2n e.injected * 2 ^ 11
      + b2n e.recovered * 2 ^ 10 + e.sev % 4 * 2 ^ 8,
   now,
   epoch * 2 ^ 32 + e.part % 16 * 2 ^ 28 + e.ctx % 256 * 2 ^ 20 + e.slot % 2 ^ 13,
   e.loc % 2 ^ 16 * 2 ^ 48 + e.addr % 2 ^ 48,
   e.step % 2 ^ 32 * 2 ^ 32 + e.count % 2 ^ 32,
   e.d5, e.d6, 0]

/-- Words as bytes, 8 each (R4). -/
def wordBytes (ws : List Nat) : List Byte := ws.flatMap (toBytes 8)

/-- The error ring lies in companion memory. -/
def State.errInCompanion (s : State) : Bool := decide (2 ^ 47 ≤ s.fld F.hbErrBase_dpa * 2 ^ 12)

/-- Records in the error ring that software has not consumed. -/
def State.errUsed (s : State) : Nat := wrap 32 ((s.fld F.hbErrPtr_tail : Int) - (s.fld F.hbErrPtr_head : Int))

/-- The error ring takes a record now (R472). -/
def State.errOpen (s : State) : Bool := s.flag F.hbErrCfg_en && (!s.errInCompanion || s.linkActive)

/-- One record into the ring, which has room: SEQ and PHASE, one 64-byte write, TAIL, the interrupt (R470, R472). -/
def errPut (ws : List Nat) : M s0 Unit := do
  let s ← cur
  let depth := 2 ^ s.fld F.hbErrCfg_depthLog2
  let tail := s.fld F.hbErrPtr_tail
  let phase := if tail / depth % 2 == 0 then 1 else 0
  let w0 := nth ws 0 + s.err.seq % 2 ^ 32 * 2 ^ 32 + phase
  let a := s.fld F.hbErrBase_dpa * 2 ^ 12 + 64 * (tail % depth)
  if s.backed a && !s.refusesWrite a then writeGran (a / 64) (wordBytes (w0 :: ws.drop 1))
  setF F.hbErrPtr_tail (tail + 1)
  modErr fun e => { e with seq := e.seq + 1 }
  if s.fld F.hbErrCfg_irqMin ≤ bits (nth ws 0) 9 8 then raiseVec (s.fld F.hbErrCfg_vector)

/-- A record is dropped and counted (R472). -/
def errDrop : M s0 Unit := do
  bump F.hbErrLost_count 1
  modErr fun e => { e with dropped := e.dropped + 1 }

/-- The first record after drops: kind 0xFE with their number (R472), once space has returned. -/
def errReport : M s0 Unit := do
  let s ← cur
  if s.err.dropped ≠ 0 ∧ s.errUsed < 2 ^ s.fld F.hbErrCfg_depthLog2 then
    errPut (({ kind := 0xFE, sev := 2, source := 8, count := s.err.dropped } : ErrRec).words s.now
      (s.fld F.rstHubEpoch_epoch))
    modErr fun e => { e with dropped := 0 }

/-- Held records enter the ring in order while it has room; the others. -/
def errStoreSome : List (List Nat) → M s0 (List (List Nat))
  | [] => pure []
  | ws :: rest => do
    let s ← cur
    if s.errUsed < 2 ^ s.fld F.hbErrCfg_depthLog2 then
      errPut ws
      errStoreSome rest
    else pure (ws :: rest)

/-- Held records enter the ring once it takes records, in order and as it has room; behind them the report of records dropped
(R472). -/
def errFlush : M s0 Unit := do
  let s ← cur
  if s.errOpen then
    let rest ← errStoreSome s.err.held
    modErr fun e => { e with held := rest }
    if rest.isEmpty then errReport

/-- An error record is written to the ring, held, or dropped and counted (R472). -/
def errRecord (e : ErrRec) : M s0 Unit := do
  let s ← cur
  let ws := e.words s.now (s.fld F.rstHubEpoch_epoch)
  if s.errOpen then
    errFlush
    let s1 ← cur
    if s1.err.held.isEmpty && decide (s1.errUsed < 2 ^ s1.fld F.hbErrCfg_depthLog2) && s1.err.dropped == 0 then errPut ws
    else errDrop
  else if s.err.held.length < 256 then modErr fun x => { x with held := x.held ++ [ws] }
  else errDrop

/-! ### Feature values -/

/-- A feature value changes: FEAT_GEN rises and a record is written (R77); each register, and each unit that leaves, is a change
of its own (DEDUCED, log entry 68). -/
def featSet (f : Fld) (v : Nat) (i : Nat := 0) : M s0 Unit := do
  if (← cur).fld f i ≠ v then
    setF f v i
    bump F.featGen_value 1
    errRecord { kind := 0x81, sev := 0, source := 8 }

end Sys2Proof.Machine
end

