-- ==== Sys2Proof/Machine/Memory.lean ====
section
/-!
DEFINITION. Reading and writing memory by device physical address: decoding and correction (R182, R183), poison (R184),
parity rebuild and restore (R195, R196, R466), narrow writes and the merge entries (R185 to R187).
-/
namespace Sys2Proof.Machine

variable {s0 : State}

/-- On whose behalf an access is made, for its error records (R470): partition, context, open step. -/
structure Who where
  part : Nat := 0
  ctx : Nat := 0
  step : Nat := 0
  deriving DecidableEq, Repr

/-- The state of the channel that holds an address: 0 GOOD, 1 FAILING, 2 MAPPING, 3 MAPPED (R197). -/
def State.chanState (s : State) (a : Nat) : Nat :=
  let (t, c) := chanOf (s.physUnit a)
  s.ch F.stkChState_state F.dtChState_state t c

/-- A record about a granule (R470). -/
def granRec (s : State) (w : Who) (g kind sev source : Nat) : ErrRec :=
  { kind := kind, sev := sev, source := source, part := w.part, ctx := w.ctx, step := w.step,
    loc := s.physUnit (64 * g), addr := 64 * g, injected := s.injected.contains g }

/-- A granule as decoded, a single-symbol error corrected, written back and counted (R182, R183); none where it is
uncorrectable. -/
def decodeGran (g : Nat) : M s0 (Option (List Byte)) := do
  let s ← cur
  let bs := s.granAt g
  if !coded g then
    pure (if s.devAt g == 0 then some bs else none)
  else match decode (s.devAt g) with
    | .clean => pure (some bs)
    | .single t e =>
      let fixed := if t < 4 then bs else fixSymbol bs (t - 4) e
      let (tt, c) := chanOf (s.physUnit (64 * g))
      bumpCh F.stkChCe_count F.dtChCe_count 1 tt c
      backGran g fixed
      pure (some fixed)
    | .bad => pure none

/-- The granule holds the exact poison pattern (R184), or is a poisoned granule of a set buffer (R88). -/
def State.isPoison (s : State) (g : Nat) : Bool :=
  s.devAt g == poisonDev && (!coded g || s.granAt g == zeroGran)

/-- An uncorrectable granule outside a sealed row is poisoned, counted and recorded; the exact pattern is only reported
(R183, R184). An injected error is left out of the count that UE_LIMIT watches (R190). -/
def takeUncorrectable (w : Who) (g : Nat) : M s0 Unit := do
  let s ← cur
  if coded g && !s.isPoison g then
    let (t, c) := chanOf (s.physUnit (64 * g))
    bumpCh F.stkChUe_count F.dtChUe_count 1 t c
    if !s.injected.contains g then
      modTier fun x => { x with ueTimes := x.ueTimes ++ [(t * 16 + c, s.now)] }
    poisonGran g
    errRecord { granRec s w g 0x20 2 2 with status := 0x22 }

/-- A merge entry is written out: whole where every byte is there, else by read-modify-write (R186, R187; R74 for an entry
a completion record opened). -/
def writeOut (m : Merge) : M s0 Unit := do
  modMerges fun ms => ms.filter fun x => x.gran != m.gran
  if m.mask == 2 ^ 64 - 1 then storeGran m.gran m.data
  else
    let s ← cur
    let (t, c) := chanOf (s.physUnit (64 * m.gran))
    bumpCh F.stkChMergeRmw_count F.dtChMergeRmw_count 1 t c
    let above (old : List Byte) : List Byte :=
      (List.range 64).map fun i => if bit m.mask i then m.data.getD i 0 else old.getD i 0
    let old ← decodeGran m.gran
    match old with
    | some bs => storeGran m.gran (above bs)
    | none =>
      if m.record then
        errRecord { granRec s {} m.gran 0x20 2 2 with status := 0x22 }
        storeGran m.gran (above zeroGran)
      else takeUncorrectable {} m.gran

/-- Merge entries written out, oldest first. -/
def writeOutAll : List Merge → M s0 Unit
  | [] => pure ()
  | m :: ms => do writeOut m; writeOutAll ms

/-- The merge entry of a granule, where it has one, is written out before a read of it (R186). -/
def settle (g : Nat) : M s0 Unit := do
  writeOutAll ((← cur).merges.filter fun m => m.gran == g)

/-- The granule at the same offset of another stack (R192). -/
def peerGran (g n : Nat) : Nat := g % 2 ^ 30 + n * 2 ^ 30

/-- The XOR of the granules at the same offset of the other stacks, or none where one of them cannot be read (R195). -/
def xorPeers (g : Nat) : List Nat → M s0 (Option (List Byte))
  | [] => pure (some zeroGran)
  | n :: ns => do
    let s ← cur
    let mine ← decodeGran (peerGran g n)
    let rest ← xorPeers g ns
    pure (match mine, rest with
      | some a, some b => if s.tier.lost.contains n then none else some (xorBytes a b)
      | _, _ => none)

/-- A granule as it stands now, its open merge entry written out first (R186); one that cannot be read is dealt with as R183
says. -/
def decodeNow (g : Nat) : M s0 (Option (List Byte)) := do
  settle g
  let d ← decodeGran g
  if d.isNone then takeUncorrectable {} g
  pure d

/-- The valid entry of the restore table that covers row r, among the granules of the table from g on: the DPA of the copy
and the entry's first row (R466). A granule that cannot be read holds no valid entry. -/
def restoreEntry (r : Nat) : List Nat → M s0 (Option (Nat × Nat))
  | [] => pure none
  | g :: gs => do
    let d ← decodeNow g
    let here := (List.range 4).findSome? fun i =>
      let w0 := wordAt (d.getD []) (2 * i)
      let w1 := wordAt (d.getD []) (2 * i + 1)
      if bit w1 63 && bits w0 14 0 ≤ r && r ≤ bits w0 46 32 then some (bits w1 47 0, bits w0 14 0) else none
    match here with
    | some e => pure (some e)
    | none => restoreEntry r gs

/-- The granules of the restore table: 64 entries of 16 bytes (R466). -/
def State.restoreTable (s : State) : List Nat := (List.range 16).map (s.fld F.hbRestoreBase_dpa * 64 + ·)

/-- One granule restored from its registered copy (R466); true where it was. -/
def restoreGran (copy first g : Nat) : M s0 Bool := do
  let a := 64 * g
  let src := copy + ((rowOf a - first) * 12 + targetOf a) * 2 ^ 21 + a % 2 ^ 21
  let data ← decodeNow (src / 64)
  match data with
  | some bs =>
    backGran g bs
    bump F.hbParityRestores_count 1
    pure true
  | none => pure false

/-- Every unreadable granule at the offset of g restored from the copy, over a list of stacks (R466). -/
def restoreAll (copy first g : Nat) : List Nat → M s0 Unit
  | [] => pure ()
  | n :: ns => do
    let p := peerGran g n
    let d ← decodeGran p
    if d.isNone then let _ ← restoreGran copy first p
    restoreAll copy first g ns

/-- The stacks. -/
def stackList : List Nat := List.range 12

/-- A granule of a sealed row rebuilt from the other eleven stacks (R195); a double fault poisons it, and it is then
restored from a registered copy where one covers the row (R196, R466). The reader of a double fault gets none. -/
def rebuildGran (w : Who) (g : Nat) : M s0 (Option (List Byte)) := do
  let s ← cur
  let n := targetOf (64 * g)
  let sum ← xorPeers g (stackList.filter (· != n))
  match sum with
  | some bs =>
    if s.chanState (64 * g) != 1 then backGran g bs
    bump F.hbParityRebuilds_count 1
    errRecord { granRec s w g 0x30 1 3 with recovered := true }
    pure (some bs)
  | none =>
    poisonGran g
    bump F.hbParityDouble_count 1
    match ← restoreEntry (rowOf (64 * g)) s.restoreTable with
    | some (copy, first) =>
      restoreAll copy first g stackList
      errRecord { granRec s w g 0x31 1 3 with status := 0x22, recovered := true }
    | none => errRecord { granRec s w g 0x31 2 3 with status := 0x22 }
    pure none

/-- A moment lies within the strike window of die d; 0 keeps strikes for ever (R97). -/
def State.inWindow (s : State) (d : Nat) (t : Int) : Bool :=
  s.fld F.cdStrikeCfg_windowH d == 0 || decide ((s.now : Int) - t ≤ (s.fld F.cdStrikeCfg_windowH d * 3600000000 : Nat))

/-- A set begins to leave service (R88, R98, R101). -/
def retireSet (d st active : Nat) : M s0 Unit := do
  setF F.cdSetStatus_state 5 d st
  setF F.cdSetStatus_activeCores active d st

/-- A read of a clean granule of a set buffer meets an uncorrectable error where a free value says so (log entry 65): the
granule is poisoned, and two addresses of one bank within the strike window put the set into RETIRING (R88). -/
def bankError (x g : Nat) : M s0 Unit := do
  poisonGran g
  let s ← cur
  let live := (s.setsAt x).ues.filter fun e => s.inWindow (x / 40) e.2
  modSets x fun y => { y with ues := live ++ [(g, s.now)] }
  if live.any (fun e => e.1 != g && e.1 % 16 == g % 16) ∧ s.fld F.cdSetStatus_state (x / 40) (x % 40) < 5 then
    retireSet (x / 40) (x % 40) 127

/-- Where a read by a packet reaches a set buffer. -/
def sbufRead (g : Nat) : M s0 Unit := do
  match regionOf (64 * g) with
  | .setBuf x =>
    if (← cur).devAt g = 0 then
      let n ← takeFresh
      if Config.freeBit n then bankError x g
  | _ => pure ()

/-- A granule as a read by a packet or an engine finds it: its bytes where it can be read, and whether the read needed a
rebuild (R182 to R187, R195, R196, R467). -/
def readGran (w : Who) (g : Nat) : M s0 (Option (List Byte) × Bool) := do
  settle g
  sbufRead g
  let s ← cur
  let a := 64 * g
  if s.tier.lost.contains (targetOf a) || (s.sealed a && (s.chanState a == 1 || s.chanState a == 2)) then
    if s.sealed a then
      let r ← rebuildGran w g
      pure (r, true)
    else pure (none, false)
  else
    let r ← decodeGran g
    match r with
    | some bs => pure (some bs, false)
    | none =>
      if s.sealed a then
        let b ← rebuildGran w g
        pure (b, true)
      else
        takeUncorrectable w g
        pure (none, false)

/-- The bytes of a granule that a run of bytes at address a covers: offset in the granule, and the bytes. -/
def pieceOf (a : Nat) (bs : List Byte) (g : Nat) : Nat × List Byte :=
  let lo := max a (64 * g)
  let hi := min (a + bs.length) (64 * g + 64)
  (lo - 64 * g, (bs.drop (lo - a)).take (hi - lo))

/-- The granules that n bytes at address a touch, ascending. -/
def gransOf (a n : Nat) : List Nat :=
  if n = 0 then [] else (List.range ((a + n - 1) / 64 + 1 - a / 64)).map (a / 64 + ·)

/-- A narrow write joins the entry of its granule or opens one, the oldest of the channel's sixteen written out where none
is free; a full mask writes out at once (R185, R186). -/
def writeNarrow (g off : Nat) (bs : List Byte) (record : Bool) : M s0 Unit := do
  let s ← cur
  let mask := maskOf (off + bs.length - 1) off
  let put (old : List Byte) : List Byte :=
    (List.range 64).map fun i => if bit mask i then bs.getD (i - off) 0 else old.getD i 0
  match s.merges.find? (fun m => m.gran == g) with
  | some m =>
    let m' : Merge := { m with mask := m.mask ||| mask, data := put m.data, record := m.record || record }
    modMerges fun ms => ms.map fun x => if x.gran == g then m' else x
    if m'.mask == 2 ^ 64 - 1 then writeOut m'
  | none =>
    let pu := s.physUnit (64 * g)
    let same := s.merges.filter fun m => s.physUnit (64 * m.gran) == pu
    if same.length ≥ 16 then writeOutAll (same.take 1)
    modMerges fun ms => ms ++ [{ gran := g, mask := mask, data := put zeroGran, record := record }]

/-- The part of a run of bytes that falls in granule g is written: whole, narrow, or outside the coded tiers (R185). A narrow
write to a poisoned granule of a set buffer is lost (R88). -/
def writePiece (record : Bool) (a : Nat) (bs : List Byte) (g : Nat) : M s0 Unit := do
  let (off, p) := pieceOf a bs g
  if p.length = 64 then writeGran g p
  else if coded g then writeNarrow g off p record
  else if (← cur).devAt g = 0 then pokeBytes (64 * g + off) p

/-- The pieces of a run of bytes, granule by granule. -/
def writePieces (record : Bool) (a : Nat) (bs : List Byte) : List Nat → M s0 Unit
  | [] => pure ()
  | g :: gs => do writePiece record a bs g; writePieces record a bs gs

/-- A run of bytes is written at an address that takes writes. -/
def writeAt (a : Nat) (bs : List Byte) (record : Bool := false) : M s0 Unit :=
  writePieces record a bs (gransOf a bs.length)

/-- The granules of a list as read, joined; none where one of them cannot be read, with the first such granule; and the
granules that needed a rebuild. -/
def readGrans (w : Who) : List Nat → M s0 ((Option (List Byte) × Nat) × List Nat)
  | [] => pure ((some [], 0), [])
  | g :: gs => do
    let (r, rb) ← readGran w g
    let mine := if rb then [g] else []
    match r with
    | none => pure ((none, g), mine)
    | some bs =>
      let ((rest, bad), more) ← readGrans w gs
      pure ((rest.map (bs ++ ·), bad), mine ++ more)

/-- n bytes at an address as read: the bytes, or none with the address of the first granule that cannot be read; and the
granules that needed a rebuild. -/
def readAt (w : Who) (a n : Nat) : M s0 ((Option (List Byte) × Nat) × List Nat) := do
  let ((r, bad), rb) ← readGrans w (gransOf a n)
  pure ((r.map fun bs => (bs.drop (a % 64)).take n, 64 * bad), rb)

end Sys2Proof.Machine
end

