-- ==== Sys2Proof/Machine/Access.lean ====
section
/-!
DEFINITION. Accesses by device virtual address: the table walk (R173 to R175, R309, R310), the rules of the regions (R169,
R194, R366, R371), and the program type of an operation that may stop at a fault.
-/
namespace Sys2Proof.Machine

variable {s0 : State}

/-- Why an operation of a packet stops. -/
inductive Stop where
  /-- a translation or protection fault, handled under the partition's fault model (R146, R330); `source` as in R331, 0 where
  it is the packet's own -/
  | flt (status va : Nat) (write : Bool) (source : Nat)
  /-- an uncorrectable or poisoned granule was read (R183, R184): virtual address, DPA -/
  | poison (va dpa : Nat)
  /-- the access failed with ST_INTERNAL (R366) -/
  | internal
  /-- the access waits: for the answer to a snoop of a granule, invalidating or not (R371); for a link that trains (R365);
  for another condition of its own -/
  | hold (snoop : Option (Nat × Bool))
  /-- another outcome: status, DETAIL -/
  | fail (status detail : Nat)
  deriving DecidableEq, Repr

/-- What an operation's accesses have used: the granules that crossed a stack port or deep-tier channel, each once for
reads and once for writes (R178, log entry 61), whether one needed a rebuild (R72), and the granules of the companion's that
units accessed, each once for reads and once for writes (R241). -/
structure Log where
  grans : List (Nat × Bool) := []
  recovered : Bool := false
  stale : List (Nat × Bool) := []
  deriving DecidableEq, Repr

/-- A crossing noted once. -/
def Log.note (l : Log) (g : Nat) (write : Bool) : Log :=
  if l.grans.contains (g, write) then l else { l with grans := (g, write) :: l.grans }

/-- Two logs together. -/
def Log.join (l k : Log) : Log :=
  { grans := k.grans.foldl (fun a x => if a.contains x then a else x :: a) l.grans, recovered := l.recovered || k.recovered
    stale := l.stale ++ k.stale }

/-- Granules used by target (R178). -/
def Log.used (l : Log) : List (Nat × Nat) :=
  ((List.range 13).map fun t => (t, (l.grans.filter fun x => targetOf (64 * x.1) == t).length)).filter fun x => x.2 != 0

/-- An operation that may stop. -/
abbrev A (s0 : State) := ExceptT Stop (StateT Log (M s0))

/-- Who accesses: partition, context with its set mask, the open step, and whether a galliard unit does (a unit's bank
accesses cross no port, R176). -/
structure Acc where
  part : Nat := 0
  ctx : Nat := 0
  step : Nat := 0
  unit : Bool := false
  /-- SOURCE of its faults (R331), 0 where it is the packet's own -/
  source : Nat := 0
  /-- the access stands for what an abandoned packet might have done: a read that fails gives a free value, a write that
  fails is left out (R146) -/
  blind : Bool := false
  deriving DecidableEq, Repr

/-- The records' view of an accessor. -/
def Acc.who (ac : Acc) : Who := { part := ac.part, ctx := ac.ctx, step := ac.step }

/-- The end of the range of R168 that an address lies in; 0 for a reserved address. -/
def rangeEnd (a : Nat) : Nat :=
  if a < 0xC000000000 then 0xC000000000
  else if a < 2 ^ 40 then 0
  else if a < 2 ^ 41 then 2 ^ 41
  else if a < 0x30000000000 then 0x30000000000
  else if a < 0x30014000000 then 0x30014000000
  else if a < 2 ^ 47 then 0
  else if a < 2 ^ 48 then 2 ^ 48
  else 0

/-- The address lies in the stack or the deep-tier range (R168). -/
def inTiers (a : Nat) : Bool := decide (a < 0xC000000000) || (decide (2 ^ 40 ≤ a) && decide (a < 2 ^ 41))

/-- The n bytes at a lie wholly within an enabled window of a partition: `some shared` (R309). -/
def State.windowOf (s : State) (p a n : Nat) : Option Bool :=
  (List.range 8).findSome? fun w =>
    let base := s.inForce F.schPartWin_base p w * 2 ^ 21
    let size := s.inForce F.schPartWin_size p w * 2 ^ 21
    if s.inForce F.schPartWin_en p w != 0 && base ≤ a && a + n ≤ base + size then
      some (s.inForce F.schPartWin_shared p w != 0) else none

/-- The n bytes at a lie wholly within an enabled SHARED window of a partition (R309). -/
def State.windowShared (s : State) (p a n : Nat) : Bool :=
  (List.range 8).any fun w =>
    let base := s.inForce F.schPartWin_base p w * 2 ^ 21
    let size := s.inForce F.schPartWin_size p w * 2 ^ 21
    s.inForce F.schPartWin_en p w != 0 && s.inForce F.schPartWin_shared p w != 0 &&
      base ≤ a && a + n ≤ base + size

/-- A set (40 * die + number) is in a context's own mask (R310). -/
def State.bindsSet (s : State) (c x : Nat) : Bool :=
  if x < 40 then bit (s.fld F.schCtxSets0_mask c) x else bit (s.fld F.schCtxSets1_mask c) (x - 40)

/-- A set is in a partition's allocation in force. -/
def State.allocatesSet (s : State) (p x : Nat) : Bool :=
  if x < 40 then bit (s.inForce F.schPartAlloc0_mask p) x else bit (s.inForce F.schPartAlloc1_mask p) (x - 40)

/-- The decision of a leaf by the rows of R175 in their order, with R309 and R310: a status, or the DPA. The leaf maps
`size` bytes. -/
def leafDecision (s : State) (ac : Acc) (entry size va : Nat) (write : Bool) : Except Nat Nat :=
  let base := bits entry 47 8 * 256
  let a := base + va % size
  if base % size ≠ 0 ∨ bits entry 63 48 ≠ 0 ∨ bits entry 7 5 ≠ 0 then .error 0x20
  else if rangeEnd base < base + size then .error 0x20
  else if 2 ^ 41 ≤ a ∧ a < 0x30000000000 then .error 0x21
  else if s.backed a = false then .error 0x20
  else match regionOf a with
    | .setBuf x =>
      if s.bindsSet ac.ctx x then
        (if write ∧ (bit entry 3 = false ∨ bit entry 4 = true) then .error 0x21
         else if write = false ∧ bit entry 2 = false then .error 0x21 else .ok a)
      else if s.allocatesSet ac.part x then .error 0x21 else .error 0x20
    | _ =>
      if (s.windowOf ac.part base size).isNone then .error 0x21
      else if write ∧ s.windowShared ac.part base size then .error 0x21
      else if write = false ∧ bit entry 2 = false then .error 0x21
      else if write ∧ (bit entry 3 = false ∨ bit entry 4 = true) then .error 0x21
      else .ok a

/-- The shift of a level's index, and its width (R173). -/
def levelShift : Nat → Nat × Nat
  | 0 => (39, 13)
  | 1 => (30, 9)
  | 2 => (21, 9)
  | _ => (16, 5)

/-- A granule that was read, and whether the read needed a rebuild. -/
abbrev GranRead := Nat × Bool

/-- The walk from a level on, with `fuel` levels left (R173 to R175): a status, or the leaf entry and the bytes it maps; and
the granules of the tables that the walker read. -/
def walkFrom (ac : Acc) (va : Nat) : (fuel level table : Nat) → M s0 (Except Nat (Nat × Nat) × List GranRead)
  | 0, _, _ => pure (.error 0x20, [])
  | fuel + 1, level, table => do
    let (sh, w) := levelShift level
    let ea := table + 8 * bits va (sh + w - 1) sh
    if (← cur).backed ea = false then pure (.error 0x20, [])
    else
      let (r, rb) ← readGran ac.who (ea / 64)
      let seen := [(ea / 64, rb)]
      match r with
      | none => pure (.error 0x22, seen)
      | some bs =>
        let e := wordAt (bs.drop (ea % 64)) 0
        if bit e 0 = false then pure (.error 0x20, seen)
        else if bit e 1 then
          if level = 0 then pure (.error 0x20, seen) else pure (.ok (e, 2 ^ sh), seen)
        else if level = 3 ∨ bits e 63 48 ≠ 0 ∨ bits e 7 2 ≠ 0 ∨ inTiers (bits e 47 8 * 256) = false then
          pure (.error 0x20, seen)
        else
          let (x, more) ← walkFrom ac va fuel (level + 1) (bits e 47 8 * 256)
          pure (x, seen ++ more)

/-- The leaf that maps a device virtual address for a partition, and the table granules read. -/
def leafWalk (ac : Acc) (va : Nat) : M s0 (Except Nat (Nat × Nat) × List GranRead) := do
  let s ← cur
  if s.inForce F.schPartRoot_v ac.part = 0 then pure (.error 0x20, [])
  else walkFrom ac (va % 2 ^ 52) 4 0 (s.inForce F.schPartRoot_addr ac.part * 2 ^ 16)

/-- A leaf's answer for an address: a status, or the DPA. -/
def leafAnswer (s : State) (ac : Acc) (va : Nat) (write : Bool) (r : Except Nat (Nat × Nat)) : Except Nat Nat :=
  match r with
  | .error st => .error st
  | .ok (e, size) => leafDecision s ac e size (va % 2 ^ 52) write

/-- A device virtual address translated for a partition: a status (ST_XLATE, ST_PROT, ST_POISON), or the DPA. -/
def walk (ac : Acc) (va : Nat) (write : Bool) : M s0 (Except Nat Nat) := do
  let (r, _) ← leafWalk ac va
  pure (leafAnswer (← cur) ac va write r)

/-- A granule's crossing noted, where it lies in the tiers (R178). -/
def noteGran (g : Nat) (write : Bool) : A s0 Unit :=
  if targetOf (64 * g) < 13 then modify fun l => l.note g write else pure ()

/-- Granules' crossings noted. -/
def noteGrans (write : Bool) : List Nat → A s0 Unit
  | [] => pure ()
  | g :: gs => do noteGran g write; noteGrans write gs

/-- Granules rebuilt for a read: the read of the other eleven stacks takes its class and its tokens (R176, R195), and the
packet's record carries RECOVERED. -/
def noteRebuilt : List Nat → A s0 Unit
  | [] => pure ()
  | g :: gs => do
    noteGrans false ((stackList.filter (· != targetOf (64 * g))).map (peerGran g))
    modify fun l => { l with recovered := true }
    noteRebuilt gs

/-- What the walker read, as bulk-class traffic of the partition (R173, R176). -/
def noteWalk (rs : List GranRead) : A s0 Unit := do
  noteGrans false (rs.map Prod.fst)
  noteRebuilt ((rs.filter Prod.snd).map Prod.fst)

/-- The leaf that maps an address, inside an operation. -/
def leafOf (ac : Acc) (va : Nat) : A s0 (Except Nat (Nat × Nat)) := do
  let (r, rs) ← (leafWalk ac va : M s0 _)
  noteWalk rs
  pure r

/-- An address translated inside an operation; a fault or poison stops it. -/
def tr (ac : Acc) (va : Nat) (write : Bool) : A s0 Nat := do
  let r ← leafOf ac va
  match leafAnswer (← (cur : M s0 _)) ac va write r with
  | .ok a => pure a
  | .error st => if st = 0x22 then throw (.poison va 0) else throw (.flt st va write ac.source)

/-- The pieces of n bytes at va, none crossing 64 KiB: address, offset in the run, length. -/
def pagePieces (va n : Nat) : List (Nat × Nat × Nat) :=
  if n = 0 then []
  else (List.range ((va + n - 1) / 65536 + 1 - va / 65536)).map fun i =>
    let lo := max va ((va / 65536 + i) * 65536)
    let hi := min (va + n) ((va / 65536 + i + 1) * 65536)
    (lo, lo - va, hi - lo)

/-- The granules of an access are noted (R178); a unit's bank accesses are not (R176). -/
def noteUse (ac : Acc) (a n : Nat) (write : Bool) : A s0 Unit := if ac.unit then pure () else noteGrans write (gransOf a n)

/-- An access to companion memory needs the link: ST_INTERNAL while it is DOWN, a wait while it trains (R365, R366). -/
def needLink (a : Nat) : A s0 Unit := do
  if regionOf a = .companion then
    let st := (← (cur : M s0 _)).fld F.thmLinkStatus_state
    if st = 0 then throw .internal
    else if st ≠ 2 then throw (.hold none)

/-- The hub snoops the companion before an access to a granule it tracks (R371). A line that may be dirty makes the access
wait for the answer; a clean line needs an answer only from a write, which drops the entry. A unit's access does not snoop:
it is performed unchanged, counted and recorded once for the granule (R241). -/
def snoopFor (ac : Acc) (g : Nat) (write : Bool) : A s0 Unit := do
  let s ← (cur : M s0 _)
  if ac.unit then
    let l ← get
    if s.thm.filter.any (fun e => e.1 == g) && !l.stale.contains (g, write) then
      modify fun l => { l with stale := (g, write) :: l.stale }
      (bump F.galFlushViol_count 1 (targetOf (64 * g)) : M s0 _)
      (errRecord (granRec s ac.who g 0x11 2 1) : M s0 _)
  else
    match s.thm.filter.find? (fun e => e.1 == g) with
    | none => pure ()
    | some (_, dirty) =>
      if dirty then throw (.hold (some (g, write)))
      else if write then
        (emit (.snoop g) : M s0 _)
        (modThm fun t => { t with filter := t.filter.filter fun e => e.1 != g } : M s0 _)

/-- Snoops for every granule of a list. -/
def snoopAll (ac : Acc) (write : Bool) : List Nat → A s0 Unit
  | [] => pure ()
  | g :: gs => do snoopFor ac g write; snoopAll ac write gs

/-- n bytes read at a DPA that translation has given for va. -/
def rdPhys (ac : Acc) (va a n : Nat) : A s0 (List Byte) := do
  needLink a
  snoopAll ac false (gransOf a n)
  noteUse ac a n false
  let ((r, bad), rb) ← (readAt ac.who a n : M s0 _)
  noteRebuilt rb
  match r with
  | some bs => pure bs
  | none => throw (.poison (va + (bad - a)) bad)

/-- A read's piece; for an accessor that stands for what might have been, a piece that cannot be read is free (R146). -/
def orFree (ac : Acc) (n : Nat) (m : A s0 (List Byte)) : A s0 (List Byte) :=
  if ac.blind then tryCatch m fun _ => (freeBytes n : M s0 _) else m

/-- The pieces of a run read in order. -/
def rdPieces (ac : Acc) : List (Nat × Nat × Nat) → A s0 (List Byte)
  | [] => pure []
  | (va, _, n) :: ps => do
    let bs ← orFree ac n (do
      let a ← tr ac va false
      rdPhys ac va a n)
    let rest ← rdPieces ac ps
    pure (bs ++ rest)

/-- n bytes read at a device virtual address. -/
def rd (ac : Acc) (va n : Nat) : A s0 (List Byte) := rdPieces ac (pagePieces va n)

/-- The pieces of a destination read in order: a destination access needs write permission (R145). -/
def rdDestPieces (ac : Acc) : List (Nat × Nat × Nat) → A s0 (List Byte)
  | [] => pure []
  | (va, _, n) :: ps => do
    let bs ← orFree ac n (do
      let a ← tr ac va true
      rdPhys ac va a n)
    let rest ← rdDestPieces ac ps
    pure (bs ++ rest)

/-- n bytes of a destination as they were, for an accumulation or a reduction. -/
def rdDest (ac : Acc) (va n : Nat) : A s0 (List Byte) := rdDestPieces ac (pagePieces va n)

/-- A 64-bit word read at a device virtual address. -/
def rdWord (ac : Acc) (va : Nat) : A s0 Nat := do pure (ofBytes (← rd ac va 8))

/-- n words read at a device virtual address. -/
def rdWords (ac : Acc) (va n : Nat) : A s0 (List Nat) := do
  let bs ← rd ac va (8 * n)
  pure (wordsOf bs n)

/-- One write of an operation: an address and bytes; or, for a 4-bit element, one byte whose high or low half alone is
written (R140). -/
structure Wr where
  va : Nat
  bs : List Byte
  half : Option Bool := none
  deriving DecidableEq, Repr

/-- The pieces of a write translated and tested: a sealed row or a LOST stack refuses with ST_PROT (R194, R467), companion
memory needs the link (R366), and a tracked granule is snooped (R371). Each piece comes out with its DPA as its address. -/
def wrPieces (ac : Acc) (w : Wr) : List (Nat × Nat × Nat) → A s0 (List Wr)
  | [] => pure []
  | (va, o, n) :: ps => do
    let piece : A s0 (List Wr) := do
      let a ← tr ac va true
      if (← (cur : M s0 _)).refusesWrite a then throw (.flt 0x21 va true ac.source)
      needLink a
      snoopAll ac true (gransOf a n)
      noteUse ac a n true
      pure [{ va := a, bs := (w.bs.drop o).take n, half := w.half }]
    let here ← (if ac.blind then tryCatch piece fun _ => pure [] else piece)
    let rest ← wrPieces ac w ps
    pure (here ++ rest)

/-- Every write of a list translated and tested, in order. -/
def wrPlan (ac : Acc) : List Wr → A s0 (List Wr)
  | [] => pure []
  | w :: ws => do
    let p ← wrPieces ac w (pagePieces w.va w.bs.length)
    let rest ← wrPlan ac ws
    pure (p ++ rest)

/-- One write at its DPA. A half-byte write keeps the other half of the byte (R140): it is merged with the byte as a
read-modify-write decodes it, which poisons a granule that cannot be read (R186, R187). -/
def wrOne (w : Wr) : M s0 Unit :=
  match w.half with
  | none => writeAt w.va w.bs
  | some hi => do
    match ← decodeNow (w.va / 64) with
    | some bs =>
      let old := (bs.getD (w.va % 64) 0).toNat
      let v := (w.bs.getD 0 0).toNat % 16
      writeAt w.va [BitVec.ofNat 8 (if hi then setBits old 7 4 v else setBits old 3 0 v)]
    | none => pure ()

/-- The writes of a plan, in order. -/
def wrDo : List Wr → M s0 Unit
  | [] => pure ()
  | w :: ws => do wrOne w; wrDo ws

/-- An operation's writes: every one is translated and tested before the first is made. -/
def wrAll (ac : Acc) (ws : List Wr) : A s0 Unit := do
  let p ← wrPlan ac ws
  (wrDo p : M s0 _)

/-- An address translated, with the refusals a write meets, and nothing moved (the probe of R146). -/
def probe (ac : Acc) (va : Nat) (write : Bool) : A s0 Unit := do
  if !ac.blind then
    let a ← tr ac va write
    if write && (← (cur : M s0 _)).refusesWrite a then throw (.flt 0x21 va true ac.source)

/-- Addresses probed in order; the first fault stops (R146). -/
def probeAll (ac : Acc) : List (Nat × Bool) → A s0 Unit
  | [] => pure ()
  | (va, w) :: ps => do probe ac va w; probeAll ac ps

end Sys2Proof.Machine
end

