-- ==== Sys2Proof/Machine/Window.lean ====
section
/-!
DEFINITION. The register window (R367): which block an offset lies in, which blocks answer (R413, R418), and a command that
comes to a register through the window.
-/
namespace Sys2Proof.Machine

variable {s0 : State}

/-- The block of a window offset, with the reset block that covers it (R367, R418); none outside every block. -/
def windowBlock (off : Nat) : Option (Nat × Blk) :=
  if off < 0x100000 then some (0, .hub)
  else if off < 0x110000 then some (1, .hub)
  else if off < 0x120000 then some (2, .aon)
  else if off < 0x130000 then some (3, .hub)
  else if off < 0x200000 then none
  else if off < 0x300000 then some (4, .hub)
  else if off < 0x400000 then some (5, .hub)
  else if off < 0x800000 then some (6, .hub)
  else if off < 0xB00000 then some (7, .port ((off - 0x800000) / 0x10000))
  else if off < 0xC00000 then some (8, .hub)
  else if off < 0xD00000 then some (9, .link)
  else if off < 0xE00000 then some (10, .deep)
  else if off < 0x1000000 then none
  else if off < 0x3000000 then
    let d := off / 0x1000000 - 1
    let o := off % 0x1000000
    if 0x100000 ≤ o ∧ (o - 0x100000) / 0x10000 < 40 then some (11, .set d ((o - 0x100000) / 0x10000))
    else some (11, .die d)
  else if off < 0x4000000 then none
  else if off < 0x7000000 then some (12, .stack ((off - 0x4000000) / 0x400000))
  else none

/-- A block is in reset: itself, or the block around it. -/
def State.inReset (s : State) (b : Blk) : Bool :=
  s.rst.closed.contains b || (match b with
    | .caller _ => s.rst.closed.contains .hub
    | .set d _ => s.rst.closed.contains (.die d)
    | .port _ => s.rst.closed.contains .hub
    | _ => false)

/-- An error response on the link. -/
def linkError : M s0 Unit := emit .linkError

/-- A companion access to a window offset is let through: the access meets no closed wrapper (R418), and before READY only
the hub globals, the reset controller, the security monitor and the link block answer (R413). Otherwise it gets an error
response; an offset outside every block also sets UNMAPPED (R367). -/
def throughWindow (off : Nat) (act : M s0 Unit) : M s0 Unit := do
  let s ← cur
  match windowBlock off with
  | none =>
    setFlag F.hbRegErr_unmapped true
    linkError
  | some (b, blk) =>
    if s.inReset blk then
      bump F.rstIsoErrors_count 1
      linkError
    else if s.flag F.rstStatus_ready = false ∧ b ≠ 0 ∧ b ≠ 2 ∧ b ≠ 3 ∧ b ≠ 9 then linkError
    else act

/-- A command that is a companion write of one register. -/
def atReg (r : Reg) (act : M s0 Unit) : M s0 Unit := if r.exists then throughWindow r.offset act else pure ()

end Sys2Proof.Machine
end

