-- ==== Sys2Proof/Machine/Flags.lean ====
section
/-!
DEFINITION. Status codes (R13) and the conditions commands decide by: scalar comparisons (R55, R59), scalar arithmetic
(R54), whether a queue fetches (R494), whether completion room is left (R38), and the status bits kept up to date with
them.
-/
namespace Sys2Proof.Machine

variable {s0 : State}

/-! ### Status codes (R13) -/

def stOk : Nat := 0x00
def stCancelled : Nat := 0x01
def stBadOpcode : Nat := 0x10
def stBadParam : Nat := 0x11
def stAlias : Nat := 0x12
def stBounds : Nat := 0x13
def stFormat : Nat := 0x14
def stXlate : Nat := 0x20
def stProt : Nat := 0x21
def stPoison : Nat := 0x22
def stPreempted : Nat := 0x30
def stRestarted : Nat := 0x31
def stPeerLost : Nat := 0x40
def stPeerUnauth : Nat := 0x41
def stEncoreExhausted : Nat := 0x50
def stQuota : Nat := 0x60
def stInternal : Nat := 0xFF

/-- DETAIL of a refused field: word and lowest bit (R46, R72). -/
def wordDetail (word bit : Nat) : Nat := word + bit * 256

/-! ### Scalar arithmetic and comparisons -/

/-- The signed reading of a 64-bit word. -/
def s64 (a : Nat) : Int := signed 64 a

/-- SCALAR_OP's operations, modulo 2^64; none for the reserved codes (R54). -/
def scalarOp (op a b : Nat) : Option Nat :=
  let m := 2 ^ 64
  match op with
  | 0 => some ((a + b) % m)
  | 1 => some ((a + (m - b % m)) % m)
  | 2 => some (a * b % m)
  | 3 => some (a &&& b)
  | 4 => some (a ||| b)
  | 5 => some (a ^^^ b)
  | 6 => some (a <<< (b % 64) % m)
  | 7 => some (a >>> (b % 64))
  | 8 => some (wrap 64 (s64 a >>> (b % 64)))
  | 9 => some (min a b)
  | 10 => some (max a b)
  | 11 => some (if s64 a ≤ s64 b then a else b)
  | 12 => some (if s64 a ≤ s64 b then b else a)
  | _ => none

/-- SET_PRED's comparisons of two scalars: EQ, NE, LTU, GEU, LTS, GES, TRUE, FALSE (R55). -/
def setPredCond (cond a b : Nat) : Bool :=
  match cond with
  | 0 => a == b
  | 1 => a != b
  | 2 => decide (a < b)
  | 3 => decide (b ≤ a)
  | 4 => decide (s64 a < s64 b)
  | 5 => decide (s64 b ≤ s64 a)
  | 6 => true
  | _ => false

/-- WAIT_VALUE's comparisons: EQ, NE, GEU, LTU (R59). -/
def waitCond (cond a b : Nat) : Bool :=
  match cond with
  | 0 => a == b
  | 1 => a != b
  | 2 => decide (b ≤ a)
  | _ => decide (a < b)

/-! ### Scalars, predicates and events of a context -/

/-- Scalar i. -/
def State.scalar (s : State) (c i : Nat) : Nat := s.fld F.clrS_value c i

/-- Scalar i takes a value. -/
def setScalar (c i v : Nat) : M s0 Unit := setF F.clrS_value v c i

/-- Predicate i. -/
def State.pred (s : State) (c i : Nat) : Bool := bit (s.fld F.clrPred_p c) i

/-- Predicate i takes a value. -/
def setPred (c i : Nat) (v : Bool) : M s0 Unit := do
  setF F.clrPred_p (setBits ((← cur).fld F.clrPred_p c) i i (b2n v)) c

/-! ### Queues and rings -/

/-- The number a context's queue has in the table of queues. -/
def qKey (c q : Nat) : Nat := c * 4 + q

/-- The depth of a submission queue (R33). -/
def State.sqDepth (s : State) (c q : Nat) : Nat := 2 ^ s.fld F.clrSqCfg_depthLog2 c q

/-- The depth of a completion ring (R34). -/
def State.cqDepth (s : State) (c : Nat) : Nat := 2 ^ s.fld F.clrCqCfg_depthLog2 c

/-- Slots written and not released: (TAIL - HEAD) mod 2 * depth (R33). -/
def State.sqUsed (s : State) (c q : Nat) : Nat :=
  let m := 2 * s.sqDepth c q
  (s.fld F.clrSqDb_tail c q % m + (m - s.fld F.clrSqStatus_head c q % m)) % m

/-- A submission queue fetches: enabled, the completion ring enabled, no halt in force (R494). -/
def State.sqFetches (s : State) (c q : Nat) : Bool :=
  bit (s.fld F.clrCtxCfg_sqEn c) q && s.flag F.clrCqCfg_en c &&
    !(s.queAt (qKey c q)).halt && !(s.queAt (qKey c q)).errStop

/-- Records written and not consumed, held records among them (R38, R73). -/
def State.unconsumed (s : State) (c : Nat) : Nat :=
  let m := 2 * s.cqDepth c
  (s.fld F.clrCqStatus_tail c % m + (m - s.fld F.clrCqDb_head c % m)) % m + (s.ctxsAt c).held.length

/-- Packets issued and not completed (R32). -/
def State.inFlight (s : State) (c : Nat) : Nat := (s.ctxsAt c).pkts.length

/-- Issue is held for completion room (R38). -/
def State.cqFull (s : State) (c : Nat) : Bool := decide (s.cqDepth c ≤ s.inFlight c + s.unconsumed c)

/-- A packet stands at the front of a queue that may fetch it: a slot of its ring or chain, or the encore log's next, which no
halt holds back (R33, R58, R459). -/
def State.hasWork (s : State) (c q : Nat) : Bool :=
  (s.sqFetches c q && (s.sqUsed c q != 0 || match (s.queAt (qKey c q)).chain with
    | f :: _ => decide (f.pos < f.len)
    | [] => false)) ||
  match (s.ctxsAt c).enc.replay with
  | (k, _) :: _ => k == q
  | [] => false

/-- A step is open for STEP_OPEN: from the issue of its STEP_BEGIN until its STEP_END completes or an abort closes it (R32). -/
def State.stepOpen (s : State) (c : Nat) : Bool :=
  let x := s.ctxsAt c
  x.step.isSome || x.pkts.any fun p => (p.op == 0x60 && p.st != .done) || x.ended == some p.id

/-! ### Sets (R103, R310) -/

/-- The operation runs parts on a context's sets: the dense and movement classes, the die parts of ATTEND and of the
stack-class products. -/
def usesSets (op : Nat) : Bool :=
  op / 16 == 1 || op / 16 == 2 || op / 16 == 3 || op == 0x51 || op == 0x40 || op == 0x41

/-- The context loaded on a set (40 * die + number). -/
def State.holderOf (s : State) (x : Nat) : Option Nat := Tab.get none s.sched.holder x

/-- The state that a set's holder gives it: FREE, ALLOCATED, BUSY, SAVING, RESTORING. -/
def State.setState (s : State) (x : Nat) : Nat :=
  match s.holderOf x with
  | none => 0
  | some c =>
    let k := s.ctxsAt c
    if k.saving.contains x then 3
    else if k.restoring.contains x then 4
    else if k.pkts.any (fun p => usesSets p.op && p.st != .done && bit p.dies (x / 40)) then 2 else 1

/-- A set's registers follow its holder; RETIRING, RETIRED and TESTING stand until their own events. -/
def refreshSet (x : Nat) : M s0 Unit := do
  let s ← cur
  let d := x / 40
  let i := x % 40
  if s.fld F.cdSetStatus_state d i < 5 ∧ s.fld F.cdSetStatus_state d i ≠ s.setState x then
    setF F.cdSetStatus_state (s.setState x) d i
  let own := (s.holderOf x).isSome
  if own ≠ s.flag F.cdSetOwner_allocated d i then setFlag F.cdSetOwner_allocated own d i
  match s.holderOf x with
  | some c => if s.fld F.cdSetOwner_partition d i ≠ s.fld F.schCtxCfg_partition c then
      setF F.cdSetOwner_partition (s.fld F.schCtxCfg_partition c) d i
  | none => pure ()

/-- The sets that a context holds. -/
def State.heldSets (s : State) (c : Nat) : List Nat := (s.sched.holder.filter fun e => e.2 == some c).map Prod.fst

/-- A submission queue's status bits follow its state (R33, R494). -/
def refreshQueue (c q : Nat) : M s0 Unit := do
  let s ← cur
  setFlag F.clrSqStatus_stopped (!s.sqFetches c q) c q
  setFlag F.clrSqStatus_errStop (s.queAt (qKey c q)).errStop c q
  setF F.clrSqStatus_free (s.sqDepth c q - s.sqUsed c q) c q

/-- A context's status bits follow its state (R32, R34). -/
def refreshCtx (c : Nat) : M s0 Unit := do
  let s ← cur
  setF F.clrCtxStatus_inFlight (s.inFlight c) c
  setFlag F.clrCtxStatus_stepOpen (s.stepOpen c) c
  setFlag F.clrCqStatus_full (s.cqFull c && (List.range 4).any (s.hasWork c)) c
  each (List.range 4) (refreshQueue c)
  each (s.heldSets c) refreshSet

/-- Some queue of the context can issue: it fetches, work is left, nothing it waits for under R38, R50 or R495 (R316). -/
def State.canIssue (s : State) (c : Nat) : Bool :=
  !s.cqFull c && decide (s.inFlight c < 64) && (List.range 4).any fun q =>
    !(s.queAt (qKey c q)).stuck && (s.queAt (qKey c q)).fault.isNone && s.hasWork c q

/-- The time-out of a wait has passed: TIMEOUT_US is not 0 (R59, R67). -/
def State.timedOut (s : State) (p : Pkt) (us : Nat) : Bool := us != 0 && decide (p.at_ + us ≤ s.now)

/-- A saved wait of the context would now complete: an EVENT_WAIT's count is reached, a WAIT_VALUE has been seen to hold, or
the time-out of either has passed (R59, R67, R316). -/
def State.waitOver (s : State) (c : Nat) : Bool :=
  (s.ctxsAt c).pkts.any fun p => p.st == .waiting &&
    (match p.op with
    | 0x83 => decide (nth p.words 4 ≤ s.fld F.clrEvent_count c (nth p.words 3 % 32)) || s.timedOut p (nth p.words 5 / 2 ^ 32)
    | 0x0A => p.met || s.timedOut p (nth p.words 4 / 2 ^ 32)
    | _ => false)

/-- A swapped-out context is RUNNABLE: a queue can fetch, a saved wait would complete, or a split packet has parts left to
issue (R316, R322). -/
def State.canRun (s : State) (c : Nat) : Bool :=
  s.canIssue c || s.waitOver c || (s.ctxsAt c).pkts.any fun p => p.split && p.st == .issued

/-- The state a loaded context is in: STALLED, RUNNING or BLOCKED (R316); a packet held at its fetch waits as a part does. -/
def State.runState (s : State) (c : Nat) : Nat :=
  let ps := (s.ctxsAt c).pkts
  if ps.any (fun p => match p.st with | .stalled _ => true | _ => false) ||
    (List.range 4).any (fun q => (s.queAt (qKey c q)).fault.isSome) then 5
  else if s.canIssue c || ps.any (fun p => p.st != .waiting || !(p.op == 0x0A || p.op == 0x83)) then 3
  else 4

/-- A context's state register follows what its packets and queues do (R316, R318). -/
def refreshState (c : Nat) : M s0 Unit := do
  let s ← cur
  let st := s.fld F.schCtxState_state c
  if st == 3 || st == 4 || st == 5 then
    let v := s.runState c
    if v ≠ st then
      setF F.schCtxState_state v c
      setF F.schCtxSince_time s.now c
      if v = 4 then modCtxs c fun x => { x with blockedAt := s.now }
  else if st == 1 then
    let r := s.canRun c
    if r != s.flag F.schCtxState_runnable c then
      setFlag F.schCtxState_runnable r c
      if r then modCtxs c fun x => { x with since := s.now }

/-- The partition of a context. -/
def State.partOf (s : State) (c : Nat) : Nat := s.fld F.schCtxCfg_partition c

/-- The accessor of a context's packets. -/
def State.acc (s : State) (c : Nat) : Acc :=
  { part := s.partOf c, ctx := c, step := ((s.ctxsAt c).step.map Step.stepId).getD 0 }

/-- The context is loaded: RUNNING, BLOCKED, STALLED or PREEMPTING (R314, R316). -/
def State.loaded (s : State) (c : Nat) : Bool :=
  let st := s.fld F.schCtxState_state c
  st == 3 || st == 4 || st == 5 || st == 6

end Sys2Proof.Machine
end

