-- ==== Sys2Proof/Machine/Packets.lean ====
section
/-!
DEFINITION. Packets in flight and completion records (R43, R72 to R75): the fields of a packet's words, ending a packet, and
writing a record to the completion ring.
-/
namespace Sys2Proof.Machine

variable {s0 : State}

/-! ### Fields of a packet -/

/-- Word i of a packet. -/
def Pkt.w (p : Pkt) (i : Nat) : Nat := nth p.words i

/-- Bits of word i of a packet. -/
def Pkt.f (p : Pkt) (i hi lo : Nat) : Nat := bits (p.w i) hi lo

/-- Bit b of word i of a packet. -/
def Pkt.b (p : Pkt) (i b : Nat) : Bool := bit (p.w i) b

/-- COMPLETE, IRQ, LATENCY, PRED_EN, PRED_NEG, PRED of W0 and SUBST of W1 (R43). -/
def Pkt.complete (p : Pkt) : Bool := p.b 0 15
def Pkt.irq (p : Pkt) : Bool := p.b 0 14
def Pkt.latency (p : Pkt) : Bool := p.b 0 13

/-- The packet of a context with an issue number. -/
def State.pkt (s : State) (c id : Nat) : Option Pkt := (s.ctxsAt c).pkts.find? fun p => p.id == id

/-- A packet in flight changed by a function. -/
def modPkt (c id : Nat) (f : Pkt → Pkt) : M s0 Unit :=
  modCtxs c fun x => { x with pkts := x.pkts.map fun p => if p.id == id then f p else p }

/-- Every part of a packet has ended, with a status and DETAIL. -/
def endPkt (c id status detail : Nat) : M s0 Unit :=
  modPkt c id fun p => { p with st := .done, status := status, detail := detail }

/-- A packet waits. -/
def waitPkt (c id : Nat) : M s0 Unit := modPkt c id fun p => { p with st := .waiting }

/-- The context's caller is out of reset (R406, R469). -/
def State.callerUp (s : State) (c : Nat) : Bool := !s.inReset (.caller (s.fld F.schCtxState_caller c))

/-- The step hold keeps the caller issuing (R324). -/
def State.stepHeld (s : State) (c : Nat) : Bool :=
  s.inForce F.schPartCfg_stepHold (s.partOf c) != 0 && (s.ctxsAt c).step.isSome && !(s.ctxsAt c).holdOver

/-- A preemption is requested and no step hold puts it off: no further part of the split packet is issued (R322). -/
def State.partsStop (s : State) (c : Nat) (p : Pkt) : Bool :=
  p.split && p.st == .issued && s.fld F.schCtxState_state c == 6 && !s.stepHeld c

/-- An action on a packet of an opcode that has not run yet; nothing where there is none (log entry 5), while the caller is
in reset, or where no further part of the packet is issued. -/
def onIssued (c id : Nat) (ops : List Nat) (f : Pkt → M s0 Unit) : M s0 Unit := do
  let s ← cur
  match s.pkt c id with
  | some p => if ops.contains p.op && p.st == .issued && s.callerUp c && !s.partsStop c p then f p else pure ()
  | none => pure ()

/-- An action on a packet of an opcode that waits. -/
def onWaiting (c id op : Nat) (f : Pkt → M s0 Unit) : M s0 Unit := do
  let s ← cur
  match s.pkt c id with
  | some p => if p.op == op && p.st == .waiting && s.callerUp c then f p else pure ()
  | none => pure ()

/-! ### The serving engine's order (R255, R274) -/

/-- The packets among which the serving engine keeps the order of issue: those that return pages to the pools, and those that
use a prefix index. -/
def engineClass (op : Nat) : Nat := if op = 0x52 then 1 else if op = 0x53 ∨ op = 0x54 then 2 else 0

/-- Packets of a class that have issued and not acted. -/
def State.engineBusy (s : State) (k : Nat) (es : List (Nat × Nat × Nat)) : Bool :=
  es.any fun (c, id, op) => engineClass op == k && (s.pkt c id).any fun p => p.op == op && p.st != .done

/-- Every packet of its class that issued before it has acted. -/
def State.engineTurn (s : State) (c id op : Nat) : Bool :=
  !s.engineBusy (engineClass op) (s.sched.engine.takeWhile fun e => e != (c, id, op))

/-- A packet takes its place in the order. -/
def joinEngine (c : Nat) (p : Pkt) : M s0 Unit :=
  if engineClass p.op = 0 then pure () else do
    let s ← cur
    modSched fun x => { x with engine := (x.engine.filter fun e => s.engineBusy (engineClass e.2.2) [e]) ++ [(c, p.id, p.op)] }

/-! ### Tokens (R178, R180) -/

/-- The bucket's key of a target and partition. -/
def bKey (t p : Nat) : Nat := t * 16 + p

/-- The tokens a partition has on a target. -/
def State.bucket (s : State) (t p : Nat) : Nat := Tab.get 0 s.sched.buckets (bKey t p)

/-- Granules of a partition served on a target are counted (R180). -/
def countGrans (t part n : Nat) : M s0 Unit :=
  if t < 12 then bump F.stkRegGranules_count n t part else bump F.dtRegGranules_count n part

/-- Tokens leave a bucket. -/
def takeTokens (t part n : Nat) : M s0 Unit :=
  modSched fun x => { x with buckets := Tab.put 0 x.buckets (bKey t part) (Tab.get 0 x.buckets (bKey t part) - n) }

/-- Granules that never wait for tokens are counted and take those there are (R178, log entry 61). -/
def spend (part : Nat) (use : Nat × Nat) : M s0 Unit := do
  takeTokens use.1 part use.2
  countGrans use.1 part use.2

/-- The granules of n bytes written at a DPA for a partition, by the caller or the serving engine on its own account. -/
def spendAt (part a n : Nat) : M s0 Unit :=
  each ((gransOf a n).filter fun g => targetOf (64 * g) < 13) fun g => spend part (targetOf (64 * g), 1)

/-! ### Completion records -/

/-- The context's interrupt (R75). -/
def ctxIrq (c : Nat) : M s0 Unit := do raiseVec ((← cur).fld F.clrCtxCfg_vector c)

/-- A record's words without PHASE (R72): SEQ, STATUS, OPCODE, CTX, QUEUE and the marks; TAG and CHAIN_OFFSET; DETAIL. The
time stands at its writing. -/
def recordWords (c q seq status op tag chainOff detail : Nat) (inChain skipped split recovered : Bool) (now : Nat) :
    List Nat :=
  [seq % 2 ^ 32 * 2 ^ 32 + status % 256 * 2 ^ 24 + op % 256 * 2 ^ 16 + c % 256 * 2 ^ 8 + q % 4 * 2 ^ 6
      + b2n inChain * 32 + b2n skipped * 16 + b2n split * 8 + b2n recovered * 4,
   tag % 2 ^ 32 * 2 ^ 32 + chainOff % 2 ^ 16 * 2 ^ 16,
   now,
   detail]

/-- A record into the ring through its recorded pages (R73, R74): PHASE, one 32-byte write, TAIL, the interrupt. A write to
companion memory while the link is DOWN is discarded (R366). -/
def putRecord (c : Nat) (ws : List Nat) (irq : Bool) : M s0 Unit := do
  let s ← cur
  let depth := s.cqDepth c
  let tail := s.fld F.clrCqStatus_tail c
  let off := 32 * (tail % depth)
  let a := nth (s.ctxsAt c).cqPages (off / 4096) + off % 4096
  let phase := if tail / depth % 2 == 0 then 1 else 0
  let ok := s.backed a && !s.refusesWrite a &&
    !(regionOf a == .companion && s.fld F.thmLinkStatus_state == 0)
  if ok then
    writeAt a (wordBytes ((nth ws 0 + phase) :: ws.drop 1)) (record := true)
    spendAt (s.partOf c) a 32
  setF F.clrCqStatus_tail ((tail + 1) % (2 * depth)) c
  if irq then ctxIrq c

/-- A record is written, or held while the ring is disabled (R73). -/
def postRecord (c : Nat) (ws : List Nat) (irq : Bool) : M s0 Unit := do
  if (← cur).flag F.clrCqCfg_en c then putRecord c ws irq
  else modCtxs c fun x => { x with held := x.held ++ [(ws, irq)] }

/-- Held records written in order (R73). -/
def putHeld (c : Nat) : List (List Nat × Bool) → M s0 Unit
  | [] => pure ()
  | (ws, irq) :: rs => do putRecord c ws irq; putHeld c rs

/-- A record that stands for no packet: an ABORT, a fetch fault, a disabled context (R40, R317, R328, R495). -/
def postQueueRecord (c q status detail : Nat) : M s0 Unit := do
  let s ← cur
  let ws := recordWords c q (s.fld F.clrSqSeq_nextSeq c q) status 0 0 0 detail false false false false s.now
  postRecord c ws (s.flag F.clrCqCfg_irqOnErr c)

/-- A packet's record, where one is due, with its interrupt (R73, R75). -/
def postPktRecord (c : Nat) (p : Pkt) : M s0 Unit := do
  let s ← cur
  if p.status ≠ 0 ∨ p.complete then
    let ws := recordWords c p.q p.seq p.status p.op (p.f 1 63 32) p.chainOff p.detail p.parent.isSome p.skipped p.split
      p.recovered s.now
    postRecord c ws (p.irq || (p.status != 0 && s.flag F.clrCqCfg_irqOnErr c))

end Sys2Proof.Machine
end

