-- ==== Sys2Proof/Machine/Slots.lean ====
section
/-!
DEFINITION. Request slots (R285, R286), the serving ledger (R305), the cancel latch (R303), freeing a slot (R287) and closing
a step without delivery (R295).
-/
namespace Sys2Proof.Machine

variable {s0 : State}

/-- Word i of a slot (R286). -/
def State.slotW (s : State) (n i : Nat) : Nat := nth (s.slotsAt n).words i

/-- A field of a slot's word. -/
def State.slotF (s : State) (n i hi lo : Nat) : Nat := bits (s.slotW n i) hi lo

/-- A slot's state: 0 FREE, 1 OPENING, 2 OPEN, 3 ACTIVE, 4 FINISHED, 5 CANCELLED (R286). -/
def State.slotState (s : State) (n : Nat) : Nat := s.slotF n 16 2 0

/-- A slot's tenant, partition, DELIVERED and flags. -/
def State.slotTenant (s : State) (n : Nat) : Nat := s.slotF n 16 31 20
def State.slotPart (s : State) (n : Nat) : Nat := s.slotF n 16 19 16
def State.slotDelivered (s : State) (n : Nat) : Nat := s.slotF n 16 63 32
def State.slotFlag (s : State) (n i : Nat) : Bool := bit (s.slotW n 17) (8 + i)

/-- Words with one of 24 replaced. -/
def setWord (ws : List Nat) (i v : Nat) : List Nat :=
  (List.range 24).map fun j => if j = i then v else nth ws j

/-- The ledger's words of a slot (R305). -/
def State.ledgerWords (s : State) (n : Nat) : List Nat := [s.slotW n 16, s.slotW n 17, s.slotW n 20, s.slotW n 22]

/-- A slot's ledger entry is written as one 32-byte write; a refused write sets LEDGER_FAULT and is recorded (R305). The hub
is home agent for the ledger: a tracked granule is snooped first (R371, log entry 12). -/
def writeLedger (n : Nat) : M s0 Unit := do
  let s ← cur
  if s.flag F.srvLedgerBase_en then
    let a := s.fld F.srvLedgerBase_dpa * 2 ^ 18 + 32 * n
    if s.backed a && !s.refusesWrite a then
      if s.thm.filter.any (fun e => e.1 == a / 64) then
        emit (.snoop (a / 64))
        modThm fun t => { t with filter := t.filter.filter fun e => e.1 != a / 64 }
      writeAt a (wordBytes (s.ledgerWords n))
      spendAt (s.slotPart n) a 32
    else
      setFlag F.srvStatus_ledgerFault true
      errRecord { kind := 0x43, sev := 2, source := 4, status := 0x21, slot := n, part := s.slotPart n, addr := a }

/-- Words of a slot change. -/
def modSlotWords (n : Nat) (f : List Nat → List Nat) : M s0 Unit := modSlots n fun x => { x with words := f x.words }

/-- A change of a slot as one transition: the ledger entry is written once, after it, where one of its words has changed
(R296, R305). -/
def asOneChange (n : Nat) (m : M s0 Unit) : M s0 Unit := do
  let before := (← cur).ledgerWords n
  m
  if (← cur).ledgerWords n ≠ before then writeLedger n

/-- A field of a slot's word takes a value. -/
def setSlotF (n i hi lo v : Nat) : M s0 Unit :=
  modSlotWords n fun ws => setWord ws i (setBits (nth ws i) hi lo v)

/-- A slot's state changes. -/
def setSlotState (n v : Nat) : M s0 Unit := setSlotF n 16 2 0 v

/-- A slot's flag is set (R286). -/
def setSlotFlag (n i : Nat) : M s0 Unit := setSlotF n 17 (8 + i) (8 + i) 1

/-- An adapter's users change with a slot that uses it (R289). -/
def adapterUsers (n : Nat) (up : Bool) : M s0 Unit := do
  let s ← cur
  if s.slotF n 17 44 44 = 1 then
    modAdapters (s.slotF n 17 43 32) fun a => { a with users := if up then a.users + 1 else a.users - 1 }

/-- DETAIL of a cancel: DELIVERED, the slot, DROPPED (R304). -/
def State.cancelDetail (s : State) (n : Nat) : Nat :=
  s.slotDelivered n + n * 2 ^ 32 + b2n (s.slotFlag n 7) * 2 ^ 48

/-- The request becomes CANCELLED; the cancel is counted (R303). -/
def becomeCancelled (n : Nat) : M s0 Unit := do
  let s ← cur
  setSlotState n 5
  bump F.srvCancels_count 1 (s.slotPart n)

/-- A cancel is latched; false where the slot is FREE (R303). -/
def latchCancel (n : Nat) : M s0 Bool := do
  match (← cur).slotState n with
  | 0 => pure false
  | 1 | 3 => do asOneChange n (setSlotFlag n 2); pure true
  | 2 => do asOneChange n (becomeCancelled n); pure true
  | _ => pure true

/-- The slot of a row entry (R292). -/
def rowSlot (r : Nat) : Nat := bits r 12 0

/-- Open steps that name a slot among their idle entries leave it alone from its freeing on: what the slot then holds is
another request (R296). -/
def leaveIdle (n : Nat) : M s0 Unit := do
  each ((← cur).ctxs.map Prod.fst) fun c => modCtxs c fun x => { x with
    step := x.step.map fun st => { st with gone := st.gone ++ st.idle.filter fun i => rowSlot (nth st.rows i) == n } }

/-- A slot is freed: the adapter's count falls, the flags of its request are gone, the ledger shows FREE (R287). A REQ_CANCEL
that still waits for it finds it FREE (R303). -/
def freeSlot (n : Nat) : M s0 Unit := do
  adapterUsers n false
  each ((← cur).slotsAt n).cancels fun (c, id) => endPkt c id stBadParam (wordDetail 2 0)
  asOneChange n do
    setSlotF n 17 15 8 0
    setSlotState n 0
  leaveIdle n
  modSlots n fun x => { x with marked := false, closing := [], cancels := [] }

/-- Every REQ_CANCEL that waits for a slot ends with its status (R304). -/
def endCancels (n : Nat) : M s0 Unit := do
  let s ← cur
  let status := if s.slotState n == 5 then stCancelled else stOk
  each (s.slotsAt n).cancels fun (c, id) => endPkt c id status (s.cancelDetail n)
  modSlots n fun y => { y with cancels := [] }

/-- Packets that waited for a slot end: each REQ_CANCEL with its status, then the first REQ_CLOSE, which frees the slot; another
finds it FREE (R287, R304). -/
def settleSlot (n : Nat) : M s0 Unit := do
  endCancels n
  let s ← cur
  match (s.slotsAt n).closing with
  | (c, id) :: more =>
    endPkt c id stOk (s.slotDelivered n)
    each more fun (d, k) => endPkt d k stBadParam (wordDetail 2 0)
    freeSlot n
  | [] => pure ()

/-- The slots of a step's entries but the idle ones. -/
def Step.liveSlots (st : Step) : List Nat :=
  ((List.range st.rows.length).filter fun i => !st.idle.contains i).map fun i => rowSlot (nth st.rows i)

/-- An entry's slot leaves a step that ends without delivery (R295). -/
def leaveStep (n : Nat) : M s0 Unit := do
  let s ← cur
  if s.slotState n = 3 then
    asOneChange n (if s.slotFlag n 2 then becomeCancelled n else setSlotState n 2)
    settleSlot n

/-- An open step closes without delivering its tokens (R40, R295). -/
def closeStep (c : Nat) : M s0 Unit := do
  match ((← cur).ctxsAt c).step with
  | none => pure ()
  | some st =>
    each st.liveSlots leaveStep
    modCtxs c fun x => { x with step := none, enc := {}, pkts := x.pkts.map fun p => { p with inStep := false } }
    refreshCtx c

end Sys2Proof.Machine
end

