-- ==== Sys2Proof/Machine/Queues.lean ====
section
/-!
DEFINITION. The commands that come to a context's queues through its registers (R36 to R41, R67, R74, R494) and the
completion of a packet (R41, R58, R73, R458).
-/
namespace Sys2Proof.Machine

variable {s0 : State}

/-- A context's status follows its state. -/
def refresh (c : Nat) : M s0 Unit := do
  refreshCtx c
  refreshState c

/-- Queues of the context look again at the packet they wait with (R50). -/
def unstick (c : Nat) : M s0 Unit :=
  each (List.range 4) fun q => modQue (qKey c q) fun x => { x with stuck := false }

/-- Queues of every context look again: one may wait for a group, for room or for the serving engine. -/
def unstickAll : M s0 Unit := do
  each ((← cur).ctxs.map Prod.fst) unstick

/-- An operation run to its end or its stop, from an action. -/
def runA {α : Type} (m : A s0 α) : M s0 (Except Stop α × Log) := m.run.run {}

/-- Bytes as a caller's look-ahead finds them; none where the read would fail. -/
def peek (c va n : Nat) : M s0 (Option (List Byte)) := do
  let s ← cur
  let (r, _) ← runA (rd (s.acc c) va n)
  pure (match r with | .ok bs => some bs | .error _ => none)

/-- The device virtual address of ring slot k (R33). -/
def State.slotVA (s : State) (c q k : Nat) : Nat :=
  s.fld F.clrSqBase_base c q * 4096 + 64 * (k % s.sqDepth c q)

/-! ### Doorbell, abort, resume -/

/-- A TAIL is accepted, or refused with DB_OVERRUN (R37). -/
def doorbell (c q tail : Nat) : M s0 Unit := do
  let s ← cur
  let m := 2 * s.sqDepth c q
  let t := tail % m
  if (t + (m - s.fld F.clrSqStatus_head c q % m)) % m ≤ s.sqDepth c q then setF F.clrSqDb_tail t c q
  else setFlag F.clrSqStatus_dbOverrun true c q
  modQue (qKey c q) fun x => { x with stuck := false }
  refresh c

/-- The words of packets from a list of slot addresses hold the STEP_END of the open step (R40), as it would be after
substitution (R45). The list holds the slots not yet issued, in order. -/
def holdsStepEnd (c stepId : Nat) : List Nat → M s0 Bool
  | [] => pure false
  | va :: vas => do
    let b ← peek c va 64
    let s ← cur
    let here := match b with
      | some bs =>
        let w := wordAt bs 2
        let w2 := if bit (wordAt bs 1) 0 then (s.scalar c (w % 64) + (w - w % 64)) % 2 ^ 64 else w
        bits (wordAt bs 0) 7 0 == 0x61 && bits w2 31 0 == stepId
      | none => false
    let rest ← holdsStepEnd c stepId vas
    pure (here || rest)

/-- The slots of the queue not yet issued, in the ring and in its chains. -/
def State.unissued (s : State) (c q : Nat) : List Nat :=
  (List.range (s.sqUsed c q)).map (fun i => s.slotVA c q (s.fld F.clrSqStatus_head c q + i)) ++
  (s.queAt (qKey c q)).chain.flatMap fun f => (List.range (f.len - f.pos)).map fun i => f.base + 64 * (f.pos + i)

/-- A CALL, BRANCH or RETURN that has issued and not acted ends with its queue's ABORT: a CALL's chain is discarded whole, a
ring BRANCH has skipped nothing; in a chain that is discarded a BRANCH is only checked, and a RETURN has nothing more to do
(R40, log entry 62). -/
def abortSteering (c : Nat) (chain : List Frame) (p : Pkt) : M s0 Unit :=
  if p.st = .issued then
    match p.op with
    | 0x05 => endPkt c p.id stCancelled (p.f 3 12 0)
    | 0x06 => endPkt c p.id stOk 0
    | 0x04 =>
      let ofs := signed 32 (p.w 2)
      match if p.parent.isSome then chain else [] with
      | f :: _ =>
        let target := (p.chainOff : Int) + ofs
        if 0 ≤ target ∧ f.starts.contains target.toNat then endPkt c p.id stOk 0 else endPkt c p.id stBadParam 2
      | [] =>
        if ofs ≤ 0 then endPkt c p.id stBadParam 2
        else if ofs = 1 then endPkt c p.id stOk 0
        else endPkt c p.id stCancelled 0
    | _ => pure ()
  else pure ()

/-- ABORT (R40). DETAIL of the record of a CALL whose chain it discards is the chain's slots discarded (DEDUCED, R72, log
entry 62). -/
def abortQueue (c q : Nat) : M s0 Unit := do
  let s ← cur
  let x := s.queAt (qKey c q)
  let used := s.sqUsed c q
  let closes ← match (s.ctxsAt c).step with
    | some st => holdsStepEnd c st.stepId (s.unissued c q)
    | none => pure false
  setF F.clrSqStatus_head (s.fld F.clrSqDb_tail c q) c q
  postQueueRecord c q stCancelled used
  each ((s.ctxsAt c).pkts.filter fun p => p.q == q) (abortSteering c x.chain)
  each x.chain fun f => endPkt c f.call stCancelled (f.len - f.pos)
  each (x.skip.toList ++ x.laterSkip.toList) fun k => endPkt c k.branch stCancelled k.done
  modQue (qKey c q) fun y => { y with
    halt := true, chain := [], skip := none, laterSkip := none, fault := none, failAs := none, stuck := false
    paid := [], served := [], waits := [], promoted := [] }
  modSched fun y => { y with faults := y.faults.filter fun f =>
    !(f.ctx == c && f.q == q && (f.pkt.isNone || x.chain.any fun g => f.pkt == some g.call)) }
  modCtxs c fun y => { y with enc := { y.enc with replay := y.enc.replay.filter fun e => e.1 != q } }
  if closes then closeStep c
  refresh c

/-- RESUME (R41, R494). -/
def resumeQueue (c q : Nat) : M s0 Unit := do
  modQue (qKey c q) fun x => { x with halt := false, errStop := false, stuck := false }
  refresh c

/-- `SQ_DOORBELL` (R37). -/
def execSqDoorbell (c q tail : Nat) (s : State) : Outcome :=
  M.go s (atReg ⟨.clrSqDb, c, q, 0⟩ (doorbell c q tail))

/-- `SQ_ABORT` (R40). -/
def execSqAbort (c q : Nat) (s : State) : Outcome :=
  M.go s (atReg ⟨.clrSqCtrl, c, q, 0⟩ (abortQueue c q))

/-- `SQ_RESUME` (R41). -/
def execSqResume (c q : Nat) (s : State) : Outcome :=
  M.go s (atReg ⟨.clrSqCtrl, c, q, 0⟩ (resumeQueue c q))

/-! ### The completion ring -/

/-- The DPAs of the ring's pages, 4 KiB each, through the partition's root with W at 1 and IMM at 0; none where one fails
(R74). -/
def ringPages (ac : Acc) : List Nat → M s0 (Option (List Nat))
  | [] => pure (some [])
  | va :: vas => do
    let r ← walk ac va true
    let rest ← ringPages ac vas
    pure (match r, rest with
      | .ok a, some as => some (a :: as)
      | _, _ => none)

/-- CLR_CQ_CFG.EN from 0 to 1 (R74): the pages are recorded and held records written, or CQ_XLATE_ERR is set. -/
def enableRing (c : Nat) : M s0 Unit := do
  let s ← cur
  if s.flag F.clrCqCfg_en c = false then
    let n := ceilDiv (32 * s.cqDepth c) 4096
    let pages ← ringPages (s.acc c) ((List.range n).map fun i => s.fld F.clrCqBase_base c * 4096 + 4096 * i)
    match pages with
    | none => setFlag F.clrCtxStatus_cqXlateErr true c
    | some ps =>
      setFlag F.clrCqCfg_en true c
      modCtxs c fun x => { x with cqPages := ps, held := [] }
      putHeld c (s.ctxsAt c).held
      unstick c
    refresh c

/-- `CQ_ENABLE` (R74). -/
def execCqEnable (c : Nat) (s : State) : Outcome := M.go s (atReg ⟨.clrCqCfg, c, 0, 0⟩ (enableRing c))

/-! ### Events -/

/-- The outcome of a WAIT_VALUE, EVENT_WAIT or TIMESTAMP is logged for a rerun (R460). -/
def logOutcome (c : Nat) (p : Pkt) (v : Nat) : M s0 Unit :=
  if p.inStep then
    modCtxs c fun x =>
      if x.enc.outs.any (fun o => o.1 == p.q && o.2.1 == p.ord) then x
      else { x with enc := { x.enc with outs := x.enc.outs ++ [(p.q, p.ord, v)] } }
  else pure ()

/-- A wait ends: the predicate and DETAIL (R59, R67, R72). The predicate's number stands in the given word. -/
def endWait (c : Nat) (p : Pkt) (pd : Nat) (sat : Bool) : M s0 Unit := do
  setPred c pd sat
  logOutcome c p (b2n sat)
  endPkt c p.id stOk (b2n sat)

/-- Every waiting EVENT_WAIT on event e compares again (R67). -/
def eventChanged (c e : Nat) : M s0 Unit := do
  let s ← cur
  each (s.ctxsAt c).pkts fun p =>
    if p.op == 0x83 && p.st == .waiting && p.f 3 4 0 == e && decide (p.w 4 ≤ s.fld F.clrEvent_count c e) then
      endWait c p (p.f 5 2 0) true
    else pure ()
  refreshState c

/-- An event counter takes a value by a companion write (R35, R67). -/
def writeEvent (c e v : Nat) : M s0 Unit := do
  setF F.clrEvent_count v c e
  eventChanged c e

/-- `EVENT_COUNTER_WRITE` (R67). -/
def execEventCounterWrite (c e : Nat) (v : W64) (s : State) : Outcome :=
  M.go s (atReg ⟨.clrEvent, c, e, 0⟩ (writeEvent c e v.toNat))

/-! ### Completion -/

/-- The packet's outcome sends its step to encore (R458). -/
def sendsToEncore (x : Ctx) (p : Pkt) : Bool :=
  p.inStep && x.step.isSome && p.op != 0x61 &&
    (p.status == stPoison || p.status == stEncoreExhausted || p.status == stInternal)

/-- A failure exhausts the step's encores: as many have failed as may run, the step is not encorable, or the run before met
the same poison (R462). -/
def State.encoreOver (s : State) (c : Nat) (f : StepFail) : Bool :=
  let e := (s.ctxsAt c).enc
  e.lost || decide (s.fld F.hbEncoreCfg_max ≤ e.count) || (f.status == stPoison && e.lastDpas.contains f.dpa)

/-- The error record of a step's failure (R458, R471): the step goes to encore, or its encores are exhausted. -/
def stepFailRec (s : State) (c kind sev : Nat) (f : StepFail) : ErrRec :=
  { kind := kind, sev := sev, source := 4, status := f.status, part := s.partOf c, ctx := c,
    step := ((s.ctxsAt c).step.map Step.stepId).getD 0, addr := f.dpa, d5 := f.seqIdx, d6 := f.op }

/-- A failure of the open step (R458, R459 beats 1 and 2, R462). The first sends the step to encore and later ones join it;
the one that exhausts the step's encores is recorded and counted as such. A packet's failure is recorded, in a step that is
already exhausted too; a reset caller's names no packet. -/
def stepFails (c : Nat) (f : StepFail) (packet : Bool) : M s0 Unit := do
  let s ← cur
  let e := (s.ctxsAt c).enc
  if f.status = stPoison then modCtxs c fun x => { x with enc := { x.enc with dpas := f.dpa :: x.enc.dpas } }
  if e.dead.isNone && !(e.fail.any StepFail.spent) && s.encoreOver c f then
    bump F.hbEncoreExhausted_count 1
    errRecord (stepFailRec s c 0x41 2 f)
    modCtxs c fun x => { x with enc := { x.enc with fail := some { f with spent := true } } }
  else
    if packet then errRecord (stepFailRec s c 0x40 1 f)
    modCtxs c fun x => { x with enc := { x.enc with
      fail := if x.enc.dead.isSome then none else x.enc.fail.orElse fun _ => some f } }

/-- A failure that sends the step to encore (R458). -/
def toEncore (c : Nat) (p : Pkt) : M s0 Unit :=
  stepFails c { status := p.status, dpa := p.dpa, seqIdx := p.seqIdx, seqCount := p.seqCount, op := p.op } true

/-- A packet of a rerun that an earlier run had issued needed the encore (R72). -/
def Ctx.repeats (x : Ctx) (p : Pkt) : Bool := p.inStep && x.enc.rerun && decide (p.ord < nth x.enc.seen p.q)

/-- The packet leaves the caller: its record where one is due, its queue's stop (R41, R73, R458, R460). A packet of a rerun
whose record an earlier run posted stops its queue no second time. -/
def completePkt (c : Nat) (p : Pkt) : M s0 Unit := do
  let s ← cur
  modCtxs c fun x => { x with pkts := x.pkts.filter fun y => y.id != p.id }
  if sendsToEncore (s.ctxsAt c) p then toEncore c p
  else
    let enc := (s.ctxsAt c).enc
    let again := p.inStep && enc.rerun && enc.posted.contains (p.q, p.ord)
    if !again then
      postPktRecord c { p with recovered := p.recovered || (s.ctxsAt c).repeats p }
      if p.inStep && (p.status != 0 || p.complete) then modCtxs c fun x => { x with enc := { x.enc with posted := x.enc.posted ++ [(p.q, p.ord)] } }
    if p.status ≠ 0 ∧ again = false ∧ s.flag F.clrSqCfg_stopOnErr c p.q then
      modQue (qKey c p.q) fun x => { x with errStop := true }
  if p.op = 0x52 then unstickAll else unstick c
  refresh c

/-- `PACKET_COMPLETION` (R73): once every part has ended, a CALL once every packet under it has completed (R58). -/
def execPacketCompletion (c id : Nat) (s : State) : Outcome :=
  M.go s (do
    match s.pkt c id with
    | some p =>
      if p.st == .done && s.callerUp c && (s.ctxsAt c).pkts.all (fun y => y.parent != some id) then completePkt c p else pure ()
    | none => pure ())

end Sys2Proof.Machine
end

