-- ==== Sys2Proof/Machine/Operands.lean ====
section
/-!
DEFINITION. Tensor operands (chapter 05): the descriptor's fields and form (R138 to R142), the elements of a view in
enumeration order (R140), extents, injectivity and overlap (R141, R160, R161), reading a tensor and the writes that store
one.
-/
namespace Sys2Proof.Machine

variable {s0 : State}

/-! ### Descriptors -/

/-- A tensor descriptor (R138). -/
structure Desc where
  rank : Nat
  fmt : Nat
  base : Nat
  scaleOfs : Int
  sizes : List Nat
  strides : List Int
  deriving DecidableEq, Repr

/-- A descriptor's fields from its eight words (R138). -/
def Desc.ofWords (ws : List Nat) : Desc :=
  let r := bits (nth ws 0) 58 56
  { rank := r, fmt := bits (nth ws 0) 55 52, base := bits (nth ws 0) 51 0, scaleOfs := signed 40 (nth ws 1)
    sizes := (List.range r).map fun d => bits (nth ws (2 + d)) 63 40
    strides := (List.range r).map fun d => signed 40 (nth ws (2 + d)) }

/-- Size of dimension d; 1 beyond the rank. -/
def Desc.size (t : Desc) (d : Nat) : Nat := t.sizes.getD d 1

/-- Stride of dimension d; 0 beyond the rank. -/
def Desc.stride (t : Desc) (d : Nat) : Int := t.strides.getD d 0

/-- An MX format: 0x5, 0x6, 0x7 (R49). -/
def isMx (fmt : Nat) : Bool := fmt == 5 || fmt == 6 || fmt == 7

/-- Bits of an element (R140); 0 for the page formats. -/
def elemBits (fmt : Nat) : Nat :=
  match fmt with
  | 0 | 9 => 32
  | 1 | 2 => 16
  | 3 | 4 | 5 | 6 | 8 => 8
  | 7 => 4
  | 12 => 64
  | _ => 0

/-- Bytes of an element, 1 for a 4-bit one. -/
def elemBytes (fmt : Nat) : Nat := if fmt = 7 then 1 else elemBits fmt / 8

/-- DETAIL of a class check that fails on an operand: the packet word, the lowest failing bit or 0xFF, the descriptor word,
and whether the failure lies inside a descriptor (R162). -/
def detailOf (word bit dword : Nat) (inside : Bool) : Nat :=
  word + bit * 2 ^ 8 + dword * 2 ^ 16 + b2n inside * 2 ^ 19

/-- The first descriptor word with a bit outside a mask, with its lowest such bit. -/
def firstReserved (ws : List Nat) : List (Nat × Nat) → Option (Nat × Nat)
  | [] => none
  | (i, mask) :: rest =>
    let bad := nth ws i &&& (mask ^^^ (2 ^ 64 - 1))
    if bad ≠ 0 then some (i, lowestBit 64 bad) else firstReserved ws rest

/-- What is wrong with a descriptor's form, if anything: descriptor word and lowest failing bit, 0xFF for none (R139, R142). -/
def Desc.flaw (ws : List Nat) : Option (Nat × Nat) :=
  let t := Desc.ofWords ws
  if t.rank = 0 ∨ 6 < t.rank then some (0, 56)
  else match firstReserved ws ((0, 2 ^ 59 - 1) :: (1, 2 ^ 40 - 1) ::
      (List.range 6).map fun d => (2 + d, if d < t.rank then 2 ^ 64 - 1 else 0)) with
    | some x => some x
    | none =>
      if elemBits t.fmt ≥ 8 ∧ t.base % elemBytes t.fmt ≠ 0 then some (0, lowestBit 64 (t.base % elemBytes t.fmt))
      else if isMx t.fmt = false ∧ bits (nth ws 1) 39 0 ≠ 0 then some (1, lowestBit 64 (nth ws 1))
      else if isMx t.fmt then
        if t.stride 0 ≠ 1 then some (2, lowestBit 40 (bits (nth ws 2) 39 0 ^^^ 1))
        else if t.size 0 % 32 ≠ 0 then some (2, 40 + lowestBit 5 (t.size 0))
        else match (List.range t.rank).find? (fun d => d ≠ 0 && t.stride d % 32 != 0) with
          | some d => some (2 + d, lowestBit 5 (nth ws (2 + d)))
          | none => none
      else none

/-- Number of elements of a view. -/
def Desc.count (t : Desc) : Nat := t.sizes.foldl (· * ·) 1

/-- A view with no element (R139). -/
def Desc.empty (t : Desc) : Bool := t.count == 0

/-- The index tuple of enumeration position p: dimension 0 varies fastest (R140). -/
def unrank : List Nat → Nat → List Nat
  | [], _ => []
  | n :: ns, p => p % n :: unrank ns (p / n)

/-- The element offset of an index tuple (R140). -/
def Desc.offset (t : Desc) (idx : List Nat) : Int :=
  (List.zipWith (fun (i : Nat) (st : Int) => (i : Int) * st) idx t.strides).foldl (· + ·) 0

/-- The element offset of an enumeration position. -/
def Desc.offsetAt (t : Desc) (p : Nat) : Int := t.offset (unrank t.sizes p)

/-- The address of the byte that holds element offset l (R140). -/
def Desc.addr (t : Desc) (l : Int) : Nat :=
  ((t.base : Int) + (if t.fmt = 7 then l / 2 else (elemBytes t.fmt : Int) * l)).toNat

/-- The half of its byte a 4-bit element fills: high when its offset is odd (R140). -/
def Desc.half (t : Desc) (l : Int) : Option Bool := if t.fmt = 7 then some (l % 2 != 0) else none

/-- The address of the scale of the block that holds offset l (R142). -/
def Desc.scaleAddr (t : Desc) (l : Int) : Nat := ((t.base : Int) + t.scaleOfs + l / 32).toNat

/-- Smallest and largest element offsets (R141). -/
def Desc.lmin (t : Desc) : Int :=
  (List.zipWith (fun (n : Nat) (st : Int) => min 0 (((n : Int) - 1) * st)) t.sizes t.strides).foldl (· + ·) 0
def Desc.lmax (t : Desc) : Int :=
  (List.zipWith (fun (n : Nat) (st : Int) => max 0 (((n : Int) - 1) * st)) t.sizes t.strides).foldl (· + ·) 0

/-- The intervals of a view's byte extent, ends excluded: elements, and the scale plane of an MX view (R141). -/
def Desc.extents (t : Desc) : List (Int × Int) :=
  if t.empty then []
  else
    let b : Int := t.base
    let el := if t.fmt = 7 then (b + t.lmin / 2, b + t.lmax / 2 + 1)
      else (b + (elemBytes t.fmt : Int) * t.lmin, b + (elemBytes t.fmt : Int) * (t.lmax + 1))
    if isMx t.fmt then [el, (b + t.scaleOfs + t.lmin / 32, b + t.scaleOfs + t.lmax / 32 + 1)] else [el]

/-- Every part of the extent lies within [0, 2^52) (R141). -/
def Desc.inBounds (t : Desc) : Bool := t.extents.all fun (lo, hi) => decide (0 ≤ lo) && decide (hi ≤ 2 ^ 52)

/-- The 64 KiB pages of a view's extents. -/
def Desc.pages (t : Desc) : List Nat :=
  t.extents.flatMap fun (lo, hi) => (pagePieces lo.toNat (hi - lo).toNat).map fun (va, _, _) => va

/-- Two intervals share a byte. -/
def meets (x y : Int × Int) : Bool := decide (x.1 < y.2) && decide (y.1 < x.2)

/-- Two views' extents overlap (R161). -/
def Desc.overlaps (t u : Desc) : Bool := t.extents.any fun x => u.extents.any (meets x)

/-- An entry put into a list sorted by stride. -/
def insertStride (x : Nat × Int) : List (Nat × Int) → List (Nat × Int)
  | [] => [x]
  | y :: ys => if x.2 ≤ y.2 then x :: y :: ys else y :: insertStride x ys

/-- The test's last loop: each stride exceeds what the dimensions before it reach (R160). -/
def reachTest : Int → List (Nat × Int) → Bool
  | _, [] => true
  | reach, (n, st) :: rest => decide (reach < st) && reachTest (reach + ((n : Int) - 1) * st) rest

/-- The injectivity test of a destination (R160). -/
def Desc.injective (t : Desc) : Bool :=
  let dims := (t.sizes.zip t.strides).filter fun (n, _) => n > 1
  dims.all (fun (_, st) => decide (0 < st)) && reachTest 0 (dims.foldr insertStride [])

/-! ### A packet's descriptors -/

/-- The words captured at validation for a word of the packet (R143). -/
def Pkt.captured (p : Pkt) (i : Nat) : List Nat := ((p.descs.find? fun e => e.1 == i).map Prod.snd).getD []

/-- The descriptor captured for a word of the packet. -/
def Pkt.desc (p : Pkt) (i : Nat) : Desc := Desc.ofWords (p.captured i)

/-! ### Class checks (R162) -/

/-- A class check's finding: status and DETAIL. -/
abbrev Flaw := Option (Nat × Nat)

/-- A check inside an operation or a validation. -/
def check (f : Flaw) : A s0 Unit :=
  match f with
  | some (st, d) => throw (.fail st d)
  | none => pure ()

/-- The packet's word by which a captured descriptor is named in DETAIL: a descriptor of a pair record or of an expert table by
the word that names the record or the table (log entry 23). -/
def Pkt.wordOf (p : Pkt) (w : Nat) : Nat :=
  if w < 30 then w
  else match p.op with
    | 0x21 => if w < 40 then 3 else 4
    | 0x41 => 5
    | _ => w

/-- A failing field of a descriptor: packet word, lowest bit, descriptor word. -/
def flawAt (st word b dword : Nat) : Flaw := some (st, detailOf word b dword true)

/-- Each descriptor well formed, in the order of the packet's words (R139, R142). -/
def formFlaw (p : Pkt) (ws : List Nat) : Flaw :=
  ws.findSome? fun w => (Desc.flaw (p.captured w)).bind fun (dw, b) => flawAt stBadParam (p.wordOf w) b dw

/-- A descriptor's FMT is not allowed. -/
def fmtFlaw (p : Pkt) (w : Nat) (ok : Nat → Bool) : Flaw :=
  if ok (p.desc w).fmt then none else flawAt stFormat (p.wordOf w) 52 0

/-- Each extent lies within 2^52 (R141). -/
def boundsFlaw (p : Pkt) (ws : List Nat) : Flaw :=
  ws.findSome? fun w => if (p.desc w).inBounds then none else flawAt stBounds (p.wordOf w) 0xFF 0

/-- A destination is injective (R160). -/
def injFlaw (p : Pkt) (w : Nat) : Flaw := if (p.desc w).injective then none else flawAt stAlias w 0xFF 0

/-- A view's elements meet its own scale plane (R161). -/
def Desc.meetsScales (t : Desc) : Bool :=
  match t.extents with
  | [x, y] => meets x y
  | _ => false

/-- A destination's extent meets no other operand's, and no scale plane, its own among them (R161). -/
def overlapFlaw (p : Pkt) (w : Nat) (others : List Desc) : Flaw :=
  if (p.desc w).meetsScales || others.any (p.desc w).overlaps then some (stAlias, detailOf w 0xFF 0 false) else none

/-- A descriptor's RANK is not n. -/
def rankFlaw (p : Pkt) (w n : Nat) : Flaw := if (p.desc w).rank = n then none else flawAt stBadParam (p.wordOf w) 56 0

/-- A descriptor's SIZE_d is not n. -/
def sizeFlaw (p : Pkt) (w d n : Nat) : Flaw := if (p.desc w).size d = n then none else flawAt stBadParam (p.wordOf w) 40 (2 + d)

/-- The first finding of a list of checks. -/
def firstFlaw (fs : List Flaw) : Flaw := fs.findSome? id

/-! ### Reading and writing tensors -/

/-- The raw code of the element at offset l. -/
def rdElem (ac : Acc) (t : Desc) (l : Int) : A s0 Nat := do
  let bs ← rd ac (t.addr l) (elemBytes t.fmt)
  let v := ofBytes bs
  pure (match t.half l with
    | none => v
    | some hi => if hi then v / 16 else v % 16)

/-- The scale code of the block that holds offset l; 127 (one) for a format without scales. -/
def rdScale (ac : Acc) (t : Desc) (l : Int) : A s0 Nat := do
  if isMx t.fmt then
    let bs ← rd ac (t.scaleAddr l) 1
    pure (ofBytes bs)
  else pure 127

/-- Raw codes with scales at a list of offsets. -/
def rdElems (ac : Acc) (t : Desc) : List Int → A s0 (List (Nat × Nat))
  | [] => pure []
  | l :: ls => do
    let v ← rdElem ac t l
    let sc ← rdScale ac t l
    let rest ← rdElems ac t ls
    pure ((v, sc) :: rest)

/-- The raw code of the destination element at offset l as it was. -/
def rdDestElem (ac : Acc) (t : Desc) (l : Int) : A s0 Nat := do
  let v := ofBytes (← rdDest ac (t.addr l) (elemBytes t.fmt))
  pure (match t.half l with
    | none => v
    | some hi => if hi then v / 16 else v % 16)

/-- The offsets of a view in enumeration order. -/
def Desc.offsets (t : Desc) : List Int := (List.range t.count).map t.offsetAt

/-- A whole tensor: raw codes with scales, in enumeration order. -/
def rdTensor (ac : Acc) (t : Desc) : A s0 (List (Nat × Nat)) := rdElems ac t t.offsets

/-- The write of one element's raw code. -/
def Desc.store (t : Desc) (l : Int) (v : Nat) : Wr :=
  { va := t.addr l, bs := toBytes (elemBytes t.fmt) v, half := t.half l }

/-- The write of the scale of the block that holds offset l. -/
def Desc.storeScale (t : Desc) (l : Int) (v : Nat) : Wr := { va := t.scaleAddr l, bs := toBytes 1 v }

/-- The writes of a tensor's raw codes in enumeration order; the scales, one per block, for MX views. -/
def Desc.storeAll (t : Desc) (vs : List Nat) (scales : List Nat) : List Wr :=
  (t.offsets.zip vs).map (fun (l, v) => t.store l v) ++
  (if isMx t.fmt then
    ((List.range (t.count / 32)).map fun b => t.storeScale (t.offsetAt (32 * b)) (nth scales b)) else [])

end Sys2Proof.Machine
end

