-- ==== Sys2Proof/Machine/Exec.lean ====
section
/-!
DEFINITION. Running a packet: the regulators' tokens (R178, R180), faults under the partition's fault model (R146, R330,
R331), poison and internal failures (R183, R366), and what an abandoned packet leaves in its destinations (R146, R317).
-/
namespace Sys2Proof.Machine

variable {s0 : State}

/-! ### Tokens -/

/-- BORROW in force of a partition on a target (R179). -/
def State.borrows (s : State) (t p : Nat) : Bool :=
  (if t < 12 then s.inForce F.stkReg_borrow t p else if t = 12 then s.inForce F.dtReg_borrow p
    else s.inForce F.fabReg_borrow p) != 0

/-- The packets of a partition that wait for a target's tokens: context and packet. -/
def State.waitersOn (s : State) (t part : Nat) : List (Nat × Pkt) :=
  s.ctxs.flatMap fun e => if s.partOf e.1 = part then
    (e.2.pkts.filter fun p => p.st == .issued && p.waits.any fun x => x.1 == t).map fun p => (e.1, p) else []

/-- The step of R177 at which a packet's requests to a target are served while they have tokens: the first for LC and for a
promoted request, else the second. -/
def Pkt.step177 (p : Pkt) (t : Nat) : Nat := if p.latency || p.promoted.contains t then 1 else 2

/-- Since when a packet's requests to a target wait; now where they do not. -/
def Pkt.waitsSince (p : Pkt) (t now : Nat) : Nat := ((p.waits.find? fun e => e.1 == t).map Prod.snd).getD now

/-- The callers' reads of a partition that wait for a target's tokens: the queue's key and the queue. -/
def State.queuesOn (s : State) (t part : Nat) : List (Nat × Queue) :=
  s.que.filter fun e => s.partOf (e.1 / 4) == part && e.2.waits.any fun x => x.1 == t

/-- The same for a caller's reads, which are BULK. -/
def Queue.step177 (x : Queue) (t : Nat) : Nat := if x.promoted.contains t then 1 else 2
def Queue.waitsSince (x : Queue) (t now : Nat) : Nat := ((x.waits.find? fun e => e.1 == t).map Prod.snd).getD now

/-- Another request of the partition is served before one at a step that has waited since a time: at an earlier step, or at
the same step and older (R177). -/
def State.behind (s : State) (step since part t : Nat) : Bool :=
  let before (st si : Nat) : Bool := decide (st < step) || (st == step && decide (si < since))
  (s.waitersOn t part).any (fun (_, w) => before (w.step177 t) (w.waitsSince t s.now)) ||
    (s.queuesOn t part).any fun (_, x) => before (x.step177 t) (x.waitsSince t s.now)

/-- The packet's requests to a target come after another of the partition. -/
def State.pktBehind (s : State) (p : Pkt) (part t : Nat) : Bool := s.behind (p.step177 t) (p.waitsSince t s.now) part t

/-- The requests of n granules can be served now: paid already, or by tokens, in the order of R177, or by BORROW (step 4,
R178). A promoted request is served as LC (R204). -/
def State.affordable (s : State) (p : Pkt) (part t n : Nat) : Bool :=
  decide (n ≤ Tab.get 0 p.paid t) || s.borrows t part ||
    (decide (n ≤ Tab.get 0 p.paid t + s.bucket t part) && !s.pktBehind p part t)

/-- A packet's granules served so far are counted and their tokens taken, each once (R178, R180). -/
def chargeTokens (c : Nat) (p : Pkt) (part : Nat) (use : Nat × Nat) : M s0 Unit := do
  let (t, n) := use
  takeTokens t part (n - Tab.get 0 p.paid t)
  countGrans t part (n - Tab.get 0 p.served t)
  modPkt c p.id fun y => { y with
    paid := Tab.put 0 y.paid t (max n (Tab.get 0 y.paid t)), served := Tab.put 0 y.served t (max n (Tab.get 0 y.served t))
    waits := y.waits.filter fun e => e.1 != t }

/-- A request of the partition waits for a target's tokens in this microsecond (R180). -/
def noteThrottled (t part : Nat) : M s0 Unit :=
  modSched fun x => { x with throttled := if x.throttled.contains (bKey t part) then x.throttled else x.throttled ++ [bKey t part] }

/-- A packet that waits for tokens pays what its buckets hold, unless another request comes before it (R177, R178). -/
def payPart (c : Nat) (p : Pkt) (part : Nat) (use : Nat × Nat) : M s0 Unit := do
  let (t, n) := use
  let s ← cur
  if !s.affordable p part t n then
    let b := if s.pktBehind p part t then 0 else min (s.bucket t part) (n - Tab.get 0 p.paid t)
    takeTokens t part b
    noteThrottled t part
    modPkt c p.id fun y => { y with
      paid := Tab.put 0 y.paid t (Tab.get 0 y.paid t + b)
      waits := if y.waits.any (fun e => e.1 == t) then y.waits else y.waits ++ [(t, s.now)] }

/-! ### The caller's own reads (R176) -/

/-- The reads for a queue's next packet can be paid. -/
def State.queuePays (s : State) (c q : Nat) (l : Log) : Bool :=
  let x := s.queAt (qKey c q)
  l.used.all fun (t, n) => decide (n ≤ Tab.get 0 x.paid t) || s.borrows t (s.partOf c) ||
    (decide (n ≤ Tab.get 0 x.paid t + s.bucket t (s.partOf c)) && !s.behind (x.step177 t) (x.waitsSince t s.now) (s.partOf c) t)

/-- The reads for a queue's next packet are counted and their tokens taken, each once. -/
def queueCharge (c q : Nat) (use : Nat × Nat) : M s0 Unit := do
  let (t, n) := use
  let s ← cur
  let x := s.queAt (qKey c q)
  takeTokens t (s.partOf c) (n - Tab.get 0 x.paid t)
  countGrans t (s.partOf c) (n - Tab.get 0 x.served t)
  modQue (qKey c q) fun y => { y with
    paid := Tab.put 0 y.paid t (max n (Tab.get 0 y.paid t)), served := Tab.put 0 y.served t (max n (Tab.get 0 y.served t))
    waits := y.waits.filter fun e => e.1 != t }

/-- The caller waits for tokens and pays what the buckets hold. -/
def queueWaits (c q : Nat) (use : Nat × Nat) : M s0 Unit := do
  let (t, n) := use
  let s ← cur
  let x := s.queAt (qKey c q)
  let b := if s.behind (x.step177 t) (x.waitsSince t s.now) (s.partOf c) t then 0
    else min (s.bucket t (s.partOf c)) (n - Tab.get 0 x.paid t)
  if !s.borrows t (s.partOf c) && decide (Tab.get 0 x.paid t + b < n) then
    takeTokens t (s.partOf c) b
    noteThrottled t (s.partOf c)
    modQue (qKey c q) fun y => { y with
      paid := Tab.put 0 y.paid t (Tab.get 0 y.paid t + b), waits := if y.waits.any (fun e => e.1 == t) then y.waits else y.waits ++ [(t, s.now)] }

/-- An action kept only where its answer is good; otherwise the state stays as it was. -/
def attempt {α : Type} (m : M s0 α) (good : α → Bool) : M s0 (α × Bool) := fun t =>
  let r := m t
  if good r.1 then ((r.1, true), r.2) else ((r.1, false), t)

/-! ### Faults -/

/-- The fault ring's depth and the entries not yet consumed (R331, R333). -/
def State.faultDepth (s : State) : Nat := 2 ^ s.fld F.schFaultCfg_depthLog2
def State.faultUsed (s : State) : Nat := wrap 32 ((s.fld F.schFaultPtr_tail : Int) - (s.fld F.schFaultPtr_head : Int))

/-- The words of a fault's entry (R331). -/
def OpenFault.words (f : OpenFault) (phase : Nat) : List Nat :=
  [f.fid % 2 ^ 32 * 2 ^ 32 + f.status % 256 * 2 ^ 24 + f.ctx % 256 * 2 ^ 16 + f.part % 16 * 2 ^ 12
      + f.source % 16 * 2 ^ 8 + b2n f.write * 2 + phase,
   f.va % 2 ^ 52,
   f.time,
   f.seq % 2 ^ 32 * 2 ^ 32 + f.op % 256 * 2 ^ 16 + f.q % 4]

/-- Faults not yet in the ring enter it in order while it has room; FAULT_RING_FULL follows (R331, R333). -/
def enterFaults : List OpenFault → M s0 Unit
  | [] => pure ()
  | f :: fs => do
    let s ← cur
    if s.faultUsed < s.faultDepth then
      let tail := s.fld F.schFaultPtr_tail
      let phase := if tail / s.faultDepth % 2 == 0 then 1 else 0
      let a := s.fld F.schFaultBase_dpa * 2 ^ 12 + 32 * (tail % s.faultDepth)
      if s.backed a && !s.refusesWrite a then writeAt a (wordBytes (f.words phase))
      setF F.schFaultPtr_tail (tail + 1)
      modSched fun x => { x with faults := x.faults.map fun g => if g.fid == f.fid then { g with entered := true } else g }
      bump F.schPartFaults_count 1 f.part
      raiseVec (s.fld F.schFaultCfg_vector)
    enterFaults fs

/-- The fault ring's waiting entries and its FULL bit brought up to date. -/
def flushFaults : M s0 Unit := do
  enterFaults ((← cur).sched.faults.filter fun f => !f.entered)
  let s ← cur
  setFlag F.schStatus_faultRingFull (decide (s.faultDepth ≤ s.faultUsed))

/-- A new open fault (R331); its FAULT_ID. -/
def openFault (c : Nat) (source status va : Nat) (write : Bool) (seq op q : Nat) (pkt : Option Nat) : M s0 Nat := do
  let s ← cur
  let fid := s.sched.nextFid
  modSched fun x => { x with
    nextFid := (fid + 1) % 2 ^ 32
    faults := x.faults ++ [{ fid := fid, status := status, ctx := c, part := s.partOf c, source := source, write := write,
                             va := va, time := s.now, seq := seq, op := op, q := q, pkt := pkt, entered := false }] }
  flushFaults
  pure fid

/-- A translation or protection fault waits for the companion: the partition is RESTART and the ring is enabled (R331). -/
def State.restarts (s : State) (c : Nat) : Bool :=
  s.inForce F.schPartCfg_restart (s.partOf c) != 0 && s.flag F.schFaultCfg_en

/-- What an operation ends with: DETAIL; the packet waits instead where `wait` is set. -/
structure Fin where
  status : Nat := 0
  detail : Nat := 0
  wait : Bool := false
  deriving DecidableEq, Repr

/-! ### Destinations of an abandoned packet -/

/-- The words that name a packet's output operands, by opcode (R61 to R66). -/
def outputWords (op : Nat) : List Nat :=
  match op with
  | 0x10 | 0x11 | 0x12 | 0x18 | 0x19 | 0x32 | 0x33 | 0x40 | 0x41 | 0x65 => [4]
  | 0x13 | 0x21 | 0x51 => [5]
  | 0x1A | 0x1B | 0x30 | 0x31 | 0x35 | 0x42 | 0x43 => [3]
  | 0x20 => [3, 4]
  | 0x1C | 0x34 => [2]
  | 0x70 | 0x71 | 0x72 | 0x73 => [4]
  | _ => []

/-- The output descriptors of a packet. -/
def Pkt.outputs (p : Pkt) : List Desc :=
  (outputWords p.op).filterMap fun i => if (p.captured i).isEmpty then none else some (p.desc i)

/-- What an action would answer; nothing of it stays. -/
def whatIf {α : Type} (m : M s0 α) : M s0 α := fun t => ((m t).1, t)

/-- A place in a destination: address, bytes, and the half of a byte that a 4-bit element fills. -/
structure Place where
  va : Nat
  n : Nat
  half : Option Bool := none
  deriving DecidableEq, Repr

/-- What places hold, as an operation reads them; none where one cannot be read. -/
def rdPlaces (ac : Acc) : List Place → M s0 (List (Option Nat))
  | [] => pure []
  | x :: xs => do
    let (r, _) ← runA (rdDest ac x.va x.n)
    let rest ← rdPlaces ac xs
    let v := match r with
      | .ok bs => some (match x.half with
        | none => ofBytes bs
        | some hi => if hi then ofBytes bs / 16 else ofBytes bs % 16)
      | .error _ => none
    pure (v :: rest)

/-- What places would hold had the operation gone on to its end, its failing reads taking free values. -/
def afterwards (ac : Acc) (body : Acc → A s0 Unit) (xs : List Place) : M s0 (List (Option Nat)) :=
  whatIf (do
    let _ ← runA (body { ac with blind := true })
    rdPlaces ac xs)

/-- Each place keeps its old content or takes its new one (R146, log entry 8): new content is what the whole operation would
have left there, where that is the same for two choices of the values that could not be read. -/
def oldOrNew (ac : Acc) : List (Place × Option Nat × Option Nat) → M s0 Unit
  | [] => pure ()
  | (x, a, b) :: rest => do
    match a, b with
    | some v, some w =>
      if v = w then
        let n ← takeFresh
        if Config.freeBit n then
          let _ ← runA (wrAll ac [{ va := x.va, bs := toBytes x.n v, half := x.half }])
    | _, _ => pure ()
    oldOrNew ac rest

/-- The places of a packet stopped as ABORT stops it hold old or new content (R146, R317). -/
def leavePlaces (ac : Acc) (body : Acc → A s0 Unit) (xs : List Place) : M s0 Unit := do
  let a ← afterwards ac body xs
  let _ ← takeFresh
  let b ← afterwards ac body xs
  oldOrNew ac (xs.zip (a.zip b))

/-- The places of a destination: its elements and, of an MX view, its scales. -/
def Desc.places (t : Desc) : List Place :=
  t.offsets.map (fun l => { va := t.addr l, n := elemBytes t.fmt, half := t.half l }) ++
  (if isMx t.fmt then (List.range (t.count / 32)).map fun b => { va := t.scaleAddr (t.offsetAt (32 * b)), n := 1 } else [])

/-- An element under a scatter reduction may hold a partial result, whose value the spec does not state (R146, log entry 8). -/
def freeElem (ac : Acc) (t : Desc) (l : Int) : M s0 Unit := do
  let n ← takeFresh
  let v ← takeFresh
  if Config.freeBit n then
    let _ ← runA (wrAll ac [t.store l (Config.free v).toNat])

/-- The destinations of a collective that fails, or of a reduction that stops: each element keeps its content or takes content
the spec does not state (R146, log entry 8). -/
def freeDests (c : Nat) (p : Pkt) : M s0 Unit := do
  let ac := (← cur).acc c
  each p.outputs fun t => each t.offsets (freeElem ac t)

/-- Every destination element of a packet stopped as ABORT stops it holds old or new content, and under a scatter reduction
possibly a partial result (R146, R317). -/
def leaveDests (c : Nat) (p : Pkt) (body : Acc → A s0 Fin) : M s0 Unit := do
  let ac := (← cur).acc c
  if p.op = 0x33 ∧ p.f 5 5 4 ≠ 0 then freeDests c p
  else leavePlaces ac (fun x => do let _ ← body x; pure ()) (p.outputs.flatMap Desc.places)

/-! ### Exhausted parts (R455) -/

/-- The DPAs of a packet's destination elements that translate, by granule. -/
def destGrans (ac : Acc) : List Nat → M s0 (List Nat)
  | [] => pure []
  | va :: vas => do
    let r ← walk ac va true
    let rest ← destGrans ac vas
    pure (match r with
      | .ok a => if rest.contains (a / 64) then rest else a / 64 :: rest
      | .error _ => rest)

/-- The destination granules of exhausted parts: which elements a part holds the A12 decides, at least one granule among
them (log entry 37). -/
def chooseGrans : List Nat → M s0 (List Nat)
  | [] => pure []
  | g :: gs => do
    let n ← takeFresh
    let rest ← chooseGrans gs
    pure (if Config.freeBit n || (gs.isEmpty && rest.isEmpty) then g :: rest else rest)

/-- A destination granule of an exhausted part is poisoned where it carries a code; one in companion memory keeps its old
content or what the part wrote (R455). -/
def exhaustGran (g : Nat) : M s0 Unit := do
  match regionOf (64 * g) with
  | .companion =>
    let n ← takeFresh
    let bs ← freeBytes 64
    if Config.freeBit n then pokeBytes (64 * g) bs
  | _ => poisonGran g

/-- What exhausted parts leave in a packet's destinations; the lowest DPA among their granules (R455). -/
def poisonDests (c : Nat) (p : Pkt) : M s0 Nat := do
  let ac := (← cur).acc c
  let gs ← destGrans ac (p.outputs.flatMap fun t => t.offsets.map t.addr ++
    if isMx t.fmt then (List.range (t.count / 32)).map fun b => t.scaleAddr (t.offsetAt (32 * b)) else [])
  let chosen ← chooseGrans gs
  each chosen exhaustGran
  bump F.hbPartExhausted_count 1
  pure (match chosen with
    | [] => 0
    | g :: rest => 64 * rest.foldl min g)

/-! ### The run of a packet -/

/-- An operation's use of every target can be paid. -/
def State.pays (s : State) (p : Pkt) (part : Nat) (l : Log) : Bool := l.used.all fun (t, n) => s.affordable p part t n

/-- An access that waits for a snoop's answer has the snoop sent, one at a time (R371). -/
def askSnoop (sn : Option (Nat × Bool)) : M s0 Unit := do
  match sn with
  | some (g, inval) =>
    let s ← cur
    if s.thm.snoop.isNone then
      modThm fun t => { t with snoop := some { gran := g, inval := inval, back := none, since := s.now } }
      emit (.snoop g)
  | none => pure ()

/-- The sets on which a packet's parts have run: their work counts rise by amounts that depend on timing and on the division
of the packet, which the spec leaves open (R105, R106, R155, R167, log entry 63); their core SRAM and the set controller's part
of their buffers hold what the parts left there (log entry 64). -/
def countWork (c : Nat) (p : Pkt) : M s0 Unit := do
  let n ← takeFresh
  each ((← cur).heldSets c) fun x =>
    whenM (usesSets p.op ∧ bit p.dies (x / 40)) (modSets x fun y => { y with jobs := y.jobs ++ [n], inner := Config.leftover n })

/-- A packet's operation ends or stops. -/
def endRun (c : Nat) (p : Pkt) (source : Nat) (r : Except Stop Fin) (l : Log) (onAbort : M s0 Unit) : M s0 Unit := do
  let s ← cur
  if l.recovered then modPkt c p.id fun y => { y with recovered := true }
  each l.used (chargeTokens c p (s.partOf c))
  if l.grans ≠ [] then countWork c p
  match r with
  | .ok f =>
    if f.wait then waitPkt c p.id
    else if p.exhausted then
      let a ← poisonDests c p
      modPkt c p.id fun y => { y with dpa := a, recovered := true }
      endPkt c p.id stEncoreExhausted a
    else endPkt c p.id f.status f.detail
  | .error (.flt st va w k) =>
    if s.restarts c then
      let fid ← openFault c (if k = 0 then source else k) st va w p.seq p.op p.q (some p.id)
      modPkt c p.id fun y => { y with st := .stalled fid }
    else
      onAbort
      endPkt c p.id st va
  | .error (.poison va dpa) =>
    onAbort
    modPkt c p.id fun y => { y with dpa := dpa }
    endPkt c p.id stPoison va
  | .error .internal =>
    onAbort
    endPkt c p.id stInternal 0
  | .error (.hold sn) => askSnoop sn
  | .error (.fail st d) => endPkt c p.id st d

/-- An operation that leaves nothing of itself and stops at an uncorrectable granule has still read that granule (R183). -/
def touchPoison {α : Type} (ac : Acc) (r : Except Stop α) : M s0 Unit :=
  match r with
  | .error (.poison va _) => do
    let _ ← runA (rd ac va 1)
  | _ => pure ()

/-- A packet's operation is run: kept where its tokens can be paid, otherwise it pays what it can and waits (R178); its
faults follow the partition's fault model. `onAbort` is what a packet that stops leaves behind. An `atomic` operation that
stops leaves nothing of itself. -/
def runPktWith (c : Nat) (p : Pkt) (source : Nat) (atomic : Bool) (onAbort : M s0 Unit) (body : Acc → A s0 Fin) :
    M s0 Unit := do
  let s ← cur
  let part := s.partOf c
  let ((r, l), ok) ← attempt (runA (body (s.acc c))) fun x => s.pays p part x.2 && (!atomic || x.1.isOk)
  if ok || s.pays p part l then
    if !ok then touchPoison (s.acc c) r
    endRun c p source r l onAbort
  else each l.used (payPart c p part)
  refresh c

/-- A packet's operation run, with the destinations of R146 where it is abandoned. -/
def runPkt (c : Nat) (p : Pkt) (source : Nat) (body : Acc → A s0 Fin) : M s0 Unit :=
  runPktWith c p source false (leaveDests c p body) body

/-- The command of a packet's operation: the packet of that opcode, issued in a loaded context, runs (log entry 5). -/
def opOf (c id : Nat) (ops : List Nat) (source : Nat) (body : Pkt → Acc → A s0 Fin) : M s0 Unit := do
  if (← cur).loaded c then onIssued c id ops fun p => runPkt c p source (body p)

end Sys2Proof.Machine
end

