-- ==== Sys2Proof/Machine/Control.lean ====
section
/-!
DEFINITION. The control class (R53 to R60, R67): scalars, predicates, branches and chains, waits, signals, events and time
stamps. The scalars and predicates a packet reads are taken at issue (R50) and stand in the
packet's `aux`: sA, sB, the predicates.
-/
namespace Sys2Proof.Machine

variable {s0 : State}

/-- A control packet of an opcode, issued in a loaded context, acts. -/
def ctlOf (c id op : Nat) (f : Pkt → M s0 Unit) : M s0 Unit := do
  if (← cur).loaded c then onIssued c id [op] f
  refresh c

/-- sA and B as read at issue: B is sB or the immediate (R54). -/
def Pkt.srcA (p : Pkt) : Nat := nth p.aux 0
def Pkt.srcB (p : Pkt) : Nat := if p.b 2 24 then p.w 3 else nth p.aux 1

/-! ### Scalars and predicates -/

/-- `NOP` (R53). -/
def execNop (c id : Nat) (s : State) : Outcome := M.go s (ctlOf c id 0x00 fun p => endPkt c p.id stOk 0)

/-- `SET_SCALAR` (R53): sD := W3. -/
def execSetScalar (c id : Nat) (s : State) : Outcome :=
  M.go s (ctlOf c id 0x01 fun p => do
    setScalar c (p.f 2 5 0) (p.w 3)
    endPkt c p.id stOk 0)

/-- `SCALAR_OP` (R54): sD := sA OP B. -/
def execScalarOp (c id : Nat) (s : State) : Outcome :=
  M.go s (ctlOf c id 0x02 fun p => do
    match scalarOp (p.f 2 35 32) p.srcA p.srcB with
    | some v =>
      setScalar c (p.f 2 5 0) v
      endPkt c p.id stOk 0
    | none => endPkt c p.id stBadParam (2 + 32 * 256))

/-- The value SET_PRED gives its predicate (R55). -/
def setPredValue (p : Pkt) : Option Bool :=
  let ps := nth p.aux 2
  let a := bit ps (p.f 2 10 8)
  let b := bit ps (p.f 2 18 16)
  match p.f 2 35 32 with
  | 8 => some (a && b)
  | 9 => some (a || b)
  | 10 => some (!a)
  | n => if n < 8 then some (setPredCond n p.srcA p.srcB) else none

/-- `SET_PRED` (R55). -/
def execSetPred (c id : Nat) (s : State) : Outcome :=
  M.go s (ctlOf c id 0x03 fun p => do
    match setPredValue p with
    | some v =>
      setPred c (p.f 2 2 0) v
      endPkt c p.id stOk 0
    | none => endPkt c p.id stBadParam (2 + 32 * 256))

/-! ### Branches and chains -/

/-- A packet in flight stands before p in p's queue (R50). Of the packets that were issued before an encore, none stands before
a packet that runs again but those of the step that run again too: they stood behind STEP_END, or are it (R459). -/
def State.precedes (s : State) (c : Nat) (p y : Pkt) : Bool :=
  y.q == p.q && (!((s.ctxsAt c).enc.rerun && p.inStep) || (y.inStep && some y.id != (s.ctxsAt c).step.bind Step.ending))

/-- A BRANCH, CALL or RETURN of the queue has issued and not acted: the queue's next packet is not yet known (R57, R58). -/
def State.steering (s : State) (c q : Nat) : Bool :=
  (s.ctxsAt c).pkts.any fun p => p.q == q && (p.op == 4 || p.op == 5 || p.op == 6) && p.st == .issued

/-- Chains that have reached their end return: each CALL has ended, and completes once its packets have (R58). -/
def popEnded (c q : Nat) : (fuel : Nat) → M s0 Unit
  | 0 => pure ()
  | fuel + 1 => do
    let s ← cur
    match (s.queAt (qKey c q)).chain with
    | f :: fs =>
      if f.len ≤ f.pos ∧ s.steering c q = false then
        modQue (qKey c q) fun x => { x with chain := fs }
        endPkt c f.call stOk 0
        popEnded c q fuel
    | [] => pure ()

/-- `BRANCH` (R57): in a ring it skips forward to a later packet; in a chain it goes to a packet start. -/
def execBranch (c id : Nat) (s : State) : Outcome :=
  M.go s (ctlOf c id 0x04 fun p => do
    let ofs := signed 32 (p.w 2)
    let s1 ← cur
    match if p.parent.isSome then (s1.queAt (qKey c p.q)).chain else [] with
    | f :: fs =>
      let target := (p.chainOff : Int) + ofs
      if 0 ≤ target ∧ f.starts.contains target.toNat then
        modQue (qKey c p.q) fun x => { x with chain := { f with pos := target.toNat } :: fs }
        endPkt c p.id stOk 0
      else endPkt c p.id stBadParam 2
      popEnded c p.q 5
    | [] =>
      if ofs ≤ 0 then endPkt c p.id stBadParam 2
      else if ofs = 1 then endPkt c p.id stOk 0
      else
        modQue (qKey c p.q) fun x => { x with skip := some ⟨p.id, ofs.toNat - 1, 0⟩, laterSkip := x.skip.orElse fun _ => x.laterSkip }
        waitPkt c p.id)

/-- `CALL` (R58): the chain becomes the queue's source of packets; where its packets start was found at validation. -/
def execCall (c id : Nat) (s : State) : Outcome :=
  M.go s (ctlOf c id 0x05 fun p => do
    modQue (qKey c p.q) fun x => { x with
      chain := { base := p.w 2, len := p.f 3 12 0, pos := 0, call := p.id, starts := p.aux } :: x.chain }
    waitPkt c p.id)

/-- `RETURN` (R58): the innermost chain ends. -/
def execReturn (c id : Nat) (s : State) : Outcome :=
  M.go s (ctlOf c id 0x06 fun p => do
    match (← cur).queAt (qKey c p.q) |>.chain with
    | f :: fs =>
      modQue (qKey c p.q) fun x => { x with chain := fs }
      endPkt c f.call stOk 0
      endPkt c p.id stOk 0
      popEnded c p.q 5
    | [] => endPkt c p.id stBadParam 0)

/-! ### Memory -/

/-- What LOAD_SCALAR does (its command below). -/
def loadScalarBody (c : Nat) (p : Pkt) (ac : Acc) : A s0 Fin := do
  let v ← rdWord ac (p.w 3)
  (setScalar c (p.f 2 5 0) v : M s0 _)
  pure {}

/-- `LOAD_SCALAR` (R53). -/
def execLoadScalar (c id : Nat) (s : State) : Outcome := M.go s (opOf c id [0x07] 1 (loadScalarBody c))

/-- What STORE_SCALAR does (its command below). -/
def storeScalarBody (p : Pkt) (ac : Acc) : A s0 Fin := do
  wrAll ac [{ va := p.w 3, bs := toBytes 8 p.srcA }]
  pure {}

/-- `STORE_SCALAR` (R53). -/
def execStoreScalar (c id : Nat) (s : State) : Outcome := M.go s (opOf c id [0x08] 1 storeScalarBody)

/-- What SIGNAL does (its command below). -/
def signalBody (c : Nat) (p : Pkt) (ac : Acc) : A s0 Fin := do
  if p.w 2 ≠ 0 then wrAll ac [{ va := p.w 2, bs := toBytes 8 (p.w 3) }]
  if p.b 4 0 then (ctxIrq c : M s0 _)
  pure {}

/-- `SIGNAL` (R60). -/
def execSignal (c id : Nat) (s : State) : Outcome := M.go s (opOf c id [0x0B] 1 (signalBody c))

/-- The value logged for a packet in the step's first run, where this is a rerun (R460). -/
def State.logged (s : State) (c : Nat) (p : Pkt) : Option Nat :=
  let e := (s.ctxsAt c).enc
  if p.inStep && e.rerun then (e.outs.find? fun o => o.1 == p.q && o.2.1 == p.ord).map fun o => o.2.2 else none

/-- What TIMESTAMP does (its command below). -/
def timestampBody (c : Nat) (p : Pkt) (ac : Acc) : A s0 Fin := do
  let v := ((← (cur : M s0 _)).logged c p).getD p.at_
  if p.w 3 ≠ 0 then wrAll ac [{ va := p.w 3, bs := toBytes 8 v }]
  (setScalar c (p.f 2 5 0) v : M s0 _)
  (logOutcome c p v : M s0 _)
  pure {}

/-- `TIMESTAMP` (R67): the serving counter at issue. -/
def execTimestamp (c id : Nat) (s : State) : Outcome := M.go s (opOf c id [0x84] 1 (timestampBody c))

/-! ### Waits -/

/-- One comparison of a WAIT_VALUE: it ends where it holds; otherwise it ends unsatisfied where this is the expiry, and goes
on waiting where it is not (R59). -/
def waitValueBody (c : Nat) (expiry : Bool) (p : Pkt) (ac : Acc) : A s0 Fin := do
  match (← (cur : M s0 _)).logged c p with
  | some v =>
    (setPred c (p.f 4 10 8) (v == 1) : M s0 _)
    pure { detail := v }
  | none =>
    let v ← rdWord ac (p.w 2)
    let sat := waitCond (p.f 4 3 0) v (p.w 3)
    if sat || expiry then
      (setPred c (p.f 4 10 8) sat : M s0 _)
      (logOutcome c p (b2n sat) : M s0 _)
      pure { detail := b2n sat }
    else pure { wait := true }

/-- `WAIT_VALUE` (R59): the comparison at issue. -/
def execWaitValue (c id : Nat) (s : State) : Outcome :=
  M.go s (opOf c id [0x0A] 1 (waitValueBody c false))

/-- The comparison of a swapped-out context's wait: where it would complete, the context becomes RUNNABLE (R316). -/
def pollSwapped (c : Nat) (p : Pkt) : M s0 Unit := do
  let s ← cur
  let (r, _) ← runA (rdWord (s.acc c) (p.w 2))
  match r with
  | .ok v => modPkt c p.id fun y => { y with met := waitCond (p.f 4 3 0) v (p.w 3) }
  | .error _ => pure ()
  refreshState c

/-- `WAIT_VALUE_POLL` (R59): the comparison at a later microsecond. -/
def execWaitValuePoll (c id : Nat) (s : State) : Outcome :=
  M.go s (onWaiting c id 0x0A fun p => do
    if (← cur).loaded c then runPkt c p 1 (waitValueBody c false p) else pollSwapped c p)

/-- `WAIT_VALUE_TIMEOUT` (R59). -/
def execWaitValueTimeout (c id : Nat) (s : State) : Outcome :=
  M.go s (onWaiting c id 0x0A fun p => do
    let s1 ← cur
    if s1.loaded c && s1.timedOut p (p.f 4 63 32) then runPkt c p 1 (waitValueBody c true p) else refreshState c)

/-- `EVENT_WAIT` (R67): the comparison at issue. -/
def execEventWait (c id : Nat) (s : State) : Outcome :=
  M.go s (ctlOf c id 0x83 fun p => do
    let s1 ← cur
    match s1.logged c p with
    | some v =>
      setPred c (p.f 5 2 0) (v == 1)
      endPkt c p.id stOk v
    | none =>
      if p.w 4 ≤ s1.fld F.clrEvent_count c (p.f 3 4 0) then endWait c p (p.f 5 2 0) true
      else waitPkt c p.id)

/-- `EVENT_WAIT_TIMEOUT` (R67): the comparison at the expiry. -/
def execEventWaitTimeout (c id : Nat) (s : State) : Outcome :=
  M.go s (onWaiting c id 0x83 fun p => do
    let s1 ← cur
    if s1.loaded c && s1.timedOut p (p.f 5 63 32) then
      endWait c p (p.f 5 2 0) (decide (p.w 4 ≤ s1.fld F.clrEvent_count c (p.f 3 4 0)))
      refresh c
    else refreshState c)

end Sys2Proof.Machine
end

