-- ==== Sys2Proof/Machine/FP.lean ====
section
/-!
DEFINITION. Number formats and FP32 arithmetic, bit-exact: values as exact binary fractions, decoding of every element format
(R49, R117), conversion with rounding to nearest even (R124, R125), FP32 operations of one rounding (R118, R122), the
exponent function (R223), the epilogue functions (R122), the row reduction (R83). An FP32 value is its 32-bit code.
-/
namespace Sys2Proof.Machine

/-! ### Exact values -/

/-- A value: NaN, an infinity, or (-1)^neg * m * 2^e. -/
inductive Num where
  | nan
  | inf (neg : Bool)
  | fin (neg : Bool) (m : Nat) (e : Int)
  deriving DecidableEq, Repr

/-- Zero of a sign. -/
def Num.zero (neg : Bool) : Num := .fin neg 0 0

/-- An integer as a value. -/
def Num.ofInt (i : Int) : Num := .fin (decide (i < 0)) i.natAbs 0

/-- The signed integer numerator of a finite value at the exponent e0, which is at most its own. -/
def numerAt (neg : Bool) (m : Nat) (e e0 : Int) : Int :=
  let v : Int := ((m <<< (e - e0).toNat : Nat) : Int)
  if neg then -v else v

/-- A product, exact (R117). -/
def Num.mul : Num → Num → Num
  | .nan, _ => .nan
  | _, .nan => .nan
  | .inf a, .inf b => .inf (a != b)
  | .inf a, .fin b m _ => if m = 0 then .nan else .inf (a != b)
  | .fin a m _, .inf b => if m = 0 then .nan else .inf (a != b)
  | .fin a m e, .fin b n f => .fin (a != b) (m * n) (e + f)

/-- A sum, exact; an exact zero sum is +0 unless both terms are -0 (R118). -/
def Num.add : Num → Num → Num
  | .nan, _ => .nan
  | _, .nan => .nan
  | .inf a, .inf b => if a = b then .inf a else .nan
  | .inf a, .fin _ _ _ => .inf a
  | .fin _ _ _, .inf b => .inf b
  | .fin a m e, .fin b n f =>
    let e0 := min e f
    let v := numerAt a m e e0 + numerAt b n f e0
    if v = 0 then .fin (a && b) 0 0 else .fin (decide (v < 0)) v.natAbs e0

/-- The negation. -/
def Num.neg : Num → Num
  | .nan => .nan
  | .inf a => .inf !a
  | .fin a m e => .fin (!a) m e

/-- An order key: the sign of the difference of two values that are no NaN; zeros are equal. -/
def Num.lt : Num → Num → Bool
  | .nan, _ => false
  | _, .nan => false
  | .inf a, .inf b => a && !b
  | .inf a, .fin _ _ _ => a
  | .fin _ _ _, .inf b => !b
  | .fin a m e, .fin b n f => decide (numerAt a m e (min e f) < numerAt b n f (min e f))

/-! ### Formats -/

/-- A floating-point format: mantissa bits, exponent bits, and whether the top exponent is NaN and infinity (IEEE), or the
single top code is NaN (E4M3), or neither (E2M1). -/
structure FpFmt where
  mant : Nat
  ebits : Nat
  kind : Nat
  deriving DecidableEq, Repr

/-- The exponent bias. -/
def FpFmt.bias (f : FpFmt) : Int := ((2 ^ (f.ebits - 1) : Nat) : Int) - 1

/-- The exponent of the smallest subnormal. -/
def FpFmt.emin (f : FpFmt) : Int := 1 - f.bias - (f.mant : Int)

def fp32 : FpFmt := ⟨23, 8, 0⟩

/-- The floating-point format of an element format code (R49); INT8 and INT32 have none. -/
def fpFmt (fmt : Nat) : FpFmt :=
  match fmt with
  | 0 => fp32
  | 1 => ⟨7, 8, 0⟩
  | 2 => ⟨10, 5, 0⟩
  | 3 | 5 => ⟨3, 4, 1⟩
  | 4 | 6 => ⟨2, 5, 0⟩
  | _ => ⟨1, 2, 2⟩

/-- The value of a code in a floating-point format. -/
def FpFmt.decode (f : FpFmt) (w : Nat) : Num :=
  let neg := w.testBit (f.mant + f.ebits)
  let m := w % 2 ^ f.mant
  let x := w / 2 ^ f.mant % 2 ^ f.ebits
  if f.kind = 0 ∧ x = 2 ^ f.ebits - 1 then (if m = 0 then .inf neg else .nan)
  else if f.kind = 1 ∧ x = 2 ^ f.ebits - 1 ∧ m = 2 ^ f.mant - 1 then .nan
  else if x = 0 then .fin neg m f.emin
  else .fin neg (2 ^ f.mant + m) (f.emin + (x : Int) - 1)

/-- The value of an element code (R117): FP32, BF16, FP16, E4M3, E5M2, the MX elements, INT8, INT32. -/
def elemNum (fmt w : Nat) : Num :=
  match fmt with
  | 8 => .ofInt (signed 8 w)
  | 9 => .ofInt (signed 32 w)
  | _ => (fpFmt fmt).decode w

/-- An E8M0 scale code as a value: 2^(E - 127), NaN for 0xFF (R117). -/
def scaleNum (e : Nat) : Num := if e = 0xFF then .nan else .fin false 1 ((e : Int) - 127)

/-- An element with its block's scale. -/
def scaledNum (fmt w sc : Nat) : Num :=
  if fmt = 5 ∨ fmt = 6 ∨ fmt = 7 then (elemNum fmt w).mul (scaleNum sc) else elemNum fmt w

/-! ### Rounding -/

/-- m * 2^e rounded to nearest even to p significant bits, with no bit below 2^emin: the integer and its exponent. -/
def roundTo (p : Nat) (emin : Int) (m : Nat) (e : Int) : Nat × Int :=
  if m = 0 then (0, emin)
  else
    let x := max (e + (Nat.log2 m : Int) + 1 - (p : Int)) emin
    if x ≤ e then (m <<< (e - x).toNat, x)
    else
      let s := (x - e).toNat
      let q := m >>> s
      let r := m % 2 ^ s
      let half := 2 ^ (s - 1)
      (if half < r ∨ (r = half ∧ q % 2 = 1) then q + 1 else q, x)

/-- The code of a finite magnitude after rounding, with the exponent range unbounded above. -/
def FpFmt.code (f : FpFmt) (m : Nat) (e : Int) : Nat :=
  let (q, x) := roundTo (f.mant + 1) f.emin m e
  (x - f.emin).toNat * 2 ^ f.mant + q

/-- A code with its sign bit. -/
def FpFmt.signed (f : FpFmt) (neg : Bool) (c : Nat) : Nat := c + b2n neg * 2 ^ (f.mant + f.ebits)

/-- The limits of a format (R124): largest finite code; the code of a finite value beyond it; of an infinity; of NaN. -/
def fpLimits (fmt : Nat) : Nat × Nat × Nat × Nat :=
  match fmt with
  | 0 => (0x7F7FFFFF, 0x7F800000, 0x7F800000, 0x7FC00000)
  | 1 => (0x7F7F, 0x7F80, 0x7F80, 0x7FC0)
  | 2 => (0x7BFF, 0x7BFF, 0x7C00, 0x7E00)
  | 3 | 5 => (0x7E, 0x7E, 0x7E, 0x7F)
  | 4 => (0x7B, 0x7B, 0x7C, 0x7E)
  | 6 => (0x7B, 0x7B, 0x7B, 0x7E)
  | _ => (7, 7, 7, 0)

/-- A value converted to a format (R124), and whether a finite value or an infinity was brought down to the largest
magnitude (R126). -/
def convert (fmt : Nat) (v : Num) : Nat × Bool :=
  let f := fpFmt fmt
  let (top, above, inf, nan) := fpLimits fmt
  match v with
  | .nan => (nan, false)
  | .inf neg => (f.signed neg inf, inf == top)
  | .fin neg m e =>
    let c := f.code m e
    if top < c then (f.signed neg above, above == top) else (f.signed neg c, false)

/-- A value rounded to FP32. -/
def to32 (v : Num) : Nat := (convert 0 v).1

/-- An FP32 code's value. -/
def of32 (w : Nat) : Num := fp32.decode w

/-- An element widened to FP32: exact for FP32, BF16, FP16 and the 8-bit formats. -/
def widen (fmt w : Nat) : Nat := to32 (elemNum fmt w)

/-! ### FP32 operations -/

def nan32 : Nat := 0x7FC00000
def one32 : Nat := 0x3F800000
def two32 : Nat := 0x40000000
def half32 : Nat := 0x3F000000
def inf32 : Nat := 0x7F800000
def ninf32 : Nat := 0xFF800000

def isNan32 (w : Nat) : Bool := of32 w == .nan

def add32 (a b : Nat) : Nat := to32 ((of32 a).add (of32 b))
def neg32 (a : Nat) : Nat := if isNan32 a then nan32 else a ^^^ 0x80000000
def sub32 (a b : Nat) : Nat := add32 a (neg32 b)
def mul32 (a b : Nat) : Nat := to32 ((of32 a).mul (of32 b))

/-- a * b + c with one rounding. -/
def fma32 (a b c : Nat) : Nat := to32 (((of32 a).mul (of32 b)).add (of32 c))

/-- The quotient of two finite values, with enough bits and a sticky bit for one rounding. -/
def quotient (m : Nat) (e : Int) (n : Nat) (f : Int) : Nat × Int :=
  let k := 64 + Nat.log2 n
  let num := m <<< k
  (2 * (num / n) + (if num % n = 0 then 0 else 1), e - f - (k : Int) - 1)

/-- a / b, correctly rounded. -/
def div32 (a b : Nat) : Nat :=
  match of32 a, of32 b with
  | .nan, _ => nan32
  | _, .nan => nan32
  | .inf _, .inf _ => nan32
  | .inf x, .fin y _ _ => to32 (.inf (x != y))
  | .fin x _ _, .inf y => to32 (.zero (x != y))
  | .fin x m e, .fin y n f =>
    if n = 0 then (if m = 0 then nan32 else to32 (.inf (x != y)))
    else let (q, g) := quotient m e n f
      to32 (.fin (x != y) q g)

/-- The integer square root's bits from bit n - 1 down. -/
def isqrtFrom (m : Nat) : Nat → Nat → Nat
  | 0, r => r
  | n + 1, r => isqrtFrom m n (if (r + 2 ^ n) * (r + 2 ^ n) ≤ m then r + 2 ^ n else r)

/-- The square root, correctly rounded. -/
def sqrt32 (a : Nat) : Nat :=
  match of32 a with
  | .nan => nan32
  | .inf neg => if neg then nan32 else inf32
  | .fin neg m e =>
    if m = 0 then a
    else if neg then nan32
    else
      let k := 64 + (e % 2).toNat
      let v := m <<< k
      let r := isqrtFrom v 64 0
      to32 (.fin false (2 * r + (if r * r = v then 0 else 1)) ((e - (k : Int)) / 2 - 1))

/-- The maximum: NaN where either is, +0 of two zeros of opposite signs (R83, R158). -/
def max32 (a b : Nat) : Nat :=
  if isNan32 a || isNan32 b then nan32
  else if (of32 a).lt (of32 b) then b
  else if (of32 b).lt (of32 a) then a
  else if bit a 31 then b else a

/-- The minimum, likewise -0 of two zeros (R158). -/
def min32 (a b : Nat) : Nat :=
  if isNan32 a || isNan32 b then nan32
  else if (of32 a).lt (of32 b) then a
  else if (of32 b).lt (of32 a) then b
  else if bit a 31 then a else b

/-- a < b; false where either is NaN. -/
def lt32 (a b : Nat) : Bool := (of32 a).lt (of32 b)

/-- An integer rounded to FP32. -/
def int32 (i : Int) : Nat := to32 (.ofInt i)

/-! ### The exponent function (R223) -/

/-- c[0] to c[7]: the FP32 values nearest (ln 2)^i / i!. -/
def expCoef : List Nat :=
  [0x3F800000, 0x3F317218, 0x3E75FDF0, 0x3D635847, 0x3C1D955B, 0x3AAEC3FF, 0x39218489, 0x377FE5FE]

/-- The floor of a finite value. -/
def floorNum (neg : Bool) (m : Nat) (e : Int) : Int :=
  let v : Int := if neg then -(m : Int) else m
  if 0 ≤ e then v * ((2 ^ e.toNat : Nat) : Int) else v / ((2 ^ (-e).toNat : Nat) : Int)

/-- p2(t): the steps of R223 from the overflow test onward (R263). -/
def pow2 (t : Nat) : Nat :=
  match of32 t with
  | .nan => nan32
  | .inf neg => if neg then 0 else inf32
  | .fin neg m e =>
    if !(of32 t).lt (.fin false 128 0) then inf32
    else if (of32 t).lt (.fin true 160 0) then 0
    else
      let n := floorNum neg m e
      let f := to32 ((of32 t).add (.ofInt (-n)))
      let p := (expCoef.reverse.drop 1).foldl (fun p c => fma32 p f c) (nth expCoef 7)
      match of32 p with
      | .fin a k g => to32 (.fin a k (g + n))
      | v => to32 v

/-- The FP32 value nearest log2(e) (R223). -/
def l2e : Nat := 0x3FB8AA3B

/-- e(x) (R223). -/
def exp32 (x : Nat) : Nat := if isNan32 x then nan32 else pow2 (mul32 x l2e)

/-! ### Epilogue functions (R122) -/

def relu32 (x : Nat) : Nat := if isNan32 x then nan32 else if lt32 0 x then x else 0

def silu32 (x : Nat) : Nat := div32 x (add32 one32 (exp32 (neg32 x)))

def gelu32 (x : Nat) : Nat :=
  let x3 := mul32 (mul32 x x) x
  let u := mul32 0x3F4C422A (add32 x (mul32 0x3D372713 x3))
  let t := sub32 one32 (div32 two32 (add32 (exp32 (mul32 two32 u)) one32))
  mul32 (mul32 half32 x) (add32 one32 t)

/-- EPILOGUE: 0 none, 1 SiLU, 2 GELU, 3 ReLU (R61). -/
def epilogue (k x : Nat) : Nat :=
  match k with
  | 1 => silu32 x
  | 2 => gelu32 x
  | 3 => relu32 x
  | _ => x

/-! ### Row reductions (R83) -/

/-- The 32 lanes after a row. -/
def lanesOf (op : Nat → Nat → Nat) (init : Nat) (xs : List Nat) : List Nat :=
  (List.range 32).map fun l => ((List.range xs.length).filter fun i => i % 32 == l).foldl (fun a i => op a (nth xs i)) init

/-- One halving of the lanes. -/
def foldLanes (op : Nat → Nat → Nat) (acc : List Nat) (w : Nat) : List Nat :=
  (List.range w).map fun l => op (nth acc l) (nth acc (l + w))

/-- A row reduced by one core in the order of R83: `step` takes an element in, `join` joins two lanes. -/
def rowReduce (step join : Nat → Nat → Nat) (init : Nat) (xs : List Nat) : Nat :=
  nth ([16, 8, 4, 2, 1].foldl (foldLanes join) (lanesOf step init xs)) 0

def rowSum (xs : List Nat) : Nat := rowReduce add32 add32 0 xs
def rowSquares (xs : List Nat) : Nat := rowReduce (fun a x => fma32 x x a) add32 0 xs
def rowMax (xs : List Nat) : Nat := rowReduce max32 max32 ninf32 xs

/-! ### MX blocks (R125) -/

/-- The floor of log2 of a finite value that is not zero. -/
def ilog (m : Nat) (e : Int) : Int := (Nat.log2 m : Int) + e

/-- emax of an MX format. -/
def mxEmax (fmt : Nat) : Int := if fmt = 5 then 8 else if fmt = 6 then 15 else 2

/-- A block of values in an MX format: scale code, element codes, elements saturated, NaN elements (R125, R126). -/
def mxBlock (fmt : Nat) (vs : List Num) : Nat × List Nat × Nat × Nat :=
  if vs.any (fun v => match v with | .fin _ _ _ => false | _ => true) then
    (0xFF, vs.map fun _ => 0, 0, vs.length)
  else
    let logs := vs.filterMap fun v => match v with
      | .fin _ m e => if m = 0 then none else some (ilog m e)
      | _ => none
    let x : Int := match logs with
      | [] => -127
      | l :: ls => max (-127) (min 127 (ls.foldl max l - mxEmax fmt))
    let cs := vs.map fun v => convert fmt (v.mul (.fin false 1 (-x)))
    ((x + 127).toNat, cs.map Prod.fst, (cs.filter Prod.snd).length, 0)

/-- A list cut into blocks of 32; the last may be shorter. -/
def blocks32 {α : Type} (xs : List α) : List (List α) :=
  (List.range ((xs.length + 31) / 32)).map fun b => (xs.drop (32 * b)).take 32

/-! ### Products and their sums (R117 to R121) -/

/-- The exact sum of a list of values. -/
def exactSum (vs : List Num) : Num := vs.foldl Num.add (.zero false)

/-- A chunk's value in 8-bit float and 4-bit arithmetic: the exact sum, rounded once (R118). -/
def chunkExact (ps : List Num) : Nat := to32 (exactSum ps)

/-- A chunk's value in BF16 arithmetic: one rounding per product (R118). A sum that has overflowed and meets an infinite product
of the other sign gives NaN, as the pseudocode adds (DEDUCED, log entry 67). -/
def chunkBf16 (ps : List Num) : Nat := ps.foldl (fun t p => to32 ((of32 t).add p)) 0

/-- A list cut into chunks of 256 (R118). -/
def chunks {α : Type} (xs : List α) : List (List α) :=
  (List.range ((xs.length + 255) / 256)).map fun c => (xs.drop (256 * c)).take 256

/-- Chunk values added in chunk-index order (R118, R120). -/
def addChunks : List Nat → Nat
  | [] => 0
  | v :: vs => vs.foldl add32 v

/-- The products of two lists of values. -/
def prods (a b : List Num) : List Num := List.zipWith Num.mul a b

/-- An element's chunk values from its products (R118). -/
def chunkValues (bf16 : Bool) (ps : List Num) : List Nat := (chunks ps).map (if bf16 then chunkBf16 else chunkExact)

end Sys2Proof.Machine
end

