-- ==== Sys2Proof/Machine/Movement.lean ====
section
/-!
DEFINITION. The tensor-movement class (chapter 05): its class checks in their order (R162), COPY, COPY_T, GATHER, SCATTER,
FILL and TIER_MOVE. A packet's accesses are probed in the order of R146 before any element moves.
-/
namespace Sys2Proof.Machine

variable {s0 : State}

/-! ### Class checks -/

/-- A format movement may carry: not a page format, and defined (R49, R144). -/
def mvFmt (fmt : Nat) : Bool := elemBits fmt != 0

/-- An index format (R151). -/
def idxFmt (fmt : Nat) : Bool := fmt == 9 || fmt == 12

/-- The formats a scatter reduction is defined for (R158). -/
def reduceFmt (red fmt : Nat) : Bool :=
  if red = 0 then true
  else if red = 1 then fmt == 0 || fmt == 1
  else [0, 1, 2, 3, 4, 8, 9, 12].contains fmt

/-- The source and destination name one format (R144). -/
def sameFmt (p : Pkt) (a b : Nat) : Flaw := if (p.desc a).fmt = (p.desc b).fmt then none else flawAt stFormat b 52 0

/-- Equal RANK and SIZE (R162). -/
def sameShape (p : Pkt) (a b : Nat) : Flaw :=
  firstFlaw (rankFlaw p b (p.desc a).rank :: (List.range (p.desc a).rank).map fun d => sizeFlaw p b d ((p.desc a).size d))

/-- The transposed shape (R148). -/
def turnedShape (p : Pkt) : Flaw :=
  let a := p.desc 2
  if a.rank < 2 then flawAt stBadParam 2 56 0
  else firstFlaw (rankFlaw p 3 a.rank :: (List.range a.rank).map fun d =>
    sizeFlaw p 3 d (a.size (if d = 0 then 1 else if d = 1 then 0 else d)))

/-- The shape of `rows`, whose dimensions are those of `whole` but its last, then those of the index tensor (R151, R156). A
movement that would split an MX block is refused (R144). -/
def indexedShape (p : Pkt) (whole rows : Nat) : Flaw :=
  let a := p.desc whole
  let i := p.desc 3
  let n := a.rank - 1
  if 6 < n + i.rank then flawAt stBadParam rows 56 0
  else if isMx a.fmt ∧ a.rank = 1 then flawAt stBadParam whole 56 0
  else firstFlaw (rankFlaw p rows (n + i.rank) ::
    ((List.range n).map fun d => sizeFlaw p rows d (a.size d)) ++
    (List.range i.rank).map fun j => sizeFlaw p rows (n + j) (i.size j))

/-- Reserved bits of W5 that R162 checks with the class: bits outside a mask. -/
def spareFlaw (p : Pkt) (mask : Nat) : Flaw :=
  match firstReserved p.words [(5, mask)] with
  | some (i, b) => some (stBadParam, wordDetail i b)
  | none => none

/-- The class checks of a movement packet that need no memory (R162, R164). -/
def movementFlaw (p : Pkt) : Flaw :=
  let fmts (ws : List Nat) : Flaw := firstFlaw (ws.map fun w => fmtFlaw p w mvFmt)
  match p.op with
  | 0x34 => firstFlaw [formFlaw p [2], fmts [2], boundsFlaw p [2], injFlaw p 2, overlapFlaw p 2 []]
  | 0x31 =>
    firstFlaw [formFlaw p [2, 3], fmts [2, 3], fmtFlaw p 2 (fun f => !isMx f), sameFmt p 2 3, turnedShape p,
      spareFlaw p 0, boundsFlaw p [2, 3], injFlaw p 3, overlapFlaw p 3 [p.desc 2]]
  | 0x32 =>
    firstFlaw [formFlaw p [2, 3, 4], fmts [2], fmtFlaw p 3 idxFmt, fmts [4], sameFmt p 2 4, indexedShape p 2 4,
      spareFlaw p 0xF03, boundsFlaw p [2, 3, 4], injFlaw p 4, overlapFlaw p 4 [p.desc 2, p.desc 3]]
  | 0x33 =>
    let red := p.f 5 5 4
    firstFlaw [formFlaw p [2, 3, 4], fmtFlaw p 2 (fun f => mvFmt f && reduceFmt red f), fmtFlaw p 3 idxFmt, fmts [4],
      sameFmt p 2 4, indexedShape p 4 2, spareFlaw p 0xF73, boundsFlaw p [2, 3, 4],
      (if red = 0 ∧ p.b 5 6 = false then injFlaw p 4 else none), overlapFlaw p 4 [p.desc 2, p.desc 3]]
  | _ =>
    firstFlaw [formFlaw p [2, 3], fmts [2, 3], sameFmt p 2 3, sameShape p 2 3, boundsFlaw p [2, 3], injFlaw p 3,
      overlapFlaw p 3 [p.desc 2]]

/-! ### The division among dies (R163) -/

/-- The positions of n that CD0 takes: all, none, or the lower half with the extra one. -/
def lowerShare (dies n : Nat) : Nat := if dies = 1 then n else if dies = 2 then 0 else (n + 1) / 2

/-- A count of positions rises on each die: those below the cut on CD0, the others on CD1. -/
def countOn (f : Fld) (cut : Nat) (ps : List Nat) : M s0 Unit := do
  let lo := (ps.filter fun x => decide (x < cut)).length
  if lo ≠ 0 then bump f lo 0
  if ps.length ≠ lo then bump f (ps.length - lo) 1

/-- Elements of a SCATTER whose index is out of range rise on a die: under a reduction or LAST each die has half of the
destination's extent, and a dropped contribution reaches none of it, so which die counts it stays open (R153, R163, log
entry 8). -/
def countDropped (dies n : Nat) : M s0 Unit := do
  let m ← takeFresh
  let lo := if dies = 1 then n else if dies = 2 then 0 else (Config.free m).toNat % (n + 1)
  if lo ≠ 0 then bump F.cdDmaOobElems_count lo 0
  if n ≠ lo then bump F.cdDmaOobElems_count (n - lo) 1

/-! ### Moving elements -/

/-- The offset is the first of its MX block. -/
def blockStart (t : Desc) (l : Int) : Bool := isMx t.fmt && l % 32 == 0

/-- The accesses of one position in the order of R146: source element, source scale, destination element, destination
scale. -/
def moveProbes (src dst : Desc) (ls ld : Int) : List (Nat × Bool) :=
  [(src.addr ls, false)] ++ (if blockStart src ls then [(src.scaleAddr ls, false)] else []) ++
  [(dst.addr ld, true)] ++ (if blockStart dst ld then [(dst.scaleAddr ld, true)] else [])

/-- One position read: the writes it makes. -/
def moveRead (ac : Acc) (src dst : Desc) (ls ld : Int) : A s0 (List Wr) := do
  let v ← rdElem ac src ls
  if blockStart src ls then
    let sc ← rdScale ac src ls
    pure [dst.store ld v, dst.storeScale ld sc]
  else pure [dst.store ld v]

/-- Positions read in order. -/
def moveReads (ac : Acc) (src dst : Desc) : List (Int × Int) → A s0 (List Wr)
  | [] => pure []
  | (ls, ld) :: rest => do
    let w ← moveRead ac src dst ls ld
    let ws ← moveReads ac src dst rest
    pure (w ++ ws)

/-- Elements moved between views, in a list of source and destination offsets: probed, read, written. -/
def moveAll (ac : Acc) (src dst : Desc) (pairs : List (Int × Int)) : A s0 Unit := do
  probeAll ac (pairs.flatMap fun (ls, ld) => moveProbes src dst ls ld)
  let ws ← moveReads ac src dst pairs
  wrAll ac ws

/-- The source and destination offsets of a copy. -/
def copyPairs (src dst : Desc) : List (Int × Int) :=
  (List.range dst.count).map fun p => (src.offsetAt p, dst.offsetAt p)

/-- An index tuple with its two innermost entries exchanged. -/
def turned : List Nat → List Nat
  | a :: b :: rest => b :: a :: rest
  | l => l

/-- The offsets of a transposition (R148). -/
def turnPairs (src dst : Desc) : List (Int × Int) :=
  (List.range dst.count).map fun p => (src.offset (turned (unrank dst.sizes p)), dst.offsetAt p)

/-- The operation of COPY. -/
def copyBody (p : Pkt) (ac : Acc) : A s0 Fin := do
  moveAll ac (p.desc 2) (p.desc 3) (copyPairs (p.desc 2) (p.desc 3))
  pure {}

/-- `COPY` (R144). -/
def execCopy (c id : Nat) (s : State) : Outcome := M.go s (opOf c id [0x30] 0 copyBody)

/-- First positions of the turn-tile blocks of a transposition (R149). -/
def turnBlocks (dst : Desc) : List Nat :=
  let t := 32 / elemBytes dst.fmt
  (List.range dst.count).filter fun p => dst.size 0 != 0 && p % dst.size 0 % t == 0 && p / dst.size 0 % dst.size 1 % t == 0

/-- What COPY_T does (its command below). -/
def copyTBody (p : Pkt) (ac : Acc) : A s0 Fin := do
  let dst := p.desc 3
  moveAll ac (p.desc 2) dst (turnPairs (p.desc 2) dst)
  (countOn F.cdDmaTurnBlocks_count (lowerShare p.dies dst.count) (turnBlocks dst) : M s0 _)
  pure {}

/-- `COPY_T` (R148). -/
def execCopyT (c id : Nat) (s : State) : Outcome := M.go s (opOf c id [0x31] 0 copyTBody)

/-! ### Indexes (R151 to R154) -/

/-- An index value under BOUNDS: the row, or none where it is out of range (R153). -/
def resolveIndex (bounds n : Nat) (k : Int) : Option Nat :=
  if 0 ≤ k ∧ k < n then some k.toNat
  else if bounds = 1 ∧ -(n : Int) ≤ k ∧ k < 0 then some (k + n).toNat
  else none

/-- The signed value of an index element's code. -/
def idxValue (fmt v : Nat) : Int := signed (elemBits fmt) v

/-- A whole index tensor's values. -/
def rdIndexes (ac : Acc) (t : Desc) : A s0 (List Int) := do
  let vs ← rdElems ac t t.offsets
  pure (vs.map fun (v, _) => idxValue t.fmt v)

/-- A position as DETAIL[63:32] shows it (R154, R157). -/
def positionDetail (p : Nat) : Nat := 3 + 0xFF * 256 + min p 0xFFFFFFFF * 2 ^ 32

/-- The scan of the whole index tensor under FAULT (R154). -/
def boundsScan (ac : Acc) (t : Desc) (bounds n : Nat) : A s0 Unit := do
  if bounds = 2 then
    let ks ← rdIndexes ac t
    match ks.findIdx? fun k => (resolveIndex bounds n k).isNone with
    | some p => throw (.fail stBounds (positionDetail p))
    | none => pure ()

/-- The out-of-range flag at completion (R152, R153); a packet that ends with another status than ST_OK leaves the predicate. -/
def setFlagPred (ac : Acc) (p : Pkt) (any : Bool) : A s0 Unit := do
  if p.b 5 11 && !p.exhausted then (setPred ac.ctx (p.f 5 10 8) any : M s0 _)

/-- The accesses of one indexed position: the index element probed and read, then the accesses that follow from it. The
answer is the position's row. -/
def indexStep (ac : Acc) (idx : Desc) (bounds n b : Nat) (after : Option Nat → List (Nat × Bool)) : A s0 (Option Nat) := do
  let l := idx.offsetAt b
  probe ac (idx.addr l) false
  let v ← rdElem ac idx l
  let k := resolveIndex bounds n (idxValue idx.fmt v)
  probeAll ac (after k)
  pure k

/-- The rows of a list of positions, each with its index position and the accesses that follow. -/
def indexWalk (ac : Acc) (idx : Desc) (bounds n : Nat) (bOf : Nat → Nat) (after : Nat → Option Nat → List (Nat × Bool)) :
    List Nat → A s0 (List (Nat × Option Nat))
  | [] => pure []
  | p :: ps => do
    let k ← indexStep ac idx bounds n (bOf p) (after p)
    let rest ← indexWalk ac idx bounds n bOf after ps
    pure ((p, k) :: rest)

/-- The number of elements of one row: the dimensions but the last. -/
def Desc.rowCount (t : Desc) : Nat := (t.sizes.take (t.rank - 1)).foldl (· * ·) 1

/-- The size of the indexed dimension, the last. -/
def Desc.lastSize (t : Desc) : Nat := t.size (t.rank - 1)

/-- The offset of position a of row k. -/
def Desc.rowOffset (t : Desc) (a k : Nat) : Int := t.offset (unrank (t.sizes.take (t.rank - 1)) a ++ [k])

/-- The zero of a destination position whose index is out of range (R153). -/
def zeroWrites (dst : Desc) (ld : Int) : List Wr :=
  dst.store ld 0 :: if blockStart dst ld then [dst.storeScale ld 0] else []

/-- A GATHER's addresses probed in enumeration order of the destination (R146); the row of each position. -/
def gatherWalk (p : Pkt) (ac : Acc) : A s0 (List (Nat × Option Nat)) :=
  let src := p.desc 2
  let dst := p.desc 4
  let row := src.rowCount
  indexWalk ac (p.desc 3) (p.f 5 1 0) src.lastSize (· / row) (fun q k =>
    match k with
    | some k => moveProbes src dst (src.rowOffset (q % row) k) (dst.offsetAt q)
    | none => (dst.addr (dst.offsetAt q), true) ::
        if blockStart dst (dst.offsetAt q) then [(dst.scaleAddr (dst.offsetAt q), true)] else []) (List.range dst.count)

/-- A scan of an index tensor. Under ABORT a fault it meets starts the probe pass, which finds the packet's first (R146). -/
def scanned (ac : Acc) (scan probes : A s0 Unit) : A s0 Unit :=
  tryCatch scan fun e => do
    match e with
    | .flt _ _ _ _ => if !(← (cur : M s0 _)).restarts ac.ctx then probes
    | _ => pure ()
    throw e

/-- The scan a GATHER makes before it writes (R154, R162). -/
def gatherScan (p : Pkt) (ac : Acc) : A s0 Unit :=
  scanned ac (boundsScan ac (p.desc 3) (p.f 5 1 0) (p.desc 2).lastSize) do
    let _ ← gatherWalk p ac
    pure ()

/-- The operation of GATHER (R151). The scan of validation is made again, as the index tensor may have changed since (log entry
62). -/
def gatherBody (p : Pkt) (ac : Acc) : A s0 Fin := do
  let src := p.desc 2
  let dst := p.desc 4
  let row := src.rowCount
  gatherScan p ac
  let rows ← gatherWalk p ac
  let ws ← moveReads ac src dst (rows.filterMap fun (q, k) => k.map fun k => (src.rowOffset (q % row) k, dst.offsetAt q))
  let out := rows.filterMap fun (q, k) => if k.isNone then some q else none
  wrAll ac (ws ++ out.flatMap fun q => zeroWrites dst (dst.offsetAt q))
  (countOn F.cdDmaOobElems_count (lowerShare p.dies dst.count) out : M s0 _)
  setFlagPred ac p !out.isEmpty
  pure {}

/-- `GATHER` (R151). -/
def execGather (c id : Nat) (s : State) : Outcome := M.go s (opOf c id [0x32] 0 gatherBody)

/-! ### SCATTER (R156 to R159) -/

/-- The lowest position whose row equals that of an earlier position (R157). -/
def firstRepeat : List (Option Nat) → List Nat → Nat → Option Nat
  | [], _, _ => none
  | none :: ks, seen, p => firstRepeat ks seen (p + 1)
  | some k :: ks, seen, p => if seen.contains k then some p else firstRepeat ks (k :: seen) (p + 1)

/-- The scan for duplicates with REDUCE 0 and LAST 0 (R157). -/
def repeatScan (ac : Acc) (idx : Desc) (bounds n row : Nat) : A s0 Unit := do
  let ks ← rdIndexes ac idx
  if row ≠ 0 then
    match firstRepeat (ks.map (resolveIndex bounds n)) [] 0 with
    | some p => throw (.fail stAlias (positionDetail p))
    | none => pure ()

/-- The probes of one contribution after its index element: update element and scale, destination element and scale. -/
def scatterProbes (upd dst : Desc) (q : Nat) (row : Nat) (k : Option Nat) : List (Nat × Bool) :=
  match k with
  | some k => moveProbes upd dst (upd.offsetAt q) (dst.rowOffset (q % row) k)
  | none => (upd.addr (upd.offsetAt q), false) ::
      if blockStart upd (upd.offsetAt q) then [(upd.scaleAddr (upd.offsetAt q), false)] else []

/-- A SCATTER's addresses probed in contribution order (R146); the row of each contribution. -/
def scatterWalk (p : Pkt) (ac : Acc) : A s0 (List (Nat × Option Nat)) :=
  let dst := p.desc 4
  indexWalk ac (p.desc 3) (p.f 5 1 0) dst.lastSize (· / dst.rowCount)
    (fun q k => scatterProbes (p.desc 2) dst q dst.rowCount k) (List.range (p.desc 2).count)

/-- The scans a SCATTER makes before it writes (R154, R157, R162). -/
def scatterScan (p : Pkt) (ac : Acc) : A s0 Unit :=
  let idx := p.desc 3
  let dst := p.desc 4
  scanned ac (do
      boundsScan ac idx (p.f 5 1 0) dst.lastSize
      if p.f 5 5 4 = 0 ∧ p.b 5 6 = false then repeatScan ac idx (p.f 5 1 0) dst.lastSize dst.rowCount) do
    let _ ← scatterWalk p ac
    pure ()

/-- Contributions kept for LAST: the highest position of each destination offset (R157). -/
def lastOnly (cs : List (Int × Int)) : List (Int × Int) :=
  cs.foldl (fun acc c => acc.filter (fun x => x.2 != c.2) ++ [c]) []

/-- Integer or floating-point maximum or minimum of two codes of a format (R158). -/
def extreme (big : Bool) (fmt a b : Nat) : Nat :=
  if fmt = 8 ∨ fmt = 9 ∨ fmt = 12 then
    let n := elemBits fmt
    if (signed n a < signed n b) = big then b else a
  else
    let x := widen fmt a
    let y := widen fmt b
    (convert fmt (of32 (if big then max32 x y else min32 x y))).1

/-- The running values of the destination offsets a reduction reaches, in order of first reach: FP32 for ADD, codes of the
format otherwise. -/
def reduceAll (ac : Acc) (red : Nat) (upd dst : Desc) : List (Int × Int) → List (Int × Nat) → A s0 (List (Int × Nat))
  | [], acc => pure acc
  | (lu, ld) :: rest, acc => do
    let v ← rdElem ac upd lu
    let old ← match acc.find? (fun e => e.1 == ld) with
      | some e => pure e.2
      | none => do
        let w ← rdDestElem ac dst ld
        pure (if red = 1 then widen dst.fmt w else w)
    let new := if red = 1 then add32 old (widen upd.fmt v) else extreme (red == 2) dst.fmt old v
    let acc' := if acc.any (fun e => e.1 == ld) then acc.map fun e => if e.1 == ld then (ld, new) else e
      else acc ++ [(ld, new)]
    reduceAll ac red upd dst rest acc'

/-- The operation of SCATTER (R156 to R159). -/
def scatterBody (p : Pkt) (ac : Acc) : A s0 Fin := do
  let upd := p.desc 2
  let dst := p.desc 4
  let red := p.f 5 5 4
  let last := p.b 5 6
  let row := dst.rowCount
  scatterScan p ac
  let rows ← scatterWalk p ac
  let cs := rows.filterMap fun (q, k) => k.map fun k => (upd.offsetAt q, dst.rowOffset (q % row) k)
  if red = 0 then
    let ws ← moveReads ac upd dst (if last then lastOnly cs else cs)
    wrAll ac ws
  else
    let vs ← reduceAll ac red upd dst cs []
    wrAll ac (vs.map fun (l, v) => dst.store l (if red = 1 then (convert dst.fmt (of32 v)).1 else v))
  let out := rows.filterMap fun (q, k) => if k.isNone then some q else none
  (if red = 0 ∧ last = false then countOn F.cdDmaOobElems_count (lowerShare p.dies upd.count) out
    else countDropped p.dies out.length : M s0 _)
  setFlagPred ac p !out.isEmpty
  pure {}

/-- `SCATTER` (R157). -/
def execScatter (c id : Nat) (s : State) : Outcome := M.go s (opOf c id [0x33] 0 scatterBody)

/-! ### FILL and TIER_MOVE -/

/-- The writes of a FILL (R164). -/
def fillWrites (dst : Desc) (pattern : Nat) : List Wr :=
  dst.offsets.flatMap fun l => dst.store l pattern ::
    if blockStart dst l then [dst.storeScale l (bits pattern 63 56)] else []

/-- What FILL does (its command below). -/
def fillBody (p : Pkt) (ac : Acc) : A s0 Fin := do
  let dst := p.desc 2
  probeAll ac (dst.offsets.flatMap fun l => (dst.addr l, true) ::
    if blockStart dst l then [(dst.scaleAddr l, true)] else [])
  wrAll ac (fillWrites dst (p.w 3))
  pure {}

/-- `FILL` (R164). -/
def execFill (c id : Nat) (s : State) : Outcome := M.go s (opOf c id [0x34] 0 fillBody)

/-- The tier of a mapped page (R165, R168): 0 the stacks, 1 the deep tier, 2 companion memory, 3 set buffers, 4 anything else. -/
def tierOf (a : Nat) : Nat :=
  match regionOf a with
  | .stack _ => 0
  | .deep => 1
  | .companion => 2
  | .setBuf _ => 3
  | _ => 4

/-- The leaves that map a list of pages: DPA of the leaf and its size; a failed walk is a fault. -/
def leavesOf (ac : Acc) (write : Bool) : List Nat → A s0 (List (Nat × Nat))
  | [] => pure []
  | va :: vas => do
    match ← leafOf ac va with
    | .error st => if st = stPoison then throw (.poison va 0) else throw (.flt st va write ac.source)
    | .ok (e, size) => do
      let base := bits e 47 8 * 256
      if base % size ≠ 0 ∨ bits e 63 48 ≠ 0 ∨ bits e 7 5 ≠ 0 ∨ rangeEnd base < base + size ∨
          (← (cur : M s0 _)).backed (base + va % size) = false then throw (.flt stXlate va write ac.source)
      let rest ← leavesOf ac write vas
      pure ((base, size) :: rest)

/-- The operands of a TIER_MOVE lie each in one tier and exactly one of them in the deep tier; the destination's pages lie
in the partition's windows (R165, R311). -/
def tierChecks (ac : Acc) (src dst : Desc) : A s0 Unit := do
  let a ← leavesOf ac false src.pages
  let b ← leavesOf ac true dst.pages
  let ta := a.map fun x => tierOf x.1
  let tb := b.map fun x => tierOf x.1
  let one (l : List Nat) : Bool := l.all fun x => x == l.headD 0
  if !one ta then throw (.fail stBadParam (wordDetail 2 0xFF))
  if !one tb then throw (.fail stBadParam (wordDetail 3 0xFF))
  if (ta.headD 0 == 1) == (tb.headD 0 == 1) then throw (.fail stBadParam (wordDetail 3 0xFF))
  let s ← (cur : M s0 _)
  if b.any fun (base, size) => (s.windowOf ac.part base size).isNone then throw (.fail stQuota 0)

/-- The checks of a movement packet at validation, those that read memory last (R162): the scans, which the A12 makes, and
the caller's translation of a TIER_MOVE's pages (R165). -/
def movementChecks (p : Pkt) (ac : Acc) : A s0 Unit := do
  match movementFlaw p with
  | some (st, d) => throw (.fail st d)
  | none =>
    match p.op with
    | 0x32 => gatherScan p { ac with source := 0 }
    | 0x33 => scatterScan p { ac with source := 0 }
    | 0x35 => if !(p.desc 2).empty then tierChecks ac (p.desc 2) (p.desc 3)
    | _ => pure ()

/-- `TIER_MOVE`: a COPY once its pages' tiers are checked (R165). -/
def execTierMove (c id : Nat) (s : State) : Outcome := M.go s (opOf c id [0x35] 0 copyBody)

end Sys2Proof.Machine
end

