-- ==== Sys2Proof/Machine/Serving.lean ====
section
/-!
DEFINITION. The serving engine's packets and registers (chapter 09): opening, closing and cancelling requests, adapters,
steps and their commit, latency, counts, snapshots. SAMPLE stands with the arithmetic it needs.
-/
namespace Sys2Proof.Machine

variable {s0 : State}

/-! ### Tenants and partitions (R282) -/

/-- A tenant is served by a partition (R281, R282). -/
def State.tenantOk (s : State) (t p : Nat) : Bool := s.flag F.srvTenant_valid t && s.fld F.srvTenant_partition t == p

/-- A slot may be named by a partition: it is FREE, or its tenant is served by the partition and it is held there (R282). -/
def State.slotOk (s : State) (n p : Nat) : Bool :=
  s.slotState n == 0 || (s.slotPart n == p && s.tenantOk (s.slotTenant n) p)

/-! ### Counts (R299) -/

/-- The bucket of a token (R299). -/
def bucketOf (v : Nat) : Nat := (v * 0x9E3779B1) % 2 ^ 32 / 2 ^ 24

/-- The index of a token's entry in a list of entries (R299). -/
def findToken (v : Nat) (es : List Nat) : Option Nat := es.findIdx? fun e => bit e 63 && bits e 31 0 == v

/-- Count table, overflow list and overflow length of a slot (R283, R286). -/
def State.countBase (s : State) (n : Nat) : Nat := s.slotF n 2 51 0
def State.ovfBase (s : State) (n : Nat) : Nat := s.slotF n 3 51 0
def State.ovfLen (s : State) (n : Nat) : Nat := s.slotF n 23 63 32

/-- A counted token increments its entry, fills a free one or is appended to the overflow list (R299). -/
def countToken (ac : Acc) (n v : Nat) : A s0 Unit := do
  let s ← (cur : M s0 _)
  let b := s.countBase n + 64 * bucketOf v
  let es ← rdWords ac b 8
  match findToken v es with
  | some i => wrAll ac [{ va := b + 8 * i, bs := toBytes 8 (setBits (nth es i) 62 32 (bits (nth es i) 62 32 + 1)) }]
  | none =>
    let ov ← rdWords ac (s.ovfBase n) (s.ovfLen n)
    match findToken v ov with
    | some i =>
      wrAll ac [{ va := s.ovfBase n + 8 * i, bs := toBytes 8 (setBits (nth ov i) 62 32 (bits (nth ov i) 62 32 + 1)) }]
    | none =>
      let fresh := 2 ^ 63 + 2 ^ 32 + v
      match es.findIdx? (fun e => !bit e 63) with
      | some i => wrAll ac [{ va := b + 8 * i, bs := toBytes 8 fresh }]
      | none =>
        wrAll ac [{ va := s.ovfBase n + 8 * s.ovfLen n, bs := toBytes 8 fresh }]
        (setSlotF n 23 63 32 (s.ovfLen n + 1) : M s0 _)

/-- Tokens counted in order. -/
def countTokens (ac : Acc) (n : Nat) : List Nat → A s0 Unit
  | [] => pure ()
  | v :: vs => do countToken ac n v; countTokens ac n vs

/-! ### REQ_OPEN (R283, R284) -/

/-- An FP32 code that is finite; finite and at least 0; finite and above 0. -/
def f32Finite (x : Nat) : Bool := bits x 30 23 != 255
def f32NonNeg (x : Nat) : Bool := f32Finite x && (!bit x 31 || bits x 30 0 == 0)
def f32Pos (x : Nat) : Bool := f32Finite x && !bit x 31 && bits x 30 0 != 0

/-- Every parameter lies in its range, and the reserved bits of P0 to P3 and P6 to P8 are 0 (R283, third row of R284). -/
def State.reqParamsOk (s : State) (ws : List Nat) : Bool :=
  let histCap := bits (nth ws 1) 63 32
  let histLen := bits (nth ws 1) 31 0
  let maxTok := bits (nth ws 4) 63 32
  let penPrompt := bit (nth ws 6) 16
  let topP := bits (nth ws 5) 63 32
  let vocab := s.fld F.featVocab_value
  bits (nth ws 0) 63 52 == 0 && bits (nth ws 2) 63 52 == 0 && bits (nth ws 3) 63 52 == 0 &&
  bits (nth ws 6) 63 17 == 0 && bits (nth ws 6) 15 11 == 0 && bits (nth ws 8) 63 32 == 0 &&
  decide (1 ≤ maxTok) && f32Pos topP && decide (topP ≤ 0x3F800000) && f32NonNeg (bits (nth ws 5) 31 0) &&
  decide (bits (nth ws 6) 10 0 ≤ bits vocab 47 32) &&
  f32Finite (bits (nth ws 7) 63 32) && f32Pos (bits (nth ws 7) 31 0) && f32Finite (bits (nth ws 8) 31 0) &&
  decide (histLen + maxTok ≤ histCap) &&
  decide (min (bits vocab 31 0) (if penPrompt then histCap else maxTok) ≤ bits (nth ws 4) 31 0)

/-- An address translated for its place alone: a page that may be read or that may be written will do. -/
def placeOf (ac : Acc) (va : Nat) : A s0 Nat := do
  let r ← leafOf ac va
  let s ← (cur : M s0 _)
  match leafAnswer s ac va false r with
  | .ok a => pure a
  | .error st =>
    match leafAnswer s ac va true r with
    | .ok a => pure a
    | .error _ => if st = 0x22 then throw (.poison va 0) else throw (.flt st va false ac.source)

/-- The n bytes at va lie in a tier: first and last byte translate there. -/
def liesIn (ac : Acc) (va n : Nat) (deep : Bool) : A s0 Bool := do
  let a ← placeOf ac va
  let b ← placeOf ac (va + (n - 1))
  let ok (x : Nat) : Bool := match regionOf x with
    | .stack _ => !deep
    | .deep => deep
    | _ => false
  pure (ok a && ok b)

/-- Request slots a partition holds outside FREE. -/
def State.slotsHeld (s : State) (p : Nat) : Nat :=
  (s.slots.filter fun e => s.slotState e.1 != 0 && s.slotPart e.1 == p).length

/-- The checks of R284; a failing one stops the packet with its status. -/
def reqOpenChecks (p : Pkt) (ac : Acc) (ws : List Nat) : A s0 Unit := do
  let s ← (cur : M s0 _)
  let n := p.f 2 12 0
  let ten := p.f 2 27 16
  let ad := p.f 2 43 32
  let en := p.b 2 44
  if !s.tenantOk ten ac.part then throw (.fail stProt (wordDetail 2 16))
  if en && (s.adaptersAt ad).bound && (s.adaptersAt ad).part != ac.part then throw (.fail stProt (wordDetail 2 32))
  if s.slotState n ≠ 0 && s.slotPart n ≠ ac.part then throw (.fail stProt (wordDetail 2 0))
  if s.slotState n ≠ 0 then throw (.fail stBadParam (wordDetail 2 0))
  if en && !(s.adaptersAt ad).bound then throw (.fail stBadParam (wordDetail 2 32))
  if !s.reqParamsOk ws then throw (.fail stBadParam (wordDetail 3 0xFF))
  let hist := bits (nth ws 0) 51 0
  let cnt := bits (nth ws 2) 51 0
  let ovf := bits (nth ws 3) 51 0
  if cnt % 16384 ≠ 0 ∨ ovf % 8 ≠ 0 then throw (.fail stBadParam (wordDetail 3 0xFF))
  let h ← liesIn ac hist (4 * bits (nth ws 1) 63 32) true
  let k ← liesIn ac cnt 16384 false
  let o ← liesIn ac ovf (max 1 (8 * bits (nth ws 4) 31 0)) true
  if !(h && k && o) then throw (.fail stBadParam (wordDetail 3 0xFF))
  if s.inForce F.schPartQuota_reqSlots ac.part ≤ s.slotsHeld ac.part then throw (.fail stQuota 0)

/-- The slot takes the request: the copy of P0 to P15 and the state words, OPENING; the adapter's users rise (R284, R286,
R289). -/
def takeSlot (c : Nat) (p : Pkt) (part : Nat) (ws : List Nat) : M s0 Unit := do
  let n := p.f 2 12 0
  let ad := p.f 2 43 32
  let en := p.b 2 44
  let open_ := if nth ws 12 = 0 then p.at_ else nth ws 12
  let w16 := p.f 2 27 16 * 2 ^ 20 + part * 2 ^ 16 + c * 2 ^ 8 + 1
  let w17 := b2n en * 2 ^ 44 + ad * 2 ^ 32
  let state := [w16, w17, open_, 0, 0, 0, 0, bits (nth ws 1) 31 0]
  asOneChange n (modSlotWords n fun _ => (List.range 16).map (nth ws) ++ state)
  modSlots n fun x => { x with opener := some (c, p.id), marked := false, closing := [], cancels := [] }
  adapterUsers n true

/-- The parameter block as read at validation (R283). -/
def Pkt.reqBlock (p : Pkt) : List Nat := p.captured 3

/-- The operation of REQ_OPEN: the count table zeroed, the prompt counted, the slot OPEN (R284). Its checks were made and its
slot taken when it issued (R285); one that has not got its slot makes them here. -/
def reqOpenBody (c : Nat) (p : Pkt) (ac : Acc) : A s0 Fin := do
  let n := p.f 2 12 0
  if ((← (cur : M s0 _)).slotsAt n).opener ≠ some (c, p.id) then
    reqOpenChecks p ac p.reqBlock
    (takeSlot c p ac.part p.reqBlock : M s0 _)
  let s ← (cur : M s0 _)
  wrAll ac [{ va := s.countBase n, bs := List.replicate 16384 0 }]
  (setSlotF n 23 63 32 0 : M s0 _)
  if s.slotF n 6 16 16 = 1 then
    let hist ← rd ac (s.slotF n 0 51 0) (4 * s.slotF n 1 31 0)
    countTokens ac n ((List.range (s.slotF n 1 31 0)).map fun i => ofBytes ((hist.drop (4 * i)).take 4))
  (modSlots n fun x => { x with opener := none } : M s0 _)
  (asOneChange n (setSlotState n 2) : M s0 _)
  if (← (cur : M s0 _)).slotFlag n 2 then (asOneChange n (becomeCancelled n) : M s0 _)
  (endCancels n : M s0 _)
  pure {}

/-- `REQ_OPEN` (R284). A REQ_OPEN that fails leaves its slot FREE. -/
def execReqOpen (c id : Nat) (s : State) : Outcome :=
  M.go s (do
    if s.loaded c then
      onIssued c id [0x62] fun p => runPktWith c p 2 false (do
        let n := p.f 2 12 0
        if ((← cur).slotsAt n).opener = some (c, p.id) then
          modSlots n fun x => { x with opener := none }
          freeSlot n) (reqOpenBody c p))

/-! ### REQ_CLOSE, REQ_CANCEL and the companion's cancel (R287, R302 to R304) -/

/-- `REQ_CLOSE` (R287). -/
def execReqClose (c id : Nat) (s : State) : Outcome :=
  M.go s (ctlOf c id 0x63 fun p => do
    let s1 ← cur
    let n := p.f 2 12 0
    if !s1.slotOk n (s1.partOf c) then endPkt c p.id stProt (wordDetail 2 0)
    else match s1.slotState n with
      | 0 => endPkt c p.id stBadParam (wordDetail 2 0)
      | 1 => pure ()
      | 3 => do
        let _ ← latchCancel n
        modSlots n fun x => { x with closing := x.closing ++ [(c, p.id)] }
        waitPkt c p.id
      | st => do
        if st = 2 then let _ ← latchCancel n
        endPkt c p.id stOk (s1.slotDelivered n)
        freeSlot n)

/-- REQ_CANCEL latches at its issue (R302, R303). What it met stands in `aux`: the slot's state, or 9 for a slot that is not the
partition's; where the latch has yet to take full effect the slot keeps the packet (R304). -/
def latchAtIssue (c : Nat) (p : Pkt) : M s0 Unit := do
  let s ← cur
  let n := p.f 2 12 0
  let st := s.slotState n
  if !s.slotOk n (s.partOf c) then modPkt c p.id fun x => { x with aux := [9] }
  else
    let _ ← latchCancel n
    modPkt c p.id fun x => { x with aux := [st] }
    if st = 1 ∨ st = 3 then modSlots n fun x => { x with cancels := x.cancels ++ [(c, p.id)] }

/-- `REQ_CANCEL` (R304): the packet ends, or waits until its latch has taken full effect. -/
def execReqCancel (c id : Nat) (s : State) : Outcome :=
  M.go s (ctlOf c id 0x64 fun p => do
    if p.aux.isEmpty then latchAtIssue c p
    let s1 ← cur
    let n := p.f 2 12 0
    match nth (((s1.pkt c id).map Pkt.aux).getD []) 0 with
    | 0 => endPkt c p.id stBadParam (wordDetail 2 0)
    | 1 | 3 => waitPkt c p.id
    | 2 => endPkt c p.id stCancelled (s1.cancelDetail n)
    | 9 => endPkt c p.id stProt (wordDetail 2 0)
    | _ => endPkt c p.id stOk (s1.cancelDetail n))

/-- `CANCEL_REGISTER` (R302): SRV_CANCEL.GO latches a cancel; a FREE slot sets CANCEL_IGNORED. -/
def cancelRegister (n : Nat) : M s0 Unit := do
  let ok ← latchCancel n
  if !ok then setFlag F.srvStatus_cancelIgnored true

def execCancelRegister (slot : Nat) (s : State) : Outcome :=
  M.go s (atReg ⟨.srvCancel, 0, 0, 0⟩ (cancelRegister (slot % 8192)))

/-- `REQ_SNAPSHOT` (R286). -/
def reqSnapshot (n : Nat) : M s0 Unit := do
  let s ← cur
  setF F.srvReqSel_slot n
  each (List.range 24) fun i => setReg ⟨.srvReqData, i, 0, 0⟩ (s.slotW n i)

def execReqSnapshot (slot : Nat) (s : State) : Outcome :=
  M.go s (atReg ⟨.srvReqSel, 0, 0, 0⟩ (reqSnapshot (slot % 8192)))

/-- `ADAPTER_SNAPSHOT` (R306). -/
def adapterSnapshot (a : Nat) : M s0 Unit := do
  let x := (← cur).adaptersAt a
  setF F.srvAdapterSel_adapter a
  setF F.srvAdapterData0_image (if x.bound then x.image else 0)
  setF F.srvAdapterData1_users x.users
  setFlag F.srvAdapterData1_bound x.bound
  setF F.srvAdapterData1_partition x.part
  setF F.srvAdapterData1_rank x.rank

def execAdapterSnapshot (a : Nat) (s : State) : Outcome :=
  M.go s (atReg ⟨.srvAdapterSel, 0, 0, 0⟩ (adapterSnapshot (a % 4096)))

/-! ### ADAPTER_BIND (R289) -/

/-- Adapters a partition holds bound. -/
def State.adaptersHeld (s : State) (p : Nat) : Nat :=
  (s.adapters.filter fun e => e.2.bound && e.2.part == p).length

/-- The operation of ADAPTER_BIND (R289). -/
def adapterBindBody (p : Pkt) (ac : Acc) : A s0 Fin := do
  let s ← (cur : M s0 _)
  let n := p.f 2 11 0
  let x := s.adaptersAt n
  let rank := p.f 4 7 0
  if x.bound && x.part != ac.part then throw (.fail stProt (wordDetail 2 0))
  if p.b 4 8 then
    if p.w 3 ≠ 0 then throw (.fail stBadParam (wordDetail 3 (lowestBit 64 (p.w 3))))
    if rank ≠ 0 then throw (.fail stBadParam (wordDetail 4 (lowestBit 8 rank)))
    if x.bound && x.users != 0 then throw (.fail stBadParam (wordDetail 2 0))
    (modAdapters n fun _ => {} : M s0 _)
    pure {}
  else
    if p.w 3 % 4096 ≠ 0 then throw (.fail stBadParam (wordDetail 3 (lowestBit 12 (p.w 3))))
    let deep ← liesIn ac (p.w 3) 512 true
    if !deep then throw (.fail stBadParam (wordDetail 3 0))
    if rank = 0 ∨ bits (s.fld F.featAdapters_value) 23 16 < rank then throw (.fail stBadParam (wordDetail 4 0))
    if x.bound && x.users != 0 then throw (.fail stBadParam (wordDetail 2 0))
    if !x.bound && s.inForce F.schPartQuota_adapters ac.part ≤ s.adaptersHeld ac.part then throw (.fail stQuota 0)
    (modAdapters n fun _ => { bound := true, image := p.w 3, part := ac.part, rank := rank, users := 0 } : M s0 _)
    pure {}

/-- `ADAPTER_BIND` (R289). -/
def execAdapterBind (c id : Nat) (s : State) : Outcome := M.go s (opOf c id [0x66] 2 adapterBindBody)

/-! ### Steps (R292 to R297) -/

/-- A batch table is well formed and has the count the packet names (R292, R293). -/
def batchOk (hdr : List Nat) (count : Nat) : Bool :=
  bits (nth hdr 0) 63 52 == 0 && nth hdr 1 == count && bits (nth hdr 2) 63 52 == 0 &&
    (List.range 5).all fun i => nth hdr (3 + i) == 0

/-- A row entry is well formed (R292). -/
def rowOk (r : Nat) : Bool :=
  bits r 62 49 == 0 && bits r 31 13 == 0 && decide (bits r 48 32 ≤ 65536)

/-- SAMPLE of a row entry. -/
def rowSample (r : Nat) : Bool := bit r 63

/-- A list names no number twice. -/
def noRepeat : List Nat → Bool
  | [] => true
  | x :: xs => !xs.contains x && noRepeat xs

/-- The operation of STEP_BEGIN (R293): it waits while a named slot is OPENING. -/
def stepBeginBody (c : Nat) (p : Pkt) (ac : Acc) : A s0 Fin := do
  let s ← (cur : M s0 _)
  let count := p.f 2 45 32
  let hdr ← rdWords ac (p.w 3) 8
  let rows ← rdWords ac (bits (nth hdr 0) 51 0) (min count (bits (nth hdr 1) 13 0))
  let ns := rows.map rowSlot
  if ns.any fun n => s.slotState n == 1 then throw (.hold none)
  if ns.any fun n => !s.slotOk n ac.part then throw (.fail stProt (wordDetail 3 0))
  if (s.ctxsAt c).step.isSome then throw (.fail stBadParam (wordDetail 2 0))
  if !batchOk hdr count || !rows.all rowOk || rows.length != count then throw (.fail stBadParam (wordDetail 3 0xFF))
  if !noRepeat ns then throw (.fail stBadParam (wordDetail 3 0xFF))
  if ns.any fun n => s.slotState n == 0 || s.slotState n == 3 then throw (.fail stBadParam (wordDetail 3 0xFF))
  let idle := (List.range rows.length).filter fun i => s.slotState (nth ns i) != 2
  let st : Step := {
    stepId := p.f 2 31 0, attnMax := s.fld F.hbSplitCfg_attnNearMax
    expertMax := s.fld F.hbSplitCfg_expertNearMax, batch := p.w 3, flags := bits (nth hdr 2) 51 0, rows := rows
    idle := idle, first := p.id }
  let enc : Encore := {
    scalars := (List.range 64).map (s.scalar c), preds := s.fld F.clrPred_p c
    events := (List.range 32).map fun e => s.fld F.clrEvent_count c e, lost := !s.flag F.clrEncCfg_en c }
  (each ns fun n => do if (← cur).slotState n = 2 then asOneChange n (setSlotState n 3) : M s0 _)
  (modCtxs c fun x => { x with step := some st, enc := enc } : M s0 _)
  pure {}

/-- `STEP_BEGIN` (R293). -/
def execStepBegin (c id : Nat) (s : State) : Outcome := M.go s (opOf c id [0x60] 2 (stepBeginBody c))

/-- `STEP_END` (R295): a STEP_ID that is not the open step's is refused; otherwise the packet waits for the commit point. -/
def execStepEnd (c id : Nat) (s : State) : Outcome :=
  M.go s (ctlOf c id 0x61 fun p => do
    match ((← cur).ctxsAt c).step with
    | some st =>
      if st.stepId = p.f 2 31 0 then
        modCtxs c fun x => { x with step := some { st with ending := some p.id } }
        waitPkt c p.id
      else endPkt c p.id stBadParam (wordDetail 2 0)
    | none => endPkt c p.id stBadParam (wordDetail 2 0))

/-- The CALLs that a packet runs under, the innermost first. -/
def State.callsAbove (s : State) (c : Nat) : (fuel id : Nat) → List Nat
  | 0, _ => []
  | fuel + 1, id =>
    match (s.pkt c id).bind Pkt.parent with
    | some up => up :: s.callsAbove c fuel up
    | none => []

/-- A packet that the step's end does not wait for: one that is not the step's, REQ_CANCEL, REQ_CLOSE, the STEP_END itself and
the CALLs that it stands under (R295). -/
def State.besideEnd (s : State) (c id : Nat) (p : Pkt) : Bool :=
  !p.inStep || p.id == id || p.op == 0x63 || p.op == 0x64 || (s.callsAbove c 4 id).contains p.id

/-- The commit point is reached: every packet that the context issued between STEP_BEGIN and the STEP_END has completed,
REQ_CANCEL, REQ_CLOSE and the chains that the STEP_END stands in excepted, and no encore waits or runs (R295). -/
def State.atCommit (s : State) (c id : Nat) : Bool :=
  let x := s.ctxsAt c
  match x.step with
  | some st => st.ending == some id && x.enc.fail.isNone && !x.enc.stopped && x.enc.replay.isEmpty &&
      x.pkts.all (s.besideEnd c id)
  | none => false

/-- Latency of a delivered token (R297). -/
def measure (n now : Nat) : M s0 Unit := do
  let s ← cur
  let part := s.slotPart n
  if s.slotDelivered n = 1 then
    let ttft := min (now - s.slotW n 18) 0xFFFFFFFF
    setSlotF n 19 63 0 now
    setSlotF n 21 63 32 ttft
    let goal := s.slotF n 11 31 0
    if goal ≠ 0 ∧ goal < ttft then
      setSlotFlag n 0
      bump F.srvMissTtft_count 1 part
  else
    let g := now - s.slotW n 20
    let goal := s.slotF n 11 63 32
    setSlotF n 21 31 0 (max (s.slotF n 21 31 0) (min g 0xFFFFFFFF))
    if goal ≠ 0 ∧ goal < g then
      setSlotFlag n 1
      setSlotF n 17 31 16 (satAdd 16 (s.slotF n 17 31 16) 1)
      bump F.srvMissTbt_count 1 part
  setSlotF n 20 63 0 now
  bump F.srvTokens_count 1 part

/-- A token is delivered to a slot (last row of R296). -/
def deliver (ac : Acc) (stepId n tok : Nat) : A s0 Unit := do
  let s ← (cur : M s0 _)
  let hist := s.slotF n 23 31 0
  wrAll ac [{ va := s.slotF n 0 51 0 + 4 * hist, bs := toBytes 4 tok }]
  (setSlotF n 23 31 0 (hist + 1) : M s0 _)
  (setSlotF n 16 63 32 (s.slotDelivered n + 1) : M s0 _)
  countToken ac n tok
  (setSlotF n 22 63 0 (stepId * 2 ^ 32 + tok) : M s0 _)
  (measure n s.now : M s0 _)
  if (s.slotsAt n).marked then
    (setSlotFlag n 4 : M s0 _)
    (modSlots n fun x => { x with marked := false } : M s0 _)
  let stops := [s.slotF n 13 31 0, s.slotF n 13 63 32, s.slotF n 14 31 0, s.slotF n 14 63 32]
  if stops.contains tok && tok != 0xFFFFFFFF then
    (setSlotFlag n 5 : M s0 _)
    (setSlotState n 4 : M s0 _)
  else if s.slotDelivered n + 1 = s.slotF n 4 63 32 then
    (setSlotFlag n 6 : M s0 _)
    (setSlotState n 4 : M s0 _)
  else (setSlotState n 2 : M s0 _)

/-- The commit of the entries from index i on (R296): the FLAGS bytes, and the number of tokens delivered. -/
def commitRows (ac : Acc) (st : Step) : (i : Nat) → List Nat → A s0 (List Nat × Nat)
  | _, [] => pure ([], 0)
  | i, r :: rs => do
    let s ← (cur : M s0 _)
    let n := rowSlot r
    let tok := (st.pend.find? fun e => e.1 == i).map Prod.snd
    let mut flag := 0
    let mut got := 0
    let before := s.ledgerWords n
    if st.gone.contains i then pure ()
    else if s.slotFlag n 2 then
      if tok.isSome then (setSlotFlag n 7 : M s0 _)
      if s.slotState n ≠ 5 then
        (becomeCancelled n : M s0 _)
        flag := 1
    else if st.idle.contains i then pure ()
    else match rowSample r, tok with
      | true, some t => do
        deliver ac st.stepId n t
        if (← (cur : M s0 _)).slotState n = 4 then flag := 1
        got := 1
      | _, _ => (setSlotState n 2 : M s0 _)
    if (← (cur : M s0 _)).ledgerWords n ≠ before then (writeLedger n : M s0 _)
    let (fs, k) ← commitRows ac st (i + 1) rs
    pure (flag :: fs, got + k)

/-- The operation of the commit (R295, R296): entries in order, FLAGS, the step closed, STEP_END's DETAIL. -/
def commitBody (c : Nat) (ac : Acc) : A s0 Fin := do
  let x := (← (cur : M s0 _)).ctxsAt c
  match x.step with
  | none => pure {}
  | some st =>
    let (fs, k) ← commitRows ac st 0 st.rows
    if st.flags ≠ 0 then wrAll ac [{ va := st.flags, bs := fs.map fun f => BitVec.ofNat 8 f }]
    if x.enc.count ≠ 0 then (bump F.hbEncoreRecovered_count 1 : M s0 _)
    (modCtxs c fun y => { y with
      step := none, enc := {}, ended := st.ending
      pkts := y.pkts.map fun p => { p with
        inStep := false
        recovered := p.recovered || (some p.id == st.ending && x.enc.count != 0) } } : M s0 _)
    (each st.liveSlots settleSlot : M s0 _)
    pure { detail := x.enc.count % 256 + k % 2 ^ 16 * 2 ^ 16 }

/-- STEP_END of a step whose encores are exhausted: no token is delivered (R295, R462, R72). -/
def exhaustEnd (c id entry : Nat) : M s0 Unit := do
  let n := ((← cur).ctxsAt c).enc.count
  closeStep c
  modCtxs c fun x => { x with ended := some id }
  endPkt c id stEncoreExhausted (n % 256 + entry * 2 ^ 32)

/-- `STEP_COMMIT` (R296): at the commit point the step is committed whole. -/
def execStepCommit (c id : Nat) (s : State) : Outcome :=
  M.go s (onWaiting c id 0x61 fun p => do
    let s1 ← cur
    if s1.loaded c && s1.atCommit c id then
      match (s1.ctxsAt c).enc.dead with
      | some i => exhaustEnd c id i
      | none => runPktWith c p 2 true (pure ()) (fun ac => commitBody c ac))

end Sys2Proof.Machine
end

