-- ==== Sys2Proof/Machine/Dense.lean ====
section
/-!
DEFINITION. The dense class (chapters 02, 04, 09): its class checks (R108, R111, R290, R496 to R498), products with their
fixed-order sums (R117 to R123), adapter corrections (R291), and the row-wise and elementwise packets.
-/
namespace Sys2Proof.Machine

variable {s0 : State}

/-! ### Formats -/

/-- The floating-point element formats: FP32, BF16, the 8-bit and the MX formats. -/
def floatFmt (f : Nat) : Bool := [0, 1, 3, 4, 5, 6, 7].contains f

/-- FP32 or BF16. -/
def wideFmt (f : Nat) : Bool := f == 0 || f == 1

/-- The kind of arithmetic of a product, and what the feeder does to A's rows: 0 nothing, 1 MXFP8 E4M3 blocks (R109), 2
rounding to BF16 (R108). -/
structure Arith where
  int : Bool := false
  bf16 : Bool := false
  feed : Nat := 0
  deriving DecidableEq, Repr

/-- The table of R108: A's format, B's format. -/
def arithOf (fa fb : Nat) : Option Arith :=
  if 3 ≤ fb ∧ fb ≤ 7 then
    if 3 ≤ fa ∧ fa ≤ 7 then some {} else if fa ≤ 1 then some { feed := 1 } else none
  else if fb = 8 ∧ fa = 8 then some { int := true }
  else if fb = 1 ∧ fa = 1 then some { bf16 := true }
  else if fb = 1 ∧ fa = 0 then some { bf16 := true, feed := 2 }
  else none

/-- W6 of a product: ACCUMULATE, STATIONARY, PROLOGUE, EPILOGUE, OUT_FMT (R61). -/
def Pkt.accumulate (p : Pkt) : Bool := p.b 6 0
def Pkt.prologue (p : Pkt) : Bool := p.f 6 7 4 == 1
def Pkt.epi (p : Pkt) : Nat := p.f 6 11 8
def Pkt.outFmt (p : Pkt) : Nat := p.f 6 19 16

/-- A's format as R108 takes it: FP32 with a prologue (R110). -/
def Pkt.aFmt (p : Pkt) (w : Nat) : Nat := if p.prologue then 0 else (p.desc w).fmt

/-- A's format as the format checks take it: a prologue feeds FP32 whatever floating-point format A has; INT8 stays INT8, so
that a prologue on it is R110's ST_BAD_PARAM; a format that R108 does not list stays itself. -/
def Pkt.checkedFmt (p : Pkt) (w : Nat) : Nat := if floatFmt (p.desc w).fmt then p.aFmt w else (p.desc w).fmt

/-! ### Class checks (R496 to R498) -/

/-- RANK and sizes of an operand. -/
def shapeFlaw (p : Pkt) (w : Nat) (sizes : List Nat) : Flaw :=
  firstFlaw (rankFlaw p w sizes.length :: (List.range sizes.length).map fun d => sizeFlaw p w d (nth sizes d))

/-- A pair that R108 does not list: A's word where A's format stands in no row, else B's (log entry 21). -/
def pairFlaw (p : Pkt) (wa fa wb : Nat) : Flaw :=
  if (arithOf fa (p.desc wb).fmt).isSome then none
  else if floatFmt fa || fa == 8 then flawAt stFormat (p.wordOf wb) 52 0 else flawAt stFormat (p.wordOf wa) 52 0

/-- The output formats of R111 for an arithmetic, with ACCUMULATE. -/
def outOk (ar : Arith) (acc : Bool) (f : Nat) : Bool :=
  if ar.int then (f == 9 || (wideFmt f && !acc)) else (if acc then wideFmt f else floatFmt f)

/-- The output operand's format: allowed, and that of OUT_FMT (R111). -/
def outFlaw (p : Pkt) (w : Nat) (ar : Arith) : Flaw :=
  fmtFlaw p w fun f => f == p.outFmt && outOk ar p.accumulate f

/-- A word of an adapter binding record, batch table header, row entries, as captured at validation: the header under 100,
the rows under 101 (R290, R292). -/
def Pkt.record (p : Pkt) (w : Nat) : List Nat := p.captured w
def Pkt.batchHdr (p : Pkt) : List Nat := p.captured 100
def Pkt.batchRows (p : Pkt) : List Nat := p.captured 101

/-- The binding record and the batch table well formed (R290, R292); TARGET at most `top`. -/
def bindingForm (p : Pkt) (w top : Nat) : Flaw :=
  if w = 7 ∧ p.w w = 0 then none
  else
    let r := p.record w
    let bad := firstReserved r ((0, 2 ^ 52 - 1) :: (1, 15) :: (List.range 6).map fun i => (2 + i, 0))
    match bad with
    | some (i, b) => flawAt stBadParam w b i
    | none =>
      if top < nth r 1 then flawAt stBadParam w 0 1
      else if batchOk p.batchHdr (p.batchRows.length) && p.batchRows.all rowOk then none
      else some (stBadParam, detailOf w 0xFF 0 false)

/-- ROWS of a row entry. -/
def rowCount (r : Nat) : Nat := bits r 48 32

/-- The batch's rows number A's rows (R290). -/
def bindingRows (p : Pkt) (w m : Nat) : Flaw :=
  if (w = 7 ∧ p.w w = 0) ∨ (p.batchRows.map rowCount).foldl (· + ·) 0 = m then none
  else some (stBadParam, detailOf w 0xFF 0 false)

/-- A prologue on INT8 operands, and an epilogue with INT32 output (R110, R111). -/
def tailFlaw (p : Pkt) (wa : Nat) (ar : Arith) : Flaw :=
  if p.prologue ∧ (p.desc wa).fmt = 8 then some (stBadParam, wordDetail 6 4)
  else if ar.int ∧ p.outFmt = 9 ∧ p.epi ≠ 0 then some (stBadParam, wordDetail 6 8) else none

/-- A descriptor word that is given. -/
def given (p : Pkt) (w : Nat) : List Nat := if p.w w = 0 then [] else [w]

/-- The class checks of a dense packet in the stages of R496: form, formats, shapes; extents and aliases. -/
structure Stages where
  form : Flaw
  fmt : Flaw
  shape : Flaw
  rest : Flaw
  deriving DecidableEq, Repr

/-- The class checks of MATMUL and MATMUL_BATCHED. -/
def matmulStages (p : Pkt) : Stages :=
  let batched := p.op == 0x11
  let a := p.desc 2
  let b := p.desc 3
  let outer := if batched then [a.size 2] else []
  let ar := (arithOf (p.checkedFmt 2) b.fmt).getD {}
  let d := given p 5
  { form := firstFlaw [formFlaw p ([2, 3, 4] ++ d), bindingForm p 7 15]
    fmt := firstFlaw [pairFlaw p 2 (p.checkedFmt 2) 3, outFlaw p 4 ar,
      firstFlaw (d.map fun w => fmtFlaw p w fun f => if ar.int then f == 9 else wideFmt f)]
    shape := firstFlaw [tailFlaw p 2 ar,
      shapeFlaw p 2 ([a.size 0, a.size 1] ++ outer), shapeFlaw p 3 ([a.size 0, b.size 1] ++ outer),
      shapeFlaw p 4 ([b.size 1, a.size 1] ++ outer),
      firstFlaw (d.map fun w => shapeFlaw p w ([b.size 1, a.size 1] ++ outer)),
      (if a.size 0 = 0 then flawAt stBadParam 2 40 2 else none),
      bindingRows p 7 (a.size 1 * if batched then a.size 2 else 1)]
    rest := firstFlaw [boundsFlaw p ([2, 3, 4] ++ d), injFlaw p 4, overlapFlaw p 4 (([2, 3] ++ d).map p.desc)] }

/-- The class checks of MLP_GATED; the formats of its gain are the model's choice (log entry 22). -/
def mlpStages (p : Pkt) : Stages :=
  let x := p.desc 2
  let gu := p.desc 3
  let g := given p 9
  let i := gu.size 1 / 2
  let ar := (arithOf 0 (p.desc 4).fmt).getD {}
  { form := firstFlaw [formFlaw p ([2, 3, 4, 5] ++ g), bindingForm p 7 14]
    fmt := firstFlaw [pairFlaw p 2 (p.checkedFmt 2) 3, pairFlaw p 4 0 4, outFlaw p 5 ar,
      firstFlaw (g.map fun w => fmtFlaw p w wideFmt)]
    shape := firstFlaw [tailFlaw p 2 ar,
      shapeFlaw p 2 [x.size 0, x.size 1], shapeFlaw p 3 [x.size 0, 2 * i], shapeFlaw p 4 [i, x.size 0],
      shapeFlaw p 5 [x.size 0, x.size 1], firstFlaw (g.map fun w => shapeFlaw p w [x.size 0]),
      (if x.size 0 = 0 then flawAt stBadParam 2 40 2 else if i = 0 then flawAt stBadParam 3 40 3 else none),
      bindingRows p 7 (x.size 1)]
    rest := firstFlaw [boundsFlaw p ([2, 3, 4, 5] ++ g), injFlaw p 5, overlapFlaw p 5 (([2, 3, 4] ++ g).map p.desc)] }

/-- The class checks of ADAPTER. -/
def adapterStages (p : Pkt) : Stages :=
  let x := p.desc 2
  let y := p.desc 4
  { form := firstFlaw [formFlaw p [2, 4], bindingForm p 3 15]
    fmt := firstFlaw [fmtFlaw p 2 floatFmt, fmtFlaw p 4 wideFmt]
    shape := firstFlaw [shapeFlaw p 2 [x.size 0, x.size 1], shapeFlaw p 4 [y.size 0, x.size 1],
      (if x.size 0 = 0 then flawAt stBadParam 2 40 2 else none), bindingRows p 3 (x.size 1)]
    rest := firstFlaw [boundsFlaw p [2, 4], injFlaw p 4, overlapFlaw p 4 [x]] }

/-- The class checks of ELTWISE, NORM, SOFTMAX and QUANTISE: the formats they accept and operands of one shape are the model's
choice (log entry 22). -/
def vectorFlaw (p : Pkt) : Flaw :=
  match p.op with
  | 0x18 =>
    let y := given p 3
    let ws := [2] ++ y ++ [4]
    firstFlaw [formFlaw p ws, firstFlaw (ws.map fun w => fmtFlaw p w floatFmt),
      firstFlaw (y.map fun w => sameShape p 2 w), sameShape p 2 4,
      (if p.f 5 7 0 < 2 ∧ p.w 3 = 0 then some (stBadParam, wordDetail 3 0xFF) else none), boundsFlaw p ws]
  | 0x19 =>
    firstFlaw [formFlaw p [2, 3, 4], fmtFlaw p 2 floatFmt, fmtFlaw p 3 wideFmt, fmtFlaw p 4 floatFmt,
      shapeFlaw p 3 [(p.desc 2).size 0], sameShape p 2 4, boundsFlaw p [2, 3, 4]]
  | _ =>
    firstFlaw [formFlaw p [2, 3], fmtFlaw p 2 floatFmt, fmtFlaw p 3 floatFmt, sameShape p 2 3, boundsFlaw p [2, 3]]

/-- The class checks of ROTARY_Q (R248); its formats and shapes are the model's choice (log entry 22). -/
def rotaryFlaw (p : Pkt) : Flaw :=
  let q := p.desc 2
  firstFlaw [formFlaw p [2, 3, 4], fmtFlaw p 2 wideFmt, fmtFlaw p 3 idxFmt, fmtFlaw p 4 (· == 0),
    shapeFlaw p 4 [2, q.size 0 / 2, (p.desc 4).size 2],
    (if q.size 0 % 2 = 1 then flawAt stBadParam 2 40 2 else none),
    shapeFlaw p 3 [if q.rank = 1 then 1 else q.size (q.rank - 1)], boundsFlaw p [2, 3, 4]]

/-- The class checks of MOE_ROUTE (R61); its formats and shapes are the model's choice (log entry 22). -/
def moeRouteFlaw (p : Pkt) (feat : Nat) : Flaw :=
  let x := p.desc 2
  let k := p.f 5 3 0
  firstFlaw [formFlaw p [2, 3, 4], fmtFlaw p 2 floatFmt, fmtFlaw p 3 (· == 9), fmtFlaw p 4 wideFmt,
    shapeFlaw p 2 [x.size 0, x.size 1], shapeFlaw p 3 [k, x.size 1], shapeFlaw p 4 [k, x.size 1],
    (if x.size 0 < k ∨ bits feat 15 0 < x.size 0 then flawAt stBadParam 2 40 2 else none), boundsFlaw p [2, 3, 4]]

/-! ### Values and rows -/

/-- An action on each element of a list, with its answers. -/
def mapA {α β : Type} (f : α → A s0 β) : List α → A s0 (List β)
  | [] => pure []
  | x :: xs => do
    let y ← f x
    let ys ← mapA f xs
    pure (y :: ys)

/-- The offsets of a row: dimension 0 of a view at an outer index. -/
def Desc.rowOffsets (t : Desc) (outer : List Nat) : List Int := (List.range (t.size 0)).map fun k => t.offset (k :: outer)

/-- A row's values. -/
def rdRow (ac : Acc) (t : Desc) (outer : List Nat) : A s0 (List Num) := do
  let vs ← rdElems ac t (t.rowOffsets outer)
  pure (vs.map fun (v, sc) => scaledNum t.fmt v sc)

/-- The values of rows 0 to n - 1 of dimension 1, at an outer index beyond it. -/
def rdRows (ac : Acc) (t : Desc) (n : Nat) (outer : List Nat) : A s0 (List (List Num)) :=
  mapA (fun m => rdRow ac t (m :: outer)) (List.range n)

/-- A destination's row as it was. -/
def rdOldRow (ac : Acc) (t : Desc) (outer : List Nat) : A s0 (List Num) := do
  let vs ← mapA (rdDestElem ac t) (t.rowOffsets outer)
  pure (vs.map fun v => elemNum t.fmt v)

/-- Values converted to an output format: element codes, scale codes, how many saturated, how many NaN (R121, R124 to
R126). -/
def outCodes (fmt : Nat) (vs : List Num) : List Nat × List Nat × Nat × Nat :=
  if fmt = 9 then
    let cs := vs.map fun v => match v with
      | .fin neg m e =>
        let i : Int := numerAt neg m e 0
        let j := max (-(2 ^ 31 : Nat) : Int) (min ((2 ^ 31 : Nat) - 1 : Int) i)
        (wrap 32 j, decide (i ≠ j))
      | _ => (0, false)
    (cs.map Prod.fst, [], (cs.filter Prod.snd).length, 0)
  else if isMx fmt then
    let bs := (blocks32 vs).map (mxBlock fmt)
    (bs.flatMap fun b => b.2.1, bs.map Prod.fst, (bs.map fun b => b.2.2.1).foldl (· + ·) 0,
      (bs.map fun b => b.2.2.2).foldl (· + ·) 0)
  else
    let cs := vs.map (convert fmt)
    (cs.map Prod.fst, [], (cs.filter Prod.snd).length, (vs.filter (· == .nan)).length)

/-- An output row: its writes, saturated elements, NaN elements. -/
def outRow (t : Desc) (outer : List Nat) (vs : List Num) : List Wr × Nat × Nat :=
  let (cs, scs, sat, nan) := outCodes t.fmt vs
  let os := t.rowOffsets outer
  ((os.zip cs).map (fun (l, c) => t.store l c) ++
    (List.range scs.length).map (fun b => t.storeScale (os.getD (32 * b) 0) (nth scs b)), sat, nan)

/-- A count divided between the dies of a packet: with both, a division the spec leaves open (R137, log entry 8). -/
def countShared (f : Fld) (dies total : Nat) : M s0 Unit := do
  if total ≠ 0 then
    if dies = 3 then
      let n ← takeFresh
      let k := (Config.free n).toNat % (total + 1)
      bump f k 0
      bump f (total - k) 1
    else bump f total (dies / 2)

/-- Output rows written, with the counts of R126. -/
def putRows (ac : Acc) (dies : Nat) (rows : List (List Wr × Nat × Nat)) : A s0 Unit := do
  wrAll ac (rows.flatMap Prod.fst)
  (countShared F.cdArraySat_count dies ((rows.map fun r => r.2.1).foldl (· + ·) 0) : M s0 _)
  (countShared F.cdArrayNan_count dies ((rows.map fun r => r.2.2).foldl (· + ·) 0) : M s0 _)

/-! ### Products -/

/-- RMSNorm of a row of FP32 codes (R110). -/
def rmsNorm (eps : Nat) (gain : List Nat) (xs : List Nat) : List Nat :=
  let mean := div32 (rowSquares xs) (int32 xs.length)
  let r := div32 one32 (sqrt32 (add32 mean eps))
  let y := xs.map fun x => mul32 x r
  if gain.isEmpty then y else List.zipWith mul32 y gain

/-- Epsilon of the prologue, 2^-20 (R110). -/
def eps20 : Nat := 0x35800000

/-- A row after the packet's prologue. -/
def prologueRow (on : Bool) (gain : List Nat) (x : List Num) : List Num :=
  if on then (rmsNorm eps20 gain (x.map to32)).map of32 else x

/-- A row as fed (R108, R109). What saturates here is not counted (R126, log entry 67). -/
def fedRow (feed : Nat) (x : List Num) : List Num :=
  match feed with
  | 1 => (blocks32 x).flatMap fun b =>
      let (sc, cs, _, _) := mxBlock 5 b
      cs.map fun c => scaledNum 5 c sc
  | 2 => x.map fun v => elemNum 1 (convert 1 v).1
  | _ => x

/-- One element of a product (R118, R121). -/
def dot (ar : Arith) (x y : List Num) : Num :=
  if ar.int then exactSum (prods x y) else of32 (addChunks (chunkValues ar.bf16 (prods x y)))

/-- A row of a product. -/
def productRow (ar : Arith) (x : List Num) (cols : List (List Num)) : List Num := cols.map (dot ar (fedRow ar.feed x))

/-- An element finished (R121, R122 steps 1 to 3). -/
def finishElem (ar : Arith) (epi fmt : Nat) (acc : Num) (d old : Option Num) : Num :=
  if ar.int then
    let v := (acc.add (d.getD (.zero false))).add (old.getD (.zero false))
    if fmt = 9 ∨ epi = 0 then v else of32 (epilogue epi (to32 v))
  else
    let v := to32 acc
    let v := match d with | some x => add32 v (to32 x) | none => v
    let v := match old with | some x => add32 (to32 x) v | none => v
    of32 (epilogue epi v)

/-- A row finished. -/
def finishRow (ar : Arith) (epi fmt : Nat) (acc : List Num) (d old : Option (List Num)) : List Num :=
  (List.range acc.length).map fun n =>
    finishElem ar epi fmt (acc.getD n .nan) (d.map fun r => r.getD n .nan) (old.map fun r => r.getD n .nan)

/-! ### Adapters (R288 to R291) -/

/-- An adapter's correction for a target: its format, ALPHA, the columns of the down and the up matrix. -/
structure Corr where
  fmt : Nat
  alpha : Nat
  down : List (List Num)
  up : List (List Num)
  deriving DecidableEq, Repr

/-- A matrix of an image: columns of n elements, one after the other (R288). -/
def rdMatrix (ac : Acc) (base fmt n cols : Nat) : A s0 (List (List Num)) :=
  mapA (fun j => do
    let bs ← rd ac (base + j * n * elemBytes fmt) (n * elemBytes fmt)
    pure ((List.range n).map fun i => elemNum fmt (ofBytes ((bs.drop (i * elemBytes fmt)).take (elemBytes fmt)))))
    (List.range cols)

/-- A target on which a packet's adapters act: the binding record's word, the target's number above TARGET, A's format, K and
N of the product, the largest rank allowed (R290). -/
structure Target where
  w : Nat
  add : Nat
  fa : Nat
  k : Nat
  n : Nat
  top : Nat
  deriving DecidableEq, Repr

/-- The adapter of a slot, where its request uses one (R290). -/
def State.slotAdapter (s : State) (slot : Nat) : Option Adapter :=
  if s.slotState slot = 0 ∨ s.slotF slot 17 44 44 = 0 then none else some (s.adaptersAt (s.slotF slot 17 43 32))

/-- A slot's adapter looked up for a target (R290): what is wrong with its format, what is wrong with its slot, binding, rank,
K or N; and the target's entry, where its image has one. -/
def seeCorr (ac : Acc) (t : Target) (target slot : Nat) : A s0 (Flaw × Flaw × Option (List Nat)) := do
  let s ← (cur : M s0 _)
  let bad : Nat × Nat := (stBadParam, wordDetail t.w 0xFF)
  if !s.slotOk slot ac.part then pure (none, some (stProt, wordDetail t.w 0xFF), none)
  else match s.slotAdapter slot with
    | none => pure (none, none, none)
    | some x =>
      if !x.bound ∨ t.top < x.rank then pure (none, some bad, none)
      else
        let e ← rdWords ac (x.image + 32 * target) 4
        let fmt := bits (nth e 0) 47 44
        if !bit (nth e 0) 63 then pure (none, none, none)
        else
          let ok := [1, 3, 4].contains fmt && (arithOf t.fa fmt).isSome && (arithOf 0 fmt).isSome
          pure (if ok then none else some (stFormat, wordDetail t.w 0xFF),
            if bits (nth e 2) 23 0 ≠ t.k ∨ bits (nth e 2) 55 32 ≠ t.n then some bad else none, some e)

/-- Every entry of a batch table looked up for every target (R290, R496). -/
def seeCorrs (ac : Acc) (p : Pkt) (ts : List Target) : A s0 (List (Flaw × Flaw)) := do
  let fs ← mapA (fun t => mapA (fun r => do
    let (f, g, _) ← seeCorr ac t (nth (p.record t.w) 1 + t.add) (rowSlot r)
    pure (f, g)) p.batchRows) ts
  pure fs.flatten

/-- The class checks of a packet with adapters, stage by stage; those on the adapters follow each stage's own (R290, R496). -/
def denseChecks (p : Pkt) (ac : Acc) (x : Stages) (ts : List Target) : A s0 Unit := do
  check x.form
  check x.fmt
  let fs ← seeCorrs ac p ts
  check (firstFlaw (fs.map Prod.fst))
  check x.shape
  check (firstFlaw (fs.map Prod.snd))
  check x.rest

/-- A target's correction from its slot's adapter, looked up again where the packet runs. -/
def rdCorr (ac : Acc) (t : Target) (target slot : Nat) : A s0 (Option Corr) := do
  let (f, g, e) ← seeCorr ac t target slot
  check f
  check g
  match e, (← (cur : M s0 _)).slotAdapter slot with
  | some e, some x => do
    let fmt := bits (nth e 0) 47 44
    let a ← rdMatrix ac (x.image + bits (nth e 0) 39 0) fmt t.k x.rank
    let b ← rdMatrix ac (x.image + bits (nth e 1) 39 0) fmt x.rank t.n
    pure (some { fmt := fmt, alpha := bits (nth e 3) 31 0, down := a, up := b })
  | _, _ => pure none

/-- The correction of every row of a batch, in row order. -/
def rdCorrs (ac : Acc) (rows : List Nat) (t : Target) (target : Nat) : A s0 (List (Option Corr)) := do
  let cs ← mapA (fun r => do
    let c ← (if rowCount r = 0 then pure none else rdCorr ac t target (rowSlot r))
    pure (List.replicate (rowCount r) c)) rows
  pure cs.flatten

/-- The terms alpha * c[n] that a correction adds to a row (R291); none where R108 does not list the pair. -/
def Corr.terms (c : Corr) (fa : Nat) (x : List Num) : Option (List Nat) :=
  match arithOf fa c.fmt, arithOf 0 c.fmt with
  | some ar, some as =>
    let s := productRow ar x c.down
    some ((productRow as s c.up).map fun v => mul32 c.alpha (to32 v))
  | _, _ => none

/-- A row of accumulated values with its correction added (R291). -/
def correct (w fa : Nat) (x : List Num) (c : Option Corr) (acc : List Num) : A s0 (List Num) :=
  match c with
  | none => pure acc
  | some c =>
    match c.terms fa x with
    | none => throw (.fail stFormat (wordDetail w 0xFF))
    | some ts => pure (List.zipWith (fun a t => of32 (add32 (to32 a) t)) acc ts)

/-- The corrections on the packet's target of number `add`, row by row; none where the packet has no binding record. -/
def corrsOf (ac : Acc) (p : Pkt) (ts : List Target) (add m : Nat) : A s0 (List (Option Corr)) :=
  match ts.find? fun t => t.add == add with
  | some t => rdCorrs ac p.batchRows t (nth (p.record t.w) 1 + add)
  | none => pure (List.replicate m none)

/-- The targets of the packets with adapters (R290). -/
def matmulTargets (p : Pkt) : List Target :=
  (given p 7).map fun w => { w := w, add := 0, fa := p.aFmt 2, k := (p.desc 2).size 0, n := (p.desc 3).size 1, top := 255 }
def mlpTargets (p : Pkt) : List Target :=
  (given p 7).flatMap fun w =>
    [{ w := w, add := 0, fa := p.aFmt 2, k := (p.desc 2).size 0, n := (p.desc 3).size 1, top := 255 },
     { w := w, add := 1, fa := 0, k := (p.desc 4).size 0, n := (p.desc 4).size 1, top := 255 }]
def adapterTargets (p : Pkt) : List Target :=
  [{ w := 3, add := 0, fa := (p.desc 2).fmt, k := (p.desc 2).size 0, n := (p.desc 4).size 0, top := p.f 5 7 0 }]

/-! ### MATMUL, MATMUL_BATCHED -/

/-- A row of a MATMUL: A's row, the addend's, C's as it was, the correction. -/
def matmulRow (ac : Acc) (p : Pkt) (ar : Arith) (cols : List (List Num)) (outer : List Nat) (c : Option Corr) :
    A s0 (List Wr × Nat × Nat) := do
  let a := p.desc 2
  let x ← rdRow ac a outer
  let x := prologueRow p.prologue [] x
  let acc ← correct 7 (p.aFmt 2) x c (productRow ar x cols)
  let d ← (if p.w 5 = 0 then pure none else do pure (some (← rdRow ac (p.desc 5) outer)))
  let old ← (if p.accumulate then do pure (some (← rdOldRow ac (p.desc 4) outer)) else pure none)
  pure (outRow (p.desc 4) outer (finishRow ar p.epi p.outFmt acc d old))

/-- The rows of one batch element. -/
def matmulOne (ac : Acc) (p : Pkt) (ar : Arith) (m : Nat) (outer : List Nat) (cs : List (Option Corr)) :
    A s0 (List (List Wr × Nat × Nat)) := do
  let b := p.desc 3
  let cols ← rdRows ac b (b.size 1) outer
  mapA (fun i => matmulRow ac p ar cols (i :: outer) (cs.getD i none)) (List.range m)

/-- The operation of MATMUL and MATMUL_BATCHED. -/
def matmulBody (p : Pkt) (ac : Acc) : A s0 Fin := do
  let a := p.desc 2
  let b := p.desc 3
  let ar := (arithOf (p.aFmt 2) b.fmt).getD {}
  let m := a.size 1
  let outers := if p.op = 0x11 then (List.range (a.size 2)).map fun i => [i] else [[]]
  let cs ← corrsOf ac p (matmulTargets p) 0 (m * outers.length)
  let rows ← mapA (fun o => matmulOne ac p ar m o (cs.drop (m * o.headD 0))) outers
  putRows ac p.dies rows.flatten
  pure {}

/-- `MATMUL` (R118). -/
def execMatmul (c id : Nat) (s : State) : Outcome := M.go s (opOf c id [0x10] 0 matmulBody)

/-- `MATMUL_BATCHED` (R61). -/
def execMatmulBatched (c id : Nat) (s : State) : Outcome := M.go s (opOf c id [0x11] 0 matmulBody)

/-! ### ADAPTER -/

/-- A row of ADAPTER: nothing where the row has no correction. -/
def adapterRow (ac : Acc) (p : Pkt) (i : Nat) (c : Option Corr) : A s0 (List Wr × Nat × Nat) :=
  match c with
  | none => pure ([], 0, 0)
  | some c => do
    let x ← rdRow ac (p.desc 2) [i]
    let old ← rdOldRow ac (p.desc 4) [i]
    let v ← correct 3 (p.desc 2).fmt x (some c) old
    pure (outRow (p.desc 4) [i] v)

/-- What ADAPTER does (its command below). -/
def adapterBody (p : Pkt) (ac : Acc) : A s0 Fin := do
  let x := p.desc 2
  let cs ← corrsOf ac p (adapterTargets p) 0 (x.size 1)
  let rows ← mapA (fun i => adapterRow ac p i (cs.getD i none)) (List.range (x.size 1))
  putRows ac p.dies rows
  pure {}

/-- `ADAPTER` (R291). -/
def execAdapter (c id : Nat) (s : State) : Outcome := M.go s (opOf c id [0x12] 0 adapterBody)

/-! ### MLP_GATED -/

/-- h of a gated MLP from the accumulated gate and up values: f(g) * u (R123). -/
def gated (f : Nat) (acc : List Num) : List Num :=
  let n := acc.length / 2
  List.zipWith (fun g u => of32 (mul32 (epilogue f (to32 g)) (to32 u))) (acc.take n) (acc.drop n)

/-- A row of MLP_GATED. -/
def mlpRow (ac : Acc) (p : Pkt) (gain : List Nat) (gu down : List (List Num)) (i : Nat) (c1 c2 : Option Corr) :
    A s0 (List Wr × Nat × Nat) := do
  let a1 := (arithOf (p.aFmt 2) (p.desc 3).fmt).getD {}
  let a2 := (arithOf 0 (p.desc 4).fmt).getD {}
  let x ← rdRow ac (p.desc 2) [i]
  let x := prologueRow p.prologue gain x
  let acc ← correct 7 (p.aFmt 2) x c1 (productRow a1 x gu)
  let h := gated p.epi acc
  let acc2 ← correct 7 0 h c2 (productRow a2 h down)
  let old ← (if p.accumulate then do pure (some (← rdOldRow ac (p.desc 5) [i])) else pure none)
  pure (outRow (p.desc 5) [i] (finishRow a2 0 p.outFmt acc2 none old))

/-- What MLP_GATED does (its command below). -/
def mlpBody (p : Pkt) (ac : Acc) : A s0 Fin := do
  let x := p.desc 2
  let gu := p.desc 3
  let dn := p.desc 4
  let c1 ← corrsOf ac p (mlpTargets p) 0 (x.size 1)
  let c2 ← corrsOf ac p (mlpTargets p) 1 (x.size 1)
  let gain ← (if p.w 9 = 0 then pure [] else rdRow ac (p.desc 9) [])
  let gus ← rdRows ac gu (gu.size 1) []
  let dns ← rdRows ac dn (dn.size 1) []
  let rows ← mapA (fun i => mlpRow ac p (gain.map to32) gus dns i (c1.getD i none) (c2.getD i none))
    (List.range (x.size 1))
  putRows ac p.dies rows
  pure {}

/-- `MLP_GATED` (R123). -/
def execMlpGated (c id : Nat) (s : State) : Outcome := M.go s (opOf c id [0x13] 0 mlpBody)

/-! ### Elementwise and row-wise packets -/

/-- The outer indexes of a view: every index tuple of the dimensions beyond the innermost. -/
def Desc.outers (t : Desc) : List (List Nat) :=
  (List.range ((t.sizes.drop 1).foldl (· * ·) 1)).map (unrank (t.sizes.drop 1))

/-- A destination whose elements share addresses, or whose extent meets an operand's that is not the same view: its elements
end with values the spec does not state (log entry 22). -/
def openDest (ac : Acc) (t : Desc) (others : List Desc) : M s0 Unit :=
  if t.injective && others.all (fun o => !t.overlaps o || o == t) then pure ()
  else each t.offsets (freeElem ac t)

/-- Rows of the first operand turned into rows of the output. -/
def rowwise (ac : Acc) (dies : Nat) (z : Desc) (ins : List Desc) (f : List (List Num) → List Num) : A s0 Unit := do
  let rows ← mapA (fun o => do
    let xs ← mapA (fun t => rdRow ac t o) ins
    pure (outRow z o (f xs))) z.outers
  putRows ac dies rows
  (openDest ac z ins : M s0 _)

/-- ELTWISE's operations on FP32 values: add, multiply, SiLU, GELU, scale (R61). -/
def eltOp (op scale x y : Nat) : Nat :=
  match op with
  | 0 => add32 x y
  | 1 => mul32 x y
  | 2 => silu32 x
  | 3 => gelu32 x
  | _ => mul32 x scale

/-- What ELTWISE does (its command below). -/
def eltwiseBody (p : Pkt) (ac : Acc) : A s0 Fin := do
  let op := p.f 5 7 0
  let ins := if op < 2 then [p.desc 2, p.desc 3] else [p.desc 2]
  rowwise ac p.dies (p.desc 4) ins fun xs =>
    let x := xs.headD []
    let y := (xs.drop 1).headD x
    List.zipWith (fun a b => of32 (eltOp op (p.f 6 31 0) (to32 a) (to32 b))) x y
  pure {}

/-- `ELTWISE` (R61). -/
def execEltwise (c id : Nat) (s : State) : Outcome := M.go s (opOf c id [0x18] 0 eltwiseBody)

/-- LayerNorm of a row: its sums in the order of R83, between steps on single elements that the spec does not state (log
entry 20). -/
def layerNorm (eps : Nat) (gain xs : List Nat) : List Nat :=
  let w (x : Nat) : W32 := BitVec.ofNat 32 x
  let sum := w (rowSum xs)
  let squares := w (rowSquares (xs.map fun x => (Config.layerTerm sum xs.length (w x)).toNat))
  List.zipWith (fun x g => (Config.layerNorm (w eps) sum squares xs.length (w x) (w g)).toNat) xs gain

/-- A row after NORM: RMSNorm by the steps of R110 with the packet's epsilon, or LayerNorm. -/
def normRow (layer : Bool) (eps : Nat) (gain xs : List Nat) : List Nat :=
  if layer then layerNorm eps gain xs else rmsNorm eps gain xs

/-- What NORM does (its command below). -/
def normBody (p : Pkt) (ac : Acc) : A s0 Fin := do
  let g ← rdRow ac (p.desc 3) []
  rowwise ac p.dies (p.desc 4) [p.desc 2] fun xs =>
    (normRow (p.b 5 0) (p.f 5 63 32) (g.map to32) ((xs.headD []).map to32)).map of32
  pure {}

/-- `NORM` (R83). -/
def execNorm (c id : Nat) (s : State) : Outcome := M.go s (opOf c id [0x19] 0 normBody)

/-- A row's softmax: e(x - max) over the sum, each reduced as R83 says (R83, R223). -/
def softmaxRow (xs : List Nat) : List Nat :=
  let m := rowMax xs
  let es := xs.map fun x => exp32 (sub32 x m)
  let d := rowSum es
  es.map fun e => div32 e d

/-- What SOFTMAX does (its command below). -/
def softmaxBody (p : Pkt) (ac : Acc) : A s0 Fin := do
  let z := p.desc 3
  if p.f 4 31 0 ≠ 0 then
    let hdr ← rdWords ac (p.f 4 31 0) 2
    let _ ← rdWords ac (p.f 4 31 0 + 16) (2 * bits (nth hdr 0) 13 0)
  rowwise ac p.dies z [p.desc 2] fun xs => (softmaxRow ((xs.headD []).map to32)).map of32
  if p.f 4 31 0 ≠ 0 then (each z.offsets (freeElem ac z) : M s0 _)
  pure {}

/-- `SOFTMAX` (R83). With a length table the spec does not state which elements a row's softmax covers: the elements of Z are
free values (log entry 22). -/
def execSoftmax (c id : Nat) (s : State) : Outcome := M.go s (opOf c id [0x1A] 0 softmaxBody)

/-- What QUANTISE does (its command below). -/
def quantiseBody (p : Pkt) (ac : Acc) : A s0 Fin := do
  rowwise ac p.dies (p.desc 3) [p.desc 2] fun xs => xs.headD []
  pure {}

/-- `QUANTISE` (R61, R124, R125). -/
def execQuantise (c id : Nat) (s : State) : Outcome := M.go s (opOf c id [0x1B] 0 quantiseBody)

/-! ### ROTARY_Q -/

/-- A row rotated at a position (R248): cos and sin of each pair. -/
def rotate (cos sin xs : List Nat) : List Nat :=
  let h := xs.length / 2
  let at_ (i : Nat) : Nat × Nat := (nth xs i, nth xs (i + h))
  ((List.range h).map fun i => let (a, b) := at_ i; fma32 a (nth cos i) (neg32 (mul32 b (nth sin i)))) ++
  (List.range h).map fun i => let (a, b) := at_ i; fma32 a (nth sin i) (mul32 b (nth cos i))

/-- The cos and sin of a position in a rotary table (R248). -/
def rdRotary (ac : Acc) (t : Desc) (pos : Nat) : A s0 (List Nat × List Nat) := do
  let cs ← rdElems ac t ((List.range (t.size 1)).map fun i => t.offset [0, i, pos])
  let ss ← rdElems ac t ((List.range (t.size 1)).map fun i => t.offset [1, i, pos])
  pure (cs.map Prod.fst, ss.map Prod.fst)

/-- One row of Q rotated; a position outside the table gives values the spec does not state (log entry 22). -/
def rotaryRow (ac : Acc) (q rot : Desc) (outer : List Nat) (pos : Int) : A s0 (List Wr × Nat × Nat) := do
  let x ← rdRow ac q outer
  if 0 ≤ pos ∧ pos < rot.size 2 then
    let (cos, sin) ← rdRotary ac rot pos.toNat
    pure (outRow q outer ((rotate cos sin (x.map to32)).map of32))
  else
    let vs ← mapA (fun _ => do
      let n ← (takeFresh : M s0 _)
      pure (of32 ((Config.free n).toNat % 2 ^ 32))) x
    pure (outRow q outer vs)

/-- What ROTARY_Q does (its command below). -/
def rotaryBody (p : Pkt) (ac : Acc) : A s0 Fin := do
  let q := p.desc 2
  let ps ← rdIndexes ac (p.desc 3)
  let rows ← mapA (fun o => rotaryRow ac q (p.desc 4) o (ps.getD (if q.rank = 1 then 0 else o.getLastD 0) 0)) q.outers
  putRows ac p.dies rows
  (openDest ac q [p.desc 3, p.desc 4] : M s0 _)
  pure {}

/-- `ROTARY_Q` (R248): Q is rotated in place, each row at the position its outermost index names (log entry 22). -/
def execRotaryQ (c id : Nat) (s : State) : Outcome := M.go s (opOf c id [0x1C] 0 rotaryBody)

/-! ### MOE_ROUTE -/

/-- Expert e stands before f in a row of logits: the larger logit, then the rank the spec leaves open (log entry 20). -/
def routeBefore (row : List W32) (e f : Nat) : Bool :=
  let a := (row.getD e 0).toNat
  let b := (row.getD f 0).toNat
  lt32 b a || (!lt32 a b && (decide (Config.routeTie row e < Config.routeTie row f) ||
    (Config.routeTie row e == Config.routeTie row f && decide (e < f))))

/-- The k chosen experts of a row, in the order written. -/
def chooseExperts (row : List W32) (k : Nat) : List Nat :=
  let best := (sortBy (routeBefore row) (List.range row.length)).take k
  sortBy (fun e f => decide (Config.routeOrder row k e < Config.routeOrder row k f) ||
    (Config.routeOrder row k e == Config.routeOrder row k f && decide (e < f))) best

/-- What MOE_ROUTE does (its command below). -/
def moeRouteBody (p : Pkt) (ac : Acc) : A s0 Fin := do
  let x := p.desc 2
  let k := p.f 5 3 0
  let rows ← mapA (fun i => do
    let xs ← rdRow ac x [i]
    let row := xs.map fun v => BitVec.ofNat 32 (to32 v)
    let es := chooseExperts row k
    pure (outRow (p.desc 3) [i] (es.map fun e => .ofInt (Int.ofNat e)),
      outRow (p.desc 4) [i] (es.map fun e => of32 (Config.routeWeight row k e).toNat))) (List.range (x.size 1))
  putRows ac p.dies (rows.map Prod.fst ++ rows.map Prod.snd)
  (openDest ac (p.desc 3) [x, p.desc 4] : M s0 _)
  (openDest ac (p.desc 4) [x, p.desc 3] : M s0 _)
  pure {}

/-- `MOE_ROUTE` (R61). -/
def execMoeRoute (c id : Nat) (s : State) : Outcome := M.go s (opOf c id [0x20] 0 moeRouteBody)

end Sys2Proof.Machine
end

