-- ==== Sys2Proof/Machine/KvMath.lean ====
section
/-!
DEFINITION. The arithmetic of the KV cache and of attention (chapter 08): the layout of a page and its two formats (R242 to
R246), the partial softmax of a stack (R263, R264) and the combination of stacks (R265).
-/
namespace Sys2Proof.Machine

/-! ### Pages (R242, R243) -/

/-- Bytes of the FP16 part of a region. -/
def kvF16Bytes (d : Nat) (global : Bool) : Nat := if global then 128 else max 64 (d / 2)

/-- Bytes of a region; the page formats are 0xA KV8B and 0xB KV4B. -/
def kvRegion (fmt d : Nat) (global : Bool) : Nat := if fmt = 10 then 66 * d else 36 * d + kvF16Bytes d global

/-- Bytes of a page: a K region and a V region. -/
def kvPageBytes (fmt d : Nat) (global : Bool) : Nat := 2 * kvRegion fmt d global

/-- Offset in its region of the FP16 block scale of slot t (R243). -/
def kvF16At (d : Nat) (global : Bool) (t : Nat) : Nat := 36 * d + if global then 2 * t else 2 * (t * d / 256)

/-- Byte i of a list as a number. -/
def byteNat (bs : List Byte) (i : Nat) : Nat := (bs.getD i 0).toNat

/-- The values of slot t of a region (R244, R245). -/
def kvRow (fmt d : Nat) (global : Bool) (bs : List Byte) (t : Nat) : List Num :=
  if fmt = 10 then
    (List.range d).map fun j => (elemNum 3 (byteNat bs (t * d + j))).mul (scaleNum (byteNat bs (64 * d + t * (d / 32) + j / 32)))
  else
    let big := elemNum 2 (ofBytes ((bs.drop (kvF16At d global t)).take 2))
    (List.range d).map fun j =>
      let b := byteNat bs (t * (d / 2) + j / 2)
      let q := signed 4 (if j % 2 = 0 then b % 16 else b / 16)
      ((Num.ofInt q).mul (elemNum 3 (byteNat bs (32 * d + t * (d / 16) + j / 16)))).mul big

/-! ### Quantising (R244, R246) -/

/-- The largest finite magnitude of FP32 codes; 0 where there is none. -/
def maxFinite (xs : List Nat) : Nat :=
  ((xs.map fun x => x % 2 ^ 31).filter fun x => decide (x < 0x7F800000)).foldl max 0

/-- The FP16 block scale that a row sets (R246). -/
def kvBlockScale (xs : List Nat) : Nat :=
  max 0x0400 (convert 2 (of32 (div32 (maxFinite xs) 0x44E00000))).1

/-- An exact quotient of two finite values, the divisor above 0, rounded half to even and held within -7 to 7. -/
def quantInt (x m : Num) : Int :=
  match x, m with
  | .fin neg a e, .fin _ b f =>
    let num := a <<< (e - f).toNat
    let den := b <<< (f - e).toNat
    if den = 0 then 0
    else
      let q := num / den
      let r := num % den
      let q := if den < 2 * r ∨ (2 * r = den ∧ q % 2 = 1) then q + 1 else q
      let v := min q 7
      if neg then -(v : Int) else v
  | _, _ => 0

/-- A group of 16 under a block scale: its E4M3 scale code and its element codes (R246). -/
def kvGroup (s16 : Nat) (xs : List Nat) : Nat × List Nat :=
  if xs.any fun x => decide (0x7F800000 ≤ x % 2 ^ 31) then (0x7F, xs.map fun _ => 0)
  else
    let s := (convert 3 (of32 (div32 (maxFinite xs) (mul32 0x40E00000 (widen 2 s16))))).1
    let m := (elemNum 3 s).mul (elemNum 2 s16)
    (s, xs.map fun x => if s = 0 then 0 else wrap 4 (quantInt (of32 x) m))

/-- Element codes in pairs, the even index low. -/
def nibblePairs : List Nat → List Byte
  | a :: b :: rest => BitVec.ofNat 8 (a + 16 * b) :: nibblePairs rest
  | [a] => [BitVec.ofNat 8 a]
  | [] => []

/-- A list cut into groups of n. -/
def groupsOf {α : Type} (n : Nat) (xs : List α) : List (List α) :=
  (List.range (xs.length / n)).map fun g => (xs.drop (n * g)).take n

/-- A quantised row: value bytes, scale bytes. -/
def kvEncode (fmt s16 : Nat) (xs : List Nat) : List Byte × List Byte :=
  if fmt = 10 then
    let bs := (blocks32 (xs.map of32)).map (mxBlock 5)
    (bs.flatMap fun b => b.2.1.map (BitVec.ofNat 8), bs.map fun b => BitVec.ofNat 8 b.1)
  else
    let gs := (groupsOf 16 xs).map (kvGroup s16)
    (nibblePairs (gs.flatMap Prod.snd), gs.map fun g => BitVec.ofNat 8 g.1)

/-- Slot t is the first of its FP16 block, and so sets the block's scale (R246). -/
def setsBlock (d t : Nat) : Bool := t % max 1 (256 / d) == 0

/-- The bytes of a region that a quantised row writes at slot t: offset and bytes (R243, R250). `scale` is the FP16 scale to
write, where one is written. -/
def kvPut (fmt d : Nat) (global : Bool) (t : Nat) (row : List Byte × List Byte) (scale : Option Nat) :
    List (Nat × List Byte) :=
  if fmt = 10 then [(t * d, row.1), (64 * d + t * (d / 32), row.2)]
  else [(t * (d / 2), row.1), (32 * d + t * (d / 16), row.2)] ++
    match scale with
    | some s => [(kvF16At d global t, toBytes 2 s)]
    | none => []

/-! ### Scores and partials (R263, R264) -/

/-- A row of Q as attention takes it: converted to MXFP8 E4M3 in blocks of 32 (R247). -/
def qHat (x : List Nat) : List Num := fedRow 1 (x.map of32)

/-- u of a key (R263). -/
def scoreU (scale : Nat) (q k : List Num) : Nat := mul32 (mul32 (to32 (exactSum (prods q k))) scale) l2e

/-- The ceiling of a value; 0 for one that is not finite. -/
def ceilNum : Num → Int
  | .fin neg m e => -floorNum (!neg) m e
  | _ => 0

/-- The power 2^k as a value. -/
def two (k : Int) : Num := .fin false 1 k

/-- A page's part of a partial: its reference r_P and the converted weights with their V rows; no keys; or a NaN (R264). -/
inductive PagePart where
  | nan
  | none
  | some (r : Int) (ws : List (Num × List Num))
  deriving DecidableEq, Repr

/-- A page's part from its attended keys: slot, u, V row. -/
def pagePart (keys : List (Nat × Nat × List Num)) : PagePart :=
  let ks := keys.filter fun k => k.2.1 != ninf32
  if ks.any fun k => isNan32 k.2.1 || k.2.1 == inf32 then .nan
  else match ks.map fun k => ceilNum (of32 k.2.1) with
    | [] => .none
    | r :: rs =>
      let r := rs.foldl max r
      let w := (List.range 64).map fun t =>
        match ks.find? fun k => k.1 == t with
        | some k => of32 (pow2 (sub32 k.2.1 (int32 r)))
        | none => .zero false
      let wh := fedRow 1 w
      .some r (ks.map fun k => (wh.getD k.1 .nan, k.2.2))

/-- A stack record: MAX, SUM, O, as FP32 codes (R264). -/
structure Rec where
  max : Nat
  sum : Nat
  o : List Nat
  deriving DecidableEq, Repr

/-- The exact sums of a partial before its one rounding: MAX as an FP32 code, L, O (R264, R266). -/
structure Sums where
  max : Nat
  sum : Num
  o : List Num
  deriving DecidableEq, Repr

/-- The sums of a partial with a NaN, and of one with no keys (R264). -/
def Sums.nan (d : Nat) : Sums := ⟨nan32, .nan, List.replicate d .nan⟩
def Sums.none (d : Nat) : Sums := ⟨ninf32, .zero false, List.replicate d (.zero false)⟩

/-- A record: the sums rounded once (R264). -/
def Sums.round (x : Sums) : Rec :=
  if isNan32 x.max then ⟨nan32, nan32, x.o.map fun _ => nan32⟩ else ⟨x.max, to32 x.sum, x.o.map to32⟩

/-- The exact sums of a stack from its pages' parts (R264). -/
def stackSums (d : Nat) (parts : List PagePart) : Sums :=
  if parts.any (· == .nan) then Sums.nan d
  else
    let ps := parts.filterMap fun p => match p with | .some r ws => some (r, ws) | _ => none
    match ps.map Prod.fst with
    | [] => Sums.none d
    | r :: rs =>
      let rs := rs.foldl max r
      let ws := ps.flatMap fun (r, ws) => ws.map fun (w, v) => (w.mul (two (r - rs)), v)
      ⟨int32 rs, exactSum (ws.map Prod.fst),
        (List.range d).map fun j => exactSum (ws.map fun (w, v) => w.mul (v.getD j .nan))⟩

/-- The record of a stack from its pages' parts (R264). -/
def stackRec (d : Nat) (parts : List PagePart) : Rec := (stackSums d parts).round

/-- x * 2^k with one rounding. -/
def scale2 (x : Nat) (k : Int) : Nat := to32 ((of32 x).mul (two k))

/-- The integer that a MAX holds. -/
def Rec.r (x : Rec) : Int := ceilNum (of32 x.max)
def Sums.r (x : Sums) : Int := ceilNum (of32 x.max)

/-- The stack records combined in ascending stack number (R265). -/
def combineRecs (d : Nat) (rs : List Rec) : List Nat :=
  if rs.any fun x => isNan32 x.max then List.replicate d nan32
  else
    let live := rs.filter fun x => x.max != ninf32
    let top := match live.map Rec.r with
      | [] => 0
      | r :: l => l.foldl max r
    let l := live.foldl (fun a x => add32 a (scale2 x.sum (x.r - top))) 0
    (List.range d).map fun j => div32 (live.foldl (fun a x => add32 a (scale2 (nth x.o j) (x.r - top))) 0) l

/-- Bytes of FP32 codes. -/
def bytes32 (xs : List Nat) : List Byte := xs.flatMap (toBytes 4)

/-- FP32 codes of bytes. -/
def codes32 (bs : List Byte) (n : Nat) : List Nat := (List.range n).map fun i => ofBytes ((bs.drop (4 * i)).take 4)

/-- A record's bytes (R264). -/
def Rec.bytes (x : Rec) : List Byte := bytes32 (x.max :: x.sum :: x.o)

end Sys2Proof.Machine
end

