-- ==== Sys2Proof/Machine/Units.lean ====
section
/-!
DEFINITION. The galliard units (chapter 07): near mode, tickets and runs, the unit operations, strikes and service.
Units are named by stack n and physical pseudo-channel p.
-/
namespace Sys2Proof.Machine

variable {s0 : State}

/-! ### Units -/

/-- A unit's number among all: its location in an error record (R470). -/
def uKey (n p : Nat) : Nat := 32 * n + p

/-- The unit exists and its stack is not in reset. -/
def State.unitUp (s : State) (n p : Nat) : Bool := decide (n < 12) && decide (p < 32) && !s.inReset (.stack n)

/-- MODE: 0 NORMAL, 1 ENTERING, 2 NEAR, 3 EXITING; SERVICE: 0 IN, 1 OUT, 2 TESTING, 3 CHANNEL (R219). -/
def State.unitMode (s : State) (n p : Nat) : Nat := s.fld F.galUnitState_mode n p
def State.unitService (s : State) (n p : Nat) : Nat := s.fld F.galUnitState_service n p

/-- Service of the units in service: FEAT_GALLIARD follows (R77, R235, R236). -/
def setService (n p v : Nat) : M s0 Unit := do
  let s ← cur
  let old := s.unitService n p
  setF F.galUnitState_service v n p
  if old = 0 ∧ v ≠ 0 then featSet F.featGalliard_value (s.fld F.featGalliard_value - 1)
  else if old ≠ 0 ∧ v = 0 then featSet F.featGalliard_value (s.fld F.featGalliard_value + 1)

/-- A refused access to the galliard window (R208, R209, R215). -/
def windowRefused (n : Nat) : M s0 Unit := bump F.galWindowRefused_count 1 n

/-- The register field QUEUED follows the queue. -/
def refreshUnit (n p : Nat) : M s0 Unit := do
  setF F.galUnitState_queued ((← cur).unitsAt (uKey n p)).queue.length n p

/-- A record about a unit (R471). -/
def unitRec (n p sev : Nat) : ErrRec := { kind := 0x10, sev := sev, source := 1, loc := uKey n p }

/-! ### The operand buffer (R206, R217): the model's own storage from 2^48 on, then the tags of its 1 KiB lines -/

/-- The buffer's address in the model. -/
def bufBase (n p : Nat) : Nat := 2 ^ 48 + uKey n p * 2 ^ 20

/-- The buffer and its tags return to zero. -/
def clearBuf (n p : Nat) : M s0 Unit :=
  eff (.dropMem fun a => decide (bufBase n p ≤ a) && decide (a < bufBase n p + 2 ^ 20))

/-- A line's tag plus one; 0 where no run has written it. -/
def State.lineTag (s : State) (n p line : Nat) : Nat := ofBytes (s.bytesAt (bufBase n p + 2 ^ 18 + 4 * line) 4)

/-- Bytes of the buffer as a run reads them: zeros in a line another run wrote last (R217). -/
def State.bufRead (s : State) (n p tag off len : Nat) : List Byte :=
  (List.range len).map fun i =>
    let o := (off + i) % 2 ^ 18
    if s.lineTag n p (o / 1024) = tag + 1 then s.byteAt (bufBase n p + o) else 0

/-- A line that a run writes first takes the run's tag; what another run left in it reads as zero (R217). -/
def claimLine (n p tag line : Nat) : M s0 Unit := do
  if (← cur).lineTag n p line ≠ tag + 1 then
    eff (.dropMem fun a => decide (bufBase n p + 1024 * line ≤ a) && decide (a < bufBase n p + 1024 * (line + 1)))
    pokeBytes (bufBase n p + 2 ^ 18 + 4 * line) (toBytes 4 (tag + 1))

/-- Bytes into the buffer. -/
def bufWrite (n p tag off : Nat) (bs : List Byte) : M s0 Unit := do
  if !bs.isEmpty then
    each ((List.range ((off + bs.length - 1) / 1024 + 1 - off / 1024)).map (off / 1024 + ·)) (claimLine n p tag)
    pokeBytes (bufBase n p + off) bs

/-! ### Near mode (R209 to R213) -/

/-- An accepted ENTER begins (R210 beat 1). -/
def startEnter (n p : Nat) : M s0 Unit := setF F.galUnitState_mode 1 n p

/-- An accepted EXIT begins (R211 beat 1). -/
def startExit (n p : Nat) : M s0 Unit := setF F.galUnitState_mode 3 n p

/-- A CONTROL write that asks to ENTER (R209). -/
def enterWrite (n p : Nat) : M s0 Unit := do
  let s ← cur
  if s.unitMode n p = 0 ∧ s.unitService n p = 0 then startEnter n p else windowRefused n

/-- A CONTROL write that asks to EXIT (R209). -/
def exitWrite (n p : Nat) : M s0 Unit := do
  if (← cur).unitMode n p = 2 then startExit n p else windowRefused n

/-- The revision of the microcode that an entry of a unit of stack n loads: that of slot MICRO_SLOT (R210, R237). -/
def State.microRev (s : State) (n : Nat) : Nat := (s.sec.micro.getD (s.fld F.galCfg_microSlot n) {}).rev

/-- The unit is NEAR (R210 beat 6). -/
def becomeNear (n p : Nat) : M s0 Unit := do
  let s ← cur
  clearBuf n p
  setF F.galUnitState_mode 2 n p
  setF F.galUnitState_microRev (s.microRev n) n p
  modUnits (uKey n p) fun x => { x with modeTime := s.now, idleSince := s.now }
  bump F.galUnitEntries_count 1 n p

/-- The unit is NORMAL (R211 beats 3 and 4): its tickets are FREE. -/
def becomeNormal (n p : Nat) : M s0 Unit := do
  let s ← cur
  clearBuf n p
  setF F.galUnitState_mode 0 n p
  modUnits (uKey n p) fun x => { x with
    tickets := [], queue := [], tails := [], running := none, modeTime := s.now, reexec := 0 }
  refreshUnit n p

/-- A test ends OUT with TEST_FAILED (R236). -/
def testFails (n p : Nat) : M s0 Unit := do
  modUnits (uKey n p) fun x => { x with test := false, ret := false }
  setFlag F.galUnitState_testFailed true n p
  setF F.galUnitState_service 1 n p

/-- `NEAR_ENTER_DONE` (R210): the CRC and the self-check passed or failed; a test whose entry fails ends (R236). -/
def execNearEnterDone (n p : Nat) (ok : Bool) (s : State) : Outcome :=
  M.go s (if s.unitUp n p ∧ s.unitMode n p = 1 then do
    if ok then becomeNear n p
    else
      setF F.galUnitState_mode 0 n p
      if s.unitService n p = 0 then setService n p 1
      if s.unitService n p = 2 then testFails n p
      errRecord (unitRec n p 2)
  else pure ())

/-- `NEAR_EXIT_DONE` (R211): once every accepted run has completed; a unit out of service runs none of them (R235). -/
def execNearExitDone (n p : Nat) (s : State) : Outcome :=
  M.go s (if s.unitUp n p ∧ s.unitMode n p = 3 ∧
      ((s.unitsAt (uKey n p)).queue.isEmpty ∨ s.unitService n p ≠ 0) then becomeNormal n p else pure ())

/-! ### Strikes and service (R234 to R236) -/

/-- A strike counts: it is no older than the window (R97, R100). -/
def State.strikeLive (s : State) (d : Nat) (k : Strike) : Bool := s.inWindow d k.time

/-- The strikes of a location that count. -/
def State.strikesOf (s : State) (d loc : Nat) (unit : Bool) : Nat :=
  (s.strikes.filter fun k => k.loc == loc && k.unit == unit && s.strikeLive d k).length

/-- Age of a strike in whole minutes (R100). -/
def State.ageOf (s : State) (k : Strike) : Nat := (((s.now : Int) - k.time) / 60000000).toNat

/-- Stored strikes in the retirement log: kind 0 a core's, 1 a unit's; location; age in minutes (R99, R100). -/
def State.strikeLog (s : State) : List (Nat × Nat × Nat) := s.strikes.map fun k => (b2n k.unit, k.loc, s.ageOf k)

/-- Every stored age is written again (R100). -/
def rewriteAges : M s0 Unit := do
  let s ← cur
  modRetlog fun l => s.strikeLog ++ l.filter fun e => decide (2 ≤ e.1)

/-- A retirement's entry in the log: kind 2 core, 3 set, 4 unit; index; 1 retired (R99). -/
def logRetire (kind idx : Nat) (on : Bool) : M s0 Unit :=
  modRetlog fun l => (l.filter fun e => !(e.1 == kind && e.2.1 == idx)) ++ if on then [(kind, idx, 1)] else []

/-- A strike is given and logged (R97, R99, R100). -/
def addStrike (loc : Nat) (unit : Bool) : M s0 Unit := do
  let s ← cur
  modStrikes fun l => l ++ [{ loc := loc, unit := unit, time := s.now }]
  rewriteAges

/-- The die that owns a stack. -/
def dieOf (n : Nat) : Nat := if n < 6 then 0 else 1

/-- A unit leaves service; it leaves near mode without running further commands (R235, R236, log entry 31). -/
def unitOut (n p : Nat) : M s0 Unit := do
  let s ← cur
  if s.unitService n p = 0 then setService n p 1
  logRetire 4 (uKey n p) true
  modUnits (uKey n p) fun x => { x with outDue := false }
  if s.unitMode n p = 2 then startExit n p
  else if s.unitMode n p = 1 then becomeNormal n p

/-- A failed check gives a strike; the second within the window takes the unit out of service, else the run is executed again
(R234, R235). The strike and the loss of the unit have a record each (log entry 31). -/
def unitStrike (n p : Nat) : M s0 Unit := do
  addStrike (uKey n p) true
  let s ← cur
  let k := s.strikesOf (dieOf n) (uKey n p) true
  setF F.galUnitState_strikes (min k 2) n p
  errRecord (unitRec n p 1)
  if 2 ≤ k then
    errRecord (unitRec n p 2)
    unitOut n p
  else bump F.galUnitReexec_count 1 n p

/-- Strikes of a unit are forgotten. -/
def clearStrikes (n p : Nat) : M s0 Unit := do
  modStrikes fun l => l.filter fun k => !(k.unit && k.loc == uKey n p)
  setF F.galUnitState_strikes 0 n p
  rewriteAges

/-- A GAL_UNIT_CTRL action that SERVICE does not allow (R236). -/
def ctrlIgnored (n p : Nat) : M s0 Unit := setFlag F.galUnitState_ctrlIgnored true n p

/-- A run has started and not ended (R216). -/
def State.midRun (s : State) (n p : Nat) : Bool := (s.unitsAt (uKey n p)).running.isSome

/-- OUT: the unit goes out after its current run (R236). -/
def outGo (n p : Nat) : M s0 Unit := do
  let s ← cur
  if s.unitService n p = 0 then
    if s.midRun n p then modUnits (uKey n p) fun x => { x with outDue := true }
    else
      unitOut n p
      errRecord (unitRec n p 2)
  else ctrlIgnored n p

/-- `UNIT_OUT` (R236): at once, or after the current run. -/
def execUnitOut (n p : Nat) (s : State) : Outcome :=
  M.go s (atReg ⟨.galUnitCtrl, n, p, 0⟩ (outGo n p))

/-- A test begins: TESTING, entering (R236). -/
def startTest (n p : Nat) (ret : Bool) : M s0 Unit := do
  if (← cur).unitService n p = 1 then
    if ret then clearStrikes n p
    setF F.galUnitState_service 2 n p
    setF F.galUnitState_mode 1 n p
    modUnits (uKey n p) fun x => { x with test := true, ret := ret }
  else ctrlIgnored n p

/-- `UNIT_TEST` (R236). -/
def execUnitTest (n p : Nat) (s : State) : Outcome := M.go s (atReg ⟨.galUnitCtrl, n, p, 0⟩ (startTest n p false))

/-- `UNIT_RETURN` (R236). -/
def execUnitReturn (n p : Nat) (s : State) : Outcome := M.go s (atReg ⟨.galUnitCtrl, n, p, 0⟩ (startTest n p true))

/-- A completed command rises in a unit's counters (R239). -/
def countSelftest (n p : Nat) : M s0 Unit := do
  let k ← takeFresh
  bump F.galUnitBusyCycles_count (Config.free k).toNat n p
  bump F.galUnitCommands_count 1 n p

/-- `UNIT_TEST_DONE` (R236): entry, self-test and exit have ended, or one of them has failed. An entry not yet seen to end has
passed where the test passes. The self-test takes about 2 ms: its cycles are free (log entry 31). -/
def execUnitTestDone (n p : Nat) (pass : Bool) (s : State) : Outcome :=
  M.go s (if s.unitUp n p ∧ (s.unitsAt (uKey n p)).test then do
    let ret := (s.unitsAt (uKey n p)).ret
    if pass ∧ s.unitMode n p = 1 then becomeNear n p
    if (← cur).unitMode n p = 2 then countSelftest n p
    becomeNormal n p
    if pass then
      modUnits (uKey n p) fun x => { x with test := false, ret := false }
      if ret then
        setService n p 0
        logRetire 4 (uKey n p) false
      else setF F.galUnitState_service 1 n p
    else testFails n p
  else pure ())

/-! ### Tickets and runs (R214 to R220) -/

/-- A ticket of a unit. -/
def State.ticket (s : State) (n p t : Nat) : Ticket := Tab.get {} (s.unitsAt (uKey n p)).tickets t

/-- A ticket changed by a function. -/
def modTicket (n p t : Nat) (f : Ticket → Ticket) : M s0 Unit :=
  modUnits (uKey n p) fun x => { x with tickets := Tab.put {} x.tickets t (f (Tab.get {} x.tickets t)) }

/-- Bit 31 of an address word is no reserved bit: AUX holds the scale of an ELT that scales (R221). -/
def scaleWord (ws : List Nat) (i : Nat) : Bool := i == 6 && bits (nth ws 1) 7 0 == 0x20 && bits (nth ws 7) 39 32 == 4

/-- The reserved bits of a command but for those of its address words are 0 (R214). -/
def fieldsOk (ws : List Nat) : Bool :=
  bits (nth ws 0) 35 2 == 0 && bits (nth ws 1) 63 48 == 0 && bits (nth ws 1) 31 29 == 0 && bits (nth ws 1) 23 20 == 0

/-- The reserved bits of a command are 0 (R214). -/
def commandOk (ws : List Nat) : Bool := fieldsOk ws && [3, 4, 5, 6].all fun i => !bit (nth ws i) 31 || scaleWord ws i

/-- Fields of a command (R214). -/
def cTag (ws : List Nat) : Nat := bits (nth ws 0) 63 48
def cLast (ws : List Nat) : Bool := bit (nth ws 0) 0
def cUop (ws : List Nat) : Nat := bits (nth ws 1) 7 0

/-- The place in its run of a command written to ticket t: the first, or the one after the ticket before it where the run of t's
caller has not ended; none where no caller writes it (R215, R216, log entry 31). -/
def State.nextPos (s : State) (n p t : Nat) : Option Nat :=
  match (s.unitsAt (uKey n p)).tails.find? fun e => e.1 / 4 == t / 4 with
  | some (u, k) => if t = u + 1 then some (k + 1) else none
  | none => some 0

/-- A ticket put into the order in which a unit runs: a run's first command at the end, a later one after the one before it, or
at the front where that one is DONE (R216). -/
def placeTicket (t pos : Nat) (q : List Nat) : List Nat :=
  if pos = 0 then q ++ [t]
  else if q.contains (t - 1) then q.flatMap fun u => if u = t - 1 then [u, t] else [u]
  else t :: q

/-- The ticket that runs: the first in the unit's order, unless it belongs to another run than the one that has started; units
out of near mode or out of service run none (R216). -/
def State.runningTicket (s : State) (n p : Nat) : Option Nat :=
  let x := s.unitsAt (uKey n p)
  if s.unitUp n p ∧ s.unitService n p = 0 ∧ (s.unitMode n p = 2 ∨ s.unitMode n p = 3) then
    x.queue.head?.filter fun t => x.running.all fun k => k == t / 4
  else none

/-- A write of zeros to a RESULT entry (R220): it frees a DONE ticket; to any other it is refused. -/
def releaseWrite (n p t : Nat) : M s0 Unit := do
  if ((← cur).ticket n p t).st = 3 then modTicket n p t fun _ => {} else windowRefused n

/-! ### Banks -/

/-- The device physical address of a bank address of a physical pseudo-channel: bits [30:16] row, [15:0] byte (R214, the
placement of R199 read backwards). -/
def State.bankDpa (s : State) (n p a : Nat) : Nat :=
  let row := a / 65536 % 32768
  let dead := s.dead n
  let ds := deadUnits n dead
  let live := (List.range 32).filter fun x => !ds.contains x
  let (r, u) :=
    if ds.isEmpty ∨ row < liveRows n dead then (row, p)
    else
      let j := live.length * (row - liveRows n dead) + live.idxOf p
      (j / ds.length, ds.getD (j % ds.length) 0)
  n * 2 ^ 36 + (r * 32 + u) * 65536 + a % 65536

/-- Bytes of a bank; poison stops at the bank address of the granule. -/
def bankPieces (ac : Acc) (n p : Nat) : List (Nat × Nat × Nat) → A s0 (List Byte)
  | [] => pure []
  | (a, _, len) :: ps => do
    let bs ← rdPhys ac a ((← (cur : M s0 _)).bankDpa n p a) len
    let rest ← bankPieces ac n p ps
    pure (bs ++ rest)

/-- A granule changed as read and written back whole (R231, R249); cores that stand in for a unit read it over the port (R29).
`la` is the address by which the writer names the byte at `a`. -/
def changeGran (ac : Acc) (la a g : Nat) (f : List Byte → List Byte) : A s0 Unit := do
  if !ac.unit then noteGran g false
  let (old, rb) ← (readGran ac.who g : M s0 _)
  if rb then noteRebuilt [g]
  match old with
  | none => throw (.poison (max la (la + 64 * g - a)) (64 * g))
  | some o => (writeGran g (f o) : M s0 _)

/-- Granules written whole: a part is merged into the granule as read (R231, R249). -/
def unitPut (ac : Acc) (la a : Nat) (bs : List Byte) : List Nat → A s0 Unit
  | [] => pure ()
  | g :: gs => do
    let (off, p) := pieceOf a bs g
    if p.length = 64 then (writeGran g p : M s0 _)
    else changeGran ac la a g fun o => o.take off ++ p ++ o.drop (off + p.length)
    unitPut ac la a bs gs

/-- Bytes into a bank. -/
def bankPut (ac : Acc) (n p : Nat) (bs : List Byte) : List (Nat × Nat × Nat) → A s0 Unit
  | [] => pure ()
  | (a, o, len) :: ps => do
    let s ← (cur : M s0 _)
    let dpa := s.bankDpa n p a
    if s.refusesWrite dpa then throw (.flt stProt a true 0)
    snoopAll ac true (gransOf dpa len)
    noteUse ac dpa len true
    unitPut ac a dpa ((bs.drop o).take len) (gransOf dpa len)
    bankPut ac n p bs ps

/-! ### Operations (R221, R222) -/

/-- What an operation used: MACs, bank bytes read and written, lane cycles. -/
structure UopUse where
  macs : Nat := 0
  rd : Nat := 0
  wr : Nat := 0
  cycles : Nat := 0
  deriving DecidableEq, Repr

/-- A unit that runs a command: where, for whom, under which tag, and the command's words. -/
structure UCmd where
  n : Nat
  p : Nat
  ac : Acc
  tag : Nat
  ws : List Nat
  deriving DecidableEq, Repr

def UCmd.f (u : UCmd) (i hi lo : Nat) : Nat := bits (nth u.ws i) hi lo
def UCmd.fmtA (u : UCmd) : Nat := u.f 1 11 8
def UCmd.fmtB (u : UCmd) : Nat := u.f 1 15 12
def UCmd.fmtOut (u : UCmd) : Nat := u.f 1 19 16
def UCmd.m (u : UCmd) : Nat := u.f 1 28 24
def UCmd.cols (u : UCmd) : Nat := u.f 1 47 32
def UCmd.k (u : UCmd) : Nat := u.f 2 31 0
def UCmd.kFirst (u : UCmd) : Nat := u.f 2 63 32
def UCmd.len (u : UCmd) : Nat := u.f 7 31 0
def UCmd.param (u : UCmd) : Nat := u.f 7 63 32

/-- Address word i names the operand buffer. -/
def UCmd.inBuf (u : UCmd) (i : Nat) : Bool := bit (nth u.ws i) 63

/-- len bytes at an offset of the operand that address word i names lie within the buffer, or within the bank; else the field
is outside its operation's ranges (R221). -/
def UCmd.within (u : UCmd) (i off len : Nat) : A s0 Unit :=
  if u.f i 30 0 + off + len ≤ (if u.inBuf i then 2 ^ 18 else 2 ^ 31) then pure () else throw .internal

/-- Bytes at an offset of the operand that address word i names. -/
def UCmd.read (u : UCmd) (i off len : Nat) : A s0 (List Byte) := do
  u.within i off len
  if u.inBuf i then pure ((← (cur : M s0 _)).bufRead u.n u.p u.tag (u.f i 17 0 + off) len)
  else bankPieces u.ac u.n u.p (pagePieces (u.f i 30 0 + off) len)

/-- Bytes to the operand that address word i names. -/
def UCmd.write (u : UCmd) (i : Nat) (bs : List Byte) : A s0 Unit := do
  u.within i 0 bs.length
  if u.inBuf i then (bufWrite u.n u.p u.tag (u.f i 17 0) bs : M s0 _)
  else bankPut u.ac u.n u.p bs (pagePieces (u.f i 30 0) bs.length)

/-- Bytes of the operand of word i that cross the bank port. -/
def UCmd.bank (u : UCmd) (i len : Nat) : Nat := if u.inBuf i then 0 else len

/-- Bytes of n elements of a format. -/
def fmtBytes (fmt n : Nat) : Nat := if fmt = 7 then (n + 1) / 2 else n * elemBytes fmt

/-- Element i of a run of bytes of a format. -/
def elemOf (fmt : Nat) (bs : List Byte) (i : Nat) : Nat :=
  if fmt = 7 then (if i % 2 = 0 then byteNat bs (i / 2) % 16 else byteNat bs (i / 2) / 16)
  else ofBytes ((bs.drop (i * elemBytes fmt)).take (elemBytes fmt))

/-- n elements of a format as values, with the scale codes of their blocks of 32. -/
def valuesOf (fmt : Nat) (bs scales : List Byte) (n : Nat) : List Num :=
  (List.range n).map fun i => scaledNum fmt (elemOf fmt bs i) (byteNat scales (i / 32))

/-- The values of n elements of the operand of word i: the scales of an MX operand lie in its scale plane, or, in the buffer,
behind its elements (log entry 30). -/
def UCmd.values (u : UCmd) (i fmt n : Nat) : A s0 (List Num) := do
  let bs ← u.read i 0 (fmtBytes fmt n)
  let sc ← (if isMx fmt then
      if u.inBuf i then u.read i (fmtBytes fmt n) (n / 32)
      else bankPieces u.ac u.n u.p (pagePieces (u.f i 62 32) (n / 32))
    else pure [])
  pure (valuesOf fmt bs sc n)

/-- A list cut into rows of n. -/
def rowsOf (n : Nat) (xs : List Num) : List (List Num) := if n = 0 then [] else groupsOf n xs

/-- The chunk values of one element in the form a unit writes (R222): one running sum where the share is the product's first,
else every chunk. -/
def shareValues (first : Nat) (ar : Arith) (x y : List Num) : List Nat :=
  let vs := chunkValues ar.bf16 (prods (fedRow ar.feed x) y)
  if first = 0 then [addChunks vs] else vs

/-- The chunk values of a share in the order of R222. -/
def shareAll (first : Nat) (ar : Arith) (rows cols : List (List Num)) : List Nat :=
  rows.flatMap fun x => cols.flatMap fun y => shareValues first ar x y

/-- Lanes of an arithmetic (R221). -/
def lanes (ar : Arith) (fa fb : Nat) : Nat := if ar.bf16 then 32 else if fa = 7 ∨ fb = 7 then 256 else 128

/-- The arithmetic a unit accepts (R222): R108's pairs but the integer one and BF16 with FP32. -/
def unitArith (fa fb : Nat) : Option Arith :=
  match arithOf fa fb with
  | some ar => if ar.int || ar.feed == 2 then none else some ar
  | none => none

/-- LOAD (R221): unchanged, or converted under R109 in rows of K. -/
def uopLoad (u : UCmd) : A s0 UopUse := do
  if u.inBuf 3 ∨ u.inBuf 5 = false then throw .internal
  let scaleBytes := if isMx u.fmtA then u.len * 8 / elemBits u.fmtA / 32 else 0
  let use : UopUse := { rd := u.len + scaleBytes, cycles := 24 + ceilDiv (u.len + scaleBytes) 80 }
  if u.fmtA = u.fmtOut then
    let bs ← u.read 3 0 u.len
    let sc ← bankPieces u.ac u.n u.p (pagePieces (u.f 3 62 32) scaleBytes)
    u.write 5 (bs ++ sc)
    pure use
  else if wideFmt u.fmtA ∧ u.fmtOut = 5 ∧ u.k ≠ 0 then
    let n := u.len / elemBytes u.fmtA
    let vs ← u.values 3 u.fmtA n
    let bl := (rowsOf u.k vs).flatMap fun r => (blocks32 r).map (mxBlock 5)
    u.write 5 ((bl.flatMap fun b => b.2.1.map (BitVec.ofNat 8)) ++ bl.map fun b => BitVec.ofNat 8 b.1)
    pure use
  else throw .internal

/-- STORE (R221): whole granules. -/
def uopStore (u : UCmd) : A s0 UopUse := do
  if u.inBuf 3 = false ∨ u.inBuf 5 ∨ u.len % 64 ≠ 0 ∨ u.f 5 30 0 % 64 ≠ 0 then throw .internal
  let bs ← u.read 3 0 u.len
  u.write 5 bs
  pure { wr := u.len, cycles := 24 + ceilDiv u.len 80 }

/-- MATVEC (R221, R222). -/
def uopMatvec (u : UCmd) : A s0 UopUse := do
  match unitArith u.fmtA u.fmtB with
  | none => throw .internal
  | some ar =>
    if u.m = 0 ∨ 16 < u.m ∨ u.k = 0 ∨ u.inBuf 3 = false then throw .internal
    let x ← u.values 3 u.fmtA (u.m * u.k)
    let w ← u.values 4 u.fmtB (u.k * u.cols)
    let vs := shareAll u.kFirst ar (rowsOf u.k x) (rowsOf u.k w)
    u.write 5 (bytes32 vs)
    let wb := fmtBytes u.fmtB (u.k * u.cols) + if isMx u.fmtB then u.k * u.cols / 32 else 0
    let macs := u.m * u.cols * u.k
    let d := u.bank 5 (4 * vs.length)
    pure { macs := macs, rd := wb, wr := d
           cycles := 64 + max (ceilDiv wb 80) (ceilDiv macs (lanes ar u.fmtA u.fmtB)) + ceilDiv d 80 }

/-- The columns of an EXPERT's slice: gate, then up, each of K; and down columns of LEN (R221, R226). -/
def uopExpert (u : UCmd) : A s0 UopUse := do
  match unitArith u.fmtA u.fmtB, unitArith 0 u.fmtB with
  | some a1, some a2 =>
    if u.m = 0 ∨ 16 < u.m ∨ u.k = 0 ∨ u.len = 0 ∨ u.len % 256 ≠ 0 ∨ 3 < u.param % 16 ∨ u.inBuf 3 = false then throw .internal
    let x ← u.values 3 u.fmtA (u.m * u.k)
    let gu ← u.values 4 u.fmtB (u.k * (2 * u.len))
    let dn ← u.values 6 u.fmtB (u.len * u.k)
    let hs := (rowsOf u.k x).map fun r => gated (u.param % 16) (productRow a1 r (rowsOf u.k gu))
    let vs := shareAll u.kFirst a2 hs (rowsOf u.len dn)
    u.write 5 (bytes32 vs)
    let wb (n : Nat) : Nat := fmtBytes u.fmtB n + if isMx u.fmtB then n / 32 else 0
    let w1 := wb (u.k * (2 * u.len))
    let w2 := wb (u.len * u.k)
    let m1 := u.m * (2 * u.len) * u.k
    let m2 := u.m * u.k * u.len
    let d := u.bank 5 (4 * vs.length)
    pure { macs := m1 + m2, rd := w1 + w2, wr := d
           cycles := 64 + (64 + max (ceilDiv w1 80) (ceilDiv m1 (lanes a1 u.fmtA u.fmtB))) + ceilDiv (u.m * u.len) 32 +
             (64 + max (ceilDiv w2 80) (ceilDiv m2 (lanes a2 0 u.fmtB)) + ceilDiv d 80) }
  | _, _ => throw .internal

/-- ELT (R221): the operations of ELTWISE on LEN elements. -/
def uopElt (u : UCmd) : A s0 UopUse := do
  let op := u.param % 256
  if 4 < op ∨ floatFmt u.fmtA = false ∨ isMx u.fmtOut ∨ floatFmt u.fmtOut = false ∨
      (op < 2 ∧ (floatFmt u.fmtB = false ∨ nth u.ws 4 = 0)) then throw .internal
  let x ← u.values 3 u.fmtA u.len
  let y ← (if op < 2 then u.values 4 u.fmtB u.len else pure x)
  let vs := List.zipWith (fun a b => (convert u.fmtOut (of32 (eltOp op (u.f 6 31 0) (to32 a) (to32 b)))).1) x y
  u.write 5 (vs.flatMap (toBytes (elemBytes u.fmtOut)))
  let s := u.bank 3 (fmtBytes u.fmtA u.len) + if op < 2 then u.bank 4 (fmtBytes u.fmtB u.len) else 0
  let d := u.bank 5 (fmtBytes u.fmtOut u.len)
  pure { rd := s, wr := d, cycles := 24 + max (ceilDiv (s + d) 80) (ceilDiv u.len 32) }

/-- The bytes that bytes at an address cost a unit: those of the granules they fill in part, which it reads; those of all their
granules, which it writes (R249). -/
def granCost (a len : Nat) : Nat × Nat :=
  let gs := gransOf a len
  (64 * (gs.filter fun g => decide (64 * g < a) || decide (a + len < 64 * g + 64)).length, 64 * gs.length)

/-- Costs added. -/
def addCost (x y : Nat × Nat) : Nat × Nat := (x.1 + y.1, x.2 + y.2)

/-- One quantised row into a region at a bank address: each piece merged into its granules (R249); the bytes read and
written. -/
def bankRow (u : UCmd) (region : Nat) : List (Nat × List Byte) → A s0 (Nat × Nat)
  | [] => pure (0, 0)
  | (o, bs) :: rest => do
    bankPut u.ac u.n u.p bs (pagePieces (region + o) bs.length)
    let x ← bankRow u region rest
    pure (addCost (granCost (region + o) bs.length) x)

/-- One row of K or V into a page's region at slot t (R246, R249); the bytes read and written. -/
def unitRow (u : UCmd) (fmt region t : Nat) (xs : List Nat) : A s0 (Nat × Nat) := do
  let d := xs.length
  let later := fmt ≠ 10 ∧ !setsBlock d t
  let s16 ← (if fmt = 10 then pure 0
    else if setsBlock d t then pure (kvBlockScale xs)
    else do pure (ofBytes (← bankPieces u.ac u.n u.p (pagePieces (region + kvF16At d false t) 2))))
  let x ← bankRow u region (kvPut fmt d false t (kvEncode fmt s16 xs) (if setsBlock d t then some s16 else none))
  pure (if later then addCost (64, 0) x else x)

/-- Rows of KV_WRITE from the i-th on; the bytes read and written. -/
def kvWriteRows (u : UCmd) (fmt : Nat) (rows rots : List Num) : (n i : Nat) → A s0 (Nat × Nat)
  | 0, _ => pure (0, 0)
  | n + 1, i => do
    let d := u.k
    let row := ((rows.drop (2 * d * i)).take (2 * d)).map to32
    let rot := ((rots.drop (d * i)).take d).map to32
    let cos := (List.range (d / 2)).map fun j => nth rot (2 * j)
    let sin := (List.range (d / 2)).map fun j => nth rot (2 * j + 1)
    let t := u.param % 64 + i
    let x ← unitRow u fmt (u.f 5 30 0) t (rotate cos sin (row.take d))
    let y ← unitRow u fmt (u.f 5 30 0 + kvRegion fmt d false) t (row.drop d)
    let z ← kvWriteRows u fmt rows rots n (i + 1)
    pure (addCost (addCost x y) z)

/-- KV_WRITE (R249) in the layout of log entry 30: M new rows, K then V in BF16, at SRC_A; their rotary rows, pairs (cos, sin)
in FP32, at SRC_B; the page at DST; FMT_OUT its format, K the head dimension, PARAM the first slot. -/
def uopKvWrite (u : UCmd) : A s0 UopUse := do
  if u.m = 0 ∨ 16 < u.m ∨ ! [64, 128, 256].contains u.k ∨ (u.fmtOut ≠ 10 ∧ u.fmtOut ≠ 11) ∨ u.inBuf 5 ∨
      64 < u.param % 64 + u.m then throw .internal
  let rows ← u.values 3 1 (2 * u.k * u.m)
  let rots ← u.values 4 0 (u.k * u.m)
  u.within 5 0 (kvPageBytes u.fmtOut u.k false)
  let (part, d) ← kvWriteRows u u.fmtOut rows rots u.m 0
  let s := u.bank 3 (4 * u.k * u.m) + u.bank 4 (4 * u.k * u.m) + part
  pure { rd := s, wr := d, cycles := 64 + ceilDiv (s + d) 80 + ceilDiv (u.m * u.k) 16 }

/-- Pages of ATTN_PART from the first bank address on, read. -/
def unitPages (u : UCmd) (fmt d : Nat) : (n a : Nat) → A s0 (List (List Byte))
  | 0, _ => pure []
  | n + 1, a => do
    let bs ← bankPieces u.ac u.n u.p (pagePieces a (kvPageBytes fmt d false))
    let rest ← unitPages u fmt d n (a + kvPageBytes fmt d false)
    pure (bs :: rest)

/-- A page's part for a query that attends its first slots. -/
def pagePartOf (fmt d scale count : Nat) (q : List Num) (page : List Byte) : PagePart :=
  pagePart ((List.range count).map fun t =>
    (t, scoreU scale q (kvRow fmt d false page t), kvRow fmt d false (page.drop (kvRegion fmt d false)) t))

/-- A value's significand without the factors of two that its exponent can take. -/
def oddPart : (fuel m : Nat) → (e : Int) → Nat × Int
  | 0, m, e => (m, e)
  | fuel + 1, m, e => if m = 0 ∨ m % 2 = 1 then (m, e) else oddPart fuel (m / 2) (e + 1)

/-- An exact value in n bytes, in the model's form: sign and exponent in the first four, the significand behind them; a value
that needs more takes free bytes (log entry 30). -/
def exactBytes (n : Nat) (x : Num) : M s0 (List Byte) :=
  match x with
  | .fin neg m e =>
    let (a, k) := oddPart 4096 m e
    if a < 2 ^ (8 * (n - 4)) then pure (toBytes 4 (b2n neg * 2 ^ 31 + wrap 31 k) ++ toBytes (n - 4) a) else freeBytes n
  | _ => freeBytes n

/-- An exact value from its bytes. -/
def exactOf (n : Nat) (bs : List Byte) : Num :=
  let h := ofBytes (bs.take 4)
  let m := ofBytes ((bs.drop 4).take (n - 4))
  if m = 0 then .fin (bit h 31) 0 0 else .fin (bit h 31) m (signed 31 h)

/-- Exact values one behind the other, n bytes each. -/
def exactAll (n : Nat) : List Num → M s0 (List Byte)
  | [] => pure []
  | v :: vs => do
    let b ← exactBytes n v
    let rest ← exactAll n vs
    pure (b ++ rest)

/-- Exact sums as 16 + 16d bytes (R266): MAX, L in twelve, each O in sixteen. -/
def Sums.bytes (x : Sums) : M s0 (List Byte) := do
  let l ← exactBytes 12 x.sum
  let o ← exactAll 16 x.o
  pure (toBytes 4 x.max ++ l ++ o)

/-- Exact sums from their bytes. -/
def sumsOf (d : Nat) (bs : List Byte) : Sums :=
  { max := ofBytes (bs.take 4), sum := exactOf 12 (bs.drop 4)
    o := (List.range d).map fun j => exactOf 16 (bs.drop (16 + 16 * j)) }

/-- ATTN_PART (R264) in the layout of log entry 30: M rotated query rows of K elements at SRC_A; N pages one behind the other
at SRC_B in format FMT_B, of which the first LEN keys are attended; PARAM the scale; to DST M records where FMT_OUT is FP32, or
M exact sums for a JOIN where it is INT32. -/
def uopAttnPart (u : UCmd) : A s0 UopUse := do
  let d := u.k
  if u.m = 0 ∨ 16 < u.m ∨ ! [64, 128, 256].contains d ∨ (u.fmtB ≠ 10 ∧ u.fmtB ≠ 11) ∨ wideFmt u.fmtA = false ∨
      u.inBuf 4 ∨ 64 * u.cols < u.len ∨ (u.fmtOut ≠ 0 ∧ u.fmtOut ≠ 9) then throw .internal
  let x ← u.values 3 u.fmtA (u.m * d)
  u.within 4 0 (u.cols * kvPageBytes u.fmtB d false)
  let pages ← unitPages u u.fmtB d u.cols (u.f 4 30 0)
  let sums := (rowsOf d x).map fun r =>
    let q := qHat (r.map to32)
    stackSums d ((List.range pages.length).map fun i =>
      pagePartOf u.fmtB d u.param (min 64 (u.len - 64 * i)) q (pages.getD i []))
  let out ← mapA (fun x => if u.fmtOut = 0 then pure x.round.bytes else (x.bytes : M s0 _)) sums
  u.write 5 out.flatten
  let macs := 2 * u.m * u.len * d
  let rd := u.cols * kvPageBytes u.fmtB d false + u.bank 3 (fmtBytes u.fmtA (u.m * d))
  pure { macs := macs, rd := rd, wr := u.bank 5 out.flatten.length
         cycles := 64 + max (ceilDiv macs (if u.fmtB = 11 then 256 else 128)) (ceilDiv rd 80) }

/-- Exact sums of one query joined: rescaled to the largest reference and added exactly; the record is rounded once (R264,
R266). -/
def joinSums (d : Nat) (xs : List Sums) : Sums :=
  if xs.any fun x => isNan32 x.max then Sums.nan d
  else
    let live := xs.filter fun x => x.max != ninf32
    match live.map Sums.r with
    | [] => Sums.none d
    | r :: l =>
      let top := l.foldl max r
      ⟨int32 top, exactSum (live.map fun x => x.sum.mul (two (x.r - top))),
        (List.range d).map fun j => exactSum (live.map fun x => (x.o.getD j .nan).mul (two (x.r - top)))⟩

/-- JOIN (R266) in the layout of log entry 30: N exact sums of K elements at SRC_A, the first the unit's own and the others
arrived over the promenade bus; the stack record to DST. -/
def uopJoin (u : UCmd) : A s0 UopUse := do
  let d := u.k
  if ! [64, 128, 256].contains d ∨ u.cols = 0 then throw .internal
  let n := 16 + 16 * d
  let bs ← u.read 3 0 (u.cols * n)
  let xs := (List.range u.cols).map fun i => sumsOf d (bs.drop (i * n))
  u.write 5 (joinSums d xs).round.bytes
  (bump F.hbAttnJoins_count 1 : M s0 _)
  (bump F.galPromBytes_count ((u.cols - 1) * n) u.n : M s0 _)
  pure { rd := u.bank 3 (u.cols * n), wr := u.bank 5 (8 + 4 * d), cycles := 24 + u.cols * (d / 16 + 4) }

/-- Granules that arrive at pseudo-channel q from p: bytes that the bus carries, whole granules, and bytes written (R233,
R239). -/
def unitArrive (n p q bytes : Nat) : M s0 Unit := do
  if q ≠ p then bump F.galPromBytes_count bytes n
  bump F.galUnitWrBytes_count bytes n q

/-- A copy's cycles beyond its start: the bank port's, or the bus's at five cycles for four granules where that is longer
(R221, R233). -/
def pcopyCycles (far : Bool) (len grans : Nat) : Nat :=
  if far then max (ceilDiv len 80) (ceilDiv (5 * grans) 4) else ceilDiv len 80

/-- PCOPY (R221, R233): LEN bytes to the pseudo-channel PARAM[4:0], over the promenade bus unless it is the unit's own. -/
def uopPcopy (u : UCmd) : A s0 UopUse := do
  let q := u.param % 32
  if u.inBuf 3 ∨ u.inBuf 5 then throw .internal
  let bs ← u.read 3 0 u.len
  u.within 5 0 u.len
  bankPut u.ac u.n q bs (pagePieces (u.f 5 30 0) bs.length)
  (unitArrive u.n u.p q (64 * (gransOf (u.f 5 30 0) u.len).length) : M s0 _)
  pure { rd := u.len, cycles := 24 + pcopyCycles (u.p ≠ q) u.len (gransOf (u.f 5 30 0) u.len).length }

/-- An operation by its code; any other code, and SELFTEST from a caller, ends with ST_INTERNAL (R221). The self-test takes about
2 ms: its cycles are free (log entry 31). -/
def uopRun (u : UCmd) (pos : Nat) (caller : Bool) : A s0 UopUse :=
  match cUop u.ws with
  | 0x00 => if pos = 1 then pure {} else throw .internal
  | 0x01 => uopLoad u
  | 0x02 => uopStore u
  | 0x10 => uopMatvec u
  | 0x11 => uopExpert u
  | 0x20 => uopElt u
  | 0x30 => uopKvWrite u
  | 0x31 => uopAttnPart u
  | 0x32 => uopJoin u
  | 0x40 => uopPcopy u
  | 0x7E => if caller then throw .internal else do
    let k ← (takeFresh : M s0 _)
    pure { cycles := (Config.free k).toNat }
  | _ => throw .internal

/-- A unit's counters after a command (R239). -/
def countUop (n p : Nat) (x : UopUse) : M s0 Unit := do
  bump F.galUnitBusyCycles_count x.cycles n p
  bump F.galUnitMacs_count x.macs n p
  bump F.galUnitRdBytes_count x.rd n p
  bump F.galUnitWrBytes_count x.wr n p
  bump F.galUnitCommands_count 1 n p

/-- The RESULT words of a command (R218). -/
def resultWords (ws : List Nat) (status : Nat) (x : UopUse) (la : Option Nat) (reexec rebuilds : Nat) : List Nat :=
  [cTag ws * 2 ^ 48 + status * 256 + 3, x.cycles, x.rd, x.wr, x.macs,
   (match la with | some a => 2 ^ 63 + a % 2 ^ 31 | none => 0), reexec % 65536 * 65536 + rebuilds % 65536, 0]

/-- What a command that stopped at a granule had used: how far it had come is open (R232, log entry 31). -/
def freeUse : M s0 UopUse := do
  let m ← takeFresh
  let r ← takeFresh
  let w ← takeFresh
  let c ← takeFresh
  pure { macs := (Config.free m).toNat, rd := (Config.free r).toNat, wr := (Config.free w).toNat, cycles := (Config.free c).toNat }

/-- The command is DONE: its result, the unit's queue, the run's end (R216, R220). -/
def doneTicket (n p t status : Nat) (x : UopUse) (la : Option Nat) (rebuilds : Nat) : M s0 Unit := do
  let s ← cur
  let k := s.ticket n p t
  let re := (s.unitsAt (uKey n p)).reexec
  modTicket n p t fun k => { k with st := 3, result := resultWords k.words status x (la <|> k.failLa) re rebuilds }
  let last := cLast k.words
  modUnits (uKey n p) fun y => { y with
    queue := y.queue.filter (· != t), idleSince := s.now, reexec := if last then 0 else y.reexec
    running := if last then none else some (t / 4) }
  countUop n p x
  refreshUnit n p
  if last ∧ (s.unitsAt (uKey n p)).outDue then
    unitOut n p
    errRecord (unitRec n p 2)

/-- Operation codes of R221. -/
def uopCodes : List Nat := [0x00, 0x01, 0x02, 0x10, 0x11, 0x20, 0x30, 0x31, 0x32, 0x40, 0x7E]

/-- Queued commands with another code, first in the queue, are DONE with ST_INTERNAL (R221). -/
def skipUndefined (n p : Nat) : (fuel : Nat) → M s0 Unit
  | 0 => pure ()
  | fuel + 1 => do
    let s ← cur
    match s.runningTicket n p with
    | some t =>
      if !uopCodes.contains (cUop (s.ticket n p t).words) then
        doneTicket n p t stInternal {} none 0
        skipUndefined n p fuel
    | none => pure ()

/-- The command is DONE; undefined ones behind it follow. -/
def finishTicket (n p t status : Nat) (x : UopUse) (la : Option Nat) (rebuilds : Nat) : M s0 Unit := do
  doneTicket n p t status x la rebuilds
  skipUndefined n p 32

/-- A COMMAND write (R215): a command takes a free ticket, or is refused. A command that no caller writes, since its run is
written to consecutive tickets, does not arise (R216, log entry 31). -/
def commandWrite (n p t : Nat) (ws : List Nat) (caller : Bool) : M s0 Unit := do
  let s ← cur
  if s.unitMode n p = 2 ∧ s.unitService n p = 0 ∧ (s.ticket n p t).st = 0 ∧ commandOk ws then
    match s.nextPos n p t with
    | none => pure ()
    | some pos =>
      modTicket n p t fun _ => { st := 1, words := ws, result := [], caller := caller, pos := pos }
      modUnits (uKey n p) fun x => { x with
        queue := placeTicket t pos x.queue
        tails := (x.tails.filter fun e => e.1 / 4 != t / 4) ++ if cLast ws then [] else [(t, pos)] }
      refreshUnit n p
      skipUndefined n p 32
  else windowRefused n

/-! ### The galliard window (R207 to R209) -/

/-- The address of offset `off` of unit (n, p)'s window (R207). -/
def windowAddr (n p off : Nat) : Nat := 0x20000000000 + n * 0x1000000 + p * 0x80000 + off

/-- The unit and the offset that an address of the window names. -/
def windowAt (a : Nat) : Option (Nat × Nat × Nat) :=
  if 0x20000000000 ≤ a ∧ a < 0x20000000000 + 12 * 0x1000000 then
    let o := a - 0x20000000000
    some (o / 0x1000000, o / 0x80000 % 32, o % 0x80000)
  else none

/-- A CONTROL write (R209); words 1 to 7 and the reserved bits are 0 (log entry 31). -/
def controlWrite (n p : Nat) (ws : List Nat) : M s0 Unit :=
  let w := nth ws 0
  if bits w 63 32 ≠ 0x6A111A2D ∨ bits w 31 2 ≠ 0 ∨ (ws.drop 1).any (· != 0) then windowRefused n
  else match bits w 1 0 with
    | 1 => enterWrite n p
    | 2 => exitWrite n p
    | _ => windowRefused n

/-- A write to a unit's window: from a caller (0) or a management core (1), 64 bytes, aligned; any other access is ignored and
counted; one to a reserved offset is ignored (R207, R208, log entry 31). -/
def windowWrite (n p : Nat) (x : Poke) : M s0 Unit :=
  let ws := x.words.map BitVec.toNat
  if 1 < x.agent ∨ x.off % 64 ≠ 0 ∨ ws.length ≠ 8 then windowRefused n
  else if x.off = 0 then controlWrite n p ws
  else if x.off = 0x40 then windowRefused n
  else if 0x1000 ≤ x.off ∧ x.off < 0x1800 then commandWrite n p ((x.off - 0x1000) / 64) ws (x.agent == 0)
  else if 0x2000 ≤ x.off ∧ x.off < 0x2800 then
    if ws.any (· != 0) then windowRefused n else releaseWrite n p ((x.off - 0x2000) / 64)
  else pure ()

/-- The eight words that a read at an offset of a unit's window returns: STATUS, a RESULT entry, zeros (R207, R218, R219). -/
def State.windowWords (s : State) (n p off : Nat) : List Nat :=
  let x := s.unitsAt (uKey n p)
  let run := s.runningTicket n p
  if off = 0x40 then
    [s.fld F.galUnitState_microRev n p * 2 ^ 48 + (run.getD 0xFF) * 2 ^ 40 + x.queue.length * 2 ^ 32 +
      s.unitService n p * 4 + s.unitMode n p, x.modeTime,
     ((List.range 32).map fun t => if (s.ticket n p t).st = 3 then 2 ^ t else 0).foldl (· + ·) 0, 0, 0, 0, 0, 0]
  else if 0x2000 ≤ off ∧ off < 0x2800 then
    let t := (off - 0x2000) / 64
    let k := s.ticket n p t
    match k.st with
    | 3 => k.result
    | 1 => (cTag k.words * 2 ^ 48 + if run = some t then 2 else 1) :: List.replicate 7 0
    | _ => List.replicate 8 0
  else List.replicate 8 0

/-- The command is a write of one of the rows for the window: a write by a CONTROL write's form, a command's, a release's. -/
def windowRow (n p row : Nat) (x : Poke) (s : State) : M s0 Unit :=
  if s.unitUp n p ∧ x.row = row ∧ x.off < 0x80000 then windowWrite n p x else pure ()

/-- `NEAR_ENTER` (R209). -/
def execNearEnter (u : Nat) (x : Poke) (s : State) : Outcome := M.go s (windowRow (u / 32) (u % 32) 0 x s)
/-- `NEAR_EXIT` (R209, R211). -/
def execNearExit (u : Nat) (x : Poke) (s : State) : Outcome := M.go s (windowRow (u / 32) (u % 32) 1 x s)
/-- `UNIT_COMMAND_WRITE` (R215). -/
def execUnitCommandWrite (n p off : Nat) (words : List W64) (agent : Nat) (s : State) : Outcome :=
  M.go s (windowRow n p 2 ⟨agent, off, words⟩ s)
/-- `UNIT_TICKET_RELEASE` (R220). -/
def execUnitTicketRelease (n p : Nat) (x : Poke) (s : State) : Outcome := M.go s (windowRow n p 3 x s)

/-! ### Running a ticket -/

/-- The tickets of the current run, in order: those before ticket t with lower places, and t's (R216). -/
def State.runTickets (s : State) (n p t : Nat) : List Nat :=
  let k := s.ticket n p t
  (List.range k.pos).map (fun i => t - k.pos + i) ++ [t]

/-- A failed check: the run is abandoned and executed once more from its start, or the unit leaves service (R234, R235). Which
granule the failing check met first is open (R218, log entry 31). -/
def failRun (n p t : Nat) : M s0 Unit := do
  let s ← cur
  let run := s.runTickets n p t
  let k ← takeFresh
  let la := (Config.free k).toNat % 2 ^ 31 / 64 * 64
  each run fun r => modTicket n p r fun k => { k with st := 1, result := [], failLa := if r = t then some la else k.failLa }
  modUnits (uKey n p) fun y => { y with
    queue := run ++ y.queue.filter fun r => !run.contains r, reexec := y.reexec + 1, running := some (t / 4) }
  unitStrike n p
  refreshUnit n p

/-- The command of the ticket that runs ends, its operation as named. A check passes or fails. A refused write ends it with
ST_PROT (R194). -/
def runTicket (uop n p t : Nat) (pass : Bool) : M s0 Unit := do
  let s ← cur
  let k := s.ticket n p t
  if s.runningTicket n p = some t ∧ cUop k.words = uop then
    if pass then
      let ac : Acc := { part := bits (nth k.words 0) 47 44, ctx := bits (nth k.words 0) 43 36, unit := true }
      let before := s.fld F.hbParityRebuilds_count
      let (r, _) ← runA (uopRun { n := n, p := p, ac := ac, tag := cTag k.words, ws := k.words } k.pos k.caller)
      let rebuilds := (← cur).fld F.hbParityRebuilds_count - before
      match r with
      | .ok x => finishTicket n p t stOk x none rebuilds
      | .error (.poison va _) => finishTicket n p t stPoison (← freeUse) (some (va / 64 * 64)) rebuilds
      | .error (.flt st _ _ _) => finishTicket n p t st (← freeUse) none rebuilds
      | .error _ => finishTicket n p t stInternal {} none rebuilds
    else failRun n p t

end Sys2Proof.Machine
end

