-- ==== Sys2Proof/Machine/Near.lean ====
section
/-!
DEFINITION. The stack class (R63, R224 to R229): NEAR_MATVEC, NEAR_EXPERT, NEAR_ELT, NEAR_COPY, NEAR_MODE and NEAR_RAW. A
packet's unit commands are formed and run with the packet (log entry 32).
-/
namespace Sys2Proof.Machine

variable {s0 : State}

/-! ### Where pages lie -/

/-- The physical unit (stack * 32 + pseudo-channel) of a page, which must lie in a stack: else ST_BAD_PARAM, naming word w. A
page that cannot be written is refused (R194). -/
def pageHome (ac : Acc) (w va : Nat) (write : Bool) : A s0 Nat := do
  let a ← tr ac va write
  let s ← (cur : M s0 _)
  if write && s.refusesWrite a then throw (.flt stProt va true ac.source)
  if targetOf a < 12 then pure (s.physUnit a) else throw (.fail stBadParam (wordDetail w 0xFF))

/-- The 64 KiB pages of a list of addresses, each named once. -/
def pagesOf (vas : List Nat) : List Nat := (vas.map (· / 65536)).eraseDups.map (· * 65536)

/-- The one physical unit of every page of a list: else ST_BAD_PARAM, naming word w (R224). -/
def oneHome (ac : Acc) (w : Nat) (write : Bool) (vas : List Nat) : A s0 (List Nat) :=
  mapA (fun va => pageHome ac w va write) (pagesOf vas)

/-- Addresses of a list of elements with their blocks' scales. -/
def Desc.reach (t : Desc) (ls : List Int) : List Nat :=
  ls.map t.addr ++ if isMx t.fmt then ls.map t.scaleAddr else []

/-- The elements of a view at the outer index of a share: dimensions 0 and 1 free, the others given. -/
def Desc.slice (t : Desc) (outer : List Nat) : List Int :=
  (List.range (t.size 1)).flatMap fun j => (List.range (t.size 0)).map fun i => t.offset (i :: j :: outer)

/-- A share of a stack-class packet: its operands' elements by word, its scratch. -/
structure Share where
  parts : List (Nat × Desc × List Int)
  scratch : Nat
  deriving DecidableEq, Repr

/-- The pages of a share lie in one physical pseudo-channel: its unit (R224, R226). -/
def shareHome (ac : Acc) (x : Share) : A s0 Nat := do
  let hs ← mapA (fun (w, t, ls) => oneHome ac w false (t.reach ls)) x.parts
  let sc ← oneHome ac 6 true ((List.range 4).map fun i => x.scratch + 65536 * i)
  let all := hs.flatten ++ sc
  match all with
  | [] => throw (.fail stBadParam (wordDetail 3 0xFF))
  | h :: rest => if rest.all (· == h) then pure h else throw (.fail stBadParam (wordDetail 3 0xFF))

/-! ### The units a packet needs (R212, R29) -/

/-- A unit in service and not NEAR. -/
def State.notNear (s : State) (u : Nat) : Bool := s.unitService (u / 32) (u % 32) == 0 && s.unitMode (u / 32) (u % 32) != 2

/-- Caller k has m consecutive free tickets of unit u (R215, R216). -/
def State.ticketsFree (s : State) (k u m : Nat) : Bool :=
  (List.range (5 - m)).any fun j => (List.range m).all fun i => (s.ticket (u / 32) (u % 32) (4 * k + j + i)).st == 0

/-- A unit in service that cannot take a run of m commands now: it runs or holds others, or the caller has not the tickets
(R215, R216). -/
def State.unitTaken (s : State) (k m u : Nat) : Bool :=
  let x := s.unitsAt u
  s.unitService (u / 32) (u % 32) == 0 && (!x.queue.isEmpty || x.running.isSome || !s.ticketsFree k u m)

/-- Every unit in service that the packet needs is NEAR; else it is entered and the packet waits, or the packet is refused
(R212). The packet waits for units that are taken, for runs of m commands (R215). What an abandoned packet might have done needs
none. -/
def needUnits (ac : Acc) (m : Nat) (us : List Nat) : A s0 Unit := if ac.blind then pure () else do
  let s ← (cur : M s0 _)
  let away := us.filter s.notNear
  if away.any fun u => s.fld F.galCfg_autoEnter (u / 32) == 0 then throw (.fail stBadParam 0)
  if !away.isEmpty then
    (each away fun u => do if (← cur).unitMode (u / 32) (u % 32) = 0 then startEnter (u / 32) (u % 32) : M s0 _)
    throw (.hold none)
  if us.any (s.unitTaken (s.fld F.schCtxState_caller ac.ctx) m) then throw (.hold none)

/-- The packet has a share run on cores: it is counted once (R29). -/
def countFallback (us : List Nat) : M s0 Unit := do
  let s ← cur
  if us.any fun u => s.unitService (u / 32) (u % 32) != 0 then bump F.hbSplitFallback_count 1

/-- The accessor of a share: its unit's, whose addresses the caller translates (R330), or the cores' where the unit is out of
service (R29). -/
def State.via (s : State) (ac : Acc) (u : Nat) : Acc :=
  if s.unitService (u / 32) (u % 32) = 0 then { ac with unit := true, source := 1 } else ac

/-- A unit's counters after a share of a packet (R239). -/
def countShare (u : Nat) (cmds : Nat) (x : UopUse) : M s0 Unit := do
  let s ← cur
  if s.unitService (u / 32) (u % 32) = 0 then
    countUop (u / 32) (u % 32) x
    bump F.galUnitCommands_count (cmds - 1) (u / 32) (u % 32)
    modUnits u fun y => { y with idleSince := s.now }

/-- Writes of a unit, each with its virtual address and planned at its DPA, each granule whole (R231). -/
def unitDo (ac : Acc) : List (Nat × Wr) → A s0 Unit
  | [] => pure ()
  | (va, w) :: ws => do
    match w.half with
    | none => unitPut ac va w.va w.bs (gransOf w.va w.bs.length)
    | some hi =>
      let v := byteNat w.bs 0 % 16
      changeGran ac va w.va (w.va / 64) fun o =>
        let old := byteNat o (w.va % 64)
        o.set (w.va % 64) (BitVec.ofNat 8 (if hi then setBits old 7 4 v else setBits old 3 0 v))
    unitDo ac ws

/-- Writes made in whole granules, by a unit or by cores that stand in for one (R27, R231). -/
def wrWhole (ac : Acc) (ws : List Wr) : A s0 Unit := do
  if ac.blind then wrAll ac ws
  else
    let p ← wrPlan ac ws
    unitDo ac ((ws.flatMap fun w => (pagePieces w.va w.bs.length).map fun x => x.1).zip p)

/-- Writes through an accessor: a unit's whole granules, or ordinary writes. -/
def wrVia (ac : Acc) (ws : List Wr) : A s0 Unit := if ac.unit then wrWhole ac ws else wrAll ac ws

/-- The context binds a set on a die. -/
def State.bindsOn (s : State) (c d : Nat) : Bool :=
  (if d = 0 then s.fld F.schCtxSets0_mask c else s.fld F.schCtxSets1_mask c) != 0

/-- The die that finishes what lies in stack n: its owner, or the other where the context holds no sets there (R225). -/
def State.dieFor (s : State) (c n : Nat) : Nat := if s.bindsOn c (dieOf n) then dieOf n else 1 - dieOf n

/-- Dies as a packet names them: bit 0 CD0, bit 1 CD1. -/
def diesMask (ds : List Nat) : Nat := (if ds.contains 0 then 1 else 0) + if ds.contains 1 then 2 else 0

/-! ### Products on the units (R224 to R226) -/

/-- Chunk values read back by the die part: n elements of a share, c values each. -/
def rdChunks (ac : Acc) (scratch n c : Nat) : A s0 (List (List Nat)) := do
  let bs ← rd ac scratch (4 * n * c)
  let cs := codes32 bs (n * c)
  pure ((List.range n).map fun i => (cs.drop (i * c)).take c)

/-- A column group's elements: the shares' chunk values joined in chunk-index order and added (R120, R225). -/
def joinShares (n : Nat) (shares : List (List (List Nat))) : List Nat :=
  (List.range n).map fun i => addChunks (shares.flatMap fun s => s.getD i [])

/-- The class checks of a stack-class packet in the order of R496, then where its pages lie. -/
def nearChecks {α : Type} (x : Stages) (layout : A s0 α) : A s0 α := do
  check (firstFlaw [x.form, x.fmt, x.shape, x.rest])
  layout

/-- The class checks of NEAR_MATVEC that need no memory (R224). -/
def nearMatvecStages (p : Pkt) : Stages :=
  let x := p.desc 2
  let w := p.desc 3
  { form := formFlaw p [2, 3, 4]
    fmt := firstFlaw [fmtFlaw p 3 (fun f => decide (3 ≤ f) && decide (f ≤ 7)),
      fmtFlaw p 2 (fun f => (arithOf f w.fmt).isSome), fmtFlaw p 4 [0, 1, 3, 4].contains]
    shape := firstFlaw [shapeFlaw p 2 [w.size 0, x.size 1, w.size 2, w.size 3],
    shapeFlaw p 3 [w.size 0, w.size 1, w.size 2, w.size 3], shapeFlaw p 4 [w.size 1 * w.size 3, x.size 1],
    (if x.size 1 = 0 ∨ 16 < x.size 1 then flawAt stBadParam 2 40 3 else none),
    (if w.size 0 = 0 ∨ (1 < w.size 2 ∧ w.size 0 % 256 ≠ 0) then flawAt stBadParam 3 40 2 else none),
    (if w.stride 0 ≠ 1 then flawAt stBadParam 3 0 2 else none),
    (if w.size 2 = 0 ∨ 32 < w.size 2 ∨ 384 < w.size 2 * w.size 3 then flawAt stBadParam 3 40 4 else none),
    (if 262144 < x.size 1 * w.size 1 * (if 1 < w.size 2 then w.size 0 / 256 else 1) * 4 then flawAt stBadParam 3 40 3
     else none)]
    rest := boundsFlaw p [2, 3, 4] }

/-- Share (a, b) of a NEAR_MATVEC. -/
def matvecShare (p : Pkt) (a b : Nat) : Share :=
  let x := p.desc 2
  let w := p.desc 3
  { parts := [(3, w, w.slice [a, b]), (2, x, x.slice [a, b])]
    scratch := p.w 6 + (b * w.size 2 + a) * 262144 }

/-- The shares of a NEAR_MATVEC with their units: each in one pseudo-channel, no two in one, those of a column group in one stack
(R224). -/
def matvecHomes (p : Pkt) (ac : Acc) : A s0 (List ((Nat × Nat) × Nat)) := do
  let w := p.desc 3
  let keys := (List.range (w.size 3)).flatMap fun b => (List.range (w.size 2)).map fun a => (a, b)
  let homes ← mapA (fun (a, b) => shareHome ac (matvecShare p a b)) keys
  if homes.eraseDups.length ≠ homes.length then throw (.fail stBadParam (wordDetail 3 0xFF))
  let hs := keys.zip homes
  if (List.range (w.size 3)).any fun b =>
      ((hs.filter fun h => h.1.2 == b).map fun h => h.2 / 32).eraseDups.length > 1 then
    throw (.fail stBadParam (wordDetail 3 0xFF))
  pure hs

/-- The die of each column group of a NEAR_MATVEC (R225). -/
def matvecDies (s : State) (c : Nat) (p : Pkt) (hs : List ((Nat × Nat) × Nat)) : List Nat :=
  (List.range ((p.desc 3).size 3)).map fun b => s.dieFor c (((hs.find? fun h => h.1.2 == b).map Prod.snd).getD 0 / 32)

/-- NEAR_MATVEC validated: its dies are those of its column groups (R225). -/
def nearMatvecChecks (c : Nat) (p : Pkt) (ac : Acc) : A s0 Pkt := do
  let hs ← nearChecks (nearMatvecStages p) (matvecHomes p ac)
  pure { p with dies := diesMask (matvecDies (← (cur : M s0 _)) c p hs) }

/-- One share runs: LOAD, MATVEC into its scratch (R225). -/
def runMatvecShare (ac : Acc) (p : Pkt) (a b u : Nat) : A s0 Unit := do
  let x := p.desc 2
  let w := p.desc 3
  let va := (← (cur : M s0 _)).via ac u
  let ar := (arithOf x.fmt w.fmt).getD {}
  let rows ← mapA (fun m => rdRow va x [m, a, b]) (List.range (x.size 1))
  let cols ← mapA (fun n => rdRow va w [n, a, b]) (List.range (w.size 1))
  let vs := shareAll (a * w.size 0 / 256) ar rows cols
  wrVia va [{ va := (matvecShare p a b).scratch, bs := bytes32 vs }]
  let xb := fmtBytes x.fmt (x.size 1 * w.size 0) + if isMx x.fmt then x.size 1 * w.size 0 / 32 else 0
  let wb := fmtBytes w.fmt (w.size 0 * w.size 1) + if isMx w.fmt then w.size 0 * w.size 1 / 32 else 0
  let macs := x.size 1 * w.size 1 * w.size 0
  (countShare u 2 {
    macs := macs, rd := xb + wb, wr := 4 * vs.length
    cycles := 24 + ceilDiv xb 80 + 64 + max (ceilDiv wb 80) (ceilDiv macs (lanes ar x.fmt w.fmt)) +
      ceilDiv (4 * vs.length) 80 } : M s0 _)

/-- The die part of a stack-class product: Y's rows from the elements of its column groups; each group's die counts what
saturates there and its NaNs (R126, R225). -/
def nearOut (ac : Acc) (y : Desc) (m : Nat) (groups : List (List Nat)) (ns : Nat) (dies : List Nat) : A s0 Unit := do
  let part (g : List Nat) (i : Nat) : List Num := ((g.drop (i * ns)).take ns).map of32
  wrAll ac ((List.range m).flatMap fun i => (outRow y [i] (groups.flatMap fun g => part g i)).1)
  (each (groups.zip dies) fun (g, d) => do
    let cs := (List.range m).map fun i => (outCodes y.fmt (part g i)).2.2
    countShared F.cdArraySat_count (2 ^ d) ((cs.map Prod.fst).foldl (· + ·) 0)
    countShared F.cdArrayNan_count (2 ^ d) ((cs.map Prod.snd).foldl (· + ·) 0) : M s0 _)

/-- The operation of NEAR_MATVEC (R224, R225). -/
def nearMatvecBody (p : Pkt) (ac : Acc) : A s0 Fin := do
  let x := p.desc 2
  let w := p.desc 3
  let m := x.size 1
  let ks := w.size 2
  let hs ← matvecHomes p ac
  let homes := hs.map Prod.snd
  needUnits ac 2 homes
  (countFallback homes : M s0 _)
  let _ ← mapA (fun ((a, b), u) => runMatvecShare ac p a b u) hs
  let n := m * w.size 1
  let groups ← mapA (fun b => do
    let shares ← mapA (fun a =>
      rdChunks ac (matvecShare p a b).scratch n (if a = 0 then 1 else w.size 0 / 256)) (List.range ks)
    pure (joinShares n shares)) (List.range (w.size 3))
  nearOut ac (p.desc 4) m groups (w.size 1) (matvecDies (← (cur : M s0 _)) ac.ctx p hs)
  (openDest ac (p.desc 4) [x, w] : M s0 _)
  pure {}

/-- `NEAR_MATVEC` (R225). -/
def execNearMatvec (c id : Nat) (s : State) : Outcome := M.go s (opOf c id [0x40] 1 nearMatvecBody)

/-- A format of weights that a unit's lanes take in a near layout (R224). -/
def nearFmt (f : Nat) : Bool := decide (3 ≤ f) && decide (f ≤ 7)

/-- The chunk values of an expert's share fit its scratch, for m rows (R224, R226). -/
def chunksFit (m : Nat) (g d : Desc) : Bool :=
  decide (m * g.size 0 * (if 1 < g.size 2 then d.size 0 / 256 else 1) * 4 ≤ 262144)

/-- The class checks of NEAR_EXPERT that need no memory (R226): the pair's descriptors are captured as words 30 (gate-and-up)
and 31 (down). -/
def nearExpertStages (p : Pkt) : Stages :=
  let x := p.desc 2
  let g := p.desc 30
  let d := p.desc 31
  { form := formFlaw p [2, 30, 31, 4]
    fmt := firstFlaw [fmtFlaw p 30 nearFmt, fmtFlaw p 31 nearFmt, fmtFlaw p 2 (fun f => (arithOf f g.fmt).isSome),
      fmtFlaw p 4 [0, 1, 3, 4].contains]
    shape := firstFlaw [shapeFlaw p 2 [g.size 0, x.size 1, g.size 2], shapeFlaw p 30 [g.size 0, 2 * d.size 0, g.size 2],
    shapeFlaw p 31 [d.size 0, g.size 0, g.size 2], shapeFlaw p 4 [g.size 0, x.size 1],
    (if x.size 1 = 0 ∨ 16 < x.size 1 then flawAt stBadParam 2 40 3 else none),
    (if g.size 0 = 0 ∨ d.size 0 = 0 ∨ d.size 0 % 256 ≠ 0 then flawAt stBadParam 5 40 2 else none),
    (if g.size 2 = 0 ∨ 32 < g.size 2 then flawAt stBadParam 5 40 4 else none),
    (if !chunksFit (x.size 1) g d then flawAt stBadParam 5 40 3 else none)]
    rest := boundsFlaw p [2, 30, 31, 4] }

/-- Share u of a NEAR_EXPERT. -/
def expertShare (p : Pkt) (u : Nat) : Share :=
  { parts := [(5, p.desc 30, (p.desc 30).slice [u]), (5, p.desc 31, (p.desc 31).slice [u]), (2, p.desc 2, (p.desc 2).slice [u])]
    scratch := p.w 6 + u * 262144 }

/-- The units of a NEAR_EXPERT's shares, all in one stack (R226). -/
def expertHomes (p : Pkt) (ac : Acc) : A s0 (List Nat) := do
  let homes ← mapA (fun u => shareHome ac (expertShare p u)) (List.range ((p.desc 31).size 2))
  if (homes.map (· / 32)).eraseDups.length > 1 then throw (.fail stBadParam (wordDetail 5 0xFF))
  pure homes

/-- NEAR_EXPERT validated: its die is that of its stack (R225, R226). -/
def nearExpertChecks (c : Nat) (p : Pkt) (ac : Acc) : A s0 Pkt := do
  let hs ← nearChecks (nearExpertStages p) (expertHomes p ac)
  pure { p with dies := 2 ^ (← (cur : M s0 _)).dieFor c (hs.headD 0 / 32) }

/-- What LOAD and EXPERT of one share use, for m rows in a format (R221, R226). -/
def expertUse (m fa : Nat) (g d : Desc) : UopUse :=
  let a1 := (arithOf fa g.fmt).getD {}
  let a2 := (arithOf 0 d.fmt).getD {}
  let wb (t : Desc) : Nat := fmtBytes t.fmt (t.size 0 * t.size 1) + if isMx t.fmt then t.size 0 * t.size 1 / 32 else 0
  let xb := fmtBytes fa (m * g.size 0) + if isMx fa then m * g.size 0 / 32 else 0
  let out := 4 * m * d.size 1 * if 1 < d.size 2 then ceilDiv (d.size 0) 256 else 1
  let m1 := m * g.size 1 * g.size 0
  let m2 := m * d.size 1 * d.size 0
  { macs := m1 + m2, rd := xb + wb g + wb d, wr := out
    cycles := 24 + ceilDiv xb 80 + 64 + (64 + max (ceilDiv (wb g) 80) (ceilDiv m1 (lanes a1 fa g.fmt))) +
      ceilDiv (m * d.size 0) 32 + (64 + max (ceilDiv (wb d) 80) (ceilDiv m2 (lanes a2 0 d.fmt)) + ceilDiv out 80) }

/-- One share runs: LOAD, EXPERT into its scratch (R226). -/
def runExpertShare (ac : Acc) (p : Pkt) (u home : Nat) : A s0 Unit := do
  let x := p.desc 2
  let g := p.desc 30
  let d := p.desc 31
  let va := (← (cur : M s0 _)).via ac home
  let a1 := (arithOf x.fmt g.fmt).getD {}
  let a2 := (arithOf 0 d.fmt).getD {}
  let rows ← mapA (fun m => rdRow va x [m, u]) (List.range (x.size 1))
  let gu ← mapA (fun n => rdRow va g [n, u]) (List.range (g.size 1))
  let dn ← mapA (fun n => rdRow va d [n, u]) (List.range (d.size 1))
  let hs := rows.map fun r => gated (p.f 7 11 8) (productRow a1 r gu)
  let vs := shareAll (u * d.size 0 / 256) a2 hs dn
  wrVia va [{ va := (expertShare p u).scratch, bs := bytes32 vs }]
  (countShare home 2 { expertUse (x.size 1) x.fmt g d with wr := 4 * vs.length } : M s0 _)

/-- The operation of NEAR_EXPERT (R226). -/
def nearExpertBody (p : Pkt) (ac : Acc) : A s0 Fin := do
  let x := p.desc 2
  let d := p.desc 31
  let us := List.range (d.size 2)
  let homes ← expertHomes p ac
  needUnits ac 2 homes
  (countFallback homes : M s0 _)
  let _ ← mapA (fun (u, h) => runExpertShare ac p u h) (us.zip homes)
  let n := x.size 1 * d.size 1
  let shares ← mapA (fun u => rdChunks ac (expertShare p u).scratch n (if u = 0 then 1 else d.size 0 / 256)) us
  nearOut ac (p.desc 4) (x.size 1) [joinShares n shares] (d.size 1) [(← (cur : M s0 _)).dieFor ac.ctx (homes.headD 0 / 32)]
  (openDest ac (p.desc 4) [x, p.desc 30, d] : M s0 _)
  pure {}

/-- `NEAR_EXPERT` (R226). -/
def execNearExpert (c id : Nat) (s : State) : Outcome := M.go s (opOf c id [0x41] 1 nearExpertBody)

/-! ### NEAR_ELT, NEAR_COPY -/

/-- The class checks of NEAR_ELT that need no memory (R227). -/
def nearEltStages (p : Pkt) : Stages :=
  { form := formFlaw p [2, 3]
    fmt := firstFlaw [fmtFlaw p 2 wideFmt, fmtFlaw p 3 fun f => f == (p.desc 2).fmt]
    shape := firstFlaw [sameShape p 2 3, (if (p.desc 2).stride 0 ≠ 1 then flawAt stBadParam 2 0 2 else none),
      (if (p.desc 3).stride 0 ≠ 1 then flawAt stBadParam 3 0 2 else none)]
    rest := boundsFlaw p [2, 3] }

/-- The units of pairs of addresses, by their pages: source page, destination page, the source's and the destination's unit. -/
def pairHomes (ac : Acc) (pairs : List (Nat × Nat)) : A s0 (List ((Nat × Nat) × Nat × Nat)) :=
  mapA (fun (a, b) => do
    let x ← pageHome ac 2 (65536 * a) false
    let y ← pageHome ac 3 (65536 * b) true
    pure ((a, b), x, y)) (pairs.map fun (a, b) => (a / 65536, b / 65536)).eraseDups

/-- The units of one pair of addresses. -/
def homesOf (hs : List ((Nat × Nat) × Nat × Nat)) (a b : Nat) : Nat × Nat :=
  ((hs.find? fun h => h.1 == (a / 65536, b / 65536)).map Prod.snd).getD (0, 0)

/-- The units of the elements of NEAR_ELT: source and destination of each in one (R227). -/
def eltHomes (p : Pkt) (ac : Acc) : A s0 (List ((Nat × Nat) × Nat × Nat)) := do
  let x := p.desc 2
  let z := p.desc 3
  let hs ← pairHomes ac ((copyPairs x z).map fun (ls, ld) => (x.addr ls, z.addr ld))
  if hs.any fun h => h.2.1 != h.2.2 then throw (.fail stBadParam (wordDetail 3 0xFF))
  pure hs

/-- The lengths of the runs of consecutive elements in a list of offsets. -/
def runLengths : List (Int × Int) → List Nat
  | [] => []
  | x :: xs =>
    match xs, runLengths xs with
    | y :: _, n :: ns => if y.1 = x.1 + 1 ∧ y.2 = x.2 + 1 then (n + 1) :: ns else 1 :: n :: ns
    | _, _ => [1]

/-- What one ELT command on n elements uses (R221). -/
def eltUse (op fmt n : Nat) : UopUse :=
  let s := fmtBytes fmt n * if op < 2 then 2 else 1
  let d := fmtBytes fmt n
  { rd := s, wr := d, cycles := 24 + max (ceilDiv (s + d) 80) (ceilDiv n 32) }

/-- Uses added. -/
def UopUse.add (x y : UopUse) : UopUse :=
  { macs := x.macs + y.macs, rd := x.rd + y.rd, wr := x.wr + y.wr, cycles := x.cycles + y.cycles }

/-- One unit's share of NEAR_ELT: an ELT for each run of consecutive elements (R227, log entry 32). -/
def runEltShare (ac : Acc) (p : Pkt) (u : Nat) (pairs : List (Int × Int)) : A s0 Unit := do
  let x := p.desc 2
  let z := p.desc 3
  let op := p.f 4 7 0
  let va := (← (cur : M s0 _)).via ac u
  let ws ← mapA (fun (ls, ld) => do
    let a ← rdElem va x ls
    let b ← (if op < 2 then rdElem va z ld else pure a)
    let v := if op < 2 then eltOp op 0 (widen z.fmt b) (widen x.fmt a) else eltOp op (p.f 6 31 0) (widen x.fmt a) 0
    pure (z.store ld (convert z.fmt (of32 v)).1)) pairs
  wrVia va ws
  let ns := runLengths pairs
  (countShare u ns.length ((ns.map (eltUse op x.fmt)).foldl UopUse.add {}) : M s0 _)

/-- The operation of NEAR_ELT (R227). -/
def nearEltBody (p : Pkt) (ac : Acc) : A s0 Fin := do
  let x := p.desc 2
  let z := p.desc 3
  let hs ← eltHomes p ac
  let us := (hs.map fun h => h.2.1).eraseDups
  needUnits ac 1 us
  (countFallback us : M s0 _)
  let _ ← mapA (fun u => runEltShare ac p u
    ((copyPairs x z).filter fun (ls, ld) => (homesOf hs (x.addr ls) (z.addr ld)).1 == u)) us
  (openDest ac z [x] : M s0 _)
  pure {}

/-- `NEAR_ELT` (R227). -/
def execNearElt (c id : Nat) (s : State) : Outcome := M.go s (opOf c id [0x42] 1 nearEltBody)

/-- The addresses that NEAR_COPY moves, source and destination: elements, and the scales of MX blocks (R144). -/
def carries (src dst : Desc) : List (Nat × Nat) :=
  (copyPairs src dst).flatMap fun (ls, ld) =>
    (src.addr ls, dst.addr ld) :: if blockStart src ls then [(src.scaleAddr ls, dst.scaleAddr ld)] else []

/-- The units of what NEAR_COPY moves, all in one stack (R228). -/
def copyHomes (p : Pkt) (ac : Acc) : A s0 (List ((Nat × Nat) × Nat × Nat)) := do
  let hs ← pairHomes ac (carries (p.desc 2) (p.desc 3))
  if ((hs.flatMap fun h => [h.2.1 / 32, h.2.2 / 32]).eraseDups).length > 1 then throw (.fail stBadParam (wordDetail 3 0xFF))
  pure hs

/-- The units that own what is copied: each runs the copies of its granules (R228). -/
def copyUnits (hs : List ((Nat × Nat) × Nat × Nat)) : List Nat := (hs.map fun h => h.2.1).eraseDups

/-- What one unit copies: it owns the source; elements and scales apart. Each destination granule is one PCOPY (R228, R233). -/
def runCopyShare (ac : Acc) (p : Pkt) (hs : List ((Nat × Nat) × Nat × Nat)) (u : Nat) : A s0 Unit := do
  let src := p.desc 2
  let dst := p.desc 3
  let s ← (cur : M s0 _)
  let va := s.via ac u
  let pairs := copyPairs src dst
  let els := pairs.filter fun (ls, ld) => (homesOf hs (src.addr ls) (dst.addr ld)).1 == u
  let scs := pairs.filter fun (ls, ld) => blockStart src ls && (homesOf hs (src.scaleAddr ls) (dst.scaleAddr ld)).1 == u
  let ws ← mapA (fun (ls, ld) => do pure (dst.store ld (← rdElem va src ls))) els
  let vs ← mapA (fun (ls, ld) => do pure (dst.storeScale ld (← rdScale va src ls))) scs
  wrVia va (ws ++ vs)
  let to_ := ((els.map fun (ls, ld) => (dst.addr ld / 64, (homesOf hs (src.addr ls) (dst.addr ld)).2)) ++
    scs.map fun (ls, ld) => (dst.scaleAddr ld / 64, (homesOf hs (src.scaleAddr ls) (dst.scaleAddr ld)).2)).eraseDups
  if s.unitService (u / 32) (u % 32) = 0 then
    (each to_ fun (_, v) => unitArrive (u / 32) (u % 32) (v % 32) 64 : M s0 _)
  (countShare u to_.length ((to_.map fun (_, v) =>
    ({ rd := 64, cycles := 24 + pcopyCycles (u ≠ v) 64 1 } : UopUse)).foldl UopUse.add {}) : M s0 _)

/-- The operation of NEAR_COPY (R228). -/
def nearCopyBody (p : Pkt) (ac : Acc) : A s0 Fin := do
  let src := p.desc 2
  let dst := p.desc 3
  probeAll ac ((copyPairs src dst).flatMap fun (ls, ld) => moveProbes src dst ls ld)
  let hs ← copyHomes p ac
  let us := copyUnits hs
  needUnits ac 1 us
  (countFallback us : M s0 _)
  let _ ← mapA (runCopyShare ac p hs) us
  pure {}

/-- `NEAR_COPY` (R228). -/
def execNearCopy (c id : Nat) (s : State) : Outcome := M.go s (opOf c id [0x43] 1 nearCopyBody)

/-! ### NEAR_MODE -/

/-- The units that NEAR_MODE's masks name: the physical home of each logical pseudo-channel's first row (R203, R213). -/
def State.namedUnits (s : State) (stackList chans : Nat) : List Nat :=
  ((bitList 12 stackList).flatMap fun n => (bitList 32 chans).map fun u => s.physUnit (n * 2 ^ 36 + u * 65536)).eraseDups

/-- The unit has settled: NEAR or NORMAL, or out of service (R213). -/
def State.settledUnit (s : State) (u : Nat) : Bool :=
  s.unitService (u / 32) (u % 32) != 0 || s.unitMode (u / 32) (u % 32) == 0 || s.unitMode (u / 32) (u % 32) == 2

/-- `NEAR_MODE` (R213): a CONTROL write to every named unit, which R209 accepts or refuses, then the wait until every one has
settled. -/
def execNearMode (c id : Nat) (s : State) : Outcome :=
  M.go s (ctlOf c id 0x4E fun p => do
    let us := (← cur).namedUnits (p.f 2 11 0) (p.f 3 31 0)
    if p.aux.isEmpty then
      each us fun u => if p.b 4 0 then enterWrite (u / 32) (u % 32) else exitWrite (u / 32) (u % 32)
      modPkt c p.id fun y => { y with aux := [1] }
    if us.all (← cur).settledUnit then endPkt c p.id stOk 0)

/-! ### NEAR_RAW (R229) -/

/-- The bytes each address word of a raw command covers, with whether the operation writes there. -/
def rawExtents (ws : List Nat) : List (Nat × Nat × Bool) :=
  let u : UCmd := { n := 0, p := 0, ac := {}, tag := 0, ws := ws }
  match cUop ws with
  | 0x01 => [(3, u.len, false), (5, u.len, true)]
  | 0x02 => [(3, u.len, false), (5, u.len, true)]
  | 0x10 => [(3, fmtBytes u.fmtA (u.m * u.k), false), (4, fmtBytes u.fmtB (u.k * u.cols), false),
      (5, 4 * u.m * u.cols * (if u.kFirst = 0 then 1 else ceilDiv u.k 256), true)]
  | 0x11 => [(3, fmtBytes u.fmtA (u.m * u.k), false), (4, fmtBytes u.fmtB (u.k * (2 * u.len)), false),
      (6, fmtBytes u.fmtB (u.len * u.k), false), (5, 4 * u.m * u.k * (if u.kFirst = 0 then 1 else ceilDiv u.len 256), true)]
  | 0x20 => [(3, fmtBytes u.fmtA u.len, false)] ++ (if u.param % 256 < 2 then [(4, fmtBytes u.fmtB u.len, false)] else []) ++
      [(5, fmtBytes u.fmtOut u.len, true)]
  | 0x30 => [(3, 4 * u.k * u.m, false), (4, 4 * u.k * u.m, false), (5, kvPageBytes u.fmtOut u.k false, true)]
  | 0x31 => [(3, fmtBytes u.fmtA (u.m * u.k), false), (4, u.cols * kvPageBytes u.fmtB u.k false, false),
      (5, u.m * (if u.fmtOut = 0 then 8 + 4 * u.k else 16 + 16 * u.k), true)]
  | 0x32 => [(3, u.cols * (16 + 16 * u.k), false), (5, 8 + 4 * u.k, true)]
  | 0x40 => [(3, u.len, false), (5, u.len, true)]
  | _ => []

/-- The bank address of a DPA in its physical pseudo-channel (R199, R214). -/
def State.bankAddr (s : State) (a : Nat) : Nat :=
  let t := targetOf a
  (place t (s.dead t) (rowOf a) (unitOf a)).1 * 65536 + a % 65536

/-- An address word with SPACE 0 turned into a bank address: its extent translated and checked, and held to the target
pseudo-channel (R229). A PCOPY's destination lies in the pseudo-channel it names. -/
def rawWord (ac : Acc) (w : Nat) (home : Nat) (ws : List Nat) (e : Nat × Nat × Bool) : A s0 (List Nat) := do
  let (i, len, wr) := e
  let v := nth ws i
  if bit v 63 ∨ len = 0 then pure ws
  else
    let toward := if cUop ws = 0x40 ∧ i = 5 then home / 32 * 32 + bits (nth ws 7) 36 32 else home
    if bits v 62 52 ≠ 0 then throw (.fail stBadParam (wordDetail (w + i - 1) (52 + lowestBit 11 (bits v 62 52))))
    let homes ← mapA (fun (va, _, _) => do
      let a ← tr ac va wr
      if wr && (← (cur : M s0 _)).refusesWrite a then throw (.flt stProt va true ac.source)
      pure a) (pagePieces (bits v 51 0) len)
    let s ← (cur : M s0 _)
    if homes.any fun a => targetOf a ≥ 12 ∨ s.physUnit a ≠ toward then throw (.fail stBadParam (wordDetail (w + i - 1) 0xFF))
    let b := s.bankAddr (homes.headD 0)
    let rows := (List.range homes.length).all fun j => s.bankAddr (homes.getD j 0) / 65536 == b / 65536 + j
    if !rows then throw (.fail stBadParam (wordDetail (w + i - 1) 0xFF))
    pure ((List.range 8).map fun j => if j = i then b else nth ws j)

/-- Every address word of a raw command. -/
def rawWords (ac : Acc) (w home : Nat) : List (Nat × Nat × Bool) → List Nat → A s0 (List Nat)
  | [], ws => pure ws
  | e :: es, ws => do
    let ws' ← rawWord ac w home ws e
    rawWords ac w home es ws'

/-- A raw command's words C0 to C7 from the packet's words from w on. -/
def rawCommand (p : Pkt) (w : Nat) : List Nat := 0 :: (List.range 7).map fun i => p.w (w + i)

/-- The reserved bits of a raw command are 0 (R214); an address word with SPACE 0 holds a virtual address instead (R229). -/
def rawOk (ws : List Nat) : Bool :=
  fieldsOk ws && [3, 4, 5, 6].all fun i => !bit (nth ws i) 63 || !bit (nth ws i) 31

/-- The class checks of NEAR_RAW (R229): MX formats, SELFTEST. -/
def nearRawFlaw (p : Pkt) : Flaw :=
  firstFlaw ([9, 17].map fun w =>
    let ws := rawCommand p w
    if cUop ws = 0x7E ∨ !uopCodes.contains (cUop ws) then some (stBadOpcode, wordDetail w 0)
    else if cUop ws = 0 ∧ w = 9 then some (stBadParam, wordDetail w 0)
    else if [(11, 8), (15, 12), (19, 16)].any fun (hi, lo) => isMx (bits (nth ws 1) hi lo) then some (stFormat, wordDetail w 8)
    else if !rawOk ws then some (stBadParam, wordDetail w 0xFF) else none)

/-- The virtual address, in an extent of a raw command, that translation has brought to a DPA; else the one given. -/
def rawVa (ac : Acc) (ws : List Nat) (dpa other : Nat) : A s0 Nat := do
  let ps := (rawExtents ws).flatMap fun (i, len, wr) =>
    if bit (nth ws i) 63 then [] else (pagePieces (bits (nth ws i) 51 0) len).map fun (va, _, n) => (va, n, wr)
  let as ← mapA (fun (va, _, wr) => tr ac va wr) ps
  pure ((((ps.zip as).find? fun ((_, n, _), a) => decide (a / 64 ≤ dpa / 64) && decide (dpa < a + n)).map
    fun ((va, _, _), a) => max va (va + dpa - a)).getD other)

/-- One command of a raw run: it ends DONE, with ST_POISON or ST_INTERNAL too, and is counted where a unit runs it; the answer
is how the packet ends for it. -/
def rawRun (u : UCmd) (pos : Nat) : A s0 (Option Stop) := do
  let r ← ExceptT.mk (do
    let x ← (uopRun u pos true).run
    pure (Except.ok x))
  if u.ac.unit then
    match r with
    | .ok x => (countUop u.n u.p x : M s0 _)
    | .error (.poison _ _) => do (countUop u.n u.p (← (freeUse : M s0 _)) : M s0 _)
    | .error _ => (countUop u.n u.p {} : M s0 _)
  pure (match r with | .ok _ => none | .error e => some e)

/-- The physical unit that NEAR_RAW names (R203, R229). -/
def State.rawHome (s : State) (p : Pkt) : Nat := s.physUnit (p.f 2 3 0 * 2 ^ 36 + p.f 2 12 8 * 65536)

/-- The operation of NEAR_RAW: both commands as one run, by the unit or, where it is out of service, by cores (R29, R229). -/
def nearRawBody (p : Pkt) (ac : Acc) : A s0 Fin := do
  let s ← (cur : M s0 _)
  let home := s.rawHome p
  let c1 ← rawWords ac 9 home (rawExtents (rawCommand p 9)) (rawCommand p 9)
  let c2 ← rawWords ac 17 home (rawExtents (rawCommand p 17)) (rawCommand p 17)
  needUnits ac 2 [home]
  (countFallback [home] : M s0 _)
  let uac := { ac with unit := s.unitService (home / 32) (home % 32) == 0 }
  (clearBuf (home / 32) (home % 32) : M s0 _)
  let mk (ws : List Nat) : UCmd := { n := home / 32, p := home % 32, ac := uac, tag := 0xFFFF, ws := ws }
  let x ← rawRun (mk c1) 0
  let y ← rawRun (mk c2) 1
  (clearBuf (home / 32) (home % 32) : M s0 _)
  match [(x, 9), (y, 17)].find? fun e => match e.1 with | some (.poison _ _) => true | _ => false with
  | some (some (.poison la dpa), w) => throw (.poison (← rawVa ac (rawCommand p w) dpa la) dpa)
  | _ => match x, y with
    | some e, _ => throw e
    | none, some e => throw e
    | none, none => pure {}

/-- `NEAR_RAW` (R229). -/
def execNearRaw (c id : Nat) (s : State) : Outcome := M.go s (opOf c id [0x4F] 1 nearRawBody)

end Sys2Proof.Machine
end

