-- ==== Sys2Proof/Machine/Kv.lean ====
section
/-!
DEFINITION. The attention and KV packets (R64, R251 to R271): page tables, length tables and patterns; the class checks of
R268; opening pages; KV_APPEND, ATTEND, KV_RELEASE and KV_MOVE.
-/
namespace Sys2Proof.Machine

variable {s0 : State}

/-! ### The structures a packet names -/

/-- One sequence: its entry (R252) and its length entry (R257). -/
structure KvSeq where
  body : Nat
  first : Nat
  slots : Nat
  glob : Nat
  gslots : Nat
  kvEnd : Nat
  start : Nat
  close : Bool
  qlen : Nat
  deriving DecidableEq, Repr

/-- A page table (R251) with its sequences and pattern (R259). -/
structure Kv where
  seqsAt : Nat
  pool : Nat
  pattern : Nat
  stage : Nat
  stackList : List Nat
  fmt : Nat
  heads : Nat
  group : Nat
  d : Nat
  window : Nat
  sinks : Nat
  gphase : Nat
  gstride : Nat
  seqs : List KvSeq
  deriving DecidableEq, Repr

/-- The table under a pattern is sparse. -/
def Kv.sparse (k : Kv) : Bool := k.pattern != 0

/-- A page table from its header, sequence entries, length entries and pattern. -/
def Kv.ofWords (h es ls pat : List Nat) : Kv where
  seqsAt := bits (nth h 0) 51 0
  pool := bits (nth h 1) 51 0
  pattern := bits (nth h 2) 51 0
  stage := bits (nth h 3) 51 0
  stackList := (List.range (bits (nth h 4) 15 12 + 1)).map fun j => bits (nth h 4) (4 * j + 19) (4 * j + 16)
  fmt := bits (nth h 4) 3 0
  heads := bits (nth h 5) 15 8
  group := bits (nth h 5) 7 4 + 1
  d := 64 * 2 ^ bits (nth h 5) 1 0
  window := bits (nth pat 0) 63 32
  sinks := bits (nth pat 0) 31 0
  gphase := bits (nth pat 1) 63 32
  gstride := bits (nth pat 1) 31 0
  seqs := (List.range (es.length / 8)).map fun i =>
    { body := bits (nth es (8 * i)) 51 0, first := bits (nth es (8 * i + 1)) 63 32, slots := bits (nth es (8 * i + 1)) 31 0
      glob := bits (nth es (8 * i + 2)) 51 0, gslots := bits (nth es (8 * i + 3)) 31 0
      kvEnd := bits (nth ls (2 * i)) 63 32, start := bits (nth ls (2 * i)) 31 0, close := bit (nth ls (2 * i + 1)) 63
      qlen := bits (nth ls (2 * i + 1)) 31 0 }

/-- A header is well formed but for its format (R251). -/
def kvHeaderOk (h : List Nat) : Bool :=
  let n := bits (nth h 4) 15 12 + 1
  let list := (List.range n).map fun j => bits (nth h 4) (4 * j + 19) (4 * j + 16)
  ((List.range 4).all fun i => bits (nth h i) 63 52 == 0) && nth h 0 % 64 == 0 && nth h 1 % 4096 == 0 &&
  decide (n ≤ 12) && list.all (fun x => decide (x < 12)) && noRepeat list && nth h 4 / 2 ^ (16 + 4 * n) == 0 &&
  bits (nth h 4) 11 4 == 0 && bits (nth h 5) 63 32 == 0 && bits (nth h 5) 3 2 == 0 && bits (nth h 5) 1 0 != 3 &&
  decide (1 ≤ bits (nth h 5) 31 16) && decide (bits (nth h 5) 31 16 ≤ 8192) &&
  decide (1 ≤ bits (nth h 5) 15 8) && decide (bits (nth h 5) 15 8 ≤ 16) && nth h 6 == 0 && nth h 7 == 0

/-- Sequence entry i is well formed (R252). -/
def kvSeqOk (es : List Nat) (i : Nat) : Bool :=
  let slots := bits (nth es (8 * i + 1)) 31 0
  decide (1 ≤ slots) && decide (slots ≤ 32768) && decide (bits (nth es (8 * i + 3)) 31 0 ≤ 256) &&
    (List.range 4).all fun j => nth es (8 * i + 4 + j) == 0

/-- Length entry i is well formed (R257). -/
def kvLenOk (ls : List Nat) (i : Nat) : Bool :=
  bits (nth ls (2 * i + 1)) 62 32 == 0 && decide (bits (nth ls (2 * i + 1)) 31 0 ≤ 65536)

/-- A pattern is well formed (R259). `top` is the largest window. -/
def kvPatternOk (pat : List Nat) (top : Nat) : Bool :=
  let w := bits (nth pat 0) 63 32
  let stride := bits (nth pat 1) 31 0
  decide (1 ≤ w) && decide (w ≤ top) && (stride == 0 || decide (bits (nth pat 1) 63 32 < stride)) &&
    (List.range 6).all fun j => nth pat (2 + j) == 0

/-! ### Positions and pages (R242, R252, R254, R260) -/

/-- A position that a global copy holds (R260). -/
def Kv.globalAt (k : Kv) (x : Nat) : Bool :=
  k.sparse && (decide (x < k.sinks) || (k.gstride != 0 && x % k.gstride == k.gphase))

/-- Strided positions below x, from 0 on (R260). -/
def Kv.strided (k : Kv) (x : Nat) : Nat :=
  if k.gstride = 0 ∨ x ≤ k.gphase then 0 else (x - k.gphase - 1) / k.gstride + 1

/-- Sink and global positions below e (R260). -/
def Kv.gcount (k : Kv) (e : Nat) : Nat := min e k.sinks + (if k.sinks < e then k.strided e - k.strided k.sinks else 0)

/-- The copy of position x that a query at q uses, where it attends it: global or not, page, slot (R260). -/
def Kv.copyOf (k : Kv) (q x : Nat) : Option (Bool × Nat × Nat) :=
  if !k.sparse || decide (q - x < k.window) then some (false, x / 64, x % 64)
  else if k.globalAt x then some (true, k.gcount x / 64, k.gcount x % 64)
  else none

/-- The copies that a query at q attends, in ascending order of position (R260). -/
def Kv.keysOf (k : Kv) (q : Nat) : List (Bool × Nat × Nat) := (List.range (q + 1)).filterMap (k.copyOf q)

/-- The query positions of a sequence. -/
def KvSeq.queries (x : KvSeq) : List Nat := (List.range x.qlen).map (x.start + ·)

/-- The pages that a sequence's queries attend: global or not, number. -/
def Kv.attended (k : Kv) (x : KvSeq) : List (Bool × Nat) :=
  ((x.queries.flatMap k.keysOf).map fun y => (y.1, y.2.1)).eraseDups

/-- The copies that an append of a position writes: global or not, page, slot (R250). -/
def Kv.targets (k : Kv) (x : Nat) : List (Bool × Nat × Nat) :=
  (false, x / 64, x % 64) :: if k.globalAt x then [(true, k.gcount x / 64, k.gcount x % 64)] else []

/-- The pages an append of a sequence's rows writes. -/
def Kv.written (k : Kv) (x : KvSeq) : List (Bool × Nat) :=
  ((x.queries.flatMap k.targets).map fun y => (y.1, y.2.1)).eraseDups

/-- The pages an append of a sequence's rows opens: those whose first slot it writes (R267). -/
def Kv.opens (k : Kv) (x : KvSeq) : List (Bool × Nat) :=
  ((x.queries.flatMap k.targets).filter fun y => y.2.2 == 0).map fun y => (y.1, y.2.1)

/-- The stack that page number n lies in (R254). -/
def Kv.stackOf (k : Kv) (n : Nat) : Nat := nth k.stackList (n % k.stackList.length)

/-- The address of a page's entry for a head (R252). -/
def Kv.entryAt (k : Kv) (x : KvSeq) (pg : Bool × Nat) (h : Nat) : Nat :=
  if pg.1 then x.glob + 8 * (k.heads * pg.2 + h) else x.body + 8 * (k.heads * (pg.2 % x.slots) + h)

/-- Fields of a page-list entry (R253). -/
def entryStack (e : Nat) : Nat := bits e 63 60
def entryAddr (e : Nat) : Nat := bits e 51 6 * 64
def entryDeep (e : Nat) : Bool := bit e 2
def entryShared (e : Nat) : Bool := bit e 1
def entryValid (e : Nat) : Bool := bit e 0

/-- Every page to open, by sequence and head, with its stack: the order in which pages are taken from the pools. -/
def Kv.openList (k : Kv) : List (Nat × (Bool × Nat) × Nat) :=
  (List.range k.seqs.length).flatMap fun i => match k.seqs[i]? with
    | some x => (k.opens x).flatMap fun pg => (List.range k.heads).map fun h => (i, pg, h)
    | none => []

/-! ### Class checks (R268) -/

/-- DETAIL of a failed check on the structures of word w, at sequence i or none (R268). -/
def kvDetail (w : Nat) (i : Option Nat) : Nat := wordDetail w 0xFF + (i.getD 0xFFFFFFFF) * 2 ^ 32

/-- A check of R268 that fails. -/
def kvFail {α : Type} (st w : Nat) (i : Option Nat) : A s0 α := throw (.fail st (kvDetail w i))

/-- A finding on a descriptor as a failure that concerns no one sequence. -/
def kvFlaw (f : Flaw) : A s0 Unit :=
  match f with
  | some (st, d) => throw (.fail st (d + 0xFFFFFFFF * 2 ^ 32))
  | none => pure ()

/-- The words that name a packet's page table, length table, new K/V and rotary table. -/
def Pkt.tableWord (p : Pkt) : Nat := if p.op = 0x52 then 2 else 3
def Pkt.lenWord (p : Pkt) : Nat := if p.op = 0x52 then 3 else 4
def Pkt.newWord (p : Pkt) : Nat := if p.op = 0x50 then 2 else 9
def Pkt.rotWord (p : Pkt) : Nat := if p.op = 0x50 then 5 else 10

/-- The packet appends rows. -/
def Pkt.appends (p : Pkt) : Bool := p.op == 0x50 || (p.op == 0x51 && p.w 9 != 0)

/-- The structures as captured at validation. -/
def Pkt.kv (p : Pkt) : Kv := Kv.ofWords (p.captured 200) (p.captured 201) (p.captured 202) (p.captured 203)

/-- Query rows of every sequence. -/
def Kv.rows (k : Kv) : Nat := (k.seqs.map KvSeq.qlen).foldl (· + ·) 0

/-- One more than the highest position used. -/
def Kv.top (k : Kv) : Nat := ((k.seqs.filter fun x => x.qlen != 0).map fun x => x.start + x.qlen).foldl max 0

/-- The structures read and found well formed: first row of R268. The packet comes out with them captured. -/
def kvLoad (p : Pkt) (ac : Acc) : A s0 Pkt := do
  let s ← (cur : M s0 _)
  let tw := p.tableWord
  let h ← rdWords ac (p.w tw) 8
  if !kvHeaderOk h then kvFail stBadParam tw none
  let n := bits (nth h 5) 31 16
  let es ← rdWords ac (bits (nth h 0) 51 0) (8 * n)
  match (List.range n).find? fun i => !kvSeqOk es i with
  | some i => kvFail stBadParam tw (some i)
  | none => pure ()
  let lh ← rdWords ac (p.w p.lenWord) 2
  if bits (nth lh 0) 13 0 ≠ n then kvFail stBadParam p.lenWord none
  let ls ← rdWords ac (p.w p.lenWord + 16) (2 * n)
  match (List.range n).find? fun i => !kvLenOk ls i with
  | some i => kvFail stBadParam p.lenWord (some i)
  | none => pure ()
  let pat ← (if bits (nth h 2) 51 0 = 0 then pure [] else rdWords ac (bits (nth h 2) 51 0) 8)
  if pat ≠ [] ∧ !kvPatternOk pat (bits (s.fld F.featSparse_value) 63 32) then kvFail stBadParam tw none
  if p.op = 0x51 ∧ p.w 6 ≠ bits (nth h 2) 51 0 then kvFail stBadParam 6 none
  pure { p with descs := p.descs ++ [(200, h), (201, es), (202, ls), (203, pat)] }

/-- The descriptor words of an attention packet. -/
def Pkt.kvWords (p : Pkt) : List Nat :=
  if p.op = 0x52 then [] else if p.op = 0x50 then [2, 5] else [2, 5] ++ given p 9 ++ given p 10

/-- Formats: second row of R268. -/
def kvFormats (p : Pkt) (k : Kv) : A s0 Unit := do
  if k.fmt ≠ 10 ∧ k.fmt ≠ 11 then kvFail stFormat p.tableWord none
  if p.op = 0x50 ∧ p.f 6 3 0 ≠ k.fmt then throw (.fail stFormat (wordDetail 6 0 + 0xFFFFFFFF * 2 ^ 32))
  if p.op = 0x51 then
    if p.f 7 35 32 ≠ k.fmt then throw (.fail stFormat (wordDetail 7 32 + 0xFFFFFFFF * 2 ^ 32))
    kvFlaw (firstFlaw [fmtFlaw p 2 wideFmt, fmtFlaw p 5 wideFmt])
  if p.appends then kvFlaw (fmtFlaw p p.newWord (· == 1))
  if p.op ≠ 0x52 then kvFlaw (fmtFlaw p p.rotWord (· == 0))

/-- Shapes: third row of R268; the extents of R141 follow. -/
def kvShapes (p : Pkt) (k : Kv) : A s0 Unit := do
  if p.op = 0x51 then
    kvFlaw (firstFlaw [rankFlaw p 2 3, shapeFlaw p 2 [k.d, k.heads * k.group, k.rows], rankFlaw p 5 3,
      shapeFlaw p 5 [k.d, k.heads * k.group, k.rows]])
  if p.appends then kvFlaw (firstFlaw [rankFlaw p p.newWord 4, shapeFlaw p p.newWord [k.d, 2, k.heads, k.rows]])
  if p.op ≠ 0x52 then
    let rot := p.desc p.rotWord
    kvFlaw (firstFlaw [rankFlaw p p.rotWord 3, sizeFlaw p p.rotWord 0 2, sizeFlaw p p.rotWord 1 (k.d / 2),
      if rot.size 2 < k.top then flawAt stBadParam p.rotWord 40 4 else none])
  kvFlaw (boundsFlaw p p.kvWords)

/-- A sequence keeps R261 and the rule of START and KV_END (R267, R269): fourth row of R268. -/
def kvSeqFits (s : State) (p : Pkt) (k : Kv) (x : KvSeq) : Bool :=
  let e := max x.kvEnd (x.start + x.qlen)
  decide (e ≤ s.fld F.featSeq_value) &&
  (if k.sparse then
    decide (k.gcount e ≤ bits (s.fld F.featSparse_value) 31 0) && decide (ceilDiv (k.gcount e) 64 ≤ x.gslots)
   else decide (e ≤ s.fld F.featDenseAttn_value)) &&
  (p.op == 0x52 || (if p.appends then x.kvEnd == x.start else decide (x.start + x.qlen ≤ x.kvEnd)))

/-- The address lies in stack n. -/
def liesInStack (ac : Acc) (va n : Nat) (write : Bool) : A s0 Bool := do
  let a ← tr ac va write
  pure (targetOf a == n && decide (n < 12))

/-- A page that a packet needs and does not open: held, valid, in its stack, not DEEP; not SHARED where it is written (fifth
row of R268). -/
def kvHeld (ac : Acc) (k : Kv) (w i : Nat) (x : KvSeq) (pg : Bool × Nat) (h : Nat) (target : Bool) : A s0 Unit := do
  if !pg.1 && (decide (pg.2 < x.first) || decide (x.first + x.slots ≤ pg.2)) then kvFail stBadParam w (some i)
  let e ← rdWord ac (k.entryAt x pg h)
  if !entryValid e || entryDeep e || entryStack e != k.stackOf pg.2 || (target && entryShared e) then
    kvFail stBadParam w (some i)
  let ok ← liesInStack ac (entryAddr e) (entryStack e) target
  if !ok then kvFail stBadParam w (some i)

/-- A page to open: a body page lies within the ring and its entry is not valid (R252, R267, R268). Pages reopened by a rerun are not looked at again. -/
def kvOpenable (ac : Acc) (k : Kv) (w i : Nat) (x : KvSeq) (pg : Bool × Nat) (h : Nat) : A s0 Unit := do
  if !pg.1 && (decide (pg.2 < x.first) || decide (x.first + x.slots ≤ pg.2)) then kvFail stBadParam w (some i)
  if !pg.1 then
    let e ← rdWord ac (k.entryAt x pg h)
    if entryValid e then kvFail stBadParam w (some i)

/-- The pages of one sequence: fifth row of R268. -/
def kvPages (p : Pkt) (ac : Acc) (k : Kv) (again : Bool) (i : Nat) (x : KvSeq) : A s0 Unit := do
  let w := p.tableWord
  let opened := if p.appends then k.opens x else []
  let targets := (if p.appends then k.written x else []).filter fun pg => !opened.contains pg
  let reads := (if p.op = 0x51 then k.attended x else []).filter fun pg => !opened.contains pg && !targets.contains pg
  let _ ← mapA (fun h => do
    let _ ← mapA (fun pg => kvHeld ac k w i x pg h true) targets
    let _ ← mapA (fun pg => kvHeld ac k w i x pg h false) reads
    if !again then
      let _ ← mapA (fun pg => kvOpenable ac k w i x pg h) opened) (List.range k.heads)

/-- The pool record of stack n: ring address, TAIL, HEAD, DEPTH_LOG2 (R255); depth 0 where the table names no pool. -/
structure Pool where
  ring : Nat := 0
  tail : Nat := 0
  head : Nat := 0
  depth : Nat := 0
  deriving DecidableEq, Repr

/-- A pool's record is read. -/
def rdPool (ac : Acc) (k : Kv) (n : Nat) : A s0 Pool := do
  if k.pool = 0 then pure {}
  else
    let ws ← rdWords { ac with source := 2 } (k.pool + 64 * n) 3
    pure { ring := bits (nth ws 0) 51 0, tail := bits (nth ws 1) 63 32, head := bits (nth ws 1) 31 0,
           depth := bits (nth ws 2) 4 0 }

/-- A malformed DEPTH_LOG2 (R255). -/
def Pool.bad (x : Pool) : Bool := (decide (1 ≤ x.depth) && decide (x.depth ≤ 3)) || decide (25 ≤ x.depth)

/-- Free pages of a pool (R255). -/
def Pool.free (x : Pool) : Nat := if x.depth = 0 then 0 else wrap 32 ((x.tail : Int) - (x.head : Int))

/-- The address of the ring slot of count c. -/
def Pool.slot (x : Pool) (c : Nat) : Nat := x.ring + 8 * (c % 2 ^ x.depth)

/-- The address reserved for one page: 64-byte aligned, in its stack, within one 64 KiB block (R256). -/
def kvReserved (ac : Acc) (w i n size va : Nat) : A s0 Nat := do
  if 2 ^ 52 ≤ va ∨ va % 64 ≠ 0 ∨ va / 65536 ≠ (va + size - 1) / 65536 then kvFail stBadParam w (some i)
  let ok ← liesInStack ac va n true
  if !ok then kvFail stBadParam w (some i)
  pure va

/-- The first of these needs, each a stack with its sequence in the packet's order, that a pool does not meet: its record is
malformed (first), or it has fewer places than the needs so far (second). -/
def poolShort (pools : List (Nat × Pool)) (room : Pool → Nat) (needs : List (Nat × Nat)) : Option Nat :=
  let at_ (n : Nat) : Pool := ((pools.find? fun x => x.1 == n).map Prod.snd).getD {}
  (needs.zip (List.range needs.length)).findSome? fun (x, j) =>
    if room (at_ x.1) < ((needs.take (j + 1)).filter fun y => y.1 == x.1).length then some x.2 else none

/-- The pages reserved for an appending packet: rows six to eight of R268. Page addresses in the order of `openList`. A
failure concerns the first sequence, in the packet's order, whose page is not got. -/
def kvReserve (p : Pkt) (ac : Acc) (k : Kv) : A s0 (List Nat) := do
  let w := p.tableWord
  let items := k.openList
  let needs := items.map fun x => (k.stackOf x.2.1.2, x.1)
  let ns := k.stackList.filter fun n => needs.any fun x => x.1 == n
  let pools ← mapA (fun n => do pure (n, ← rdPool ac k n)) ns
  match needs.find? fun x => pools.any fun y => y.1 == x.1 && y.2.bad with
  | some x => kvFail stBadParam w (some x.2)
  | none => pure ()
  match poolShort pools Pool.free needs with
  | some i => kvFail stQuota w (some i)
  | none => pure ()
  mapA (fun (j, x) => do
    let n := k.stackOf x.2.1.2
    let pool := ((pools.find? fun y => y.1 == n).map Prod.snd).getD {}
    let before := ((needs.take j).filter fun y => y.1 == n).length
    let va ← rdWord { ac with source := 2 } (pool.slot (wrap 32 ((pool.head + before : Nat) : Int)))
    kvReserved { ac with source := 2 } w x.1 n (kvPageBytes k.fmt k.d x.2.1.1) va)
    ((List.range items.length).zip items)

/-- HEAD of every pool moves past the pages a packet takes (R255, R256). -/
def kvPop (ac : Acc) (k : Kv) : A s0 Unit := do
  let items := k.openList
  let count (n : Nat) := (items.filter fun x => k.stackOf x.2.1.2 == n).length
  let ws ← mapA (fun n => do
    let x ← rdPool ac k n
    let w : Wr := { va := k.pool + 64 * n + 8, bs := toBytes 4 (x.head + count n) }
    pure w) (k.stackList.filter fun n => count n != 0)
  wrAll { ac with source := 2 } ws
  (bump F.hbKvPagesOpened_count items.length : M s0 _)

/-! ### KV_RELEASE (R262) -/

/-- The pages a KV_RELEASE may release of a sequence: by CLOSE, or beyond every window. -/
def Kv.releasable (k : Kv) (x : KvSeq) : List (Bool × Nat) :=
  let held := (List.range x.slots).map fun j => (false, x.first + j)
  if x.close then held ++ (List.range x.gslots).map fun g => (true, g)
  else if k.sparse then held.filter fun pg => decide (64 * pg.2 + 63 + k.window ≤ x.kvEnd)
  else []

/-- The valid entries among those: sequence, page, entry address, entry. -/
def kvReleases (ac : Acc) (k : Kv) : A s0 (List (Nat × (Bool × Nat) × Nat × Nat)) := do
  let all ← mapA (fun (i, x) => do
    let es ← mapA (fun (pg, h) => do
      let a := k.entryAt x pg h
      let e ← rdWord ac a
      pure (i, pg, a, e)) ((k.releasable x).flatMap fun pg => (List.range k.heads).map fun h => (pg, h))
    pure (es.filter fun y => entryValid y.2.2.2)) ((List.range k.seqs.length).zip k.seqs)
  pure all.flatten

/-- The pages that return to stack n's pool. -/
def returnsTo (n : Nat) (l : List (Nat × (Bool × Nat) × Nat × Nat)) : List Nat :=
  (l.filter fun y => !entryShared y.2.2.2 && entryStack y.2.2.2 == n).map fun y => entryAddr y.2.2.2

/-- The checks of a KV_RELEASE on its pages and pools: rows five to seven of R268. -/
def kvReleaseChecks (p : Pkt) (ac : Acc) (k : Kv) : A s0 Unit := do
  let w := p.tableWord
  let l ← kvReleases ac k
  let _ ← mapA (fun y => do
    if !entryShared y.2.2.2 then
      if entryDeep y.2.2.2 ∨ entryStack y.2.2.2 ≠ k.stackOf y.2.1.2 then kvFail stBadParam w (some y.1)
      let ok ← liesInStack ac (entryAddr y.2.2.2) (entryStack y.2.2.2) false
      if !ok then kvFail stBadParam w (some y.1)) l
  let ns := stackList.filter fun n => returnsTo n l != []
  let pools ← mapA (fun n => do pure (n, ← rdPool ac k n)) ns
  let needs := (l.filter fun y => !entryShared y.2.2.2).map fun y => (entryStack y.2.2.2, y.1)
  match needs.find? fun x => pools.any fun y => y.1 == x.1 && y.2.bad with
  | some x => kvFail stBadParam w (some x.2)
  | none => pure ()
  match poolShort pools (fun x => if x.depth = 0 then needs.length else 2 ^ x.depth - x.free) needs with
  | some i => kvFail stQuota w (some i)
  | none => pure ()

/-- Pages written at TAIL of stack n's pool, and TAIL after them (R255). -/
def kvGive (ac : Acc) (k : Kv) (l : List (Nat × (Bool × Nat) × Nat × Nat)) (n : Nat) : A s0 Unit := do
  let vas := returnsTo n l
  let x ← rdPool ac k n
  if x.depth ≠ 0 then
    wrAll ac ((List.range vas.length).zip vas |>.map fun (j, va) =>
      { va := x.slot (wrap 32 ((x.tail + j : Nat) : Int)), bs := toBytes 8 va })
    wrAll ac [{ va := k.pool + 64 * n + 12, bs := toBytes 4 (x.tail + vas.length) }]
    (bump F.hbKvPagesReleased_count vas.length : M s0 _)

/-- The lowest body page of a sequence still held, or where KV_END stands (R262). -/
def kvLowest (ac : Acc) (k : Kv) (x : KvSeq) : (left n : Nat) → A s0 Nat
  | 0, _ => pure (x.kvEnd / 64)
  | left + 1, n => do
    let es ← mapA (fun h => rdWord ac (k.entryAt x (false, n) h)) (List.range k.heads)
    if es.any entryValid then pure n else kvLowest ac k x left (n + 1)

/-- The operation of KV_RELEASE: entries cleared, pages returned, FIRST_PAGE (R262). -/
def kvReleaseBody (p : Pkt) (ac : Acc) : A s0 Fin := do
  let k := p.kv
  let l ← kvReleases ac k
  wrAll ac (l.map fun y => { va := y.2.2.1, bs := toBytes 8 (setBits y.2.2.2 0 0 0) })
  let _ ← mapA (kvGive ac k l) (stackList.filter fun n => returnsTo n l != [])
  let _ ← mapA (fun (i, x) => do
    let n ← kvLowest ac k x x.slots x.first
    wrAll ac [{ va := k.seqsAt + 64 * i + 12, bs := toBytes 4 n }]) ((List.range k.seqs.length).zip k.seqs)
  pure {}

/-- `KV_RELEASE` (R262). -/
def execKvRelease (c id : Nat) (s : State) : Outcome :=
  M.go s (do
    if s.loaded c && s.engineTurn c id 0x52 then onIssued c id [0x52] fun p => runPktWith c p 2 true (pure ()) (kvReleaseBody p))

/-! ### Validation of the class -/

/-- The class checks of KV_APPEND, ATTEND and KV_RELEASE in the order of R268, the packet's structures captured and the pages
it opens reserved. `pages` holds the pages an earlier run opened, where the packet runs again in an encore (R256). -/
def kvChecks (p : Pkt) (ac : Acc) (pages : Option (List Nat)) : A s0 Pkt := do
  let p ← kvLoad p ac
  kvFlaw (formFlaw p p.kvWords)
  let k := p.kv
  let s ← (cur : M s0 _)
  kvFormats p k
  kvShapes p k
  match (List.range k.seqs.length).find? fun i => match k.seqs[i]? with
      | some x => !kvSeqFits s p k x
      | none => false with
  | some i => kvFail stBadParam p.lenWord (some i)
  | none => pure ()
  if p.op = 0x52 then
    kvReleaseChecks p ac k
    pure p
  else
    let _ ← mapA (fun (i, x) => kvPages p ac k pages.isSome i x) ((List.range k.seqs.length).zip k.seqs)
    let aux := [((if p.inStep then (s.ctxsAt ac.ctx).step else none).map Step.attnMax).getD (s.fld F.hbSplitCfg_attnNearMax)]
    if p.appends then
      let got ← (match pages with
        | some l => pure l
        | none => kvReserve p ac k)
      pure { p with pages := got, aux := aux }
    else pure { p with aux := aux }

/-! ### Writing rows (R246 to R250, R465) -/

/-- The address of a page of a sequence: the one the packet opened, or its entry's. -/
def kvPageVa (p : Pkt) (ac : Acc) (k : Kv) (i : Nat) (x : KvSeq) (pg : Bool × Nat) (h : Nat) : A s0 Nat := do
  match (k.openList.zip p.pages).find? fun y => y.1 == (i, pg, h) with
  | some y => pure y.2
  | none => do
    let e ← rdWord ac (k.entryAt x pg h)
    pure (entryAddr e)

/-- The accessor of a page: its owning unit, or the cores in its stead (R27, R29). -/
def pageVia (ac : Acc) (va : Nat) : A s0 Acc := do
  let a ← tr ac va true
  let s ← (cur : M s0 _)
  pure (if targetOf a < 12 then s.via ac (s.physUnit a) else ac)

/-- An opened page: its entry, and zeros over the whole page before its first rows (R267, R465). -/
def kvOpenPage (ac : Acc) (k : Kv) (x : KvSeq) (pg : Bool × Nat) (h va : Nat) : A s0 Unit := do
  wrAll ac [{ va := k.entryAt x pg h, bs := toBytes 8 (k.stackOf pg.2 * 2 ^ 60 + va + 1) }]
  let via ← pageVia ac va
  wrWhole via [{ va := va, bs := List.replicate (kvPageBytes k.fmt k.d pg.1) 0 }]

/-- One row of K (region 0) or V (region 1) into its body page, and into its global page where it has one (R246, R250). -/
def kvPutRow (ac : Acc) (k : Kv) (region t : Nat) (xs : List Nat) (body : Nat) (glob : Option (Nat × Nat)) : A s0 Unit := do
  let at_ := body + region * kvRegion k.fmt k.d false
  let via ← pageVia ac body
  let s16 ← (if k.fmt = 10 then pure 0
    else if setsBlock k.d t then pure (kvBlockScale xs)
    else do pure (ofBytes (← rd via (at_ + kvF16At k.d false t) 2)))
  let row := kvEncode k.fmt s16 xs
  wrWhole via ((kvPut k.fmt k.d false t row (if setsBlock k.d t then some s16 else none)).map fun (o, bs) =>
    { va := at_ + o, bs := bs })
  match glob with
  | some (va, gt) => do
    let gvia ← pageVia ac va
    wrWhole gvia ((kvPut k.fmt k.d true gt row (some s16)).map fun (o, bs) =>
      { va := va + region * kvRegion k.fmt k.d true + o, bs := bs })
  | none => pure ()

/-- The sequence whose pages or rows the accesses that follow belong to, with the length table's COUNT (R463, R471);
0xFFFF_FFFF for accesses that belong to none. -/
def noteSeq (ac : Acc) (p : Pkt) (k : Kv) (i : Nat) : M s0 Unit :=
  modPkt ac.ctx p.id fun y => { y with seqIdx := i, seqCount := k.seqs.length }

/-- The new rows of one position of a sequence, for every head: K rotated, both quantised and written (R248 to R250). -/
def kvAppendPos (p : Pkt) (ac : Acc) (k : Kv) (i : Nat) (x : KvSeq) (row pos : Nat) : A s0 Unit := do
  let t := p.desc p.newWord
  (noteSeq ac p k 0xFFFFFFFF : M s0 _)
  let (cos, sin) ← rdRotary ac (p.desc p.rotWord) pos
  (noteSeq ac p k i : M s0 _)
  let _ ← mapA (fun h => do
    let key ← rdRow ac t [0, h, row]
    let val ← rdRow ac t [1, h, row]
    let body ← kvPageVa p ac k i x (false, pos / 64) h
    let glob ← (if k.globalAt pos then do
        let va ← kvPageVa p ac k i x (true, k.gcount pos / 64) h
        pure (some (va, k.gcount pos % 64))
      else pure none)
    kvPutRow ac k 0 (pos % 64) (rotate cos sin (key.map to32)) body glob
    kvPutRow ac k 1 (pos % 64) (val.map to32) body glob) (List.range k.heads)

/-- The rows before those of sequence i (R258). -/
def Kv.rowBase (k : Kv) (i : Nat) : Nat := ((k.seqs.take i).map KvSeq.qlen).foldl (· + ·) 0

/-- A part of a packet's work; where it meets an uncorrectable granule the other parts run on: the sequence noted, and the
stop (R146, R463). -/
def partOfWork {β : Type} (ac : Acc) (p : Pkt) (m : A s0 β) : A s0 (Except (Nat × Stop) β) := do
  try
    let y ← m
    pure (.ok y)
  catch e =>
    match e with
    | .poison va dpa => do
      let s ← (cur : M s0 _)
      pure (.error (((s.pkt ac.ctx p.id).map Pkt.seqIdx).getD 0xFFFFFFFF, .poison va dpa))
    | e => throw e

/-- The parts that failed. -/
def failedParts {β : Type} (rs : List (Except (Nat × Stop) β)) : List (Nat × Stop) :=
  rs.filterMap fun r => match r with
    | .ok _ => none
    | .error e => some e

/-- The packet's parts have ended: it stops by the first that failed, and names the one sequence that every failing access
belonged to (R146, R463). -/
def endParts (ac : Acc) (p : Pkt) (k : Kv) (fs : List (Nat × Stop)) : A s0 Unit := do
  match fs with
  | [] => (noteSeq ac p k 0xFFFFFFFF : M s0 _)
  | (i, e) :: rest => do
    (noteSeq ac p k (if rest.all fun f => f.1 == i then i else 0xFFFFFFFF) : M s0 _)
    throw e

/-- The append of an attention packet: pages opened, then every sequence's rows (R267, R269); the parts that failed. -/
def kvAppend (p : Pkt) (ac : Acc) (k : Kv) : A s0 (List (Nat × Stop)) := do
  let os ← mapA (fun ((i, pg, h), va) => partOfWork ac p (do
    match k.seqs[i]? with
    | some x => do (noteSeq ac p k i : M s0 _); kvOpenPage ac k x pg h va
    | none => pure ())) (k.openList.zip p.pages)
  let rs ← mapA (fun (i, x) => partOfWork ac p (do
    (noteSeq ac p k i : M s0 _)
    let _ ← mapA (fun j => kvAppendPos p ac k i x (k.rowBase i + j) (x.start + j)) (List.range x.qlen)))
    ((List.range k.seqs.length).zip k.seqs)
  pure (failedParts os ++ failedParts rs)

/-- The units that own pages of a sequence, for every head. -/
def kvHomes (p : Pkt) (ac : Acc) (k : Kv) (i : Nat) (x : KvSeq) (pgs : List (Bool × Nat)) : A s0 (List Nat) := do
  let hs ← mapA (fun (pg, h) => do
    let va ← kvPageVa p ac k i x pg h
    pageHome ac p.tableWord va false) (pgs.flatMap fun pg => (List.range k.heads).map fun h => (pg, h))
  pure hs

/-- A unit's counters after attention work: how its work is cut into commands the spec leaves to the caller (log entry 33). -/
def countFree (u : Nat) : M s0 Unit := do
  if (← cur).unitService (u / 32) (u % 32) = 0 then
    let n ← takeFresh
    let m ← takeFresh
    let r ← takeFresh
    let w ← takeFresh
    let x ← takeFresh
    countShare u ((Config.free n).toNat) {
      macs := (Config.free m).toNat, rd := (Config.free r).toNat, wr := (Config.free w).toNat, cycles := (Config.free x).toNat }

/-- The places of one row that an append writes in a page: its values and scales, of K and of V (R246, R250). -/
def kvRowPlaces (k : Kv) (va : Nat) (g : Bool) (t : Nat) : List Place :=
  let row := kvEncode k.fmt 0x0400 (List.replicate k.d 0)
  [0, 1].flatMap fun region => (kvPut k.fmt k.d g t row (if setsBlock k.d t || g then some 0 else none)).map fun (o, bs) =>
    { va := va + region * kvRegion k.fmt k.d g + o, n := bs.length }

/-- The places an append writes: a page it opens whole, with its entry (R465), and its rows in other pages. -/
def kvPlaces (p : Pkt) (ac : Acc) (k : Kv) : A s0 (List Place) := do
  let opened := (k.openList.zip p.pages).flatMap fun ((i, pg, h), va) => match k.seqs[i]? with
    | some x => { va := k.entryAt x pg h, n := 8 } ::
        (List.range (kvPageBytes k.fmt k.d pg.1 / 64)).map fun j => ({ va := va + 64 * j, n := 64 } : Place)
    | none => []
  let rows ← mapA (fun (i, x) => mapA (fun j => mapA (fun h => mapA (fun (g, n, t) =>
    if k.openList.contains (i, (g, n), h) then pure []
    else tryCatch (do pure (kvRowPlaces k (← kvPageVa p ac k i x (g, n) h) g t)) fun _ => pure [])
    (k.targets (x.start + j))) (List.range k.heads)) (List.range x.qlen)) ((List.range k.seqs.length).zip k.seqs)
  pure (opened ++ (rows.flatten.flatten.flatten.flatten))

/-- What an attention packet that is abandoned leaves in its destinations: old content or new (R146, R317). -/
def kvAbort (c : Nat) (p : Pkt) (body : Acc → A s0 Fin) : M s0 Unit := do
  let ac := (← cur).acc c
  let rows ← (if p.appends then do
    let (r, _) ← runA (kvPlaces p ac p.kv)
    pure (match r with | .ok xs => xs | .error _ => [])
    else pure [])
  leavePlaces ac (fun x => do let _ ← body x; pure ()) (rows ++ p.outputs.flatMap Desc.places)

/-- The units that own the pages an append writes. -/
def appendUnits (p : Pkt) (ac : Acc) : A s0 (List Nat) := do
  let k := p.kv
  let hs ← mapA (fun (i, x) => kvHomes p ac k i x (k.written x)) ((List.range k.seqs.length).zip k.seqs)
  pure hs.flatten.eraseDups

/-- The operation of KV_APPEND (R269). -/
def kvAppendBody (p : Pkt) (ac : Acc) : A s0 Fin := do
  let k := p.kv
  let us ← appendUnits p ac
  needUnits ac 4 us
  (countFallback us : M s0 _)
  let fs ← kvAppend p ac k
  endParts ac p k fs
  (each us countFree : M s0 _)
  pure {}

/-- `KV_APPEND` (R269). -/
def execKvAppend (c id : Nat) (s : State) : Outcome :=
  M.go s (do
    if s.loaded c then onIssued c id [0x50] fun p => runPktWith c p 0 false (kvAbort c p (kvAppendBody p)) (kvAppendBody p))

/-! ### ATTEND (R263 to R267) -/

/-- A page read for attention: global or not, its number, stack, owning unit, bytes. -/
structure KvPage where
  glob : Bool
  num : Nat
  stack : Nat
  home : Nat
  data : List Byte
  deriving DecidableEq, Repr

/-- A page's part of a query's partial (R264). -/
def KvPage.part (g : KvPage) (k : Kv) (scale : Nat) (q : List Num) (keys : List (Bool × Nat × Nat)) : PagePart :=
  let kr := g.data.take (kvRegion k.fmt k.d g.glob)
  let vr := g.data.drop (kvRegion k.fmt k.d g.glob)
  pagePart ((keys.filter fun y => y.1 == g.glob && y.2.1 == g.num).map fun y =>
    (y.2.2, scoreU scale q (kvRow k.fmt k.d g.glob kr y.2.2), kvRow k.fmt k.d g.glob vr y.2.2))

/-- The output row of one query position and head: the stack partials combined in ascending stack number (R265). -/
def attendRow (k : Kv) (scale : Nat) (q : List Num) (pages : List KvPage) (keys : List (Bool × Nat × Nat)) : List Nat :=
  combineRecs k.d ((stackList.filter k.stackList.contains).map fun n =>
    stackRec k.d ((pages.filter fun g => g.stack == n).map fun g => g.part k scale q keys))

/-- The pages of one sequence and head, read through their units or by the cores. -/
def kvReadPages (p : Pkt) (ac : Acc) (k : Kv) (near : Bool) (i : Nat) (x : KvSeq) (h : Nat) : A s0 (List KvPage) :=
  mapA (fun (g, n) => do
    let va ← kvPageVa p ac k i x (g, n) h
    let home ← pageHome ac p.tableWord va false
    let s ← (cur : M s0 _)
    let bs ← rd (if near then s.via ac home else ac) va (kvPageBytes k.fmt k.d g)
    pure { glob := g, num := n, stack := k.stackOf n, home := home, data := bs }) (k.attended x)

/-- Joins of one sequence and head that ran near: for every stack whose pages lie in more than one unit, one JOIN for each
query position and head, its inputs over the promenade bus (R266, log entry 33). -/
def countJoins (k : Kv) (x : KvSeq) (pages : List KvPage) : M s0 Unit :=
  each stackList fun n => do
    let us := ((pages.filter fun g => g.stack == n).map KvPage.home).eraseDups.length
    if 1 < us then
      bump F.hbAttnJoins_count (x.qlen * k.group)
      bump F.galPromBytes_count ((us - 1) * (16 + 16 * k.d) * (x.qlen * k.group)) n

/-- One sequence attended: every query position and head (R263 to R265). -/
def attendSeq (p : Pkt) (ac : Acc) (k : Kv) (near : Bool) (i : Nat) (x : KvSeq) : A s0 (List (List Wr × Nat × Nat)) := do
  (noteSeq ac p k i : M s0 _)
  let rows ← mapA (fun kh => do
    let pages ← kvReadPages p ac k near i x kh
    if near then (countJoins k x pages : M s0 _)
    let out ← mapA (fun j => do
      (noteSeq ac p k 0xFFFFFFFF : M s0 _)
      let (cos, sin) ← rdRotary ac (p.desc 10) (x.start + j)
      (noteSeq ac p k i : M s0 _)
      mapA (fun g => do
        let h := kh * k.group + g
        let row := k.rowBase i + j
        let q ← rdRow ac (p.desc 2) [h, row]
        let o := attendRow k (p.f 7 31 0) (qHat (rotate cos sin (q.map to32))) pages (k.keysOf (x.start + j))
        pure (outRow (p.desc 5) [h, row] (o.map of32))) (List.range k.group)) (List.range x.qlen)
    pure out.flatten) (List.range k.heads)
  (bump (if near then F.hbAttnNearSeqs_count else F.hbAttnCoreSeqs_count) 1 : M s0 _)
  pure rows.flatten

/-- The stage blocks of the units a packet uses take contents the spec does not state: what the caller stages and in which
form it leaves open (R266, log entry 33). -/
def useStage (p : Pkt) (ac : Acc) (words us : List Nat) : A s0 Unit := do
  let _ ← mapA (fun n => do
    if nth words n ≠ 0 ∧ us.any (fun u => u / 32 == n) then
      let _ ← mapA (fun b => do
        let va := nth words n + 65536 * b
        let home ← pageHome ac p.tableWord va true
        if us.contains home then
          let _ ← mapA (fun g => do
            let bs ← (freeBytes 64 : M s0 _)
            wrAll ac [{ va := va + 64 * g, bs := bs }]) (List.range 1024)) (List.range 32)) stackList

/-- The sequences a packet places near: short enough, with a stage page in every stack of their pages (R17, R266). -/
def placedNear (p : Pkt) (k : Kv) (words : List Nat) (x : KvSeq) : Bool :=
  decide (x.qlen ≤ nth p.aux 0) && (k.attended x).all fun pg => nth words (k.stackOf pg.2) != 0

/-- The sequences that have query rows, by their place in the packet. -/
def Kv.live (k : Kv) : List (Nat × KvSeq) := ((List.range k.seqs.length).zip k.seqs).filter fun x => x.2.qlen != 0

/-- The stage words, read where a sequence may run near (R266). -/
def stageWords (p : Pkt) (ac : Acc) : A s0 (List Nat) :=
  if p.kv.live.any fun x => decide (x.2.qlen ≤ nth p.aux 0) then rdWords ac p.kv.stage 12 else pure []

/-- The units that own the pages of the sequences an ATTEND attends near. -/
def attendUnits (p : Pkt) (ac : Acc) (words : List Nat) : A s0 (List Nat) := do
  let hs ← mapA (fun (i, x) => kvHomes p ac p.kv i x (p.kv.attended x)) (p.kv.live.filter fun x => placedNear p p.kv words x.2)
  pure hs.flatten.eraseDups

/-- The operation of ATTEND (R267). -/
def attendBody (p : Pkt) (ac : Acc) : A s0 Fin := do
  let k := p.kv
  let words ← stageWords p ac
  let wr ← (if p.appends then appendUnits p ac else pure [])
  let at_ ← attendUnits p ac words
  let us := (wr ++ at_).eraseDups
  needUnits ac 4 us
  (countFallback us : M s0 _)
  useStage p ac words at_
  let fs ← (if p.appends then kvAppend p ac k else pure [])
  let rs ← mapA (fun (i, x) => partOfWork ac p (attendSeq p ac k (placedNear p k words x) i x)) k.live
  endParts ac p k (fs ++ failedParts rs)
  putRows ac p.dies (rs.flatMap fun r => match r with
    | .ok rows => rows
    | .error _ => [])
  (each us countFree : M s0 _)
  (openDest ac (p.desc 5) [p.desc 2, p.desc 10] : M s0 _)
  pure {}

/-- `ATTEND` (R267). -/
def execAttend (c id : Nat) (s : State) : Outcome :=
  M.go s (do
    if s.loaded c then onIssued c id [0x51] fun p => runPktWith c p 0 false (kvAbort c p (attendBody p)) (attendBody p))

/-! ### KV_MOVE (R270) -/

/-- The class checks of KV_MOVE: its list well formed, then every entry. The packet comes out with its header captured. -/
def kvMoveChecks (p : Pkt) (ac : Acc) : A s0 Pkt := do
  let s ← (cur : M s0 _)
  let dir := p.b 3 0
  let hs ← rdWords ac (p.w 2) 2
  let h := nth hs 0
  let n := bits h 31 0
  if n = 0 ∨ 65536 < n ∨ bits h 41 40 = 3 then throw (.fail stBadParam (wordDetail 2 0xFF))
  if bits h 35 32 ≠ 10 ∧ bits h 35 32 ≠ 11 then throw (.fail stFormat (wordDetail 2 0xFF))
  let ws ← rdWords ac (p.w 2 + 16) (2 * n)
  let size := kvPageBytes (bits h 35 32) (64 * 2 ^ bits h 41 40) (bit h 44)
  let dest ← mapA (fun i => do
    let e ← rdWord ac (nth ws (2 * i))
    let va := nth ws (2 * i + 1)
    if !entryValid e || entryShared e || entryDeep e == !dir || va % 64 != 0 then
      throw (.fail stBadParam (wordDetail 2 0xFF))
    let a ← tr ac va true
    let b ← tr ac (va + size - 1) true
    let ok (x : Nat) : Bool := if dir then targetOf x == entryStack e else targetOf x == 12
    if !(ok a && ok b) then throw (.fail stBadParam (wordDetail 2 0xFF))
    pure (va, size)) (List.range n)
  let leaves ← leavesOf ac true ((dest.flatMap fun (va, m) => [va / 65536 * 65536, (va + m - 1) / 65536 * 65536]).eraseDups)
  if leaves.any fun (base, m) => (s.windowOf ac.part base m).isNone then throw (.fail stQuota 0)
  pure { p with descs := p.descs ++ [(200, hs), (201, ws)] }

/-- The operation of KV_MOVE: pages copied, entries and the list updated, in the list's order (R270). -/
def kvMoveBody (p : Pkt) (ac : Acc) : A s0 Fin := do
  let h := nth (p.captured 200) 0
  let size := kvPageBytes (bits h 35 32) (64 * 2 ^ bits h 41 40) (bit h 44)
  let _ ← mapA (fun i => do
    let ea := nth (p.captured 201) (2 * i)
    let va := nth (p.captured 201) (2 * i + 1)
    let e ← rdWord ac ea
    let bs ← rd ac (entryAddr e) size
    wrAll ac [{ va := va, bs := bs }]
    wrAll ac [{ va := ea, bs := toBytes 8 (setBits (setBits e 51 6 (va / 64)) 2 2 (b2n (!p.b 3 0))) }]
    wrAll ac [{ va := p.w 2 + 16 + 16 * i + 8, bs := toBytes 8 (entryAddr e) }]) (List.range (bits h 31 0))
  (bump F.hbKvPagesMoved_count (bits h 31 0) : M s0 _)
  pure {}

/-- `KV_MOVE` (R270). -/
def execKvMove (c id : Nat) (s : State) : Outcome :=
  M.go s (do
    if s.loaded c then onIssued c id [0x55] fun p => runPktWith c p 2 true (pure ()) (kvMoveBody p))

end Sys2Proof.Machine
end

