-- ==== Sys2Proof/Machine/Moe.lean ====
section
/-!
DEFINITION. MOE_DISPATCH (R18, R19, R21, R61, R123, R226, R496 to R498): its class checks, the placement of each expert on units
or on cores, and the weighted sum of a token's expert outputs. The layouts of the routing and of the expert table are those of
log entry 23.
-/
namespace Sys2Proof.Machine

variable {s0 : State}

/-! ### What the packet names -/

/-- The captured descriptors of expert e: gate-and-up, down. -/
def guWord (e : Nat) : Nat := 40 + 2 * e
def dnWord (e : Nat) : Nat := 41 + 2 * e

/-- The experts of the table. -/
def Pkt.experts (p : Pkt) : List Nat := List.range (p.f 9 8 0)

/-- The placement threshold of experts: the open step's for a packet of the step, else the register's (R19). -/
def State.expertMax (s : State) (c : Nat) (p : Pkt) : Nat :=
  ((if p.inStep then (s.ctxsAt c).step else none).map Step.expertMax).getD (s.fld F.hbSplitCfg_expertNearMax)

/-- RANK and sizes of an expert's matrices: of rank 2 as MLP_GATED's (R498), or of rank 3 in shares (R226). -/
def expertShape (p : Pkt) (h e : Nat) : Flaw :=
  let g := p.desc (guWord e)
  let d := p.desc (dnWord e)
  let outer := if g.rank = 3 then [g.size 2] else []
  firstFlaw [shapeFlaw p (guWord e) ([h, 2 * d.size 0] ++ outer), shapeFlaw p (dnWord e) ([d.size 0, h] ++ outer),
    if g.count = 0 then flawAt stBadParam 4 40 2 else none]

/-- The class checks of MOE_DISPATCH in the order of R496; `top` is the largest number of experts a row may name (R3). -/
def moeFlaw (p : Pkt) (top : Nat) : Flaw :=
  let x := p.desc 2
  let ex := p.desc 30
  let ins := [2, 30, 31] ++ p.experts.flatMap fun e => [guWord e, dnWord e]
  firstFlaw [formFlaw p (5 :: ins),
    fmtFlaw p 30 (· == 9), fmtFlaw p 31 wideFmt,
    firstFlaw (p.experts.map fun e => firstFlaw [pairFlaw p 2 (p.checkedFmt 2) (guWord e), pairFlaw p (dnWord e) 0 (dnWord e)]),
    outFlaw p 5 {},
    tailFlaw p 2 {}, shapeFlaw p 2 [x.size 0, x.size 1], shapeFlaw p 5 [x.size 0, x.size 1],
    shapeFlaw p 30 [ex.size 0, x.size 1], shapeFlaw p 31 [ex.size 0, x.size 1],
    (if x.size 0 = 0 then flawAt stBadParam 2 40 2 else none),
    (if ex.size 0 = 0 ∨ top < ex.size 0 then flawAt stBadParam 3 40 2 else none),
    firstFlaw (p.experts.map (expertShape p (x.size 0))),
    boundsFlaw p (5 :: ins), injFlaw p 5, overlapFlaw p 5 (ins.map p.desc)]

/-! ### Where experts run (R18) -/

/-- The one physical pseudo-channel of every page of a list of addresses, where there is one. -/
def soleHome (ac : Acc) (vas : List Nat) : A s0 (Option Nat) :=
  tryCatch (do
    match ← oneHome ac 4 false vas with
    | [] => pure none
    | h :: hs => pure (if hs.all (· == h) then some h else none)) fun _ => pure none

/-- The units of an expert's shares, where its weights lie in a near layout and m rows of chunk values fit a share's scratch
(R18, R226). -/
def nearHomes (ac : Acc) (p : Pkt) (m e : Nat) : A s0 (List Nat) := do
  let g := p.desc (guWord e)
  let d := p.desc (dnWord e)
  if g.rank ≠ 3 ∨ d.size 0 % 256 ≠ 0 ∨ 32 < g.size 2 ∨ !nearFmt g.fmt ∨ !nearFmt d.fmt ∨ !chunksFit m g d then pure []
  else
    let hs ← mapA (fun u => soleHome ac (g.reach (g.slice [u]) ++ d.reach (d.slice [u]))) (List.range (g.size 2))
    let us := hs.filterMap id
    pure (if us.length = hs.length ∧ ((us.map (· / 32)).eraseDups).length = 1 then us else [])

/-- The experts placed on units, with the units of their shares: each has at most the threshold's number of rows routed to it
(R18). -/
def placeExperts (ac : Acc) (p : Pkt) (counts : List (Nat × Nat)) : A s0 (List (Nat × List Nat)) := do
  let hs ← mapA (fun (e, n) => do pure (e, ← (if n ≤ nth p.aux 0 then nearHomes ac p n e else pure []))) counts
  pure (hs.filter fun h => !h.2.isEmpty)

/-! ### Experts -/

/-- One expert's operands: gate-and-up and down columns with their formats. -/
structure ExpertOps where
  guFmt : Nat
  dnFmt : Nat
  gu : List (List Num)
  dn : List (List Num)
  deriving DecidableEq, Repr

/-- The columns of a gate-and-up operand, gate columns first; those of share u read through its accessor. -/
def guCols (acs : Nat → Acc) (t : Desc) : A s0 (List (List Num)) := do
  if t.rank = 3 then
    let n := t.size 1 / 2
    let g ← mapA (fun u => mapA (fun j => rdRow (acs u) t [j, u]) (List.range n)) (List.range (t.size 2))
    let v ← mapA (fun u => mapA (fun j => rdRow (acs u) t [n + j, u]) (List.range n)) (List.range (t.size 2))
    pure (g.flatten ++ v.flatten)
  else rdRows (acs 0) t (t.size 1) []

/-- The columns of a down operand. -/
def dnCols (acs : Nat → Acc) (t : Desc) : A s0 (List (List Num)) :=
  if t.rank = 3 then mapA (fun j => do
    let parts ← mapA (fun u => rdRow (acs u) t [j, u]) (List.range (t.size 2))
    pure parts.flatten) (List.range (t.size 1))
  else rdRows (acs 0) t (t.size 1) []

/-- An expert read: by the units of its shares, or by cores. -/
def rdExpert (ac : Acc) (p : Pkt) (near : List (Nat × List Nat)) (e : Nat) : A s0 ExpertOps := do
  let s ← (cur : M s0 _)
  let us := ((near.find? fun h => h.1 == e).map Prod.snd).getD []
  let acs (u : Nat) : Acc := match us[u]? with
    | some h => s.via ac h
    | none => ac
  let g := p.desc (guWord e)
  let d := p.desc (dnWord e)
  pure { guFmt := g.fmt, dnFmt := d.fmt, gu := ← guCols acs g, dn := ← dnCols acs d }

/-- The counters of the units that ran an expert's shares, for m rows (R221, R239). -/
def countExpert (p : Pkt) (counts : List (Nat × Nat)) (near : Nat × List Nat) : M s0 Unit :=
  let m := ((counts.find? fun c => c.1 == near.1).map Prod.snd).getD 0
  each near.2 fun u => countShare u 2 (expertUse m (p.aFmt 2) (p.desc (guWord near.1)) (p.desc (dnWord near.1)))

/-- An expert's output of a row (R123). -/
def expertRow (fa epi : Nat) (o : ExpertOps) (x : List Num) : List Num :=
  let a1 := (arithOf fa o.guFmt).getD {}
  let a2 := (arithOf 0 o.dnFmt).getD {}
  productRow a2 (gated epi (productRow a1 x o.gu)) o.dn

/-- A pair put into a list sorted by its first number. -/
def insertPair (x : Nat × Nat) : List (Nat × Nat) → List (Nat × Nat)
  | [] => [x]
  | y :: ys => if x.1 ≤ y.1 then x :: y :: ys else y :: insertPair x ys

/-- The weighted sum of a token's expert outputs in ascending expert index (R21): each product rounded, the sum begun with the
first, the weight an FP32 value (log entry 67). -/
def moeSum (n : Nat) (fa epi : Nat) (ops : List (Nat × ExpertOps)) (x : List Num) (chosen : List (Nat × Nat)) : List Num :=
  let terms := (chosen.foldr insertPair []).filterMap fun (e, w) =>
    (ops.find? fun o => o.1 == e).map fun o => (expertRow fa epi o.2 x).map fun v => mul32 w (to32 v)
  match terms with
  | [] => List.replicate n (.zero false)
  | t :: ts => (ts.foldl (fun acc r => List.zipWith add32 acc r) t).map of32

/-! ### The packet -/

/-- The routing of every row: expert indices and weights. An index outside the table ends the packet (log entry 23). -/
def rdRouting (ac : Acc) (p : Pkt) (m : Nat) : A s0 (List (List (Nat × Nat))) := do
  let es ← rdRows ac (p.desc 30) m []
  let ws ← rdRows ac (p.desc 31) m []
  let idx (v : Num) : Int := match v with | .fin neg k e => numerAt neg k e 0 | _ => -1
  if es.any fun r => r.any fun v => idx v < 0 ∨ (p.f 9 8 0 : Int) ≤ idx v then throw (.fail stBadParam (wordDetail 3 0xFF))
  pure (List.zipWith (fun r w => List.zipWith (fun e v => ((idx e).toNat, to32 v)) r w) es ws)

/-- The rows routed to each expert that has any (R18). -/
def routed (p : Pkt) (rows : List (List (Nat × Nat))) : List (Nat × Nat) :=
  (p.experts.map fun e => (e, (rows.filter fun r => r.any fun x => x.1 == e).length)).filter fun c => c.2 != 0

/-- The operation of MOE_DISPATCH (R18, R21, R123). -/
def moeBody (p : Pkt) (ac : Acc) : A s0 Fin := do
  let x := p.desc 2
  let y := p.desc 5
  let m := x.size 1
  let routes ← rdRouting ac p m
  let counts := routed p routes
  let near ← placeExperts ac p counts
  let us := (near.flatMap Prod.snd).eraseDups
  needUnits ac 2 us
  (countFallback us : M s0 _)
  let ops ← mapA (fun c => do pure (c.1, ← rdExpert ac p near c.1)) counts
  let rows ← mapA (fun i => do
    let r ← rdRow ac x [i]
    let r := prologueRow p.prologue [] r
    let sum := moeSum (x.size 0) (p.aFmt 2) p.epi ops r (routes.getD i [])
    let old ← (if p.accumulate then do pure (some (← rdOldRow ac y [i])) else pure none)
    pure (outRow y [i] (finishRow {} 0 p.outFmt sum none old))) (List.range m)
  putRows ac p.dies rows
  (each near (countExpert p counts) : M s0 _)
  pure {}

/-- `MOE_DISPATCH` (R18). -/
def execMoeDispatch (c id : Nat) (s : State) : Outcome := M.go s (opOf c id [0x21] 0 moeBody)

end Sys2Proof.Machine
end

