-- ==== Sys2Proof/Machine/Sampling.lean ====
section
/-!
DEFINITION. REDUCE (R56) and SAMPLE (R294, R298 to R301).
-/
namespace Sys2Proof.Machine

variable {s0 : State}

/-! ### REDUCE -/

/-- An element is not zero: a floating-point zero of either sign is (R56). -/
def nonZero (fmt v : Nat) : Bool := if fmt = 0 then v % 2 ^ 31 != 0 else if fmt = 1 then v % 2 ^ 15 != 0 else v != 0

/-- The largest or smallest of a list, as REDUCE stores it (R56). -/
def foldExtreme (big : Bool) (fmt : Nat) (vs : List Nat) : Nat :=
  if wideFmt fmt then
    match vs.map (widen fmt) with
    | [] => 0
    | x :: xs => xs.foldl (fun a b => if big then max32 a b else min32 a b) x
  else
    match vs.map (idxValue fmt) with
    | [] => 0
    | x :: xs => wrap 64 (xs.foldl (fun a b => if big then max a b else min a b) x)

/-- REDUCE's result (R56). -/
def reduceValue (op fmt : Nat) (vs : List Nat) : Nat :=
  match op with
  | 0 => b2n (vs.all (nonZero fmt))
  | 1 => b2n (vs.any (nonZero fmt))
  | 2 => (vs.filter (nonZero fmt)).length
  | 3 => wrap 64 ((vs.map (idxValue fmt)).foldl (· + ·) 0)
  | 4 => foldExtreme true fmt vs
  | 5 => foldExtreme false fmt vs
  | _ => (vs.findIdx? (nonZero fmt)).getD (2 ^ 64 - 1)

/-- The class checks of REDUCE (R56, R496). -/
def reduceFlaw (p : Pkt) : Flaw :=
  firstFlaw [formFlaw p [3],
    fmtFlaw p 3 fun f => [0, 1, 8, 9, 12].contains f && !(p.f 2 11 8 == 3 && wideFmt f),
    (if 1048576 < (p.desc 3).count then flawAt stBadParam 3 0xFF 0 else none), boundsFlaw p [3]]

/-- What REDUCE does (its command below); DETAIL is the result (R72). -/
def reduceBody (c : Nat) (p : Pkt) (ac : Acc) : A s0 Fin := do
  let t := p.desc 3
  let vs ← rdTensor ac t
  let v := reduceValue (p.f 2 11 8) t.fmt (vs.map Prod.fst)
  (setScalar c (p.f 2 5 0) v : M s0 _)
  if p.b 2 19 then (setPred c (p.f 2 18 16) (v != 0) : M s0 _)
  pure { detail := v }

/-- `REDUCE` (R56). -/
def execReduce (c id : Nat) (s : State) : Outcome := M.go s (opOf c id [0x09] 1 (reduceBody c))

/-! ### SAMPLE -/

/-- A request's sampling parameters (R283), its draw index and its counts (R298, R299). -/
structure Draw where
  temp : Nat
  topP : Nat
  topK : Nat
  rep : Nat
  freq : Nat
  pres : Nat
  seed0 : Nat
  seed1 : Nat
  d : Nat
  /-- valid entries of the count table and the overflow list -/
  counts : List Nat
  deriving DecidableEq, Repr

/-- c(v) (R299). -/
def Draw.count (x : Draw) (v : Nat) : Nat :=
  ((x.counts.find? fun e => bits e 31 0 == v).map fun e => bits e 62 32).getD 0

/-- A logit after the penalties (step 1 of R300). -/
def Draw.penalise (x : Draw) (v l : Nat) : Nat :=
  let c := x.count v
  let l := if c = 0 then l
    else
      let a := if lt32 0 l then div32 l x.rep else mul32 l x.rep
      sub32 (sub32 a (mul32 x.freq (int32 c))) x.pres
  if isNan32 l then ninf32 else l

/-- Tokens ranked by descending logit, the lower token first on ties (R300). -/
def rankTokens (ls : List Nat) : List Nat :=
  sortBy (fun a b => lt32 (nth ls b) (nth ls a) || (!lt32 (nth ls a) (nth ls b) && decide (a < b))) (List.range ls.length)

/-- The first position of a list of weights whose running sum satisfies a test. -/
def firstReach (test : Nat → Bool) : List Nat → (a i : Nat) → Option Nat
  | [], _, _ => none
  | w :: ws, a, i =>
    let a' := add32 a w
    if test a' then some i else firstReach test ws a' (i + 1)

/-- a <= b for FP32 codes that are no NaN. -/
def le32 (a b : Nat) : Bool := !isNan32 a && !isNan32 b && !lt32 b a

/-- Steps 4 and 5 of R300 on the ranked tokens and their weights. -/
def Draw.pick (x : Draw) (rank ws : List Nat) : Nat :=
  let s := ws.foldl add32 0
  let keep := if lt32 x.topP one32 then
      match firstReach (fun a => le32 (mul32 x.topP s) a) ws 0 0 with
      | some i => i + 1
      | none => ws.length
    else ws.length
  let kept := ws.take keep
  let s' := if lt32 x.topP one32 then kept.foldl add32 0 else s
  let r := sipHash x.seed0 x.seed1 (toBytes 8 x.d)
  let u := to32 (.fin false (r / 2 ^ 40) (-24))
  let t := mul32 u s'
  match firstReach (fun a => lt32 t a) kept 0 0 with
  | some i => nth rank i
  | none => nth rank (keep - 1)

/-- A draw for a row of logits: the token, and whether the draw is degenerate (R300). -/
def Draw.draw (x : Draw) (row : List Nat) : Nat × Bool :=
  let ls := (List.range row.length).map fun v => x.penalise v (nth row v)
  if x.temp % 2 ^ 31 = 0 then
    let v := (rankTokens ls).headD 0
    (v, nth ls v == ninf32)
  else
    let ls := ls.map fun l => div32 l x.temp
    let rank := rankTokens ls
    let rank := if x.topK = 0 then rank else rank.take x.topK
    let m := nth ls (rank.headD 0)
    if m = inf32 ∨ m = ninf32 then (rank.headD 0, m == ninf32)
    else (x.pick rank (rank.map fun v => exp32 (sub32 (nth ls v) m)), false)

/-- The inputs of a slot's draw: its parameters, counts and DELIVERED (R298). -/
def rdDraw (ac : Acc) (n : Nat) : A s0 Draw := do
  let s ← (cur : M s0 _)
  let t ← rdWords ac (s.countBase n) 2048
  let o ← rdWords ac (s.ovfBase n) (s.ovfLen n)
  pure { temp := s.slotF n 5 31 0, topP := s.slotF n 5 63 32, topK := s.slotF n 6 10 0, rep := s.slotF n 7 31 0
         freq := s.slotF n 7 63 32, pres := s.slotF n 8 31 0, seed0 := s.slotW n 9, seed1 := s.slotW n 10
         d := s.slotDelivered n, counts := (t ++ o).filter fun e => bit e 63 }

/-- The entries of a step that draw a token: index and slot, in entry order. -/
def Step.drawn (st : Step) : List (Nat × Nat) :=
  (List.range st.rows.length).filterMap fun i =>
    if rowSample (nth st.rows i) then some (i, rowSlot (nth st.rows i)) else none

/-- The class checks of SAMPLE (R294, R496). -/
def sampleFlaw (p : Pkt) (s : State) (c : Nat) : Flaw :=
  let x := p.desc 2
  let n := (((s.ctxsAt c).step.map fun st => st.drawn.length).getD 0)
  firstFlaw [formFlaw p [2, 4],
    (if batchOk p.batchHdr p.batchRows.length && p.batchRows.all rowOk then none else some (stBadParam, detailOf 3 0xFF 0 false)),
    fmtFlaw p 2 wideFmt, fmtFlaw p 4 (· == 9),
    (match (s.ctxsAt c).step with
      | some st => if st.batch = p.w 3 then none else some (stBadParam, detailOf 3 0xFF 0 false)
      | none => some (stBadParam, detailOf 3 0xFF 0 false)),
    shapeFlaw p 2 [x.size 0, n], shapeFlaw p 4 [n],
    (if bits (s.fld F.featVocab_value) 31 0 < x.size 0 then flawAt stBadParam 2 40 2 else none), boundsFlaw p [2, 4]]

/-- One row drawn: the token and whether the draw was degenerate; an empty row gives a token the spec does not state. -/
def sampleRow (ac : Acc) (x : Desc) (j n : Nat) : A s0 (Nat × Bool) := do
  let row ← rdRow ac x [j]
  let dr ← rdDraw ac n
  if row.isEmpty then
    let f ← (takeFresh : M s0 _)
    pure ((Config.free f).toNat % 2 ^ 32, false)
  else pure (dr.draw (row.map to32))

/-- What SAMPLE does (its command below). -/
def sampleBody (c : Nat) (p : Pkt) (ac : Acc) : A s0 Fin := do
  match ((← (cur : M s0 _)).ctxsAt c).step with
  | none => throw (.fail stBadParam (wordDetail 3 0xFF))
  | some st =>
    let es := st.drawn
    let toks ← mapA (fun j => sampleRow ac (p.desc 2) j (es.getD j (0, 0)).2) (List.range es.length)
    let t := p.desc 4
    wrAll ac (t.storeAll (toks.map Prod.fst) [])
    (openDest ac t [p.desc 2] : M s0 _)
    (each (es.zip toks) fun (e, k) => do
      if k.2 then
        if !st.gone.contains e.1 then asOneChange e.2 (setSlotFlag e.2 3)
        bump F.srvDegenerate_count 1 : M s0 _)
    (modCtxs c fun y => { y with step := y.step.map fun z => { z with
      pend := (es.zip toks).map fun (e, k) => (e.1, k.1) } } : M s0 _)
    pure {}

/-- `SAMPLE` (R294): a token per drawn row, written to W4 and held as the entries' pending tokens. -/
def execSample (c id : Nat) (s : State) : Outcome := M.go s (opOf c id [0x65] 2 (sampleBody c))

end Sys2Proof.Machine
end

