-- ==== Sys2Proof/Machine/Abandon.lean ====
section
/-!
DEFINITION. What a packet leaves that stops at its next access (R146, R284, R317): the operation of each opcode whose
destinations then hold old or new content.
-/
namespace Sys2Proof.Machine

variable {s0 : State}

/-- The operation of a packet that writes operands of its own, by opcode. -/
def operationOf (c : Nat) (p : Pkt) : Option (Acc → A s0 Fin) :=
  match p.op with
  | 0x10 | 0x11 => some (matmulBody p)
  | 0x12 => some (adapterBody p)
  | 0x13 => some (mlpBody p)
  | 0x18 => some (eltwiseBody p)
  | 0x19 => some (normBody p)
  | 0x1A => some (softmaxBody p)
  | 0x1B => some (quantiseBody p)
  | 0x1C => some (rotaryBody p)
  | 0x20 => some (moeRouteBody p)
  | 0x21 => some (moeBody p)
  | 0x30 | 0x35 => some (copyBody p)
  | 0x31 => some (copyTBody p)
  | 0x32 => some (gatherBody p)
  | 0x33 => some (scatterBody p)
  | 0x34 => some (fillBody p)
  | 0x40 => some (nearMatvecBody p)
  | 0x41 => some (nearExpertBody p)
  | 0x42 => some (nearEltBody p)
  | 0x43 => some (nearCopyBody p)
  | 0x50 => some (kvAppendBody p)
  | 0x51 => some (attendBody p)
  | 0x65 => some (sampleBody c p)
  | _ => none

/-- The places that a NEAR_RAW's commands write at virtual addresses, by granule (R229). -/
def rawPlaces (p : Pkt) : List Place :=
  [9, 17].flatMap fun w => (rawExtents (rawCommand p w)).flatMap fun (i, len, wr) =>
    let v := nth (rawCommand p w) i
    if wr && !bit v 63 then (gransOf (bits v 51 0) len).map fun g => { va := 64 * g, n := 64 } else []

/-- What a packet that is abandoned leaves: a REQ_OPEN its slot FREE (R284), a collective its receive operand, which the spec
does not describe (log entry 8), another its destinations as ABORT leaves them (R146). -/
def abandon (c : Nat) (p : Pkt) : M s0 Unit := do
  if p.op = 0x62 then
    let n := p.f 2 12 0
    if ((← cur).slotsAt n).opener = some (c, p.id) then
      modSlots n fun x => { x with opener := none }
      freeSlot n
  else if p.op / 16 = 7 then freeDests c p
  else if p.op = 0x4F then
    let ac := (← cur).acc c
    leavePlaces ac (fun x => do let _ ← nearRawBody p x; pure ()) (rawPlaces p)
  else
    match operationOf c p with
    | some body => if p.op / 16 = 5 then kvAbort c p body else leaveDests c p body
    | none => pure ()

end Sys2Proof.Machine
end

