-- ==== Sys2Proof/Machine/Groups.lean ====
section
/-!
DEFINITION. Commit groups (R9 to R12): their registers, their consistency rules (R179, R200, R280, R308, R315, R319, R346),
GO, LOCK and the safe point.
-/
namespace Sys2Proof.Machine

variable {s0 : State}

/-- The status fields of a group and its index. -/
structure GroupRegs where
  bad : Fld
  lockIgnored : Fld
  locked : Fld
  late : Fld
  refused : Fld
  applied : Fld
  pending : Fld
  commit : RegName
  i : Nat := 0
  deriving DecidableEq, Repr

/-- A group's COMMIT and STATUS registers (R12). -/
def groupRegs : Group → GroupRegs
  | .stkMap n => ⟨F.stkMapStatus_badField, F.stkMapStatus_lockIgnored, F.stkMapStatus_locked, F.stkMapStatus_late,
      F.stkMapStatus_refused, F.stkMapStatus_applied, F.stkMapStatus_pending, .stkMapCommit, n⟩
  | .dtMap => ⟨F.dtMapStatus_badField, F.dtMapStatus_lockIgnored, F.dtMapStatus_locked, F.dtMapStatus_late,
      F.dtMapStatus_refused, F.dtMapStatus_applied, F.dtMapStatus_pending, .dtMapCommit, 0⟩
  | .stkReg n => ⟨F.stkRegStatus_badField, F.stkRegStatus_lockIgnored, F.stkRegStatus_locked, F.stkRegStatus_late,
      F.stkRegStatus_refused, F.stkRegStatus_applied, F.stkRegStatus_pending, .stkRegCommit, n⟩
  | .dtReg => ⟨F.dtRegStatus_badField, F.dtRegStatus_lockIgnored, F.dtRegStatus_locked, F.dtRegStatus_late,
      F.dtRegStatus_refused, F.dtRegStatus_applied, F.dtRegStatus_pending, .dtRegCommit, 0⟩
  | .fabReg => ⟨F.fabRegStatus_badField, F.fabRegStatus_lockIgnored, F.fabRegStatus_locked, F.fabRegStatus_late,
      F.fabRegStatus_refused, F.fabRegStatus_applied, F.fabRegStatus_pending, .fabRegCommit, 0⟩
  | .srvPfx => ⟨F.srvPfxStatus_badField, F.srvPfxStatus_lockIgnored, F.srvPfxStatus_locked, F.srvPfxStatus_late,
      F.srvPfxStatus_refused, F.srvPfxStatus_applied, F.srvPfxStatus_pending, .srvPfxCommit, 0⟩
  | .schPart p => ⟨F.schPartStatus_badField, F.schPartStatus_lockIgnored, F.schPartStatus_locked, F.schPartStatus_late,
      F.schPartStatus_refused, F.schPartStatus_applied, F.schPartStatus_pending, .schPartCommit, p⟩
  | .schCard => ⟨F.schCardStatus_badField, F.schCardStatus_lockIgnored, F.schCardStatus_locked, F.schCardStatus_late,
      F.schCardStatus_refused, F.schCardStatus_applied, F.schCardStatus_pending, .schCardCommit, 0⟩

/-- The registers that are a group's fields (R179, R200, R280, R308, R319, R346). -/
def groupFields : Group → List Reg
  | .stkMap n => [⟨.stkMapDead, n, 0, 0⟩, ⟨.stkMapCapacity, n, 0, 0⟩]
  | .dtMap => [⟨.dtMapDead, 0, 0, 0⟩, ⟨.dtMapCapacity, 0, 0, 0⟩]
  | .stkReg n => (List.range 16).map fun p => ⟨.stkReg, n, p, 0⟩
  | .dtReg => (List.range 16).map fun p => ⟨.dtReg, p, 0, 0⟩
  | .fabReg => (List.range 16).map fun p => ⟨.fabReg, p, 0, 0⟩
  | .srvPfx => (List.range 16).map fun p => ⟨.srvPfxBase, p, 0, 0⟩
  | .schPart p => [⟨.schPartCfg, p, 0, 0⟩, ⟨.schPartAlloc0, p, 0, 0⟩, ⟨.schPartAlloc1, p, 0, 0⟩, ⟨.schPartQuota, p, 0, 0⟩,
      ⟨.schPartShare, p, 0, 0⟩, ⟨.schPartRoot, p, 0, 0⟩] ++ (List.range 8).map fun w => ⟨.schPartWin, p, w, 0⟩
  | .schCard => ⟨.schCardFrame, 0, 0, 0⟩ :: (List.range 64).map fun i => ⟨.schSlot, i, 0, 0⟩

/-- The group a register is a field of. -/
def groupOf (r : Reg) : Option Group :=
  match r.name with
  | .stkMapDead | .stkMapCapacity => some (.stkMap r.i)
  | .dtMapDead | .dtMapCapacity => some .dtMap
  | .stkReg => some (.stkReg r.i)
  | .dtReg => some .dtReg
  | .fabReg => some .fabReg
  | .srvPfxBase => some .srvPfx
  | .schPartCfg | .schPartAlloc0 | .schPartAlloc1 | .schPartQuota | .schPartShare | .schPartRoot | .schPartWin =>
    some (.schPart r.i)
  | .schCardFrame | .schSlot => some .schCard
  | _ => none

/-- The group exists. -/
def groupExists : Group → Bool
  | .stkMap n | .stkReg n => decide (n < 12)
  | .schPart p => decide (p < 16)
  | _ => true

/-! ### Consistency rules -/

/-- The first index of a list that fails. -/
def firstBad (n : Nat) (bad : Nat → Bool) : Option Nat := (List.range n).find? bad

/-- A regulator's rules: BURST at least RATE, at most 16 * RATE where RATE is not 0; ΣRATE within the limit (R179). -/
def regFlaw (rate burst : Nat → Nat) (limit : Nat) : Option Nat :=
  match firstBad 16 (fun p => burst p < rate p || (rate p != 0 && decide (16 * rate p < burst p))) with
  | some p => some p
  | none => if limit < ((List.range 16).map rate).foldl (· + ·) 0 then some 0 else none

/-- A recorded save or spill page of an enabled context lies at or above a stack's new capacity (R315). -/
def State.dropsPages (s : State) (n gib : Nat) : Bool :=
  s.ctxs.any fun e => s.flag F.schCtxCfg_en e.1 && e.2.savePages.any fun a =>
    targetOf a == n && decide (gib * 2 ^ 30 ≤ a - targetBase n)

/-- A map-out's rules (R200, R315): field 0 DEAD, field 1 CAPACITY. -/
def mapFlaw (s : State) (t : Nat) : Option Nat :=
  let new := if t < 12 then s.fld F.stkMapDead_dead t else s.fld F.dtMapDead_dead
  let cap := if t < 12 then s.fld F.stkMapCapacity_gib t else s.fld F.dtMapCapacity_gib
  let old := s.dead t
  let added := bitList 16 (new ^^^ old)
  let most := if t < 12 then 4 else 2
  let full := if t < 12 then 64 - 4 * popcount 16 new else 1024 - 64 * popcount 16 new
  if old &&& new ≠ old ∨ most < popcount 16 new ∨ added.any (fun c => s.ch F.stkChState_state F.dtChState_state t c != 1) ∨
      (t < 12 ∧ s.dropsPages t cap) then some 0
  else if cap ≠ full then some 1 else none

/-- The prefix index's rules (R280). -/
def pfxFlaw (s : State) : Option Nat :=
  let z (p : Nat) : Nat := s.fld F.srvPfxBase_sizeLog2 p
  match firstBad 16 (fun p => (1 ≤ z p && z p ≤ 12) || decide (20 < z p)) with
  | some p => some p
  | none => if 1048576 < ((List.range 16).map fun p => if z p = 0 then 0 else 2 ^ z p).foldl (· + ·) 0 then some 0 else none

/-- The value of a partition field: of p itself the shadow copy, of another partition the value in force. -/
def State.partF (s : State) (p : Nat) (f : Fld) (x : Nat) (w : Nat := 0) : Nat :=
  if x = p then s.fld f x w else s.inForce f x w

/-- Sum over the partitions. -/
def overParts (f : Nat → Nat) : Nat := ((List.range 16).map f).foldl (· + ·) 0

/-- Sets not in service on a die, as a mask. -/
def State.outSets (s : State) (d : Nat) : Nat :=
  ((List.range 40).filter fun x => !bit (s.fld F.cdSetsInService_mask d) x).foldl (fun m x => m + 2 ^ x) 0

/-- Sets that enabled contexts of a partition bind on a die. -/
def State.boundSets (s : State) (p d : Nat) : Nat :=
  (List.range 256).foldl (fun m c =>
    if s.flag F.schCtxCfg_en c && s.partOf c == p then
      m ||| (if d = 0 then s.fld F.schCtxSets0_mask c else s.fld F.schCtxSets1_mask c)
    else m) 0

/-- A window of a partition: enabled, shared, first byte, size. -/
def State.winOf (s : State) (p x w : Nat) : Bool × Bool × Nat × Nat :=
  (s.partF p F.schPartWin_en x w != 0, s.partF p F.schPartWin_shared x w != 0, s.partF p F.schPartWin_base x w * 2 ^ 21,
   s.partF p F.schPartWin_size x w * 2 ^ 21)

/-- Window w of p breaks a rule: size 0, outside the ranges, or overlapping another partition's window unless both are
SHARED (R308). -/
def State.winBad (s : State) (p w : Nat) : Bool :=
  let (en, sh, b, n) := s.winOf p p w
  en && (n == 0 || !((inTiers b || decide (2 ^ 47 ≤ b)) && decide (b + n ≤ rangeEnd b)) ||
    (List.range 16).any fun x => x != p && (List.range 8).any fun v =>
      let (en', sh', b', n') := s.winOf p x v
      en' && decide (b < b' + n') && decide (b' < b + n) && !(sh && sh'))

/-- A partition's rules, with the index of the first field that fails (R308). -/
def partFlaw (s : State) (p : Nat) : Option Nat :=
  let alloc (d : Nat) : Nat := if d = 0 then s.fld F.schPartAlloc0_mask p else s.fld F.schPartAlloc1_mask p
  let badAlloc (d : Nat) : Bool := (alloc d &&& s.outSets d) != 0 || (s.boundSets p d &&& alloc d) != s.boundSets p d
  let enabled := (List.range 256).any fun c => s.flag F.schCtxCfg_en c && s.partOf c == p
  let share (f : Fld) : Bool :=
    decide (256 < overParts fun x => if s.partF p F.schPartCfg_en x != 0 then s.partF p f x else 0)
  let root := s.fld F.schPartRoot_addr p * 2 ^ 16
  let cardBad (d : Nat) : Bool := (List.range 64).any fun i =>
    s.inForce F.schSlot_valid i != 0 && s.inForce F.schSlot_partition i == p &&
      decide (popcount 40 (alloc d) < (if d = 0 then s.inForce F.schSlot_minCd0 i else s.inForce F.schSlot_minCd1 i))
  if s.fld F.schPartCfg_en p = 0 ∧ enabled then some 0
  else if badAlloc 0 || cardBad 0 then some 1
  else if badAlloc 1 || cardBad 1 then some 2
  else if bits (s.fld F.featServing_value) 15 0 < overParts (fun x => s.partF p F.schPartQuota_reqSlots x) ∨
      bits (s.fld F.featAdapters_value) 15 0 < overParts (fun x => s.partF p F.schPartQuota_adapters x) then some 3
  else if share F.schPartShare_stk || share F.schPartShare_dt || share F.schPartShare_fab then some 4
  else if s.fld F.schPartRoot_v p = 1 ∧ inTiers root = false then some 5
  else (firstBad 8 (s.winBad p)).map (6 + ·)

/-- The base share of the enabled partitions but one (R319). -/
def State.otherShares (s : State) (f : Fld) (p : Nat) : Nat :=
  overParts fun x => if x ≠ p ∧ s.inForce F.schPartCfg_en x ≠ 0 then s.inForce f x else 0

/-- Sets in service of a partition's allocation on a die. -/
def State.usableSets (s : State) (p d : Nat) : Nat :=
  popcount 40 ((if d = 0 then s.inForce F.schPartAlloc0_mask p else s.inForce F.schPartAlloc1_mask p) &&&
    s.fld F.cdSetsInService_mask d)

/-- Slot i of the card breaks a rule (R319). -/
def State.slotBad (s : State) (i : Nat) : Bool :=
  let p := s.fld F.schSlot_partition i
  s.flag F.schSlot_valid i &&
    (s.fld F.schSlot_lengthUs i == 0 || s.inForce F.schPartCfg_en p == 0 ||
     decide (s.usableSets p 0 < s.fld F.schSlot_minCd0 i) || decide (s.usableSets p 1 < s.fld F.schSlot_minCd1 i) ||
     decide (256 < s.fld F.schSlot_stk i + s.otherShares F.schPartShare_stk p) ||
     decide (256 < s.fld F.schSlot_dt i + s.otherShares F.schPartShare_dt p) ||
     decide (256 < s.fld F.schSlot_fab i + s.otherShares F.schPartShare_fab p))

/-- The card's rules: field 0 the frame, 1 + i slot i (R319). -/
def cardFlaw (s : State) : Option Nat :=
  let f := s.fld F.schCardFrame_frameUs
  let sum := ((List.range 64).map fun i => if s.flag F.schSlot_valid i then s.fld F.schSlot_lengthUs i else 0).foldl (· + ·) 0
  if f < 1000 ∨ 1000000 < f ∨ f < sum then some 0 else (firstBad 64 s.slotBad).map (1 + ·)

/-- The fabric's limit per port in granules per microsecond: 1,875 for an eight-lane port (R345, R346). -/
def fabLimit : Nat := 1875

/-- The consistency rules of a group: the index of the first field that fails (R10). -/
def groupFlaw (s : State) : Group → Option Nat
  | .stkMap n => mapFlaw s n
  | .dtMap => mapFlaw s 12
  | .stkReg n => regFlaw (fun p => s.fld F.stkReg_rate n p) (fun p => s.fld F.stkReg_burst n p) 18750
  | .dtReg => regFlaw (fun p => s.fld F.dtReg_rate p) (fun p => s.fld F.dtReg_burst p) 19200
  | .fabReg => regFlaw (fun p => s.fld F.fabReg_rate p) (fun p => s.fld F.fabReg_burst p) fabLimit
  | .srvPfx => pfxFlaw s
  | .schPart p => partFlaw s p
  | .schCard => cardFlaw s

/-! ### GO, LOCK, apply -/

/-- Shadow copies take the values in force (R10). -/
def reloadShadows : List Reg → M s0 Unit
  | [] => pure ()
  | r :: rs => do
    setReg r (Bank.get (← cur).force r).toNat
    reloadShadows rs

/-- The values in force take the shadow copies (R10). -/
def applyShadows : List Reg → M s0 Unit
  | [] => pure ()
  | r :: rs => do
    eff (.force r (BitVec.ofNat 64 ((← cur).reg r)))
    applyShadows rs

/-- What a group's application changes beside its fields: a partition's state follows EN (R335); disabling the card clears
every debt and returns the regulators (R325). -/
def afterApply (g : Group) : M s0 Unit := do
  let s ← cur
  match g with
  | .schPart p =>
    if s.fld F.schPartState_state p ≠ 2 then setF F.schPartState_state (s.inForce F.schPartCfg_en p) p
  | .schCard =>
    if s.inForce F.schCardFrame_en = 0 then
      each (List.range 16) fun p => setF F.schPartDebtUs_count 0 p
      setReg ⟨.schCardPos, 0, 0, 0⟩ 0
      modSched fun x => { x with reserved := [], owner := none }
  | _ => pure ()

/-- A pending commit is applied: all fields together; a waiting lock takes hold (R10, R11, R12). -/
def applyGroup (g : Group) : M s0 Unit := do
  let s ← cur
  let r := groupRegs g
  if s.flag r.pending r.i then
    applyShadows (groupFields g)
    setFlag r.pending false r.i
    setFlag r.applied true r.i
    setFlag r.refused false r.i
    afterApply g
    if s.sched.lockWait.contains g then
      modSched fun x => { x with lockWait := x.lockWait.filter (· != g) }
      setFlag r.locked true r.i

/-- The group's safe point is now, from GO on: the card while it does not run (R319). -/
def State.safeAtGo (s : State) : Group → Bool
  | .schCard => s.inForce F.schCardFrame_en == 0
  | _ => false

/-- A regulator group's commit waits for the next 1 µs boundary (R179, R346). -/
def awaitMicro (g : Group) : M s0 Unit :=
  match g with
  | .stkReg _ | .dtReg | .fabReg => modSched fun x => { x with justGo := x.justGo ++ [g] }
  | _ => pure ()

/-- GO (R10, R11): ignored on a locked group, LATE on a pending one; otherwise refused with the shadows reloaded, or
pending. A map-out's engine takes the commit up (R201). -/
def groupGo (g : Group) : M s0 Unit := do
  let s ← cur
  let r := groupRegs g
  if s.flag r.locked r.i then setFlag r.lockIgnored true r.i
  else if s.flag r.pending r.i then setFlag r.late true r.i
  else match groupFlaw s g with
    | some i =>
      reloadShadows (groupFields g)
      setFlag r.refused true r.i
      setFlag r.applied false r.i
      setF r.bad i r.i
    | none =>
      setFlag r.pending true r.i
      awaitMicro g
      match g with
      | .stkMap n => modTier fun x => { x with mapWait := x.mapWait ++ [n] }
      | .dtMap => modTier fun x => { x with mapWait := x.mapWait ++ [12] }
      | _ => pure ()
      if s.safeAtGo g then applyGroup g

/-- LOCK (R11): at once, or after a pending commit. -/
def groupLock (g : Group) : M s0 Unit := do
  let s ← cur
  let r := groupRegs g
  if s.flag r.pending r.i then modSched fun x => { x with lockWait := if x.lockWait.contains g then x.lockWait else x.lockWait ++ [g] }
  else setFlag r.locked true r.i

/-- No packet of a context of p is in flight and no switch involves p: SCH_PART_p's safe point (R308). -/
def State.partQuiet (s : State) (p : Nat) : Bool :=
  s.ctxs.all fun e => s.partOf e.1 != p ||
    (e.2.pkts.isEmpty && !(let st := s.fld F.schCtxState_state e.1; st == 2 || st == 7))

/-- No prefix packet runs: SRV_PFX's safe point (R280). -/
def State.pfxQuiet (s : State) : Bool := s.ctxs.all fun e => e.2.pkts.all fun p => p.op != 0x53 && p.op != 0x54

/-- The group is at its safe point. A regulator's is a 1 µs boundary after GO (R179, R346); a map's is its switch (R201), the card's the start of a frame (R319): those have
commands of their own. -/
def State.safePoint (s : State) : Group → Bool
  | .stkMap _ | .dtMap => false
  | .stkReg n => !s.sched.justGo.contains (.stkReg n)
  | .dtReg => !s.sched.justGo.contains .dtReg
  | .fabReg => !s.sched.justGo.contains .fabReg
  | .srvPfx => s.pfxQuiet
  | .schPart p => s.partQuiet p
  | .schCard => s.inForce F.schCardFrame_en == 0

/-- `COMMIT_GO` (R10). -/
def execCommitGo (g : Group) (s : State) : Outcome :=
  M.go s (if groupExists g then atReg ⟨(groupRegs g).commit, (groupRegs g).i, 0, 0⟩ (groupGo g) else pure ())

/-- `COMMIT_LOCK` (R11). -/
def execCommitLock (g : Group) (s : State) : Outcome :=
  M.go s (if groupExists g then atReg ⟨(groupRegs g).commit, (groupRegs g).i, 0, 0⟩ (groupLock g) else pure ())

/-- `COMMIT_APPLY` (R10): at the group's safe point. -/
def execCommitApply (g : Group) (s : State) : Outcome :=
  M.go s (if groupExists g && s.safePoint g then applyGroup g else pure ())

end Sys2Proof.Machine
end

