-- ==== Sys2Proof/Machine/Sched.lean ====
section
/-!
DEFINITION. Contexts, the dance card and teardown (chapter 10): enabling and disabling a context, what the scheduler lets
load, preemption, saving and restoring, slots and open time, invalidation, tearing a partition down. Faults have their own
file.
-/
namespace Sys2Proof.Machine

variable {s0 : State}

/-! ### Sets and contexts -/

/-- The sets that a context binds, in ascending order of 40 * die + set (R314). -/
def State.binds (s : State) (c : Nat) : List Nat := (List.range 80).filter (s.bindsSet c)

/-- A context's state (R318). -/
def State.ctxState (s : State) (c : Nat) : Nat := s.fld F.schCtxState_state c

/-- A context changes state; SINCE follows (R318). -/
def setCtxState (c v : Nat) : M s0 Unit := do
  if (← cur).ctxState c ≠ v then
    setF F.schCtxState_state v c
    setF F.schCtxSince_time (← cur).now c

/-- LOADED_SETS of a partition: the sets held by its loaded contexts (R335). -/
def refreshLoaded (p : Nat) : M s0 Unit := do
  let s ← cur
  let n := (s.sched.holder.filter fun e => match e.2 with
    | some c => s.partOf c == p && s.loaded c
    | none => false).length
  if s.fld F.schPartState_loadedSets p ≠ n then setF F.schPartState_loadedSets n p

/-- A set passes to a context, or to none. -/
def setHolder (x : Nat) (h : Option Nat) : M s0 Unit := do
  modSched fun y => { y with holder := Tab.put none y.holder x h }
  refreshSet x

/-- Bytes of a range return to what unwritten memory reads as, with its code right, no merge entry and no note. -/
def clearRange (a n : Nat) : M s0 Unit := do
  let inside (b : Nat) : Bool := decide (a ≤ b) && decide (b < a + n)
  eff (.dropMem inside)
  each (((← cur).chk.map Prod.fst).filter fun g => inside (64 * g)) fun g => eff (.chk g 0)
  modMerges fun ms => ms.filter fun m => !inside (64 * m.gran)
  modInjected fun l => l.filter fun g => !inside (64 * g)

/-- The granules of a range that hold anything but zeros with right code. -/
def State.usedGrans (s : State) (a n : Nat) : List Nat :=
  let inside (b : Nat) : Bool := decide (a ≤ b) && decide (b < a + n)
  (((s.mem.map Prod.fst).filter inside).map (· / 64) ++
    (s.chk.map Prod.fst).filter fun g => inside (64 * g)).eraseDups

/-! ### Images of sets (R89, R314, R326, R333) -/

/-- First byte of a set's buffer; the part that software can name is 3 MiB (R87). -/
def bufAt (x : Nat) : Nat := 0x30000000000 + x * 0x400000

/-- The DPA of an offset in a context's save area, through its recorded pages of 64 KiB (R315). -/
def State.saveAt (s : State) (c off : Nat) : Nat := nth (s.ctxsAt c).savePages (off / 65536) + off % 65536

/-- The offset of the image of the i-th bound set (R314): SRAM of 16 MiB, then the set buffer of 4 MiB (log entry 34). -/
def imageOff (i : Nat) : Nat := 2 ^ 21 + 20 * 2 ^ 20 * i

/-- A set's core SRAM and buffer set to zeros: a first load, a set that a disabled context leaves (R314, R317). -/
def zeroSet (x : Nat) : M s0 Unit := do
  clearRange (bufAt x) 0x300000
  modSets x fun y => { y with inner := [] }

/-- A granule of an image is stored, poisoned where it has no content; a granule that refuses writes keeps what it holds
(R194, log entry 64). -/
def saveGran (g : Nat) (bs : Option (List Byte)) : M s0 Unit := do
  if (← cur).refusesWrite (64 * g) = false then
    match bs with
    | some bs => storeGran g bs
    | none => poisonGran g

/-- A page of an image is emptied, where it takes writes. -/
def clearPage (dst : Nat) : M s0 Unit := do
  if (← cur).refusesWrite dst = false then clearRange dst 65536

/-- One page of a set buffer copied into the image. -/
def savePage (src dst : Nat) : M s0 Unit := do
  writeOutAll ((← cur).merges.filter fun m => m.gran / 1024 == src / 65536)
  clearPage dst
  each ((← cur).usedGrans src 65536) fun g => do
    let s ← cur
    saveGran (dst / 64 + g % 1024) (if s.devAt g = 0 then some (s.granAt g) else none)

/-- The word at a place among a set's words that software cannot name: 2^21 of core SRAM, then 2^17 of the set controller's
part of the buffer. -/
def SetSt.word (y : SetSt) (w : Nat) : W64 := ((y.inner.find? fun e => e.1 == w).map Prod.snd).getD 0

/-- A granule of those words. -/
def SetSt.innerGran (y : SetSt) (k : Nat) : List Byte := (List.range 8).flatMap fun i => toBytes 8 (y.word (8 * k + i)).toNat

/-- The offset, in the image of a set, of granule k of the words that software cannot name: 16 MiB of core SRAM first, and
above the lower 3 MiB of the buffer the set controller's part (R87, R89). -/
def innerOff (k : Nat) : Nat := if k < 2 ^ 18 then 64 * k else 64 * k + 0x300000

/-- The words that software cannot name are written to the image. -/
def saveInner (c x i : Nat) : M s0 Unit := do
  each ((List.range 256).map (65536 * ·) ++ (List.range 16).map (2 ^ 24 + 0x300000 + 65536 * ·)) fun o => do
    clearPage ((← cur).saveAt c (imageOff i + o))
  let y := (← cur).setsAt x
  each ((y.inner.filter fun e => decide (e.1 < 2 ^ 21 + 2 ^ 17)).map (·.1 / 8)).eraseDups fun k => do
    saveGran ((← cur).saveAt c (imageOff i + innerOff k) / 64) (some (y.innerGran k))

/-- A set's image is saved: the SRAM of L0 to L127 and the whole set buffer (R89, R326 beat 3). -/
def saveImage (c x : Nat) : M s0 Unit := do
  match ((← cur).ctxsAt c).layout.idxOf? x with
  | some i =>
    saveInner c x i
    each (List.range 48) fun j => do
      savePage (bufAt x + 65536 * j) ((← cur).saveAt c (imageOff i + 2 ^ 24 + 65536 * j))
    bump F.cdSetSaves_count 1 (x / 40) (x % 40)
  | none => pure ()

/-- One page of an image restored: an uncorrectable granule leaves its set-buffer granule poisoned (R333). -/
def restorePage (who : Who) (src dst : Nat) : M s0 Unit :=
  do each ((← cur).usedGrans src 65536) fun g => do
      let (r, _) ← readGran who g
      match r with
      | some bs => storeGran (dst / 64 + g % 1024) bs
      | none => poisonGran (dst / 64 + g % 1024)

/-- One page of the words that software cannot name restored: the words of an uncorrectable granule become 0 (R333). -/
def restoreInner (who : Who) (x src k : Nat) : M s0 Unit :=
  do each ((← cur).usedGrans src 65536) fun g => do
      let (r, _) ← readGran who g
      let at_ := 8 * (k + g % 1024)
      match r with
      | some bs => modSets x fun y => { y with
          inner := y.inner ++ ((List.range 8).map fun i => (at_ + i, BitVec.ofNat 64 (wordAt bs i))).filter fun e => e.2 != 0 }
      | none => pure ()

/-- A set's image is restored, or zeros in its place on a first load (R314, R326 beat 4). -/
def restoreImage (c x : Nat) : M s0 Unit := do
  let s ← cur
  zeroSet x
  if !(s.ctxsAt c).fresh.contains x then
    match (s.ctxsAt c).layout.idxOf? x with
    | some i =>
      each (List.range 256) fun j => do
        restoreInner (s.acc c).who x ((← cur).saveAt c (imageOff i + 65536 * j)) (1024 * j)
      each (List.range 16) fun j => do
        restoreInner (s.acc c).who x ((← cur).saveAt c (imageOff i + 2 ^ 24 + 0x300000 + 65536 * j)) (2 ^ 18 + 1024 * j)
      each (List.range 48) fun j => do
        restorePage (s.acc c).who ((← cur).saveAt c (imageOff i + 2 ^ 24 + 65536 * j)) (bufAt x + 65536 * j)
    | none => pure ()
  bump F.cdSetSaves_count 1 (x / 40) (x % 40)

/-! ### What may load (R320, R327) -/

/-- The runnable swapped-out contexts, longest wait first, then the lowest slot (R320). -/
def State.waiters (s : State) : List Nat :=
  let cs := (List.range 256).filter fun c => s.ctxState c == 1 && s.flag F.schCtxState_runnable c
  sortBy (fun a b => decide ((s.ctxsAt a).since < (s.ctxsAt b).since) ||
    ((s.ctxsAt a).since == (s.ctxsAt b).since && decide (a < b))) cs

/-- A slot's set is held for its partition now: FIXED, or a loaded or runnable context of the partition needs it (R320). -/
def State.heldBack (s : State) (x : Nat) : Bool :=
  match s.sched.owner with
  | none => false
  | some p => s.sched.reserved.contains x &&
      (s.inForce F.schSlot_fixed (s.fld F.schCardPos_slot) != 0 ||
       (List.range 256).any fun c => s.partOf c == p && s.bindsSet c x &&
         (s.loaded c || (s.ctxState c == 1 && s.flag F.schCtxState_runnable c)))

/-- A context may take a set that is free: the slot's partition has its reserved sets, and among those allowed the one that
has waited longest goes first (R320). -/
def State.mayTake (s : State) (c x : Nat) : Bool :=
  let mine (k : Nat) : Bool := s.sched.owner == some (s.partOf k)
  let allowed (k : Nat) : Bool := !s.heldBack x || mine k
  allowed c && ((s.waiters.filter fun k => s.bindsSet k x && allowed k).head? == some c)

/-- A swapped-out context can be loaded: every set it binds is free of other contexts, and it may take each (R320), or it is
the one that a hard swap brings in (R327). -/
def State.canLoad (s : State) (c : Nat) : Bool :=
  s.ctxState c == 1 && s.flag F.schCtxState_runnable c &&
    (s.binds c).all fun x => s.holderOf x == none && s.fld F.cdSetStatus_state (x / 40) (x % 40) == 0 && (s.sched.hard == some c || s.mayTake c x)

/-- A context begins to load: it takes its sets (R326). -/
def beginLoad (c : Nat) : M s0 Unit := do
  let s ← cur
  setCtxState c 2
  modCtxs c fun x => { x with restoring := s.binds c }
  each (s.binds c) fun x => setHolder x (some c)
  if s.sched.hard = some c then modSched fun y => { y with hard := none }

/-- The scheduler lets load what can load. -/
def schedule : M s0 Unit := do
  let s ← cur
  match s.waiters.find? s.canLoad with
  | some c => beginLoad c
  | none => pure ()

/-! ### Preemption (R322 to R325) -/

/-- A preemption of a loaded context is requested: it must yield from now on, to partition p (16: no overrun is charged). A
context that loads yields once it is loaded; one that already must yield, to no partition, owes from now on what runs over
(R325). -/
def requestPreempt (c p : Nat) : M s0 Unit := do
  let s ← cur
  if s.binds c ≠ [] then
    if s.ctxState c = 3 ∨ s.ctxState c = 4 ∨ s.ctxState c = 5 then
      setCtxState c 6
      modCtxs c fun x => { x with yieldTo := some (s.now, p), holdOver := false, asked := s.now }
    else if s.ctxState c = 2 ∨ s.ctxState c = 6 then
      match (s.ctxsAt c).yieldTo with
      | some (t, q) => modCtxs c fun x => { x with yieldTo := if q < 16 then some (t, q) else some (s.now, p) }
      | none => modCtxs c fun x => { x with yieldTo := some (s.now, p), asked := s.now }

/-- The longest step hold in microseconds (R324). -/
def State.holdMax (s : State) : Nat := s.fld F.schCfg_stepHoldMaxMs * 1000

/-- Nothing of the context is in flight but waits, chains whose packets have all completed, and split packets whose next part
is not issued (R163, R322, log entries 6 and 35). -/
def State.atPoint (s : State) (c : Nat) : Bool :=
  (s.ctxsAt c).pkts.all fun p => s.partsStop c p ||
    (p.st == .waiting && (p.op == 0x0A || p.op == 0x83 || p.op == 0x05 || p.op == 0x04))

/-- An overrun of partition q's context against partition p (R325). -/
def chargeOverrun (c q p us : Nat) : M s0 Unit := do
  if us ≠ 0 ∧ p < 16 then
    let s ← cur
    bump F.schPartDebtUs_count us q
    bump F.schPartOverruns_count 1 q
    if s.fld F.schPartMaxOverrunUs_count q < us then setF F.schPartMaxOverrunUs_count us q
    bump F.schPartLostUs_count us p
    if s.fld F.schCfg_overrunRecUs ≠ 0 ∧ s.fld F.schCfg_overrunRecUs < us then
      errRecord { kind := 0xA0, sev := 0, source := 10, part := q, ctx := c, count := us }

/-- A context at its preemption point begins to be saved (R326 beats 1 to 3). -/
def beginSave (c : Nat) : M s0 Unit := do
  let s ← cur
  match (s.ctxsAt c).yieldTo with
  | some (t, p) => chargeOverrun c (s.partOf c) p (s.now - t)
  | none => pure ()
  modCtxs c fun x => { x with saving := s.heldSets c, yieldTo := none, holdOver := false }
  setCtxState c 7
  bump F.schPartSwitches_count 1 (s.partOf c)
  refreshLoaded (s.partOf c)
  each (s.heldSets c) refreshSet

/-- `PREEMPTION_POINT` (R322). -/
def execPreemptionPoint (c : Nat) (s : State) : Outcome :=
  M.go s (if c < 256 ∧ s.ctxState c = 6 ∧ !s.stepHeld c ∧ s.atPoint c then beginSave c else pure ())

/-- A context whose sets have all been saved is swapped out. -/
def swapOut (c : Nat) : M s0 Unit := do
  setCtxState c 1
  let s ← cur
  let r := s.canRun c
  setFlag F.schCtxState_runnable r c
  if r then modCtxs c fun x => { x with since := s.now }

/-- `CONTEXT_SAVE_DONE` (R326): the set is free; after the last one the context is swapped out. -/
def execContextSaveDone (c d st : Nat) (s : State) : Outcome :=
  let x := 40 * d + st
  M.go s (whenM (c < 256 ∧ d < 2 ∧ st < 40 ∧ s.ctxState c = 7 ∧ (s.ctxsAt c).saving.contains x) do
    saveImage c x
    modCtxs c fun y => { y with saving := y.saving.filter (· != x) }
    setHolder x none
    if ((← cur).ctxsAt c).saving.isEmpty then swapOut c
    schedule)

/-- A context runs: every set restored, caller state loaded (R326 beat 5). -/
def finishLoad (c : Nat) : M s0 Unit := do
  let s ← cur
  each (s.ctxsAt c).restoring (restoreImage c)
  modCtxs c fun x => { x with
    restoring := [], fresh := x.fresh.filter fun y => !(s.ctxsAt c).restoring.contains y, loadedAt := s.now
    holdOver := false }
  setFlag F.schCtxState_runnable false c
  setCtxState c (if (s.ctxsAt c).yieldTo.isSome then 6 else 3)
  bump F.schPartSwitches_count 1 (s.partOf c)
  each (s.heldSets c) refreshSet
  refreshLoaded (s.partOf c)
  unstick c
  refresh c

/-- `CONTEXT_LOADED` (R326): a loading context, or a swapped-out one that can load and loads whole. -/
def execContextLoaded (c : Nat) (s : State) : Outcome :=
  M.go s (whenM (c < 256) do
    if s.canLoad c then beginLoad c
    if (← cur).ctxState c = 2 then finishLoad c)

/-- `STEP_HOLD_EXPIRY` (R324). -/
def execStepHoldExpiry (c : Nat) (s : State) : Outcome :=
  M.go s (match (s.ctxsAt c).yieldTo with
    | some _ =>
      if c < 256 ∧ s.ctxState c = 6 ∧ s.stepHeld c ∧ (s.ctxsAt c).asked + s.holdMax ≤ s.now then
        modCtxs c fun x => { x with holdOver := true }
      else pure ()
    | none => pure ())

/-- Some set that the context holds outside the slot's reservation is wanted by the waiter whose turn it is (third row of
R320). -/
def State.wanted (s : State) (c : Nat) : Bool :=
  (s.heldSets c).any fun x => !s.heldBack x && s.waiters.any fun k => s.bindsSet k x

/-- `QUANTUM_EXPIRY` (R320): a RUNNING holder loaded for QUANTUM_US yields to a waiting context. -/
def execQuantumExpiry (c : Nat) (s : State) : Outcome :=
  M.go s (if c < 256 ∧ s.ctxState c = 3 ∧ (s.ctxsAt c).loadedAt + s.fld F.schCfg_quantumUs ≤ s.now ∧ s.wanted c then
    requestPreempt c 16 else pure ())

/-- `BLOCK_EVICT_EXPIRY` (R320): a holder BLOCKED for BLOCK_EVICT_US yields. -/
def execBlockEvictExpiry (c : Nat) (s : State) : Outcome :=
  M.go s (if c < 256 ∧ s.ctxState c = 4 ∧ (s.ctxsAt c).blockedAt + s.fld F.schCfg_blockEvictUs ≤ s.now ∧ s.wanted c then
    requestPreempt c 16 else pure ())

/-- The contexts that hold sets of c. -/
def State.inTheWay (s : State) (c : Nat) : List Nat := ((s.binds c).filterMap s.holderOf).eraseDups

/-- `HARD_SWAP` (R327): every loaded context is BLOCKED or STALLED, c is runnable and has waited longest, and no STALLED
context holds a set it needs. -/
def execHardSwap (c : Nat) (s : State) : Outcome :=
  let live := (List.range 256).filter s.loaded
  M.go s (whenM (c < 256 ∧ s.waiters.head? = some c ∧ live.all (fun k => s.ctxState k == 4 || s.ctxState k == 5) ∧
      (s.inTheWay c).all (fun k => s.ctxState k == 4)) do
    bump F.schPartHardSwaps_count 1 (s.partOf c)
    modSched fun y => { y with hard := some c }
    each (s.inTheWay c) beginSave
    schedule)

/-! ### Enabling a context (R314) -/

/-- Pages of 64 KiB whose leaves have READ and W at 1, and IMM at 0 where `mutable` asks for it, outside SHARED windows: their
DPAs where every one lies as `ok` says (checks 3 and 5, R309). -/
def recordPages (ac : Acc) (mutable : Bool) (ok : Nat → Bool) : List Nat → M s0 (Option (List Nat))
  | [] => pure (some [])
  | va :: vas => do
    let r ← walk ac va false
    let (leaf, _) ← leafWalk ac va
    match r, leaf with
    | .ok a, .ok (e, size) =>
      if bit e 3 && !(mutable && bit e 4) && !(← cur).windowShared ac.part (bits e 47 8 * 256) size && ok a then do
        let rest ← recordPages ac mutable ok vas
        pure (rest.map (a :: ·))
      else pure none
    | _, _ => pure none

/-- The addresses of the pages of an area of n bytes. -/
def areaPages (va n : Nat) : List Nat := (List.range (n / 65536)).map fun i => va + 65536 * i

/-- The image of a set lies in the stacks of its die (check 4 of R314). -/
def imagesPlaced (sets pages : List Nat) : Bool :=
  (List.range sets.length).all fun i => (List.range 320).all fun j =>
    let t := targetOf (nth pages (32 + 320 * i + j))
    if nth sets i < 40 then decide (t < 6) else decide (6 ≤ t) && decide (t < 12)

/-- The caller that a context is bound to: the one with the fewest enabled contexts, the lowest on a tie (R314). -/
def State.freeCaller (s : State) : Nat :=
  let load (k : Nat) : Nat :=
    ((List.range 256).filter fun c => s.flag F.schCtxCfg_en c && s.fld F.schCtxState_caller c == k).length
  (List.range 8).foldl (fun best k => if load k < load best then k else best) 0

/-- The context becomes enabled (R314). -/
def bindCtx (c : Nat) (sets pages spill : List Nat) : M s0 Unit := do
  let s ← cur
  setF F.schCtxState_caller s.freeCaller c
  setF F.schCtxState_enableErr 0 c
  setFlag F.schCtxCfg_en true c
  modCtxs c fun x => { x with savePages := pages, spillPages := spill, fresh := sets, layout := sets, restoring := [],
                              saving := [], yieldTo := none, holdOver := false, since := s.now }
  if sets.isEmpty then
    setCtxState c 3
    modCtxs c fun x => { x with loadedAt := s.now }
  else setCtxState c 1
  refresh c
  schedule

/-- The checks of R314 in their order, and the binding. -/
def enableCtx (c part : Nat) (keeps : Bool) : M s0 Unit := do
  let s ← cur
  if s.flag F.schCtxCfg_en c then setFlag F.schCtxState_writeIgnored true c
  else
    setF F.schCtxCfg_partition part c
    setFlag F.schCtxCfg_keepsSbuf keeps c
    let sets := s.binds c
    let ac : Acc := { part := part, ctx := c }
    let n := 2 ^ 21 + 20 * 2 ^ 20 * sets.length
    let save := s.fld F.schCtxSave_va c * 2 ^ 21
    let spill := s.fld F.schCtxSpill_va c * 2 ^ 21
    let refuse (e : Nat) : M s0 Unit := setF F.schCtxState_enableErr e c
    if s.fld F.schPartState_state part ≠ 1 then refuse 1
    else if sets.any fun x => !s.allocatesSet part x then refuse 2
    else do
      let pages ← (if sets.isEmpty && save == 0 then pure (some [])
        else if save = 0 then pure none
        else recordPages ac true (fun a => decide (targetOf a < 12)) (areaPages save n))
      match pages with
      | none => refuse 3
      | some ps =>
        if !imagesPlaced sets ps then refuse 4
        else do
          let deep ← (if spill = 0 then pure (some []) else recordPages ac false (fun a => targetOf a == 12) (areaPages spill n))
          match deep with
          | none => refuse 5
          | some ds => bindCtx c sets ps ds

/-- `CONTEXT_ENABLE` (R314). -/
def execContextEnable (c part : Nat) (keeps : Bool) (s : State) : Outcome :=
  M.go s (atReg ⟨.schCtxCfg, c, 0, 0⟩ (enableCtx c (part % 16) keeps))

/-! ### Disabling a context (R317) -/

/-- No slot waits for a packet of the context any more. -/
def dropWaits (c : Nat) : M s0 Unit :=
  do each ((← cur).slots.map Prod.fst) fun n =>
      modSlots n fun x => { x with
        cancels := x.cancels.filter fun e => e.1 != c
        closing := x.closing.filter fun e => e.1 != c }

/-- The record and the stop of one enabled queue (R317). -/
def dropQueue (c q : Nat) : M s0 Unit := do
  let s ← cur
  if bit (s.fld F.clrCtxCfg_sqEn c) q then
    let used := s.sqUsed c q
    setF F.clrSqStatus_head (s.fld F.clrSqDb_tail c q) c q
    postQueueRecord c q stPreempted used
  modQue (qKey c q) fun x => { x with chain := [], skip := none, laterSkip := none, fault := none, failAs := none, stuck := false }

/-- A packet in flight stops and completes with ST_PREEMPTED; one whose parts have all ended keeps its status (R317). -/
def stopPkt (c : Nat) (p : Pkt) : M s0 Unit := do
  if p.st ≠ .done then
    if p.st ≠ .waiting then abandon c p
    endPkt c p.id stPreempted 0
  match (← cur).pkt c p.id with
  | some y => completePkt c y
  | none => pure ()

/-- A group is BROKEN at this member: it sends nothing more for its collective (R358). -/
def breakGroup (g rank : Nat) : M s0 Unit := do
  modFab fun x => { x with groups := Tab.put {} x.groups g { Tab.get {} x.groups g with coll := none, ahead := none } }
  setF F.reelGroupState_state 3 g
  setF F.reelGroupState_brokenBy rank g

/-- A context is disabled (R317). -/
def disableCtx (c : Nat) : M s0 Unit := do
  let s ← cur
  each (List.range 4) (dropQueue c)
  modSched fun x => { x with faults := x.faults.filter fun f => f.ctx != c }
  each (s.fab.groups.filter fun e => e.2.coll.any fun k => k.owner.any fun o => o.1 == c) fun e => breakGroup e.1 e.2.rank
  each (s.ctxsAt c).pkts (stopPkt c)
  dropWaits c
  closeStep c
  each (s.heldSets c) fun x => do
    zeroSet x
    setHolder x none
  modCtxs c fun x => { x with
    pkts := [], step := none, enc := {}, savePages := [], spillPages := [], fresh := [], restoring := [], saving := []
    yieldTo := none, holdOver := false, layout := [] }
  if s.sched.hard = some c then modSched fun y => { y with hard := none }
  setFlag F.schCtxCfg_en false c
  setFlag F.schCtxState_runnable false c
  setCtxState c 0
  refreshCtx c
  refreshLoaded (s.partOf c)
  flushFaults
  schedule

/-- `CONTEXT_DISABLE` (R317). -/
def execContextDisable (c : Nat) (s : State) : Outcome :=
  M.go s (atReg ⟨.schCtxCfg, c, 0, 0⟩ (if s.flag F.schCtxCfg_en c then disableCtx c else pure ()))

/-! ### Teardown (R334) -/

/-- A window's first byte and size in force. -/
def State.winRange (s : State) (p w : Nat) : Nat × Nat :=
  (s.inForce F.schPartWin_base p w * 2 ^ 21, s.inForce F.schPartWin_size p w * 2 ^ 21)

/-- The windows of a partition that a teardown wipes: enabled, not SHARED, not of the companion range. -/
def State.wiped (s : State) (p : Nat) : List Nat :=
  (List.range 8).filter fun w => s.inForce F.schPartWin_en p w != 0 && s.inForce F.schPartWin_shared p w == 0 &&
    decide ((s.winRange p w).1 < 2 ^ 47)

/-- A range of a stack holds a sealed row. -/
def State.holdsSealed (s : State) (a n : Nat) : Bool :=
  decide (targetOf a < 12) && (List.range (n / 2 ^ 21)).any fun i => s.sealed (a + 2 ^ 21 * i)

/-- Keys and VALID bits of a partition's tenants (R334 beat 2). -/
def dropTenants (p : Nat) : M s0 Unit :=
  each (List.range 4096) fun t => do
    let s ← cur
    if s.tenantOk t p then
      eff (.keys t none)
      setFlag F.srvTenant_valid false t

/-- Teardown begins: refused, or beats 1 and 2. -/
def teardown (p : Nat) : M s0 Unit := do
  let s ← cur
  if s.fld F.schPartState_state p = 2 ∨ (s.wiped p).any (fun w => s.holdsSealed (s.winRange p w).1 (s.winRange p w).2) then
    setFlag F.schPartState_tdRefused true p
  else
    setF F.schPartState_state 2 p
    each ((List.range 256).filter fun c => s.flag F.schCtxCfg_en c && s.partOf c == p) disableCtx
    each ((← cur).slots.map Prod.fst) fun n => do
      let t ← cur
      if t.slotState n ≠ 0 ∧ t.slotPart n = p then freeSlot n
    each ((← cur).adapters.map Prod.fst) fun a => do
      if ((← cur).adaptersAt a).bound ∧ ((← cur).adaptersAt a).part = p then modAdapters a fun _ => {}
    dropTenants p
    let e ← cur
    setFlag F.srvPfxKeyStatus_valid (e.keysAt (if e.flag F.srvPfxKeySel_shared then 4096
      else e.fld F.srvPfxKeySel_tenant)).isSome

/-- `PARTITION_TEARDOWN` (R334). -/
def execPartitionTeardown (p : Nat) (s : State) : Outcome :=
  M.go s (atReg ⟨.schPartCtrl, p, 0, 0⟩ (teardown p))

/-- `TEARDOWN_DONE` (R334 beats 3 and 4). -/
def execTeardownDone (p : Nat) (s : State) : Outcome :=
  M.go s (whenM (p < 16 ∧ s.fld F.schPartState_state p = 2) do
    each (s.wiped p) fun w => clearRange (s.winRange p w).1 (s.winRange p w).2
    setBoth F.schPartCfg_en 0 p
    setBoth F.schPartAlloc0_mask 0 p
    setBoth F.schPartAlloc1_mask 0 p
    each (List.range 8) fun w => do
      setReg ⟨.schPartWin, p, w, 0⟩ 0
      eff (.force ⟨.schPartWin, p, w, 0⟩ 0)
    setF F.schPartState_state 0 p
    setFlag F.schPartState_tdDone true p)

/-! ### Invalidation (R312) -/

/-- GO of SCH_INVAL. No translation is cached in the model, so that an invalidation has nothing to drop (log entry 36). -/
def invalidate (all : Bool) (part va count : Nat) : M s0 Unit := do
  setFlag F.schInval_all all
  setF F.schInval_partition part
  setF F.schInval_va va
  setF F.schInval_count count
  if (← cur).flag F.schInvalStatus_busy then setFlag F.schInvalStatus_ignored true
  else setFlag F.schInvalStatus_busy true

/-- `TLB_INVALIDATE` (R312). -/
def execTlbInvalidate (all : Bool) (part va count : Nat) (s : State) : Outcome :=
  M.go s (atReg ⟨.schInval, 0, 0, 0⟩ (invalidate all part va count))

/-- `INVALIDATE_DONE` (R312). -/
def execInvalidateDone (s : State) : Outcome :=
  M.go s (whenM (s.flag F.schInvalStatus_busy) do
    setFlag F.schInvalStatus_busy false
    setFlag F.schInvalStatus_done true)

/-! ### The dance card (R319 to R321, R325) -/

/-- The shares of a partition: in a slot of its own the slot's, else its base shares; none while disabled (R321). -/
def State.shareNow (s : State) (slot : Option Nat) (p k : Nat) : Nat :=
  if s.inForce F.schPartCfg_en p = 0 then 0
  else
    let own := match slot with
      | some i => s.inForce F.schSlot_partition i == p
      | none => false
    let i := slot.getD 0
    if own then (if k = 0 then s.inForce F.schSlot_stk i else if k = 1 then s.inForce F.schSlot_dt i else s.inForce F.schSlot_fab i)
    else (if k = 0 then s.inForce F.schPartShare_stk p else if k = 1 then s.inForce F.schPartShare_dt p
      else s.inForce F.schPartShare_fab p)

/-- BORROW that the card loads for a partition (R321). -/
def State.borrowNow (s : State) (p : Nat) : Nat :=
  if s.inForce F.schPartCfg_en p = 0 then 0 else s.inForce F.schPartShare_borrow p

/-- RATE and BURST of a share of a limit (R321). -/
def rateOf (a l : Nat) : Nat := a * l / 256
def burstOf (r : Nat) : Nat := min 32767 (8 * r)

/-- A regulator group loaded by the card and its commit made pending, to apply from the next microsecond on; a locked group
ignores the load, and shows so (R11, R179, R321). -/
def loadGroup (g : Group) (put : Nat → M s0 Unit) : M s0 Unit := do
  let r := groupRegs g
  if (← cur).flag r.locked r.i then setFlag r.lockIgnored true r.i
  else
    each (List.range 16) put
    setFlag r.pending true r.i
    awaitMicro g

/-- Every regulator loaded for a slot or for open time (R321). -/
def loadShares (slot : Option Nat) : M s0 Unit := do
  let s ← cur
  each (List.range 12) fun n => loadGroup (.stkReg n) fun p => do
    let r := rateOf (s.shareNow slot p 0) 18750
    setF F.stkReg_rate r n p
    setF F.stkReg_burst (burstOf r) n p
    setF F.stkReg_borrow (s.borrowNow p) n p
  loadGroup .dtReg fun p => do
    let r := rateOf (s.shareNow slot p 1) 19200
    setF F.dtReg_rate r p
    setF F.dtReg_burst (burstOf r) p
    setF F.dtReg_borrow (s.borrowNow p) p
  loadGroup .fabReg fun p => do
    let r := rateOf (s.shareNow slot p 2) fabLimit
    setF F.fabReg_rate r p
    setF F.fabReg_burst (burstOf r) p
    setF F.fabReg_borrow (s.borrowNow p) p

/-- Time that the valid slots before slot i take of a frame (R319). -/
def State.slotOffset (s : State) (i : Nat) : Nat :=
  ((List.range i).map fun j => if s.inForce F.schSlot_valid j != 0 then s.inForce F.schSlot_lengthUs j else 0).foldl (· + ·) 0

/-- Sets of a die that a slot reserves: those bound by the partition's loaded contexts, then by its runnable swapped-out ones,
longest wait first, then the lowest-numbered (R320). -/
def State.reserveOn (s : State) (p d n : Nat) : List Nat :=
  let alloc := ((List.range 40).map (40 * d + ·)).filter (s.allocatesSet p)
  let bound (cs : List Nat) : List Nat := cs.flatMap fun c => alloc.filter (s.bindsSet c)
  let mine := (List.range 256).filter fun c => s.partOf c == p && s.flag F.schCtxCfg_en c
  ((bound (mine.filter s.loaded) ++ bound (s.waiters.filter fun c => s.partOf c == p) ++ alloc).eraseDups).take n

/-- The holders of other partitions that must yield reserved sets now (R320). -/
def yieldReserved : M s0 Unit := do
  let s ← cur
  match s.sched.owner with
  | none => pure ()
  | some p =>
    each (((s.sched.reserved.filter s.heldBack).filterMap s.holderOf).eraseDups.filter fun c => s.partOf c != p)
      fun c => requestPreempt c p

/-- A slot of a partition begins (R320, R321, R325). -/
def slotStart (i : Nat) : M s0 Unit := do
  let s ← cur
  let p := s.inForce F.schSlot_partition i
  let len := s.inForce F.schSlot_lengthUs i
  let cut := min (s.fld F.schPartDebtUs_count p) len
  setF F.schCardPos_slot i
  setFlag F.schCardPos_open false
  setFlag F.schCardPos_cut false
  setF F.schPartDebtUs_count (s.fld F.schPartDebtUs_count p - cut) p
  modSched fun y => { y with
    slotStart := s.now, slotEnd := s.now + (len - cut), owner := some p
    reserved := s.reserveOn p 0 (s.inForce F.schSlot_minCd0 i) ++ s.reserveOn p 1 (s.inForce F.schSlot_minCd1 i) }
  loadShares (some i)
  yieldReserved
  schedule

/-- Open time begins, or time cut by debt (R321, R325). -/
def openTime (cut : Bool) : M s0 Unit := do
  setFlag F.schCardPos_open true
  setFlag F.schCardPos_cut cut
  modSched fun y => { y with reserved := [], owner := none }
  loadShares none
  schedule

/-- The card runs. -/
def State.cardOn (s : State) : Bool := s.inForce F.schCardFrame_en != 0

/-- `CARD_FRAME_START` (R319): a pending card commit applies; the frame begins. -/
def execCardFrameStart (s : State) : Outcome :=
  M.go s (whenM (s.cardOn ∧ (s.fld F.schCardPos_frames = 0 ∨ s.sched.frameStart + s.inForce F.schCardFrame_frameUs ≤ s.now)) do
    applyGroup .schCard
    if (← cur).cardOn then
      setF F.schCardPos_frames ((← cur).fld F.schCardPos_frames + 1)
      modSched fun y => { y with frameStart := s.now, begun := 0 })

/-- `CARD_SLOT_START` (R320): the slot's moment has come; a slot begins once in a frame. A slot of a partition that is not enabled reserves nothing, and its
time runs as open time (R334). -/
def execCardSlotStart (i : Nat) (s : State) : Outcome :=
  M.go s (whenM (i < 64 ∧ s.cardOn ∧ s.inForce F.schSlot_valid i ≠ 0 ∧ s.fld F.schCardPos_frames ≠ 0 ∧
      s.sched.begun ≤ i ∧ s.sched.frameStart + s.slotOffset i ≤ s.now) do
    modSched fun y => { y with begun := i + 1 }
    if s.fld F.schPartState_state (s.inForce F.schSlot_partition i) = 1 then slotStart i
    else do
      setF F.schCardPos_slot i
      openTime false)

/-- `OPEN_TIME_START` (R325): after the last slot, or where debt has cut a slot short. -/
def execOpenTimeStart (cut : Bool) (s : State) : Outcome :=
  M.go s (if s.cardOn ∧ s.fld F.schCardPos_frames ≠ 0 ∧
      (if cut then s.sched.owner.isSome ∧ s.sched.slotEnd ≤ s.now
       else s.sched.frameStart + s.slotOffset 64 ≤ s.now) then openTime cut else pure ())

end Sys2Proof.Machine
end

