-- ==== Sys2Proof/Machine/Cores.lean ====
section
/-!
DEFINITION. Cores, sets and the die mesh (chapter 03): tile re-execution, strikes and retirement (R96 to R100), sets leaving
and returning to service (R98, R101, R328), link-level retry (R91), the die fault (R468), the performance counters (R107).
-/
namespace Sys2Proof.Machine

variable {s0 : State}

/-! ### Cores -/

/-- The location of a physical core in records, where sets from 32 on share the values of another die's (R470). -/
def coreLoc (d st core : Nat) : Nat := d * 8192 + st * 256 + core

/-- A physical core's number among all, by which its strikes and its entry in the log go. -/
def coreKey (d st core : Nat) : Nat := (40 * d + st) * 256 + core

/-- The set of a core's number (40 * die + set), its die, its number on the die, and the core. -/
def setOfKey (k : Nat) : Nat := k / 256
def coreDie (k : Nat) : Nat := setOfKey k / 40
def coreSet (k : Nat) : Nat := setOfKey k % 40
def coreOf (k : Nat) : Nat := k % 256

/-- A record about a core or set. -/
def coreRec (kind sev d st core : Nat) : ErrRec := { kind := kind, sev := sev, source := 0, loc := coreLoc d st core }

/-- The register of a spare in CD_SPARE_MAP: P128 or P129. -/
def State.spareOf (s : State) (d st core : Nat) : Nat :=
  if core = 128 then s.fld F.cdSpareMap_spare0 d st else s.fld F.cdSpareMap_spare1 d st

/-- A spare's entry in CD_SPARE_MAP takes a value; SPARES_FREE follows (R103). -/
def setSpare (d st core v : Nat) : M s0 Unit := do
  if core = 128 then setF F.cdSpareMap_spare0 v d st else setF F.cdSpareMap_spare1 v d st
  let s ← cur
  setF F.cdSetStatus_sparesFree (([128, 129].filter fun c => s.spareOf d st c == 0xFF).length) d st

/-- A core retires: it receives no further tiles (R98); its entry in the log (R99). -/
def retireCore (d st core cause : Nat) : M s0 Unit := do
  setFlag F.cdCoreStatus_retired true d st core
  setF F.cdCoreStatus_cause cause d st core
  setF F.cdSetStatus_retiredCores ((← cur).fld F.cdSetStatus_retiredCores d st + 1) d st
  logRetire 2 (coreKey d st core) true
  errRecord (coreRec 0x01 2 d st core)

/-- A retired core that carries a logical number waits to be taken over; a free spare only leaves the spares (R98). -/
def leaveTiles (d st core : Nat) : M s0 Unit := do
  let s ← cur
  if s.fld F.cdCoreStatus_logical d st core = 0xFF then
    if 128 ≤ core then setSpare d st core 0xFE
  else modSets (40 * d + st) fun x => { x with leaving := x.leaving ++ [core] }

/-- A strike and its record; the second within the window retires the core (R97). -/
def coreStrike (d st core cause : Nat) : M s0 Unit := do
  addStrike (coreKey d st core) false
  let s ← cur
  let n := s.strikesOf d (coreKey d st core) false
  setF F.cdCoreStatus_strikes (min n 2) d st core
  setF F.cdCoreStatus_cause cause d st core
  errRecord (coreRec 0x01 1 d st core)
  if 2 ≤ n then
    retireCore d st core cause
    leaveTiles d st core

/-- The failure is the one that CD_ARRAY_INJECT has armed (R136). -/
def State.armedFor (s : State) (d st core : Nat) : Bool :=
  s.flag F.cdArrayInject_arm d && s.fld F.cdArrayInject_set d == st && s.fld F.cdArrayInject_core d == core

/-- One failed execution of a tile of a packet on a core: counted, recorded, a strike unless injected; the tile executes
again, until the third failure exhausts the part (R96, R97, R136, R454, R455). -/
def tileFails (c id d st core kind nth_ : Nat) : M s0 Unit := do
  let s ← cur
  if kind = 1 then bump F.cdCoreChecksumFail_count 1 d st core
  if kind = 1 ∧ s.armedFor d st core then
    setFlag F.cdArrayInject_arm false d
    errRecord { coreRec 0x01 1 d st core with injected := true }
  else coreStrike d st core kind
  if nth_ < 2 then
    bump F.cdSetReexecTiles_count 1 d st
    bump F.hbPartRetries_count 1
    modPkt c id fun p => { p with tries := p.tries + 1, recovered := true }
  else modPkt c id fun p => { p with tries := p.tries + 1, exhausted := true, recovered := true }

/-- The packet runs parts on the set: issued, its context holds the set, its dies name the set's. -/
def State.runsOn (s : State) (c id d st : Nat) : Bool :=
  match s.pkt c id with
  | some p => s.loaded c && p.st == .issued && usesSets p.op && bit p.dies d && s.holderOf (40 * d + st) == some c
  | none => false

/-- The core can have run a tile that had failed n times: at first one that carries a logical number; a re-execution runs on a
free spare where one exists, else on a logical core (R96). -/
def State.executes (s : State) (d st core n : Nat) : Bool :=
  let spares := [128, 129].filter fun k => s.spareOf d st k == 0xFF && !s.flag F.cdCoreStatus_retired d st k
  !s.flag F.cdCoreStatus_retired d st core &&
    (if n = 0 ∨ spares = [] then s.fld F.cdCoreStatus_logical d st core != 0xFF else spares.contains core)

/-- `TILE_REEXECUTION` (R96): a tile's execution on a physical core failed. `cause` is 1 for a checksum, 2 for an
uncorrectable word, plus 4 for each earlier failed execution of the tile. -/
def execTileReexecution (c id d st core cause : Nat) (s : State) : Outcome :=
  M.go s (whenM (d < 2 ∧ st < 40 ∧ core < 130 ∧ (cause % 4 = 1 ∨ cause % 4 = 2) ∧ cause / 4 < 3 ∧ s.runsOn c id d st ∧
      (s.pkt c id).any (fun p => decide (cause / 4 ≤ p.tries) && !p.exhausted) ∧
      s.executes d st core (cause / 4)) (tileFails c id d st core (cause % 4) (cause / 4)))

/-- The logical number of a retired core passes to the first free spare, or the set enters RETIRING (R78, R98). -/
def takeOver (d st core : Nat) : M s0 Unit := do
  let s ← cur
  let k := s.fld F.cdCoreStatus_logical d st core
  modSets (40 * d + st) fun x => { x with leaving := x.leaving.filter (· != core) }
  setF F.cdCoreStatus_logical 0xFF d st core
  if 128 ≤ core then setSpare d st core 0xFE
  match [128, 129].find? fun c => s.spareOf d st c == 0xFF && c != core with
  | some sp => do
    setSpare d st sp k
    setF F.cdCoreStatus_logical k d st sp
  | none => retireSet d st 127

/-- `SPARE_TAKEOVER` (R98): at the next tile boundary of a set in service or RETIRING. -/
def execSpareTakeover (d st core : Nat) (s : State) : Outcome :=
  M.go s (whenM (d < 2 ∧ st < 40 ∧ s.fld F.cdSetStatus_state d st < 6 ∧ (s.setsAt (40 * d + st)).leaving.contains core) (takeOver d st core))

/-! ### Feature values -/

/-- FEAT_SETS and FEAT_CORES follow the sets in service (R77, R79). -/
def refreshFeatSets : M s0 Unit := do
  let s ← cur
  let n (d : Nat) : Nat := popcount 40 (s.fld F.cdSetsInService_mask d)
  featSet F.featCores_value (128 * (n 0 + n 1))
  featSet F.featSets_value (n 1 * 256 + n 0)

/-- A set is in service, or is not. -/
def setInService (d st : Nat) (on : Bool) : M s0 Unit := do
  setF F.cdSetsInService_mask (setBits ((← cur).fld F.cdSetsInService_mask d) st st (b2n on)) d
  logRetire 3 (40 * d + st) (!on)
  refreshFeatSets
  errRecord (coreRec 0x02 2 d st 0)

/-! ### Loss of a set (R328) -/

/-- A mask without set st. -/
def without (m st : Nat) : Nat := setBits m st st 0

/-- The set leaves every allocation and every context's mask; the card's minima are clipped (R328). -/
def dropSet (d st : Nat) : M s0 Unit := do
  let al := if d = 0 then F.schPartAlloc0_mask else F.schPartAlloc1_mask
  let mn := if d = 0 then F.schSlot_minCd0 else F.schSlot_minCd1
  let cm := if d = 0 then F.schCtxSets0_mask else F.schCtxSets1_mask
  each (List.range 16) fun p => do
    setF al (without ((← cur).fld al p) st) p
    setForce al (without ((← cur).inForce al p) st) p
  each (List.range 256) fun c => do
    if bit ((← cur).fld cm c) st then setF cm (without ((← cur).fld cm c) st) c
  each (List.range 64) fun i => do
    let s ← cur
    let left (p : Nat) : Nat := popcount 40 (s.inForce al p)
    if left (s.fld F.schSlot_partition i) < s.fld mn i then setF mn (left (s.fld F.schSlot_partition i)) i
    if left (s.inForce F.schSlot_partition i) < s.inForce mn i then setForce mn (left (s.inForce F.schSlot_partition i)) i

/-- A context with KEEPS_SBUF learns of the loss on each enabled queue, which stops (R41, R328). -/
def tellLoss (x c : Nat) : M s0 Unit := do
  if (← cur).flag F.schCtxCfg_keepsSbuf c then
    each (List.range 4) fun q => do
      if bit ((← cur).fld F.clrCtxCfg_sqEn c) q then
        postQueueRecord c q stRestarted x
        modQue (qKey c q) fun y => { y with errStop := true }
    refresh c

/-- The set leaves service: its registers, its users, the feature values (R98, R328). -/
def leaveService (d st : Nat) : M s0 Unit := do
  let s ← cur
  let x := 40 * d + st
  let users := (List.range 256).filter fun c => s.flag F.schCtxCfg_en c && s.bindsSet c x
  setF F.cdSetStatus_state 6 d st
  setF F.cdSetStatus_activeCores 0 d st
  modSets x fun y => { y with leaving := [] }
  setHolder x none
  each users fun c => modCtxs c fun y => { y with
    saving := y.saving.filter (· != x), restoring := y.restoring.filter (· != x), fresh := y.fresh.filter (· != x) }
  dropSet d st
  setInService d st false
  each users (tellLoss x)
  each users fun c => do refreshLoaded ((← cur).partOf c)

/-- The set is at a packet boundary: no part runs on it, no save and no restore (R98). -/
def State.atBoundary (s : State) (d st : Nat) : Bool := s.setState (40 * d + st) == 0 || s.setState (40 * d + st) == 1

/-- `SET_LEAVE_SERVICE` (R98). -/
def execSetLeaveService (d st : Nat) (s : State) : Outcome :=
  M.go s (whenM (d < 2 ∧ st < 40 ∧ s.fld F.cdSetStatus_state d st = 5 ∧ s.atBoundary d st) (leaveService d st))

/-! ### Strikes' ages (R97, R100) -/

/-- The STRIKES field of a core or unit follows the strikes that count. -/
def refreshStrikes (k : Strike) : M s0 Unit := do
  let s ← cur
  if k.unit then
    setF F.galUnitState_strikes (min 2 (s.strikesOf (dieOf (k.loc / 32)) k.loc true)) (k.loc / 32) (k.loc % 32)
  else
    setF F.cdCoreStatus_strikes (min 2 (s.strikesOf (coreDie k.loc) k.loc false)) (coreDie k.loc) (coreSet k.loc) (coreOf k.loc)

/-- The die whose window governs a strike. -/
def Strike.die (k : Strike) : Nat := if k.unit then dieOf (k.loc / 32) else coreDie k.loc

/-- `STRIKE_EXPIRY` (R97): strikes older than the window are forgotten. -/
def execStrikeExpiry (s : State) : Outcome :=
  M.go s (do
    let gone := s.strikes.filter fun k => !s.strikeLive k.die k
    modStrikes fun l => l.filter fun k => s.strikeLive k.die k
    each gone refreshStrikes)

/-- `STRIKE_AGE_REWRITE` (R100): by management firmware that has applied the log. -/
def execStrikeAgeRewrite (s : State) : Outcome := M.go s (whenM (s.rst.published = true) rewriteAges)

/-! ### CD_SET_CTRL (R101) -/

/-- An action that the set's state does not allow. -/
def setCtrlIgnored (d st : Nat) : M s0 Unit := setFlag F.cdSetStatus_ctrlIgnored true d st

/-- RETIRE (R101): the cores' CAUSE says so (R104). -/
def setRetire (d st : Nat) : M s0 Unit := do
  let v := (← cur).fld F.cdSetStatus_state d st
  if v < 5 then
    each (List.range 130) fun k => setF F.cdCoreStatus_cause 4 d st k
    if v = 0 then leaveService d st else retireSet d st ((← cur).fld F.cdSetStatus_activeCores d st)
  else setCtrlIgnored d st

/-- `SET_RETIRE` (R101). -/
def execSetRetire (d st : Nat) (s : State) : Outcome := M.go s (atReg ⟨.cdSetCtrl, d, st, 0⟩ (setRetire d st))

/-- TEST or RETURN begins (R101). -/
def startSetTest (d st : Nat) (ret : Bool) : M s0 Unit := do
  if (← cur).fld F.cdSetStatus_state d st = (if ret then 6 else 0) then
    setF F.cdSetStatus_state 7 d st
    modSets (40 * d + st) fun x => { x with ret := ret, leaving := [] }
    if ret then
      modSets (40 * d + st) fun x => { x with ues := [] }
      modStrikes fun l => l.filter fun k => k.unit || setOfKey k.loc != 40 * d + st
      each (List.range 130) fun k => setF F.cdCoreStatus_strikes 0 d st k
      rewriteAges
  else setCtrlIgnored d st

/-- `SET_TEST` (R101). -/
def execSetTest (d st : Nat) (s : State) : Outcome := M.go s (atReg ⟨.cdSetCtrl, d, st, 0⟩ (startSetTest d st false))

/-- `SET_RETURN` (R101). -/
def execSetReturn (d st : Nat) (s : State) : Outcome := M.go s (atReg ⟨.cdSetCtrl, d, st, 0⟩ (startSetTest d st true))

/-- Logical cores after a test: Lk on Pk where it passes, the others in ascending order on the passing spares (R101). -/
def mapCores (pass : List Nat) : List (Nat × Nat) :=
  let away := (List.range 128).filter fun k => !pass.contains k
  ((List.range 128).filter pass.contains).map (fun k => (k, k)) ++ away.zip ([128, 129].filter pass.contains)

/-- The map's registers: LOGICAL of every core, CD_SPARE_MAP, SPARES_FREE (R101, R103, R104). -/
def putMap (d st : Nat) (pass : List Nat) : M s0 Unit := do
  let m := mapCores pass
  each (List.range 130) fun k =>
    setF F.cdCoreStatus_logical (((m.find? fun e => e.2 == k).map Prod.fst).getD 0xFF) d st k
  each [128, 129] fun k =>
    setSpare d st k (if pass.contains k then ((m.find? fun e => e.2 == k).map Prod.fst).getD 0xFF else 0xFE)

/-- The cores of a set that are retired. -/
def State.retiredCores (s : State) (d st : Nat) : List Nat := (List.range 130).filter fun k => s.flag F.cdCoreStatus_retired d st k

/-- A test ends with the cores that failed (R101). -/
def setTestDone (d st : Nat) (fails : List Nat) : M s0 Unit := do
  let s ← cur
  let ret := (s.setsAt (40 * d + st)).ret
  let old := s.retiredCores d st
  let bad := (List.range 130).filter fun k => fails.contains k || (!ret && old.contains k)
  let pass := (List.range 130).filter fun k => !bad.contains k
  modSets (40 * d + st) fun x => { x with ret := false }
  each (old.filter pass.contains) fun k => do
    setFlag F.cdCoreStatus_retired false d st k
    logRetire 2 (coreKey d st k) false
  each (bad.filter fun k => !old.contains k) fun k => do
    setFlag F.cdCoreStatus_retired true d st k
    setF F.cdCoreStatus_cause 3 d st k
    logRetire 2 (coreKey d st k) true
    errRecord (coreRec 0x01 2 d st k)
  setF F.cdSetStatus_retiredCores bad.length d st
  if 128 ≤ pass.length then
    putMap d st pass
    setF F.cdSetStatus_activeCores 128 d st
    setF F.cdSetStatus_state 0 d st
    if ret then setInService d st true
  else
    setFlag F.cdSetStatus_testFailed true d st
    if ret then
      setF F.cdSetStatus_state 6 d st
      setF F.cdSetStatus_activeCores 0 d st
    else leaveService d st

/-- `SET_TEST_DONE` (R101). -/
def execSetTestDone (d st : Nat) (fails : List Nat) (s : State) : Outcome :=
  M.go s (whenM (d < 2 ∧ st < 40 ∧ s.fld F.cdSetStatus_state d st = 7) (setTestDone d st fails))

/-! ### The die mesh and the die fault (R91, R468) -/

/-- Every packet in flight ends with ST_INTERNAL; those issued later do too (R468). -/
def dieFault (d : Nat) : M s0 Unit := do
  modErr fun e => { e with dieFault := true }
  errRecord (coreRec 0x04 3 d 0 0)
  each ((← cur).ctxs.map Prod.fst) fun c => do
    each ((← cur).ctxsAt c).pkts fun p => do
      if p.st ≠ .done then endPkt c p.id stInternal 0

/-- The link exists: 0 east and 1 south inside the mesh, 2 an edge link of row 0 or 4, 3 a bridge link. -/
def meshLink (d router dir : Nat) : Bool :=
  let x := router % 8
  let y := router / 8
  decide (d < 2) && decide (router < 40) &&
    (if dir = 0 then decide (x < 7) else if dir = 1 then decide (y < 4)
     else if dir = 2 then (y == 0 && decide (x < 8)) || (y == 4 && decide (x < 8))
     else dir == 3 && (if d = 0 then x == 7 else x == 0))

/-- The bridge's row y is shut at either die. -/
def State.bridgeShut (s : State) (y : Nat) : Bool :=
  (s.setsAt (8 * y + 7)).shut.contains 3 || (s.setsAt (40 + 8 * y)).shut.contains 3

/-- A link shuts (R91). A second internal link of a die, or the last sound link of the bridge, is a die fault (R468). SHUT_SET and
SHUT_DIR name the internal link that has shut, else the latest other one (DEDUCED, log entry 55). -/
def shutLink (d router dir : Nat) : M s0 Unit := do
  let s ← cur
  modSets (40 * d + router) fun x => { x with shut := x.shut ++ [dir] }
  errRecord (coreRec 0x03 2 d router 0)
  if dir < 2 then
    if s.flag F.cdMeshStatus_detour d then dieFault d
    else
      setFlag F.cdMeshStatus_detour true d
      setF F.cdMeshStatus_shutSet router d
      setF F.cdMeshStatus_shutDir dir d
  else
    if !s.flag F.cdMeshStatus_detour d then
      setF F.cdMeshStatus_shutSet router d
      setF F.cdMeshStatus_shutDir 2 d
    if (List.range 5).all (← cur).bridgeShut then dieFault d

/-- `MESH_FLIT_RETRY` (R91): one retry of a flit, which passes or fails; after 16 failures in a row the link shuts. -/
def execMeshFlitRetry (d router dir : Nat) (ok : Bool) (s : State) : Outcome :=
  M.go s (whenM (meshLink d router dir ∧ !(s.setsAt (40 * d + router)).shut.contains dir) do
    bump F.cdMeshRetries_count 1 d
    let n := if ok then 0 else Tab.get 0 (s.setsAt (40 * d + router)).fails dir + 1
    modSets (40 * d + router) fun x => { x with fails := Tab.put 0 x.fails dir (if n = 16 then 0 else n) }
    if n = 16 then shutLink d router dir)

/-! ### Performance counters (R105 to R107, R137, R167) -/

/-- The counters of a die that SNAP copies and CLEAR zeroes. -/
def isPerf (n : RegName) : Bool :=
  [.cdArraySat, .cdArrayNan, .cdDmaOobElems, .cdDmaIdxHits, .cdDmaTlbMisses, .cdDmaTurnBlocks, .cdSetTiles, .cdSetReexecTiles,
   .cdSetFigures, .cdSetSbufRdBytes, .cdSetSbufWrBytes, .cdSetMeshInBytes, .cdSetMeshOutBytes, .cdSetBarrierCycles,
   .cdSetSaves, .cdCoreBusyCycles, .cdCoreArrayCycles, .cdCoreMacCells, .cdCoreFreezeFeed, .cdCoreFreezeDrain,
   .cdCoreBypassCycles, .cdCoreVectorCycles, .cdCoreSramConflict, .cdCoreSramCe, .cdCoreDmaBytes,
   .cdCoreChecksumFail].contains n

/-- The counters that rise by what depends on timing and on the division of packets, and with them the corrected errors of core
SRAM that packets meet (R81, log entry 63). -/
def workRegs : List RegName :=
  [.cdDmaIdxHits, .cdDmaTlbMisses, .cdSetTiles, .cdSetFigures, .cdSetSbufRdBytes, .cdSetSbufWrBytes, .cdSetMeshInBytes,
   .cdSetMeshOutBytes, .cdSetBarrierCycles, .cdCoreBusyCycles, .cdCoreArrayCycles, .cdCoreMacCells, .cdCoreFreezeFeed,
   .cdCoreFreezeDrain, .cdCoreBypassCycles, .cdCoreVectorCycles, .cdCoreSramConflict, .cdCoreSramCe, .cdCoreDmaBytes]

/-- The work of a set that a counter has counted, live or as of the snapshot. -/
def State.workOn (s : State) (view : Bool) (count x core : Nat) : Nat :=
  let y := s.setsAt x
  ((if view then y.snapJobs else y.jobs).map fun n => Config.work n count x core).foldl (· + ·) 0

/-- A counter's value with the work counted: a die's counters saturate, those of a set page or a core page wrap (R105, R106,
R167). -/
def State.withWork (s : State) (view : Bool) (r : Reg) (v : Nat) : Nat :=
  match workRegs.idxOf? r.name with
  | none => v
  | some k =>
    if wrapsRound r.name then (v + s.workOn view k (40 * r.i + r.j) r.k) % 2 ^ 64
    else (List.range 40).foldl (fun t st => satAdd 64 t (s.workOn view k (40 * r.i + st) 0)) v

/-- The counters of die d that hold something, live or in the snapshot. -/
def State.perfRegs (s : State) (d : Nat) : List Reg :=
  ((s.bank.map Prod.fst ++ s.snap.map Prod.fst).filter fun r => isPerf r.name && r.i == d).eraseDups

/-- SNAP: every counter of the die into its snapshot copy (R107). -/
def perfSnap (d : Nat) : M s0 Unit := do
  let s ← cur
  whenM (s.flag F.cdPerfCtrl_snapBusy d = false) do
    each (s.perfRegs d) fun r => eff (.snap r (Bank.get s.bank r))
    each (List.range 40) fun st => whenM ((s.setsAt (40 * d + st)).jobs ≠ (s.setsAt (40 * d + st)).snapJobs)
      (modSets (40 * d + st) fun x => { x with snapJobs := x.jobs })
    setFlag F.cdPerfCtrl_snapBusy true d

/-- Every live and snapshot counter of the die becomes 0 (R107). -/
def zeroPerf (d : Nat) : M s0 Unit := do
  eff (.dropRegs fun r => isPerf r.name && r.i == d)
  each (((← cur).sets.map Prod.fst).filter fun x => x / 40 == d) fun x => modSets x fun y => { y with jobs := [], snapJobs := [] }

/-- CLEAR: ignored while a snapshot is being taken (R107). -/
def perfClear (d : Nat) : M s0 Unit := do
  whenM ((← cur).flag F.cdPerfCtrl_snapBusy d = false) (zeroPerf d)

/-- `PERF_SNAP` (R107). -/
def execPerfSnap (d : Nat) (s : State) : Outcome :=
  M.go s (atReg ⟨.cdPerfCtrl, d, 0, 0⟩ (perfSnap d))

/-- `PERF_SNAP_DONE` (R107). -/
def execPerfSnapDone (d : Nat) (s : State) : Outcome :=
  M.go s (whenM (s.flag F.cdPerfCtrl_snapBusy d) (setFlag F.cdPerfCtrl_snapBusy false d))

/-- `PERF_CLEAR` (R107). -/
def execPerfClear (d : Nat) (s : State) : Outcome :=
  M.go s (atReg ⟨.cdPerfCtrl, d, 0, 0⟩ (perfClear d))

end Sys2Proof.Machine
end

