-- ==== Sys2Proof/Machine/Tier.lean ====
section
/-!
DEFINITION. The memory tiers' own commands (chapter 06): promotion of old requests (R177), merge time-outs (R186), the
scrubber (R188, R189), stack parity (R193, R195), channel failure and map-out (R197 to R203, R467).
-/
namespace Sys2Proof.Machine

variable {s0 : State}

/-! ### Requests and merge entries -/

/-- The age limit of a target's BULK requests; 0 disables it (R204). -/
def State.bulkAge (s : State) (t : Nat) : Nat := if t < 12 then s.fld F.stkArbCfg_bulkAgeUs t else s.fld F.dtArbCfg_bulkAgeUs

/-- The BULK packets of a partition that have waited on a target longer than the age limit and have not been promoted there,
the longest wait first. -/
def State.promotable (s : State) (t part : Nat) : List (Nat × Pkt) :=
  sortBy (fun a b : Nat × Pkt => decide (a.2.waitsSince t s.now ≤ b.2.waitsSince t s.now))
    ((s.waitersOn t part).filter fun e => !e.2.latency && !e.2.promoted.contains t &&
      decide (e.2.waitsSince t s.now + s.bulkAge t < s.now))

/-- The callers' reads, which are BULK, likewise (R176). -/
def State.promotableReads (s : State) (t part : Nat) : List (Nat × Queue) :=
  sortBy (fun a b : Nat × Queue => decide (a.2.waitsSince t s.now ≤ b.2.waitsSince t s.now))
    ((s.queuesOn t part).filter fun e => !e.2.promoted.contains t && decide (e.2.waitsSince t s.now + s.bulkAge t < s.now))

/-- A BULK packet of the partition has waited on the target longer than the age limit. -/
def State.oldBulk (s : State) (t part : Nat) : Bool := !(s.promotable t part).isEmpty

/-- `BULK_AGE_PROMOTE` (R177): the request that has waited longest moves up to the first step. -/
def execBulkAgePromote (target part : Nat) (s : State) : Outcome :=
  M.go s (whenM (target ≤ 12 ∧ part < 16 ∧ s.bulkAge target ≠ 0) do
    let promote (c : Nat) (p : Pkt) : M _ Unit := modPkt c p.id fun x => { x with promoted := x.promoted ++ [target] }
    let promoteReads (k : Nat) : M _ Unit := modQue k fun x => { x with promoted := x.promoted ++ [target] }
    match s.promotable target part, s.promotableReads target part with
    | (c, p) :: _, (k, x) :: _ =>
      if x.waitsSince target s.now < p.waitsSince target s.now then promoteReads k else promote c p
    | (c, p) :: _, [] => promote c p
    | [], (k, _) :: _ => promoteReads k
    | [], [] => pure ())

/-- `MERGE_TIMEOUT` (R186). -/
def execMergeTimeout (gran : Nat) (s : State) : Outcome :=
  M.go s (writeOutAll (s.merges.filter fun m => m.gran == gran))

/-! ### Places (R199) -/

/-- The logical block that a physical block of a live unit holds. -/
def unplace (t dead r u : Nat) : Nat × Nat :=
  let ds := deadUnits t dead
  if r < liveRows t dead ∨ ds = [] then (r, u)
  else
    let live := (List.range (unitsPerRow t)).filter fun x => !ds.contains x
    let j := (r - liveRows t dead) * live.length + live.idxOf u
    (j / ds.length, ds.getD (j % ds.length) 0)

/-- The address of a logical block. -/
def blockAddr (t r u : Nat) : Nat := targetBase t + (r * unitsPerRow t + u) * blockBytes t

/-- Granules of one block. -/
def blockGrans (t : Nat) : Nat := blockBytes t / 64

/-- Units of one channel, and its granules (R170, R171). -/
def chanUnits (t c : Nat) : List Nat := if t < 12 then [2 * c, 2 * c + 1] else [c]
def chanGrans (t : Nat) : Nat := tierRows t * (if t < 12 then 2 else 1) * blockGrans t

/-- The granule number (address / 64) at physical position i of a channel. -/
def State.granOf (s : State) (t c i : Nat) : Nat :=
  let us := chanUnits t c
  let perRow := us.length * blockGrans t
  let (r, u) := unplace t (s.dead t) (i / perRow) (us.getD (i / blockGrans t % us.length) 0)
  blockAddr t r u / 64 + i % blockGrans t

/-- A channel's location in a record (R470). -/
def chanLoc (t c : Nat) : Nat := if t < 12 then t * 32 + 2 * c else 384 + c

/-- The channel exists and its target works. -/
def State.chanUp (s : State) (t c : Nat) : Bool :=
  decide (t ≤ 12) && decide (c < 16) && !s.tier.absent.contains t &&
    !(if t < 12 then s.inReset (.stack t) else s.inReset .deep)

/-! ### The scrubber (R188, R189) -/

/-- The scrubber's position in a channel. -/
def State.scrubPos (s : State) (t c : Nat) : Nat :=
  if t < 12 then s.fld F.stkScrubStatus_pos t c else Tab.get 0 s.tier.deepPos c

/-- The position moves on; after the last granule the lap ends and the next begins (R189). -/
def scrubOn (t c : Nat) : M s0 Unit := do
  let s ← cur
  let i := s.scrubPos t c + 1
  let next := if i = chanGrans t then 0 else i
  setCh F.stkScrubStatus_pos F.dtScrubStatus_pos next t c
  modTier fun x => { x with deepPos := if t < 12 then x.deepPos else Tab.put 0 x.deepPos c next }
  if next = 0 then
    setCh F.stkScrubLastLapUs_us F.dtScrubLastLapUs_us (s.now - s.ch F.stkScrubLapStart_time F.dtScrubLapStart_time t c) t c
    setCh F.stkScrubLapStart_time F.dtScrubLapStart_time s.now t c
    modTier fun x => { x with alarmed := x.alarmed.filter (· != t * 16 + c) }

/-- The first lap of a channel starts at its first granule (R189). -/
def startLap (t c : Nat) : M s0 Unit := do
  let s ← cur
  if s.tier.laps.contains (t * 16 + c) = false then
    setCh F.stkScrubLapStart_time F.dtScrubLapStart_time s.now t c
    modTier fun x => { x with laps := x.laps ++ [t * 16 + c] }

/-- One granule is read, decoded and corrected (R183, R188); in a sealed row it is rebuilt (R195). -/
def scrubGran (g : Nat) : M s0 Unit := do
  let s ← cur
  if s.merges.any (fun m => m.gran == g) || s.isPoison g then pure ()
  else
    let r ← decodeGran g
    if r.isNone then
      if s.sealed (64 * g) then let _ ← rebuildGran {} g
      else takeUncorrectable {} g

/-- `SCRUB_GRANULE` (R188): in I0 and I1 only (R400). -/
def execScrubGranule (t ch : Nat) (s : State) : Outcome :=
  M.go s (whenM (s.chanUp t ch ∧ s.fld F.pwrStatus_idle ≤ 1 ∧ s.ch F.stkScrubCfg_en F.dtScrubCfg_en t ch = 1 ∧
      s.ch F.stkChState_state F.dtChState_state t ch ≠ 3) do
    startLap t ch
    scrubGran (s.granOf t ch (s.scrubPos t ch))
    scrubOn t ch)

/-- `SCRUB_ALARM` (R189): once a lap, in one that has started. -/
def execScrubAlarm (t ch : Nat) (s : State) : Outcome :=
  M.go s (whenM (s.chanUp t ch ∧ s.tier.laps.contains (t * 16 + ch) = true ∧ s.tier.alarmed.contains (t * 16 + ch) = false ∧
      s.ch F.stkScrubAlarmUs_us F.dtScrubAlarmUs_us t ch < s.now - s.ch F.stkScrubLapStart_time F.dtScrubLapStart_time t ch) do
    setCh F.stkScrubStatus_alarm F.dtScrubStatus_alarm 1 t ch
    modTier fun x => { x with alarmed := x.alarmed ++ [t * 16 + ch] }
    errRecord { kind := 0x22, sev := 1, source := 2, loc := chanLoc t ch })

/-! ### Stack parity (R192 to R196) -/

/-- A map-out is pending. -/
def State.mapPending (s : State) : Bool :=
  s.flag F.dtMapStatus_pending || stackList.any fun n => s.flag F.stkMapStatus_pending n

/-- GO of HB_PARITY_CMD (R193). -/
def parityGo (lift : Bool) (first last : Nat) : M s0 Unit := do
  let s ← cur
  setF F.hbParityCmd_op (b2n lift)
  setF F.hbParityCmd_firstRow first
  setF F.hbParityCmd_lastRow last
  let f := first % 2 ^ 15
  let l := last % 2 ^ 15
  if s.tier.parity.isSome ∨ s.mapPending ∨ l < f ∨ 24575 < l then setFlag F.hbParityStatus_refused true
  else
    setFlag F.hbParityStatus_busy true
    setF F.hbParityStatus_row f
    modTier fun x => { x with parity := some (lift, f, l) }
    writeOutAll (s.merges.filter fun m =>
      decide (targetOf (64 * m.gran) < 12) && decide (f ≤ rowOf (64 * m.gran)) && decide (rowOf (64 * m.gran) ≤ l))

/-- `PARITY_SEAL` (R193). -/
def execParitySeal (first last : Nat) (s : State) : Outcome :=
  M.go s (atReg ⟨.hbParityCmd, 0, 0, 0⟩ (parityGo false first last))

/-- `PARITY_UNSEAL` (R193). -/
def execParityUnseal (first last : Nat) (s : State) : Outcome :=
  M.go s (atReg ⟨.hbParityCmd, 0, 0, 0⟩ (parityGo true first last))

/-- Granule offsets of the rows f to l that hold something in some stack; elsewhere the parity of zeros is zero. -/
def State.usedOffsets (s : State) (f l : Nat) : List Nat :=
  let all : List Nat := (s.mem.map fun e => e.1 / 64) ++ s.chk.map Prod.fst
  let here := all.filter fun g =>
    decide (targetOf (64 * g) < 12) && decide (f ≤ rowOf (64 * g)) && decide (rowOf (64 * g) ≤ l)
  (here.map (· % 2 ^ 30)).eraseDups

/-- The XOR of the granules at an offset over a list of stacks, as the seal reads them: a granule of a row already sealed is
rebuilt where it cannot be read; another is poisoned, and what the parity then holds is not stated (log entry 8). -/
def sealSum (o : Nat) : List Nat → M s0 (List Byte)
  | [] => pure zeroGran
  | n :: ns => do
    let g := peerGran o n
    let d ← decodeNow g
    let mine ← match d with
      | some bs => pure bs
      | none => do
        if (← cur).sealed (64 * g) then
          let r ← rebuildGran {} g
          match r with
          | some bs => pure bs
          | none => freeBytes 64
        else freeBytes 64
    let rest ← sealSum o ns
    pure (xorBytes mine rest)

/-- The parity granule of an offset is computed and written (R192). -/
def sealOffset (o : Nat) : M s0 Unit := do
  let n := rowOf (64 * o) % 12
  let sum ← sealSum o (stackList.filter (· != n))
  backGran (peerGran o n) sum

/-- The sealed marks of rows f to l (R193). -/
def markRows (on : Bool) (f l : Nat) : M s0 Unit :=
  each ((List.range (l / 64 + 1 - f / 64)).map (f / 64 + ·)) fun w => do
    let m := maskOf (min 63 (l - 64 * w)) (f - 64 * w)
    let v := (← cur).fld F.hbParityMap_map w
    setF F.hbParityMap_map (if on then v ||| m else v &&& (2 ^ 64 - 1 - m)) w

/-- `PARITY_CMD_DONE` (R193): the running command has gone through its rows. -/
def execParityCmdDone (s : State) : Outcome :=
  M.go s (match s.tier.parity with
    | some (lift, f, l) => do
      if !lift then each (s.usedOffsets f l) sealOffset
      markRows (!lift) f l
      modTier fun x => { x with parity := none }
      setF F.hbParityStatus_row (l + 1)
      setFlag F.hbParityStatus_busy false
      setFlag F.hbParityStatus_done true
    | none => pure ())

/-- `PARITY_REBUILD` (R195): of a granule in a sealed row that is uncorrectable, or whose channel is FAILING or MAPPING. -/
def execParityRebuild (dpa : Nat) (s : State) : Outcome :=
  M.go s (whenM (s.sealed dpa ∧ (decode (s.devAt (dpa / 64)) = .bad ∨ s.chanState dpa = 1 ∨ s.chanState dpa = 2))
    (do let _ ← rebuildGran {} (dpa / 64)))

/-! ### Channels that fail (R197, R198, R467) -/

/-- A channel's unit reads CHANNEL and leaves near mode; it stays counted in FEAT_GALLIARD until the map-out (R197, R201,
R235). -/
def channelUnit (n p : Nat) : M s0 Unit := do
  let s ← cur
  modUnits (uKey n p) fun x => { x with gone := s.unitService n p != 0, outDue := false, test := false, ret := false }
  setF F.galUnitState_service 3 n p
  if s.unitMode n p = 2 then startExit n p
  else if s.unitMode n p = 1 then becomeNormal n p

/-- A stack is LOST (R467): FEAT_STACKS and FEAT_GALLIARD change, FEAT_STACK_BYTES keeps its bytes (DEDUCED, log entry 39). -/
def stackLost (n : Nat) : M s0 Unit := do
  modTier fun x => { x with lost := x.lost ++ [n] }
  logRetire 6 n true
  each (List.range 32) fun p => do
    let s ← cur
    if s.unitService n p = 3 then
      if !(s.unitsAt (uKey n p)).gone then featSet F.featGalliard_value (s.fld F.featGalliard_value - 1)
      modUnits (uKey n p) fun x => { x with gone := true }
    else
      if s.unitService n p = 0 then featSet F.featGalliard_value (s.fld F.featGalliard_value - 1)
      channelUnit n p
      modUnits (uKey n p) fun x => { x with gone := true }
  featSet F.featStacks_value (setBits ((← cur).fld F.featStacks_value) n n 0)
  errRecord { kind := 0x21, sev := 2, source := 2, loc := n * 32 }

/-- Channels of a target that are not GOOD. -/
def State.badChans (s : State) (t : Nat) : Nat :=
  ((List.range 16).filter fun c => s.ch F.stkChState_state F.dtChState_state t c != 0).length

/-- A GOOD channel becomes FAILING (R198); the fifth of a stack loses the stack (R467). -/
def channelFail (t c : Nat) : M s0 Unit := do
  setCh F.stkChState_state F.dtChState_state 1 t c
  errRecord { kind := 0x21, sev := 2, source := 2, loc := chanLoc t c }
  if t < 12 then
    each (chanUnits t c) (channelUnit t)
    let s ← cur
    if 5 ≤ s.badChans t ∧ s.tier.lost.contains t = false then stackLost t

/-- A GOOD channel becomes FAILING (R198). -/
def failGo (t ch : Nat) : M s0 Unit := do
  let s ← cur
  whenM (s.chanUp t ch ∧ s.ch F.stkChState_state F.dtChState_state t ch = 0) (channelFail t ch)

/-- Uncorrectable errors of a channel in the last 24 hours, injected ones left out (R190, R198), which UE_LIMIT bounds. -/
def State.recentUes (s : State) (t c : Nat) : Nat :=
  (s.tier.ueTimes.filter fun e => e.1 == t * 16 + c && decide (s.now < e.2 + 86400000000)).length

/-- UE_LIMIT of a target; 0 disables the count (R204). -/
def State.ueLimit (s : State) (t : Nat) : Nat := if t < 12 then s.fld F.stkMapoutCfg_ueLimit t else s.fld F.dtMapoutCfg_ueLimit

/-- A channel's uncorrectable count has reached its limit (R198). -/
def State.ueReached (s : State) (t c : Nat) : Bool := s.ueLimit t != 0 && decide (s.ueLimit t ≤ s.recentUes t c)

/-- `CHANNEL_FAIL` (R198): by a write of FAIL, or by the count that UE_LIMIT bounds. -/
def execChannelFail (k : Nat) (byCount : Bool) (s : State) : Outcome :=
  M.go s (
    let t := k / 16
    let ch := k % 16
    if byCount then whenM (s.ueReached t ch) (failGo t ch)
    else atReg ⟨if t < 12 then .stkChState else .dtChState, if t < 12 then t else ch, if t < 12 then ch else 0, 0⟩ (failGo t ch))

/-! ### Map-out (R199 to R203) -/

/-- The group of a target's map. -/
def mapGroup (t : Nat) : Group := if t < 12 then .stkMap t else .dtMap

/-- DEAD as the pending commit has it, and the channels it adds. -/
def State.newDead (s : State) (t : Nat) : Nat := if t < 12 then s.fld F.stkMapDead_dead t else s.fld F.dtMapDead_dead
def State.addedChans (s : State) (t : Nat) : List Nat := bitList 16 (s.newDead t ^^^ s.dead t)

/-- A logical block stays addressable and its physical home changes. -/
def movesBlock (t old new r u : Nat) : Bool := decide (r < liveRows t new) && place t old r u != place t new r u

/-- Blocks that move: every block of a unit newly dead, and blocks of units dead before whose home changes (R201, R202). -/
def blocksToMove (t old new : Nat) : Nat :=
  let before := deadUnits t old
  liveRows t new * ((deadUnits t new).length - before.length) +
    (before.map fun u => ((List.range (liveRows t new)).filter fun r => place t old r u != place t new r u).length).foldl (· + ·) 0

/-- MAPOUT_PROGRESS of a target. -/
def setProgress (t total done : Nat) : M s0 Unit :=
  if t < 12 then do
    setF F.stkMapoutProgress_total total t
    setF F.stkMapoutProgress_done done t
  else do
    setF F.dtMapoutProgress_total total
    setF F.dtMapoutProgress_done done

/-- `MAPOUT_START` (R201 beats 1 and 2). -/
def execMapoutStart (t : Nat) (s : State) : Outcome :=
  M.go s (whenM (s.tier.mapWait.contains t ∧ s.tier.mapRun = [] ∧ s.tier.parity = none) do
    modTier fun x => { x with mapWait := x.mapWait.filter (· != t), mapRun := [t] }
    each (s.addedChans t) fun c => setCh F.stkChState_state F.dtChState_state 2 t c
    setProgress t (blocksToMove t (s.dead t) (s.newDead t)) 0)

/-- The granules of mutable rows whose move finds something: those with a deviation or with an open merge entry, which a
read writes out (R186), and whose home changes. -/
def State.movedMutable (s : State) (t old new : Nat) : List Nat :=
  ((s.chk.map Prod.fst ++ s.merges.map Merge.gran).filter fun g =>
    targetOf (64 * g) == t && !s.sealed (64 * g) && movesBlock t old new (rowOf (64 * g)) (unitOf (64 * g))).eraseDups

/-- The sealed rows. -/
def State.sealedRows (s : State) : List Nat :=
  (List.range 384).flatMap fun w => (bitList 64 (s.fld F.hbParityMap_map w)).map (64 * w + ·)

/-- The granules of sealed rows whose home changes; each of them is rebuilt (R195, R201). -/
def State.movedSealed (s : State) (t old new : Nat) : List Nat :=
  if t < 12 then s.sealedRows.flatMap fun r => ((List.range 32).filter (movesBlock t old new r)).flatMap fun u =>
    (List.range 1024).map (blockAddr t r u / 64 + ·)
  else []

/-- One granule is moved: rebuilt in a sealed row, else read, and poisoned where it cannot be (R201 beat 3). -/
def moveGran (g : Nat) : M s0 Unit := do
  if (← cur).sealed (64 * g) then let _ ← rebuildGran {} g
  else let _ ← decodeNow g

/-- Rows that leave the address space lose their content (R201). -/
def loseRows (a b : Nat) : M s0 Unit := do
  let s ← cur
  eff (.dropMem fun x => decide (a ≤ x) && decide (x < b))
  each ((s.chk.map Prod.fst).filter fun g => decide (a ≤ 64 * g) && decide (64 * g < b)) fun g => eff (.chk g 0)
  modMerges fun ms => ms.filter fun m => !(decide (a ≤ 64 * m.gran) && decide (64 * m.gran < b))
  modInjected fun l => l.filter fun g => !(decide (a ≤ 64 * g) && decide (64 * g < b))

/-- A channel is MAPPED; its units leave FEAT_GALLIARD (R201 beat 6), each a change of its own (R77; DEDUCED, log entry 68). -/
def channelMapped (t c : Nat) : M s0 Unit := do
  setCh F.stkChState_state F.dtChState_state 3 t c
  logRetire 5 (t * 16 + c) true
  if t < 12 then
    each (chanUnits t c) fun p => do
      let s ← cur
      if !(s.unitsAt (uKey t p)).gone then
        featSet F.featGalliard_value (s.fld F.featGalliard_value - 1)
        modUnits (uKey t p) fun x => { x with gone := true }
  errRecord { kind := 0x21, sev := 2, source := 2, loc := chanLoc t c }

/-- The target switches to the new placement (R201 beats 3 to 6). -/
def switchMap (t : Nat) : M s0 Unit := do
  let s ← cur
  let old := s.dead t
  let new := s.newDead t
  let total := blocksToMove t old new
  each (s.movedMutable t old new ++ s.movedSealed t old new) moveGran
  let before := s.capacity t
  applyGroup (mapGroup t)
  let after := (← cur).capacity t
  loseRows (targetBase t + after) (targetBase t + before)
  setProgress t total total
  modTier fun x => { x with mapRun := [] }
  each (bitList 16 (new ^^^ old)) (channelMapped t)
  if t < 12 then featSet F.featStackBytes_value ((← cur).fld F.featStackBytes_value - (before - after))
  else featSet F.featDeepBytes_value ((← cur).fld F.featDeepBytes_value - (before - after))

/-- `MAPOUT_SWITCH` (R201). -/
def execMapoutSwitch (t : Nat) (s : State) : Outcome := M.go s (whenM (s.tier.mapRun = [t]) (switchMap t))

end Sys2Proof.Machine
end

