-- ==== Sys2Proof/Machine/Keys.lean ====
section
/-!
DEFINITION. The identity key's signature state (R421 to R427): taking one signature, raising the ceiling, bottom trees, the
node cache. The signatures' bits are the key's and are verdicts elsewhere (log entry 7).
-/
namespace Sys2Proof.Machine

variable {s0 : State}

/-- The life-cycle state that LC_FUSES decode to (R432). -/
def lcOf (fuses : Nat) : Nat := if fuses = 0 then 0 else if fuses = 1 then 1 else if fuses = 3 then 2 else if fuses = 7 then 3 else 4

/-- The life-cycle state: 0 BLANK, 1 PROVISIONED, 2 SECURED, 3 RETURN, 4 SCRAPPED. -/
def State.lc (s : State) : Nat := lcOf s.sec.fuses

/-- Entries of a block's ceiling log: 16 bytes each from 0x8800 to 0xFFFF (R423). -/
def ceilLogSize : Nat := 1920

/-- The signature registers follow the state (R453). -/
def refreshSig : M s0 Unit := do
  let s ← cur
  setF F.secSigNext_index s.sec.next
  setF F.secSigCeil_index s.sec.ceil

/-- The identity key signs now: the state signs, the cache is rebuilt, the next index exceeds LAST, lies below CEIL, its
bottom tree is built, and no 64 signatures were made in the last second (R424 to R427, R432). -/
def State.canSign (s : State) : Bool :=
  (s.lc == 1 || s.lc == 2) && s.sec.seed == 1 && s.sec.cached && decide (s.sec.used ≤ s.sec.next) &&
    decide (s.sec.next < s.sec.ceil) && s.sec.trees.contains (s.sec.next / 2 ^ 20) &&
    (decide (s.sec.signed.length < 64) || decide (s.sec.signed.headD 0 + 1000000 ≤ s.now))

/-- The ceiling is raised when at most 256 indices are left below it (R424). -/
def Sec.raised (x : Sec) : Sec :=
  if x.seed = 1 ∧ x.raising.isNone ∧ x.ceil ≤ x.next + 256 then { x with raising := some (x.ceil + 1024) } else x

/-- The next index is the confirmed ceiling, and the node cache is to be rebuilt (R424, R425). -/
def Sec.restarted (x : Sec) : Sec := ({ x with next := x.ceil, cached := false } : Sec).raised

/-- One signature: its index is used, and the ceiling is raised when 256 are left (R424, R427). -/
def takeSignature : M s0 Unit := do
  let s ← cur
  let n := s.sec.next + 1
  let last := s.sec.signed.drop (s.sec.signed.length - 63) ++ [s.now]
  modSec fun x => ({ x with used := n, next := n, signed := last } : Sec).raised
  bump F.secSigCount_count 1
  refreshSig

/-- `CEILING_CONFIRM` (R424, R426): the programmed entry is read back, and is right, or is not and is programmed again. A full
log moves to the other block. -/
def execCeilingConfirm (ok : Bool) (s : State) : Outcome :=
  M.go s (match s.sec.raising with
    | some c => do
      if ok then
        modSec fun x =>
          if x.sigLog.length < ceilLogSize then { x with ceil := c, raising := none, sigLog := x.sigLog ++ [c] }
          else { x with ceil := c, raising := none, sigBlock := 1 - x.sigBlock, sigSeq := x.sigSeq + 1, sigLog := [x.ceil, c] }
        refreshSig
    | none => pure ())

/-- `BOTTOM_TREE_BUILT` (R425): tree q0 + 1, once q1 has passed 2^19, or tree q0 where the indices reached it first; it is
written as the next block. -/
def execBottomTreeBuilt (s : State) : Outcome :=
  M.go s (
    let q0 := s.sec.next / 2 ^ 20
    let ahead := decide (2 ^ 19 < s.sec.next % 2 ^ 20) && !s.sec.trees.contains (q0 + 1)
    whenM (s.sec.seed = 1 ∧ (ahead || !s.sec.trees.contains q0)) do
      modSec fun x => { x with trees := x.trees ++ [if ahead then q0 + 1 else q0], sigBlock := 1 - x.sigBlock,
                               sigSeq := x.sigSeq + 1, sigLog := [x.ceil] })

/-- `NODE_CACHE_REBUILD` (R425): after a reset whose reach covers the monitor. -/
def execNodeCacheRebuild (s : State) : Outcome :=
  M.go s (whenM (s.sec.cached = false ∧ s.sec.seed = 1 ∧ s.rst.closed.contains .hub = false)
    (modSec fun x => { x with cached := true }))

/-! ### Evidence (R430) -/

/-- A number in the big-endian form of RFC 8554. -/
def u32str (n : Nat) : List Byte := (toBytes 4 n).reverse

/-- The identity key's 60-byte public key (R421). -/
def publicKey (idI : List Byte) : List Byte :=
  u32str 2 ++ u32str 8 ++ u32str 4 ++ idI ++ (List.range 32).map (Config.identityRoot idI)

/-- The signature of one level at leaf q, 1,772 bytes, from what is hashed in it (R421). -/
def levelSignature (q : Nat) (y : Nat → Byte) : List Byte :=
  u32str q ++ u32str 4 ++ (List.range 1120).map y ++ u32str 8 ++ (List.range 640).map fun i => y (1120 + i)

/-- A signature over a message at an index: 3,604 bytes (R421, R422). -/
def signatureBytes (index : Nat) (m : List Byte) : List Byte :=
  let q0 := index / 2 ^ 20
  u32str 1 ++ levelSignature q0 (Config.topSignature q0) ++
    (u32str 8 ++ u32str 4 ++ (List.range 48).map (Config.bottomTree q0)) ++
    levelSignature (index % 2 ^ 20) (Config.signature index m)

/-- The option record in force (R409). -/
def State.optionBytes (s : State) : List Byte := wordBytes ((List.range 32).map fun i => s.fld F.rstOptRecord_word i)

/-- The identity digest (R421). -/
def State.idDigest (s : State) : List Byte := wordBytes ((List.range 4).map fun i => s.fld F.secIdDigest_digest i)

/-- An image's part of the evidence: REV, SVN and digest. -/
def Image.evidence (m : Image) : List Byte :=
  toBytes 4 m.rev ++ toBytes 4 m.svn ++ (m.digest ++ List.replicate 32 0).take 32

/-- The evidence's body (R430). -/
def State.evidence (s : State) (nonce extra : List Byte) : List Byte :=
  toBytes 4 0x4E474556 ++ toBytes 4 1 ++ nonce ++ toBytes 2 (s.fld F.fabNode_node) ++ [0, 0] ++
  [BitVec.ofNat 8 s.lc, BitVec.ofNat 8 (s.fld F.secDbgStatus_level), BitVec.ofNat 8 (s.fld F.secDbgStatus_inject), 0] ++
  s.idDigest ++ toBytes 8 s.now ++ toBytes 4 (s.fld F.rstHubEpoch_epoch) ++ toBytes 4 (s.fld F.featGen_value) ++
  ((List.range 6).flatMap fun k => (s.sec.images.getD k {}).evidence) ++ sha256 s.optionBytes ++ extra ++
  List.replicate 16 0

/-- Evidence signed at the next index. -/
def signedEvidence (nonce extra : List Byte) : M s0 (List Byte) := do
  let s ← cur
  let body := s.evidence nonce extra
  takeSignature
  pure (body ++ signatureBytes s.sec.next body)

/-- The certificate chain in flash at 0x10_0000: a count and that many certificates of 3,796 bytes (R428, R429). -/
def State.flashBytes (s : State) (a n : Nat) : List Byte := (List.range n).map fun i => Map.get flashDefault s.flash (a + i)
def State.chainBytes (s : State) : List Byte :=
  let n := min 4 (ofBytes (s.flashBytes 0x100000 4))
  s.flashBytes 0x100000 (4 + 3796 * n)

/-- What R429 asks of the chain in flash beside its signatures and its root's digest: 2 to 4 certificates, each naming the
next as its issuer, a root last, the identity key first with USAGE bit 3. -/
def State.chainFits (s : State) : Bool :=
  let n := ofBytes (s.flashBytes 0x100000 4)
  let part (i off len : Nat) : List Byte := s.flashBytes (0x100004 + 3796 * i + off) len
  decide (2 ≤ n) && decide (n ≤ 4) &&
    (List.range n).all (fun i => ofBytes (part i 0 4) == 0x4E474354 && ofBytes (part i 4 2) == 1 &&
      part i 16 32 == sha256 (part (min (i + 1) (n - 1)) 48 60)) &&
    part (n - 1) 6 1 == [0] && part 0 48 60 == publicKey s.sec.idI && bit (ofBytes (part 0 108 4)) 3

end Sys2Proof.Machine
end

