-- ==== Sys2Proof/Machine/Frames.lean ====
section
/-!
DEFINITION. Fabric frames (R336 to R346, R350, R361): their layout, sending with sequence numbers and encryption, the checks
of a received frame in their order, acknowledgements, injection.
-/
namespace Sys2Proof.Machine

variable {s0 : State}

/-! ### Ports and peers -/

/-- The port carries frames. -/
def State.portUp (s : State) (p : Nat) : Bool :=
  s.flag F.fabPortCtrl_en p && s.flag F.fabPortStatus_up p && !s.inReset (.port p)

/-- A peer's state: 0 IDLE, 1 HANDSHAKE, 2 ADMITTED, 3 REFUSED, 4 LOST (R362). -/
def State.peerState (s : State) (i : Nat) : Nat := s.fld F.fabPeerState_state i

/-- A peer. -/
def State.peer (s : State) (i : Nat) : Peer := Tab.get {} s.fab.peers i

/-- A peer changed by a function. -/
def modPeer (i : Nat) (f : Peer → Peer) : M s0 Unit := modFab fun x => { x with peers := Tab.put {} x.peers i (f (Tab.get {} x.peers i)) }

/-- The ports that reach a peer and are up. -/
def State.txPorts (s : State) (i : Nat) : List Nat := (bitList 48 (s.peer i).ports).filter s.portUp

/-- The port of a peer's next frame: the first up at or after its turn (R341, round-robin). -/
def State.nextPort (s : State) (i : Nat) : Option Nat :=
  let ps := s.txPorts i
  match ps.find? fun p => (s.peer i).turn ≤ p with
  | some p => some p
  | none => ps.head?

/-- Largest payload (R339). -/
def State.maxPayload (s : State) : Nat := if s.flag F.fabCfg_jumbo then 8192 else 4096

/-- The node's IP address, bytes 0 to 15 in network order (R362). -/
def State.nodeIp (s : State) : List Byte := toBytesBE 8 (s.fld F.fabNodeIpHi_ip) ++ toBytesBE 8 (s.fld F.fabNodeIpLo_ip)

/-! ### Frame layout (R339, R340) -/

/-- The ones'-complement sum of 16-bit words (RFC 1071). -/
def onesSum (bs : List Byte) : Nat :=
  let t := ((piecesOf 2 bs).map fun p => ofBytesBE (p ++ List.replicate (2 - p.length) 0)).foldl (· + ·) 0
  let fold (x : Nat) : Nat := x % 65536 + x / 65536
  fold (fold (fold t))

/-- The pseudo-header of UDP under IPv6 (RFC 8200). -/
def pseudo6 (src dst : List Byte) (len : Nat) : List Byte := src ++ dst ++ toBytesBE 4 len ++ [0, 0, 0, 17]

/-- The UDP datagram: its checksum is 0 under IPv4, computed under IPv6. -/
def udpOf (v6 : Bool) (src dst : List Byte) (sport dport : Nat) (body : List Byte) : List Byte :=
  let len := 8 + body.length
  let hdr (ck : Nat) : List Byte := toBytesBE 2 sport ++ toBytesBE 2 dport ++ toBytesBE 2 len ++ toBytesBE 2 ck
  let ck := 65535 - onesSum (pseudo6 src dst len ++ hdr 0 ++ body)
  hdr (if v6 then (if ck = 0 then 65535 else ck) else 0) ++ body

/-- The IPv4 or IPv6 packet around a datagram: ECN is ECT(0), TTL 64, DF set (R339). -/
def ipOf (v6 : Bool) (dscp : Nat) (src dst datagram : List Byte) : List Byte :=
  let tc := dscp * 4 + 2
  if v6 then
    toBytesBE 4 (0x60000000 + tc * 2 ^ 20) ++ toBytesBE 2 datagram.length ++ [17, 64] ++ src ++ dst ++ datagram
  else
    let hdr (ck : Nat) : List Byte :=
      [0x45, BitVec.ofNat 8 tc] ++ toBytesBE 2 (20 + datagram.length) ++ [0, 0, 0x40, 0, 64, 17] ++ toBytesBE 2 ck ++
        src.drop 12 ++ dst.drop 12
    hdr (65535 - onesSum (hdr 0)) ++ datagram

/-- The Ethernet header (R339). -/
def State.etherOf (s : State) (p : Nat) : List Byte :=
  toBytesBE 6 (s.fld F.fabPortGwMac_mac p) ++ toBytesBE 6 (s.fld F.fabPortMac_mac p) ++
  (if s.flag F.fabPortCtrl_vlanEn p then
    [0x81, 0x00] ++ toBytesBE 2 (s.fld F.fabPortCtrl_pcp p * 2 ^ 13 + s.fld F.fabPortCtrl_vlanId p) else []) ++
  (if s.flag F.fabPortCtrl_encap p then [0x86, 0xDD] else [0x08, 0x00])

/-- A whole frame from a port to an IP address, with its FCS. -/
def State.frameOf (s : State) (p : Nat) (dst : List Byte) (sport : Nat) (body : List Byte) : List Byte :=
  let v6 := s.flag F.fabPortCtrl_encap p
  let f := s.etherOf p ++ ipOf v6 (s.fld F.fabPortCtrl_dscp p) s.nodeIp dst
    (udpOf v6 s.nodeIp dst sport (s.fld F.fabCfg_udpPort) body)
  f ++ toBytes 4 (crc32 f)

/-- The bytes of a frame before its transport header. -/
def State.headBytes (s : State) (p : Nat) : Nat :=
  (if s.flag F.fabPortCtrl_vlanEn p then 18 else 14) + (if s.flag F.fabPortCtrl_encap p then 40 else 20) + 8

/-- Types whose payload is encrypted: 0 to 3 and 8. -/
def encrypted (type : Nat) : Bool := decide (type ≤ 3) || type == 8

/-- Types that carry a sequence number of the flow: DATA, CREDIT and HOLD (log entry 40). -/
def numbered (type : Nat) : Bool := type == 0 || type == 2 || type == 3

/-- TYPE and LEN of H0. -/
def hType (h : Nat) : Nat := bits h 59 56
def hLen (h : Nat) : Nat := bits h 13 0

/-- The nonce of a frame under the pair key (R350). -/
def frameNonce (src txSeq : Nat) : List Byte := toBytes 2 src ++ [0, 0] ++ toBytes 8 txSeq

/-! ### Injection (R361) -/

/-- A byte of a list with bit 0 inverted. -/
def flipByte (bs : List Byte) (i : Nat) : List Byte := bs.take i ++ ((bs.drop i).take 1).map (· ^^^ 1) ++ bs.drop (i + 1)

/-- A chosen frame corrupted: the payload byte the LFSR points at; the FCS recomputed or kept. -/
def State.corrupted (s : State) (p l : Nat) (frame : List Byte) : List Byte :=
  let at_ := s.headBytes p
  let n := hLen (wordAt (frame.drop at_) 0)
  if n = 0 then frame
  else
    let f := flipByte frame (at_ + 64 + l % n)
    if s.flag F.fabInjCtrl_fcsKeep p then f
    else
      let body := f.take (f.length - 4)
      body ++ toBytes 4 (crc32 body)

/-- Frames of a port and direction that are still held count one more frame; those whose turn has come are let go. -/
def passHeld (p : Nat) (rx : Bool) (go : List Byte → M s0 Unit) : M s0 Unit := do
  let hs := (← cur).fab.held
  let mine (h : HeldFrame) : Bool := h.port == p && h.rx == rx
  let rest := (hs.map fun h => if mine h then { h with left := h.left - 1 } else h).filter fun h => !(mine h && h.left == 0)
  modFab fun x => { x with held := rest }
  each (hs.filter fun h => mine h && h.left == 1) fun h => go h.frame

/-- A frame that passes a port in a direction meets the port's injection, and goes on by `go` where it does. -/
def inject (p : Nat) (rx : Bool) (frame : List Byte) (go : List Byte → M s0 Unit) : M s0 Unit := do
  let s ← cur
  if s.flag F.fabInjCtrl_arm p ∧ s.flag F.fabInjCtrl_dir p = rx then
    let l := (Config.lfsr (BitVec.ofNat 32 (Tab.get 0 s.fab.lfsr p))).toNat
    modFab fun x => { x with lfsr := Tab.put 0 x.lfsr p l }
    if l % 2 ^ s.fld F.fabInjCtrl_rateLog2 p = 0 then
      let n := Tab.get 0 s.fab.chosen p + 1
      bump F.fabInjFrames_count 1 p
      modFab fun x => { x with chosen := Tab.put 0 x.chosen p n }
      if s.fld F.fabInjCtrl_count p ≤ n then setFlag F.fabInjCtrl_arm false p
      match s.fld F.fabInjCtrl_mode p with
      | 0 => passHeld p rx go
      | 1 => do
        go (s.corrupted p l frame)
        passHeld p rx go
      | _ => do
        passHeld p rx go
        modFab fun x => { x with held := x.held ++ [{ port := p, rx := rx, frame := frame, left := s.fld F.fabInjCtrl_depth p, since := s.now }] }
    else
      go frame
      passHeld p rx go
  else
    go frame
    passHeld p rx go

/-! ### Sending -/

/-- A frame leaves a port. -/
def leavePort (p : Nat) (frame : List Byte) : M s0 Unit := do
  bump F.fabTxFrames_count 1 p
  emit (.frame p frame)

/-- ACK_PSN of a peer: the last PSN below which, itself included, every frame has been received (log entry 40). -/
def Peer.ackPsn (x : Peer) : Nat := (x.rxPsn + 2 ^ 32 - 1) % 2 ^ 32

/-- A frame to a peer on the peer's next port: its header words, its payload, its retransmissions. An encrypted frame takes
the next TXSEQ. Where no port is up nothing leaves. -/
def sendFrame (i : Nat) (hdr : List Nat) (psn : Nat) (body : List Byte) (tries : Nat) : M s0 Unit := do
  let s ← cur
  let x := s.peer i
  match s.nextPort i with
  | none => pure ()
  | some p => do
    let type := hType (nth hdr 0)
    let own := s.fld F.fabNode_node
    let h0 := setBits (setBits (nth hdr 0) 55 55 (if encrypted type then b2n x.epoch else 0)) 13 0 body.length
    let words := [h0, if encrypted type then x.txSeq else 0, psn * 2 ^ 32 + (if encrypted type then x.ackPsn else 0)] ++
      (List.range 5).map fun k => nth hdr (3 + k)
    let aad := wordBytes words
    let cipher := if encrypted type then gcmCrypt x.rx.key (frameNonce own x.txSeq) body else body
    let tag := if encrypted type then gcmTag x.rx.key (frameNonce own x.txSeq) aad cipher else []
    let sport := 0xC000 + (Config.flowHash own x.node + tries) % 0x4000
    modPeer i fun y => { y with turn := p + 1, txSeq := if encrypted type then y.txSeq + 1 else y.txSeq }
    inject p false (s.frameOf p x.ip sport (aad ++ cipher ++ tag)) (leavePort p)

/-- H0 of a frame to a peer. -/
def State.h0 (s : State) (i type : Nat) : Nat :=
  2 ^ 60 + type * 2 ^ 56 + s.fld F.fabNode_node * 2 ^ 32 + (s.peer i).node * 2 ^ 16

/-- The flow to a peer takes another numbered frame (R342). -/
def State.windowOpen (s : State) (i : Nat) : Bool := decide ((s.peer i).unacked.length < 256)

/-- A numbered frame: kept until it is acknowledged (R342). -/
def sendNumbered (i : Nat) (hdr : List Nat) (body : List Byte) : M s0 Unit := do
  let s ← cur
  let psn := (s.peer i).txPsn
  modPeer i fun x => { x with txPsn := (psn + 1) % 2 ^ 32, unacked := x.unacked ++ [{ psn := psn, hdr := hdr, body := body, first := s.now, sent := s.now }] }
  sendFrame i hdr psn body 0

/-- An ACK: the SACK map and CE_COUNT (R340, R342). -/
def sendAck (i : Nat) : M s0 Unit := do
  let s ← cur
  let x := s.peer i
  let map := x.rxBeyond.foldl (fun m q => m ||| 2 ^ ((q + 2 ^ 32 - x.ackPsn - 1) % 2 ^ 32 % 256)) 0
  modPeer i fun y => { y with ackDue := 0, ackSince := none }
  sendFrame i [s.h0 i 1] 0 (toBytes 32 map ++ toBytes 4 x.ce ++ List.replicate 12 0) 0

/-! ### Receiving (R341) -/

/-- A frame whose headers are the A12's own: marked CE, transport header words, payload with its tag. -/
structure Parsed where
  ce : Bool
  words : List Nat
  body : List Byte
  deriving DecidableEq, Repr

/-- The ECN mark and the IP payload of a packet for the A12's own address; none for any other. -/
def State.parseIp (s : State) (v6 : Bool) (bs : List Byte) : Option (Bool × List Byte) :=
  let b (i : Nat) : Nat := (bs.getD i 0).toNat
  let own := s.nodeIp
  if v6 then
    if bs.length < 40 ∨ b 0 / 16 ≠ 6 ∨ ofBytesBE ((bs.drop 4).take 2) ≠ bs.length - 40 ∨ b 6 ≠ 17 ∨
        (bs.drop 24).take 16 ≠ own then none
    else some (b 1 / 16 % 4 == 3, bs.drop 40)
  else
    if bs.length < 20 ∨ b 0 ≠ 0x45 ∨ ofBytesBE ((bs.drop 2).take 2) ≠ bs.length ∨ ofBytesBE ((bs.drop 6).take 2) % 2 ^ 14 ≠ 0 ∨
        b 9 ≠ 17 ∨ onesSum (bs.take 20) ≠ 65535 ∨ (bs.drop 16).take 4 ≠ own.drop 12 then none
    else some (b 1 % 4 == 3, bs.drop 20)

/-- The transport part of a datagram for the A12's own port; none for any other. The checksum is no check of R341: a byte
that CORRUPT inverts fails the GCM tag (R361, log entry 40). -/
def State.parseUdp (s : State) (bs : List Byte) : Option (List Byte) :=
  if bs.length < 8 + 64 ∨ ofBytesBE ((bs.drop 2).take 2) ≠ s.fld F.fabCfg_udpPort ∨ ofBytesBE ((bs.drop 4).take 2) ≠ bs.length then none
  else some (bs.drop 8)

/-- A frame without its FCS read as the A12's own (R341, second check). -/
def State.parseFrame (s : State) (p : Nat) (f : List Byte) : Option Parsed :=
  let vlan := s.flag F.fabPortCtrl_vlanEn p
  let v6 := s.flag F.fabPortCtrl_encap p
  let l2 := if vlan then 18 else 14
  let type := if v6 then 0x86DD else 0x0800
  if f.length < l2 ∨ ofBytesBE (f.take 6) ≠ s.fld F.fabPortMac_mac p ∨
      (vlan ∧ (ofBytesBE ((f.drop 12).take 2) ≠ 0x8100 ∨ ofBytesBE ((f.drop 14).take 2) % 4096 ≠ s.fld F.fabPortCtrl_vlanId p)) ∨
      ofBytesBE ((f.drop (l2 - 2)).take 2) ≠ type then none
  else do
    let (ce, dg) ← s.parseIp v6 (f.drop l2)
    let t ← s.parseUdp dg
    let ws := wordsOf t 8
    let h := nth ws 0
    let body := t.drop 64
    if bits h 63 60 ≠ 1 ∨ 8 < hType h ∨ s.maxPayload < hLen h ∨
        body.length ≠ hLen h + (if encrypted (hType h) then 16 else 0) then none
    else some ⟨ce, ws, body⟩

/-- Entry i of the peer table, its eight words (R347); zeros where it cannot be read. -/
def peerEntry (i : Nat) : M s0 (List Nat) := do
  let s ← cur
  let a := s.fld F.fabPeerBase_dpa * 2 ^ 21 + 64 * i
  if s.backed a then
    let (r, _) ← readGran {} (a / 64)
    pure (wordsOf (r.getD zeroGran) 8)
  else pure (List.replicate 8 0)

/-- The first VALID entry of the peer table that names a node, among the last n of 1,024. -/
def findEntry (node : Nat) : (n : Nat) → M s0 (Option Nat)
  | 0 => pure none
  | n + 1 => do
    let e ← peerEntry (1023 - n)
    if bit (nth e 0) 63 ∧ bits (nth e 0) 15 0 = node then pure (some (1023 - n)) else findEntry node n

/-- The loaded peer of a node: the ADMITTED entry that names it, or another that is not IDLE (R348). -/
def State.loadedPeer (s : State) (node : Nat) : Option Nat :=
  let named := (s.fab.peers.map Prod.fst).filter fun i => s.peerState i != 0 && (s.peer i).node == node
  match named.find? fun i => s.peerState i == 2 with
  | some i => some i
  | none => named.head?

/-- A TXSEQ is refused as a replay: accepted already, or more than 1,024 below the highest accepted (R341). -/
def RxKey.replays (k : RxKey) (n : Nat) : Bool := k.seen.contains n || decide (n + 1025 < k.top)

/-- A TXSEQ accepted. -/
def RxKey.accept (k : RxKey) (n : Nat) : RxKey :=
  let top := max k.top (n + 1)
  { k with top := top, seen := (k.seen ++ [n]).filter fun x => decide (top ≤ x + 1025) }

/-- A PSN received already. -/
def Peer.received (x : Peer) (psn : Nat) : Bool := decide (2 ^ 31 ≤ (psn + 2 ^ 32 - x.rxPsn) % 2 ^ 32) || x.rxBeyond.contains psn

/-- PSNs received beyond the cumulative one close up. -/
def closeGap : (fuel : Nat) → Nat → List Nat → Nat × List Nat
  | 0, n, l => (n, l)
  | fuel + 1, n, l => if l.contains n then closeGap fuel ((n + 1) % 2 ^ 32) (l.filter (· != n)) else (n, l)

/-- A PSN marked as received. -/
def Peer.take (x : Peer) (psn : Nat) : Peer :=
  let (n, l) := closeGap 512 x.rxPsn (x.rxBeyond ++ [psn])
  { x with rxPsn := n, rxBeyond := l }

/-- Frames with a PSN up to ACK_PSN are acknowledged (R342). -/
def Peer.acked (x : Peer) (ack : Nat) : Peer :=
  { x with unacked := x.unacked.filter fun f => !decide ((ack + 2 ^ 32 - f.psn) % 2 ^ 32 < 2 ^ 31) }

/-- A numbered frame's arrival: an ACK at once for a duplicate, beyond a gap, or at the sixteenth DATA frame since the last
(R341, R342). The answer says whether the frame is new. -/
def arrive (p i psn : Nat) (data : Bool) : M s0 Bool := do
  let s ← cur
  let x := s.peer i
  if x.received psn then
    bump F.fabRxDup_count 1 p
    sendAck i
    pure false
  else
    modPeer i fun y => { (y.take psn) with ackDue := y.ackDue + b2n data, ackSince := some (y.ackSince.getD s.now) }
    if psn ≠ x.rxPsn ∨ 16 ≤ x.ackDue + b2n data then sendAck i
    pure true

/-- A frame is delivered. -/
def deliverFrame (i : Nat) (ws : List Nat) (body : List Byte) : M s0 Unit :=
  modFab fun x => { x with inbox := x.inbox ++ [{ peer := i, hdr := ws, body := body }] }

/-- The key state that a frame's EPOCH names; none where that epoch is not accepted (R350). -/
def State.rxKeyOf (s : State) (x : Peer) (epoch : Bool) : Option Bool :=
  if epoch = x.epoch then some true
  else if x.oldUntil.any fun t => decide (s.now ≤ t) then some false else none

/-- The checks of an encrypted frame from an ADMITTED peer: replay, tag, PSN (R341). -/
def receiveSealed (p i : Nat) (f : Parsed) : M s0 Unit := do
  let s ← cur
  let x := s.peer i
  let h := nth f.words 0
  let n := nth f.words 1
  match s.rxKeyOf x (bit h 55) with
  | none => bump F.fabRxTag_count 1 p
  | some new => do
    let k := if new then x.rx else x.old
    let cipher := f.body.take (hLen h)
    let nonce := frameNonce (bits h 47 32) n
    if k.replays n then bump F.fabRxReplay_count 1 p
    else if gcmTag k.key nonce (wordBytes f.words) cipher ≠ f.body.drop (hLen h) then bump F.fabRxTag_count 1 p
    else
      modPeer i fun y => { (if new then { y with rx := k.accept n } else { y with old := k.accept n }) with ce := y.ce + b2n f.ce }
      modPeer i fun y => y.acked (bits (nth f.words 2) 31 0)
      let body := gcmCrypt k.key nonce cipher
      if numbered (hType h) then
        let new ← arrive p i (bits (nth f.words 2) 63 32) (hType h == 0)
        if new then deliverFrame i f.words body
      else deliverFrame i f.words body

/-- The checks from the node on (R341). -/
def receiveParsed (p : Nat) (f : Parsed) : M s0 Unit := do
  let s ← cur
  let h := nth f.words 0
  let node := bits h 47 32
  let hand := !encrypted (hType h)
  if f.ce then bump F.fabRxCe_count 1 p
  if bits h 31 16 ≠ s.fld F.fabNode_node then bump F.fabRxUnknown_count 1 p
  else match s.loadedPeer node with
    | some i =>
      if hand then deliverFrame i f.words f.body
      else if s.peerState i = 2 then receiveSealed p i f
      else bump F.fabRxUnauth_count 1 p
    | none => do
      if hand then
        match ← findEntry node 1024 with
        | some i => deliverFrame i f.words f.body
        | none => bump F.fabRxUnknown_count 1 p
      else bump F.fabRxUnauth_count 1 p

/-- A frame at a port, past its injection: the checks in their order. -/
def receiveFrame (p : Nat) (frame : List Byte) : M s0 Unit := do
  let s ← cur
  let f := frame.take (frame.length - 4)
  bump F.fabRxFrames_count 1 p
  if frame.length < 4 ∨ toBytes 4 (crc32 f) ≠ frame.drop (frame.length - 4) then bump F.fabRxBadFcs_count 1 p
  else match s.parseFrame p f with
    | none => bump F.fabRxForeign_count 1 p
    | some x => receiveParsed p x

/-- `FRAME_RECEIVE` (R341). -/
def execFrameReceive (port : Nat) (frame : List Byte) (s : State) : Outcome :=
  M.go s (whenM (port < 48 ∧ s.portUp port) (inject port true frame (receiveFrame port)))

/-- `INJECT_REORDER_RELEASE` (R361): frames held for 100 us. -/
def execInjectReorderRelease (p : Nat) (s : State) : Outcome :=
  M.go s (do
    let due (h : HeldFrame) : Bool := h.port == p && decide (h.since + 100 ≤ s.now)
    modFab fun x => { x with held := x.held.filter fun h => !due h }
    each (s.fab.held.filter due) fun h => if h.rx then receiveFrame p h.frame else leavePort p h.frame)

end Sys2Proof.Machine
end

