-- ==== Sys2Proof/Machine/Reel.lean ====
section
/-!
DEFINITION. The reel engine (R351 to R360): groups, the streams of each collective, credits, HOLD, silence, lag, and the
collective commands. Frames that arrive and events drive `pump`, which sends all that can be sent and ends what is complete.
-/
namespace Sys2Proof.Machine

variable {s0 : State}

/-! ### Groups -/

/-- A group as ARM read it, and its state: 0 IDLE, 1 ARMED, 2 BUSY, 3 BROKEN. -/
def State.grp (s : State) (g : Nat) : GroupSt := Tab.get {} s.fab.groups g
def State.grpState (s : State) (g : Nat) : Nat := s.fld F.reelGroupState_state g

/-- A group changed by a function. -/
def modGrp (g : Nat) (f : GroupSt → GroupSt) : M s0 Unit :=
  modFab fun x => { x with groups := Tab.put {} x.groups g (f (Tab.get {} x.groups g)) }

/-- The running collective of a group changed by a function. -/
def modColl (g : Nat) (f : Coll → Coll) : M s0 Unit := modGrp g fun y => { y with coll := y.coll.map f }

/-- The peer of a rank. -/
def GroupSt.peerOf (y : GroupSt) (r : Nat) : Nat := nth y.members r

/-- The ranks but this member's. -/
def GroupSt.others (y : GroupSt) : List Nat := (List.range y.size).filter (· != y.rank)

/-- A table key of a stream and a rank. -/
def sKey (stream r : Nat) : Nat := stream * 512 + r

/-! ### Streams (R354, R356): opcode bits [1:0] are 0 ALL_REDUCE, 1 ALL_GATHER, 2 REDUCE_SCATTER, 3 ALL_TO_ALL -/

/-- A kind reduces. -/
def reduces (kind : Nat) : Bool := kind == 0 || kind == 2

/-- What a member sends: stream, destination rank, elements. -/
def sendsOf (kind me n m : Nat) : List (Nat × Nat × Nat) :=
  let others := (List.range n).filter (· != me)
  match kind with
  | 0 => (if me + 1 < n then [(0, me + 1, m)] else []) ++
      (if me + 1 = n then [(1, 0, m)] else if me + 2 < n then [(1, me + 1, m)] else [])
  | 2 => if me + 1 < n then [(0, me + 1, n * m)] else others.map fun r => (2, r, m)
  | 1 => others.map fun r => (3, r, m)
  | _ => others.map fun r => (4, r, m)

/-- What a member receives: stream, source rank, elements. -/
def recvsOf (kind me n m : Nat) : List (Nat × Nat × Nat) :=
  let others := (List.range n).filter (· != me)
  let chain (k : Nat) := if 0 < me then [(0, me - 1, k)] else []
  match kind with
  | 0 => chain m ++ (if me + 1 = n then [] else [(1, if me = 0 then n - 1 else me - 1, m)])
  | 2 => chain (n * m) ++ (if me + 1 = n then [] else [(2, n - 1, m)])
  | 1 => others.map fun r => (3, r, m)
  | _ => others.map fun r => (4, r, m)

/-- A member's partners (R356). -/
def partnersOf (kind me n : Nat) : List Nat :=
  ((sendsOf kind me n 0 ++ recvsOf kind me n 0).map fun e => e.2.1).eraseDups

/-- Bytes of an element in a stream: FP32 or INT32 in the streams of a reduction. -/
def Coll.elem (k : Coll) : Nat := if reduces k.kind then 4 else elemBytes k.fmt

/-- What has been received of a stream. -/
def Coll.have (k : Coll) (stream r : Nat) : List Nat := Tab.get [] k.got (sKey stream r)

/-- The reduction's operation on widened codes (R356). -/
def collOp (op fmt a b : Nat) : Nat :=
  if fmt = 9 then extreme (op == 1) 9 a b
  else if op = 0 then add32 a b else if op = 1 then max32 a b else min32 a b

/-- A send element widened (R356). -/
def widenSend (fmt v : Nat) : Nat := if fmt = 9 then v else widen fmt v

/-- The partials as far as they have come: rank 0's own elements, or those received with the own ones added (R356). -/
def Coll.partials (k : Coll) (me : Nat) : List Nat :=
  if me = 0 then k.own else List.zipWith (collOp k.op k.fmt) (k.have 0 (me - 1)) k.own

/-- The codes that can be sent of a stream to a rank now. -/
def Coll.ready (k : Coll) (me n : Nat) (stream r : Nat) : List Nat :=
  match stream with
  | 0 => k.partials me
  | 1 => if me + 1 = n then k.partials me else k.have 1 (if me = 0 then n - 1 else me - 1)
  | 2 => ((k.partials me).drop (r * k.per)).take k.per
  | 3 => k.own
  | _ => (k.own.drop (r * k.per)).take k.per

/-- Every stream has been received and sent whole. -/
def Coll.complete (k : Coll) (me n : Nat) : Bool :=
  (recvsOf k.kind me n k.per).all (fun (st, r, m) => (k.have st r).length == m) &&
    (sendsOf k.kind me n k.per).all fun (st, r, m) => Tab.get 0 k.sent (sKey st r) == m

/-- Block r of an operand that gathers blocks. -/
def Coll.block (k : Coll) (me stream r : Nat) : List Nat :=
  if r = me then (if k.kind = 1 then k.own else (k.own.drop (me * k.per)).take k.per) else k.have stream r

/-- The elements of the receive operand, before conversion (R354). -/
def Coll.result (k : Coll) (me n : Nat) : List Nat :=
  match k.kind with
  | 0 => if me + 1 = n then k.partials me else k.have 1 (if me = 0 then n - 1 else me - 1)
  | 2 => if me + 1 = n then ((k.partials me).drop (me * k.per)).take k.per else k.have 2 (n - 1)
  | 1 => (List.range n).flatMap (k.block me 3)
  | _ => (List.range n).flatMap (k.block me 4)

/-- A result as the receive format has it: converted once (R124, R356). -/
def storeResult (kind fmt v : Nat) : Nat := if reduces kind ∧ fmt ≠ 9 then (convert fmt (of32 v)).1 else v

/-! ### Frames of a collective (R340, R357 to R359) -/

/-- H5 of a collective's frames: COUNT, FMT, OP, KIND. -/
def Coll.h5 (k : Coll) : Nat := k.count % 2 ^ 40 * 2 ^ 24 + k.fmt * 2 ^ 20 + k.op * 2 ^ 18 + k.kind * 2 ^ 16

/-- Header words of a frame of a collective. -/
def State.collHdr (s : State) (g : Nat) (k : Coll) (h5 : Nat) (r type stream offset credit : Nat) : List Nat :=
  let y := s.grp g
  [s.h0 (y.peerOf r) type + b2n k.capped * 2 ^ 54, 0, 0,
   k.seq % 2 ^ 32 * 2 ^ 32 + y.epoch % 256 * 2 ^ 24 + g * 2 ^ 14 + y.rank,
   stream * 2 ^ 56 + offset, h5, k.lagRank * 2 ^ 48 + min k.lagUs (2 ^ 32 - 1) * 2 ^ 16 + credit, 0]

/-- The peer of a rank takes a frame now. -/
def State.rankOpen (s : State) (g r : Nat) : Bool :=
  let i := (s.grp g).peerOf r
  s.peerState i == 2 && s.windowOpen i

/-- A CREDIT frame (R358). -/
def sendCredit (g stream r n : Nat) : M s0 Unit := do
  let s ← cur
  match (s.grp g).coll with
  | some k =>
    if s.rankOpen g r then
      sendNumbered ((s.grp g).peerOf r) (s.collHdr g k k.h5 r 2 stream 0 n) []
      modColl g fun k => { k with said := Tab.put 0 k.said r s.now, granted := Tab.put 0 k.granted (sKey stream r) (Tab.get 0 k.granted (sKey stream r) + n) }
  | none => pure ()

/-- Payload granules that a DATA frame's port takes from the partition's tokens (R346). -/
def State.portPays (s : State) (p part n : Nat) : Bool := s.borrows (13 + p) part || decide (n ≤ s.bucket (13 + p) part)

/-- Tokens of a DATA frame are taken and its granules counted (R178, R180, R346). -/
def chargePort (p part n : Nat) : M s0 Unit := do
  let s ← cur
  modSched fun x => { x with buckets := Tab.put 0 x.buckets (bKey (13 + p) part) (s.bucket (13 + p) part - n) }
  bump F.fabRegGranules_count n part

/-- A partition's request waits for tokens of a port in this microsecond (R180). -/
def throttlePort (p part : Nat) : M s0 Unit :=
  modSched fun x => { x with throttled := if x.throttled.contains (bKey (13 + p) part) then x.throttled else x.throttled ++ [bKey (13 + p) part] }

/-- Elements of a stream's next frame: what is ready, within the payload and the credit (R358). -/
def State.nextPiece (s : State) (g : Nat) (k : Coll) (stream r : Nat) : List Nat :=
  let y := s.grp g
  let done := Tab.get 0 k.sent (sKey stream r)
  let allowed := Tab.get 0 k.credit (sKey stream r) * (4096 <<< y.chunk) / k.elem - done
  ((k.ready y.rank y.size stream r).drop done).take (min allowed (s.maxPayload / k.elem))

/-- DATA frames of a stream while elements, credit, window, port and tokens last (R346, R358). -/
def pumpStream (g stream r : Nat) : (fuel : Nat) → M s0 Unit
  | 0 => pure ()
  | fuel + 1 => do
    let s ← cur
    let y := s.grp g
    match y.coll, s.nextPort (y.peerOf r) with
    | some k, some p => do
      let piece := s.nextPiece g k stream r
      let grans := ceilDiv (piece.length * k.elem) 64
      if piece = [] ∨ s.rankOpen g r = false then pure ()
      else if s.portPays p y.part grans = false then throttlePort p y.part
      else
        chargePort p y.part grans
        sendNumbered (y.peerOf r) (s.collHdr g k k.h5 r 0 stream (Tab.get 0 k.sent (sKey stream r)) 0)
          (piece.flatMap (toBytes k.elem))
        modColl g fun k => { k with said := Tab.put 0 k.said r s.now, sent := Tab.put 0 k.sent (sKey stream r) (Tab.get 0 k.sent (sKey stream r) + piece.length) }
        pumpStream g stream r fuel
    | _, _ => pure ()

/-- Credit for a stream received: four chunks at first, and four more when those granted have come (R358, log entry 41). -/
def grantStream (g : Nat) (e : Nat × Nat × Nat) : M s0 Unit := do
  let (stream, r, m) := e
  let s ← cur
  match (s.grp g).coll with
  | some k =>
    let got := (k.have stream r).length
    let had := Tab.get 0 k.granted (sKey stream r)
    if (got < m ∨ had = 0) ∧ had * (4096 <<< (s.grp g).chunk) ≤ got * k.elem then sendCredit g stream r 4
  | none => pure ()

/-- A die or the hub runs below its requested point, or the module is capped (R359, R386). -/
def State.cappedNow (s : State) : Bool :=
  s.flag F.pwrDie_capped 0 || s.flag F.pwrDie_capped 1 || s.flag F.pwrDie_capped 2

/-- A packet that its collective left with another status than ST_OK breaks the group (R358). -/
def breakAfter (g c id rank : Nat) : M s0 Unit := do
  match (← cur).pkt c id with
  | some p => if p.st = .done ∧ p.status ≠ 0 then breakGroup g rank
  | none => pure ()

/-- A collective ends with a failure that names a rank (R344, R348, R353, R358). -/
def collFail (g rank status : Nat) : M s0 Unit := do
  let s ← cur
  match (s.grp g).coll.bind Coll.owner with
  | some (c, id) => do
    match s.pkt c id with
    | some p =>
      freeDests c p
      endPkt c id status rank
    | none => pure ()
    breakGroup g rank
    unstickAll
    refresh c
  | none => pure ()

/-- The rank with the largest lag known; the member's own where every lag is 0 (R359). -/
def Coll.worst (k : Coll) (me : Nat) : Nat := if k.lagUs = 0 then me else k.lagRank

/-- A complete collective writes its receive operand and ends (R356, R359, R360). -/
def finishColl (g : Nat) : M s0 Unit := do
  let s ← cur
  let y := s.grp g
  match y.coll with
  | some k =>
    match k.owner with
    | some (c, id) =>
      match s.pkt c id with
      | some p =>
        if p.st = .waiting ∧ k.complete y.rank y.size ∧ s.loaded c then
          if k.recovered then modPkt c id fun x => { x with recovered := true }
          let d := k.worst y.rank + min k.waitUs (2 ^ 32 - 1) * 2 ^ 16
          let t := p.desc 4
          runPkt c { p with recovered := p.recovered || k.recovered } 3 fun ac => do
            wrAll ac (t.storeAll ((k.result y.rank y.size).map (storeResult k.kind t.fmt)) [])
            pure { detail := d }
          match (← cur).pkt c id with
          | some q =>
            if q.st = .done ∧ q.status = 0 then
              logOutcome c p d
              bump F.reelCollectives_count 1
              modGrp g fun z => { z with coll := none }
              setF F.reelGroupState_state 1 g
              unstickAll
              refresh c
            else breakAfter g c id y.rank
          | none => pure ()
      | none => pure ()
    | none => pure ()
  | none => pure ()

/-- The first CREDIT frames, once every member is ADMITTED: four chunks to those it receives from, a grant of 0 to the other
partners (R353, R358). -/
def beginColl (g : Nat) : M s0 Unit := do
  let s ← cur
  let y := s.grp g
  match y.coll with
  | some k =>
    if k.begun = false ∧ y.others.all (fun r => s.peerState (y.peerOf r) == 2) then
      modColl g fun k => { k with begun := true }
      let from_ := (recvsOf k.kind y.rank y.size 0).map fun e => e.2.1
      each ((sendsOf k.kind y.rank y.size 0).filter fun e => !from_.contains e.2.1) fun e => sendCredit g e.1 e.2.1 0
  | none => pure ()

/-- A rank whose peer is LOST fails the collective at once (R344). -/
def State.lostRank (s : State) (y : GroupSt) (k : Coll) : Option Nat :=
  (partnersOf k.kind y.rank y.size).find? fun r => s.peerState (y.peerOf r) == 4

/-- Everything of a group's collective that can go on goes on. -/
def pump (g : Nat) : M s0 Unit := do
  let s ← cur
  let y := s.grp g
  match y.coll with
  | some k =>
    match s.lostRank y k, k.owner.bind fun o => s.pkt o.1 o.2 with
    | some r, _ => collFail g r stPeerLost
    | none, some p =>
      if p.st = .waiting then
        beginColl g
        if ((← cur).grp g).coll.any Coll.begun then
          each (recvsOf k.kind y.rank y.size k.per) (grantStream g)
          each (sendsOf k.kind y.rank y.size k.per) fun e => pumpStream g e.1 e.2.1 e.2.2
          finishColl g
    | none, none => pure ()
  | none => pure ()

/-! ### Issue (R353, R359) -/

/-- A record about a collective (R471). -/
def collRec (g sev : Nat) (k : Coll) (d6 : Nat) : ErrRec :=
  { kind := 0x52, sev := sev, source := 5, loc := g, count := k.lag, d5 := k.seq, d6 := d6 }

/-- A capped member with a lag: the event, its count and its record, at most one a second per group (R359). -/
def cappedEvent (g : Nat) (k : Coll) : M s0 Unit := do
  let s ← cur
  bump F.reelCappedEvents_count 1
  let cause := ((List.range 3).find? fun d => s.flag F.pwrDie_capped d).map fun d => s.fld F.pwrDie_cause d
  if ((s.grp g).capRec.all fun t => decide (t + 1000000 ≤ s.now)) then
    modGrp g fun y => { y with capRec := some s.now }
    errRecord { collRec g 0 k (cause.getD 0) with part := (s.grp g).part }

/-- A rank's n frames of a collective are discarded: counted, one record (R357). -/
def muteRank (g : Nat) (k : Coll) (r n : Nat) : M s0 Unit := do
  bump F.reelMismatch_count n
  let y := (← cur).grp g
  if k.mute.contains r = false then errRecord { collRec g 2 k (y.peerOf r) with part := y.part }

/-- Ranks whose frames are discarded: what they have said and granted does not count (R357). -/
def Coll.without (k : Coll) (rs : List Nat) : Coll :=
  { k with
    mute := k.mute ++ rs
    heard := k.heard.filter fun e => !rs.contains e.1
    credit := k.credit.filter fun e => !rs.contains (e.1 % 512) }

/-- A collective issues: it takes the group's next COLL_SEQ, and what came before its issue (R353, R357, R359). -/
def collIssue (g c : Nat) (p : Pkt) : M s0 Unit := do
  let s ← cur
  let y := s.grp g
  let seq := s.fld F.reelGroupState_nextSeq g
  let kind := p.op % 4
  let snd := p.desc 3
  let cnt := snd.count
  let base : Coll := y.ahead.getD { seq := seq }
  let lag := base.lag + (match base.firstSeen with | some t => s.now - t | none => 0)
  let k0 : Coll := { base with
    seq := seq, owner := some (c, p.id), issuedAt := s.now, kind := kind, op := if reduces kind then p.f 5 1 0 else 0, fmt := snd.fmt
    count := cnt, per := if kind = 2 ∨ kind = 3 then cnt / y.size else cnt
    timeout := if p.f 5 63 32 = 0 then (if y.timeoutMs = 0 then 50 else y.timeoutMs) * 1000 else p.f 5 63 32
    lag := lag, capped := decide (0 < lag) && (base.capped || s.cappedNow) }
  let k1 : Coll := if base.lagUs < lag ∨ (lag = base.lagUs ∧ 0 < lag ∧ y.rank < base.lagRank) then { k0 with lagUs := lag, lagRank := y.rank } else k0
  let bad := (y.others.filter fun r => (Tab.get none base.params r).any fun h => h != k1.h5)
  each bad fun r => muteRank g k1 r (Tab.get 0 base.early r)
  modGrp g fun z => { z with ahead := none, coll := some (k1.without bad) }
  setF F.reelGroupState_nextSeq (seq + 1) g
  setF F.reelGroupState_state 2 g
  if k1.capped then cappedEvent g k1

/-- A collective's class checks (R353 to R355): status and DETAIL. -/
def collFlaw (s : State) (c : Nat) (p : Pkt) : Flaw :=
  let g := p.f 2 9 0
  let y := s.grp g
  let st := s.grpState g
  let kind := p.op % 4
  let a := p.desc 3
  let b := p.desc 4
  let spare := p.f 5 31 (if reduces kind then 2 else 0)
  let red (f : Nat) : Bool := f == 0 || f == 1 || (f == 9 && p.f 5 1 0 != 0)
  let plain (f : Nat) : Bool := elemBits f ≥ 8 && !isMx f
  let n := y.size
  let counts := match kind with
    | 0 => b.count == a.count
    | 1 => b.count == n * a.count
    | 2 => a.count == n * b.count
    | _ => a.count == b.count && a.count % n == 0
  firstFlaw [
    if st = 0 then some (stBadParam, wordDetail 2 0) else none,
    if y.part ≠ s.partOf c then some (stProt, wordDetail 2 0) else none,
    if st = 3 then some (stPeerLost, s.fld F.reelGroupState_brokenBy g) else none,
    formFlaw p [3, 4],
    if spare ≠ 0 then some (stBadParam, wordDetail 5 (lowestBit 32 (spare <<< (if reduces kind then 2 else 0)))) else none,
    if reduces kind ∧ p.f 5 1 0 = 3 then some (stBadParam, wordDetail 5 0) else none,
    if reduces kind then firstFlaw [fmtFlaw p 3 red, fmtFlaw p 4 fun f => if a.fmt = 9 then f == 9 else f == 0 || f == 1]
      else firstFlaw [fmtFlaw p 3 plain, fmtFlaw p 4 fun f => f == a.fmt],
    if counts then none else some (stBadParam, detailOf 4 0xFF 0 false),
    boundsFlaw p [3, 4], injFlaw p 4, overlapFlaw p 4 [a],
    (y.others.find? fun r => s.peerState (y.peerOf r) == 0 || s.peerState (y.peerOf r) == 3).map fun r => (stPeerUnauth, r)]

/-- The group is free for another collective, and the reel engine runs fewer than 64 (R353). -/
def State.groupFree (s : State) (g : Nat) : Bool :=
  (s.grp g).coll.isNone && decide ((s.fab.groups.filter fun e => e.2.coll.isSome).length < 64)

/-- A collective's operation begins: one that a rerun repeats after an ST_OK completes at once (R360); another reads its
send operand. -/
def collStart (c : Nat) (p : Pkt) : M s0 Unit := do
  let s ← cur
  let g := p.f 2 9 0
  match s.logged c p with
  | some d =>
    endPkt c p.id stOk d
    refresh c
  | none =>
    if ((s.grp g).coll.bind Coll.owner) = some (c, p.id) then
      runPkt c p 3 fun ac => do
        let vs ← rdTensor ac (p.desc 3)
        let kind := p.op % 4
        let own := vs.map fun v => if reduces kind then widenSend (p.desc 3).fmt v.1 else v.1
        (modColl g (fun k => { k with own := own }) : M s0 _)
        pure { wait := true }
      breakAfter g c p.id (s.grp g).rank
      pump g

/-- A collective's command. -/
def collOf (c id op : Nat) : M s0 Unit := do
  if (← cur).loaded c then onIssued c id [op] (collStart c)

/-- `ALL_REDUCE` (R356). -/
def execAllReduce (c id : Nat) (s : State) : Outcome := M.go s (collOf c id 0x70)
/-- `ALL_GATHER` (R354). -/
def execAllGather (c id : Nat) (s : State) : Outcome := M.go s (collOf c id 0x71)
/-- `REDUCE_SCATTER` (R354). -/
def execReduceScatter (c id : Nat) (s : State) : Outcome := M.go s (collOf c id 0x72)
/-- `ALL_TO_ALL` (R354). -/
def execAllToAll (c id : Nat) (s : State) : Outcome := M.go s (collOf c id 0x73)

/-! ### Frames of a collective arrive (R357, R358) -/

/-- The first frame of a type that has been delivered is taken. -/
def takeFrame (type : Nat) (f : RxFrame → M s0 Unit) : M s0 Unit := do
  let inbox := (← cur).fab.inbox
  let mine (x : RxFrame) : Bool := hType (nth x.hdr 0) == type
  match inbox.find? mine with
  | some x => do
    modFab fun y => { y with inbox := inbox.takeWhile (fun z => !mine z) ++ (inbox.dropWhile fun z => !mine z).drop 1 }
    f x
  | none => pure ()

/-- What a frame says of the largest lag its sender knows (R359). -/
def Coll.learn (k : Coll) (h6 : Nat) : Coll :=
  let us := bits h6 47 16
  let r := bits h6 63 48
  if k.lagUs < us ∨ (us = k.lagUs ∧ 0 < us ∧ r < k.lagRank) then { k with lagUs := us, lagRank := r } else k

/-- Group, COLL_SEQ, GEPOCH and SRC_RANK of a frame. -/
def fGroup (x : RxFrame) : Nat := bits (nth x.hdr 3) 23 14
def fSeq (x : RxFrame) : Nat := bits (nth x.hdr 3) 63 32
def fEpoch (x : RxFrame) : Nat := bits (nth x.hdr 3) 31 24
def fRank (x : RxFrame) : Nat := bits (nth x.hdr 3) 8 0

/-- A frame comes to a collective, running or not yet issued here: mismatches are discarded (R357); the rest is noted and
acted on by `act`. -/
def noteFrame (x : RxFrame) (now epoch : Nat) (k : Coll) : Coll × Bool :=
  let r := fRank x
  if k.mute.contains r ∨ fEpoch x ≠ epoch ∨ (k.owner.isSome ∧ nth x.hdr 5 ≠ k.h5) then
    ({ k with mute := if k.mute.contains r then k.mute else k.mute ++ [r] }, false)
  else
    (({ k with
      firstSeen := some (k.firstSeen.getD now), heard := Tab.put 0 k.heard r now
      params := Tab.put none k.params r (some (nth x.hdr 5))
      early := if k.owner.isSome then k.early else Tab.put 0 k.early r (Tab.get 0 k.early r + 1) } : Coll).learn (nth x.hdr 6), true)

/-- Pieces that came ahead of their turn join what has come (fuel: their number). -/
def joinPieces : (fuel : Nat) → List Nat → List (Nat × List Nat) → List Nat
  | 0, have_, _ => have_
  | fuel + 1, have_, ps => match ps.find? fun p => decide (p.1 ≤ have_.length) && decide (have_.length < p.1 + p.2.length) with
    | some p => joinPieces fuel (have_ ++ p.2.drop (have_.length - p.1)) ps
    | none => have_

/-- A DATA frame's elements are placed by STREAM and OFFSET (R340). -/
def Coll.place (k : Coll) (me n : Nat) (x : RxFrame) : Coll :=
  let stream := bits (nth x.hdr 4) 63 56
  let off := bits (nth x.hdr 4) 47 0
  let r := fRank x
  let codes := (piecesOf k.elem x.body).map ofBytes
  let key := sKey stream r
  if (recvsOf k.kind me n k.per).any fun (st, q, m) => st == stream && q == r && decide (off + codes.length ≤ m) then
    let ps := k.ahead ++ [(key, off, codes)]
    let mine := (ps.filter fun p => p.1 == key).map Prod.snd
    let all := joinPieces mine.length (k.have stream r) mine
    { k with got := Tab.put [] k.got key all, ahead := ps.filter fun p => p.1 != key || decide (all.length < p.2.1 + p.2.2.length) }
  else k

/-- Credit that a frame grants (R358). -/
def Coll.credited (k : Coll) (x : RxFrame) : Coll :=
  let key := sKey (bits (nth x.hdr 4) 63 56) (fRank x)
  { k with credit := Tab.put 0 k.credit key (Tab.get 0 k.credit key + bits (nth x.hdr 6) 15 0) }

/-- A frame of a collective that has been delivered. -/
def collFrame (act : GroupSt → Coll → Coll) (x : RxFrame) : M s0 Unit := do
  let s ← cur
  let g := fGroup x
  let y := s.grp g
  let st := s.grpState g
  let r := fRank x
  if (st = 1 ∨ st = 2) ∧ r < y.size ∧ r ≠ y.rank ∧ y.peerOf r = x.peer then
    match y.coll, decide (fSeq x = s.fld F.reelGroupState_nextSeq g) with
    | _, true =>
      let k := y.ahead.getD { seq := fSeq x }
      let (k', ok) := noteFrame x s.now y.epoch k
      if !ok then muteRank g k r 1
      modGrp g fun z => { z with ahead := some (if ok then act y k' else k') }
    | some k, false =>
      if fSeq x = k.seq then
        let (k', ok) := noteFrame x s.now y.epoch k
        if !ok then muteRank g k r 1
        modGrp g fun z => { z with coll := some (if ok then act y k' else k') }
        pump g
    | none, false => pure ()

/-- `DATA` (R342). -/
def execData (s : State) : Outcome :=
  M.go s (takeFrame 0 fun x => collFrame (fun y k => if k.owner.isSome then k.place y.rank y.size x else k) x)

/-- `CREDIT` (R358). -/
def execCredit (s : State) : Outcome := M.go s (takeFrame 2 fun x => collFrame (fun _ k => k.credited x) x)

/-- `HOLD` (R358). -/
def execHold (s : State) : Outcome := M.go s (takeFrame 3 (collFrame fun _ k => k))

/-! ### Timers (R353, R358) -/

/-- H5 of a HOLD: the member's own values, or before its issue those of the frames it has seen (log entry 41). -/
def Coll.holdH5 (k : Coll) : Nat := if k.owner.isSome then k.h5 else ((k.params.head?.bind Prod.snd).getD 0)

/-- A member owes a partner a HOLD: it has seen a frame of the collective, and has sent this partner none of it for 1,000 us
(R358). -/
def Coll.holdDue (k : Coll) (me n rank now : Nat) : Bool :=
  let kind := if k.owner.isSome then k.kind else bits k.holdH5 17 16
  (partnersOf kind me n).contains rank && k.firstSeen.any fun t =>
    decide (max (Tab.get 0 k.said rank) (if k.owner.isSome then min k.issuedAt t else t) + 1000 ≤ now)

/-- A HOLD frame of a collective, running or not yet issued here, where one is due (R358). -/
def sendHold (g rank : Nat) (k : Coll) (note : (Coll → Coll) → GroupSt → GroupSt) : M s0 Unit := do
  let s ← cur
  let y := s.grp g
  if (s.grpState g = 1 ∨ s.grpState g = 2) ∧ k.holdDue y.rank y.size rank s.now ∧ s.rankOpen g rank then
    sendNumbered (y.peerOf rank) (s.collHdr g k k.holdH5 rank 3 0 0 0) []
    modGrp g (note fun k => { k with said := Tab.put 0 k.said rank s.now })

/-- `HOLD_TIMER` (R358): for the collective that runs and for one that is seen and not yet issued. -/
def execHoldTimer (g rank : Nat) (s : State) : Outcome :=
  M.go s (do
    match (s.grp g).coll with
    | some k => sendHold g rank k fun f z => { z with coll := z.coll.map f }
    | none => pure ()
    match (s.grp g).ahead with
    | some k => sendHold g rank k fun f z => { z with ahead := z.ahead.map f }
    | none => pure ())

/-- `COLLECTIVE_SILENCE` (R358). -/
def execCollectiveSilence (g rank : Nat) (s : State) : Outcome :=
  M.go s (
    let y := s.grp g
    match y.coll with
    | some k => whenM (k.begun ∧ (partnersOf k.kind y.rank y.size).contains rank ∧
        max (Tab.get 0 k.heard rank) k.issuedAt + k.timeout ≤ s.now) (collFail g rank stPeerLost)
    | none => pure ())

/-- `COLLECTIVE_ADMISSION_TIMEOUT` (R353): a collective has waited its time-out for a member that is not ADMITTED. -/
def execCollectiveAdmissionTimeout (c id : Nat) (s : State) : Outcome :=
  M.go s (match s.pkt c id with
    | some p =>
      let g := p.f 2 9 0
      let y := s.grp g
      match y.coll, y.others.find? fun r => s.peerState (y.peerOf r) != 2 with
      | some k, some r => whenM (p.op / 16 = 7 ∧ k.owner = some (c, id) ∧ p.st = .waiting ∧ k.begun = false ∧
          k.issuedAt + k.timeout ≤ s.now) (collFail g r stPeerUnauth)
      | _, _ => pure ()
    | none => pure ())

/-- A lag that has grown past the largest known becomes it (R359). -/
def Coll.ownLag (k : Coll) (me d : Nat) : Coll :=
  let lag := k.lag + d
  if 0 < d ∧ (k.lagUs < lag ∨ (lag = k.lagUs ∧ me < k.lagRank)) then { k with lag := lag, lagUs := lag, lagRank := me }
  else { k with lag := lag }

/-- What a microsecond does to a group's collective: time in which no stream can go on, lag while the hub is slow, capping
while the member lags (R359). -/
def collTick (g : Nat) : M s0 Unit := do
  pump g
  let s ← cur
  let y := s.grp g
  let idle (k : Coll) : Bool := (sendsOf k.kind y.rank y.size k.per).all fun e => (s.nextPiece g k e.1 e.2.1).isEmpty
  let late (k : Coll) : Bool := s.flag F.pwrDie_capped 2 && s.fab.inbox.any fun x => fGroup x == g && fSeq x == k.seq
  let step (k : Coll) : Coll := { k.ownLag y.rank (b2n (late k)) with
    capped := k.capped || (k.firstSeen.isSome && k.owner.isNone && s.cappedNow)
    waitUs := k.waitUs + b2n (k.owner.isSome && idle k && !k.complete y.rank y.size) }
  modGrp g fun z => { z with coll := z.coll.map step, ahead := z.ahead.map step }

/-! ### Groups' registers (R351, R352) -/

/-- Word i of group g in the group table; 0 where it cannot be read. -/
def groupWords (g i n : Nat) : M s0 (List Byte) := do
  let s ← cur
  let a := s.fld F.reelGroupBase_dpa * 2 ^ 21 + 2048 * g + i
  if s.backed a then
    let ((r, _), _) ← readAt {} a n
    pure (r.getD (List.replicate n 0))
  else pure (List.replicate n 0)

/-- A peer-table entry is VALID, for each of a list of entries. -/
def entriesValid : List Nat → M s0 Bool
  | [] => pure true
  | i :: is => do
    let e ← peerEntry i
    let rest ← entriesValid is
    pure (decide (i < 1024) && bit (nth e 0) 63 && rest)

/-- The first failed check of ARM, and the group as read (R352). -/
def groupRead (g : Nat) : M s0 (Nat × GroupSt) := do
  let s ← cur
  let g0 := ofBytes (← groupWords g 0 8)
  let size := bits g0 9 0
  let tab ← groupWords g 64 1024
  let members := (List.range (min size 512)).map fun r => ofBytes ((tab.drop (2 * r)).take 2)
  let rank := bits g0 24 16
  let y : GroupSt := {
    part := bits g0 59 56, epoch := bits g0 55 48, timeoutMs := bits g0 47 32, chunk := bits g0 31 28
    rank := rank, size := size, members := members, capRec := (s.grp g).capRec }
  let peers := y.others.map y.peerOf
  let valid ← entriesValid peers
  let reason :=
    if bit g0 63 = false then 1
    else if size < 2 ∨ 512 < size then 2
    else if size ≤ rank then 3
    else if peers.contains 0xFFFF ∨ y.peerOf rank ≠ 0xFFFF then 4
    else if valid = false ∨ peers.eraseDups ≠ peers then 5
    else if 6 < y.chunk then 6
    else if s.inForce F.schPartCfg_en y.part = 0 then 7
    else 0
  pure (reason, y)

/-- A group's collective is in flight. -/
def State.groupBusy (s : State) (g : Nat) : Bool := (s.grp g).coll.isSome

end Sys2Proof.Machine
end

