-- ==== Sys2Proof/Machine/Peers.lean ====
section
/-!
DEFINITION. Peers and ports (R338, R342 to R350, R352): acknowledgement and retransmission, loss, congestion, the admission
handshake and rekeying, PEER and GROUP control, lanes and ports. What certificates, signatures and the CONFIRM tag prove is
an operand of the command (log entry 7).
-/
namespace Sys2Proof.Machine

variable {s0 : State}

/-! ### Peer states -/

/-- A peer's state and REASON. -/
def setPeer (i state reason : Nat) : M s0 Unit := do
  setF F.fabPeerState_state state i
  setF F.fabPeerState_reason reason i

/-- Groups that have a running collective. -/
def State.busyGroups (s : State) : List Nat := (s.fab.groups.filter fun e => e.2.coll.isSome).map Prod.fst

/-- Every collective goes on as far as it can. -/
def pumpAll : M s0 Unit := do each (← cur).busyGroups pump

/-- Every collective that waits on a peer ends with a status (R344, R348). -/
def failWaiting (i status : Nat) : M s0 Unit := do
  each (← cur).busyGroups fun g => do
    let y := (← cur).grp g
    match y.coll with
    | some k =>
      match y.others.find? fun r => y.peerOf r == i && (!k.begun || (partnersOf k.kind y.rank y.size).contains r) with
      | some r => collFail g r status
      | none => pure ()
    | none => pure ()

/-- A record about a peer (R471). -/
def peerRec (i : Nat) : ErrRec := { kind := 0x51, sev := 2, source := 5, loc := i }

/-- A peer is REFUSED (R349). -/
def refusePeer (i reason : Nat) : M s0 Unit := do
  setPeer i 3 reason
  let s ← cur
  modPeer i fun x => { x with hs := 0, triedAt := s.now }
  bump F.reelHandshakeFail_count 1
  errRecord (peerRec i)

/-- The line rate of a peer's ports that are up, 16 fractional bits (R345). -/
def State.lineRate (s : State) (i : Nat) : Nat :=
  ((s.txPorts i).map fun p => 1875 * 65536 / 2 ^ s.fld F.fabPortStatus_widthActive p).foldl (· + ·) 0

/-- A peer is ADMITTED under a new key (R344, R349, R350): a rekey keeps the flows, flips EPOCH and still accepts the old key
for 100 ms; a new admission restarts them. -/
def admitPeer (i : Nat) : M s0 Unit := do
  let s ← cur
  let x := s.peer i
  let key : RxKey := { key := x.fresh }
  if s.peerState i = 2 then
    modPeer i fun x => { x with
      old := x.rx, oldUntil := some (s.now + 100000), rx := key, epoch := !x.epoch, txSeq := 0, hs := 0
      admittedAt := s.now }
  else
    modPeer i fun x => { x with
      old := {}, oldUntil := none, rx := key, epoch := false, txSeq := 0, hs := 0, admittedAt := s.now
      txPsn := 0, unacked := [], rxPsn := 0, rxBeyond := [], ackDue := 0, ackSince := none, ce := 0, ceSeen := 0
      cePeriod := 0, alpha := 65536, rate := s.lineRate i }
  setPeer i 2 0
  bump F.reelHandshakes_count 1
  pumpAll

/-! ### Handshake messages (R349) -/

/-- A message's frames: pieces of the largest payload, numbered from 0 (log entry 42). -/
def sendPieces (i type : Nat) (k : Nat) : List (List Byte) → M s0 Unit
  | [] => pure ()
  | b :: bs => do
    sendFrame i [(← cur).h0 i type] k b 0
    sendPieces i type (k + 1) bs

/-- The last message is sent. -/
def transmitMessage (i : Nat) : M s0 Unit := do
  let s ← cur
  let m := (s.peer i).msg
  if s.sec.chainOk then sendPieces i m.1 0 (piecesOf s.maxPayload m.2)

/-- A new message is sent. -/
def sendMessage (i type : Nat) (body : List Byte) : M s0 Unit := do
  let s ← cur
  modPeer i fun x => { x with msg := (type, body), msgTime := s.now, msgTries := 0 }
  transmitMessage i

/-- HELLO is sent: nonce, node, chain (beat 1). -/
def sendHello (i : Nat) : M s0 Unit := do
  let n ← freeBytes 32
  let s ← cur
  let body := n ++ toBytes 2 (s.fld F.fabNode_node) ++ s.chainBytes
  modPeer i fun x => { x with hs := 1, nonceI := n, script := body }
  sendMessage i 4 body

/-- Admission of a peer begins; the lower node identifier is the initiator, the other waits for its HELLO, as long as for
the answer to a message (R349, log entry 42). -/
def startAdmission (i : Nat) : M s0 Unit := do
  let s ← cur
  if s.peerState i ≠ 2 then setPeer i 1 0
  modPeer i fun x => { x with hs := 4, msg := (0, []), msgTime := s.now, msgTries := 0, triedAt := s.now }
  if s.fld F.fabNode_node < (s.peer i).node then sendHello i

/-- An entry of the peer table is loaded. -/
def loadEntry (i : Nat) : M s0 Unit := do
  let e ← peerEntry i
  let ip := wordBytes [nth e 2, nth e 3]
  let digest := wordBytes (e.drop 4)
  modPeer i fun _ => { node := bits (nth e 0) 15 0, ports := bits (nth e 1) 47 0, ip := ip, digest := digest }
  setF F.fabPeerState_node (bits (nth e 0) 15 0) i

/-- A peer entry is read and its admission begins, or it is refused (R347, R348). -/
def loadPeer (i : Nat) : M s0 Unit := do
  let e ← peerEntry i
  let node := bits (nth e 0) 15 0
  if bit (nth e 0) 63 = false then
    modPeer i fun _ => {}
    setReg ⟨.fabPeerState, i, 0, 0⟩ 0
  else
    let s ← cur
    let held := (List.range 1024).any fun j => j != i && s.peerState j == 2 && s.fld F.fabPeerState_node j == node
    loadEntry i
    setPeer i 0 0
    if held ∨ node = s.fld F.fabNode_node then setPeer i 3 6
    else startAdmission i

/-- `PEER_LOAD` (R348). -/
def execPeerLoad (peer : Nat) (s : State) : Outcome :=
  M.go s (atReg ⟨.fabPeerCtrl, 0, 0, 0⟩ (do
    failWaiting (peer % 1024) stPeerUnauth
    loadPeer (peer % 1024)))

/-- DROP: CLOSE is sent and the peer becomes IDLE (R348). -/
def dropPeer (i : Nat) : M s0 Unit := do
  failWaiting i stPeerUnauth
  if (← cur).peerState i = 2 then sendFrame i [(← cur).h0 i 8] 0 [] 0
  modPeer i fun _ => {}
  setPeer i 0 0

/-- `PEER_DROP` (R348). -/
def execPeerDrop (peer : Nat) (s : State) : Outcome :=
  M.go s (atReg ⟨.fabPeerCtrl, 0, 0, 0⟩ (dropPeer (peer % 1024)))

/-- The frames of a message in the order of their numbers, each number once, since a message may have been sent again
(log entry 42). -/
def inOrder (fs : List RxFrame) : List RxFrame :=
  let num (z : RxFrame) : Nat := bits (nth z.hdr 2) 63 32
  (sortBy (fun a b => decide (a ≤ b)) (fs.map num).eraseDups).filterMap fun k => fs.find? fun z => num z == k

/-- The frames of the first handshake message of a type, joined in the order of their numbers, are taken. -/
def takeMessage (type : Nat) (f : Nat → List Byte → M s0 Unit) : M s0 Unit := do
  let inbox := (← cur).fab.inbox
  match inbox.find? fun x => hType (nth x.hdr 0) == type with
  | some x => do
    let mine (z : RxFrame) : Bool := hType (nth z.hdr 0) == type && z.peer == x.peer
    modFab fun y => { y with inbox := inbox.filter fun z => !mine z }
    f x.peer ((inOrder (inbox.filter mine)).flatMap RxFrame.body)
  | none => pure ()

/-- Bytes of a chain at the head of a message (R429). -/
def chainLen (bs : List Byte) : Nat := 4 + 3796 * min 4 (ofBytes (bs.take 4))

/-- What is wrong with a peer's evidence, as a REASON (R349, R431): the chain or the signature, by the verdict; nonce, extra
and debug level; life cycle; node; identity digest. -/
def evidenceFlaw (s : State) (x : Peer) (ok chainBad : Bool) (ev nonce extra : List Byte) : Option Nat :=
  let b (i n : Nat) : Nat := ofBytes ((ev.drop i).take n)
  if !ok then some (if chainBad then 1 else 4)
  else if b 0 4 ≠ 0x4E474556 ∨ b 4 4 ≠ 1 ∨ (ev.drop 8).take 32 ≠ nonce ∨ (ev.drop 368).take 32 ≠ extra ∨ b 45 1 = 2 then some 4
  else if b 44 1 ≠ 2 ∧ !(b 44 1 = 1 ∧ s.flag F.fabCfg_allowProvisioned) then some 2
  else if b 40 2 ≠ x.node then some 6
  else if x.digest.any (· != 0) ∧ (ev.drop 48).take 32 ≠ x.digest then some 3
  else none

/-- The pair key (R350). -/
def State.pairKey (s : State) (x : Peer) (cipher : List Byte) : List Byte :=
  let own := s.fld F.fabNode_node
  let info := ([78, 71, 65, 49, 50, 32, 102, 97, 98, 114, 105, 99, 32, 107, 101, 121] : List Nat).map (BitVec.ofNat 8)
  hkdf (x.nonceI ++ x.nonceR) ((List.range 32).map (Config.kemSecret cipher))
    (info ++ toBytes 2 (min own x.node) ++ toBytes 2 (max own x.node))

/-- Which of two reasons a failed verdict has (log entry 7). -/
def verdictChain : M s0 Bool := do pure (Config.freeBit (← takeFresh))

/-- HELLO at the responder (beat 2): the initiator's chain and node are checked; the reply carries an encapsulation key and
evidence over it. -/
def takeHello (ok : Bool) (i : Nat) (m : List Byte) : M s0 Unit := do
  if (← cur).peerState i = 0 then loadEntry i
  let s ← cur
  let x := s.peer i
  if x.node < s.fld F.fabNode_node then
    if x.hs = 3 ∧ m = x.script.take m.length then transmitMessage i
    else if ofBytes ((m.drop 32).take 2) ≠ x.node then refusePeer i 6
    else if !ok then refusePeer i 1
    else
      let nr ← freeBytes 32
      let k ← takeFresh
      let key := (List.range 1568).map (Config.kemKey k)
      if s.peerState i ≠ 2 then setPeer i 1 0
      let ev ← signedEvidence (m.take 32) (sha256 key)
      let reply := nr ++ s.chainBytes ++ key ++ ev
      modPeer i fun y => { y with hs := 3, nonceI := m.take 32, nonceR := nr, script := m ++ reply }
      sendMessage i 5 reply

/-- A command of the handshake that needs a signature waits until the key can sign (R425). -/
def whenSigns (m : M s0 Unit) : M s0 Unit := do
  let s ← cur
  if s.canSign ∧ s.sec.chainOk then m

/-- `HELLO` (R349). -/
def execHello (ok : Bool) (s : State) : Outcome := M.go s (whenSigns (takeMessage 4 (takeHello ok)))

/-- HELLO_REPLY at the initiator (beat 3). -/
def takeReply (ok : Bool) (i : Nat) (m : List Byte) : M s0 Unit := do
  let s ← cur
  let x := s.peer i
  if x.hs = 2 then transmitMessage i
  else if x.hs = 1 then
    let rest := m.drop (32 + chainLen (m.drop 32))
    let key := rest.take 1568
    let bad ← verdictChain
    match evidenceFlaw s x ok bad (rest.drop 1568) x.nonceI (sha256 key) with
    | some r => refusePeer i r
    | none => do
      let n ← takeFresh
      let cipher := (List.range 1568).map (Config.kemCipher n key)
      let y : Peer := { x with nonceR := m.take 32, script := x.script ++ m }
      let ev ← signedEvidence y.nonceR (sha256 y.script)
      let body := cipher ++ ev
      modPeer i fun _ => { y with hs := 2, script := y.script ++ body, fresh := s.pairKey y cipher }
      sendMessage i 6 body

/-- `HELLO_REPLY` (R349). -/
def execHelloReply (ok : Bool) (s : State) : Outcome := M.go s (whenSigns (takeMessage 5 (takeReply ok)))

/-- ATTEST at the responder (beat 4). -/
def takeAttest (ok : Bool) (i : Nat) (m : List Byte) : M s0 Unit := do
  let s ← cur
  let x := s.peer i
  if x.hs = 0 ∧ x.msg.1 = 7 then transmitMessage i
  else if x.hs = 3 then
    let bad ← verdictChain
    match evidenceFlaw s x ok bad (m.drop 1568) x.nonceR (sha256 x.script) with
    | some r => refusePeer i r
    | none => do
      let key := s.pairKey x (m.take 1568)
      let digest := sha256 (x.script ++ m)
      modPeer i fun y => { y with fresh := key }
      sendMessage i 7 (gcmTag key (toBytes 2 (s.fld F.fabNode_node) ++ [0xFF, 0xFF] ++ toBytes 8 0) digest [])
      admitPeer i

/-- `FABRIC_ATTEST` (R349). -/
def execFabricAttest (ok : Bool) (s : State) : Outcome := M.go s (takeMessage 6 (takeAttest ok))

/-- `CONFIRM` (R349): the tag verifies, or does not. -/
def execConfirm (ok : Bool) (s : State) : Outcome :=
  M.go s (takeMessage 7 fun i _ => do
    if ((← cur).peer i).hs = 2 then
      if ok then admitPeer i else refusePeer i 5)

/-- `HANDSHAKE_RESEND` (R349): 10 ms after a message that was not answered, up to five times. -/
def execHandshakeResend (peer : Nat) (s : State) : Outcome :=
  M.go s (
    let x := s.peer peer
    whenM (x.hs ≠ 0 ∧ x.msgTime + 10000 ≤ s.now) do
      if x.msgTries < 5 then
        modPeer peer fun y => { y with msgTime := s.now, msgTries := y.msgTries + 1 }
        transmitMessage peer
      else refusePeer peer 7)

/-- `READMIT_RETRY` (R344, R349): of a LOST peer, or one that gave no answer, once a second. -/
def execReadmitRetry (peer : Nat) (s : State) : Outcome :=
  M.go s (whenM ((s.peerState peer = 4 ∨ (s.peerState peer = 3 ∧ s.fld F.fabPeerState_reason peer = 7)) ∧
    (s.peer peer).triedAt + 1000000 ≤ s.now) (startAdmission peer))

/-- `REKEY_DUE` (R350): the key's age or the TXSEQ limit; the initiator begins. -/
def execRekeyDue (peer : Nat) (s : State) : Outcome :=
  M.go s (
    let x := s.peer peer
    let age := s.fld F.fabCfg_keyAgeMin
    whenM (s.peerState peer = 2 ∧ x.hs = 0 ∧ s.fld F.fabNode_node < x.node ∧
        ((age ≠ 0 ∧ x.admittedAt + age * 60000000 ≤ s.now) ∨ 2 ^ 40 ≤ x.txSeq)) (startAdmission peer))

/-- `OLD_EPOCH_EXPIRY` (R350). -/
def execOldEpochExpiry (peer : Nat) (s : State) : Outcome :=
  M.go s (whenM ((s.peer peer).oldUntil.any fun t => decide (t ≤ s.now)) (modPeer peer fun x => { x with old := {}, oldUntil := none }))

/-- `CLOSE` (R348): the peer's admission ends. -/
def execClose (s : State) : Outcome :=
  M.go s (takeFrame 8 fun x => do
    modPeer x.peer fun _ => {}
    setPeer x.peer 0 0)

/-! ### Acknowledgement, retransmission, loss (R342 to R345) -/

/-- The partition of a DATA frame's group. -/
def State.framePart (s : State) (f : TxFrame) : Nat := (s.grp (bits (nth f.hdr 3) 23 14)).part

/-- A retransmission can leave now: a port is up, and a DATA frame's tokens are there (R346). -/
def State.canResend (s : State) (i : Nat) (f : TxFrame) : Bool :=
  match s.nextPort i with
  | some p => hType (nth f.hdr 0) != 0 || s.portPays p (s.framePart f) (ceilDiv f.body.length 64)
  | none => false

/-- A frame is retransmitted (R343). -/
def resend (i : Nat) (f : TxFrame) : M s0 Unit := do
  let s ← cur
  match s.nextPort i with
  | some p => do
    if hType (nth f.hdr 0) = 0 then chargePort p (s.framePart f) (ceilDiv f.body.length 64)
    bump F.fabTxRetrans_count 1 p
    modPeer i fun x => { x with unacked := x.unacked.map fun y => if y.psn == f.psn then { y with sent := s.now, tries := y.tries + 1 } else y }
    let g := bits (nth f.hdr 3) 23 14
    modColl g fun k => if k.seq = bits (nth f.hdr 3) 63 32 then { k with recovered := true } else k
    sendFrame i f.hdr f.psn f.body (f.tries + 1)
  | none => pure ()

/-- `ACK` (R343): frames that the SACK map marks are acknowledged; one that is missing while a frame at least 64 higher was
received is retransmitted. -/
def execAck (s : State) : Outcome :=
  M.go s (takeFrame 1 fun x => do
    let ack := bits (nth x.hdr 2) 31 0
    let map := ofBytes (x.body.take 32)
    let ce := ofBytes ((x.body.drop 32).take 4)
    let got (psn : Nat) : Bool := let d := (psn + 2 ^ 32 - ack - 1) % 2 ^ 32; decide (d < 256) && bit map d
    let high := ((List.range 256).filter fun b => bit map b).foldl max 0
    modPeer x.peer fun y => { (y.acked ack) with
      unacked := (y.acked ack).unacked.filter fun f => !got f.psn
      ceSeen := ce, cePeriod := y.cePeriod + (ce + 2 ^ 32 - y.ceSeen) % 2 ^ 32 }
    each ((← cur).peer x.peer).unacked fun f => do
      if map ≠ 0 ∧ (f.psn + 2 ^ 32 - ack - 1) % 2 ^ 32 + 64 ≤ high ∧ (← cur).canResend x.peer f then resend x.peer f
    pumpAll)

/-- `ACK_TIMER` (R342). -/
def execAckTimer (peer : Nat) (s : State) : Outcome :=
  M.go s (whenM (s.peerState peer = 2 ∧ (s.peer peer).ackSince.any fun t => decide (t + 4 ≤ s.now)) (sendAck peer))

/-- A frame's time-out in microseconds: doubled with each retransmission, up to 6.4 ms (R343). -/
def State.rto (s : State) (f : TxFrame) : Nat :=
  let r := s.fld F.fabCfg_rtoUs
  if f.tries = 0 then r else min (r * 2 ^ f.tries) (max r 6400)

/-- `RETRANSMIT_TIMEOUT` (R343, R345). -/
def execRetransmitTimeout (peer psn : Nat) (s : State) : Outcome :=
  M.go s (match (s.peer peer).unacked.find? fun f => f.psn == psn with
    | some f => whenM (s.peerState peer = 2 ∧ f.sent + s.rto f ≤ s.now ∧ s.canResend peer f) do
        modPeer peer fun x => { x with rate := max (s.fld F.fabCc_rMin * 65536) (x.rate / 2) }
        resend peer f
    | none => pure ())

/-- `PEER_LOST` (R344). -/
def execPeerLost (peer : Nat) (s : State) : Outcome :=
  M.go s (whenM (s.peerState peer = 2 ∧
      (s.peer peer).unacked.any fun f => decide (f.first + s.fld F.fabCfg_lostMs * 1000 ≤ s.now)) do
    setPeer peer 4 0
    modPeer peer fun x => { x with hs := 0, triedAt := s.now }
    errRecord (peerRec peer)
    failWaiting peer stPeerLost)

/-- A flow's alpha and rate after a period, 16 fractional bits (R345). -/
def Peer.paced (x : Peer) (g ai rmin line : Nat) : Peer :=
  if 0 < x.cePeriod then
    let a := x.alpha + (65536 - x.alpha) / 2 ^ g
    { x with alpha := a, rate := max (rmin * 65536) (x.rate - x.rate * a / 131072), cePeriod := 0 }
  else { x with alpha := x.alpha - x.alpha / 2 ^ g, rate := min line (x.rate + ai * 65536), cePeriod := 0 }

/-- `CC_PERIOD` (R345). -/
def execCcPeriod (s : State) : Outcome :=
  M.go s (whenM (s.fab.ccAt + s.fld F.fabCc_periodUs ≤ s.now) do
    modFab fun x => { x with ccAt := s.now }
    each ((s.fab.peers.map Prod.fst).filter fun i => s.peerState i == 2) fun i =>
      modPeer i fun x => x.paced (s.fld F.fabCc_g) (s.fld F.fabCc_ai) (s.fld F.fabCc_rMin) (s.lineRate i))

/-! ### Groups (R352) -/

/-- ARM or DISARM of a group whose collective is in flight is ignored. -/
def groupIgnored : M s0 Unit := setFlag F.reelGroupStatus_ignored true

/-- A group is armed, or refused with the first failed check (R352). -/
def armGroup (g : Nat) : M s0 Unit := do
  let (reason, y) ← groupRead g
  setF F.reelGroupStatus_reason reason
  if reason ≠ 0 then setFlag F.reelGroupStatus_refused true
  else
    modGrp g fun _ => y
    setReg ⟨.reelGroupState, g, 0, 0⟩ 0
    setF F.reelGroupState_state 1 g
    setFlag F.reelGroupStatus_done true
    each (y.others.map y.peerOf) fun i => do
      let st := (← cur).peerState i
      if st ≠ 2 ∧ st ≠ 1 then loadPeer i

/-- ARM or DISARM of a group; ignored while a collective of it is in flight (R352). -/
def groupCtrl (arm : Bool) (g : Nat) : M s0 Unit := do
  if (← cur).groupBusy g then groupIgnored
  else if arm then armGroup g
  else
    modGrp g fun y => { capRec := y.capRec }
    setReg ⟨.reelGroupState, g, 0, 0⟩ 0
    setFlag F.reelGroupStatus_done true

/-- `GROUP_ARM` (R352). -/
def execGroupArm (g : Nat) (s : State) : Outcome :=
  M.go s (atReg ⟨.reelGroupCtrl, 0, 0, 0⟩ (groupCtrl true (g % 1024)))

/-- `GROUP_DISARM` (R352). -/
def execGroupDisarm (g : Nat) (s : State) : Outcome :=
  M.go s (atReg ⟨.reelGroupCtrl, 0, 0, 0⟩ (groupCtrl false (g % 1024)))

/-! ### Lanes and ports (R336, R338) -/

/-- The widest sound width at most the configured one: 0 eight lanes, 1 four, 2 two; none where no pair is sound. -/
def soundWidth (failed most : Nat) : Option Nat :=
  let sound (m : Nat) : Bool := failed &&& m == 0
  if most = 0 ∧ failed = 0 then some 0
  else if most ≤ 1 ∧ (sound 0x0F || sound 0xF0) then some 1
  else if sound 0x03 || sound 0x0C || sound 0x30 || sound 0xC0 then some 2
  else none

/-- The port may be used: PORT_EN of the option record (R410). -/
def State.portAllowed (s : State) (p : Nat) : Bool := bit (s.fld F.rstOptRecord_word 5) p

/-- A port begins to train. -/
def trainPort (p : Nat) : M s0 Unit := do
  setFlag F.fabPortStatus_up false p
  modFab fun x => { x with training := if x.training.contains p then x.training else x.training ++ [p] }

/-- EN goes from 0 to 1: the port trains with its failed lanes cleared (R338). -/
def enablePort (p : Nat) : M s0 Unit := do
  setFlag F.fabPortCtrl_en true p
  setF F.fabPortStatus_lanesFailed 0 p
  setFlag F.fabPortStatus_retired false p
  each (List.range 8) fun l => logRetire 8 (8 * p + l) false
  trainPort p

/-- EN goes to 0: the port stops. -/
def disablePort (p : Nat) : M s0 Unit := do
  setFlag F.fabPortCtrl_en false p
  setFlag F.fabPortStatus_up false p
  modFab fun x => { x with training := x.training.filter (· != p) }

/-- `PORT_ENABLE` (R338, R410). -/
def execPortEnable (p : Nat) (s : State) : Outcome :=
  M.go s (atReg ⟨.fabPortCtrl, p, 0, 0⟩ (whenM (s.portAllowed p ∧ s.flag F.fabPortCtrl_en p = false) (enablePort p)))

/-- FEAT_FABRIC follows a port (R77, R338). -/
def featPort (p : Nat) (on : Bool) : M s0 Unit := do
  featSet F.featFabric_value (setBits ((← cur).fld F.featFabric_value) p p (b2n on))
  logRetire 7 p (!on)

/-- `LANE_FAIL` (R338): the port retrains without the lane, or goes down and is retired. -/
def execLaneFail (p lane : Nat) (s : State) : Outcome :=
  M.go s (whenM (p < 48 ∧ lane < 8 ∧ s.flag F.fabPortCtrl_en p ∧ s.flag F.fabPortStatus_retired p = false ∧
      bit (s.fld F.fabPortStatus_lanesFailed p) lane = false) do
    let failed := s.fld F.fabPortStatus_lanesFailed p + 2 ^ lane
    setF F.fabPortStatus_lanesFailed failed p
    logRetire 8 (8 * p + lane) true
    match soundWidth failed (s.fld F.fabPortCtrl_width p) with
    | some _ => do
      trainPort p
      errRecord { kind := 0x50, sev := 1, source := 5, loc := p }
    | none => do
      setFlag F.fabPortStatus_up false p
      setFlag F.fabPortStatus_retired true p
      modFab fun x => { x with training := x.training.filter (· != p) }
      featPort p false
      errRecord { kind := 0x50, sev := 2, source := 5, loc := p })

/-- `PORT_RETRAIN_DONE` (R338): the port carries frames at the widest sound width. -/
def execPortRetrainDone (p : Nat) (s : State) : Outcome :=
  M.go s (whenM (s.fab.training.contains p ∧ s.fab.refDown = false) do
    modFab fun x => { x with training := x.training.filter (· != p) }
    setF F.fabPortStatus_widthActive ((soundWidth (s.fld F.fabPortStatus_lanesFailed p) (s.fld F.fabPortCtrl_width p)).getD 2) p
    setFlag F.fabPortStatus_up true p
    featPort p true
    pumpAll)

end Sys2Proof.Machine
end

