-- ==== Sys2Proof/Machine/Faults.lean ====
section
/-!
DEFINITION. The companion's answers to faults (R331, R332, R495): RETRY, FAIL, the time-out.
-/
namespace Sys2Proof.Machine

variable {s0 : State}

/-- An open fault by its identifier. -/
def State.openFaultOf (s : State) (fid : Nat) : Option OpenFault := s.sched.faults.find? fun f => f.fid == fid

/-- A fault is resolved. -/
def closeFault (fid : Nat) : M s0 Unit := modSched fun x => { x with faults := x.faults.filter fun f => f.fid != fid }

/-- A write that names no open fault (R332). -/
def resolveIgnored : M s0 Unit := setFlag F.schStatus_resolveIgnored true

/-- An answer to a fault: ignored where the identifier names none. -/
def resolve (fid : Nat) (act : OpenFault → M s0 Unit) : M s0 Unit := do
  match (← cur).openFaultOf fid with
  | some f => act f
  | none => resolveIgnored

/-- The state a stalled packet goes on in: a CALL and a collective that has read its operand wait; others run again. -/
def State.resumedState (s : State) (p : Pkt) : PState :=
  if p.op = 0x05 then .waiting
  else if p.op / 16 = 7 ∧ ((s.grp (p.f 2 9 0)).coll.any fun k => k.own != [] || k.count == 0) then .waiting
  else .issued

/-- The queue whose fetch waits on a fault fetches again. -/
def resumeFetch (f : OpenFault) : M s0 Unit := modQue (qKey f.ctx f.q) fun x => { x with fault := none, stuck := false }

/-- The access goes on. -/
def resumeAccess (f : OpenFault) : M s0 Unit := do
  match f.pkt with
  | some id => do
    match (← cur).pkt f.ctx id with
    | some p => do
      let st := (← cur).resumedState p
      modPkt f.ctx id fun y => { y with st := st }
      if p.op / 16 = 7 then pump (p.f 2 9 0)
    | none => pure ()
  | none => resumeFetch f

/-- The access meets another fault: a new entry (R332). -/
def refault (f : OpenFault) (status : Nat) : M s0 Unit := do
  let fid ← openFault f.ctx f.source status f.va f.write f.seq f.op f.q f.pkt
  match f.pkt with
  | some id => modPkt f.ctx id fun y => { y with st := .stalled fid }
  | none => modQue (qKey f.ctx f.q) fun x => { x with fault := some fid }

/-- A packet's fault resolves as FAIL, or its walk ends with ST_POISON (R146, R175, R332): what it leaves, its end. A CALL's
unissued packets are discarded (R495), a collective's group breaks (R358). -/
def failPacket (c : Nat) (p : Pkt) (status va : Nat) : M s0 Unit := do
  if p.op = 0x05 then modQue (qKey c p.q) fun x => { x with chain := x.chain.filter fun g => g.call != p.id, stuck := false }
  else abandon c p
  endPkt c p.id status va
  if p.op / 16 = 7 then
    breakGroup (p.f 2 9 0) ((← cur).grp (p.f 2 9 0)).rank
    unstickAll
  popEnded c p.q 5

/-- A ring slot that cannot be read: the queue stops, one record (R495). -/
def slotFails (c q status va : Nat) : M s0 Unit := do
  modQue (qKey c q) fun x => { x with errStop := true, fault := none }
  postQueueRecord c q status va

/-- A fault ends with a status. -/
def failAccess (f : OpenFault) (status : Nat) : M s0 Unit := do
  match f.pkt with
  | some id => do
    match (← cur).pkt f.ctx id with
    | some p => failPacket f.ctx p status f.va
    | none => pure ()
  | none =>
    if f.op = 0 then slotFails f.ctx f.q status f.va
    else modQue (qKey f.ctx f.q) fun x => { x with fault := none, failAs := some (status, f.va), stuck := false }

/-- RETRY: the access is walked again (R332). -/
def retryFault (f : OpenFault) : M s0 Unit := do
  closeFault f.fid
  let r ← walk ((← cur).acc f.ctx) f.va f.write
  let s ← cur
  match r with
  | .error st => if st = stPoison then failAccess f stPoison else refault f st
  | .ok a => if f.write ∧ s.refusesWrite a then refault f stProt else resumeAccess f
  refresh f.ctx

/-- FAIL (R332). -/
def failFault (f : OpenFault) : M s0 Unit := do
  closeFault f.fid
  failAccess f f.status
  refresh f.ctx

/-- `FAULT_RESOLVE_RETRY` (R332). -/
def execFaultResolveRetry (fid : Nat) (s : State) : Outcome :=
  M.go s (atReg ⟨.schFaultResolve, 0, 0, 0⟩ (resolve fid retryFault))

/-- `FAULT_RESOLVE_FAIL` (R332). -/
def execFaultResolveFail (fid : Nat) (s : State) : Outcome :=
  M.go s (atReg ⟨.schFaultResolve, 0, 0, 0⟩ (resolve fid failFault))

/-- `FAULT_TIMEOUT` (R332): a fault left unanswered. -/
def execFaultTimeout (fid : Nat) (s : State) : Outcome :=
  M.go s (match s.openFaultOf fid with
    | some f => whenM (f.time + s.inForce F.schPartCfg_faultTimeoutMs f.part * 1000 ≤ s.now) do
        failFault f
        errRecord { kind := 0xA0, sev := 1, source := 10, status := f.status, part := f.part, ctx := f.ctx, d5 := f.va % 2 ^ 52, d6 := f.fid }
    | none => pure ())

end Sys2Proof.Machine
end

