-- ==== Sys2Proof/Machine/Link.lean ====
section
/-!
DEFINITION. The Theam link (chapter 12): training and its retries (R364 to R366), the memory window (R368, R369), the snoop
filter (R371, R372), THM_SYNC and the interrupt vectors (R374, R377). A companion access is a command once the link has
delivered it (log entry 43).
-/
namespace Sys2Proof.Machine

variable {s0 : State}

/-! ### Training -/

/-- A record about the link. -/
def linkRec (sev : Nat) : ErrRec := { kind := 0x60, sev := sev, source := 6 }

/-- A training begins and is counted (R365, R379). -/
def startTraining (failed state : Nat) : M s0 Unit := do
  setF F.thmLinkStatus_lanesFailed failed
  setF F.thmLinkStatus_state state
  bump F.thmLinkStatus_retrains 1

/-- The lanes of group i of n lanes are sound. -/
def groupSound (sound n i : Nat) : Bool := sound &&& maskOf (n * i + n - 1) (n * i) == maskOf (n * i + n - 1) (n * i)

/-- The widest width that sound lanes and THM_LINK_CTRL.WIDTH allow, coded as WIDTH_ACTIVE (R364, R365). -/
def widestWidth (sound limit : Nat) : Option Nat :=
  [0, 1, 2].find? fun w => decide (limit ≤ w) && (List.range (2 ^ w)).any (groupSound sound (32 / 2 ^ w))

/-- Held interrupt messages are delivered in order. -/
def deliverAll : List Nat → M s0 Unit
  | [] => pure ()
  | v :: vs => do emit (.irq v); deliverAll vs

/-- The link is ACTIVE again: held interrupts and error records go out in order (R366, R472). -/
def linkUp (w : Nat) : M s0 Unit := do
  setF F.thmLinkStatus_state 2
  setF F.thmLinkStatus_widthActive w
  let s ← cur
  modThm fun t => { t with held := [] }
  deliverAll s.thm.held
  errFlush

/-- Training ends with these lanes sound (R365 beats 5 and 6). -/
def endTraining (lanes : Nat) : M s0 Unit := do
  let s ← cur
  let st := s.fld F.thmLinkStatus_state
  if st = 1 ∨ st = 3 then
    let sound := lanes % 2 ^ 32 &&& (s.fld F.thmLinkStatus_lanesFailed ^^^ (2 ^ 32 - 1))
    setF F.thmLinkStatus_lanesFailed (sound ^^^ (2 ^ 32 - 1))
    match widestWidth sound (s.fld F.thmLinkCtrl_width) with
    | some w => linkUp w
    | none =>
      setF F.thmLinkStatus_state 0
      modThm fun t => { t with downAt := s.now }
      errRecord (linkRec 2)

/-- The link block is out of reset. -/
def State.linkOut (s : State) : Bool := !s.inReset .link

/-- `LINK_TRAINING_DONE` (R365). -/
def execLinkTrainingDone (lanes : Nat) (s : State) : Outcome := M.go s (whenM (s.linkOut = true) (endTraining lanes))

/-- `LINK_LANE_LOSS` (R365): the lane is excluded and the link retrains. -/
def execLinkLaneLoss (lane : Nat) (s : State) : Outcome :=
  M.go s (whenM (s.linkOut = true ∧ s.linkActive = true ∧ lane < 32) do
    startTraining (s.fld F.thmLinkStatus_lanesFailed ||| 2 ^ lane) 3
    errRecord (linkRec 1))

/-- `LINK_DOWN_RETRY` (R365): 100 ms after the link went DOWN, every lane is tried again. -/
def execLinkDownRetry (s : State) : Outcome :=
  M.go s (whenM (s.linkOut = true ∧ s.fld F.thmLinkStatus_state = 0 ∧ s.thm.downAt + 100000 ≤ s.now) (startTraining 0 1))

/-- `RETRAIN` (R365, R379). -/
def execRetrain (s : State) : Outcome := M.go s (atReg ⟨.thmLinkCtrl, 0, 0, 0⟩ (startTraining 0 1))

/-- `THEAM_FLIT_REPLAY` (R364): counted; the flit arrives whole. -/
def execTheamFlitReplay (s : State) : Outcome := M.go s (whenM (s.linkOut = true) (bump F.thmReplays_count 1))

/-! ### The memory window -/

/-- The address that a companion address reaches (R368); none outside the window. -/
def State.memWindow (s : State) (addr : Nat) : Option Nat :=
  let base := s.fld F.thmMemBase_base * 2 ^ 41
  if base ≤ addr ∧ addr < base + 2 ^ 41 then some (addr - base) else none

/-- A refused companion access (R368). -/
def windowRefuse : M s0 Unit := do
  bump F.thmRefused_count 1
  linkError

/-- The block that holds an address of the window. -/
def blockOf (a : Nat) : Option Blk :=
  match regionOf a with
  | .stack n => some (.stack n)
  | .deep => some .deep
  | _ => none

/-- A companion access of len bytes through the memory window: outside the window it is no access of the A12; with EN 0,
before READY, or into a block in reset it gets an error response (R379, R413, R418); else R368 decides. -/
def throughMem (addr len : Nat) (act : Nat → M s0 Unit) : M s0 Unit := do
  let s ← cur
  match s.memWindow addr with
  | none => pure ()
  | some a =>
    if s.flag F.thmMemBase_en = false ∨ s.flag F.rstStatus_ready = false then linkError
    else if (blockOf a).any s.inReset then
      bump F.rstIsoErrors_count 1
      linkError
    else if ! [1, 2, 4, 8, 16, 32, 64].contains len ∨ a % len ≠ 0 ∨ s.backed a = false then windowRefuse
    else act a

/-- Data read for the companion; an unreadable granule gives an error response (R368). -/
def readForLink (a len : Nat) (then_ : M s0 Unit) : M s0 Unit := do
  let ((r, _), _) ← readAt {} a len
  match r with
  | some bs =>
    then_
    emit (.linkData bs)
  | none => windowRefuse

/-- `COMPANION_MEM_READ` (R368). -/
def execCompanionMemRead (addr len : Nat) (s : State) : Outcome :=
  M.go s (throughMem addr len fun a => readForLink a len (pure ()))

/-- Bytes of the companion written whole, or refused (R368, R369). -/
def writeForLink (a : Nat) (bs : List Byte) : M s0 Unit := do
  if (← cur).refusesWrite a then windowRefuse
  else
    writeAt a bs
    emit .linkAck

/-- `COMPANION_MEM_WRITE` (R368). -/
def execCompanionMemWrite (addr : Nat) (bytes : List Byte) (s : State) : Outcome :=
  M.go s (throughMem addr bytes.length fun a => writeForLink a bytes)

/-! ### Coherence of the flush-class range -/

/-- The snoop filter's entries (R371). -/
def filterSize : Nat := 524288

/-- A granule's entry leaves the filter. -/
def dropEntry (g : Nat) : M s0 Unit := modThm fun t => { t with filter := t.filter.filter fun e => e.1 != g }

/-- The granule is granted: the companion may hold it dirty from now on. -/
def trackEntry (g : Nat) : M s0 Unit :=
  modThm fun t => { t with filter := t.filter.filter (fun e => e.1 != g) ++ [(g, true)] }

/-- A cacheable read is granted, and tracked where it is of the flush class (R370, R371). -/
def grantLine (g : Nat) : M s0 Unit :=
  readForLink (64 * g) 64 (whenM (flushClass (64 * g) = true) (trackEntry g))

/-- A cacheable read: with the filter full, the entry granted longest ago is back-invalidated first (R371). -/
def cacheableRead (a : Nat) : M s0 Unit := do
  let s ← cur
  let g := a / 64
  if flushClass a && !(s.thm.filter.any fun e => e.1 == g) && decide (filterSize ≤ s.thm.filter.length) then
    match s.thm.filter, s.thm.snoop with
    | (old, _) :: _, none =>
      bump F.thmBackinv_count 1
      modThm fun t => { t with snoop := some { gran := old, inval := true, back := some g, since := s.now } }
      emit (.snoop old)
    | _, _ => pure ()
  else grantLine g

/-- `COMPANION_CACHEABLE_READ` (R371). -/
def execCompanionCacheableRead (addr : Nat) (s : State) : Outcome := M.go s (throughMem addr 64 cacheableRead)

/-- A line written back replaces the granule whole; an eviction drops the entry, a line kept is no longer dirty (R371). -/
def writeBack (a : Nat) (bytes : List Byte) (evict : Bool) : M s0 Unit := do
  writeForLink a bytes
  if evict then dropEntry (a / 64)
  else modThm fun t => { t with filter := t.filter.map fun e => if e.1 == a / 64 then (e.1, false) else e }

/-- `COMPANION_WRITEBACK` (R371). -/
def execCompanionWriteback (addr : Nat) (bytes : List Byte) (evict : Bool) (s : State) : Outcome :=
  M.go s (whenM (bytes.length = 64) (throughMem addr 64 fun a => writeBack a bytes evict))

/-- The snoop that waits is over; a grant that waited for a back-invalidation follows. -/
def snoopOver (x : Snoop) (drop : Bool) : M s0 Unit := do
  modThm fun t => { t with
    snoop := none
    filter := if drop then t.filter.filter fun e => e.1 != x.gran
              else t.filter.map fun e => if e.1 == x.gran then (e.1, false) else e }
  match x.back with
  | some g => grantLine g
  | none => pure ()

/-- Written-back data of a snoop's answer replaces the granule whole, unless it refuses writes. -/
def takeWriteback (g : Nat) (bytes : List Byte) : M s0 Unit := do
  if bytes.length = 64 ∧ (← cur).refusesWrite (64 * g) = false then writeGran g bytes

/-- `SNOOP_RESPONSE` (R371). -/
def execSnoopResponse (data : Option (List Byte)) (s : State) : Outcome :=
  M.go s (match s.thm.snoop with
    | some x => do
      match data with
      | some bs => takeWriteback x.gran bs
      | none => pure ()
      snoopOver x x.inval
    | none => pure ())

/-- `SNOOP_TIMEOUT` (R372): 1 ms without an answer. -/
def execSnoopTimeout (s : State) : Outcome :=
  M.go s (match s.thm.snoop with
    | some x => whenM (x.since + 1000 ≤ s.now) do
      bump F.thmSnoopTimeouts_count 1
      errRecord { linkRec 1 with addr := 64 * x.gran }
      snoopOver x true
    | none => pure ())

/-! ### Ordering and interrupts -/

/-- `THM_SYNC` (R374): every command that the link delivered before it has been performed; the read returns 0. -/
def execThmSync (s : State) : Outcome := M.go s (atReg ⟨.thmSync, 0, 0, 0⟩ (emit (.linkData (toBytes 8 0))))

/-- Vectors that have just been unmasked and are pending are delivered once (R377). -/
def deliverPending (w : Nat) : List Nat → M s0 Unit
  | [] => pure ()
  | b :: bs => do
    let s ← cur
    if bit (s.fld F.thmVecPend_pend w) b && !s.vecMasked (64 * w + b) then
      setF F.thmVecPend_pend (s.fld F.thmVecPend_pend w &&& (2 ^ b ^^^ (2 ^ 64 - 1))) w
      raiseVec (64 * w + b)
    deliverPending w bs

/-- A mask register takes a value (R377). -/
def setMask (w v : Nat) : M s0 Unit := do
  setF F.thmVecMask_mask v w
  deliverPending w (List.range 64)

/-- `VECTOR_UNMASK` (R377). -/
def execVectorUnmask (v : Nat) (s : State) : Outcome :=
  M.go s (whenM (v < 256) (atReg ⟨.thmVecMask, v / 64, 0, 0⟩
    (setMask (v / 64) (s.fld F.thmVecMask_mask (v / 64) &&& (2 ^ (v % 64) ^^^ (2 ^ 64 - 1))))))

end Sys2Proof.Machine
end

