-- ==== Sys2Proof/Machine/Reset.lean ====
section
/-!
DEFINITION. Resets and start-up (chapter 14): the sources and their reaches (R406, R407), what a reset clears (R415), the
cause journal (R408), the option record (R409 to R411), the start-up sequence (R412 to R416), block soft resets (R417), the
references (R405).
-/
namespace Sys2Proof.Machine

variable {s0 : State}

/-! ### Reaches -/

/-- The blocks that a reset of the whole module covers. -/
def allBlocks : List Blk :=
  [.aon, .hub, .link, .mgmt, .deep, .die 0, .die 1] ++ (List.range 12).map Blk.stack ++ (List.range 8).map Blk.caller

/-- The reach of a source (R406): 0 power-on, 1 MRST_N, 2 hot reset, 3 watchdog, 4 trip, 5 security, 7 core reference. -/
def reachOf (src : Nat) (b : Blk) : Bool :=
  match src with
  | 0 | 4 | 5 => true
  | 1 | 7 => b != .aon
  | 2 => b != .aon && b != .link
  | 3 => b == .mgmt || (match b with | .caller _ => true | _ => false)
  | _ => false

/-- A source covers a block; the debug reset (6) joins the reaches it names (R406). -/
def State.reaches (s : State) (src : Nat) (b : Blk) : Bool :=
  if src = 6 then s.rst.reach.any fun r => reachOf r b else reachOf src b

/-- A block is covered by some asserted source. -/
def State.covered (s : State) (b : Blk) : Bool := s.rst.sources.any fun src => s.reaches src b

/-- The reset covers the reset controller, which the hot reset leaves (R406, R412). -/
def State.reachesController (s : State) (src : Nat) : Bool := s.reaches src .hub && s.reaches src .link

/-! ### The monitor's registers -/


/-- A list of up to 32 bytes into the four words of a register. -/
def putDigest (f : Fld) (i : Nat) (bs : List Byte) : M s0 Unit :=
  each (List.range 4) fun k => setF f (wordAt bs k) (if f.reg = .secDigest then i else k) (if f.reg = .secDigest then k else 0)

/-- The level of the debug session: none, or that of BLANK after each reset (R437, R439). -/
def resetDebug : M s0 Unit := do
  let blank := (← cur).lc == 0
  setF F.secDbgStatus_level (if blank then 2 else 0)
  setFlag F.secDbgStatus_operator false
  setFlag F.secDbgStatus_inject blank
  setFlag F.secDbgStatus_resetOk blank
  setF F.secDbgStatus_remainS (if blank then 0x3FFFFFF else 0)
  modSec fun x => { x with ends := none }

/-- A fresh nonce (R436). -/
def drawNonce : M s0 Unit := do
  let ws ← freeWords 4
  each (List.range 4) fun k => setF F.secDbgNonce_nonce (ws.getD k 0).toNat k

/-- The registers that show fuses, keys and images (R420, R421, R453). -/
def refreshSec : M s0 Unit := do
  let s ← cur
  setF F.secLc_state s.lc
  setF F.secLc_fuses s.sec.fuses
  setF F.secLc_lastChange s.sec.lastChange
  putDigest F.secIdDigest_digest 0 (if s.lc = 0 then [] else sha256 (publicKey s.sec.idI))
  each (List.range 4) fun i => putDigest F.secDigest_digest i (s.sec.digests.getD i [])
  each (List.range 6) fun k => do
    let m := s.sec.images.getD k {}
    setF F.secFw_rev m.rev k
    setF F.secFw_svn m.svn k
    setF F.secFw_minSvn (nth s.sec.minSvn k) k
    setF F.secFw_slot m.slot k
  refreshSig

/-- The monitor leaves reset: the next index is the confirmed ceiling, which is raised; the cache is to be rebuilt (R424, R425), the debug level
is that of the life-cycle state, a nonce is drawn (R436, R439). -/
def startMonitor : M s0 Unit := do
  modSec Sec.restarted
  refreshSec
  resetDebug
  drawNonce
  setFlag F.secDbgStatus_locked (← cur).sec.lockUntil.isSome
  setFlag F.secCal_none true

/-! ### What a reset clears -/

/-- Storage chosen by address returns to zeros with right check bits (R415). -/
def wipeMem (inside : Nat → Bool) : M s0 Unit := do
  eff (.dropMem inside)
  each (((← cur).chk.map Prod.fst).filter fun g => inside (64 * g)) fun g => eff (.chk g 0)
  modMerges fun ms => ms.filter fun m => !inside (64 * m.gran)
  modInjected fun l => l.filter fun g => !inside (64 * g)

/-- On-die SRAM: set buffers and the units' operand buffers. -/
def isSram (a : Nat) : Bool :=
  match regionOf a with
  | .setBuf _ | .inner => true
  | _ => false

/-- Registers that a reset does not clear by its reach alone: sticky cells, what only power-on clears, the record in force,
and the status that the sequence itself writes (R404, R408, R409, R419). -/
def keptReg (n : RegName) : Bool :=
  n == .tmpTripCause || n == .rstCause || n == .rstHubEpoch || n == .rstWdogCount || n == .rstOptRecord || n == .rstStatus

/-- A source clears a register. -/
def State.clears (s : State) (src : Nat) (r : Reg) : Bool :=
  if keptReg r.name then false
  else match windowBlock r.offset with
    | some (_, .aon) => s.reachesController src
    | some (_, .set d _) => s.reaches src (.die d)
    | some (_, .port _) => s.reaches src .hub
    | some (_, b) => s.reaches src b
    | none => false

/-- The hub's state beside its registers is gone; a lock-out goes on (R436), a die fault lasts over a hot reset (R468). -/
def clearHub (src : Nat) : M s0 Unit := do
  let s ← cur
  eff .queClear
  eff .ctxsClear
  eff .slotsClear
  eff .adaptersClear
  eff .keysClear
  eff .unitsClear
  eff .setsClear
  modSched fun _ => {}
  modStrikes fun _ => []
  modI3c fun _ => {}
  modTier fun x => { absent := x.absent }
  modFab fun x => { refDown := x.refDown }
  modThm fun x => if s.reaches src .link then {} else { x with filter := [], snoop := none, downAt := 0 }
  modPwr fun x => { land := x.land, off := x.off, latched := x.latched }
  modErr fun x => { dieFault := x.dieFault && !s.reachesController src }
  modSec fun x => { x with
    moving := none, switches := x.switches.filter (·.kind == 0), signed := [], images := [], micro := [], chainOk := false, recovery := false, overlay := none, ends := none
    cached := false, next := x.ceil, lockUntil := x.lockUntil.map fun t => t - s.now }
  wipeMem isSram

/-- Caller SRAM and the packets it holds are gone, the context registers stay (R415, R469). -/
def clearFirmware : M s0 Unit := modRst fun x => { x with firmware := false, published := false }

/-- WIPING follows the wipes that run (R419). -/
def refreshWiping : M s0 Unit := do
  let x := (← cur).rst
  setFlag F.rstStatus_wiping (!x.clearing.isEmpty || !x.wiping.isEmpty || x.soft.any fun e => e.1 < 2)

/-- A source is asserted: the blocks of its reach go to reset (R406, R407). A soft reset goes on where the reset controller
is not reached (R417). -/
def assertReset (src : Nat) : M s0 Unit := do
  let s ← cur
  let hub := s.reaches src .hub
  modRst fun x => { x with
    sources := if x.sources.contains src then x.sources else x.sources ++ [src]
    closed := x.closed ++ allBlocks.filter fun b => s.reaches src b && !x.closed.contains b
    unlocked := if hub then [] else x.unlocked
    clearing := if hub then [] else x.clearing
    wiping := if hub then [] else x.wiping
    soft := if s.reachesController src then none else x.soft }
  if hub then
    clearFirmware
    clearHub src
    eff (.dropRegs (s.clears src))
    setFlag F.rstStatus_ready false
    setFlag F.rstStatus_bootFail false
    refreshWiping

/-! ### Release -/

/-- The block that KIND, DIE and INDEX name. -/
def softBlk (kind die idx : Nat) : Blk :=
  match kind with
  | 0 => .set die idx
  | 1 => .stack idx
  | 2 => .port idx
  | _ => .caller idx

/-- A block that the running soft reset holds (R417). -/
def Rst.softly (x : Rst) (b : Blk) : Bool := x.soft.any fun e => softBlk e.1 e.2.1 e.2.2 == b

/-- A set of a die. -/
def inDie (d : Nat) : Blk → Bool
  | .set e _ => e == d
  | _ => false

/-- A fabric port. -/
def isPort : Blk → Bool
  | .port _ => true
  | _ => false

/-- The stack is populated and has not timed out (R410, R416). -/
def State.stackHere (s : State) (n : Nat) : Bool := !s.tier.absent.contains n

/-- The domains whose blocks no source covers any more begin to lock: 0 hub, 1 and 2 the dies, 3 and on the stacks (R407). -/
def beginLock : M s0 Unit := do
  let s ← cur
  let free (b : Blk) : Bool := s.rst.closed.contains b && !s.covered b
  let ds := (if free .hub then [0] else []) ++ ((List.range 2).filter fun d => free (.die d)).map (1 + ·) ++
    ((List.range 12).filter fun n => free (.stack n) && s.stackHere n && s.rst.soft != some (1, 0, n)).map (3 + ·)
  modRst fun x => { x with unlocked := x.unlocked ++ ds.filter fun k => !x.unlocked.contains k && !(decide (3 ≤ k) && x.clearing.contains (k - 3)) }

/-- A source is released. -/
def releaseReset (src : Nat) : M s0 Unit := do
  modRst fun x => { x with sources := x.sources.filter (· != src) }
  let s ← cur
  let opens (b : Blk) : Bool := !s.covered b && (match b with
    | .aon => true
    | .caller k => !s.rst.soft.any fun e => e.1 == 3 && e.2.2 == k
    | .mgmt => s.rst.firmware
    | _ => false)
  modRst fun x => { x with closed := x.closed.filter fun b => !opens b }
  beginLock

/-- A source whose assertion holds is released; nothing otherwise (log entry 5). -/
def releaseHeld (src : Nat) : M s0 Unit := do
  if (← cur).rst.sources.contains src then releaseReset src

/-! ### The cause journal (R408) -/

/-- Entry i of the journal, as its two words. -/
def State.journalAt (s : State) (i : Nat) : Nat × Nat :=
  let bs := s.flashBytes (0x20000 + 16 * i) 16
  (wordAt bs 0, wordAt bs 1)

/-- The entries written, oldest first. -/
def State.journal (s : State) : List (Nat × Nat) :=
  ((List.range 16).map s.journalAt).filter fun e => e != (2 ^ 64 - 1, 2 ^ 64 - 1)

/-- Bytes into flash. -/
def flashWrite (a : Nat) : List Byte → M s0 Unit
  | [] => pure ()
  | b :: bs => do eff (.flash a b); flashWrite (a + 1) bs

/-- A 64 KiB block of flash erased (R488). -/
def flashErase (a : Nat) : M s0 Unit := eff (.eraseFlash fun x => x / 65536 == a / 65536)

/-- An entry is appended; a full journal is erased and the latest entry written again first. -/
def journalAppend (cause : Nat) : M s0 Unit := do
  let s ← cur
  let old := s.journal
  let entry := wordBytes [cause, s.fld F.rstHubEpoch_epoch]
  if old.length < 16 then flashWrite (0x20000 + 16 * old.length) entry
  else
    flashErase 0x20000
    match old.getLast? with
    | some (a, b) => flashWrite 0x20000 (wordBytes [a, b])
    | none => pure ()
    flashWrite 0x20010 entry

/-- The layout of TMP_TRIP_CAUSE (R401). -/
def causeWord (kind index : Nat) : Nat := 2 ^ 31 + kind * 2 ^ 28 + index % 256

/-- The sticky cells from the journal's last entry (R401, R408). -/
def journalRestore : M s0 Unit := do
  let w := (((← cur).journal.getLast?).map Prod.fst).getD 0
  let valid := bit w 31
  let violation := bits w 30 28 == 7
  setReg ⟨.tmpTripCause, 0, 0, 0⟩ (if valid && !violation then w else 0)
  setFlag F.rstCause_trip (valid && !violation)
  setFlag F.rstCause_security (valid && violation)

/-! ### The option record (R409 to R411) -/

/-- The bytes of a copy that hold no field (R410). -/
def optReserved : List Nat :=
  [0x06, 0x07, 0x0D, 0x0E, 0x0F, 0x10, 0x11, 0x12, 0x27, 0x2E, 0x2F] ++ (List.range 6).map (0x32 + ·) ++
    (List.range 60).map (0xC0 + ·)

/-- TRIP and THROTTLE of external input j in a record's words. -/
def optLimit (ws : List Nat) (j : Nat) : Nat × Nat :=
  let w := nth ws (7 + j / 2) / 2 ^ (32 * (j % 2))
  (bits w 31 16, bits w 15 0)

/-- External input j is populated: RD0 to RD5, then TH0 to TH3. -/
def optPopulated (ws : List Nat) (j : Nat) : Bool := if j < 6 then bit (nth ws 6) j else bit (nth ws 6) (8 + j - 6)

/-- A copy is valid (R409). -/
def optValid (bs : List Byte) : Bool :=
  let ws := wordsOf bs 32
  let cap := bits (nth ws 4) 42 32
  bits (nth ws 0) 31 0 == 0x4E470A12 && bits (nth ws 0) 47 32 == 1 && optReserved.all (fun i => bs.getD i 0 == 0) &&
    bits (nth ws 2) 63 28 != 0 && decide (400 ≤ cap) && decide (cap ≤ 1350) &&
    (List.range 10).all (fun j => !optPopulated ws j ||
      decide (signed 16 (optLimit ws j).2 < signed 16 (optLimit ws j).1)) &&
    bits (nth ws 31) 63 32 == crc32 (bs.take 252)

/-- The record of R411. -/
def optDefault : List Byte :=
  let body := wordBytes [0x4E470A12 + 2 ^ 32, 0, 0x0000008000000000, 0, 0xFFFF0FFF + 400 * 2 ^ 32, 0] ++ List.replicate 204 0
  body ++ toBytes 4 (crc32 body)

/-- The record in force, its source, and which copies failed. -/
def State.chooseOption (s : State) : List Byte × Nat × Bool × Bool :=
  let a := s.flashBytes 0 256
  let b := s.flashBytes 0x10000 256
  let gen (x : List Byte) : Nat := ofBytes ((x.drop 8).take 4)
  match optValid a, optValid b with
  | true, true => if gen a < gen b then (b, 1, false, false) else (a, 0, false, false)
  | true, false => (a, 0, false, true)
  | false, true => (b, 1, true, false)
  | false, false => (optDefault, 2, true, true)

/-- A word of the record in force. -/
def State.opt (s : State) (i : Nat) : Nat := s.fld F.rstOptRecord_word i

/-- Both copies are read and the record chosen (R409); a stack whose bit is clear, or that timed out, stays in reset (R410,
R416). -/
def readOption : M s0 Unit := do
  let (bs, src, badA, badB) := (← cur).chooseOption
  each (List.range 32) fun i => setF F.rstOptRecord_word (wordAt bs i) i
  setF F.rstStatus_optSrc src
  setFlag F.rstStatus_optPrimaryBad badA
  setFlag F.rstStatus_optCopyBad badB
  let s ← cur
  modTier fun x => { x with absent := stackList.filter fun n => !bit (s.opt 4) n || s.rst.timedOut.contains n }

/-- Packages that are populated and have not timed out. -/
def State.packages (s : State) : List Nat :=
  (List.range 16).filter fun q => bit (s.opt 4) (16 + q) && !s.rst.timedOut.contains (16 + q)

/-- The reset values that the record in force gives (R379, R401, R410). -/
def optionResets (link : Bool) : M s0 Unit := do
  let s ← cur
  setF F.pwrCap_watts (bits (s.opt 4) 42 32)
  let ws := (List.range 32).map s.opt
  each (List.range 10) fun j => do
    let (trip, throttle) := optLimit ws j
    setF F.tmpExtLim_trip trip j
    setF F.tmpExtLim_throttle throttle j
    setFlag F.tmpSense_disabled (!optPopulated ws j) (96 + j)
  each (List.range 48) fun p => setFlag F.fabPortStatus_retired (!s.portAllowed p) p
  if link then setF F.thmRegBase_base (bits (s.opt 2) 63 28)

/-! ### The sequence (R412) -/

/-- The hub is released (beat 6). -/
def releaseHub : M s0 Unit := do
  let s ← cur
  let link := s.rst.closed.contains .link && !s.covered .link
  eff .hubZero
  setF F.rstHubEpoch_epoch (s.fld F.rstHubEpoch_epoch + 1)
  modRst fun x => { x with
    closed := x.closed.filter fun b => !(b == .hub || b == .deep || (b == .link && link) || (isPort b && !x.softly b))
    wiping := s.packages }
  optionResets link
  startMonitor
  if link then startTraining 0 1
  setFlag F.pwrStatus_brake s.pwr.land
  refreshWiping

/-- `PLL_LOCK` (R407, R412): a domain is released. A stack's bank clear begins, a die's SRAM is clear. -/
def execPllLock (domain : Nat) (s : State) : Outcome :=
  M.go s (whenM (s.rst.unlocked.contains domain) do
    modRst fun x => { x with unlocked := x.unlocked.filter (· != domain) }
    if domain = 0 then releaseHub
    else if domain < 3 then
      modRst fun x => { x with closed := x.closed.filter fun b => !(b == .die (domain - 1) || (inDie (domain - 1) b && !x.softly b)) }
    else
      modRst fun x => { x with clearing := x.clearing ++ [domain - 3] }
      refreshWiping)

/-- `STACK_CLEAR_DONE` (R412 beat 8, R415). -/
def execStackClearDone (n : Nat) (s : State) : Outcome :=
  M.go s (whenM (s.rst.clearing.contains n) do
    wipeMem fun a => targetOf a == n
    modRst fun x => { x with clearing := x.clearing.filter (· != n), closed := x.closed.filter (· != .stack n) }
    refreshWiping)

/-- Package q holds an address, as the deep tier stands after reset. -/
def inPackage (q a : Nat) : Bool := targetOf a == 12 && unitOf a == q

/-- `DEEP_WIPE_DONE` (R412 beat 9, R415). -/
def execDeepWipeDone (q : Nat) (s : State) : Outcome :=
  M.go s (whenM (s.rst.wiping.contains q) do
    wipeMem (inPackage q)
    modRst fun x => { x with wiping := x.wiping.filter (· != q) }
    refreshWiping)

/-! ### Firmware (R412 beats 7 and 11, R444) -/

/-- The flash offset of an image slot (R443). -/
def imageBase (kind slot : Nat) : Nat := 0x200000 + (2 * kind + slot) * 0x200000

/-- The image in a slot, from its header; none where no header of the kind stands there (R444). -/
def State.imageIn (s : State) (kind slot : Nat) : Option Image :=
  let a := imageBase kind slot
  let w (o n : Nat) : Nat := ofBytes (s.flashBytes (a + o) n)
  if w 0 4 = 0x4E474657 ∧ w 4 2 = 1 ∧ w 6 1 = kind ∧ w 16 4 ≤ 2093292 then
    some { rev := w 8 4, svn := w 12 4, compat := w 20 4, slot := slot, digest := sha256 (s.flashBytes a (256 + w 16 4)) }
  else none

/-- A copy of the slot directory: GEN, then the slots as bits, then the CRC-32 (R443, log entry 45). -/
def State.directory (s : State) (a : Nat) : Option (Nat × Nat) :=
  let bs := s.flashBytes a 12
  if ofBytes (bs.drop 8) = crc32 (bs.take 8) then some (ofBytes (bs.take 4), ofBytes ((bs.drop 4).take 4)) else none

/-- The directory in force: the valid copy with the higher GEN (R443). -/
def State.slotsNow (s : State) : Nat × Nat :=
  match s.directory 0x90000, s.directory 0xA0000 with
  | some a, some b => if a.1 < b.1 then b else a
  | some a, none => a
  | none, some b => b
  | none, none => (0, 0)

/-- The active slot of kinds 1 to 5. -/
def State.slotOf (s : State) (kind : Nat) : Nat := b2n (bit s.slotsNow.2 kind)

/-- The images that start. -/
def State.startImages (s : State) (boot : Nat) : List Image :=
  (List.range 6).map fun k =>
    let slot := if k = 0 then boot else s.slotOf k
    (s.imageIn k slot).getD { slot := slot }

/-- BOOT_SLOT of the record in force. -/
def State.bootSlot (s : State) : Nat := b2n (bit (s.opt 4) 48)

/-- The monitor's own image stands in neither slot: only recovery requests are accepted (R445). -/
def State.noMonitor (s : State) : Bool := (s.imageIn 3 0).isNone && (s.imageIn 3 1).isNone

/-- `FIRMWARE_VERIFY` (R412 beat 7): the management image of BOOT_SLOT, then the other; the chain is checked (R429), its
signatures and its root's digest by the verdict (log entry 7). A SCRAPPED module starts none (R432). -/
def execFirmwareVerify (okA okB chainOk : Bool) (s : State) : Outcome :=
  M.go s (whenM (s.rst.closed.contains .mgmt ∧ s.rst.closed.contains .hub = false ∧ s.covered .mgmt = false ∧ s.lc ≠ 4) do
    let ok (slot : Nat) : Bool := if slot = 0 then okA else okB
    modSec fun x => { x with chainOk := chainOk && s.chainFits, recovery := s.noMonitor }
    let first := s.bootSlot
    if ok first || ok (1 - first) then
      let used := if ok first then first else 1 - first
      setF F.rstStatus_bootUsed used
      setFlag F.rstStatus_bootFail false
      modRst fun x => { x with closed := x.closed.filter (· != .mgmt), firmware := true }
      modSec fun x => { x with images := s.startImages used, micro := (List.range 2).map fun k => (s.imageIn 4 k).getD {} }
      refreshSec
    else setFlag F.rstStatus_bootFail true)

/-- A record that a previous run, or the record's defaults, call for (R398, R411, R450). -/
def reportCauses : M s0 Unit := do
  let s ← cur
  if s.flag F.tmpTripCause_valid then
    errRecord { kind := 0x72, sev := 2, source := 7, loc := s.fld F.tmpTripCause_index, count := s.fld F.tmpTripCause_kind }
  if s.flag F.rstCause_security then errRecord { kind := 0x90, sev := 2, source := 9 }
  if s.fld F.rstStatus_optSrc = 2 then errRecord { kind := 0x80, sev := 2, source := 8 }

/-- A channel that the log names, or a package that is not populated, is mapped out (R199, R410). -/
def mapOut (t c : Nat) : M s0 Unit := do
  let s ← cur
  let m := s.dead t ||| 2 ^ c
  let n := popcount 16 m
  setCh F.stkChState_state F.dtChState_state 3 t c
  if t < 12 then
    setBoth F.stkMapDead_dead m t
    setBoth F.stkMapCapacity_gib (64 - 4 * n) t
    each (chanUnits t c) fun p => do
      setF F.galUnitState_service 3 t p
      modUnits (uKey t p) fun x => { x with gone := true }
  else
    setBoth F.dtMapDead_dead m
    setBoth F.dtMapCapacity_gib (1024 - 64 * n)

/-- One entry of the retirement log applied (R99). -/
def applyEntry (e : Nat × Nat × Nat) : M s0 Unit := do
  let (kind, i, v) := e
  match kind with
  | 0 | 1 => modStrikes fun l => l ++ [{ loc := i, unit := kind == 1, time := -((v * 60000000 : Nat) : Int) }]
  | 2 =>
    let (d, st, core) := (coreDie i, coreSet i, coreOf i)
    if (← cur).flag F.cdCoreStatus_retired d st core = false then
      setFlag F.cdCoreStatus_retired true d st core
      setF F.cdSetStatus_retiredCores ((← cur).fld F.cdSetStatus_retiredCores d st + 1) d st
  | 3 =>
    setF F.cdSetStatus_state 6 (i / 40) (i % 40)
    setF F.cdSetStatus_activeCores 0 (i / 40) (i % 40)
    setF F.cdSetsInService_mask (setBits ((← cur).fld F.cdSetsInService_mask (i / 40)) (i % 40) (i % 40) 0) (i / 40)
  | 4 =>
    setF F.galUnitState_service 1 (i / 32) (i % 32)
  | 5 => mapOut (i / 16) (i % 16)
  | 6 => modTier fun x => { x with lost := if x.lost.contains i then x.lost else x.lost ++ [i] }
  | 7 => setFlag F.fabPortStatus_retired true i
  | _ => setF F.fabPortStatus_lanesFailed ((← cur).fld F.fabPortStatus_lanesFailed (i / 8) ||| 2 ^ (i % 8)) (i / 8)

/-- The retirement log applied: strikes by their ages, cores with their spares, the rest (R99, R100). The log holds no map:
logical numbers go to the sound cores in ascending order, as R101 maps a set that returns (DEDUCED, log entry 55). -/
def applyLog : M s0 Unit := do
  let s ← cur
  modStrikes fun _ => []
  each s.retlog applyEntry
  each ((s.retlog.filter fun e => e.1 == 2).map fun e => setOfKey e.2.1).eraseDups fun x => do
    let d := x / 40
    let st := x % 40
    let bad := (← cur).retiredCores d st
    let pass := (List.range 130).filter fun k => !bad.contains k
    if 128 ≤ pass.length then putMap d st pass
  each (← cur).strikes refreshStrikes

/-- Units in service, of stacks in service. -/
def State.unitsInService (s : State) (n : Nat) : Nat :=
  if s.tier.absent.contains n || s.tier.lost.contains n then 0
  else ((List.range 32).filter fun p => s.unitService n p == 0).length

/-- The feature values of the stacks and the deep tier (R76, R410). A LOST stack keeps its bytes (log entry 39). -/
def publishTiers : M s0 Unit := do
  let s ← cur
  let live := stackList.filter fun n => !s.tier.absent.contains n && !s.tier.lost.contains n
  featSet F.featStacks_value (live.foldl (fun m n => m + 2 ^ n) 0)
  featSet F.featStackBytes_value ((stackList.map s.capacity).foldl (· + ·) 0)
  featSet F.featDeepBytes_value (s.capacity 12)
  featSet F.featGalliard_value ((stackList.map s.unitsInService).foldl (· + ·) 0)

/-- `WIPE_TIMEOUT` (R416): the part stays in reset, as though unpopulated; where the feature values have been published, they
follow (R77, R410). -/
def execWipeTimeout (deep : Bool) (n : Nat) (s : State) : Outcome :=
  M.go s (whenM ((if deep then s.rst.wiping else s.rst.clearing).contains n) do
    modRst fun x => { x with
      wiping := if deep then x.wiping.filter (· != n) else x.wiping
      clearing := if deep then x.clearing else x.clearing.filter (· != n)
      timedOut := x.timedOut ++ [if deep then 16 + n else n] }
    if !deep then modTier fun x => { x with absent := x.absent ++ [n] }
    errRecord { kind := 0x80, sev := 2, source := 8, loc := if deep then 384 + n else n * 32 }
    if s.rst.published then
      if deep then mapOut 12 n
      publishTiers
    refreshWiping)

/-- The feature values (R76, R77, R410). -/
def publishFeats : M s0 Unit := do
  refreshFeatSets
  publishTiers
  let s ← cur
  featSet F.featFabric_value (((List.range 48).filter fun p => !s.flag F.fabPortStatus_retired p).foldl (fun m p => m + 2 ^ p) 0)
  featSet F.featVersion_value (setBits (s.fld F.featVersion_value) 15 0 (s.sec.images.getD 1 {}).rev)
  each (List.range 2) fun d => setF F.cdId_figureRev (s.sec.images.getD 1 {}).rev d

/-- `READY` (R412 beat 12): the management firmware has published, every clear and wipe is done. -/
def execReady (s : State) : Outcome :=
  M.go s (whenM (s.rst.published = true ∧ s.rst.clearing = [] ∧ s.rst.wiping = [] ∧ s.rst.sources = [] ∧ s.rst.unlocked = [])
    (setFlag F.rstStatus_ready true))

/-! ### The sources -/

/-- The power-on reset is asserted: only the sticky cells last (R406, R408, R419). -/
def powerOn : M s0 Unit := do
  let s ← cur
  assertReset 0
  modRst fun x => { x with timedOut := [] }
  modSec fun x => { x with fails := 0, lockouts := 0, lockUntil := none }
  setReg ⟨.rstCause, 0, 0, 0⟩ (1 + (s.fld F.rstCause_trip) * 2 ^ 4 + (s.fld F.rstCause_security) * 2 ^ 5)
  setF F.rstHubEpoch_epoch 0
  setF F.rstWdogCount_count 0

/-- `POWER_ON_ASSERT` (R406). -/
def execPowerOnAssert (s : State) : Outcome := M.go s powerOn

/-- `POWER_ON_RELEASE` (R412 beats 2 to 4): the journal, the option record, the rails. With the THERMTRIP_N latch set there is
no release (R408). -/
def execPowerOnRelease (s : State) : Outcome :=
  M.go s (whenM (s.rst.sources.contains 0 ∧ s.pwr.latched = false) do
    journalRestore
    readOption
    modPwr fun x => { x with off := false }
    releaseReset 0)

/-- `MRST_ASSERT` (R406). -/
def execMrstAssert (s : State) : Outcome :=
  M.go s (do
    assertReset 1
    setFlag F.rstCause_mrst true)

/-- `MRST_RELEASE` (R409, R412). -/
def execMrstRelease (s : State) : Outcome :=
  M.go s (whenM (s.rst.sources.contains 1) do
    readOption
    releaseReset 1)

/-- `HOT_RESET_ASSERT` (R406): signalled on the link, which this reset does not reach. -/
def execHotResetAssert (s : State) : Outcome :=
  M.go s (whenM (s.rst.closed.contains .link = false) do
    assertReset 2
    setFlag F.rstCause_hot true)

/-- `HOT_RESET_RELEASE` (R412). -/
def execHotResetRelease (s : State) : Outcome := M.go s (releaseHeld 2)

/-- The watchdog reset is asserted (R406, R469). -/
def watchdogReset : M s0 Unit := do
  assertReset 3
  setFlag F.rstCause_wdog true

/-- Management cores run, and can leave a watchdog unserviced. -/
def State.mgmtRuns (s : State) : Bool := !s.rst.closed.contains .mgmt

/-- `WATCHDOG_EXPIRY` (R406). -/
def execWatchdogExpiry (s : State) : Outcome := M.go s (whenM (s.mgmtRuns = true) watchdogReset)

/-- `MGMT_MEMORY_UNCORRECTABLE` (R469): as the watchdog. -/
def execMgmtMemoryUncorrectable (core : Nat) (s : State) : Outcome :=
  M.go s (whenM (core < 4 ∧ s.mgmtRuns = true) watchdogReset)

/-- What a reset caller leaves of one context: an open step goes to encore; every other packet in flight completes with
ST_RESTARTED and its queue stops (R41, R469). -/
def restartCtx (c : Nat) : M s0 Unit := do
  let x := (← cur).ctxsAt c
  let ps := x.pkts.filter fun p => p.st != .done
  modSched fun y => { y with faults := y.faults.filter fun f => f.ctx != c }
  each (List.range 4) fun q => modQue (qKey c q) fun y => { y with chain := [], skip := none, laterSkip := none, fault := none, failAs := none, stuck := false }
  each ps fun p => do
    abandon c p
    if p.inStep ∧ x.step.isSome then modCtxs c fun y => { y with pkts := y.pkts.filter fun z => z.id != p.id }
    else
      endPkt c p.id stRestarted 0
      modQue (qKey c p.q) fun y => { y with errStop := true }
      match (← cur).pkt c p.id with
      | some y => completePkt c y
      | none => pure ()
  if x.step.isSome then stepFails c { status := stRestarted } false
  refresh c

/-- The callers run again after a reset that left the hub: every enabled context resumes from its registers (R469). -/
def restartAll : M s0 Unit := do
  let s ← cur
  if s.covered .mgmt = false ∧ s.rst.closed.contains .hub = false then
    each ((s.ctxs.map Prod.fst).filter fun c => s.flag F.schCtxCfg_en c) restartCtx

/-- `WATCHDOG_RELEASE` (R406, R469): the management cores and callers run on; the reset is counted and recorded. -/
def execWatchdogRelease (s : State) : Outcome :=
  M.go s (whenM (s.rst.sources.contains 3) do
    releaseReset 3
    restartAll
    bump F.rstWdogCount_count 1
    errRecord { kind := 0x80, sev := 2, source := 8 })

/-- A thermal trip or power fault (R384, R398, R408): the latch, the rails, the cause, the journal, the reset. -/
def trip (kind index : Nat) : M s0 Unit := do
  setReg ⟨.tmpTripCause, 0, 0, 0⟩ (causeWord kind index)
  setFlag F.rstCause_trip true
  journalAppend (causeWord kind index)
  modPwr fun x => { x with off := true, latched := true }
  assertReset 4

/-- `TRIP_LATCH_RELEASE` (R408): a power-on reset stands in the trip's place until it is released (DEDUCED, log entry 46). -/
def execTripLatchRelease (s : State) : Outcome :=
  M.go s (whenM (s.pwr.latched = true) do
    modPwr fun x => { x with latched := false }
    powerOn
    modRst fun x => { x with sources := x.sources.filter (· != 4) })

/-- What a security violation destroys beside the reset's wipe (R450). -/
def securityViolation (code : Nat) : M s0 Unit := do
  setFlag F.rstCause_security true
  journalAppend (causeWord 7 code)
  assertReset 5

/-- `SECURITY_VIOLATION` (R450). -/
def execSecurityViolation (code : Nat) (s : State) : Outcome := M.go s (securityViolation code)

/-- `SECURITY_RESET_RELEASE` (R406). -/
def execSecurityResetRelease (s : State) : Outcome := M.go s (releaseHeld 5)

/-- `DEBUG_RESET` (R406, R437, R438): the union of the reaches named by the bits of `reach`, where the session grants D. -/
def execDebugReset (reach : Nat) (s : State) : Outcome :=
  M.go s (whenM (s.flag F.secDbgStatus_resetOk = true ∧ s.rst.closed.contains .hub = false) do
    modRst fun x => { x with reach := [0, 1, 2, 3, 4, 5].filter (bit reach) }
    assertReset 6
    setFlag F.rstCause_debug true)

/-- `DEBUG_RESET_RELEASE` (R406): callers that it reset alone run on as after the watchdog (R469). -/
def execDebugResetRelease (s : State) : Outcome :=
  M.go s (do
    releaseHeld 6
    if s.rst.sources.contains 6 ∧ s.reaches 6 .mgmt = true then restartAll)

/-! ### The references (R405) -/

/-- FAB_REF of the record in force. -/
def State.fabOwnRef (s : State) : Bool := !bit (s.opt 1) 33

/-- Ports that are enabled and in service. -/
def State.portsOn (s : State) : List Nat :=
  (List.range 48).filter fun p => s.flag F.fabPortCtrl_en p && !s.flag F.fabPortStatus_retired p

/-- `REFCLK_FAIL` (R405). -/
def execRefclkFail (core : Bool) (s : State) : Outcome :=
  M.go s (if core then do
      assertReset 7
      setFlag F.rstCause_refclk true
    else whenM (s.fabOwnRef = true ∧ s.fab.refDown = false) do
      modFab fun x => { x with refDown := true }
      if s.rst.closed.contains .hub = false then
        each s.portsOn fun p => setFlag F.fabPortStatus_up false p
        errRecord { kind := 0x50, sev := 2, source := 5 })

/-- `REFCLK_RECOVER` (R405). -/
def execRefclkRecover (core : Bool) (s : State) : Outcome :=
  M.go s (if core then whenM (s.rst.sources.contains 7) do
      readOption
      releaseReset 7
    else whenM (s.fab.refDown = true) do
      modFab fun x => { x with refDown := false }
      each s.portsOn trainPort)

/-! ### Block soft resets (R417) -/

/-- The target is in a state in which its soft reset is accepted. -/
def State.softOk (s : State) (kind die idx : Nat) : Bool :=
  match kind with
  | 0 => decide (idx < 40) && (s.fld F.cdSetStatus_state die idx == 0 || s.fld F.cdSetStatus_state die idx == 6)
  | 1 => decide (idx < 12) && !bit (s.fld F.featStacks_value) idx
  | 2 => decide (idx < 48) && !s.flag F.fabPortCtrl_en idx
  | _ => decide (idx < 8) && (List.range 256).all fun c => !(s.flag F.schCtxCfg_en c && s.fld F.schCtxState_caller c == idx)

/-- The registers of a stack that a soft reset of it returns to their reset values: all of its block but what retirement has
made of its channels and units, which no reset undoes (R7, R99, R199; log entry 66). -/
def stackCleared (n : Nat) (r : Reg) : Bool :=
  ((windowBlock r.offset).map Prod.snd) == some (.stack n) &&
    !(r.name == .stkChState || r.name == .stkMapDead || r.name == .stkMapCapacity || r.name == .galUnitState)

/-- What the hub keeps of a stack that is reset: its groups' pending commits and locks, its regulators' tokens, its laps, its
errors (R11, R178, R189, R198). -/
def forgetStack (n : Nat) : M s0 Unit := do
  let other (g : Group) : Bool := g != .stkMap n && g != .stkReg n
  modSched fun x => { x with
    lockWait := x.lockWait.filter other, justGo := x.justGo.filter other
    buckets := x.buckets.filter fun e => e.1 / 16 != n
    throttled := x.throttled.filter fun k => k / 16 != n }
  modTier fun x => { x with
    ueTimes := x.ueTimes.filter fun e => e.1 / 16 != n
    mapWait := x.mapWait.filter (· != n), mapRun := x.mapRun.filter (· != n)
    laps := x.laps.filter fun k => k / 16 != n, alarmed := x.alarmed.filter fun k => k / 16 != n }

/-- The block's own storage and registers are cleared (R417). A set's counters stay, which only CLEAR zeroes (R105). -/
def clearBlock (kind die idx : Nat) : M s0 Unit :=
  match kind with
  | 0 => do
    zeroSet (40 * die + idx)
    modSets (40 * die + idx) fun x => { x with ues := [] }
    setFlag F.cdSetStatus_ctrlIgnored false die idx
    setFlag F.cdSetStatus_testFailed false die idx
  | 1 => do
    each (List.range 32) fun p => do
      setF F.galUnitState_mode 0 idx p
      setF F.galUnitState_microRev 0 idx p
      modUnits (uKey idx p) fun x => { gone := x.gone }
      clearBuf idx p
      refreshUnit idx p
    eff (.dropRegs (stackCleared idx))
    forgetStack idx
    wipeMem fun a => targetOf a == idx
  | 2 => do
    setF F.fabPortStatus_lanesFailed 0 idx
    each (List.range 8) fun l => logRetire 8 (8 * idx + l) false
    modFab fun x => { x with held := x.held.filter fun h => h.port != idx }
  | _ => pure ()

/-- GO of RST_SOFT (R417). -/
def softGo (kind die idx : Nat) : M s0 Unit := do
  let s ← cur
  setF F.rstSoft_kind kind
  setF F.rstSoft_die die
  setF F.rstSoft_index idx
  let b := softBlk kind die idx
  if s.rst.soft.isSome ∨ s.softOk kind die idx = false then setFlag F.rstSoftStatus_refused true
  else
    setFlag F.rstSoftStatus_busy true
    modRst fun x => { x with
      soft := some (kind, die, idx)
      closed := if x.closed.contains b then x.closed else x.closed ++ [b] }
    clearBlock kind die idx
    refreshWiping

/-- `SOFT_RESET` (R417). -/
def execSoftReset (kind die idx : Nat) (s : State) : Outcome :=
  M.go s (atReg ⟨.rstSoft, 0, 0, 0⟩ (softGo (kind % 4) (die % 2) (idx % 64)))

/-- The block can be released: no other source holds it, nor what it is part of (R407). -/
def State.softDue (s : State) (kind die idx : Nat) : Bool :=
  !s.covered (softBlk kind die idx) && (match kind with
    | 0 => !s.rst.closed.contains (.die die)
    | 1 => true
    | _ => !s.rst.closed.contains .hub)

/-- `SOFT_RESET_RELEASE` (R417): BUSY lasts while another source holds the block (R407). A stack that is not populated stays
in reset (R410). -/
def execSoftResetRelease (s : State) : Outcome :=
  M.go s (match s.rst.soft with
    | some (kind, die, idx) => whenM (s.softDue kind die idx = true) do
      let stays := kind == 1 && s.tier.absent.contains idx
      modRst fun x => { x with
        soft := none
        closed := if stays then x.closed else x.closed.filter (· != softBlk kind die idx) }
      setFlag F.rstSoftStatus_busy false
      setFlag F.rstSoftStatus_done true
      refreshWiping
    | none => pure ())

end Sys2Proof.Machine
end

