-- ==== Sys2Proof/Machine/Power.lean ====
section
/-!
DEFINITION. Power and temperature (chapter 13): the input (R380), rails and their responses (R382 to R384), operating points
and the module cap (R385 to R389), cues (R390, R391), droop (R392, R393), temperature (R395 to R398), idle states (R399,
R400). Consumers are numbered as in the state: 0 and 1 the dies, 2 to 5 the stack groups, 6 the hub. Measured figures are
operands (log entry 9).
-/
namespace Sys2Proof.Machine

variable {s0 : State}

/-! ### Points -/

/-- The nominal and the boost point of a die, in steps of 25 MHz from 500 MHz (R76, R386). -/
def State.nominal (s : State) : Nat := (bits (s.fld F.featClock_value) 15 0 - 500) / 25
def State.boost (s : State) : Nat := (bits (s.fld F.featClock_value) 31 16 - 500) / 25

/-- The highest point of a consumer, and its least (R385, R387). -/
def State.top (s : State) (c : Nat) : Nat := if c < 2 then s.boost else 16
def leastPoint (c : Nat) : Nat := if c < 2 then 0 else 1

/-- A cue names a die (R390). -/
def Cue.names (q : Cue) (d : Nat) : Bool := q.dies == 0 || bit q.dies d

/-- Percent busy of a die in the last tick. -/
def State.busyOf (s : State) (d : Nat) : Nat := nth s.pwr.draws (6 + d)

/-- A cue holds the die out of rest (R390). -/
def State.cueHolds (s : State) (d : Nat) : Bool :=
  s.flag F.pwrCfg_cueEn && s.pwr.cues.any fun q => (q.kind == 0 || q.kind == 2) && q.names d && q.holding && !q.ended

/-- A sensor's reading, signed, in 1/16 °C. -/
def State.temp (s : State) (i : Nat) : Int := signed 16 (s.fld F.tmpSense_temp i)

/-- The sensors of a part: 0 to 2 CD0, CD1, HB; 3 and on the stacks; 16 and on the external inputs (R395). -/
def sensorsOf (part : Nat) : List Nat :=
  match part with
  | 0 => List.range 36
  | 1 => (List.range 36).map (36 + ·)
  | 2 => (List.range 12).map (72 + ·)
  | n => if n < 16 then [84 + (n - 3)] else [96 + (n - 16)]

/-- The highest valid reading of a part, or none (R398). -/
def State.hottest (s : State) (part : Nat) : Option Int :=
  ((sensorsOf part).filter fun i => s.flag F.tmpSense_valid i).foldl (fun m i => match m with
    | none => some (s.temp i)
    | some t => some (max t (s.temp i))) none

/-- A part reads at least t °C. -/
def State.atLeast (s : State) (part : Nat) (t : Int) : Bool := (s.hottest part).any fun x => decide (16 * t ≤ x)

/-- An IDLE cue's phase has begun after the last tick: the die goes to its rest point (R390). -/
def State.sentToRest (s : State) (d : Nat) : Bool :=
  s.flag F.pwrCfg_cueEn && s.pwr.cues.any fun q => q.kind == 3 && q.names d && q.begun && !q.ended && decide (s.pwr.tick ≤ q.start)

/-- The point of a die that does not rest, outside even-tempo mode (R386). -/
def State.awake (s : State) (c : Nat) : Nat :=
  if s.flag F.pwrCfg_boostEn && decide (s.fld F.pwrRail_amps c * 10 < s.fld F.pwrCapRail_lim100us c * 4 * 7) &&
      !s.atLeast c 85 then s.boost
  else s.nominal

/-- The requested point of a consumer (R386, R390). -/
def State.requested (s : State) (c : Nat) : Nat :=
  if 2 ≤ c then 16
  else if s.flag F.pwrCfg_evenTempo then s.nominal
  else if (s.busyOf c < 10 ∨ s.sentToRest c) ∧ !s.cueHolds c then 0
  else s.awake c

/-- The point a consumer requested when the points in force were computed. -/
def State.asked (s : State) (c : Nat) : Nat := s.pwr.asked.getD c (s.requested c)

/-- The die rests (R386, R390). -/
def State.rests (s : State) (d : Nat) : Bool := s.asked d == 0

/-- Rails of a consumer (R381). -/
def railsOf (c : Nat) : List Nat := if c < 2 then [c, 2 + c] else if c < 6 then [3 + c, 9] else [4]

/-- Braking is in force (R389). -/
def State.braking (s : State) : Bool := s.pwr.land || s.pwr.inBrake

/-- Watts by which external inputs lower the cap (R398). -/
def State.extLow (s : State) : Nat := (s.pwr.extLow.map Prod.snd).foldl (· + ·) 0

/-- The duty ceiling of a stack group by its stacks' temperatures (R398). -/
def State.dutyCeiling (s : State) (g : Nat) : Nat :=
  if (List.range 3).any fun i => s.atLeast (3 + 3 * g + i) 95 then 4
  else if (List.range 3).any fun i => s.atLeast (3 + 3 * g + i) 90 then 8 else 16

/-- The ceiling of a consumer under its rails' 100 us windows (R382). -/
def State.railCeiling (s : State) (c : Nat) : Nat :=
  (railsOf c).foldl (fun m r => min m (s.top c - Tab.get 0 s.pwr.ceil r)) (s.top c)

/-- Points by which a consumer's rails lower it at once (R382). -/
def State.railLow (s : State) (c : Nat) : Nat := ((railsOf c).map fun r => Tab.get 0 s.pwr.low10 r).foldl (· + ·) 0

/-- The limit temperature sets on a die's point: steps down from 95 °C, 500 MHz from 105 °C (R398). -/
def State.heatLimit (s : State) (d : Nat) : Nat := if s.atLeast d 105 then 0 else s.top d - Tab.get 0 s.pwr.hot d

/-- The point the last tick gave a consumer; its requested point before the first tick. -/
def State.tickPoint (s : State) (c : Nat) : Nat := s.pwr.points.getD c (if c < 2 then s.nominal else 16)

/-- The point in force: the lowest of those that the tick, the rails and temperature allow (R387). -/
def State.pointNow (s : State) (c : Nat) : Nat :=
  let t := min (s.tickPoint c) (s.railCeiling c)
  let t := if c < 2 then min t (s.heatLimit c) else min t (s.dutyCeiling (c - 2))
  max (leastPoint c) (t - s.railLow c)

/-- A COLLECTIVE cue's phase keeps the hub clock (R390). -/
def State.hubKept (s : State) : Bool :=
  s.flag F.pwrCfg_cueEn && s.pwr.cues.any fun q => q.kind == 2 && q.begun && !q.ended

/-- The hub clock's step: 0 for 1,200, 1 for 900, 2 for 600 MHz (R382, R389, R390, R398). -/
def State.hubStep (s : State) : Nat :=
  let rail := if s.hubKept then 0 else s.railLow 6 + b2n (s.pwr.gated.contains 4)
  let heat := if s.atLeast 2 105 then 2 else Tab.get 0 s.pwr.hot 2
  min 2 (max (b2n s.braking) (max rail heat))

/-- Clock of a die or of the hub in MHz (R385, R393). -/
def State.clockNow (s : State) (d : Nat) : Nat :=
  if d = 2 then nth [1200, 900, 600] s.hubStep
  else (500 + 25 * s.pointNow d) / (if s.pwr.droop.contains d then 2 else 1)

/-! ### What caps a consumer (R386) -/

/-- The causes that hold for part d, in the order of their codes (R401). -/
def State.causes (s : State) (d : Nat) : List Nat :=
  let req := if d = 2 then 0 else s.asked d
  let short := d < 2 && decide (s.tickPoint d < req)
  let rail := if d = 2 then !s.hubKept && (decide (0 < s.railLow 6) || s.pwr.gated.contains 4)
    else decide (0 < s.railLow d) || decide (s.railCeiling d < req) || (railsOf d).any s.pwr.gated.contains
  let heat := if d = 2 then s.atLeast 2 105 || decide (0 < Tab.get 0 s.pwr.hot 2)
    else decide (s.heatLimit d < req) || (short && decide (0 < s.extLow))
  [(1, short && !s.braking && s.extLow == 0), (2, rail), (3, heat), (4, if d = 2 then s.braking else short && s.braking),
    (5, s.pwr.droop.contains d)].filterMap fun e => if e.2 then some e.1 else none

/-- The overlay's value of an item (R441). -/
def State.overlayItem (s : State) (item idx : Nat) : Int :=
  match s.sec.overlay with
  | some (_, es) => ((es.find? fun e => e.1 == item && e.2.1 == idx).map fun e => e.2.2).getD 0
  | none => 0

/-- A die's target voltage at a point in mV (R385, R440, R441). -/
def State.voltage (s : State) (d p : Nat) : Nat := ((Config.dieVoltage d p : Int) + s.overlayItem 1 (21 * d + p)).toNat

/-- `PWR_DIE_d` follows (R401). -/
def refreshDie (d : Nat) : M s0 Unit := do
  let s ← cur
  setF F.pwrDie_fReq (if d = 2 then 1200 else 500 + 25 * s.asked d) d
  setF F.pwrDie_fNow (s.clockNow d) d
  setF F.pwrDie_vNow (if d = 2 then 0 else s.voltage d (s.pointNow d)) d
  setFlag F.pwrDie_capped (!(s.causes d).isEmpty) d
  setF F.pwrDie_cause ((s.causes d).headD 0) d
  setFlag F.pwrDie_rest (d < 2 && s.rests d) d
  setFlag F.pwrDie_cueHold (d < 2 && s.cueHolds d) d

/-- The registers of every die and of the hub. -/
def refreshDies : M s0 Unit := each (List.range 3) refreshDie

/-- The tempo controller works: the hub is out of reset and the rails are on. -/
def State.tempoOn (s : State) : Bool := !s.inReset .hub && !s.pwr.off

/-! ### The module cap (R387) -/

/-- The reservation of a consumer in mW, where a cue's phase applies (R390, log entry 47). -/
def State.reservation (s : State) (c need : Nat) : Option Nat :=
  let of_ (q : Cue) : Bool := q.begun && !q.ended &&
    (if c < 2 then q.kind == 0 && q.names c else q.kind == 1 && q.names ((c - 2) / 2))
  let rs := if s.flag F.pwrCfg_cueEn then (s.pwr.cues.filter of_).map fun q =>
      if q.level = 0 then need else min need (q.level * s.fld F.pwrCap_watts * 10) else []
  if rs.isEmpty then none else some (rs.foldl max 0)

/-- The limit in mW (R387, R389, R398). -/
def State.powerLimit (s : State) : Int :=
  let cap := ((s.fld F.pwrCap_watts : Nat) : Int) - s.extLow
  1000 * (if s.braking then min cap (s.fld F.pwrCap_brakeW) else cap)

/-- Mean input power of the last tick, in mW. -/
def State.inputPower (s : State) : Int := s.fld F.pwrInput_milliwatts

/-- The grants of consumers 0 to 5 in mW, and whether the least points exceed what is available (R387). -/
def State.grants (s : State) : List Int × Bool :=
  let cs := List.range 6
  let model (c p : Nat) : Int := Config.powerModel s.pwr.draws c p
  let sum (xs : List Int) : Int := xs.foldl (· + ·) 0
  let fixed := s.inputPower - sum (cs.map fun c => (nth s.pwr.draws c : Int))
  let avail := s.powerLimit - 1000 * s.fld F.pwrCap_guardW - fixed
  let need := cs.map fun c => model c (s.requested c)
  let floor := cs.map fun c => model c (if c < 2 then 0 else 4)
  let least := cs.map fun c => model c (leastPoint c)
  let at_ (xs : List Int) (c : Nat) : Int := xs.getD c 0
  let first := cs.map fun c =>
    if s.flag F.pwrCfg_evenTempo ∧ c < 2 then at_ need c
    else match s.reservation c (at_ need c).toNat with
      | some r => (r : Int)
      | none => at_ floor c
  let unmet := decide (avail < sum least)
  if sum need ≤ avail then (need, unmet)
  else if sum first ≤ avail then
    let span := sum need - sum first
    (cs.map fun c => at_ first c + (avail - sum first) * (at_ need c - at_ first c) / span, unmet)
  else (cs.map fun c => max (at_ least c) (at_ first c * avail / sum first), unmet)

/-- The highest point of a consumer, up to its requested one, whose predicted power lies within its grant (R387). -/
def State.grantPoint (s : State) (c : Nat) (grant : Int) : Nat :=
  let ps := (List.range (s.requested c + 1)).filter fun p => decide (leastPoint c ≤ p) &&
    decide ((Config.powerModel s.pwr.draws c p : Int) ≤ grant)
  ps.foldl max (leastPoint c)

/-- The points computed from the last measurements. -/
def computePoints : M s0 Unit := do
  let s ← cur
  let (gs, _) := s.grants
  modPwr fun x => { x with
    points := (List.range 6).map fun c => s.grantPoint c (gs.getD c 0)
    asked := (List.range 6).map s.requested }
  refreshDies

/-- A record at most once a second for each cause (R387, R393, R394). -/
def oncePerSecond (key : Nat) (e : ErrRec) : M s0 Unit := do
  let s ← cur
  let last := Tab.get 0 s.pwr.recorded key
  if last = 0 ∨ last + 1000000 ≤ s.now + 1 then
    modPwr fun x => { x with recorded := Tab.put 0 x.recorded key (s.now + 1) }
    errRecord e

/-- A power record of kind 0x70: its severity, INFO or CORRECTED, is not stated for each event (log entry 8). -/
def powerRec (loc : Nat) : M s0 ErrRec := do
  let n ← takeFresh
  pure { kind := 0x70, sev := b2n (Config.freeBit n), source := 7, loc := loc }

/-- The input's figures of the tick: the means of its samples (R401). -/
def takeSamples : M s0 Unit := do
  let xs := (← cur).pwr.samples
  if xs.length ≠ 0 then
    setF F.pwrInput_volts ((xs.map Prod.fst).foldl (· + ·) 0 / xs.length / 10)
    setF F.pwrInput_milliwatts ((xs.map Prod.snd).foldl (· + ·) 0 / xs.length)
  modPwr fun x => { x with samples := [] }

/-- Even-tempo mode is broken while a die runs below 850 MHz for one of its causes (R394). -/
def checkEven : M s0 Unit := do
  let s ← cur
  if s.flag F.pwrCfg_evenTempo ∧ (List.range 2).any fun d => !(s.causes d).isEmpty && decide (s.clockNow d < 500 + 25 * s.nominal) then
    setFlag F.pwrStatus_evenBroken true
    bump F.pwrEvenBroken_count 1
    oncePerSecond 1 (← powerRec 0)

/-- One tick (R387): the measurements, the points, what could not be met. -/
def tempoTick (draws : List Nat) : M s0 Unit := do
  takeSamples
  modPwr fun x => { x with draws := draws, tick := 0 }
  let s ← cur
  modPwr fun x => { x with tick := s.now }
  computePoints
  if (← cur).grants.2 then
    setFlag F.pwrStatus_capUnmet true
    oncePerSecond 0 (← powerRec 0)
  checkEven

/-- `TEMPO_TICK` (R387): watts of consumers 0 to 5 in mW, then percent busy of the dies. While a tempo image switches, ticks
are skipped (R447). -/
def execTempoTick (draws : List Nat) (s : State) : Outcome :=
  M.go s (whenM (s.tempoOn = true ∧ s.sec.switches.all fun w => w.kind != 2) (tempoTick draws))

/-! ### The input and the brake (R380, R389) -/

/-- The brake follows its causes: the status, the hub clock, the points at once. -/
def refreshBrake : M s0 Unit := do
  setFlag F.pwrStatus_brake (← cur).braking
  if (← cur).braking then computePoints else refreshDies

/-- ALERT_N is asserted. -/
def assertAlert : M s0 Unit := setFlag F.pwrStatus_alert true

/-- Nothing calls for ALERT_N any more, from now on. -/
def alertCalm : M s0 Unit := do
  let s ← cur
  if s.pwr.alerts.isEmpty && !s.pwr.highIn && s.pwr.alertOver.isNone then modPwr fun x => { x with alertOver := some s.now }

/-- A moment kept while a condition lasts. -/
def since (on : Bool) (now : Nat) (t : Option Nat) : Option Nat := if on then some (t.getD now) else none

/-- A condition has lasted for us microseconds. -/
def lasted (t : Option Nat) (us now : Nat) : Bool := t.any fun x => decide (x + us ≤ now)

/-- One sample of the input (R380). -/
def inputSample (mv ma : Nat) : M s0 Unit := do
  let s ← cur
  let n := s.now
  modPwr fun x => { x with
    samples := x.samples ++ [(mv, mv * ma / 1000)]
    below40 := since (mv < 40000) n x.below40
    below36 := since (mv < 36000) n x.below36
    above62 := since (62000 < mv) n x.above62
    above40 := since (40000 ≤ mv) n x.above40 }
  if 60000 < mv then
    if !s.pwr.highIn then
      modPwr fun x => { x with highIn := true, alertOver := none }
      assertAlert
      errRecord (← powerRec 0)
  else
    modPwr fun x => { x with highIn := false }
    alertCalm
  let x := (← cur).pwr
  if lasted x.below36 100 n || lasted x.above62 10 n then trip 3 0
  else if lasted x.below40 10 n && !x.inBrake then
    modPwr fun y => { y with inBrake := true }
    refreshBrake

/-- `INPUT_SAMPLE` (R380), in mV and mA. Beyond 65 V the A12 guarantees no behaviour (R493). -/
def execInputSample (mv ma : Nat) (s : State) : Outcome :=
  if 65000 < mv then .fault .beyondRatings
  else M.go s (whenM (s.tempoOn = true) (inputSample mv ma))

/-- `INPUT_BRAKE_END` (R380): the input has stayed at or above 40 V for 1 ms. -/
def execInputBrakeEnd (s : State) : Outcome :=
  M.go s (whenM (s.tempoOn = true ∧ s.pwr.inBrake = true ∧ lasted s.pwr.above40 1000 s.now = true) do
    modPwr fun x => { x with inBrake := false }
    refreshBrake)

/-- The land's level changes; the controller acts while it works (R389, R486). -/
def brakeLand (low : Bool) : M s0 Unit := do
  modPwr fun x => { x with land := low }
  if (← cur).tempoOn then refreshBrake

/-- `PWRBRK_ASSERT` (R389). -/
def execPwrbrkAssert (s : State) : Outcome := M.go s (brakeLand true)

/-- `PWRBRK_RELEASE` (R389). -/
def execPwrbrkRelease (s : State) : Outcome := M.go s (brakeLand false)

/-! ### Rails (R382 to R384) -/

/-- The consumers of a rail (R381). -/
def consumersOf (r : Nat) : List Nat := (List.range 7).filter fun c => (railsOf c).contains r

/-- A rail's limit in mA: VAON's reads in 0.1 A. -/
def railMa (r lim : Nat) : Nat := lim * (if r = 12 then 100 else 1000)

/-- A ceiling one step lower, below the point the consumers request (log entry 47). -/
def State.lowered (s : State) (c old : Nat) : Nat :=
  let t := s.top c
  t - (min (t - old) (if c < 2 then max 1 (s.asked c) else 16) - 1)

/-- The 100 us row: dies and stack groups have ceilings; the hub and VDDQ_STK respond as under 10 us. -/
def hasCeiling (r : Nat) : Bool := decide (r < 4) || (decide (5 ≤ r) && decide (r ≤ 8))

/-- A rail checked against its three windows, with its mean currents in mA and its voltage (R382, R401). -/
def railCheck (r i1 i10 i100 mv : Nat) : M s0 Unit := do
  let s ← cur
  let over1 := decide (railMa r (s.fld F.pwrCapRail_lim1us r) < i1)
  let over10 := decide (railMa r (s.fld F.pwrCapRail_lim10us r) < i10)
  let l100 := railMa r (s.fld F.pwrCapRail_lim100us r)
  let over100 := decide (l100 < i100)
  setF F.pwrRail_amps (i100 / 250) r
  setF F.pwrRail_mv mv r
  if over1 then setFlag F.pwrRail_over1us true r
  if over10 then setFlag F.pwrRail_over10us true r
  if over100 then setFlag F.pwrRail_over100us true r
  let due := decide (Tab.get 0 s.pwr.acted r = 0 ∨ Tab.get 0 s.pwr.acted r + 100 ≤ s.now + 1)
  let stepNow := over100 && hasCeiling r && due
  let low := over10 || (over100 && !hasCeiling r)
  let gated := s.pwr.gated.filter (· != r) ++ if over1 then [r] else []
  let old := Tab.get 0 s.pwr.ceil r
  let c := (consumersOf r).headD 0
  modPwr fun x => { x with
    gated := gated
    low10 := Tab.put 0 x.low10 r (if low then min 20 (Tab.get 0 x.low10 r + 1) else 0)
    ceil := if stepNow then Tab.put 0 x.ceil r (s.lowered c old) else x.ceil
    acted := if stepNow then Tab.put 0 x.acted r (s.now + 1) else if over100 then x.acted else Tab.put 0 x.acted r 0
    under95 := Tab.put none x.under95 r (since (decide (i100 * 100 < l100 * 95)) s.now (Tab.get none x.under95 r)) }
  if 10 ≤ r ∧ (over1 || over10 || over100) then errRecord (← powerRec r)
  refreshDies

/-- `RAIL_CHECK` (R382). -/
def execRailCheck (r i1 i10 i100 mv : Nat) (s : State) : Outcome :=
  M.go s (whenM (s.tempoOn = true ∧ r < 13) (railCheck r i1 i10 i100 mv))

/-- `RAIL_CEILING_RECOVERY` (R382): 1 ms under 95 % of the limit. -/
def execRailCeilingRecovery (r : Nat) (s : State) : Outcome :=
  M.go s (whenM (s.tempoOn = true ∧ r < 13 ∧ 0 < Tab.get 0 s.pwr.ceil r ∧
      lasted (Tab.get none s.pwr.under95 r) 1000 s.now = true) do
    modPwr fun x => { x with
      ceil := Tab.put 0 x.ceil r (Tab.get 0 x.ceil r - 1)
      under95 := Tab.put none x.under95 r (some s.now) }
    refreshDies)

/-- `POL_OVERCURRENT` (R384). -/
def execPolOvercurrent (r : Nat) (s : State) : Outcome := M.go s (whenM (r < 13 ∧ s.pwr.off = false) (trip 2 r))

/-- `RAIL_POWER_GOOD_TIMEOUT` (R412 beat 4): a power fault under R384. -/
def execRailPowerGoodTimeout (r : Nat) (s : State) : Outcome := M.go s (whenM (r < 13 ∧ s.pwr.off = false) (trip 2 r))

/-! ### Cues (R390, R391) -/

/-- The moment from which a cue holds its dies out of rest: the time to slew from the present voltage to that of the requested
non-rest point, at 5 mV a microsecond, before the phase (R385, R390). -/
def State.holdFrom (s : State) (q : Cue) : Nat :=
  let slew (d : Nat) : Nat := ceilDiv (s.voltage d (s.awake d) - s.voltage d (s.pointNow d)) 5
  let t := ((List.range 2).filter q.names).foldl (fun m d => max m (slew d)) 0
  max q.at_ (q.start - t)

/-- The dies a cue names, one bit each. -/
def Cue.mask (q : Cue) : Nat := if q.dies = 0 then 3 else q.dies

/-- What a later cue leaves of one: of a cue of the same kind whose phase has not begun, the dies the later one does not
name (R390). -/
def Cue.leaves (q old : Cue) : Option Cue :=
  if q.kind ≠ old.kind ∨ old.begun = true ∨ q.mask &&& old.mask = 0 then some old
  else if old.mask &&& q.mask = old.mask then none
  else some { old with dies := old.mask - (old.mask &&& q.mask) }

/-- A cue is taken (R390). -/
def takeCue (q : Cue) : M s0 Unit := do
  let s ← cur
  modPwr fun x => { x with cues := x.cues.filterMap q.leaves ++ [{ q with hold := s.holdFrom q }] }

/-- `CUE` (R71): completes at issue; with CUE_EN 0 the controller ignores it. -/
def execCue (c id : Nat) (s : State) : Outcome :=
  M.go s (ctlOf c id 0x81 fun p => do
    let s1 ← cur
    if s1.flag F.pwrCfg_cueEn && s1.sec.switches.all (fun w => w.kind != 2) then
      let start := p.at_ + p.f 2 15 0
      let len := if p.f 2 47 32 = 0 then s1.fld F.pwrCfg_cueHoldUs else p.f 2 47 32
      takeCue { kind := p.f 2 19 16, dies := p.f 2 49 48, at_ := p.at_, start := start, finish := start + len,
                level := p.f 2 31 24 }
    endPkt c p.id stOk 0)

/-- Cue i changed by a function. -/
def modCue (i : Nat) (f : Cue → Cue) : M s0 Unit := modPwr fun x => { x with cues := x.cues.modify i f }

/-- `CUE_PHASE_START` (R390): the hold begins, and the phase once its start has come. -/
def execCuePhaseStart (i : Nat) (s : State) : Outcome :=
  M.go s (match s.pwr.cues[i]? with
    | some q => whenM (s.tempoOn = true ∧ q.ended = false ∧ q.hold ≤ s.now ∧ (q.holding = false ∨ (q.begun = false ∧ q.start ≤ s.now))) do
        modCue i fun x => { x with holding := true, begun := decide (x.start ≤ s.now) }
        computePoints
    | none => pure ())

/-- `CUE_PHASE_END` (R390). -/
def execCuePhaseEnd (i : Nat) (s : State) : Outcome :=
  M.go s (match s.pwr.cues[i]? with
    | some q => whenM (s.tempoOn = true ∧ q.begun = true ∧ q.ended = false ∧ q.finish ≤ s.now) do
        modCue i fun x => { x with ended := true, holding := false }
        modPwr fun x => { x with cues := x.cues.filter fun y => !(y.ended && y.counted) }
        refreshDies
    | none => pure ())

/-- `CUE_EVALUATION` (R391): within 20 us of the phase start; `busy` is the percentage of the consumers it names. -/
def execCueEvaluation (i busy : Nat) (s : State) : Outcome :=
  M.go s (match s.pwr.cues[i]? with
    | some q => whenM (s.tempoOn = true ∧ q.begun = true ∧ q.counted = false ∧ q.start + 20 ≤ s.now) do
        if 10 ≤ busy then bump F.pwrCueHits_count 1 else bump F.pwrCueMisses_count 1
        modCue i fun x => { x with counted := true }
        modPwr fun x => { x with cues := x.cues.filter fun y => !(y.ended && y.counted) }
    | none => pure ())

/-! ### Droop (R392, R393) -/

/-- `DROOP_DETECT` (R392): one half-step; those of one microsecond are a run, of at most eight (log entry 47). -/
def execDroopDetect (d : Nat) (s : State) : Outcome :=
  M.go s (
    let (t, n) := Tab.get (0, 0) s.pwr.runs d
    let n := if t = s.now + 1 then n else 0
    whenM (s.tempoOn = true ∧ d < 2 ∧ n < 8 ∧ s.pwr.droop.contains d = false) do
      modPwr fun x => { x with runs := Tab.put (0, 0) x.runs d (s.now + 1, n + 1) }
      bump F.pwrHalfSteps_count 1 d
      if n = 0 then bump F.pwrDroops_count 1 d)

/-- `DROOP_FALLBACK` (R393): after the eighth half-step in a row. -/
def execDroopFallback (d : Nat) (s : State) : Outcome :=
  M.go s (whenM (s.tempoOn = true ∧ d < 2 ∧ (Tab.get (0, 0) s.pwr.runs d).2 = 8 ∧ s.pwr.droop.contains d = false) do
    modPwr fun x => { x with droop := x.droop ++ [d], runs := Tab.put (0, 0) x.runs d (0, 0) }
    bump F.pwrFallbacks_count 1 d
    oncePerSecond (2 + d) { kind := 0x71, sev := 1, source := 7, loc := d }
    refreshDies)

/-- `DROOP_RECOVER` (R393). -/
def execDroopRecover (d : Nat) (s : State) : Outcome :=
  M.go s (whenM (s.pwr.droop.contains d) do
    modPwr fun x => { x with droop := x.droop.filter (· != d) }
    refreshDies)

/-! ### Temperature (R395 to R398) -/

/-- The trip temperature of an input in 1/16 °C (R398). -/
def State.tripAt (s : State) (i : Nat) : Int :=
  if i < 84 then 115 * 16 else if i < 96 then 100 * 16 else signed 16 (s.fld F.tmpExtLim_trip (i - 96))

/-- The reading that asserts ALERT_N (R398); none for an external input. -/
def alertAt (i : Nat) : Option Int := if i < 84 then some (105 * 16) else if i < 96 then some (95 * 16) else none

/-- A reading takes effect (R398): the alert, the points, the trip. -/
def takeReading (i : Nat) (t : Int) (broken : Bool) : M s0 Unit := do
  setF F.tmpSense_temp (wrap 16 t) i
  setFlag F.tmpSense_valid true i
  setFlag F.tmpSense_broken broken i
  let s ← cur
  if (alertAt i).any fun a => decide (a ≤ t) then
    modPwr fun x => { x with alerts := if x.alerts.contains i then x.alerts else x.alerts ++ [i], alertOver := none }
    assertAlert
  else
    modPwr fun x => { x with alerts := x.alerts.filter (· != i) }
    alertCalm
  if s.tripAt i ≤ t then trip (b2n broken) i else refreshDies

/-- One read of an input: a bad one is held back, the second in a row finds it broken (R397). -/
def readSensor (i : Nat) (raw : Int) (bad : Bool) : M s0 Unit := do
  let s ← cur
  let n := Tab.get 0 s.pwr.badReads i
  if bad || decide (raw < -40 * 16) || decide (150 * 16 < raw) then
    modPwr fun x => { x with badReads := Tab.put 0 x.badReads i (min 2 (n + 1)) }
    if n = 1 then
      errRecord { kind := 0x72, sev := 2, source := 7, loc := i }
      takeReading i (s.tripAt i) true
  else
    modPwr fun x => { x with badReads := Tab.put 0 x.badReads i 0 }
    takeReading i raw false

/-- The offset that the overlay adds to an input (R441). -/
def State.sensorOffset (s : State) (i : Nat) : Int :=
  if i < 96 then s.overlayItem 3 i else if i < 102 then s.overlayItem 5 (i - 96) else s.overlayItem 7 (i - 102)

/-- Microseconds between reads of an input (R395; an external one by its distance from the nearest limit, R396, or
500 after a bad read, R397). -/
def State.readEvery (s : State) (i : Nat) : Nat :=
  let gap (lim : Nat) : Nat := (s.temp i - signed 16 lim).natAbs
  let dist := min (gap (s.fld F.tmpExtLim_throttle (i - 96))) (gap (s.fld F.tmpExtLim_trip (i - 96)))
  if i < 96 then 20
  else if Tab.get 0 s.pwr.badReads i = 1 ∨ s.flag F.tmpSense_valid i = false then 500
  else if 160 ≤ dist then 50000 else if 48 ≤ dist then 5000 else 500

/-- An input's next read has come. -/
def State.readDue (s : State) (i : Nat) : Bool :=
  let t := Tab.get 0 s.pwr.reads i
  decide (t = 0 ∨ t + s.readEvery i ≤ s.now + 1)

/-- A read of an input that is due. -/
def dueRead (i : Nat) (raw : Int) (bad : Bool) : M s0 Unit := do
  let s ← cur
  whenM (s.tempoOn = true ∧ s.readDue i = true) do
    modPwr fun x => { x with reads := Tab.put 0 x.reads i (s.now + 1) }
    readSensor i (raw + s.sensorOffset i) bad

/-- `SENSOR_READ` (R395): raw in 1/16 °C. -/
def execSensorRead (i : Nat) (raw : Int) (bad : Bool) (s : State) : Outcome :=
  M.go s (whenM (i < 96) (dueRead i raw bad))

/-- `EXTERNAL_SENSOR_READ` (R396): an unpopulated input is never read. -/
def execExternalSensorRead (i : Nat) (raw : Int) (bad : Bool) (s : State) : Outcome :=
  M.go s (whenM (96 ≤ i ∧ i < 106 ∧ s.flag F.tmpSense_disabled i = false) (dueRead i raw bad))

/-- A part's step is due: us microseconds since its last one. -/
def State.stepDue (s : State) (key us : Nat) : Bool :=
  let t := Tab.get 0 s.pwr.stepped key
  decide (t = 0 ∨ t + us ≤ s.now + 1)

/-- `THERMAL_STEP` (R398): parts 0 to 2, down at 95 °C every 100 us, up below 93 °C every 1 ms. -/
def execThermalStep (part : Nat) (s : State) : Outcome :=
  M.go s (
    let old := Tab.get 0 s.pwr.hot part
    let most := if part = 2 then 2 else s.top part
    let down := s.atLeast part 95 && s.stepDue part 100
    let up := !s.atLeast part 93 && (s.hottest part).isSome && decide (0 < old) && s.stepDue part 1000
    let new := if part = 2 then old + 1 else s.lowered part old
    whenM (s.tempoOn = true ∧ part < 3 ∧ (down || up)) do
      modPwr fun x => { x with
        hot := Tab.put 0 x.hot part (if down then min most new else old - 1)
        stepped := Tab.put 0 x.stepped part (s.now + 1) }
      refreshDies)

/-- `EXT_THROTTLE_STEP` (R398): 50 W down every 1 ms at THROTTLE, 50 W up every 10 ms once 2 °C below. -/
def execExtThrottleStep (j : Nat) (s : State) : Outcome :=
  M.go s (
    let lim : Int := signed 16 (s.fld F.tmpExtLim_throttle j)
    let t := s.temp (96 + j)
    let on := s.flag F.tmpSense_valid (96 + j)
    let low := Tab.get 0 s.pwr.extLow j
    let down := on && decide (lim ≤ t) && s.stepDue (16 + j) 1000
    let up := on && decide (t ≤ lim - 32) && decide (0 < low) && s.stepDue (16 + j) 10000
    whenM (s.tempoOn = true ∧ j < 10 ∧ (down || up)) do
      modPwr fun x => { x with
        extLow := Tab.put 0 x.extLow j (if down then low + 50 else low - 50)
        stepped := Tab.put 0 x.stepped (16 + j) (s.now + 1) }
      refreshDies)

/-- `ALERT_RELEASE` (R398): every reading below its threshold for 1 ms. -/
def execAlertRelease (s : State) : Outcome :=
  M.go s (whenM (s.tempoOn = true ∧ s.pwr.alerts = [] ∧ s.pwr.highIn = false ∧ lasted s.pwr.alertOver 1000 s.now = true) do
    setFlag F.pwrStatus_alert false
    modPwr fun x => { x with alertOver := none })

/-! ### Idle states (R399, R400) -/

/-- Contexts that are enabled. -/
def State.enabledCtxs (s : State) : List Nat := (s.ctxs.map Prod.fst).filter fun c => s.flag F.schCtxCfg_en c

/-- A waiting WAIT_VALUE or EVENT_WAIT. -/
def Pkt.isWait (p : Pkt) : Bool := p.st == .waiting && (p.op == 0x0A || p.op == 0x83)

/-- The entry condition of I1. -/
def State.idle1 (s : State) : Bool :=
  s.enabledCtxs.all fun c => !([2, 3, 6, 7].contains (s.ctxState c)) && (s.ctxsAt c).pkts.all Pkt.isWait

/-- The entry condition of I2: no WAIT_VALUE waits, every unit has exited. -/
def State.idle2 (s : State) : Bool :=
  s.idle1 && (s.enabledCtxs.all fun c => (s.ctxsAt c).pkts.all fun p => p.op != 0x0A) &&
    stackList.all fun n => (List.range 32).all fun p => s.unitMode n p == 0

/-- Exit time and dwell of a state in microseconds (R399). -/
def idleExit (k : Nat) : Nat := nth [0, 3, 60, 900, 25000] k
def idleDwell (k : Nat) : Nat := nth [0, 2, 200, 5000, 1000000] k

/-- The smallest wake budget of the enabled partitions allows a state's exit time (R399). -/
def State.wakeOk (s : State) (k : Nat) : Bool :=
  (List.range 16).all fun p => s.inForce F.schPartCfg_en p == 0 || decide (idleExit k ≤ s.inForce F.schPartCfg_wakeUs p)

/-- The module is on its way to I2 or deeper: nothing but the units stands against it (R213, R399). -/
def State.unitsLeave (s : State) : Bool :=
  s.idle1 && (s.enabledCtxs.all fun c => (s.ctxsAt c).pkts.all fun p => p.op != 0x0A) && s.wakeOk 2 &&
    decide (2 ≤ s.fld F.pwrIdleCfg_maxState) && lasted (s.pwr.since.getD 0 none) 2 s.now

/-- `NEAR_IDLE_EXIT` (R213): a NEAR unit whose queue has been empty for IDLE_EXIT_US, or before I2, exits. -/
def execNearIdleExit (n p : Nat) (s : State) : Outcome :=
  M.go s (
    let us := s.fld F.galCfg_idleExitUs n
    let x := s.unitsAt (uKey n p)
    whenM (s.unitUp n p ∧ s.unitMode n p = 2 ∧ x.queue.isEmpty ∧ x.tails.isEmpty ∧ (us ≠ 0 ∧ x.idleSince + us ≤ s.now ∨ s.unitsLeave)) (startExit n p))

/-- The entry condition of state k; sets are saved, and areas spilled, on the way in (R90, R329). -/
def State.idleCond (s : State) (k : Nat) : Bool :=
  match k with
  | 0 => true
  | 1 => s.idle1
  | 2 | 3 => s.idle2
  | _ => s.idle2 && s.enabledCtxs.all fun c => !(s.fld F.schCtxSpill_va c == 0)

/-- The state may be chosen, its dwell left aside. -/
def State.idleAllowed (s : State) (k : Nat) : Bool :=
  s.wakeOk k && decide (k ≤ s.fld F.pwrIdleCfg_maxState) && s.idleCond k

/-- The dwell clocks and ALLOWED follow the conditions, once a microsecond. -/
def refreshIdle : M s0 Unit := do
  let s ← cur
  modPwr fun x => { x with since := (List.range 4).map fun i => since (s.idleCond (i + 1)) s.now (x.since.getD i none) }
  setF F.pwrStatus_allowed (((List.range 5).filter s.idleAllowed).foldl max 0)

/-- The deepest state whose condition has held for its dwell. -/
def State.deepest (s : State) : Nat :=
  ((List.range 5).filter fun k => s.idleAllowed k && (k == 0 || lasted (s.pwr.since.getD (k - 1) none) (idleDwell k) s.now)).foldl max 0

/-- Every page of an area copied to another. -/
def copyPages (src dst : List Nat) : M s0 Unit := each (src.zip dst) fun e => savePage e.1 e.2

/-- The sets of a loaded context saved as for a switch (R90). -/
def parkCtx (c : Nat) : M s0 Unit := do
  each ((← cur).heldSets c) (saveImage c)
  modPwr fun x => { x with parked := x.parked ++ [c] }

/-- The logic of every set is power-gated, or is not (R103, R399). -/
def gateSets (on : Bool) : M s0 Unit :=
  each (List.range 80) fun x => setFlag F.cdSetStatus_gated on (x / 40) (x % 40)

/-- The module enters state k (R90, R329, R399). -/
def enterIdle (k : Nat) : M s0 Unit := do
  let s ← cur
  if 3 ≤ k ∧ s.fld F.pwrStatus_idle < 3 then each (s.enabledCtxs.filter s.loaded) parkCtx
  if k = 4 then each s.enabledCtxs fun c => copyPages (s.ctxsAt c).savePages (s.ctxsAt c).spillPages
  if 2 ≤ k ∧ s.fld F.pwrStatus_idle < 2 then gateSets true
  setF F.pwrStatus_idle k

/-- `IDLE_ENTER` (R399). -/
def execIdleEnter (s : State) : Outcome :=
  M.go s (whenM (s.tempoOn = true ∧ s.pwr.waking = false ∧ s.flag F.rstStatus_ready = true ∧
    s.fld F.pwrStatus_idle < s.deepest) (enterIdle s.deepest))

/-- A wake begins. -/
def startWake : M s0 Unit := do
  if (← cur).fld F.pwrStatus_idle ≠ 0 then modPwr fun x => { x with waking := true }

/-- `IDLE_WAKE` (R400): any of the wake events. -/
def execIdleWake (cause : Nat) (s : State) : Outcome := M.go s (whenM (s.tempoOn = true ∧ cause < 5) startWake)

/-- The sets of a parked context restored. -/
def unparkCtx (c : Nat) : M s0 Unit := do each ((← cur).heldSets c) (restoreImage c)

/-- The idle state's work is restored and the module is in I0 (R329, R399): spilled areas are copied back, sets restored. -/
def wakeDone : M s0 Unit := do
  let s ← cur
  if s.fld F.pwrStatus_idle = 4 then
    each s.enabledCtxs fun c => copyPages (s.ctxsAt c).spillPages (s.ctxsAt c).savePages
  each s.pwr.parked unparkCtx
  if 2 ≤ s.fld F.pwrStatus_idle then gateSets false
  modPwr fun x => { x with waking := false, parked := [], since := [] }
  setF F.pwrStatus_idle 0

end Sys2Proof.Machine
end

