-- ==== Sys2Proof/Machine/Security.lean ====
section
/-!
DEFINITION. The security monitor's requests (R451, R452): attestation (R430), life cycle (R432 to R434), debug sessions (R435
to R439), the certificate chain, firmware images and their switch (R443 to R447), the calibration overlay (R440 to R442);
the publishing of the feature values (R412 beat 11); the I3C target (R489, R490). Verdicts of signatures are operands (log
entry 7). A request ends in the command that starts it (log entry 44).
-/
namespace Sys2Proof.Machine

variable {s0 : State}

/-! ### The stage window and the requests -/

/-- n bytes of the stage window (R451). -/
def State.stage (s : State) (off n : Nat) : List Byte :=
  (List.range n).map fun i => BitVec.ofNat 8 (bits (s.fld F.secStage_word ((off + i) / 8)) 63 0 / 256 ^ ((off + i) % 8))

/-- A number of n bytes in the stage window. -/
def State.stageNum (s : State) (off n : Nat) : Nat := ofBytes (s.stage off n)

/-- Bytes into the stage window at an offset that is a multiple of 8; the rest of the last word stays. -/
def stagePut (off : Nat) (bs : List Byte) : M s0 Unit :=
  each (List.range (ceilDiv bs.length 8)) fun i => do
    let piece := (bs.drop (8 * i)).take 8
    let old := (← cur).stage (off + 8 * i) 8
    setF F.secStage_word (ofBytes (piece ++ old.drop piece.length)) ((off / 8 + i) % 4096)

/-- A request ends with a result (R452, R453). -/
def endRequest (result : Nat) : M s0 Unit := do
  setF F.secCmdStatus_result result
  setFlag F.secCmdStatus_busy false
  setFlag F.secCmdStatus_done true

def rOk : Nat := 0
def rBadRequest : Nat := 1
def rBadSignature : Nat := 2
def rRollback : Nat := 3
def rState : Nat := 4
def rCompat : Nat := 5
def rFlash : Nat := 6
def rLocked : Nat := 7

/-- A request of SEC_CMD: OP is written, and the request runs, or is refused while the monitor waits for recovery (R445) or an
accepted transition is due (R434). -/
def request (op : Nat) (recoverable : Bool) (act : M s0 Nat) : M s0 Unit :=
  atReg ⟨.secCmd, 0, 0, 0⟩ (do
    setF F.secCmd_op op
    let s ← cur
    if (s.sec.recovery && !recoverable) || s.sec.moving.isSome then endRequest rState
    else endRequest (← act))

/-- A request that needs a signature waits while the node cache is rebuilt or the ceiling is confirmed (R424, R425). -/
def State.signWaits (s : State) : Bool := (s.lc == 1 || s.lc == 2) && s.sec.seed == 1 && !s.canSign

/-- `ATTEST` (R430): evidence and the chain, where the chain passes R429 and the key signs. -/
def execAttest (s : State) : Outcome :=
  M.go s (whenM (s.signWaits = false) (request 1 false (do
    if s.sec.chainOk = false ∨ s.canSign = false then pure rState
    else
      let ev ← signedEvidence (s.stage 0 32) (s.stage 0x20 32)
      stagePut 0 ev
      stagePut 0x1000 (toBytes 4 s.chainBytes.length)
      stagePut 0x1008 s.chainBytes
      pure rOk)))

/-! ### Tokens and debug sessions -/

/-- A token's fields in the stage window (R435). -/
structure Token where
  magic : Nat
  format : Nat
  idDigest : List Byte
  nonce : List Byte
  level : Nat
  flags : Nat
  duration : Nat
  key : List Byte
  deriving DecidableEq, Repr

/-- The token at an offset of the stage window. -/
def State.token (s : State) (off : Nat) : Token :=
  { magic := s.stageNum off 4, format := s.stageNum (off + 4) 4, idDigest := s.stage (off + 8) 32, nonce := s.stage (off + 40) 32,
    level := s.stageNum (off + 72) 1, flags := s.stageNum (off + 73) 1, duration := s.stageNum (off + 76) 4,
    key := s.stage (off + 128) 60 }

/-- The challenge (R436). -/
def State.nonce (s : State) : List Byte := wordBytes ((List.range 4).map fun k => s.fld F.secDbgNonce_nonce k)

/-- The token names this module and its challenge and verifies (R436); the verdict of its signature is the operand. -/
def State.tokenOk (s : State) (t : Token) (sigOk : Bool) : Bool :=
  t.magic == 0x4E474454 && t.format == 1 && t.idDigest == s.idDigest && t.nonce == s.nonce && sigOk

/-- A fused digest. -/
def State.fusedDigest (s : State) (i : Nat) : List Byte := (s.sec.digests.getD i [] ++ List.replicate 32 0).take 32

/-- Issued by the vendor; by the operator (R435). -/
def State.vendorToken (s : State) (t : Token) : Bool := sha256 t.key == s.fusedDigest 2
def State.operatorToken (s : State) (t : Token) : Bool :=
  s.fusedDigest 3 != List.replicate 32 0 && sha256 t.key == s.fusedDigest 3

/-- R437 gives the issuer the level in the present life-cycle state. -/
def State.grantsLevel (s : State) (level : Nat) (vendor : Bool) : Bool :=
  match s.lc, level with
  | 1, 1 | 2, 1 => true
  | 1, 2 => vendor
  | 3, 1 | 3, 2 => vendor
  | _, _ => false

/-- The level goes back to CLOSED (R439). -/
def closeDebug : M s0 Unit := do
  setF F.secDbgStatus_level 0
  setFlag F.secDbgStatus_operator false
  setFlag F.secDbgStatus_inject false
  setFlag F.secDbgStatus_resetOk false
  setF F.secDbgStatus_remainS 0
  modSec fun x => { x with ends := none }

/-- A session opens (R436 to R438). -/
def openDebug (t : Token) (vendor : Bool) : M s0 Unit := do
  let s ← cur
  let full := t.level == 2
  setF F.secDbgStatus_level t.level
  setFlag F.secDbgStatus_operator (!vendor)
  setFlag F.secDbgStatus_inject (full || (bit t.flags 0 && !(s.lc == 2 && vendor)))
  setFlag F.secDbgStatus_resetOk (full && bit t.flags 1)
  setF F.secDbgStatus_remainS (if t.duration = 0 then 0x3FFFFFF else min t.duration 0x3FFFFFE)
  modSec fun x => { x with ends := if t.duration = 0 then none else some (s.now + t.duration * 1000000), fails := 0 }

/-- A failed DBG_AUTH: counted; the eighth in a row begins a lock-out, 60 s at first and doubling up to 1 hour (R436). -/
def authFails : M s0 Unit := do
  let s ← cur
  bump F.secDbgFails_count 1
  if s.sec.fails + 1 < 8 then modSec fun x => { x with fails := x.fails + 1 }
  else
    modSec fun x => { x with
      fails := 0, lockouts := x.lockouts + 1
      lockUntil := some (s.now + min (60 * 2 ^ min x.lockouts 6) 3600 * 1000000) }
    setFlag F.secDbgStatus_locked true
    errRecord { kind := 0x90, sev := 2, source := 9 }

/-- One authentication (R436). -/
def authenticate (sigOk : Bool) : M s0 Nat := do
  let s ← cur
  let t := s.token 0
  let vendor := s.vendorToken t
  if s.sec.lockUntil.isSome then
    drawNonce
    pure rLocked
  else if s.tokenOk t sigOk && (vendor || s.operatorToken t) then
    let ok := s.grantsLevel t.level vendor
    if ok then openDebug t vendor else authFails
    drawNonce
    pure (if ok then rOk else rState)
  else
    authFails
    drawNonce
    pure rBadSignature

/-- `DBG_AUTH` (R436). -/
def execDbgAuth (sigOk : Bool) (s : State) : Outcome := M.go s (request 3 false (authenticate sigOk))

/-- `DBG_CLOSE` (R439). -/
def execDbgClose (s : State) : Outcome :=
  M.go s (request 4 false (do
    closeDebug
    pure rOk))

/-- `DEBUG_SESSION_EXPIRY` (R439). -/
def execDebugSessionExpiry (s : State) : Outcome :=
  M.go s (whenM (s.sec.ends.any fun t => decide (t ≤ s.now)) closeDebug)

/-- `DBG_LOCKOUT_EXPIRY` (R436). -/
def execDbgLockoutExpiry (s : State) : Outcome :=
  M.go s (whenM (s.sec.lockUntil.any fun t => decide (t ≤ s.now)) do
    modSec fun x => { x with lockUntil := none }
    setFlag F.secDbgStatus_locked false)

/-! ### Life cycle -/

/-- The transition is accepted, and due 10 ms later (R434). -/
def acceptMove (target : Nat) (data : List Byte) : M s0 Nat := do
  let s ← cur
  modSec fun x => { x with moving := some (target, data, s.now + 10000) }
  pure rOk

/-- A transition asked for (R433). -/
def lcChange (sigOk : Bool) : M s0 Nat := do
  let s ← cur
  let t := s.token 0x100
  match s.lc, s.stageNum 0 1 % 8 with
  | 0, 1 => do
    let idI ← freeBytes 16
    stagePut 0 (publicKey idI)
    acceptMove 1 idI
  | 1, 2 => if s.sec.chainOk then acceptMove 2 (s.stage 0x20 32) else pure rState
  | 1, 3 | 2, 3 =>
    if s.tokenOk t sigOk && (s.vendorToken t || s.operatorToken t) then
      if t.level == 3 && s.vendorToken t then acceptMove 3 [] else pure rState
    else pure rBadSignature
  | 4, _ => pure rState
  | _, 4 => if s.stageNum 4 4 = 0x5C4A9D01 then acceptMove 4 [] else pure rState
  | _, _ => pure rState

/-- `LC_CHANGE` (R433). -/
def execLcChange (sigOk : Bool) (s : State) : Outcome := M.go s (request 2 false (lcChange sigOk))

/-- The fuse pattern of a state (R432). -/
def fusesOf (lc : Nat) : Nat := nth [0, 1, 3, 7, 15] lc

/-- The fuses of a transition are blown (R420, R433, R434). The first ceiling and bottom tree of a new key are the model's
(log entry 42). -/
def blowFuses (target : Nat) (data : List Byte) : M s0 Unit := do
  let old := (← cur).lc
  modSec fun x => { x with fuses := fusesOf target, lastChange := old }
  match target with
  | 1 => modSec fun x => { x with idI := data, seed := 1, ceil := 1024, next := 1024, used := 0, trees := [0], sigLog := [1024] }
  | 2 => modSec fun x => { x with digests := x.digests.take 3 ++ [data] }
  | 4 => modSec fun x => { x with seed := 2 }
  | _ => pure ()

/-- `LC_TRANSITION_RESET` (R434): a reset with the reach of MRST_N, in which the fuses are blown and read back; a read-back
that fails is a security violation (R450), and leaves the old or the new pattern (log entry 8). -/
def execLcTransitionReset (ok : Bool) (s : State) : Outcome :=
  M.go s (match s.sec.moving with
    | some (target, data, due) => whenM (due ≤ s.now) do
        assertReset 1
        setFlag F.rstCause_mrst true
        if ok then blowFuses target data
        else
          let n ← takeFresh
          if Config.freeBit n then blowFuses target data
          securityViolation 0
        if s.rst.sources.contains 1 = false then
          readOption
          releaseReset 1
    | none => pure ())

/-! ### The chain -/

/-- Bytes go into flash at an address, and read back right; where they do not, what they leave is a free value (R452, log
entry 44). -/
def program (ok : Bool) (a : Nat) (bs : List Byte) : M s0 Nat := do
  if ok then
    flashWrite a bs
    pure rOk
  else
    flashWrite a (← freeBytes bs.length)
    pure rFlash

/-- `CHAIN_WRITE` (R451): in PROVISIONED only; `ok` says whether programming and read-back succeeded. The chain is checked at
the next start (R429). -/
def execChainWrite (ok : Bool) (s : State) : Outcome :=
  M.go s (request 5 false (do
    let n := s.stageNum 0 4
    if s.lc ≠ 1 then pure rState
    else if n < 2 ∨ 4 < n then pure rBadRequest
    else
      flashErase 0x100000
      program ok 0x100000 (s.stage 0 (4 + 3796 * n))))

/-! ### Firmware images -/

/-- The active slot of a kind (R443, R446). -/
def State.activeSlot (s : State) (kind : Nat) : Nat := if kind = 0 then s.bootSlot else s.slotOf kind

/-- An overlay record's GEN, or none where its MAGIC is not there (R441, log entry 45). -/
def overlayGen (bs : List Byte) : Option Nat :=
  if ofBytes (bs.take 4) = 0x4E47434C then some (ofBytes ((bs.drop 4).take 4)) else none

/-- The overlay that a write goes to: the one whose GEN is lower; one without a record is lowest (R451). -/
def State.overlayTarget (s : State) : Nat :=
  let gen (a : Nat) : Nat := ((overlayGen (s.flashBytes a 8)).map (· + 1)).getD 0
  if gen 0x80000 < gen 0x70000 then 0x80000 else 0x70000

/-- `FW_WRITE` (R446, R451); `ok` says whether programming and read-back succeeded. -/
def execFwWrite (ok : Bool) (s : State) : Outcome :=
  M.go s (
    let w := s.stageNum 0 8
    let kind := bits w 3 0
    let slot := bits w 8 8
    let off := bits w 63 32
    let len := s.stageNum 8 8
    request 6 (kind == 0 || kind == 3) (do
      if 6 < kind ∨ bits w 7 4 ≠ 0 ∨ bits w 31 9 ≠ 0 ∨ 32512 < len then pure rBadRequest
      else if kind = 6 then
        if 4096 < off + len then pure rBadRequest else program ok (s.overlayTarget + off) (s.stage 0x100 len)
      else if 0x200000 < off + len then pure rBadRequest
      else if slot = s.activeSlot kind then pure rState
      else program ok (imageBase kind slot + off) (s.stage 0x100 len)))

/-- What R445 finds wrong with a written image, as a result; the verdict of its signature is the operand. -/
def State.imageFlaw (s : State) (kind slot : Nat) (sigOk : Bool) : Option Nat :=
  let a := imageBase kind slot
  match s.imageIn kind slot with
  | none => some rBadRequest
  | some m =>
    let len := ofBytes (s.flashBytes (a + 16) 4)
    if !((s.flashBytes (a + 116) 140).all (· == 0) && (s.flashBytes (a + 7) 1).all (· == 0)) || decide (64 < m.svn) ||
        ((kind == 1 || kind == 4) && decide (0xFFFF < m.rev)) then some rBadRequest
    else if s.flashBytes (a + 24) 32 ≠ sha256 (s.flashBytes (a + 256) len) ∨
        sha256 (s.flashBytes (a + 56) 60) ≠ s.fusedDigest 1 ∨ sigOk = false then some rBadSignature
    else if m.svn < nth s.sec.minSvn kind then some rRollback
    else if kind = 1 ∧ m.compat ≠ (s.sec.images.getD 1 {}).compat ∧
        (List.range 256).any (fun c => s.flag F.schCtxCfg_en c) then some rCompat
    else none

/-- The directory copy with the lower GEN is written (R443, R446). -/
def writeDirectory (ok : Bool) (kind slot : Nat) : M s0 Nat := do
  let s ← cur
  let gen (a : Nat) : Nat := ((s.directory a).map (·.1 + 1)).getD 0
  let a := if gen 0xA0000 < gen 0x90000 then 0xA0000 else 0x90000
  let body := toBytes 4 (s.slotsNow.1 + 1) ++ toBytes 4 (setBits s.slotsNow.2 kind kind slot)
  flashErase a
  program ok a (body ++ toBytes 4 (crc32 body))

/-- The option record's copy, then its primary, with GEN + 1 and the new BOOT_SLOT (R446); the primary stays where the copy
fails. -/
def writeBootSlot (ok : Bool) (slot : Nat) : M s0 Nat := do
  let s ← cur
  let ws := (List.range 32).map s.opt
  let w1 := setBits (nth ws 1) 31 0 (bits (nth ws 1) 31 0 + 1)
  let w4 := setBits (nth ws 4) 48 48 slot
  let body := (wordBytes ((ws.set 1 w1).set 4 w4)).take 252
  let all := body ++ toBytes 4 (crc32 body)
  flashErase 0x10000
  let r ← program ok 0x10000 all
  if ok then
    flashErase 0
    flashWrite 0 all
  pure r

/-- The image whose slot has been written down is activated: the acknowledgement, the switch that follows (R446, R447). -/
def activate (kind slot : Nat) (raise linkNow : Bool) : M s0 Unit := do
  let s ← cur
  let header := s.flashBytes (imageBase kind slot) 256
  stagePut 0 header
  if s.canSign then
    takeSignature
    stagePut 256 (signatureBytes s.sec.next header)
  let w : Switch :=
    { kind := kind, next := 0, raise := raise, linkNow := linkNow, image := (s.imageIn kind slot).getD {} }
  modSec fun x => { x with
    switches := x.switches.filter (·.kind != kind) ++ [w]
    micro := if kind = 4 then (List.range 2).map fun k => if k = slot then w.image else x.micro.getD k {} else x.micro }
  setFlag F.secFw_pending true kind

/-- The switch to an image of a kind that has not ended. -/
def State.switching (s : State) (kind : Nat) : Option Switch := s.sec.switches.find? (·.kind == kind)

/-- `FW_ACTIVATE` (R446): the directory or the record, then the switch; `ok` says whether programming and read-back succeeded.
A kind's switch is not begun while one of it runs; the acknowledgement waits for the key as every signature does. -/
def execFwActivate (sigOk ok : Bool) (s : State) : Outcome :=
  M.go s (
    let w := s.stageNum 0 8
    let kind := bits w 3 0
    let slot := bits w 8 8
    whenM (s.signWaits = false) (request 7 (kind == 0 || kind == 3) (do
      if 5 < kind ∨ bits w 7 4 ≠ 0 ∨ bits w 15 9 ≠ 0 ∨ bits w 63 18 ≠ 0 then pure rBadRequest
      else if slot = s.activeSlot kind ∨ (kind ≠ 0 ∧ (s.switching kind).isSome) then pure rState
      else match s.imageFlaw kind slot sigOk with
        | some r => pure r
        | none => do
          let r ← (if kind = 0 then writeBootSlot ok slot else writeDirectory ok kind slot)
          if ok then activate kind slot (bit w 16) (bit w 17)
          pure r)))

/-- The switch of a kind has ended: the image runs, MIN_SVN rises where asked (R446, R447). -/
def endSwitch (w : Switch) : M s0 Unit := do
  modSec fun x => { x with
    switches := x.switches.filter (·.kind != w.kind)
    images := (List.range 6).map fun k => if k = w.kind then w.image else x.images.getD k {}
    minSvn := (List.range 6).map fun k => if k = w.kind && w.raise then max (nth x.minSvn k) w.image.svn else nth x.minSvn k }
  setFlag F.secFw_pending false w.kind
  refreshSec
  if w.kind = 1 then
    each (List.range 2) fun d => setF F.cdId_figureRev w.image.rev d
    featSet F.featVersion_value (setBits ((← cur).fld F.featVersion_value) 15 0 w.image.rev)

/-- A kind's switch goes on to its next part. -/
def switchOn (kind : Nat) : M s0 Unit :=
  modSec fun x => { x with switches := x.switches.map fun w => if w.kind = kind then { w with next := w.next + 1 } else w }

/-- Every loaded context bound to caller k is at its preemption point (R447). -/
def State.callerIdle (s : State) (k : Nat) : Bool :=
  (s.enabledCtxs.filter fun c => s.loaded c && s.fld F.schCtxState_caller c == k).all s.atPoint

/-- Unit p of every stack can re-enter: its accepted runs are over (R211, R447). -/
def State.unitsIdle (s : State) (p : Nat) : Bool :=
  stackList.all fun n => s.unitMode n p != 2 || ((s.unitsAt (uKey n p)).running.isNone && (s.unitsAt (uKey n p)).queue.isEmpty)

/-- Unit p of every stack exits and enters again (R210, R211, R447). -/
def reenter (p : Nat) : M s0 Unit :=
  each stackList fun n => do
    if (← cur).unitMode n p = 2 then
      becomeNormal n p
      startEnter n p

/-- The microcode slot of every stack (R447). -/
def setMicroSlot (slot : Nat) : M s0 Unit := each stackList fun n => setF F.galCfg_microSlot slot n

/-- Port p retrains with the new SerDes image (R338, R447). -/
def retrainPort (p : Nat) : M s0 Unit := do
  if (← cur).portsOn.contains p then trainPort p

/-- One part of a switch (R447): a caller, the tempo controller, the monitor, a unit of every stack, a port. -/
def switchStep (w : Switch) (idx : Nat) : M s0 Unit := do
  let s ← cur
  match w.kind with
  | 1 => whenM (s.callerIdle idx) do
      switchOn w.kind
      if idx = 7 then endSwitch w
  | 2 => endSwitch w
  | 3 => do
    modSec fun x => { x.restarted with recovery := false }
    endSwitch w
  | 4 => whenM (s.unitsIdle idx) do
      if idx = 0 then
        setMicroSlot w.image.slot
        modSec fun x => { x with images := (List.range 6).map fun k => if k = 4 then w.image else x.images.getD k {} }
      reenter idx
      switchOn w.kind
      if idx = 31 then endSwitch w
  | 5 => do
    retrainPort idx
    switchOn w.kind
    if idx = 47 then
      if w.linkNow ∧ s.linkActive then startTraining (s.fld F.thmLinkStatus_lanesFailed) 3
      endSwitch w
  | _ => pure ()

/-- `FW_SWITCH_STEP` (R447): the parts in ascending order. -/
def execFwSwitchStep (kind idx : Nat) (s : State) : Outcome :=
  M.go s (match s.switching kind with
    | some w => whenM (kind ≠ 0 ∧ w.next = idx) (switchStep w idx)
    | none => pure ())

/-! ### The calibration overlay (R441, R442) -/

/-- The entries of an overlay record, from its COUNT (log entry 45). -/
def overlayEntries (bs : List Byte) : List (Nat × Nat × Int) :=
  (List.range (min 509 (ofBytes ((bs.drop 8).take 4)))).map fun i =>
    let w := wordAt (bs.drop 16) i
    (bits w 15 0, bits w 31 16, signed 32 (bits w 63 32))

/-- An entry names an existing index and lies within its bound (R441). -/
def entryOk (e : Nat × Nat × Int) : Bool :=
  let (item, idx, v) := e
  let within (n : Nat) (lo hi : Int) : Bool := decide (idx < n) && decide (lo ≤ v) && decide (v ≤ hi)
  match item with
  | 1 => within 42 (-25) 25
  | 2 => within 13 (-20) 20
  | 3 => within 96 (-64) 64
  | 4 => within 6 0 50
  | 5 => within 6 (-128) 128
  | 6 => within 4 3000 4500
  | 7 => within 4 (-64) 64
  | 8 => within 416 (-2) 2
  | _ => false

/-- An overlay's finding: its GEN and entries where it is valid; else its first failing entry (R442). -/
def State.overlayAt (s : State) (a : Nat) : Option (Nat × Except Nat (List (Nat × Nat × Int))) :=
  let bs := s.flashBytes a 4096
  (overlayGen bs).map fun gen =>
    let es := overlayEntries bs
    (gen, if ofBytes (bs.drop 4092) ≠ crc32 (bs.take 4092) ∨ 509 < ofBytes ((bs.drop 8).take 4) then .error 0
      else match (List.range es.length).find? fun i => !entryOk (es.getD i (0, 0, 0)) with
        | some i => .error i
        | none => .ok es)

/-- A valid overlay comes into force (R442). -/
def putOverlay (src gen : Nat) (es : List (Nat × Nat × Int)) : M s0 Unit := do
  modSec fun x => { x with overlay := some (gen, es) }
  setF F.secCal_source src
  setFlag F.secCal_none false

/-- An overlay is refused; the previous values stay in force (R442). -/
def refuseOverlay (i : Nat) : M s0 Unit := do
  setFlag F.secCal_refused true
  setF F.secCal_badEntry i

/-- The overlays are read: the valid one with the higher GEN comes into force; an invalid one is refused whole (R442). -/
def readOverlay : M s0 Bool := do
  let s ← cur
  match s.overlayAt 0x70000, s.overlayAt 0x80000 with
  | some (ga, .ok a), some (gb, .ok b) => do
    if ga < gb then putOverlay 1 gb b else putOverlay 0 ga a
    pure true
  | some (ga, .ok a), some (_, .error i) => do
    refuseOverlay i
    putOverlay 0 ga a
    pure true
  | some (_, .error i), some (gb, .ok b) => do
    refuseOverlay i
    putOverlay 1 gb b
    pure true
  | some (ga, .ok a), none => do
    putOverlay 0 ga a
    pure true
  | none, some (gb, .ok b) => do
    putOverlay 1 gb b
    pure true
  | some (_, .error i), _ | none, some (_, .error i) => do
    refuseOverlay i
    pure false
  | none, none => pure false

/-- `CAL_RELOAD` (R442). -/
def execCalReload (s : State) : Outcome :=
  M.go s (request 8 false (do
    let ok ← readOverlay
    pure (if ok then rOk else rBadRequest)))

/-! ### Start-up, beat 11 (R412) -/

/-- A management switch that waited for this start has ended where its slot runs (R446, R447). -/
def settleBoot : M s0 Unit := do
  let s ← cur
  match s.switching 0 with
  | some w => if w.image.slot = s.fld F.rstStatus_bootUsed then endSwitch w
  | none => pure ()

/-- `FEAT_PUBLISH` (R412 beat 11): the retirement log (R99), the overlay (R442), the feature values (R77), the records of the
run before. -/
def execFeatPublish (s : State) : Outcome :=
  M.go s (whenM (s.rst.firmware = true ∧ s.rst.published = false ∧ s.rst.closed.contains .hub = false) do
    settleBoot
    applyLog
    each ((List.range 16).filter fun q => !s.packages.contains q) (mapOut 12)
    let _ ← readOverlay
    publishFeats
    reportCauses
    modRst fun x => { x with published := true })

/-! ### The I3C target (R489, R490) -/

/-- The target answers from beat 6 on. -/
def State.i3cOn (s : State) : Bool := !s.inReset .hub

/-- `I3C_SETDASA` (R489): a dynamic address for static address 0x4C. -/
def execI3cSetdasa (addr : Nat) (s : State) : Outcome :=
  M.go s (whenM (s.i3cOn = true) (modI3c fun x => { x with addr := some (addr % 128) }))

/-- The highest valid reading among sensors, in whole °C rounded down, as a byte (R490). -/
def State.wholeTemp (s : State) (is : List Nat) : Byte :=
  let ts := (is.filter fun i => s.flag F.tmpSense_valid i).map s.temp
  match ts with
  | [] => 0
  | t :: rest => BitVec.ofNat 8 (wrap 8 (rest.foldl max t / 16))

/-- The sixteen bytes of the target (R489, R490). -/
def State.i3cBytes (s : State) : List Byte :=
  let st := b2n (s.flag F.rstStatus_ready) * 128 + b2n (s.flag F.rstStatus_bootFail) * 64 + b2n (s.flag F.pwrStatus_alert) * 32 +
    b2n (s.flag F.pwrStatus_brake) * 16 + b2n (s.flag F.tmpTripCause_valid) * 8 + s.fld F.pwrStatus_idle
  [BitVec.ofNat 8 st, s.wholeTemp (List.range 84), s.wholeTemp ((List.range 12).map (84 + ·)), 0] ++
    toBytes 4 (s.fld F.pwrInput_milliwatts) ++ toBytes 2 (s.fld F.pwrCap_watts) ++ toBytes 2 (s.fld F.pwrInput_volts) ++
    [0, 0, 0, 0]

/-- PWR_CAP.WATTS takes a value (R388). -/
def setWatts (v : Nat) : M s0 Unit := do
  let w := min 1350 (max 400 v)
  setF F.pwrCap_watts w
  if w < (← cur).fld F.pwrCap_brakeW then setF F.pwrCap_brakeW w

/-- Bytes written from an offset on; only those of I3C_CAP_W count (R490). -/
def i3cOver (old : List Byte) (off : Nat) (bs : List Byte) : List Byte :=
  (List.range bs.length).foldl (fun l i => l.set ((off + i) % 16) (bs.getD i 0)) old

/-- `I3C_PRIVATE_WRITE` (R489): the offset, then bytes. -/
def execI3cPrivateWrite (bytes : List Byte) (s : State) : Outcome :=
  M.go s (whenM (s.i3cOn = true) (match bytes with
    | [] => pure ()
    | o :: bs => do
      let off := o.toNat % 16
      modI3c fun x => { x with offset := (off + bs.length) % 16 }
      if (List.range bs.length).any fun i => (off + i) % 16 == 8 || (off + i) % 16 == 9 then
        setWatts (ofBytes (((i3cOver s.i3cBytes off bs).drop 8).take 2) % 2048)))

/-- The offset of the first byte of a byte's field (R489). -/
def fieldStart (o : Nat) : Nat := if 4 ≤ o ∧ o < 8 then 4 else if o = 9 then 8 else if o = 11 then 10 else o

/-- n bytes read from an offset on: each field as it stands when its first byte is read (R490), with what is then sampled. -/
def i3cRead (live : List Byte) : Nat → Nat → List Byte → List Byte × List Byte
  | 0, _, shown => ([], shown)
  | n + 1, o, shown =>
    let shown := if fieldStart o = o then
        (List.range 16).map fun k => if fieldStart k = o then live.getD k 0 else shown.getD k 0
      else shown
    let (bs, last) := i3cRead live n ((o + 1) % 16) shown
    (shown.getD o 0 :: bs, last)

/-- `I3C_PRIVATE_READ` (R490): successive bytes, the offset wrapping after 0x0F. -/
def execI3cPrivateRead (n : Nat) (s : State) : Outcome :=
  M.go s (whenM (s.i3cOn = true) do
    let (bs, shown) := i3cRead s.i3cBytes n (s.i3c.offset % 16) s.i3c.shown
    emit (.i3c bs)
    modI3c fun x => { x with offset := (x.offset + n) % 16, shown := shown })

end Sys2Proof.Machine
end

