-- ==== Sys2Proof/Machine/Clock.lean ====
section
/-!
DEFINITION. The serving counter's microsecond (R5, R178): token buckets, what counts microseconds, and what is looked at
once a microsecond.
-/
namespace Sys2Proof.Machine

variable {s0 : State}

/-- RATE and BURST in force of a bucket: targets 0 to 11 the stacks, 12 the deep tier, 13 and on the fabric's ports (R178,
R346). -/
def State.bucketRate (s : State) (t p : Nat) : Nat × Nat :=
  if t < 12 then (s.inForce F.stkReg_rate t p, s.inForce F.stkReg_burst t p)
  else if t = 12 then (s.inForce F.dtReg_rate p, s.inForce F.dtReg_burst p)
  else (s.inForce F.fabReg_rate p, s.inForce F.fabReg_burst p)

/-- The buckets after a refill (R178); an empty one is not listed. -/
def State.refilled (s : State) : Tab Nat :=
  (List.range (61 * 16)).filterMap fun k =>
    let (rate, burst) := s.bucketRate (k / 16) (k % 16)
    let v := min burst (Tab.get 0 s.sched.buckets k + rate)
    if v = 0 then none else some (k, v)

/-- A request of partition p waits for tokens of a target in this microsecond (R180). -/
def State.throttledAt (s : State) (t p : Nat) : Bool :=
  s.sched.throttled.contains (bKey t p) || !(s.waitersOn t p).isEmpty || !(s.queuesOn t p).isEmpty

/-- Microseconds of waiting are counted (R180). -/
def countThrottled : M s0 Unit := do
  let s ← cur
  each (List.range 16) fun p => do
    each (List.range 12) fun t => whenM (s.throttledAt t p) (bump F.stkRegThrottled_count 1 t p)
    whenM (s.throttledAt 12 p) (bump F.dtRegThrottled_count 1 p)
    whenM ((List.range 48).any fun q => s.sched.throttled.contains (bKey (13 + q) p)) (bump F.fabRegThrottled_count 1 p)

/-- The counters of microseconds: completion rings that hold issue (R38), capped parts, the idle state in force (R401). -/
def countMicros : M s0 Unit := do
  let s ← cur
  each (s.ctxs.filter fun e => s.flag F.clrCqStatus_full e.1) fun e => bump F.clrCqStall_stallUs 1 e.1
  each (List.range 3) fun d => whenM (s.flag F.pwrDie_capped d) (bump F.pwrCappedUs_count 1 d)
  whenM (s.fld F.pwrStatus_idle ≠ 0) (bump F.pwrIdleUs_count 1 (s.fld F.pwrStatus_idle - 1))

/-- Seconds left in a debug session (R453). -/
def refreshRemain : M s0 Unit := do
  let s ← cur
  match s.sec.ends with
  | some t => setF F.secDbgStatus_remainS (min 0x3FFFFFE (ceilDiv (t - s.now) 1000000))
  | none => pure ()

/-- `SERVING_COUNTER_TICK` (R5, R178): nothing counts while the hub is in reset (R404). -/
def execServingCounterTick (s : State) : Outcome :=
  M.go s (whenM (s.inReset .hub = false) do
    countThrottled
    countMicros
    eff .tick
    modSched fun x => { x with buckets := s.refilled, throttled := [], justGo := [] }
    each ((s.fab.groups.filter fun e => e.2.coll.isSome || e.2.ahead.isSome).map Prod.fst) collTick
    if s.cardOn then yieldReserved
    refreshRemain
    refreshIdle)

end Sys2Proof.Machine
end

