-- ==== Sys2Proof/Machine/Encore.lean ====
section
/-!
DEFINITION. Encore, the re-execution of a step (R457 to R463): the stop of further issue, the rerun from the checkpoint, and
replay marks where the encores are exhausted.
-/
namespace Sys2Proof.Machine

variable {s0 : State}

/-- A CALL or BRANCH of the open step is withdrawn with no record: the rerun issues it again (R459 beats 1, 2 and 5). -/
def withdraw (c id : Nat) : M s0 Unit := do
  modCtxs c fun x => { x with pkts := x.pkts.filter fun p => !(p.id == id && p.inStep) }
  modSched fun y => { y with faults := y.faults.filter fun f => !(f.ctx == c && f.pkt == some id) }

/-- The chains and skips of a queue that the step's own packets began are dropped. -/
def dropChains (c q : Nat) : M s0 Unit := do
  let s ← cur
  let x := s.queAt (qKey c q)
  let own (id : Nat) : Bool := (s.ctxsAt c).pkts.any fun p => p.id == id && p.inStep
  each (x.chain.filter fun f => own f.call) fun f => withdraw c f.call
  each ((s.ctxsAt c).pkts.filter fun p => p.q == q && p.inStep && p.st == .issued && (p.op == 4 || p.op == 5 || p.op == 6))
    fun p => withdraw c p.id
  let skips := (x.skip.map fun k => own k.branch).getD false
  if skips then each (x.skip.toList) fun k => withdraw c k.branch
  modQue (qKey c q) fun y => { y with
    chain := y.chain.filter fun f => !own f.call
    skip := if skips then y.laterSkip else y.skip
    laterSkip := if skips then none else y.laterSkip }

/-- `ENCORE_START` (R459 beat 1): a failure of the open step stops issue for the context, but for REQ_CANCEL and
REQ_CLOSE. -/
def execEncoreStart (c : Nat) (s : State) : Outcome :=
  let x := s.ctxsAt c
  M.go s (whenM (x.step.isSome ∧ x.enc.fail.isSome ∧ x.enc.stopped = false) do
    each (List.range 4) (dropChains c)
    modCtxs c fun y => { y with enc := { y.enc with stopped := true, replay := [] } }
    refresh c)

/-- Beats 2 and 3 are over: the step's packets in flight have completed, restores and retirements with them (R459). -/
def State.encoreReady (s : State) (c : Nat) : Bool :=
  let x := s.ctxsAt c
  x.enc.stopped && x.enc.fail.isSome && s.loaded c &&
    x.pkts.all (fun p => (p.op == 0x61 && p.st == .waiting) || s.besideEnd c ((x.step.bind Step.ending).getD x.nextId) p) &&
    s.tier.restores.isEmpty && (s.heldSets c).all fun n => (s.setsAt n).leaving.isEmpty

/-- The batch entry that alone is marked: the sequence that every failing access of an attention or KV packet belonged to,
where the length table's COUNT is the batch's (R463). -/
def replayEntry (st : Step) (f : StepFail) : Nat :=
  if f.op / 16 = 5 ∧ f.seqCount = st.rows.length ∧ f.seqIdx < st.rows.length then f.seqIdx else 0xFFFFFFFF

/-- A request is marked for replay, with its record (R463). -/
def markSlot (c n : Nat) (st : Step) : M s0 Unit := do
  modSlots n fun x => { x with marked := true }
  bump F.hbReplayMarks_count 1
  errRecord { kind := 0x42, sev := 2, source := 4, part := (← cur).partOf c, ctx := c, slot := n, step := st.stepId }

/-- The step is exhausted: requests are marked, and its STEP_END ends (R462, R463). -/
def exhaust (c : Nat) (st : Step) (f : StepFail) : M s0 Unit := do
  let i := replayEntry st f
  each (if i = 0xFFFFFFFF then st.rows else [nth st.rows i]) fun r => markSlot c (rowSlot r) st
  modCtxs c fun x => { x with enc := { x.enc with dead := some i, fail := none, stopped := false, replay := [] } }
  match st.ending with
  | some id => whenM ((← cur).atCommit c id) (exhaustEnd c id i)
  | none => pure ()

/-- A STEP_END that waits in a chain issues again with its chain: it and the CALLs above it are withdrawn. -/
def withdrawEnd (c id : Nat) : M s0 Unit := do
  let up := (← cur).callsAbove c 4 id
  if up ≠ [] then
    modCtxs c fun x => { x with step := x.step.map fun st => { st with ending := none } }
    each (id :: up) (withdraw c)

/-- The checkpoint is reloaded and the logged packets wait to issue again (R459 beats 4 and 5); a STEP_END of the ring that
already waits is not issued again. -/
def rerun (c : Nat) (st : Step) : M s0 Unit := do
  match st.ending with
  | some id => withdrawEnd c id
  | none => pure ()
  let s ← cur
  let e := (s.ctxsAt c).enc
  let ending := (s.ctxsAt c).step.bind Step.ending
  each (List.range 64) fun i => setScalar c i (nth e.scalars i)
  setF F.clrPred_p e.preds c
  each (List.range 32) fun i => setF F.clrEvent_count (nth e.events i) c i
  bump F.hbEncores_count 1
  modCtxs c fun x => { x with
    step := some { st with pend := [], ending := ending }
    enc := { x.enc with
      count := e.count + 1, fail := none, stopped := false, rerun := true, ords := []
      replay := e.log.filter fun l => !(bits (nth l.2 0) 7 0 == 0x61 && ending.isSome)
      seen := (List.range 4).map fun q => max (nth e.seen q) (nth e.ords q)
      dpas := [], lastDpas := e.dpas } }

/-- `ENCORE_RERUN` (R459 beats 3 to 5, R462): the step runs again, or its encores are exhausted. -/
def execEncoreRerun (c : Nat) (s : State) : Outcome :=
  M.go s (whenM (s.encoreReady c) (
    match (s.ctxsAt c).step, (s.ctxsAt c).enc.fail with
    | some st, some f => do
      if f.spent then exhaust c st f else rerun c st
      unstick c
      refresh c
    | _, _ => pure ()))

end Sys2Proof.Machine
end

