-- ==== Sys2Proof/Machine/Prefix.lean ====
section
/-!
DEFINITION. The prefix index (R272 to R280): PREFIX_LOOKUP, PREFIX_INSERT and the key registers. A packet's key and its first
64 bytes are captured at validation, so a key load acts on packets validated after it (R279).
-/
namespace Sys2Proof.Machine

variable {s0 : State}

/-! ### Keys (R279) -/

/-- The number of the shared namespace's key in the table of keys. -/
def sharedKey : Nat := 4096

/-- The key slot that SRV_PFX_KEY_SEL selects. -/
def State.keySel (s : State) : Nat := if s.flag F.srvPfxKeySel_shared then sharedKey else s.fld F.srvPfxKeySel_tenant

/-- SRV_PFX_KEY_STATUS follows the selection. -/
def refreshKey : M s0 Unit := do
  let s ← cur
  setFlag F.srvPfxKeyStatus_valid (s.keysAt s.keySel).isSome

/-- LOAD: the key registers go into the selected slot, and both return to 0. -/
def keyLoad : M s0 Unit := do
  let s ← cur
  eff (.keys s.keySel (some (s.fld F.srvPfxKeyLo_key + 2 ^ 64 * s.fld F.srvPfxKeyHi_key)))
  setF F.srvPfxKeyLo_key 0
  setF F.srvPfxKeyHi_key 0
  refreshKey

/-- CLEAR: the selected slot is emptied. -/
def keyClear : M s0 Unit := do
  eff (.keys (← cur).keySel none)
  refreshKey

/-- `PFX_KEY_LOAD` (R279). -/
def execPfxKeyLoad (s : State) : Outcome := M.go s (atReg ⟨.srvPfxKeyCtrl, 0, 0, 0⟩ keyLoad)

/-- `PFX_KEY_CLEAR` (R279). -/
def execPfxKeyClear (s : State) : Outcome := M.go s (atReg ⟨.srvPfxKeyCtrl, 0, 0, 0⟩ keyClear)

/-! ### The packets' operands (R273) -/

/-- W4.SHARED and tenant of a prefix packet. -/
def Pkt.pfxShared (p : Pkt) : Bool := p.b 4 12
def Pkt.pfxTenant (p : Pkt) : Nat := if p.pfxShared then 0 else p.f 4 11 0

/-- The token-pages operand is well formed (R273). -/
def pfxFormOk (ws : List Nat) : Bool :=
  let n := bits (nth ws 1) 15 0
  decide (1 ≤ n) && decide (n ≤ 32768) && bits (nth ws 1) 63 18 == 0 && (List.range 5).all fun i => nth ws (3 + i) == 0

/-- Index size of a partition in force: 0 for no index (R274, R280). -/
def State.pfxLog2 (s : State) (part : Nat) : Nat := s.inForce F.srvPfxBase_sizeLog2 part

/-- The class checks of a prefix packet (R276, R277); the packet comes out with its operand and key captured. -/
def prefixChecks (p : Pkt) (ac : Acc) : A s0 Pkt := do
  let s ← (cur : M s0 _)
  let ws ← rdWords ac (p.w 2) 8
  if !pfxFormOk ws then throw (.fail stBadParam (wordDetail 2 0xFF))
  if p.pfxShared then
    if p.op = 0x54 ∧ s.flag F.clrCtxCfg_priv ac.ctx = false then throw (.fail stProt (wordDetail 4 12))
  else if !s.tenantOk p.pfxTenant ac.part then throw (.fail stProt (wordDetail 4 0))
  match s.keysAt (if p.pfxShared then sharedKey else p.pfxTenant) with
  | none => throw (.fail stBadParam (wordDetail 4 0))
  | some key =>
    if p.op = 0x54 ∧ s.pfxLog2 ac.part = 0 then throw (.fail stQuota 0)
    pure { p with descs := p.descs ++ [(2, ws), (204, [key % 2 ^ 64, key / 2 ^ 64])] }

/-! ### The chain of hashes (R272) -/

/-- Token-mode or handle-mode message of page i after hash h. -/
def pfxMessage (ac : Acc) (p : Pkt) (h i : Nat) : A s0 (List Byte) := do
  let ws := p.captured 2
  if bit (nth ws 1) 16 then pure (toBytes 8 h ++ toBytes 8 (nth ws 2))
  else
    let bs ← rd ac (p.w 2 + 64 + 256 * i) 256
    pure (toBytes 8 h ++ bs)

/-- The hashes of `left` pages from page i on, after hash h. -/
def pfxChain (ac : Acc) (p : Pkt) : (left i h : Nat) → A s0 (List Nat)
  | 0, _, _ => pure []
  | left + 1, i, h => do
    let m ← pfxMessage ac p h i
    let x := sipHash (nth (p.captured 204) 0) (nth (p.captured 204) 1) m
    let rest ← pfxChain ac p left (i + 1) x
    pure (x :: rest)

/-- The hashes of a packet's pages. -/
def pfxHashes (ac : Acc) (p : Pkt) : A s0 (List Nat) :=
  pfxChain ac p (bits (nth (p.captured 2) 1) 15 0) 0 (nth (p.captured 2) 0)

/-! ### The index (R274, R275) -/

/-- The address of the bucket of a hash. -/
def State.pfxBucket (s : State) (part h : Nat) : Nat :=
  s.inForce F.srvPfxBase_base part * 4096 + 512 * (h % 2 ^ (s.pfxLog2 part - 3))

/-- The words of entry j of a bucket's 64 words. -/
def entryWords (ws : List Nat) (j : Nat) : List Nat := (ws.drop (8 * j)).take 8

/-- An entry matches page i of a packet (R275). -/
def pfxMatches (p : Pkt) (h i : Nat) (e : List Nat) : Bool :=
  bit (nth e 1) 63 && nth e 0 == h && bits (nth e 1) 26 12 == i && bit (nth e 1) 61 == p.pfxShared &&
    (p.pfxShared || bits (nth e 1) 11 0 == p.pfxTenant)

/-- The index answers a packet: it exists, and token mode is enabled where the packet uses it (R275, R276). -/
def State.pfxLive (s : State) (p : Pkt) (part : Nat) : Bool :=
  s.pfxLog2 part != 0 && (bit (nth (p.captured 2) 1) 16 || s.flag F.srvPfxCfg_en)

/-- The matching entry of page i: its address and words. -/
def pfxFind (ac : Acc) (p : Pkt) (h i : Nat) : A s0 (Option (Nat × List Nat)) := do
  let b := (← (cur : M s0 _)).pfxBucket ac.part h
  let ws ← rdWords ac b 64
  pure (((List.range 8).find? fun j => pfxMatches p h i (entryWords ws j)).map fun j => (b + 64 * j, entryWords ws j))

/-- A page's result record: HASH, VALUE, EVICTED, OUTCOME (R273). -/
def pfxResult (h value evicted outcome : Nat) : List Byte := wordBytes [h, value, evicted, outcome]

/-- The pages of a lookup from page i on: results and hits. `live` while no page has missed (R275). -/
def lookupPages (ac : Acc) (p : Pkt) : (live : Bool) → (i : Nat) → List Nat → A s0 (List Byte × Nat)
  | _, _, [] => pure ([], 0)
  | live, i, h :: hs => do
    let hit ← (if live then pfxFind ac p h i else pure none)
    match hit with
    | some (a, e) => do
      let now := (← (cur : M s0 _)).now
      wrAll ac [{ va := a, bs := wordBytes ((List.range 8).map fun j =>
        if j = 3 then now else if j = 4 then satAdd 64 (nth e 4) 1 else nth e j) }]
      let (bs, n) ← lookupPages ac p true (i + 1) hs
      pure (pfxResult h (nth e 2) 0 1 ++ bs, n + 1)
    | none => do
      let (bs, n) ← lookupPages ac p false (i + 1) hs
      pure (pfxResult h 0 0 0 ++ bs, n)

/-- The results operand: header word 0 and the records (R273). -/
def putResults (ac : Acc) (p : Pkt) (pages count : Nat) (bs : List Byte) : A s0 Unit :=
  wrAll ac [{ va := p.w 3, bs := toBytes 8 (count * 2 ^ 32 + pages) }, { va := p.w 3 + 32, bs := bs }]

/-- The operation of PREFIX_LOOKUP (R275). -/
def prefixLookupBody (p : Pkt) (ac : Acc) : A s0 Fin := do
  let s ← (cur : M s0 _)
  let hs ← pfxHashes ac p
  let (bs, n) ← lookupPages ac p (s.pfxLive p ac.part) 0 hs
  putResults ac p hs.length n bs
  (bump F.srvPfxLookups_count hs.length : M s0 _)
  (bump F.srvPfxHits_count n : M s0 _)
  pure {}

/-- `PREFIX_LOOKUP` (R275). -/
def execPrefixLookup (c id : Nat) (s : State) : Outcome :=
  M.go s (do
    if s.loaded c && s.engineTurn c id 0x53 then onIssued c id [0x53] fun p => runPktWith c p 2 true (pure ()) (prefixLookupBody p))

/-- The entry a page replaces: the unpinned one with the lowest LAST_USE, the lowest index on a tie (R276). -/
def pfxVictim (ws : List Nat) : Option Nat :=
  ((List.range 8).filter fun j => !bit (nth (entryWords ws j) 1) 62).foldl (fun best j =>
    match best with
    | none => some j
    | some b => if nth (entryWords ws j) 3 < nth (entryWords ws b) 3 then some j else some b) none

/-- The words of a new entry (R274, R276). -/
def pfxEntry (p : Pkt) (h i value now : Nat) : List Nat :=
  [h, 2 ^ 63 + b2n (bit (nth (p.captured 2) 1) 17) * 2 ^ 62 + b2n p.pfxShared * 2 ^ 61 + i * 2 ^ 12 + p.pfxTenant,
   value, now, 0, 0, 0, 0]

/-- One page inserted: its result record and its OUTCOME (R276). -/
def insertPage (ac : Acc) (p : Pkt) (live : Bool) (i h : Nat) : A s0 (List Byte × Nat) := do
  if !live then pure (pfxResult h 0 0 3, 3)
  else
    match ← pfxFind ac p h i with
    | some (_, e) => pure (pfxResult h (nth e 2) 0 1, 1)
    | none => do
      let s ← (cur : M s0 _)
      let b := s.pfxBucket ac.part h
      let ws ← rdWords ac b 64
      let value ← rdWord ac (p.w 5 + 8 * i)
      let put (j : Nat) : A s0 Unit := wrAll ac [{ va := b + 64 * j, bs := wordBytes (pfxEntry p h i value s.now) }]
      match (List.range 8).find? fun j => !bit (nth (entryWords ws j) 1) 63 with
      | some j => do put j; pure (pfxResult h value 0 0, 0)
      | none => match pfxVictim ws with
        | some j => do put j; pure (pfxResult h value (nth (entryWords ws j) 2) 2, 2)
        | none => pure (pfxResult h 0 0 3, 3)

/-- The pages of an insert from page i on: results and outcomes. -/
def insertPages (ac : Acc) (p : Pkt) (live : Bool) : (i : Nat) → List Nat → A s0 (List Byte × List Nat)
  | _, [] => pure ([], [])
  | i, h :: hs => do
    let (bs, o) ← insertPage ac p live i h
    let (rest, os) ← insertPages ac p live (i + 1) hs
    pure (bs ++ rest, o :: os)

/-- The operation of PREFIX_INSERT (R276). -/
def prefixInsertBody (p : Pkt) (ac : Acc) : A s0 Fin := do
  let s ← (cur : M s0 _)
  let hs ← pfxHashes ac p
  let (bs, os) ← insertPages ac p (s.pfxLive p ac.part) 0 hs
  let new := (os.filter fun o => o == 0 || o == 2).length
  putResults ac p hs.length new bs
  (bump F.srvPfxLookups_count hs.length : M s0 _)
  (bump F.srvPfxInserts_count new : M s0 _)
  (bump F.srvPfxEvicts_count (os.filter (· == 2)).length : M s0 _)
  pure {}

/-- `PREFIX_INSERT` (R276). -/
def execPrefixInsert (c id : Nat) (s : State) : Outcome :=
  M.go s (do
    if s.loaded c && s.engineTurn c id 0x54 then onIssued c id [0x54] fun p => runPktWith c p 2 true (pure ()) (prefixInsertBody p))

end Sys2Proof.Machine
end

