-- ==== Sys2Proof/Machine/Fence.lean ====
section
/-!
DEFINITION. The fences (R67 to R69): the storage a scope names, what the packets issued before a fence have still to write
there, FENCE and EVENT_SIGNAL.
-/
namespace Sys2Proof.Machine

variable {s0 : State}

/-- An address lies in the storage of a scope word (R68). -/
def State.inScope (s : State) (w a : Nat) : Bool :=
  match regionOf a with
  | .stack n => bit w n && (bits w 63 32 == 0 || bit (bits w 63 32) (s.physUnit a % 32))
  | .deep => bit w 12
  | .companion => bit w 13
  | .setBuf x => if x < 40 then bit w 15 else bit w 16
  | _ => false

/-- The packet writes storage by its operation (R69); the others have no effect on storage to await. A CUE takes no part in
fences (R71). A REQ_CANCEL that waits has latched; the ledger entry its slot then gets is the commit's or the abort's write
(R303, R305), so a fence of its queue does not await it. -/
def storesIn (op : Nat) : Bool :=
  op == 0x08 || op == 0x0B || op == 0x84 || (decide (0x10 ≤ op ∧ op < 0x80) && op != 0x64)

/-- Some address of a list of pages translates into the scope, or does not translate: a resolution may yet map it there
(R331). -/
def pagesInScope (ac : Acc) (w : Nat) : List Nat → M s0 Bool
  | [] => pure false
  | va :: vas => do
    let r ← walk ac va true
    let s ← cur
    let rest ← pagesInScope ac w vas
    pure ((match r with | .ok a => s.inScope w a | .error _ => true) || rest)

/-- The 64 KiB pages of runs of bytes. -/
def runPages (xs : List (Nat × Nat)) : List Nat := xs.flatMap fun (va, n) => (pagePieces va n).map fun x => x.1

/-- The pages of the places an attention packet's append writes. -/
def appendRuns (c : Nat) (p : Pkt) : M s0 (List (Nat × Nat)) := do
  if p.appends then
    let (r, _) ← runA (kvPlaces p ((← cur).acc c) p.kv)
    pure (match r with
      | .ok xs => xs.map fun x => (x.va, x.n)
      | .error _ => [])
  else pure []

/-- Runs of bytes that KV_RELEASE writes: entries of the pages it may release, pool records and rings, FIRST_PAGE (R262). -/
def releaseRuns (k : Kv) : List (Nat × Nat) :=
  (k.seqs.flatMap fun x => (k.releasable x).flatMap fun pg => (List.range k.heads).map fun h => (k.entryAt x pg h, 8)) ++
  (if k.pool = 0 then [] else [(k.pool, 64 * 12)]) ++ [(k.seqsAt, 64 * k.seqs.length)]

/-- The rings of the pools that a KV_RELEASE may return pages to. -/
def poolRings (ac : Acc) (k : Kv) : M s0 (List (Nat × Nat)) := do
  let (r, _) ← runA (mapA (fun n => rdPool ac k n) stackList)
  pure (match r with
    | .ok xs => (xs.filter fun x => x.depth != 0).map fun x => (x.ring, 8 * 2 ^ x.depth)
    | .error _ => [])

/-- Runs of bytes that a commit writes: histories, count tables and overflow lists of the requests it may deliver to, the FLAGS
tensor (R296). -/
def State.commitRuns (s : State) (st : Step) : List (Nat × Nat) :=
  (st.liveSlots.flatMap fun n => [(s.slotF n 0 51 0 + 4 * s.slotF n 23 31 0, 4), (s.countBase n, 16384),
    (s.ovfBase n, 8 * (s.ovfLen n + 1))]) ++ (if st.flags = 0 then [] else [(st.flags, st.rows.length)])

/-- Runs of bytes that an issued packet has still to write, by device virtual address. -/
def writesOf (c : Nat) (p : Pkt) : M s0 (List (Nat × Nat)) := do
  let s ← cur
  let ac := s.acc c
  let outs := (p.outputs.flatMap Desc.pages).map fun va => (va, 1)
  match p.op with
  | 0x08 => pure [(p.w 3, 8)]
  | 0x0B => pure (if p.w 2 = 0 then [] else [(p.w 2, 8)])
  | 0x84 => pure (if p.w 3 = 0 then [] else [(p.w 3, 8)])
  | 0x40 => pure (outs ++ [(p.w 6, 262144 * ((p.desc 3).size 2 * (p.desc 3).size 3))])
  | 0x41 => pure (outs ++ [(p.w 6, 262144 * (p.desc 31).size 2)])
  | 0x4F => pure ((rawPlaces p).map fun x => (x.va, x.n))
  | 0x50 => appendRuns c p
  | 0x51 => do
    let rows ← appendRuns c p
    let (st, _) ← runA (if p.kv.stage = 0 then pure [] else rdWords ac p.kv.stage 12)
    let stage := match st with
      | .ok ws => (ws.filter (· != 0)).map fun va => (va, 65536 * 32)
      | .error _ => []
    pure (outs ++ rows ++ stage)
  | 0x52 => do
    let rings ← poolRings ac p.kv
    pure (releaseRuns p.kv ++ rings)
  | 0x53 => pure ([(p.w 3, 32 + 32 * bits (nth (p.captured 2) 1) 15 0)] ++
      (if s.pfxLive p (s.partOf c) then [(s.pfxBucket (s.partOf c) 0, 64 * 2 ^ s.pfxLog2 (s.partOf c))] else []))
  | 0x54 => pure ([(p.w 3, 32 + 32 * bits (nth (p.captured 2) 1) 15 0)] ++
      (if s.pfxLive p (s.partOf c) then [(s.pfxBucket (s.partOf c) 0, 64 * 2 ^ s.pfxLog2 (s.partOf c))] else []))
  | 0x55 =>
    let h := nth (p.captured 200) 0
    let size := kvPageBytes (bits h 35 32) (64 * 2 ^ bits h 41 40) (bit h 44)
    pure ((p.w 2, 16 + 16 * bits h 31 0) :: (List.range (bits h 31 0)).flatMap fun i =>
      [(nth (p.captured 201) (2 * i), 8), (nth (p.captured 201) (2 * i + 1), size)])
  | 0x61 =>
    match (s.ctxsAt c).step with
    | some st => pure (if st.ending = some p.id then s.commitRuns st else [])
    | none => pure []
  | 0x62 =>
    let ws := p.reqBlock
    pure [(bits (nth ws 2) 51 0, 16384), (bits (nth ws 3) 51 0, 8 * bits (nth ws 4) 31 0)]
  | _ => pure outs

/-- The packet changes words that the ledger holds: REQ_OPEN, REQ_CLOSE, STEP_BEGIN, SAMPLE, and STEP_END (R305). -/
def movesLedger (op : Nat) : Bool := op == 0x60 || op == 0x61 || op == 0x62 || op == 0x63 || op == 0x65

/-- An earlier packet's effects may lie in a scope. PCH narrows the stacks that a scope names; alone it names no storage. The
FABRIC bit covers the collectives' receive operands (R68). -/
def effectsInScope (c w : Nat) (p : Pkt) : M s0 Bool := do
  let s ← cur
  if bits w 16 0 = 0 then pure false
  else if p.op / 16 == 7 && bit w 14 then pure true
  else if movesLedger p.op && s.flag F.srvLedgerBase_en && s.inScope w (s.fld F.srvLedgerBase_dpa * 2 ^ 18) then pure true
  else
    let runs ← writesOf c p
    pagesInScope (s.acc c) w (runPages runs)

/-- Some packet of a list still has effects in a scope. -/
def anyInScope (c w : Nat) : List Pkt → M s0 Bool
  | [] => pure false
  | p :: ps => do
    let a ← effectsInScope c w p
    let b ← anyInScope c w ps
    pure (a || b)

/-- The drain of a FENCE or EVENT_SIGNAL is complete: every packet issued earlier from the queue has completed its effects in
scope (R69). -/
def drained (c : Nat) (p : Pkt) : M s0 Bool := do
  let s ← cur
  let earlier := (s.ctxsAt c).pkts.filter fun y => s.precedes c p y && decide (y.id < p.id) && y.st != .done && storesIn y.op
  let busy ← anyInScope c (p.w 2) earlier
  pure !busy

/-- Merge entries of the storage in scope are written out (R25, R186). -/
def flushScope (w : Nat) : M s0 Unit := do
  let s ← cur
  writeOutAll (s.merges.filter fun m => s.inScope w (64 * m.gran))

/-- `FENCE` (R69). -/
def execFence (c id : Nat) (s : State) : Outcome :=
  M.go s (ctlOf c id 0x80 fun p => do
    if ← drained c p then
      flushScope (p.w 2)
      endPkt c p.id stOk 0)

/-- `EVENT_SIGNAL` (R67): the drain, then the addition. -/
def execEventSignal (c id : Nat) (s : State) : Outcome :=
  M.go s (ctlOf c id 0x82 fun p => do
    if ← drained c p then
      flushScope (p.w 2)
      let e := p.f 3 4 0
      setF F.clrEvent_count (((← cur).fld F.clrEvent_count c e + p.w 4) % 2 ^ 64) c e
      eventChanged c e
      endPkt c p.id stOk 0)

end Sys2Proof.Machine
end

