-- ==== Sys2Proof/Machine/Validate.lean ====
section
/-!
DEFINITION. The validation of a packet (R43 to R49, R496): the layout of each opcode's words, the rows of R46 in their order,
the reading of descriptors (R143), the choice of dies (R43) and the class checks.
-/
namespace Sys2Proof.Machine

variable {s0 : State}

/-! ### The words of each opcode (R53 to R71) -/

/-- All 64 bits; the bits of an address (R48); the bits of a scope word (R68). -/
def allBits : Nat := 2 ^ 64 - 1
def addrBits : Nat := 2 ^ 52 - 1
def scopeBits : Nat := maskOf 63 32 + maskOf 16 0

/-- W6 of the matrix packets (R61). -/
def matrixBits : Nat := maskOf 0 0 + maskOf 11 2 + maskOf 19 16

/-- The fields shared by SCALAR_OP's and SET_PRED's W2. -/
def scalarBits : Nat := maskOf 13 8 + maskOf 21 16 + maskOf 24 24 + maskOf 35 32

/-- Words that hold addresses of the partition's memory, each with its mask. -/
def addrs (ws : List Nat) : List (Nat × Nat) := ws.map fun w => (w, addrBits)

/-- The parameter bits an opcode names, by word; every other bit of its parameters is reserved. Reserved bits that a class
checks in an order of its own (R162, R353) count as named here. -/
def paramBits (op : Nat) : List (Nat × Nat) :=
  match op with
  | 0x01 => [(2, maskOf 5 0), (3, allBits)]
  | 0x02 => [(2, maskOf 5 0 + scalarBits), (3, allBits)]
  | 0x03 => [(2, maskOf 2 0 + scalarBits), (3, allBits)]
  | 0x04 => [(2, maskOf 31 0)]
  | 0x05 => [(2, allBits), (3, maskOf 12 0)]
  | 0x07 | 0x08 | 0x84 => [(2, maskOf 5 0), (3, allBits)]
  | 0x09 => [(2, maskOf 5 0 + maskOf 11 8 + maskOf 19 16), (3, addrBits)]
  | 0x0A => [(2, allBits), (3, allBits), (4, maskOf 3 0 + maskOf 10 8 + maskOf 63 32)]
  | 0x0B => [(2, allBits), (3, allBits), (4, 1)]
  | 0x10 | 0x11 => (6, matrixBits) :: addrs [2, 3, 4, 5, 7]
  | 0x12 => (5, maskOf 7 0) :: addrs [2, 3, 4]
  | 0x13 => (6, matrixBits) :: addrs [2, 3, 4, 5, 7, 9]
  | 0x18 => (5, maskOf 7 0) :: (6, maskOf 31 0) :: addrs [2, 3, 4]
  | 0x19 => (5, 1 + maskOf 63 32) :: addrs [2, 3, 4]
  | 0x1A => (4, maskOf 31 0) :: addrs [2, 3]
  | 0x1B | 0x30 | 0x35 | 0x43 => addrs [2, 3]
  | 0x1C => addrs [2, 3, 4]
  | 0x20 => (5, maskOf 3 0) :: addrs [2, 3, 4]
  | 0x21 => (6, matrixBits) :: (9, maskOf 8 0) :: addrs [2, 3, 4, 5]
  | 0x31 => (5, allBits) :: addrs [2, 3]
  | 0x32 | 0x33 => (5, allBits) :: addrs [2, 3, 4]
  | 0x34 => [(2, addrBits), (3, allBits)]
  | 0x40 => addrs [2, 3, 4, 6]
  | 0x41 => (7, maskOf 11 8) :: addrs [2, 4, 5, 6]
  | 0x42 => (4, maskOf 7 0) :: (6, maskOf 31 0) :: addrs [2, 3]
  | 0x4E => [(2, maskOf 11 0), (3, maskOf 31 0), (4, 1)]
  | 0x4F => (2, maskOf 3 0 + maskOf 12 8) :: ((List.range 7).flatMap fun i => [(9 + i, allBits), (17 + i, allBits)])
  | 0x50 => (6, maskOf 3 0) :: addrs [2, 3, 4, 5]
  | 0x51 => (7, maskOf 35 0) :: addrs [2, 3, 4, 5, 6, 9, 10]
  | 0x52 => addrs [2, 3]
  | 0x53 => (4, maskOf 12 0) :: addrs [2, 3]
  | 0x54 => (4, maskOf 12 0) :: addrs [2, 3, 5]
  | 0x55 => [(2, addrBits), (3, 1)]
  | 0x60 => [(2, maskOf 45 0), (3, addrBits)]
  | 0x61 => [(2, maskOf 31 0)]
  | 0x62 => [(2, maskOf 12 0 + maskOf 27 16 + maskOf 44 32), (3, addrBits)]
  | 0x63 | 0x64 => [(2, maskOf 12 0)]
  | 0x65 => addrs [2, 3, 4]
  | 0x66 => [(2, maskOf 11 0), (3, addrBits), (4, maskOf 8 0)]
  | 0x70 | 0x71 | 0x72 | 0x73 => (2, maskOf 9 0) :: (5, allBits) :: addrs [3, 4]
  | 0x80 => [(2, scopeBits)]
  | 0x81 => [(2, maskOf 49 24 + maskOf 19 0)]
  | 0x82 => [(2, scopeBits), (3, maskOf 4 0), (4, allBits)]
  | 0x83 => [(3, maskOf 4 0), (4, allBits), (5, maskOf 2 0 + maskOf 63 32)]
  | _ => []

/-- The extension slots of an opcode. -/
def extSlots (op : Nat) : Nat := if op = 0x13 ∨ op = 0x21 ∨ op = 0x51 then 1 else if op = 0x4F then 3 else 0

/-- The extension slots a packet's header names. -/
def slotsOf (ws : List Nat) : Nat := bits (nth ws 0) 21 20

/-- Every word of a packet with the bits that may be 1 in it (R43, R44). -/
def wordMasks (op : Nat) : List (Nat × Nat) :=
  let ps := paramBits op
  let par (w : Nat) : Nat := ((ps.find? fun e => e.1 == w).map Prod.snd).getD 0
  [(0, maskOf 63 24 + maskOf 21 20 + maskOf 15 0), (1, maskOf 63 32 + maskOf 17 16 + maskOf 5 0)] ++
  ((List.range 6).map fun j => (2 + j, par (2 + j))) ++
  (List.range (extSlots op)).flatMap fun k => (8 * (k + 1), maskOf 63 32 + maskOf 15 0) ::
    (List.range 7).map fun j => (8 * (k + 1) + 1 + j, par (8 * (k + 1) + 1 + j))

/-! ### Scalars a packet reads and writes (R45, R50) -/

/-- The scalars that SUBST names. -/
def substReads (ws : List Nat) : List Nat :=
  (List.range 6).filterMap fun j => if bit (nth ws 1) j then some (nth ws (2 + j) % 64) else none

/-- The words after substitution (R45). -/
def substituted (scalar : Nat → Nat) (ws : List Nat) : List Nat :=
  (List.range ws.length).map fun i =>
    let w := nth ws i
    if 2 ≤ i ∧ i < 8 ∧ bit (nth ws 1) (i - 2) then (scalar (w % 64) + (w - w % 64)) % 2 ^ 64 else w

/-- The scalars a packet's parameters read, besides SUBST. -/
def paramReads (p : Pkt) : List Nat :=
  let ab := p.f 2 13 8 :: if p.b 2 24 then [] else [p.f 2 21 16]
  match p.op with
  | 0x02 => ab
  | 0x03 => if p.f 2 35 32 < 6 then ab else []
  | 0x08 => [p.f 2 5 0]
  | _ => []

/-- The predicates a packet's parameters read. -/
def predReads (p : Pkt) : List Nat :=
  if p.op = 0x03 then
    match p.f 2 35 32 with
    | 8 | 9 => [p.f 2 10 8, p.f 2 18 16]
    | 10 => [p.f 2 10 8]
    | _ => []
  else []

/-- The scalar a packet writes. -/
def scalarWritten (p : Pkt) : List Nat := if [0x01, 0x02, 0x07, 0x09, 0x84].contains p.op then [p.f 2 5 0] else []

/-- The predicate a packet writes. -/
def predWritten (p : Pkt) : List Nat :=
  match p.op with
  | 0x03 => [p.f 2 2 0]
  | 0x09 => if p.b 2 19 then [p.f 2 18 16] else []
  | 0x0A => [p.f 4 10 8]
  | 0x83 => [p.f 5 2 0]
  | 0x32 | 0x33 => if p.b 5 11 then [p.f 5 10 8] else []
  | _ => []

/-- A packet before p in its queue that writes one of these scalars or predicates has not completed (R50). -/
def State.unsettled (s : State) (c : Nat) (p : Pkt) (scalars preds : List Nat) : Bool :=
  (s.ctxsAt c).pkts.any fun y => s.precedes c p y &&
    ((scalarWritten y).any scalars.contains || (predWritten y).any preds.contains)

/-! ### The rows of R46 -/

/-- First row: the opcode is defined and implemented, every extension slot carries its mark, index and SEQ. -/
def opcodeFlaw (s : State) (ws : List Nat) : Flaw :=
  let op := bits (nth ws 0) 7 0
  if bit (s.fld F.featOpcodes_value (op / 64)) (op % 64) = false then some (stBadOpcode, wordDetail 0 0)
  else (List.range (slotsOf ws)).findSome? fun k =>
    let w := nth ws (8 * (k + 1))
    let at_ := 8 * (k + 1)
    if bits w 7 0 ≠ 0xE5 then some (stBadOpcode, wordDetail at_ 0)
    else if bits w 15 8 ≠ k + 1 then some (stBadOpcode, wordDetail at_ 8)
    else if bits w 63 32 ≠ bits (nth ws 0) 63 32 then some (stBadOpcode, wordDetail at_ 32) else none

/-- Second row: SEQ, where one is expected; CTX; SLOTS; reserved bits. -/
def headerFlaw (c : Nat) (seq : Option Nat) (ws : List Nat) : Flaw :=
  let w := nth ws 0
  let op := bits w 7 0
  if seq.any (· != bits w 63 32) then some (stBadParam, wordDetail 0 32)
  else if bits w 31 24 ≠ c then some (stBadParam, wordDetail 0 24)
  else if slotsOf ws ≠ extSlots op then some (stBadParam, wordDetail 0 20)
  else (firstReserved ws (wordMasks op)).map fun (i, b) => (stBadParam, wordDetail i b)

/-- Third row: NEAR_MODE and NEAR_RAW are privileged. -/
def privFlaw (s : State) (c : Nat) (p : Pkt) : Flaw :=
  if (p.op = 0x4E ∨ p.op = 0x4F) ∧ s.flag F.clrCtxCfg_priv c = false then some (stProt, wordDetail 0 0) else none

/-- Fourth row: the format codes in the packet's own words (R61, R64, R111). -/
def codeFlaw (p : Pkt) : Flaw :=
  let kv (w lo : Nat) : Flaw :=
    if bits (p.w w) (lo + 3) lo = 10 ∨ bits (p.w w) (lo + 3) lo = 11 then none else some (stFormat, wordDetail w lo)
  match p.op with
  | 0x10 | 0x11 | 0x13 | 0x21 =>
    if [0, 1, 3, 4, 5, 6, 7, 9].contains (p.f 6 19 16) then none else some (stFormat, wordDetail 6 16)
  | 0x50 => kv 6 0
  | 0x51 => kv 7 32
  | _ => none

/-- A field out of its range. -/
def rangeIf (bad : Prop) [Decidable bad] (w b : Nat) : Flaw := if bad then some (stBadParam, wordDetail w b) else none

/-- An address of the control class: bits [63:52] are 0 and it is aligned (R53). -/
def ctlAddrFlaw (p : Pkt) (w align : Nat) : Flaw :=
  let bad := p.w w % align + bits (p.w w) 63 52 * 2 ^ 52
  rangeIf (bad ≠ 0) w (lowestBit 64 bad)

/-- The words of a packet that name 64-byte records: descriptors (R48) and page tables (R251). -/
def recordWordsOf (op : Nat) : List Nat :=
  match op with
  | 0x09 => [3]
  | 0x10 | 0x11 => [2, 3, 4, 5]
  | 0x12 => [2, 4]
  | 0x13 => [2, 3, 4, 5, 9]
  | 0x18 | 0x19 | 0x1C | 0x20 | 0x32 | 0x33 | 0x40 => [2, 3, 4]
  | 0x1A | 0x1B | 0x30 | 0x31 | 0x35 | 0x42 | 0x43 => [2, 3]
  | 0x21 => [2, 5]
  | 0x34 => [2]
  | 0x41 | 0x65 => [2, 4]
  | 0x50 => [2, 3, 5]
  | 0x51 => [2, 3, 5, 9, 10]
  | 0x52 => [2]
  | 0x70 | 0x71 | 0x72 | 0x73 => [3, 4]
  | _ => []

/-- W6 of the matrix packets: STATIONARY, PROLOGUE, EPILOGUE (R61). -/
def matrixRange (p : Pkt) : Flaw :=
  firstFlaw [rangeIf (p.f 6 3 2 = 3) 6 2, rangeIf (1 < p.f 6 7 4) 6 4, rangeIf (3 < p.f 6 11 8) 6 8]

/-- The opcode's own ranges and the FEAT_* limits. -/
def ownRange (s : State) (p : Pkt) : Flaw :=
  let moe := s.fld F.featMoe_value
  match p.op with
  | 0x02 => rangeIf (12 < p.f 2 35 32) 2 32
  | 0x03 => rangeIf (10 < p.f 2 35 32) 2 32
  | 0x05 => firstFlaw [ctlAddrFlaw p 2 64, rangeIf (p.f 3 12 0 = 0 ∨ 4096 < p.f 3 12 0) 3 0]
  | 0x07 | 0x08 | 0x84 => ctlAddrFlaw p 3 8
  | 0x09 => rangeIf (6 < p.f 2 11 8) 2 8
  | 0x0A => firstFlaw [ctlAddrFlaw p 2 8, rangeIf (3 < p.f 4 3 0) 4 0]
  | 0x0B => ctlAddrFlaw p 2 8
  | 0x10 | 0x11 | 0x13 => matrixRange p
  | 0x18 => rangeIf (4 < p.f 5 7 0) 5 0
  | 0x20 => rangeIf (p.f 5 3 0 = 0 ∨ 8 < p.f 5 3 0 ∨ bits moe 23 16 < p.f 5 3 0) 5 0
  | 0x21 => firstFlaw [matrixRange p, rangeIf (p.f 9 8 0 = 0 ∨ 256 < p.f 9 8 0 ∨ bits moe 15 0 < p.f 9 8 0) 9 0]
  | 0x32 => rangeIf (p.f 5 1 0 = 3) 5 0
  | 0x33 => firstFlaw [rangeIf (p.f 5 1 0 = 3) 5 0, rangeIf (p.f 5 5 4 ≠ 0 ∧ p.b 5 6 = true) 5 6]
  | 0x40 => rangeIf (p.f 6 17 0 ≠ 0) 6 (lowestBit 18 (p.w 6))
  | 0x41 => firstFlaw [rangeIf (p.f 5 2 0 ≠ 0) 5 (lowestBit 3 (p.w 5)), rangeIf (p.f 6 17 0 ≠ 0) 6 (lowestBit 18 (p.w 6)),
      rangeIf (3 < p.f 7 11 8) 7 8]
  | 0x42 => rangeIf (4 < p.f 4 7 0) 4 0
  | 0x4F => rangeIf (11 < p.f 2 3 0) 2 0
  | 0x60 => rangeIf (p.f 2 45 32 = 0 ∨ 8192 < p.f 2 45 32) 2 32
  | 0x62 => firstFlaw [rangeIf (p.b 2 44 = false ∧ p.f 2 43 32 ≠ 0) 2 32, rangeIf (p.w 3 % 64 ≠ 0) 3 (lowestBit 6 (p.w 3))]
  | 0x81 => firstFlaw [rangeIf (10000 < p.f 2 15 0) 2 0, rangeIf (3 < p.f 2 19 16) 2 16, rangeIf (100 < p.f 2 31 24) 2 24]
  | _ => none

/-- Fifth row: alignment of the record addresses (R48), ranges and limits. -/
def rangeFlaw (s : State) (p : Pkt) : Flaw :=
  firstFlaw (((recordWordsOf p.op).map fun w => rangeIf (p.w w % 64 ≠ 0) w (lowestBit 6 (p.w w))) ++ [ownRange s p])

/-- Third to fifth row. -/
def ownFlaw (s : State) (c : Nat) (p : Pkt) : Flaw := firstFlaw [privFlaw s c p, codeFlaw p, rangeFlaw s p]

/-! ### Descriptors, tables and records (R143) -/

/-- The 64 bytes at an address captured under a packet word. -/
def captureAt (ac : Acc) (w va : Nat) (p : Pkt) : A s0 Pkt := do
  let ws ← rdWords ac va 8
  pure { p with descs := p.descs ++ [(w, ws)] }

/-- The descriptors that words of the packet name. -/
def captureAll (ac : Acc) : List Nat → Pkt → A s0 Pkt
  | [], p => pure p
  | w :: ws, p => do
    let p ← captureAt ac w (p.w w) p
    captureAll ac ws p

/-- The words whose descriptors the class reads: an optional operand of 0 names none. -/
def descWords (p : Pkt) : List Nat :=
  match p.op with
  | 0x10 | 0x11 => [2, 3, 4] ++ given p 5
  | 0x13 => [2, 3, 4, 5] ++ given p 9
  | 0x18 => [2] ++ given p 3 ++ [4]
  | 0x50 | 0x51 => p.kvWords
  | 0x52 => []
  | op => recordWordsOf op

/-- A batch table: header and row entries (R292). -/
def captureBatch (ac : Acc) (va : Nat) (p : Pkt) : A s0 Pkt := do
  let h ← rdWords ac va 8
  let rows ← (if batchOk h (nth h 1) then rdWords ac (bits (nth h 0) 51 0) (min 8192 (nth h 1)) else pure [])
  pure { p with descs := p.descs ++ [(100, h), (101, rows)] }

/-- An adapter binding record and its batch table (R290); the operand W7 of a product may be 0, for none (R61). -/
def captureBinding (ac : Acc) (w : Nat) (p : Pkt) : A s0 Pkt := do
  if w = 7 ∧ p.w w = 0 then pure p
  else
    let p ← captureAt ac w (p.w w) p
    if (nth (p.record w) 0) < 2 ^ 52 then captureBatch ac (nth (p.record w) 0) p else pure p

/-- Descriptors whose addresses stand in a table or record that word w names, each captured under a number of its own; an
address that is no descriptor's makes the table ill-formed (R48, R496). -/
def captureFrom (ac : Acc) (w : Nat) : List (Nat × Nat) → Pkt → A s0 Pkt
  | [], p => pure p
  | (k, va) :: rest, p => do
    if va % 64 ≠ 0 ∨ 2 ^ 52 ≤ va then throw (.fail stBadParam (wordDetail w 0xFF))
    let p ← captureAt ac k va p
    captureFrom ac w rest p

/-- A pair record and its two descriptors (R226, log entry 23). -/
def capturePair (ac : Acc) (w : Nat) (p : Pkt) : A s0 Pkt := do
  let ws ← rdWords ac (p.w w) 2
  captureFrom ac w [(30, nth ws 0), (31, nth ws 1)] p

/-- The expert table and every expert's two descriptors (log entry 23). -/
def captureExperts (ac : Acc) (p : Pkt) : A s0 Pkt := do
  let ws ← rdWords ac (p.w 4) (2 * p.f 9 8 0)
  captureFrom ac 4 ((List.range (2 * p.f 9 8 0)).map fun i => (40 + i, nth ws i)) p

/-- What a packet names, read once. -/
def capture (ac : Acc) (p : Pkt) : A s0 Pkt := do
  let p ← captureAll ac (descWords p) p
  match p.op with
  | 0x10 | 0x11 | 0x13 => captureBinding ac 7 p
  | 0x12 => captureBinding ac 3 p
  | 0x21 => do
    let p ← capturePair ac 3 p
    captureExperts ac p
  | 0x41 => capturePair ac 5 p
  | 0x62 => do
    let ws ← rdWords { ac with source := 2 } (p.w 3) 16
    pure { p with descs := p.descs ++ [(3, ws)] }
  | 0x65 => captureBatch ac (p.w 3) p
  | _ => pure p

/-! ### Chains (R57, R58) -/

/-- Where the packets of a chain start, from an offset on: the walk over its SLOTS fields. -/
def chainStarts (ac : Acc) (base len : Nat) : (fuel pos : Nat) → A s0 (List Nat)
  | 0, _ => pure []
  | fuel + 1, pos => do
    if len ≤ pos then pure []
    else
      let w ← rdWord ac (base + 64 * pos)
      let rest ← chainStarts ac base len fuel (pos + 1 + bits w 21 20)
      pure (pos :: rest)

/-! ### Dies and sets (R43, R311) -/

/-- The dies that own an address: bit 0 CD0, bit 1 CD1. -/
def diesOf (a : Nat) : Nat :=
  match regionOf a with
  | .stack n => if n < 6 then 1 else 2
  | .setBuf x => if x < 40 then 1 else 2
  | _ => 3

/-- The dies that run a packet (R43); those of a stack-class product are its stacks' (R225). -/
def chooseDies (ac : Acc) (p : Pkt) : A s0 Pkt := do
  if p.op = 0x40 ∨ p.op = 0x41 then pure p
  else if p.f 1 17 16 ≠ 0 then pure { p with dies := p.f 1 17 16 }
  else match p.outputs with
    | [] => pure { p with dies := 3 }
    | t :: _ => do
      let a ← tr ac t.base true
      pure { p with dies := diesOf a }

/-- Sets are there on every die the packet needs (R311); the die part of a stack-class product runs on either (R225). -/
def State.setsThere (s : State) (c : Nat) (p : Pkt) : Bool :=
  if p.op = 0x40 ∨ p.op = 0x41 then s.bindsOn c 0 || s.bindsOn c 1
  else if usesSets p.op then (List.range 2).all fun d => !bit p.dies d || s.bindsOn c d
  else true

/-! ### Class checks (R496) -/

/-- The pages that the packet opened in the step's first run, where this is a rerun (R256). -/
def State.rerunPages (s : State) (c : Nat) (p : Pkt) : Option (List Nat) :=
  let e := (s.ctxsAt c).enc
  if p.inStep && e.rerun then (e.pages.find? fun o => o.1 == p.q && o.2.1 == p.ord).map fun o => o.2.2 else none

/-- The checks proper to the class, on the packet with what it names. -/
def classChecks (c : Nat) (p : Pkt) (ac : Acc) : A s0 Pkt := do
  let s ← (cur : M s0 _)
  match p.op with
  | 0x05 => do
    if p.parent.any fun u => decide (4 ≤ (s.callsAbove c 4 u).length + 1) then throw (.fail stBadParam (wordDetail 0 0))
    let starts ← chainStarts ac (p.w 2) (p.f 3 12 0) (p.f 3 12 0) 0
    pure { p with aux := starts }
  | 0x06 => if p.parent.isNone then throw (.fail stBadParam (wordDetail 0 0)) else pure p
  | 0x09 => do check (reduceFlaw p); pure p
  | 0x10 | 0x11 => do denseChecks p ac (matmulStages p) (matmulTargets p); pure p
  | 0x12 => do denseChecks p ac (adapterStages p) (adapterTargets p); pure p
  | 0x13 => do denseChecks p ac (mlpStages p) (mlpTargets p); pure p
  | 0x18 | 0x19 | 0x1A | 0x1B => do check (vectorFlaw p); pure p
  | 0x1C => do check (rotaryFlaw p); pure p
  | 0x20 => do check (moeRouteFlaw p (s.fld F.featMoe_value)); pure p
  | 0x21 => do check (moeFlaw p (bits (s.fld F.featMoe_value) 23 16)); pure { p with aux := [s.expertMax c p] }
  | 0x30 | 0x31 | 0x32 | 0x33 | 0x34 | 0x35 => do movementChecks p ac; pure p
  | 0x43 => do movementChecks p ac; let _ ← copyHomes p ac; pure p
  | 0x40 => nearMatvecChecks c p ac
  | 0x41 => nearExpertChecks c p ac
  | 0x42 => do let _ ← nearChecks (nearEltStages p) (eltHomes p ac); pure p
  | 0x4F => do check (nearRawFlaw p); pure p
  | 0x50 | 0x51 | 0x52 => kvChecks p ac (s.rerunPages c p)
  | 0x53 | 0x54 => prefixChecks p ac
  | 0x55 => kvMoveChecks p ac
  | 0x62 => do reqOpenChecks p { ac with source := 2 } p.reqBlock; pure p
  | 0x65 => do check (sampleFlaw p s c); pure p
  | 0x70 | 0x71 | 0x72 | 0x73 => do
    check (if (s.logged c p).isSome then none else collFlaw s c p)
    pure p
  | _ => pure p

/-- The sixth row: everything the packet names is read, checked and kept with it; the dies are chosen, sets tested; the pages
it opens are taken from their pools, but in a rerun, which has them (R256). -/
def validate (c : Nat) (p : Pkt) (ac : Acc) : A s0 Pkt := do
  let p ← capture ac p
  let p ← classChecks c p ac
  let p ← chooseDies ac p
  let s ← (cur : M s0 _)
  if s.setsThere c p = false then throw (.fail stQuota 0)
  if p.pages ≠ [] ∧ (s.rerunPages c p).isNone then kvPop ac p.kv
  pure p

end Sys2Proof.Machine
end

