-- ==== Sys2Proof/Machine/Estimate.lean ====
section
/-!
DEFINITION. The run-time estimate by which the caller splits a packet at validation (R163, R323): the packet's work over the
peak rate of its class. The spec gives the rates and not the formula; which work counts is the model's choice (log entry 6).
-/
namespace Sys2Proof.Machine

/-- The work of a packet, the work that one resource of its class does in a cycle, how many of the resource there are, and the
cycles of its clock in 2 ms. -/
structure Work where
  amount : Nat
  rate : Nat
  units : Nat
  cycles : Nat
  deriving DecidableEq, Repr

/-- The work takes more than 2 ms at the peak rate. -/
def Work.over (w : Work) : Bool := decide (w.rate * w.units * w.cycles < w.amount)

/-- Cycles in 2 ms at 850 MHz, a core's nominal clock, and at 1.25 GHz, the base dies' clock (R2, R206). -/
def coreCycles : Nat := 1700000
def baseCycles : Nat := 2500000

/-- The sets of the packet's dies that its context binds. -/
def State.setsOf (s : State) (c : Nat) (p : Pkt) : Nat :=
  ((List.range 80).filter fun x => s.bindsSet c x && bit p.dies (x / 40)).length

/-- MACs of an array in a cycle, by the formats of A and B (R108). -/
def macRate (fa fb : Nat) : Nat :=
  if fb = 1 then 64 else if fa = 7 ∨ fb = 7 then 512 else 256

/-- Keys that a query at position q attends to (R260). -/
def Kv.keyCount (k : Kv) (q : Nat) : Nat :=
  if k.sparse then min k.window (q + 1) + k.gcount (q + 1 - k.window) else q + 1

/-- Bytes of a view's elements. -/
def Desc.bytes (t : Desc) : Nat := (t.count * elemBits t.fmt + 7) / 8

/-- The MACs of a gated MLP of the sizes of its gate-and-up weights, for m rows (R112). -/
def mlpMacs (m : Nat) (gu : Desc) : Nat := 3 * m * gu.size 0 * (gu.size 1 / 2) * gu.size 2

/-- MACs of attention: keys times head dimension, once for scores and once for values (R263). -/
def Kv.macs (k : Kv) : Nat :=
  2 * k.heads * k.group * k.d *
    ((k.seqs.map fun x => (x.queries.map k.keyCount).foldl (· + ·) 0).foldl (· + ·) 0)

/-- The work of a packet of a class that may be split, over `sets` sets. -/
def workOf (p : Pkt) (sets : Nat) : Option Work :=
  let arrays (macs fa fb : Nat) : Option Work := some ⟨macs, macRate fa fb, 128 * sets, coreCycles⟩
  let lanes (n : Nat) : Option Work := some ⟨n, 32, 128 * sets, coreCycles⟩
  let streams (n : Nat) : Option Work := some ⟨n, 64, 256 * sets, coreCycles⟩
  let units (n rate : Nat) : Option Work := some ⟨n, rate, 384, baseCycles⟩
  let fmt (w : Nat) : Nat := (p.desc w).fmt
  match p.op with
  | 0x10 | 0x11 => arrays ((p.desc 4).count * (p.desc 2).size 0) (fmt 2) (fmt 3)
  | 0x12 => arrays ((p.desc 2).size 1 * p.f 5 7 0 * ((p.desc 2).size 0 + (p.desc 4).size 0)) (fmt 2) 1
  | 0x13 => arrays (mlpMacs ((p.desc 2).size 1) (p.desc 3)) (fmt 2) (fmt 3)
  | 0x21 => arrays (mlpMacs ((p.desc 2).size 1 * (p.desc 30).size 0) (p.desc (guWord 0))) (fmt 2) (fmt (guWord 0))
  | 0x18 | 0x19 | 0x1A | 0x1B | 0x1C | 0x20 => lanes (p.desc 2).count
  | 0x30 | 0x31 | 0x35 => streams (p.desc 3).bytes
  | 0x32 => streams (p.desc 4).bytes
  | 0x33 | 0x34 => streams (p.desc 2).bytes
  | 0x50 => streams (4 * p.kv.rows * p.kv.heads * p.kv.d)
  | 0x51 => arrays p.kv.macs 3 (if p.kv.fmt = 11 then 7 else 3)
  | 0x40 => units ((p.desc 2).size 1 * (p.desc 3).count) (if fmt 2 = 7 ∨ fmt 3 = 7 then 256 else 128)
  | 0x41 => units (mlpMacs ((p.desc 2).size 1) (p.desc 30)) (if fmt 2 = 7 ∨ fmt 30 = 7 then 256 else 128)
  | 0x42 | 0x43 => units (p.desc 2).bytes 80
  | _ => none

/-- The caller splits the packet: its estimate exceeds 2 ms (R163, R323). -/
def State.splits (s : State) (c : Nat) (p : Pkt) : Bool := (workOf p (max 1 (s.setsOf c p))).any Work.over

end Sys2Proof.Machine
end

