-- ==== Sys2Proof/Machine/Fetch.lean ====
section
/-!
DEFINITION. The fetch of packets (R36 to R50, R52, R57, R58, R459, R495): where a queue's next packet comes from, what a slot
that cannot be read does, and the issue, skip or failure of one packet.
-/
namespace Sys2Proof.Machine

variable {s0 : State}

/-- Where a queue's next packet stands: in its ring, in its innermost chain, or in the encore log (R33, R58, R459). -/
inductive Src where
  | ring
  | chain (f : Frame)
  | log (ws : List Nat)
  deriving DecidableEq, Repr

/-- The packet stands in the encore log. -/
def Src.fromLog : Src → Bool
  | .log _ => true
  | _ => false

/-- The source of a queue's next packet. A rerun's logged packets, and the chains they call, come before the ring and before
a chain that a packet behind STEP_END called, which stands still (R459 beat 5). -/
def State.source (s : State) (c q : Nat) : Option Src :=
  let log : Option Src := match (s.ctxsAt c).enc.replay with
    | (k, ws) :: _ => if k = q then some (.log ws) else none
    | [] => none
  match (s.queAt (qKey c q)).chain with
  | f :: _ =>
    if (s.ctxsAt c).enc.replay ≠ [] ∧ (s.pkt c f.call).any Pkt.inStep = false then log
    else if f.pos < f.len then some (.chain f) else none
  | [] => if (s.ctxsAt c).enc.replay ≠ [] then log else if s.sqUsed c q = 0 then none else some .ring

/-! ### What keeps a queue from fetching -/

/-- A STEP_BEGIN of the context has issued and not yet opened its step: what belongs to the step is not yet known, and only
REQ_CANCEL and REQ_CLOSE, which belong to none, issue (R302). -/
def State.opening (s : State) (c : Nat) : Bool :=
  (s.ctxsAt c).pkts.any fun p => p.op == 0x60 && p.st != .waiting && p.st != .done

/-- The queue's STEP_END has issued and not yet acted. -/
def State.closing (s : State) (c q : Nat) : Bool :=
  (s.ctxsAt c).pkts.any fun p => p.op == 0x61 && p.q == q && p.st == .issued

/-- The CALL of the queue's innermost chain stalls on a slot (R495). -/
def State.callStalled (s : State) (c q : Nat) : Bool :=
  match (s.queAt (qKey c q)).chain with
  | f :: _ => (s.pkt c f.call).all fun p => p.st != .waiting
  | [] => false

/-- The queue fetches and waits for nothing (R50, R494, R495). Packets of the encore log are not fetched, so no halt holds them
back (R459). -/
def State.queueReady (s : State) (c q : Nat) (src : Src) : Bool :=
  (s.sqFetches c q || src.fromLog) && !(s.queAt (qKey c q)).stuck && (s.queAt (qKey c q)).fault.isNone && !s.steering c q &&
    !s.closing c q && !s.callStalled c q

/-- The context's caller issues: the block runs, the context is loaded and not yielding, and the holds of R38 are off. -/
def State.mayIssue (s : State) (c : Nat) : Bool :=
  s.flag F.rstStatus_ready && decide (s.fld F.pwrStatus_idle = 0) && s.loaded c && s.callerUp c &&
    (s.fld F.schCtxState_state c != 6 || s.stepHeld c) && !s.cqFull c && decide (s.inFlight c < 64)

/-- The context's queues in the order of R52: highest PRIO first, round-robin among equals. -/
def State.queueOrder (s : State) (c : Nat) : List Nat :=
  [3, 2, 1, 0].flatMap fun p => ((List.range 4).map fun i => (nth (s.ctxsAt c).rr p + 1 + i) % 4).filter fun q =>
    s.fld F.clrSqCfg_prio c q == p

/-- A FENCE or EVENT_SIGNAL before p in its queue has not completed its drain (R50). -/
def State.fenced (s : State) (c : Nat) (p : Pkt) : Bool :=
  (s.ctxsAt c).pkts.any fun y => s.precedes c p y && (y.op == 0x80 || y.op == 0x82) && y.st != .done

/-! ### Reading slots (R495) -/

/-- The words of a packet: its first slot, and its extension slots where they lie among the slots there are. -/
def readPacket (ac : Acc) (va : Nat → Nat) (room : Nat) : A s0 (List Nat) := do
  let ws ← rdWords ac (va 0) 8
  if room < slotsOf ws + 1 then pure ws
  else
    let rest ← mapA (fun k => rdWords ac (va (k + 1)) 8) (List.range (slotsOf ws))
    pure (ws ++ rest.flatten)

/-- A ring slot that cannot be read. The answer is whether the caller has acted. -/
def ringFault (c q : Nat) (e : Stop) : M s0 Bool := do
  let s ← cur
  match e with
  | .flt st va w _ =>
    if s.restarts c then
      let fid ← openFault c 1 st va w (s.fld F.clrSqSeq_nextSeq c q) 0 q none
      modQue (qKey c q) fun x => { x with fault := some fid }
    else slotFails c q st va
    pure true
  | .poison va _ => do
    slotFails c q stPoison va
    pure true
  | .hold sn => do
    askSnoop sn
    pure false
  | _ => do
    slotFails c q stInternal 0
    pure true

/-- A chain slot that cannot be read: a fault of the CALL. -/
def chainFault (c q : Nat) (f : Frame) (e : Stop) : M s0 Bool := do
  let s ← cur
  match s.pkt c f.call with
  | none => pure false
  | some p =>
    match e with
    | .hold sn => do
      askSnoop sn
      pure false
    | .flt st va w _ =>
      if s.restarts c then
        let fid ← openFault c 1 st va w p.seq p.op q (some p.id)
        modPkt c p.id fun y => { y with st := .stalled fid }
      else failPacket c p st va
      pure true
    | .poison va dpa => do
      modPkt c p.id fun y => { y with dpa := dpa }
      failPacket c p stPoison va
      pure true
    | _ => do
      failPacket c p stInternal 0
      pure true

/-! ### Taking a packet -/

/-- Slots of the encore log that hold packets. -/
def logSlots (l : List (Nat × List Nat)) : Nat := (l.map fun e => e.2.length / 8).foldl (· + ·) 0

/-- A ring packet of an open step enters the encore log, or the log overflows (R457). -/
def logPacket (c q : Nat) (ws : List Nat) : M s0 Unit := do
  let s ← cur
  let e := (s.ctxsAt c).enc
  if e.lost = false ∧ e.dead = none then
    if logSlots e.log + ws.length / 8 ≤ 2 ^ s.fld F.clrEncCfg_sizeLog2 c - 16 then
      modCtxs c fun x => { x with enc := { x.enc with log := x.enc.log ++ [(q, ws)] } }
    else modCtxs c fun x => { x with enc := { x.enc with lost := true } }

/-- A list's entry q raised by one; entries beyond its end count as 0. -/
def raiseAt (l : List Nat) (q : Nat) : List Nat := (List.range 4).map fun i => nth l i + if i = q then 1 else 0

/-- The caller goes on to another packet of the queue: what it paid for the reads of this one is done with. -/
def readsDone (c q : Nat) : M s0 Unit :=
  modQue (qKey c q) fun x => { x with paid := [], served := [], waits := [], promoted := [] }

/-- The packet's slots are released or passed, NEXT_SEQ advances where the packet came from the ring and its SEQ did not slip,
and the step's count and log follow (R39, R42, R46). -/
def take (c : Nat) (src : Src) (raw : List Nat) (p : Pkt) (slip : Bool) : M s0 Unit := do
  let n := slotsOf raw + 1
  readsDone c p.q
  match src with
  | .ring => do
    let s ← cur
    setF F.clrSqStatus_head ((s.fld F.clrSqStatus_head c p.q + n) % (2 * s.sqDepth c p.q)) c p.q
    if !slip then setF F.clrSqSeq_nextSeq ((s.fld F.clrSqSeq_nextSeq c p.q + 1) % 2 ^ 32) c p.q
    if p.inStep then logPacket c p.q raw
    modCtxs c fun x => { x with rr := (List.range 4).map fun i => if i = s.fld F.clrSqCfg_prio c p.q then p.q else nth x.rr i }
  | .chain _ =>
    modQue (qKey c p.q) fun x => { x with chain := match x.chain with
      | g :: gs => { g with pos := min g.len (g.pos + n) } :: gs
      | [] => [] }
  | .log _ => modCtxs c fun x => { x with enc := { x.enc with replay := x.enc.replay.drop 1 } }
  modCtxs c fun x => { x with
    nextId := x.nextId + 1
    enc := if p.inStep then { x.enc with ords := raiseAt x.enc.ords p.q } else x.enc }

/-- A packet that fails validation, or is skipped, completes at once. -/
def finish (c : Nat) (p : Pkt) : M s0 Unit := completePkt c { p with st := .done }

/-- The queue waits for an event of another packet (R50). -/
def stickQueue (c q : Nat) : M s0 Bool := do
  modQue (qKey c q) fun x => { x with stuck := true }
  pure false

/-! ### Issue -/

/-- The sets the packet may run on show the context (R103). -/
def markSets (c : Nat) (p : Pkt) : M s0 Unit := do
  let s ← cur
  each (s.heldSets c) fun x =>
    whenM (usesSets p.op ∧ bit p.dies (x / 40)) (setF F.cdSetOwner_context c (x / 40) (x % 40))

/-- What a control packet reads at issue: sA, sB and the predicates (R50). -/
def Pkt.reads (s : State) (c : Nat) (p : Pkt) : List Nat :=
  if p.op = 0x02 ∨ p.op = 0x03 then [s.scalar c (p.f 2 13 8), s.scalar c (p.f 2 21 16), s.fld F.clrPred_p c]
  else if p.op = 0x08 then [s.scalar c (p.f 2 5 0)]
  else p.aux

/-- The packet is in flight. The run-time estimate of R323 decides SPLIT. -/
def launch (c : Nat) (p : Pkt) : M s0 Unit := do
  let s ← cur
  let p := { p with aux := p.reads s c, split := s.splits c p }
  modCtxs c fun x => { x with
    pkts := x.pkts ++ [p]
    enc := if p.pages ≠ [] ∧ p.inStep ∧ (s.rerunPages c p).isNone then { x.enc with pages := x.enc.pages ++ [(p.q, p.ord, p.pages)] }
      else x.enc }
  markSets c p
  if p.op / 16 = 7 ∧ (s.logged c p).isNone then collIssue (p.f 2 9 0) c p
  joinEngine c p
  if p.op = 0x62 then takeSlot c p (s.partOf c) p.reqBlock
  if p.op = 0x64 then latchAtIssue c p
  if s.err.dieFault then
    if p.op = 0x62 then abandon c p
    endPkt c p.id stInternal 0

/-- The packet's group can take it, where it is a collective (R353); no page that waits to return to a pool comes before the
pages it opens (R255). -/
def State.groupOpen (s : State) (c : Nat) (p : Pkt) : Bool :=
  (p.op / 16 != 7 || (s.logged c p).isSome || s.groupFree (p.f 2 9 0)) &&
    (p.pages == [] || (s.rerunPages c p).isSome || !s.engineBusy 1 s.sched.engine)

/-- The caller waits for the tokens of its reads (R176, R178). -/
def waitReads (c q : Nat) (l : Log) : M s0 Bool := do
  each l.used (queueWaits c q)
  pure false

/-- The sixth row of R46 and the issue. A fault of a read at validation follows the partition's fault model (R143). -/
def issue (c : Nat) (src : Src) (raw : List Nat) (p : Pkt) (l : Log) : M s0 Bool := do
  let s ← cur
  let fail (st d dpa : Nat) : M s0 Bool := do
    take c src raw p false
    finish c { p with status := st, detail := d, dpa := dpa }
    pure true
  match (s.queAt (qKey c p.q)).failAs with
  | some (st, d) => do
    modQue (qKey c p.q) fun x => { x with failAs := none }
    fail st d 0
  | none => do
    let ((r, l'), _) ← attempt (runA (validate c p { s.acc c with source := 1 })) fun x =>
      match x.1 with
      | .ok y => s.groupOpen c y && s.queuePays c p.q (l.join x.2)
      | .error _ => false
    let l := l.join l'
    if !s.queuePays c p.q l then waitReads c p.q l else do
    touchPoison (s.acc c) r
    each l.used (queueCharge c p.q)
    match r with
    | .ok y =>
      if s.groupOpen c y then
        take c src raw y false
        launch c y
        pure true
      else stickQueue c p.q
    | .error (.flt st va w k) =>
      if s.restarts c then
        let fid ← openFault c k st va w p.seq p.op p.q none
        modQue (qKey c p.q) fun x => { x with fault := some fid }
        pure true
      else fail st va 0
    | .error (.poison va dpa) => fail stPoison va dpa
    | .error .internal => fail stInternal 0 0
    | .error (.fail st d) => fail st d 0
    | .error (.hold sn) => do
      askSnoop sn
      pure false

/-! ### One packet of a queue -/

/-- The SEQ that the packet must carry (R42, R43). -/
def State.dueSeq (s : State) (c q : Nat) : Src → Option Nat
  | .ring => some (s.fld F.clrSqSeq_nextSeq c q)
  | .chain f => some f.pos
  | .log _ => none

/-- The packet is one of the open step's, from its STEP_BEGIN to its STEP_END (R295, R458). -/
def State.joinsStep (s : State) (c : Nat) (src : Src) : Bool :=
  let x := s.ctxsAt c
  match x.step with
  | none => false
  | some st => !x.enc.stopped && (st.ending.isNone || match src with
    | .ring => false
    | .log _ => true
    | .chain f => x.enc.rerun && (s.pkt c f.call).any Pkt.inStep &&
        !(st.ending.any fun e => (s.callsAbove c 4 e).contains f.call))

/-- The packet as it stands before its checks: its place, and its words after substitution (R45). -/
def State.fresh1 (s : State) (c q : Nat) (src : Src) (raw : List Nat) : Pkt :=
  let ws := substituted (s.scalar c) raw
  let x := s.ctxsAt c
  let base : Pkt := { id := x.nextId, q := q, seq := bits (nth ws 0) 63 32, op := bits (nth ws 0) 7 0, words := ws, at_ := s.now
                      inStep := s.joinsStep c src, ord := nth x.enc.ords q }
  match src with
  | .chain f => { base with parent := some f.call, chainOff := f.pos, seq := ((s.pkt c f.call).map Pkt.seq).getD base.seq }
  | _ => base

/-- The packet fails one of the first two rows of R46: it completes; a SEQ of the ring that slipped stops the queue, and its
packet is never run, in a rerun of the step either (R42). -/
def refuse (c : Nat) (src : Src) (raw : List Nat) (p : Pkt) (f : Nat × Nat) : M s0 Unit := do
  let slip := src == .ring && f == (stBadParam, wordDetail 0 32)
  let p := { p with inStep := p.inStep && !slip }
  take c src raw p slip
  finish c { p with status := f.1, detail := f.2 }
  if slip then modQue (qKey c p.q) fun x => { x with errStop := true }

/-- A packet that a ring BRANCH passes over (R57): taken and checked under the first two rows; the target reached, or fallen
inside the packet, or the packet failing, ends the skip. -/
def passOver (c : Nat) (src : Src) (raw : List Nat) (p : Pkt) (k : Skip) (f : Flaw) : M s0 Unit := do
  let n := slotsOf raw + 1
  let stop (st d : Nat) : M s0 Unit := do
    modQue (qKey c p.q) fun x => { x with skip := x.laterSkip, laterSkip := none }
    endPkt c k.branch st d
  if k.left < n then stop stBadParam (wordDetail 2 0)
  else match f with
    | some e => do
      stop stBadParam (wordDetail 2 0)
      refuse c src raw p e
    | none => do
      take c src raw p false
      finish c { p with skipped := true }
      if k.left = n then stop stOk 0
      else modQue (qKey c p.q) fun x => { x with skip := some { k with left := k.left - n, done := k.done + n } }

/-- A BRANCH's skip passes over packets of its ring (R57): in a rerun, over those of the log where the BRANCH runs again too. -/
def State.skips (s : State) (c : Nat) (src : Src) (k : Skip) : Bool :=
  match src with
  | .ring => true
  | .log _ => (s.pkt c k.branch).any Pkt.inStep
  | .chain _ => false

/-- The predicate selects the packet (R47). -/
def State.selects (s : State) (c : Nat) (p : Pkt) : Bool := !p.b 0 12 || (s.pred c (p.f 0 10 8) != p.b 0 11)

/-- While the encore stops the context, only REQ_CANCEL and REQ_CLOSE issue (R459 beat 1). -/
def State.heldByEncore (s : State) (c op : Nat) : Bool := (s.ctxsAt c).enc.stopped && op != 0x63 && op != 0x64

/-- The first two rows of R46 on a packet; one of a chain that would extend past LENGTH fails them (R58). -/
def State.firstRows (s : State) (c : Nat) (src : Src) (raw : List Nat) (p : Pkt) : Flaw :=
  let short := raw.length < 8 * (slotsOf raw + 1)
  if short then
    if bit (s.fld F.featOpcodes_value (p.op / 64)) (p.op % 64) then some (stBadParam, wordDetail 0 20)
    else some (stBadOpcode, wordDetail 0 0)
  else firstFlaw [opcodeFlaw s p.words, headerFlaw c (s.dueSeq c p.q src) p.words]

/-- The caller acts on a queue's next packet: it takes, skips or fails it, or the queue waits (R45 to R50). A CUE waits for the
scalars of its SUBST words alone (R71). -/
def decide1 (c q : Nat) (src : Src) (raw : List Nat) (l : Log) : M s0 Bool := do
  let s ← cur
  let p := s.fresh1 c q src raw
  let skip := (s.queAt (qKey c q)).skip.filter (s.skips c src)
  let cue := p.op == 0x81
  if s.heldByEncore c p.op || (s.opening c && p.op != 0x63 && p.op != 0x64) then stickQueue c q
  else if skip.isNone && !cue && s.fenced c p then stickQueue c q
  else if s.unsettled c p (substReads raw) (if p.b 0 12 && !cue && skip.isNone then [p.f 0 10 8] else []) then stickQueue c q
  else
    let f := s.firstRows c src raw p
    match skip, f with
    | some k, _ => do
      passOver c src raw p k f
      pure true
    | none, some e => do
      refuse c src raw p e
      pure true
    | none, none =>
      if s.selects c p = false then
        take c src raw p false
        finish c { p with skipped := true }
        pure true
      else match ownFlaw s c p with
        | some e => do
          refuse c src raw p e
          pure true
        | none =>
          if !cue && s.unsettled c p (paramReads p) (predReads p) then stickQueue c q
          else issue c src raw p l

/-- One queue's turn: its next packet is read and acted on. The answer is whether the caller has acted. A packet whose slots
the doorbell has not all covered waits for the doorbell (R36). -/
def turn (c q : Nat) (src : Src) : M s0 Bool := do
  let s ← cur
  match src with
  | .log ws => decide1 c q src ws {}
  | .ring => do
    let head := s.fld F.clrSqStatus_head c q
    let (r, l) ← runA (readPacket { s.acc c with source := 1 } (fun k => s.slotVA c q (head + k)) (s.sqUsed c q))
    if !s.queuePays c q l then waitReads c q l else do
    each l.used (queueCharge c q)
    match r with
    | .ok ws => if ws.length < 8 * (slotsOf ws + 1) then stickQueue c q else decide1 c q src ws l
    | .error e => ringFault c q e
  | .chain f => do
    let (r, l) ← runA (readPacket { s.acc c with source := 1 } (fun k => f.base + 64 * (f.pos + k)) (f.len - f.pos))
    if !s.queuePays c q l then waitReads c q l else do
    each l.used (queueCharge c q)
    match r with
    | .ok ws => decide1 c q src ws l
    | .error e => chainFault c q f e

/-- Queues in their order, until the caller has acted on one. -/
def turns (c : Nat) : List Nat → M s0 Unit
  | [] => pure ()
  | q :: qs => do
    let s ← cur
    match s.source c q with
    | some src =>
      if s.queueReady c q src then
        let acted ← turn c q src
        if acted then popEnded c q 5 else turns c qs
      else turns c qs
    | none => turns c qs

/-- `PACKET_FETCH` (R46): the caller takes a context's next packet, validates it and issues, skips or fails it. -/
def execPacketFetch (c : Nat) (s : State) : Outcome :=
  M.go s (whenM (c < 256 ∧ s.mayIssue c) do
    turns c (s.queueOrder c)
    refresh c)

end Sys2Proof.Machine
end

