-- ==== Sys2Proof/Machine/Registers.lean ====
section
/-!
DEFINITION. The register window as software writes and reads it (R6 to R9, R11): an offset's register, what a write stores,
which writes are ignored, what a stored value sets off; the debug port (R437, R438), which reaches the same registers.
-/
namespace Sys2Proof.Machine

variable {s0 : State}

/-! ### Offsets -/

/-- The register of one name at a window offset. -/
def RegName.at? (n : RegName) (off : Nat) : Option Reg :=
  let d0 := n.stride 0
  let d1 := n.stride 1
  let d2 := n.stride 2
  if off < n.spec.base then none
  else
    let o := off - n.spec.base
    let i := if d0 = 0 then 0 else o / d0
    let o1 := o - i * d0
    let j := if d1 = 0 then 0 else o1 / d1
    let o2 := o1 - j * d1
    let k := if d2 = 0 then 0 else o2 / d2
    let r : Reg := ⟨n, i, j, k⟩
    if o2 = k * d2 ∧ r.exists then some r else none

/-- The register at a window offset. -/
def regAtOffset (off : Nat) : Option Reg := RegName.all.findSome? fun n => n.at? off

/-- The register a 32-bit half lies in, and the half's lowest bit. -/
def halfAt (off : Nat) : Option (Reg × Nat) :=
  match regAtOffset off with
  | some r => some (r, 0)
  | none =>
    if off < 4 then none
    else match regAtOffset (off - 4) with
      | some r => if r.name.spec.width = 64 then some (r, 32) else none
      | none => none

/-- The writes of an access of 4 or 8 bytes: register, mask of the bits written, data in place (R8). -/
def accessParts (off width data : Nat) : List (Reg × Nat × Nat) :=
  if width = 4 then
    match halfAt off with
    | some (r, b) => [(r, (2 ^ 32 - 1) * 2 ^ b, data % 2 ^ 32 * 2 ^ b)]
    | none => []
  else
    match regAtOffset off with
    | some r =>
      if r.name.spec.width = 64 then [(r, 2 ^ 64 - 1, data)]
      else (r, 2 ^ 32 - 1, data % 2 ^ 32) :: (match regAtOffset (off + 4) with
        | some r2 => [(r2, 2 ^ 32 - 1, data / 2 ^ 32)]
        | none => [])
    | none => []

/-! ### What a write stores -/

/-- A field of a value, raised to a minimum. -/
def noLess (f : Fld) (lo v : Nat) : Nat := setBits v f.hi f.lo (max lo (bits v f.hi f.lo))

/-- A field of a value, lowered to a maximum. -/
def noMore (f : Fld) (hi v : Nat) : Nat := setBits v f.hi f.lo (min hi (bits v f.hi f.lo))

/-- A field of a value brought between two limits. -/
def between (f : Fld) (lo hi v : Nat) : Nat := noMore f hi (noLess f lo v)

/-- A signed half of a value lowered to the option record's half (R401). -/
def signedMost (hi lo : Nat) (limit v : Nat) : Nat :=
  if signed 16 (bits limit hi lo) < signed 16 (bits v hi lo) then setBits v hi lo (bits limit hi lo) else v

/-- PWR_CAP as stored (R388): WATTS within 400 to 1,350, BRAKE_W at most WATTS. -/
def capWord (v : Nat) : Nat :=
  let w := between F.pwrCap_watts 400 1350 v
  noMore F.pwrCap_brakeW (bits w 42 32) w

/-- ARM of the fabric injector stays 0 under MODE 3 or COUNT 0 (R363). -/
def injWord (v : Nat) : Nat :=
  let w := noLess F.fabInjCtrl_depth 1 v
  if bits w 62 61 = 3 ∨ bits w 31 0 = 0 then setBits w 63 63 0 else w

/-- ARM of the array injector stays 0 under a target that does not exist (R136). -/
def arrayInjectWord (v : Nat) : Nat := if 39 < bits v 21 16 ∨ 129 < bits v 15 8 then setBits v 31 31 0 else v

/-- The value a register stores for the value written: the limits that the registers' tables state. -/
def State.stored (s : State) (r : Reg) (v : Nat) : Nat :=
  match r.name with
  | .hbSplitCfg => noMore F.hbSplitCfg_attnNearMax 16 (noMore F.hbSplitCfg_expertNearMax 8 v)
  | .hbEngineRate => noLess F.hbEngineRate_rate 1 v
  | .hbErrCfg => noLess F.hbErrCfg_depthLog2 6 v
  | .clrSqCfg => between F.clrSqCfg_depthLog2 4 12 v
  | .clrCqCfg => between F.clrCqCfg_depthLog2 6 14 v
  | .clrEncCfg => between F.clrEncCfg_sizeLog2 8 14 v
  | .cdArrayCfg => noMore F.cdArrayCfg_bypassRows 8 v
  | .cdArrayInject => arrayInjectWord v
  | .stkScrubCfg => noLess F.stkScrubCfg_interval 8 v
  | .dtScrubCfg => noLess F.dtScrubCfg_interval 8 v
  | .galCfg => noLess F.galCfg_burstRatio 1 v
  | .schCfg => noLess F.schCfg_stepHoldMaxMs 1 v
  | .schPartCfg => noLess F.schPartCfg_faultTimeoutMs 1 v
  | .schFaultCfg => between F.schFaultCfg_depthLog2 4 12 v
  | .fabCfg => noLess F.fabCfg_lostMs 1 (noLess F.fabCfg_rtoUs 1 v)
  | .fabCc => noLess F.fabCc_periodUs 1 v
  | .fabPortCtrl => noMore F.fabPortCtrl_width 2 v
  | .fabInjCtrl => injWord v
  | .thmLinkCtrl => noMore F.thmLinkCtrl_width 2 v
  | .pwrCfg => noLess F.pwrCfg_droopMargin 4 v
  | .pwrCap => capWord v
  | .pwrIdleCfg => noMore F.pwrIdleCfg_maxState 4 v
  | .pwrCapRail =>
    let (l100, l10, l1) := railLimits r.i
    noMore F.pwrCapRail_lim1us l1 (noMore F.pwrCapRail_lim10us l10 (noMore F.pwrCapRail_lim100us l100 v))
  | .tmpExtLim =>
    let limit := bits (s.opt (7 + r.i / 2)) (32 * (r.i % 2) + 31) (32 * (r.i % 2))
    signedMost 31 16 limit (signedMost 15 0 limit v)
  | _ => v

/-- The WO bits that hold what is written and are no action: a key's (R279). -/
def RegName.heldWo : RegName → Nat
  | .srvPfxKeyLo => RegName.spec .srvPfxKeyLo |>.wo
  | .srvPfxKeyHi => RegName.spec .srvPfxKeyHi |>.wo
  | _ => 0

/-- The value a write of the masked bits makes of the register's bits: RW bits, and WO bits that hold a value, take the data, W1C bits written 1 are
cleared, the others stay (R6). -/
def State.merged (s : State) (r : Reg) (mask data : Nat) : Nat :=
  let old := s.reg r
  let rw := (r.name.spec.rw ||| r.name.heldWo) &&& mask
  let clr := r.name.spec.w1c &&& mask &&& data
  ((old ^^^ (old &&& (rw ||| clr))) ||| (data &&& rw))

/-! ### Writes that are ignored -/

/-- A base of the ledger is the first byte of the flush-class range of a row of ST0 or ST6 (R305). -/
def ledgerBaseOk (a : Nat) : Bool := flushClass a && (a == targetBase 0 || !flushClass (a - 1))

/-- Some slot is not FREE. -/
def State.slotUsed (s : State) (ok : Nat → Bool) : Bool := s.slots.any fun e => s.slotState e.1 != 0 && ok e.1

/-- Some fabric port has EN at 1. -/
def State.portOn (s : State) : Bool := (List.range 48).any fun p => s.flag F.fabPortCtrl_en p

/-- The flag that a write of the register sets by being ignored, with its indexes; a write that is ignored and sets no flag
gives none in the pair; a write that is taken gives none (R35, R136, R191, R281, R306, R318, R361 to R363, R457, R474).
Writes of commit groups, of CLR_CQ_CFG, SCH_CTX_CFG and FAB_PORT_CTRL are decided on their own. -/
def State.ignores (s : State) (r : Reg) (v : Nat) : Option (Option (Fld × Nat)) :=
  let inject := s.flag F.secDbgStatus_inject
  let stateFlag := some (some (F.clrCtxStatus_stateWriteIgnored, r.i))
  let fabFlag := some (some (F.fabStatus_writeIgnored, 0))
  match r.name with
  | .clrSqBase | .clrSqCfg => if bit (s.fld F.clrCtxCfg_sqEn r.i) r.j then stateFlag else none
  | .clrSqSeq => if bit (s.fld F.clrCtxCfg_sqEn r.i) r.j && s.sqFetches r.i r.j then stateFlag else none
  | .clrCqBase => if s.flag F.clrCqCfg_en r.i then stateFlag else none
  | .clrS | .clrPred => if (List.range 4).any (s.sqFetches r.i) then stateFlag else none
  | .clrEncBase | .clrEncCfg => if (s.ctxsAt r.i).step.isSome then stateFlag else none
  | .schCtxSets0 | .schCtxSets1 | .schCtxSave | .schCtxSpill | .schCtxSince =>
    if s.flag F.schCtxCfg_en r.i then some (some (F.schCtxState_writeIgnored, r.i)) else none
  | .srvTenant =>
    if s.slotUsed fun n => s.slotTenant n == r.i then some (some (F.srvStatus_tenantWriteIgnored, 0)) else none
  | .srvLedgerBase =>
    if s.slotUsed (fun _ => true) || (bit v 0 && !ledgerBaseOk (bits v 47 18 * 2 ^ 18)) then
      some (some (F.srvStatus_baseIgnored, 0)) else none
  | .fabNode | .fabNodeIpLo | .fabNodeIpHi => if s.portOn then fabFlag else none
  | .fabPeerBase => if (List.range 1024).any (fun i => s.fld F.fabPeerState_state i != 0) then fabFlag else none
  | .reelGroupBase =>
    if (List.range 1024).any (fun g => s.fld F.reelGroupState_state g == 1 || s.fld F.reelGroupState_state g == 2) then fabFlag
    else none
  | .fabPortMac | .fabPortGwMac => if s.flag F.fabPortCtrl_en r.i then fabFlag else none
  | .hbErrBase | .hbRestoreBase => if s.flag F.hbErrCfg_en then some none else none
  | .cdArrayInject | .stkFlip | .stkFlipCtrl | .dtFlip | .dtFlipCtrl | .fabInjCtrl => if inject then none else some none
  | _ => none

/-- The register is a field of a regulator group that the scheduler owns while the card runs (R321). -/
def State.schedOwns (s : State) (r : Reg) : Bool :=
  (r.name == .stkReg || r.name == .dtReg || r.name == .fabReg) && s.inForce F.schCardFrame_en != 0

/-! ### Writes that set something off -/

/-- The two actions of a COMMIT register: the commit first, then the lock (R11). -/
def commitWrite (g : Group) (wo : Nat) : M s0 Unit := do
  whenM (bit wo 0) (groupGo g)
  whenM (bit wo 1) (groupLock g)

/-- CLR_CQ_CFG (R35, R74): DEPTH_LOG2 stays while EN is 1; EN going to 1 records the ring's pages. The DEPTH_LOG2 that a write
carries is compared as it would be stored, brought into 6 to 14 (DESIGN CHOICE, log entry 48). -/
def writeCqCfg (c v : Nat) : M s0 Unit := do
  let s ← cur
  if s.flag F.clrCqCfg_en c then
    if bits v 19 16 ≠ s.fld F.clrCqCfg_depthLog2 c then setFlag F.clrCtxStatus_stateWriteIgnored true c
    setF F.clrCqCfg_irqOnErr (bits v 1 1) c
    setF F.clrCqCfg_en (bits v 0 0) c
    refresh c
  else
    setReg ⟨.clrCqCfg, c, 0, 0⟩ (setBits v 0 0 0)
    if bit v 0 then enableRing c else refresh c

/-- SCH_CTX_CFG (R314, R317, R318): while EN is 1 only a write of 0 to EN acts. -/
def writeCtxCfg (c v : Nat) : M s0 Unit := do
  let s ← cur
  if s.flag F.schCtxCfg_en c then
    if bit v 31 then setFlag F.schCtxState_writeIgnored true c else disableCtx c
  else if bit v 31 then enableCtx c (bits v 3 0) (bit v 30)
  else setReg ⟨.schCtxCfg, c, 0, 0⟩ v

/-- FAB_PORT_CTRL (R338, R363, R410): while EN is 1 only EN is taken. -/
def writePortCtrl (p v : Nat) : M s0 Unit := do
  let s ← cur
  if s.flag F.fabPortCtrl_en p then
    setFlag F.fabStatus_writeIgnored true
    if !bit v 31 then disablePort p
  else
    setReg ⟨.fabPortCtrl, p, 0, 0⟩ (setBits v 31 31 0)
    if bit v 31 && s.portAllowed p then enablePort p

/-- HB_ERR_CFG (R470, R472): SEQ counts from the ring's enabling; held records are written. -/
def writeErrCfg (v : Nat) : M s0 Unit := do
  let s ← cur
  setReg ⟨.hbErrCfg, 0, 0, 0⟩ v
  if bit v 31 && !s.flag F.hbErrCfg_en then modErr fun x => { x with seq := 0 }
  errFlush

/-- Several actions of one control register, in ascending order of their bits. -/
def ctrlBits (wo : Nat) (acts : List (M s0 Unit)) : M s0 Unit :=
  each ((List.range acts.length).zip acts) fun e => whenM (bit wo e.1) e.2

/-- The effect of a write of a register whose value is stored and whose stored value, or whose action bits, set something
off. wo holds the data of the WO bits written, 0 elsewhere (R8). -/
def regActs (r : Reg) (v wo : Nat) : M s0 Unit := do
  let s ← cur
  let store : M s0 Unit := setReg r v
  match r.name with
  | .hbParityCmd => do
    store
    whenM (bit wo 63) (parityGo (bit v 62) (bits v 14 0) (bits v 46 32))
  | .rstSoft => do
    store
    whenM (bit wo 31) (softGo (bits v 11 10) (bits v 9 9) (bits v 5 0))
  | .secCmd => do
    store
    whenM (bit wo 31 = true ∧ (bits v 3 0 = 0 ∨ 8 < bits v 3 0)) do
      setF F.secCmdStatus_result (if s.sec.recovery || s.sec.moving.isSome then 4 else 1)
      setFlag F.secCmdStatus_done true
  | .rstGpio => setReg r (setBits v 47 32 (bits v 31 16 &&& bits v 15 0))
  | .hbErrCfg => writeErrCfg v
  | .hbErrPtr => do
    store
    errFlush
  | .tmpTripCause => do
    store
    if s.flag F.tmpTripCause_valid && !bit v 31 then journalAppend 0
  | .schCardCommit => commitWrite .schCard wo
  | .schPartCommit => commitWrite (.schPart r.i) wo
  | .srvPfxCommit => commitWrite .srvPfx wo
  | .fabRegCommit => commitWrite .fabReg wo
  | .dtMapCommit => commitWrite .dtMap wo
  | .dtRegCommit => commitWrite .dtReg wo
  | .stkMapCommit => commitWrite (.stkMap r.i) wo
  | .stkRegCommit => commitWrite (.stkReg r.i) wo
  | .schInval => do
    store
    whenM (bit wo 63) (invalidate (bit v 62) (bits v 55 52) (bits v 51 16) (bits v 15 0))
  | .schFaultCfg | .schFaultPtr => do
    store
    flushFaults
  | .schFaultResolve =>
    if bits wo 1 0 = 1 then resolve (bits wo 63 32) retryFault
    else if bits wo 1 0 = 2 then resolve (bits wo 63 32) failFault
    else resolveIgnored
  | .schPartCtrl => whenM (bit wo 0) (teardown r.i)
  | .schCtxCfg => writeCtxCfg r.i v
  | .srvCancel => whenM (bit wo 31) (cancelRegister (bits wo 12 0))
  | .srvReqSel => reqSnapshot (bits v 12 0)
  | .srvAdapterSel => adapterSnapshot (bits v 11 0)
  | .srvPfxKeySel => do
    store
    refreshKey
  | .srvPfxKeyCtrl => ctrlBits wo [keyLoad, keyClear]
  | .clrCtxCfg => do
    store
    unstick r.i
    refresh r.i
  | .clrSqCfg | .clrSqSeq => do
    store
    refresh r.i
  | .clrSqDb => doorbell r.i r.j (bits v 12 0)
  | .clrSqCtrl => do
    whenM (bit wo 1) (abortQueue r.i r.j)
    whenM (bit wo 0) (resumeQueue r.i r.j)
  | .clrCqCfg => writeCqCfg r.i v
  | .clrCqDb => do
    store
    unstick r.i
    refresh r.i
  | .clrEvent => writeEvent r.i r.j v
  | .fabPortCtrl => writePortCtrl r.i v
  | .fabInjCtrl => do
    store
    if bit v 63 then modFab fun x => { x with
      lfsr := Tab.put 0 x.lfsr r.i (s.fld F.fabInjSeed_seed r.i)
      chosen := Tab.put 0 x.chosen r.i 0 }
  | .fabPeerCtrl => do
    whenM (bit wo 31) (do
      failWaiting (bits wo 9 0) stPeerUnauth
      loadPeer (bits wo 9 0))
    whenM (bit wo 30) (dropPeer (bits wo 9 0))
  | .reelGroupCtrl => do
    whenM (bit wo 31) (groupCtrl true (bits wo 9 0))
    whenM (bit wo 30) (groupCtrl false (bits wo 9 0))
  | .thmLinkCtrl => do
    store
    whenM (bit wo 0) (startTraining 0 1)
  | .thmMemBase => if s.flag F.thmMemBase_en then setF F.thmMemBase_en (bits v 0 0) else store
  | .thmVecMask => setMask r.i v
  | .dtChState => whenM (bit wo 0) (failGo 12 r.i)
  | .stkChState => whenM (bit wo 0) (failGo r.i r.j)
  | .galUnitCtrl => ctrlBits wo [outGo r.i r.j, startTest r.i r.j true, startTest r.i r.j false]
  | .cdPerfCtrl => do
    store
    if s.flag F.cdPerfCtrl_snapBusy r.i = false then ctrlBits wo [perfSnap r.i, zeroPerf r.i]
  | .cdSetCtrl => ctrlBits wo [setRetire r.i r.j, startSetTest r.i r.j true, startSetTest r.i r.j false]
  | _ => store

/-- A field of a commit group (R9, R11, R321): the shadow copy takes the value, unless the group is locked, has a commit
pending, or belongs to the scheduler. -/
def groupWrite (g : Group) (r : Reg) (v : Nat) : M s0 Unit := do
  let s ← cur
  let q := groupRegs g
  if s.schedOwns r then setFlag F.schStatus_regOwned true
  if s.flag q.locked q.i then setFlag q.lockIgnored true q.i
  else if s.flag q.pending q.i then setFlag q.late true q.i
  else if !s.schedOwns r then setReg r (s.stored r v)

/-- A write of the masked bits of a register (R6 to R9, R11). -/
def regWrite (r : Reg) (mask data : Nat) : M s0 Unit := do
  let s ← cur
  let v := s.merged r mask data
  let wo := data &&& mask &&& r.name.spec.wo
  match groupOf r with
  | some g => groupWrite g r v
  | none =>
    match s.ignores r v with
    | some (some (f, i)) => setFlag f true i
    | some none => pure ()
    | none => regActs r (s.stored r v) wo

/-- `REGISTER_WRITE` (R6, R7, R8, R367): an access that is not naturally aligned 32 or 64 bits gets an error response and
sets MISALIGNED; an offset that its block does not define ignores the write. -/
def execRegisterWrite (off width : Nat) (data : W64) (s : State) : Outcome :=
  M.go s (
    if (width ≠ 4 ∧ width ≠ 8) ∨ off % width ≠ 0 then do
      if s.inReset .hub = false then setFlag F.hbRegErr_misaligned true
      linkError
    else throughWindow off (each (accessParts off width data.toNat) fun e => regWrite e.1 e.2.1 e.2.2))

/-! ### Reading -/

/-- The value a read of a register returns (R6): WO bits 0, a die's counters from the snapshot under VIEW (R107), the serving
counter where a register shows it (R306, R378). -/
def State.regRead (s : State) (r : Reg) : Nat :=
  match r.name with
  | .srvCounter | .thmTimePair => s.now
  | n =>
    if isPerf n then
      let view := s.flag F.cdPerfCtrl_view r.i
      s.withWork view r (if view then (Bank.get s.snap r).toNat else s.reg r)
    else s.reg r &&& n.readable

/-- The 32-bit half at an offset; an offset the block does not define reads 0 (R8, R367). -/
def State.halfRead (s : State) (off : Nat) : Nat :=
  match halfAt off with
  | some (r, b) => bits (s.regRead r) (b + 31) b
  | none => 0

/-- What a read of 4 or 8 bytes at a naturally aligned offset returns (R8). -/
def State.windowRead (s : State) (off width : Nat) : Nat :=
  if width = 4 then s.halfRead off else s.halfRead off + 2 ^ 32 * s.halfRead (off + 4)

/-- A read of the register window (R8, R367): what it returns, none for an error response; an access that is not naturally
aligned 32 or 64 bits sets MISALIGNED. -/
def readWindow (off width : Nat) : M s0 (Option Nat) := do
  let s ← cur
  if (width ≠ 4 ∧ width ≠ 8) ∨ off % width ≠ 0 then
    if s.inReset .hub = false then setFlag F.hbRegErr_misaligned true
    pure none
  else pure (some (s.windowRead off width))

/-! ### The debug port -/

/-- The block of an offset is powered down in the idle state in force (R399): from I2 the sets and the stacks, from I3 the
dies, in I4 the deep tier. -/
def State.blockDown (s : State) (b : Blk) : Bool :=
  let k := s.fld F.pwrStatus_idle
  match b with
  | .set _ _ | .stack _ => decide (2 ≤ k)
  | .die _ => decide (3 ≤ k)
  | .deep => decide (k = 4)
  | _ => false

/-- A register of the injection family (J of R437). -/
def injectReg (r : Reg) : Bool :=
  match r.name with
  | .cdArrayInject | .stkFlip | .stkFlipCtrl | .dtFlip | .dtFlipCtrl | .fabInjCtrl | .fabInjSeed => true
  | _ => false

/-- The level grants the access (R437): the security-monitor block reads at every level; Rr and Rm at READONLY, but for a
vendor token in SECURED no Rm; J; at FULL everything. -/
def State.debugGrants (s : State) (write : Bool) (wind off : Nat) : Bool :=
  let level := s.fld F.secDbgStatus_level
  if level = 2 then true
  else if wind = 0 then
    if write then level == 1 && s.flag F.secDbgStatus_inject && ((regAtOffset off).map injectReg).getD false
    else level == 1 || (decide (0x120000 ≤ off) && decide (off < 0x130000))
  else !write && level == 1 && !(s.lc == 2 && !s.flag F.secDbgStatus_operator)

/-- The block an access reaches. -/
def debugBlk (wind off : Nat) : Option Blk :=
  if wind = 0 then (windowBlock off).map Prod.snd
  else match regionOf off with
    | .stack n => some (.stack n)
    | .deep => some .deep
    | _ => none

/-- A granted access to a powered block is served. -/
def debugServe (write : Bool) (wind off : Nat) (data : W64) : M s0 Unit := do
  let s ← cur
  match debugBlk wind off with
  | none => emit (.debug none)
  | some b =>
    if s.inReset b ∨ off % 8 ≠ 0 then emit (.debug none)
    else if wind = 0 then
      if write then
        each (accessParts off 8 data.toNat) fun e => regWrite e.1 e.2.1 e.2.2
        emit (.debug (some 0))
      else
        let v ← readWindow off 8
        emit (.debug (v.map (BitVec.ofNat 64)))
    else if s.backed off = false then emit (.debug none)
    else if write then
      if s.refusesWrite off then emit (.debug none)
      else
        writeAt off (toBytes 8 data.toNat)
        emit (.debug (some 0))
    else do
      let ((r, _), _) ← readAt {} off 8
      emit (.debug (r.map fun bs => BitVec.ofNat 64 (ofBytes bs)))

/-- `DEBUG_PORT_ACCESS` (R437, R438): wind 0 the register window, 1 memory by DPA. A READONLY access to a powered-down block
answers POWERED_DOWN; a FULL one wakes the module and is held until the block is ready. -/
def execDebugPortAccess (write : Bool) (wind off : Nat) (data : W64) (s : State) : Outcome :=
  M.go s (
    if s.debugGrants write wind off = false then emit (.debug none)
    else if ((debugBlk wind off).map s.blockDown).getD false then
      if s.fld F.secDbgStatus_level = 2 then do
        modPwr fun x => { x with heldDebug := x.heldDebug ++ [(write, wind, off, data)] }
        startWake
      else emit .poweredDown
    else debugServe write wind off data)

/-- `IDLE_WAKE_DONE` (R329, R399, R438): spilled areas are copied back, sets restored, held debug-port accesses served. -/
def execIdleWakeDone (s : State) : Outcome :=
  M.go s (whenM (s.pwr.waking = true) do
    wakeDone
    each s.pwr.heldDebug fun e => debugServe e.1 e.2.1 e.2.2.1 e.2.2.2
    modPwr fun x => { x with heldDebug := [] })

end Sys2Proof.Machine
end

