-- ==== Sys2Proof/Machine/UnitRows.lean ====
section
/-!
DEFINITION. The commands of the galliard units (R221, R234, R235): the operation of the ticket that runs, and a failed check in a
run that a packet has of its own (log entry 32).
-/
namespace Sys2Proof.Machine

variable {s0 : State}

/-- The units on which a packet's runs execute. -/
def packetUnits (p : Pkt) (ac : Acc) : A s0 (List Nat) :=
  match p.op with
  | 0x21 => do
    let rows ← rdRouting ac p ((p.desc 2).size 1)
    let near ← placeExperts ac p (routed p rows)
    pure (near.flatMap Prod.snd)
  | 0x40 => do pure ((← matvecHomes p ac).map Prod.snd)
  | 0x41 => expertHomes p ac
  | 0x42 => do pure ((← eltHomes p ac).map fun h => h.2.1)
  | 0x43 => do pure (copyUnits (← copyHomes p ac))
  | 0x4F => do pure [(← (cur : M s0 _)).rawHome p]
  | 0x50 => appendUnits p ac
  | 0x51 => do
    let wr ← (if p.appends then appendUnits p ac else pure [])
    let at_ ← attendUnits p ac (← stageWords p ac)
    pure (wr ++ at_)
  | _ => pure []

/-- The packets of an opcode have runs with a unit operation (R225 to R229, R266, R269). -/
def runsUop (uop : Nat) (p : Pkt) : Bool :=
  (p.op == 0x4F && (cUop (rawCommand p 9) == uop || cUop (rawCommand p 17) == uop)) ||
  match uop with
  | 0x01 => [0x21, 0x40, 0x41, 0x51].contains p.op
  | 0x02 => p.op == 0x51
  | 0x10 => p.op == 0x40
  | 0x11 => p.op == 0x41 || p.op == 0x21
  | 0x20 => p.op == 0x42
  | 0x30 => p.appends
  | 0x31 | 0x32 => p.op == 0x51
  | _ => false

/-- The packets that callers may have runs of under way: those that caller k has issued, in a unit operation. -/
def State.packetsOf (s : State) (k uop : Nat) : List (Nat × Pkt) :=
  s.ctxs.flatMap fun e => if s.loaded e.1 && s.fld F.schCtxState_caller e.1 == k then
    (e.2.pkts.filter fun y => y.st == .issued && runsUop uop y).map fun y => (e.1, y) else []

/-- The first of a list of packets that has runs on a unit. -/
def firstUsing (u : Nat) : List (Nat × Pkt) → M s0 (Option (Nat × Pkt))
  | [] => pure none
  | (c, y) :: rest => do
    let ac := (← cur).acc c
    let (r, _) ← whatIf (runA (packetUnits y ac))
    match r with
    | .ok us => if us.contains u then pure (some (c, y)) else firstUsing u rest
    | .error _ => firstUsing u rest

/-- A check fails in a run that a packet of ticket t's caller has on the unit: the run is executed again, by the unit or, once
that is out of service, by cores; the unit has a strike, and the packet's record will carry RECOVERED (R234, R235). -/
def failPacketRun (uop n p t : Nat) : M s0 Unit := do
  let s ← cur
  if s.unitUp n p ∧ s.unitService n p = 0 ∧ s.unitMode n p = 2 then
    match ← firstUsing (uKey n p) (s.packetsOf (t / 4) uop) with
    | some (c, y) => do
      modPkt c y.id fun y => { y with recovered := true }
      unitStrike n p
    | none => pure ()

/-- A unit operation of ticket t: the ticket's, where it runs; else a check that fails in a packet's own run. -/
def unitUop (uop n p t : Nat) (pass : Bool) : M s0 Unit := do
  let s ← cur
  if s.runningTicket n p = some t then runTicket uop n p t pass
  else if pass then pure () else failPacketRun uop n p t

/-- `UOP_NONE` (R221). -/
def execUopNone (n p t : Nat) (s : State) : Outcome := M.go s (runTicket 0x00 n p t true)
/-- `UOP_LOAD` (R221). -/
def execUopLoad (u t : Nat) (pass : Bool) (s : State) : Outcome := M.go s (unitUop 0x01 (u / 32) (u % 32) t pass)
/-- `UOP_STORE` (R221). -/
def execUopStore (u t : Nat) (pass : Bool) (s : State) : Outcome := M.go s (unitUop 0x02 (u / 32) (u % 32) t pass)
/-- `MATVEC` (R222). -/
def execMatvec (n p t : Nat) (pass : Bool) (s : State) : Outcome := M.go s (unitUop 0x10 n p t pass)
/-- `EXPERT` (R226). -/
def execExpert (n p t : Nat) (pass : Bool) (s : State) : Outcome := M.go s (unitUop 0x11 n p t pass)
/-- `ELT` (R221). -/
def execElt (n p t : Nat) (pass : Bool) (s : State) : Outcome := M.go s (unitUop 0x20 n p t pass)
/-- `KV_WRITE` (R249). -/
def execKvWrite (u t : Nat) (pass : Bool) (s : State) : Outcome := M.go s (unitUop 0x30 (u / 32) (u % 32) t pass)
/-- `ATTN_PART` (R264). -/
def execAttnPart (n p t : Nat) (pass : Bool) (s : State) : Outcome := M.go s (unitUop 0x31 n p t pass)
/-- `JOIN` (R266). -/
def execJoin (u t : Nat) (pass : Bool) (s : State) : Outcome := M.go s (unitUop 0x32 (u / 32) (u % 32) t pass)
/-- `PCOPY` (R233). -/
def execPcopy (n p t : Nat) (s : State) : Outcome := M.go s (runTicket 0x40 n p t true)
/-- `SELFTEST` (R221). -/
def execSelftest (n p t : Nat) (pass : Bool) (s : State) : Outcome := M.go s (runTicket 0x7E n p t pass)

end Sys2Proof.Machine
end

