-- ==== Sys2Proof/Machine/Dispatch.lean ====
section
/-!
DEFINITION. The dispatcher: one arm per command, each a direct call of its meaning.
-/
namespace Sys2Proof.Machine

def exec (i : Instr) (s : State) : Host.Outcome State Fault Refusal :=
  match i with
  | .registerWrite off width data => Sys2Proof.Machine.execRegisterWrite off width data s
  | .commitGo g => Sys2Proof.Machine.execCommitGo g s
  | .commitLock g => Sys2Proof.Machine.execCommitLock g s
  | .commitApply g => Sys2Proof.Machine.execCommitApply g s
  | .sqDoorbell c q tail => Sys2Proof.Machine.execSqDoorbell c q tail s
  | .sqAbort c q => Sys2Proof.Machine.execSqAbort c q s
  | .sqResume c q => Sys2Proof.Machine.execSqResume c q s
  | .cqEnable c => Sys2Proof.Machine.execCqEnable c s
  | .eventCounterWrite c e v => Sys2Proof.Machine.execEventCounterWrite c e v s
  | .packetFetch c => Sys2Proof.Machine.execPacketFetch c s
  | .packetCompletion c id => Sys2Proof.Machine.execPacketCompletion c id s
  | .nop c id => Sys2Proof.Machine.execNop c id s
  | .setScalar c id => Sys2Proof.Machine.execSetScalar c id s
  | .scalarOp c id => Sys2Proof.Machine.execScalarOp c id s
  | .setPred c id => Sys2Proof.Machine.execSetPred c id s
  | .branch c id => Sys2Proof.Machine.execBranch c id s
  | .call c id => Sys2Proof.Machine.execCall c id s
  | .ret c id => Sys2Proof.Machine.execReturn c id s
  | .loadScalar c id => Sys2Proof.Machine.execLoadScalar c id s
  | .storeScalar c id => Sys2Proof.Machine.execStoreScalar c id s
  | .reduce c id => Sys2Proof.Machine.execReduce c id s
  | .waitValue c id => Sys2Proof.Machine.execWaitValue c id s
  | .waitValuePoll c id => Sys2Proof.Machine.execWaitValuePoll c id s
  | .waitValueTimeout c id => Sys2Proof.Machine.execWaitValueTimeout c id s
  | .signal c id => Sys2Proof.Machine.execSignal c id s
  | .matmul c id => Sys2Proof.Machine.execMatmul c id s
  | .matmulBatched c id => Sys2Proof.Machine.execMatmulBatched c id s
  | .adapter c id => Sys2Proof.Machine.execAdapter c id s
  | .mlpGated c id => Sys2Proof.Machine.execMlpGated c id s
  | .eltwise c id => Sys2Proof.Machine.execEltwise c id s
  | .norm c id => Sys2Proof.Machine.execNorm c id s
  | .softmax c id => Sys2Proof.Machine.execSoftmax c id s
  | .quantise c id => Sys2Proof.Machine.execQuantise c id s
  | .rotaryQ c id => Sys2Proof.Machine.execRotaryQ c id s
  | .moeRoute c id => Sys2Proof.Machine.execMoeRoute c id s
  | .moeDispatch c id => Sys2Proof.Machine.execMoeDispatch c id s
  | .copy c id => Sys2Proof.Machine.execCopy c id s
  | .copyT c id => Sys2Proof.Machine.execCopyT c id s
  | .gather c id => Sys2Proof.Machine.execGather c id s
  | .scatter c id => Sys2Proof.Machine.execScatter c id s
  | .fill c id => Sys2Proof.Machine.execFill c id s
  | .tierMove c id => Sys2Proof.Machine.execTierMove c id s
  | .nearMatvec c id => Sys2Proof.Machine.execNearMatvec c id s
  | .nearExpert c id => Sys2Proof.Machine.execNearExpert c id s
  | .nearElt c id => Sys2Proof.Machine.execNearElt c id s
  | .nearCopy c id => Sys2Proof.Machine.execNearCopy c id s
  | .nearMode c id => Sys2Proof.Machine.execNearMode c id s
  | .nearRaw c id => Sys2Proof.Machine.execNearRaw c id s
  | .kvAppend c id => Sys2Proof.Machine.execKvAppend c id s
  | .attend c id => Sys2Proof.Machine.execAttend c id s
  | .kvRelease c id => Sys2Proof.Machine.execKvRelease c id s
  | .prefixLookup c id => Sys2Proof.Machine.execPrefixLookup c id s
  | .prefixInsert c id => Sys2Proof.Machine.execPrefixInsert c id s
  | .kvMove c id => Sys2Proof.Machine.execKvMove c id s
  | .stepBegin c id => Sys2Proof.Machine.execStepBegin c id s
  | .stepEnd c id => Sys2Proof.Machine.execStepEnd c id s
  | .stepCommit c id => Sys2Proof.Machine.execStepCommit c id s
  | .reqOpen c id => Sys2Proof.Machine.execReqOpen c id s
  | .reqClose c id => Sys2Proof.Machine.execReqClose c id s
  | .reqCancel c id => Sys2Proof.Machine.execReqCancel c id s
  | .sample c id => Sys2Proof.Machine.execSample c id s
  | .adapterBind c id => Sys2Proof.Machine.execAdapterBind c id s
  | .allReduce c id => Sys2Proof.Machine.execAllReduce c id s
  | .allGather c id => Sys2Proof.Machine.execAllGather c id s
  | .reduceScatter c id => Sys2Proof.Machine.execReduceScatter c id s
  | .allToAll c id => Sys2Proof.Machine.execAllToAll c id s
  | .fence c id => Sys2Proof.Machine.execFence c id s
  | .cue c id => Sys2Proof.Machine.execCue c id s
  | .eventSignal c id => Sys2Proof.Machine.execEventSignal c id s
  | .eventWait c id => Sys2Proof.Machine.execEventWait c id s
  | .eventWaitTimeout c id => Sys2Proof.Machine.execEventWaitTimeout c id s
  | .timestamp c id => Sys2Proof.Machine.execTimestamp c id s
  | .tileReexecution c id d st core cause => Sys2Proof.Machine.execTileReexecution c id d st core cause s
  | .spareTakeover d st core => Sys2Proof.Machine.execSpareTakeover d st core s
  | .setLeaveService d st => Sys2Proof.Machine.execSetLeaveService d st s
  | .strikeExpiry => Sys2Proof.Machine.execStrikeExpiry s
  | .strikeAgeRewrite => Sys2Proof.Machine.execStrikeAgeRewrite s
  | .setRetire d st => Sys2Proof.Machine.execSetRetire d st s
  | .setTest d st => Sys2Proof.Machine.execSetTest d st s
  | .setReturn d st => Sys2Proof.Machine.execSetReturn d st s
  | .setTestDone d st fails => Sys2Proof.Machine.execSetTestDone d st fails s
  | .meshFlitRetry d router dir ok => Sys2Proof.Machine.execMeshFlitRetry d router dir ok s
  | .perfSnap d => Sys2Proof.Machine.execPerfSnap d s
  | .perfSnapDone d => Sys2Proof.Machine.execPerfSnapDone d s
  | .perfClear d => Sys2Proof.Machine.execPerfClear d s
  | .servingCounterTick => Sys2Proof.Machine.execServingCounterTick s
  | .bulkAgePromote target part => Sys2Proof.Machine.execBulkAgePromote target part s
  | .mergeTimeout gran => Sys2Proof.Machine.execMergeTimeout gran s
  | .scrubGranule t ch => Sys2Proof.Machine.execScrubGranule t ch s
  | .scrubAlarm t ch => Sys2Proof.Machine.execScrubAlarm t ch s
  | .paritySeal first last => Sys2Proof.Machine.execParitySeal first last s
  | .parityUnseal first last => Sys2Proof.Machine.execParityUnseal first last s
  | .parityCmdDone => Sys2Proof.Machine.execParityCmdDone s
  | .parityRebuild dpa => Sys2Proof.Machine.execParityRebuild dpa s
  | .channelFail k byCount => Sys2Proof.Machine.execChannelFail k byCount s
  | .mapoutStart t => Sys2Proof.Machine.execMapoutStart t s
  | .mapoutSwitch t => Sys2Proof.Machine.execMapoutSwitch t s
  | .nearEnter u x => Sys2Proof.Machine.execNearEnter u x s
  | .nearEnterDone n p ok => Sys2Proof.Machine.execNearEnterDone n p ok s
  | .nearExit u x => Sys2Proof.Machine.execNearExit u x s
  | .nearExitDone n p => Sys2Proof.Machine.execNearExitDone n p s
  | .nearIdleExit n p => Sys2Proof.Machine.execNearIdleExit n p s
  | .unitCommandWrite n p off words agent => Sys2Proof.Machine.execUnitCommandWrite n p off words agent s
  | .unitTicketRelease n p x => Sys2Proof.Machine.execUnitTicketRelease n p x s
  | .uopNone n p t => Sys2Proof.Machine.execUopNone n p t s
  | .uopLoad u t pass => Sys2Proof.Machine.execUopLoad u t pass s
  | .uopStore u t pass => Sys2Proof.Machine.execUopStore u t pass s
  | .matvec n p t pass => Sys2Proof.Machine.execMatvec n p t pass s
  | .expert n p t pass => Sys2Proof.Machine.execExpert n p t pass s
  | .elt n p t pass => Sys2Proof.Machine.execElt n p t pass s
  | .kvWrite u t pass => Sys2Proof.Machine.execKvWrite u t pass s
  | .attnPart n p t pass => Sys2Proof.Machine.execAttnPart n p t pass s
  | .join u t pass => Sys2Proof.Machine.execJoin u t pass s
  | .pcopy n p t => Sys2Proof.Machine.execPcopy n p t s
  | .selftest n p t pass => Sys2Proof.Machine.execSelftest n p t pass s
  | .unitOut n p => Sys2Proof.Machine.execUnitOut n p s
  | .unitTest n p => Sys2Proof.Machine.execUnitTest n p s
  | .unitReturn n p => Sys2Proof.Machine.execUnitReturn n p s
  | .unitTestDone n p pass => Sys2Proof.Machine.execUnitTestDone n p pass s
  | .pfxKeyLoad => Sys2Proof.Machine.execPfxKeyLoad s
  | .pfxKeyClear => Sys2Proof.Machine.execPfxKeyClear s
  | .reqSnapshot slot => Sys2Proof.Machine.execReqSnapshot slot s
  | .adapterSnapshot a => Sys2Proof.Machine.execAdapterSnapshot a s
  | .cancelRegister slot => Sys2Proof.Machine.execCancelRegister slot s
  | .tlbInvalidate all part va count => Sys2Proof.Machine.execTlbInvalidate all part va count s
  | .invalidateDone => Sys2Proof.Machine.execInvalidateDone s
  | .contextEnable c part keeps => Sys2Proof.Machine.execContextEnable c part keeps s
  | .contextDisable c => Sys2Proof.Machine.execContextDisable c s
  | .partitionTeardown p => Sys2Proof.Machine.execPartitionTeardown p s
  | .teardownDone p => Sys2Proof.Machine.execTeardownDone p s
  | .cardFrameStart => Sys2Proof.Machine.execCardFrameStart s
  | .cardSlotStart slot => Sys2Proof.Machine.execCardSlotStart slot s
  | .openTimeStart cut => Sys2Proof.Machine.execOpenTimeStart cut s
  | .quantumExpiry c => Sys2Proof.Machine.execQuantumExpiry c s
  | .blockEvictExpiry c => Sys2Proof.Machine.execBlockEvictExpiry c s
  | .stepHoldExpiry c => Sys2Proof.Machine.execStepHoldExpiry c s
  | .preemptionPoint c => Sys2Proof.Machine.execPreemptionPoint c s
  | .contextSaveDone c d st => Sys2Proof.Machine.execContextSaveDone c d st s
  | .contextLoaded c => Sys2Proof.Machine.execContextLoaded c s
  | .hardSwap c => Sys2Proof.Machine.execHardSwap c s
  | .faultResolveRetry fid => Sys2Proof.Machine.execFaultResolveRetry fid s
  | .faultResolveFail fid => Sys2Proof.Machine.execFaultResolveFail fid s
  | .faultTimeout fid => Sys2Proof.Machine.execFaultTimeout fid s
  | .frameReceive port frame => Sys2Proof.Machine.execFrameReceive port frame s
  | .data => Sys2Proof.Machine.execData s
  | .ack => Sys2Proof.Machine.execAck s
  | .credit => Sys2Proof.Machine.execCredit s
  | .hold => Sys2Proof.Machine.execHold s
  | .hello ok => Sys2Proof.Machine.execHello ok s
  | .helloReply ok => Sys2Proof.Machine.execHelloReply ok s
  | .fabricAttest ok => Sys2Proof.Machine.execFabricAttest ok s
  | .confirm ok => Sys2Proof.Machine.execConfirm ok s
  | .close => Sys2Proof.Machine.execClose s
  | .ackTimer peer => Sys2Proof.Machine.execAckTimer peer s
  | .retransmitTimeout peer psn => Sys2Proof.Machine.execRetransmitTimeout peer psn s
  | .peerLost peer => Sys2Proof.Machine.execPeerLost peer s
  | .readmitRetry peer => Sys2Proof.Machine.execReadmitRetry peer s
  | .ccPeriod => Sys2Proof.Machine.execCcPeriod s
  | .handshakeResend peer => Sys2Proof.Machine.execHandshakeResend peer s
  | .rekeyDue peer => Sys2Proof.Machine.execRekeyDue peer s
  | .oldEpochExpiry peer => Sys2Proof.Machine.execOldEpochExpiry peer s
  | .holdTimer g rank => Sys2Proof.Machine.execHoldTimer g rank s
  | .collectiveSilence g rank => Sys2Proof.Machine.execCollectiveSilence g rank s
  | .peerLoad peer => Sys2Proof.Machine.execPeerLoad peer s
  | .peerDrop peer => Sys2Proof.Machine.execPeerDrop peer s
  | .groupArm g => Sys2Proof.Machine.execGroupArm g s
  | .groupDisarm g => Sys2Proof.Machine.execGroupDisarm g s
  | .laneFail p lane => Sys2Proof.Machine.execLaneFail p lane s
  | .portRetrainDone p => Sys2Proof.Machine.execPortRetrainDone p s
  | .portEnable p => Sys2Proof.Machine.execPortEnable p s
  | .injectReorderRelease p => Sys2Proof.Machine.execInjectReorderRelease p s
  | .theamFlitReplay => Sys2Proof.Machine.execTheamFlitReplay s
  | .linkTrainingDone lanes => Sys2Proof.Machine.execLinkTrainingDone lanes s
  | .linkLaneLoss lane => Sys2Proof.Machine.execLinkLaneLoss lane s
  | .linkDownRetry => Sys2Proof.Machine.execLinkDownRetry s
  | .retrain => Sys2Proof.Machine.execRetrain s
  | .companionMemRead addr len => Sys2Proof.Machine.execCompanionMemRead addr len s
  | .companionMemWrite addr bytes => Sys2Proof.Machine.execCompanionMemWrite addr bytes s
  | .companionCacheableRead addr => Sys2Proof.Machine.execCompanionCacheableRead addr s
  | .companionWriteback addr bytes evict => Sys2Proof.Machine.execCompanionWriteback addr bytes evict s
  | .snoopTimeout => Sys2Proof.Machine.execSnoopTimeout s
  | .thmSync => Sys2Proof.Machine.execThmSync s
  | .vectorUnmask v => Sys2Proof.Machine.execVectorUnmask v s
  | .inputSample mv ma => Sys2Proof.Machine.execInputSample mv ma s
  | .inputBrakeEnd => Sys2Proof.Machine.execInputBrakeEnd s
  | .railCheck r i1 i10 i100 mv => Sys2Proof.Machine.execRailCheck r i1 i10 i100 mv s
  | .railCeilingRecovery r => Sys2Proof.Machine.execRailCeilingRecovery r s
  | .polOvercurrent r => Sys2Proof.Machine.execPolOvercurrent r s
  | .tempoTick draws => Sys2Proof.Machine.execTempoTick draws s
  | .pwrbrkAssert => Sys2Proof.Machine.execPwrbrkAssert s
  | .pwrbrkRelease => Sys2Proof.Machine.execPwrbrkRelease s
  | .cuePhaseStart n => Sys2Proof.Machine.execCuePhaseStart n s
  | .cuePhaseEnd n => Sys2Proof.Machine.execCuePhaseEnd n s
  | .cueEvaluation n busy => Sys2Proof.Machine.execCueEvaluation n busy s
  | .droopDetect d => Sys2Proof.Machine.execDroopDetect d s
  | .droopFallback d => Sys2Proof.Machine.execDroopFallback d s
  | .droopRecover d => Sys2Proof.Machine.execDroopRecover d s
  | .sensorRead n raw bad => Sys2Proof.Machine.execSensorRead n raw bad s
  | .externalSensorRead n raw bad => Sys2Proof.Machine.execExternalSensorRead n raw bad s
  | .thermalStep part => Sys2Proof.Machine.execThermalStep part s
  | .extThrottleStep j => Sys2Proof.Machine.execExtThrottleStep j s
  | .alertRelease => Sys2Proof.Machine.execAlertRelease s
  | .idleEnter => Sys2Proof.Machine.execIdleEnter s
  | .idleWake cause => Sys2Proof.Machine.execIdleWake cause s
  | .idleWakeDone => Sys2Proof.Machine.execIdleWakeDone s
  | .powerOnAssert => Sys2Proof.Machine.execPowerOnAssert s
  | .powerOnRelease => Sys2Proof.Machine.execPowerOnRelease s
  | .mrstAssert => Sys2Proof.Machine.execMrstAssert s
  | .mrstRelease => Sys2Proof.Machine.execMrstRelease s
  | .hotResetAssert => Sys2Proof.Machine.execHotResetAssert s
  | .hotResetRelease => Sys2Proof.Machine.execHotResetRelease s
  | .watchdogExpiry => Sys2Proof.Machine.execWatchdogExpiry s
  | .watchdogRelease => Sys2Proof.Machine.execWatchdogRelease s
  | .tripLatchRelease => Sys2Proof.Machine.execTripLatchRelease s
  | .securityViolation code => Sys2Proof.Machine.execSecurityViolation code s
  | .securityResetRelease => Sys2Proof.Machine.execSecurityResetRelease s
  | .debugReset reach => Sys2Proof.Machine.execDebugReset reach s
  | .softReset kind die idx => Sys2Proof.Machine.execSoftReset kind die idx s
  | .softResetRelease => Sys2Proof.Machine.execSoftResetRelease s
  | .refclkFail core => Sys2Proof.Machine.execRefclkFail core s
  | .refclkRecover core => Sys2Proof.Machine.execRefclkRecover core s
  | .firmwareVerify okA okB chainOk => Sys2Proof.Machine.execFirmwareVerify okA okB chainOk s
  | .stackClearDone n => Sys2Proof.Machine.execStackClearDone n s
  | .deepWipeDone q => Sys2Proof.Machine.execDeepWipeDone q s
  | .featPublish => Sys2Proof.Machine.execFeatPublish s
  | .ready => Sys2Proof.Machine.execReady s
  | .wipeTimeout deep n => Sys2Proof.Machine.execWipeTimeout deep n s
  | .attest => Sys2Proof.Machine.execAttest s
  | .ceilingConfirm ok => Sys2Proof.Machine.execCeilingConfirm ok s
  | .bottomTreeBuilt => Sys2Proof.Machine.execBottomTreeBuilt s
  | .nodeCacheRebuild => Sys2Proof.Machine.execNodeCacheRebuild s
  | .lcChange sigOk => Sys2Proof.Machine.execLcChange sigOk s
  | .lcTransitionReset ok => Sys2Proof.Machine.execLcTransitionReset ok s
  | .dbgAuth sigOk => Sys2Proof.Machine.execDbgAuth sigOk s
  | .dbgClose => Sys2Proof.Machine.execDbgClose s
  | .debugSessionExpiry => Sys2Proof.Machine.execDebugSessionExpiry s
  | .dbgLockoutExpiry => Sys2Proof.Machine.execDbgLockoutExpiry s
  | .debugPortAccess write wind off data => Sys2Proof.Machine.execDebugPortAccess write wind off data s
  | .chainWrite ok => Sys2Proof.Machine.execChainWrite ok s
  | .fwWrite ok => Sys2Proof.Machine.execFwWrite ok s
  | .fwActivate sigOk ok => Sys2Proof.Machine.execFwActivate sigOk ok s
  | .fwSwitchStep kind idx => Sys2Proof.Machine.execFwSwitchStep kind idx s
  | .calReload => Sys2Proof.Machine.execCalReload s
  | .encoreStart c => Sys2Proof.Machine.execEncoreStart c s
  | .encoreRerun c => Sys2Proof.Machine.execEncoreRerun c s
  | .i3cSetdasa addr => Sys2Proof.Machine.execI3cSetdasa addr s
  | .i3cPrivateWrite bytes => Sys2Proof.Machine.execI3cPrivateWrite bytes s
  | .i3cPrivateRead n => Sys2Proof.Machine.execI3cPrivateRead n s
  | .collectiveAdmissionTimeout c id => Sys2Proof.Machine.execCollectiveAdmissionTimeout c id s
  | .snoopResponse data => Sys2Proof.Machine.execSnoopResponse data s
  | .pllLock domain => Sys2Proof.Machine.execPllLock domain s
  | .railPowerGoodTimeout r => Sys2Proof.Machine.execRailPowerGoodTimeout r s
  | .debugResetRelease => Sys2Proof.Machine.execDebugResetRelease s
  | .mgmtMemoryUncorrectable core => Sys2Proof.Machine.execMgmtMemoryUncorrectable core s

end Sys2Proof.Machine
end

