-- ==== Sys2Proof/Machine/Core.lean ====
section
/-!
DEFINITION. The block as the host's machine.
-/

/-- The block's state, its stops, its step and its state at reset. -/
def Sys2Proof.core : Host.Core := { State := Sys2Proof.Machine.State, Fault := Sys2Proof.Machine.Fault, Refusal := Sys2Proof.Machine.Refusal, step := Sys2Proof.Machine.step, reset := Sys2Proof.Machine.State.reset }
end

