-- ==== Sys2Proof/Safety.lean ====
section
/-!
DEFINITION. What counts as sound data and as a run without a stop, in the terms the statements use: the canonical form of
every sparse table of the state, registers whose reserved bits are 0 (R7), and a step that answers a next state.
-/
namespace Sys2Proof.Machine

/-- Memory in its one canonical form: addresses strictly rising, no byte listed that an unlisted address reads as. -/
def Memory.wf (m : List Host.Cell) : Bool := Map.wf memDefault natLt m

/-- The board's flash in its canonical form. -/
def Flash.wf (m : List Host.Cell) : Bool := Map.wf flashDefault natLt m

/-- A table of numbers in its canonical form. -/
def Tab.wf {α : Type} [DecidableEq α] (d : α) (l : Tab α) : Bool := Map.wf (fun _ => d) natLt l

/-- A register file in its canonical form, of registers that exist, whose reserved bits are 0 (R7). -/
def Bank.wf (b : Bank) : Bool :=
  Map.wf Reg.reset Reg.lt b && b.all fun e => e.1.exists && (e.2 &&& BitVec.ofNat 64 e.1.name.held) == e.2

/-- The invariant of the block's data, kept by every step. -/
structure State.Inv (s : State) : Prop where
  mem : Memory.wf s.mem = true
  flash : Flash.wf s.flash = true
  bank : Bank.wf s.bank = true
  force : Bank.wf s.force = true
  snap : Bank.wf s.snap = true
  chk : Tab.wf 0 s.chk = true
  que : Tab.wf {} s.que = true
  ctxs : Tab.wf {} s.ctxs = true
  slots : Tab.wf {} s.slots = true
  adapters : Tab.wf {} s.adapters = true
  keys : Tab.wf none s.keys = true
  units : Tab.wf {} s.units = true
  sets : Tab.wf {} s.sets = true

/-- An outcome is a next state. -/
def Completes (o : Outcome) : Prop := ∃ t, o = .next t

/-- The next step does not stop. -/
def State.Safe (s : State) : Prop := Completes (step s)

/-! ### The terms of the statements -/

/-- The command answers a next state of which P holds. -/
def Answers (i : Instr) (s : State) (P : State → Prop) : Prop := ∃ t, exec i s = .next t ∧ P t

/-- A companion access to a window offset reaches its block: the wrapper is open (R418), and the block answers before READY
or READY is set (R413). -/
def State.opensAt (s : State) (off : Nat) : Bool :=
  match windowBlock off with
  | some (b, blk) => !s.inReset blk && (s.flag F.rstStatus_ready || b == 0 || b == 2 || b == 3 || b == 9)
  | none => false

/-- A companion access to a register reaches it. -/
def State.opens (s : State) (r : Reg) : Bool := r.exists && s.opensAt r.offset

/-- p is a packet of the opcode, issued in a loaded context whose caller is out of reset, and not run yet; no preemption holds
back its parts (R322). -/
def State.issued (s : State) (c id op : Nat) (p : Pkt) : Prop :=
  s.loaded c = true ∧ s.callerUp c = true ∧ s.pkt c id = some p ∧ p.op = op ∧ p.st = .issued ∧ s.partsStop c p = false

/-- Every part of packet id of context c has ended, with this status and DETAIL. -/
def State.ended (t : State) (c id status detail : Nat) : Prop :=
  ∃ p, t.pkt c id = some p ∧ p.st = .done ∧ p.status = status ∧ p.detail = detail

/-- Packet id of context c stands in this state. -/
def State.stands (t : State) (c id : Nat) (st : PState) : Prop := ∃ p, t.pkt c id = some p ∧ p.st = st

/-- The registers whose bits follow a context's state by themselves (R32 to R34, R78, R316, R318). -/
def followers : List RegName := [.clrCtxStatus, .clrSqStatus, .clrCqStatus, .schCtxState, .schCtxSince, .cdSetStatus, .cdSetOwner]

/-- Every register but those of the names given is as it was. -/
def SameRegs (ns : List RegName) (s t : State) : Prop := ∀ r : Reg, r.name ∉ ns → t.reg r = s.reg r

/-- Memory with its check bytes, the merge entries and the board's flash are as they were. -/
def SameStore (s t : State) : Prop := t.mem = s.mem ∧ t.chk = s.chk ∧ t.merges = s.merges ∧ t.flash = s.flash

/-! ### Operations of packets -/

/-- An operation run from a state: how it ends, what it has used, the state after. -/
def State.runs (s : State) {α : Type} (m : A s α) : Except Stop α × Log × State :=
  let r := (runA m : M s _) ⟨s, Reach.refl s⟩
  (r.1.1, r.1.2, r.2.1)

/-- The tokens an operation of packet p uses can be paid (R178), and no part of p is exhausted (R455). -/
def State.affords (s : State) (c : Nat) (p : Pkt) {α : Type} (m : A s α) : Prop :=
  p.exhausted = false ∧ s.pays p (s.partOf c) (s.runs m).2.1 = true

/-- How a packet stands: its state, its status, its DETAIL, and whether a part needed a rebuild. -/
def Pkt.outcome (y : Pkt) : PState × Nat × Nat × Bool := (y.st, y.status, y.detail, y.recovered)

/-- The outcome of a packet whose operation left y and used l, when it has ended with a status and DETAIL. -/
def Pkt.endsWith (y : Pkt) (status detail : Nat) (l : Log) : PState × Nat × Nat × Bool :=
  (.done, status, detail, y.recovered || l.recovered)

/-- The serving engine keeps no order among packets of the opcode, or it is the packet's turn (R255, R274). -/
def State.servedNow (s : State) (c id op : Nat) : Prop := engineClass op = 0 ∨ s.engineTurn c id op = true

/-- The command of an opcode's packet runs the packet's operation: where that ends and its tokens can be paid, the packet has
ended with its status and DETAIL; memory, its check bytes, the merge entries, the flash and the request slots are as the
operation left them, and so is every register but the counters of granules served and the bits that follow a context. -/
def PacketRuns (cmd : Nat → Nat → Instr) (op : Nat) (body : {s0 : State} → Nat → Pkt → Acc → A s0 Fin) : Prop :=
  ∀ (c id : Nat) (s : State) (p : Pkt) (f : Fin), s.issued c id op p → s.servedNow c id op →
    (s.runs (body c p (s.acc c))).1 = .ok f → f.wait = false → s.affords c p (body c p (s.acc c)) → Answers (cmd c id) s fun t =>
      let r := s.runs (body c p (s.acc c))
      (t.pkt c id).map Pkt.outcome = (r.2.2.pkt c id).map (fun y => y.endsWith f.status f.detail r.2.1) ∧
      SameStore r.2.2 t ∧ t.slots = r.2.2.slots ∧ SameRegs (.stkRegGranules :: .dtRegGranules :: followers) r.2.2 t

/-- The command of an opcode's packet keeps to the fault model: an operation that cannot be paid leaves memory and the packet
waits; one that faults in a RESTART partition stalls on a new fault; poison and an internal failure end it. -/
def PacketStops (cmd : Nat → Nat → Instr) (op : Nat) (body : {s0 : State} → Nat → Pkt → Acc → A s0 Fin) : Prop :=
  ∀ (c id : Nat) (s : State) (p : Pkt), s.issued c id op p → Answers (cmd c id) s fun t =>
    let r := s.runs (body c p (s.acc c))
    (s.pays p (s.partOf c) r.2.1 = false → SameStore s t ∧ t.slots = s.slots ∧ t.stands c id .issued) ∧
    (s.pays p (s.partOf c) r.2.1 = true → r.1 = .error .internal →
      (t.pkt c id).map Pkt.outcome = (r.2.2.pkt c id).map fun y => y.endsWith stInternal 0 r.2.1) ∧
    (s.pays p (s.partOf c) r.2.1 = true → ∀ st va w k, r.1 = .error (.flt st va w k) → r.2.2.restarts c = true →
      (t.pkt c id).map (fun y => (y.st, y.recovered)) = (r.2.2.pkt c id).map fun y =>
        (.stalled r.2.2.sched.nextFid, y.recovered || r.2.1.recovered))

/-- q is the queue the caller looks at first, it waits for nothing, its next packet stands in the ring, and reading that packet
gives its words raw, changes nothing, and can be paid. -/
def State.nextInRing (s : State) (c q : Nat) (raw : List Nat) : Prop :=
  c < 256 ∧ s.mayIssue c = true ∧ (s.queueOrder c).head? = some q ∧ s.source c q = some .ring ∧ s.queueReady c q .ring = true ∧
    8 * (slotsOf raw + 1) ≤ raw.length ∧
    ∃ l, (runA (readPacket { s.acc c with source := 1 } (fun k => s.slotVA c q (s.fld F.clrSqStatus_head c q + k)) (s.sqUsed c q)) :
      M s _) ⟨s, Reach.refl s⟩ = ((.ok raw, l), ⟨s, Reach.refl s⟩) ∧ s.queuePays c q l = true

/-! ### Memory as a read finds it -/

/-- The byte a read of sound memory finds at an address: the merge entry's, where one holds it (R185, R186). -/
def State.seen (s : State) (x : Nat) : Byte :=
  match s.merges.find? fun m => m.gran == x / 64 with
  | some m => if bit m.mask (x % 64) then m.data.getD (x % 64) 0 else s.byteAt x
  | none => s.byteAt x

/-- Memory without an error: no granule deviates from its code, no stack is lost, every channel is GOOD, no flip-mask is
armed, and every merge entry is one of a coded granule, with 64 bytes and no other entry of that granule. -/
structure State.Sound (s : State) : Prop where
  code : s.chk = []
  lost : s.tier.lost = []
  good : ∀ t c, s.ch F.stkChState_state F.dtChState_state t c = 0
  calm : ∀ t c, s.ch F.stkFlipCtrl_arm F.dtFlipCtrl_arm t c = 0
  entries : ∀ m ∈ s.merges, m.data.length = 64 ∧ m.mask < 2 ^ 64 ∧ coded m.gran = true
  once : (s.merges.map Merge.gran).Nodup

/-- Accesses of context c's packets meet no error and no snoop: memory is sound, the companion tracks no granule, the
partition's tables lie in the tiers, and no read of a set buffer meets an error that a free value would bring (log entry 65). -/
structure State.Calm (s : State) (c : Nat) : Prop where
  sound : s.Sound
  untracked : s.thm.filter = []
  tables : inTiers (s.inForce F.schPartRoot_addr (s.partOf c) * 2 ^ 16) = true
  buffers : (∀ n, Config.freeBit n = false) ∨ ∀ x, x < 80 → s.bindsSet c x = false

/-- Word v can be stored at device virtual address va by packet p of context c: va is aligned and translates for writing to a,
which takes writes; a companion address finds the link ACTIVE; the tokens are there. -/
def State.storable (s : State) (c : Nat) (p : Pkt) (va a v : Nat) : Prop :=
  s.Calm c ∧ va % 8 = 0 ∧ va < 2 ^ 52 ∧ (s.runs (tr (s.acc c) va true)).1 = .ok a ∧ s.refusesWrite a = false ∧
    (regionOf a = .companion → s.linkActive = true) ∧ s.affords c p (wrAll (s.acc c) [{ va := va, bs := toBytes 8 v }])

/-- Memory as a read finds it changes from s to t in the word at a alone, which becomes v. -/
def WordStored (s t : State) (a v : Nat) : Prop :=
  ∀ x, t.seen x = if a ≤ x ∧ x < a + 8 then (toBytes 8 v).getD (x - a) 0 else s.seen x

/-! ### What a packet reads, and what it stores -/

/-- What an operation finds from a state, where nothing stops it. -/
def State.finds (s : State) {α : Type} (m : A s α) (v : α) : Prop := (s.runs m).1 = .ok v

/-- Memory after one write at its DPA: its bytes, or the half of a byte (R140). -/
def Wr.onto (f : Nat → Byte) (w : Wr) (x : Nat) : Byte :=
  match w.half with
  | none => if w.va ≤ x ∧ x < w.va + w.bs.length then w.bs.getD (x - w.va) 0 else f x
  | some hi =>
    if x = w.va then
      let v := (w.bs.getD 0 0).toNat % 16
      BitVec.ofNat 8 (if hi then setBits (f x).toNat 7 4 v else setBits (f x).toNat 3 0 v)
    else f x

/-- Memory as a read finds it after a list of writes at their DPAs. -/
def State.after (s : State) (ps : List Wr) : Nat → Byte := ps.foldl Wr.onto s.seen

/-- The counters that an operation's accesses and results raise (R126, R167, R180, R186). -/
def counters : List RegName :=
  [.stkRegGranules, .dtRegGranules, .stkChMergeRmw, .dtChMergeRmw, .cdArraySat, .cdArrayNan, .cdDmaTurnBlocks, .cdDmaOobElems]

/-- A packet of the opcode can run: it is issued, its accesses meet no error, and its operation's tokens can be paid. -/
structure State.ready (s : State) (c id op : Nat) (p : Pkt) (body : A s Fin) : Prop where
  issued : s.issued c id op p
  calm : s.Calm c
  pays : s.affords c p body

/-- The packet has ended ST_OK; memory as a read finds it changes by the writes ps alone, in their order; request slots and
adapters stay, and so does every register but the counters and those named. -/
def Stored (s t : State) (c id : Nat) (ps : List Wr) (regs : List RegName := []) : Prop :=
  t.ended c id stOk 0 ∧ (∀ x, t.seen x = s.after ps x) ∧ t.slots = s.slots ∧ t.adapters = s.adapters ∧
    SameRegs (regs ++ counters ++ followers) s t

/-- A destination's elements share no byte with one another, nor with an operand that is another view (log entry 22). -/
def Desc.apart (z : Desc) (others : List Desc) : Bool := z.injective && others.all fun o => !z.overlaps o || o == z

/-- The same where the destination stands apart; else the packet has ended ST_OK all the same. -/
def StoredIn (s t : State) (c id : Nat) (z : Desc) (others : List Desc) (ps : List Wr) (regs : List RegName := []) : Prop :=
  t.ended c id stOk 0 ∧ t.slots = s.slots ∧ (z.apart others = true → Stored s t c id ps regs)

/-- A row of accumulated values with its adapter's correction, where R108 lists the pairs of formats (R291). -/
def corrected (fa : Nat) (x : List Num) (c : Option Corr) (acc : List Num) : Option (List Num) :=
  match c with
  | none => some acc
  | some k => (k.terms fa x).map fun ts => List.zipWith (fun a t => of32 (add32 (to32 a) t)) acc ts

/-- What an operation reads, then the plan of the writes that follow from it, each write at its DPA (R173, R194). -/
def plans {s0 : State} {α : Type} (ac : Acc) (reads : A s0 α) (ws : α → List Wr) : A s0 (α × List Wr) := do
  let v ← reads
  let ps ← wrPlan ac (ws v)
  pure (v, ps)

/-- The codes of the elements at a list of offsets, each with the scale of the block that it begins, 0 where it begins none. -/
def rdCodes {s0 : State} (ac : Acc) (t : Desc) : List Int → A s0 (List (Nat × Nat)) :=
  mapA fun l => do
    let v ← rdElem ac t l
    let sc ← (if blockStart t l then rdScale ac t l else pure 0)
    pure (v, sc)

/-- The writes of elements moved between views: each code, and the scale of each block that begins (R140, R144). -/
def movedWrites (src dst : Desc) (pairs : List (Int × Int)) (vs : List (Nat × Nat)) : List Wr :=
  (pairs.zip vs).flatMap fun (e, v) => dst.store e.2 v.1 :: if blockStart src e.1 then [dst.storeScale e.2 v.2] else []

/-- The command of a packet that moves a view's elements to another's (R144, R148, R165): where its accesses meet no fault,
every element of the destination takes the code that its source's held, and nothing else changes. -/
def PacketMoves (cmd : Nat → Nat → Instr) (op : Nat) (body : {s0 : State} → Pkt → Acc → A s0 Fin)
    (pairsOf : Desc → Desc → List (Int × Int)) : Prop :=
  ∀ (c id : Nat) (s : State) (p : Pkt) (vs : List (Nat × Nat)) (ps : List Wr), s.ready c id op p (body p (s.acc c)) →
    let ac := s.acc c
    let src := p.desc 2
    let dst := p.desc 3
    let pairs := pairsOf src dst
    s.finds (plans ac (do
      probeAll ac (pairs.flatMap fun (ls, ld) => moveProbes src dst ls ld)
      rdCodes ac src (pairs.map Prod.fst)) (movedWrites src dst pairs)) (vs, ps) →
    Answers (cmd c id) s fun t => Stored s t c id ps

/-- The index positions out of range (R153). -/
def outOf (rows : List (Nat × Option Nat)) : List Nat := rows.filterMap fun (q, k) => if k.isNone then some q else none

/-- The source and destination offsets of a GATHER's positions in range. -/
def gatherPairs (p : Pkt) (rows : List (Nat × Option Nat)) : List (Int × Int) :=
  rows.filterMap fun (q, k) => k.map fun k => ((p.desc 2).rowOffset (q % (p.desc 2).rowCount) k, (p.desc 4).offsetAt q)

/-- GATHER scans and walks its index tensor, then reads the elements that it names (R151, R154). -/
def gatherReads {s0 : State} (p : Pkt) (ac : Acc) : A s0 (List (Nat × Option Nat) × List (Nat × Nat)) := do
  gatherScan p ac
  let rows ← gatherWalk p ac
  let vs ← rdCodes ac (p.desc 2) ((gatherPairs p rows).map Prod.fst)
  pure (rows, vs)

/-- Every position in range takes its element's code, every other one zero (R151, R153). -/
def gatherWrites (p : Pkt) (v : List (Nat × Option Nat) × List (Nat × Nat)) : List Wr :=
  movedWrites (p.desc 2) (p.desc 4) (gatherPairs p v.1) v.2 ++
    (outOf v.1).flatMap fun q => zeroWrites (p.desc 4) ((p.desc 4).offsetAt q)

/-- The update and destination offsets of a SCATTER's contributions in range. -/
def scatterPairs (p : Pkt) (rows : List (Nat × Option Nat)) : List (Int × Int) :=
  rows.filterMap fun (q, k) => k.map fun k => ((p.desc 2).offsetAt q, (p.desc 4).rowOffset (q % (p.desc 4).rowCount) k)

/-- SCATTER scans and walks its index tensor, then reads what contributes; the writes that follow: the updates' codes, the last
of each place alone under LAST (R157), or the reduced values (R158). -/
def scatterReads {s0 : State} (p : Pkt) (ac : Acc) : A s0 (List (Nat × Option Nat) × List Wr) := do
  let red := p.f 5 5 4
  scatterScan p ac
  let rows ← scatterWalk p ac
  let pairs := scatterPairs p rows
  if red = 0 then
    let kept := if p.b 5 6 then lastOnly pairs else pairs
    let vs ← rdCodes ac (p.desc 2) (kept.map Prod.fst)
    pure (rows, movedWrites (p.desc 2) (p.desc 4) kept vs)
  else
    let vs ← reduceAll ac red (p.desc 2) (p.desc 4) pairs []
    pure (rows, vs.map fun (l, v) => (p.desc 4).store l (if red = 1 then (convert (p.desc 4).fmt (of32 v)).1 else v))

/-- FILL probes every element of its destination, and each block's scale (R146). -/
def fillProbes (dst : Desc) : List (Nat × Bool) :=
  dst.offsets.flatMap fun l => (dst.addr l, true) :: if blockStart dst l then [(dst.scaleAddr l, true)] else []

/-- FLAG gives the predicate it names whether an index was out of range; every other predicate stays (R152, R153). -/
def FlagSet (s t : State) (c : Nat) (p : Pkt) (rows : List (Nat × Option Nat)) : Prop :=
  (p.b 5 11 = true → t.pred c (p.f 5 10 8) = !(outOf rows).isEmpty) ∧
    ∀ i, i < 8 → (p.b 5 11 = true → i ≠ p.f 5 10 8) → t.pred c i = s.pred c i

/-- The writes of rows of values, each at its outer index, converted to the destination's format (R124, R125). -/
def rowWrites (z : Desc) (rows : List (List Nat × List Num)) : List Wr := rows.flatMap fun r => (outRow z r.1 r.2).1

/-- The command of a packet that computes rows of its destination from what it reads (R61): where its accesses meet no fault,
and the values read give rows, the destination takes those, and nothing else changes. -/
def PacketPuts (cmd : Nat → Nat → Instr) (op : Nat) (body : {s0 : State} → Pkt → Acc → A s0 Fin) (dst : Nat)
    (others : Pkt → List Desc) {α : Type} (reads : {s0 : State} → Pkt → Acc → A s0 α)
    (rows : Pkt → α → Option (List (List Nat × List Num))) : Prop :=
  ∀ (c id : Nat) (s : State) (p : Pkt) (v : α) (out : List (List Nat × List Num)) (ps : List Wr),
    s.ready c id op p (body p (s.acc c)) → rows p v = some out →
    s.finds (plans (s.acc c) (reads p (s.acc c)) fun x => rowWrites (p.desc dst) ((rows p x).getD [])) (v, ps) →
    Answers (cmd c id) s fun t => StoredIn s t c id (p.desc dst) (others p) ps

/-! ### What the dense packets read, and the rows they compute (R61, R108 to R123, R290, R291) -/

/-- A row that is read where a condition holds. -/
def rdWhere {s0 : State} (b : Bool) (m : A s0 (List Num)) : A s0 (Option (List Num)) :=
  if b then do pure (some (← m)) else pure none

/-- The outer indexes of a product's batch elements. -/
def Pkt.outers (p : Pkt) : List (List Nat) := if p.op = 0x11 then (List.range ((p.desc 2).size 2)).map fun i => [i] else [[]]

/-- MATMUL and MATMUL_BATCHED read the corrections, and of each batch element B's columns and, row by row, A's row, the
addend's and C's as it was. -/
def matmulReads {s0 : State} (p : Pkt) (ac : Acc) :
    A s0 (List (Option Corr) × List (List Nat × List (List Num) × List (List Num × Option (List Num) × Option (List Num)))) := do
  let m := (p.desc 2).size 1
  let cs ← corrsOf ac p (matmulTargets p) 0 (m * p.outers.length)
  let es ← mapA (fun o => do
    let cols ← rdRows ac (p.desc 3) ((p.desc 3).size 1) o
    let rs ← mapA (fun i => do
      let x ← rdRow ac (p.desc 2) (i :: o)
      let d ← rdWhere (p.w 5 != 0) (rdRow ac (p.desc 5) (i :: o))
      let old ← rdWhere p.accumulate (rdOldRow ac (p.desc 4) (i :: o))
      pure (x, d, old)) (List.range m)
    pure (o, cols, rs)) p.outers
  pure (cs, es)

/-- The rows of C. -/
def matmulOut (p : Pkt)
    (v : List (Option Corr) × List (List Nat × List (List Num) × List (List Num × Option (List Num) × Option (List Num)))) :
    Option (List (List Nat × List Num)) :=
  let ar := (arithOf (p.aFmt 2) (p.desc 3).fmt).getD {}
  let m := (p.desc 2).size 1
  (v.2.flatMap fun e => (e.2.2.zip (List.range m)).map fun r => (e.1, e.2.1, r)).mapM fun (o, cols, (x, d, old), i) =>
    let x := prologueRow p.prologue [] x
    (corrected (p.aFmt 2) x (v.1.getD (m * o.headD 0 + i) none) (productRow ar x cols)).map fun acc =>
      (i :: o, finishRow ar p.epi p.outFmt acc d old)

/-- ADAPTER reads the corrections and, of each row that has one, X's row and Y's as it was. -/
def adapterReads {s0 : State} (p : Pkt) (ac : Acc) : A s0 (List (Nat × Corr × List Num × List Num)) := do
  let cs ← corrsOf ac p (adapterTargets p) 0 ((p.desc 2).size 1)
  let rs ← mapA (fun i => match cs.getD i none with
    | none => pure none
    | some k => do
      let x ← rdRow ac (p.desc 2) [i]
      let old ← rdOldRow ac (p.desc 4) [i]
      pure (some (i, k, x, old))) (List.range ((p.desc 2).size 1))
  pure (rs.filterMap id)

/-- The rows of Y that have a correction. -/
def adapterOut (p : Pkt) (v : List (Nat × Corr × List Num × List Num)) : Option (List (List Nat × List Num)) :=
  v.mapM fun (i, k, x, old) => (corrected (p.desc 2).fmt x (some k) old).map fun r => ([i], r)

/-- MLP_GATED reads the corrections of both products, the gain, both matrices' columns and, row by row, X's row and Y's as it
was. -/
def mlpReads {s0 : State} (p : Pkt) (ac : Acc) : A s0 ((List (Option Corr) × List (Option Corr)) × List Num ×
    (List (List Num) × List (List Num)) × List (List Num × Option (List Num))) := do
  let m := (p.desc 2).size 1
  let c1 ← corrsOf ac p (mlpTargets p) 0 m
  let c2 ← corrsOf ac p (mlpTargets p) 1 m
  let gain ← (if p.w 9 = 0 then pure [] else rdRow ac (p.desc 9) [])
  let gu ← rdRows ac (p.desc 3) ((p.desc 3).size 1) []
  let dn ← rdRows ac (p.desc 4) ((p.desc 4).size 1) []
  let rs ← mapA (fun i => do
    let x ← rdRow ac (p.desc 2) [i]
    let old ← rdWhere p.accumulate (rdOldRow ac (p.desc 5) [i])
    pure (x, old)) (List.range m)
  pure ((c1, c2), gain, (gu, dn), rs)

/-- The rows of Y: the gated product of the gate-and-up columns through the down columns. -/
def mlpOut (p : Pkt) (v : (List (Option Corr) × List (Option Corr)) × List Num ×
    (List (List Num) × List (List Num)) × List (List Num × Option (List Num))) : Option (List (List Nat × List Num)) :=
  let (cs, gain, (gu, dn), rs) := v
  let a1 := (arithOf (p.aFmt 2) (p.desc 3).fmt).getD {}
  let a2 := (arithOf 0 (p.desc 4).fmt).getD {}
  (rs.zip (List.range rs.length)).mapM fun ((x, old), i) =>
    let x := prologueRow p.prologue (gain.map to32) x
    (corrected (p.aFmt 2) x (cs.1.getD i none) (productRow a1 x gu)).bind fun acc =>
      let h := gated p.epi acc
      (corrected 0 h (cs.2.getD i none) (productRow a2 h dn)).map fun acc2 =>
        ([i], finishRow a2 0 p.outFmt acc2 none old)

/-- A row-wise packet reads the rows of its operands at every outer index of its destination. -/
def rowReads {s0 : State} (z : Desc) (ins : List Desc) (ac : Acc) : A s0 (List (List (List Num))) :=
  mapA (fun o => mapA (fun t => rdRow ac t o) ins) z.outers

/-- The operands of ELTWISE by its operation. -/
def Pkt.eltIns (p : Pkt) : List Desc := if p.f 5 7 0 < 2 then [p.desc 2, p.desc 3] else [p.desc 2]

/-- ROTARY_Q reads the positions and, row by row, Q's row and the table's cos and sin at its position, where it has them. -/
def rotaryReads {s0 : State} (p : Pkt) (ac : Acc) : A s0 (List (List Nat × List Num × Option (List Nat × List Nat))) := do
  let q := p.desc 2
  let ps ← rdIndexes ac (p.desc 3)
  mapA (fun o => do
    let pos := ps.getD (if q.rank = 1 then 0 else o.getLastD 0) 0
    let x ← rdRow ac q o
    if 0 ≤ pos ∧ pos < (p.desc 4).size 2 then do
      let r ← rdRotary ac (p.desc 4) pos.toNat
      pure (o, x, some r)
    else pure (o, x, none)) q.outers

/-- The rows of Q rotated, where every position lies in the table (R248). -/
def rotaryOut (_ : Pkt) (v : List (List Nat × List Num × Option (List Nat × List Nat))) : Option (List (List Nat × List Num)) :=
  v.mapM fun (o, x, r) => r.map fun (cos, sin) => (o, (rotate cos sin (x.map to32)).map of32)

/-- MOE_DISPATCH reads the routing, places the experts, reads them and, row by row, X's row and Y's as it was. -/
def moeReads {s0 : State} (p : Pkt) (ac : Acc) : A s0 (List (List (Nat × Nat)) × List (Nat × List Nat) ×
    List (Nat × ExpertOps) × List (List Num × Option (List Num))) := do
  let m := (p.desc 2).size 1
  let routes ← rdRouting ac p m
  let near ← placeExperts ac p (routed p routes)
  (countFallback (near.flatMap Prod.snd).eraseDups : M s0 _)
  let ops ← mapA (fun c => do pure (c.1, ← rdExpert ac p near c.1)) (routed p routes)
  let rs ← mapA (fun i => do
    let x ← rdRow ac (p.desc 2) [i]
    let old ← rdWhere p.accumulate (rdOldRow ac (p.desc 5) [i])
    pure (x, old)) (List.range m)
  pure (routes, near, ops, rs)

/-- The rows of Y: the weighted sums of the experts' outputs (R21, R123). -/
def moeOut (p : Pkt) (v : List (List (Nat × Nat)) × List (Nat × List Nat) × List (Nat × ExpertOps) ×
    List (List Num × Option (List Num))) : List (List Nat × List Num) :=
  (v.2.2.2.zip (List.range v.2.2.2.length)).map fun ((x, old), i) =>
    let sum := moeSum ((p.desc 2).size 0) (p.aFmt 2) p.epi v.2.2.1 (prologueRow p.prologue [] x) (v.1.getD i [])
    ([i], finishRow {} 0 p.outFmt sum none old)

/-- The rows of ELTWISE (R61). -/
def eltOut (p : Pkt) (v : List (List (List Num))) : Option (List (List Nat × List Num)) :=
  some (((p.desc 4).outers.zip v).map fun (o, xs) =>
    let x := xs.headD []
    (o, List.zipWith (fun a b => of32 (eltOp (p.f 5 7 0) (p.f 6 31 0) (to32 a) (to32 b))) x ((xs.drop 1).headD x)))

/-- NORM reads the gain, then its operand's rows. -/
def normReads {s0 : State} (p : Pkt) (ac : Acc) : A s0 (List Num × List (List (List Num))) := do
  let g ← rdRow ac (p.desc 3) []
  let rs ← rowReads (p.desc 4) [p.desc 2] ac
  pure (g, rs)

/-- The rows of NORM (R83, R110). -/
def normOut (p : Pkt) (v : List Num × List (List (List Num))) : Option (List (List Nat × List Num)) :=
  some (((p.desc 4).outers.zip v.2).map fun (o, xs) =>
    (o, (normRow (p.b 5 0) (p.f 5 63 32) (v.1.map to32) ((xs.headD []).map to32)).map of32))

/-- The rows of SOFTMAX without a length table (R83, R223). -/
def softmaxOut (p : Pkt) (v : List (List (List Num))) : Option (List (List Nat × List Num)) :=
  if p.f 4 31 0 = 0 then
    some (((p.desc 3).outers.zip v).map fun (o, xs) => (o, (softmaxRow ((xs.headD []).map to32)).map of32))
  else none

/-- The rows of QUANTISE (R124, R125). -/
def quantiseOut (p : Pkt) (v : List (List (List Num))) : Option (List (List Nat × List Num)) :=
  some (((p.desc 3).outers.zip v).map fun (o, xs) => (o, xs.headD []))

/-- MOE_ROUTE reads its rows of logits. -/
def routeReads {s0 : State} (p : Pkt) (ac : Acc) : A s0 (List (List Num)) :=
  mapA (fun i => rdRow ac (p.desc 2) [i]) (List.range ((p.desc 2).size 1))

/-- The chosen experts of every row, then their weights (R61). -/
def routeWrites (p : Pkt) (v : List (List Num)) : List Wr :=
  let k := p.f 5 3 0
  let rows := (List.range v.length).zip (v.map fun r => r.map fun x => BitVec.ofNat 32 (to32 x))
  rowWrites (p.desc 3) (rows.map fun (i, r) => ([i], (chooseExperts r k).map fun e => .ofInt (Int.ofNat e))) ++
    rowWrites (p.desc 4) (rows.map fun (i, r) => ([i], (chooseExperts r k).map fun e => of32 (Config.routeWeight r k e).toNat))

/-- The counters that work of units raises (R29, R233, R239). -/
def unitCounters : List RegName :=
  [.hbSplitFallback, .galUnitBusyCycles, .galUnitMacs, .galUnitRdBytes, .galUnitWrBytes, .galUnitCommands, .galPromBytes]

/-! ### Packets whose work units share (R212, R224 to R228, R266, R269) -/

/-- Every unit of a list that is in service is NEAR and free for a run of m commands of the context's caller (R212, R215). -/
def State.unitsReady (s : State) (c m : Nat) (us : List Nat) : Prop :=
  ∀ u ∈ us, s.notNear u = false ∧ s.unitTaken (s.fld F.schCtxState_caller c) m u = false

/-- The count of commands of every unit in service has risen by n for each time the list names it (R239). -/
def UnitsCounted (s t : State) (us : List Nat) (n : Nat) : Prop :=
  ∀ u ∈ us, s.unitService (u / 32) (u % 32) = 0 → t.fld F.galUnitCommands_count (u / 32) (u % 32) =
    satAdd 64 (s.fld F.galUnitCommands_count (u / 32) (u % 32)) (n * us.count u)

/-- The work of NEAR_MATVEC but for Y: the shares run, and their chunk values are read back, joined and added (R225). -/
def matvecWork {s0 : State} (p : Pkt) (ac : Acc) : A s0 (List ((Nat × Nat) × Nat) × List (List Nat)) := do
  let w := p.desc 3
  let n := (p.desc 2).size 1 * w.size 1
  let hs ← matvecHomes p ac
  (countFallback (hs.map Prod.snd) : M s0 _)
  let _ ← mapA (fun ((a, b), u) => runMatvecShare ac p a b u) hs
  let groups ← mapA (fun b => do
    let shares ← mapA (fun a => rdChunks ac (matvecShare p a b).scratch n (if a = 0 then 1 else w.size 0 / 256)) (List.range (w.size 2))
    pure (joinShares n shares)) (List.range (w.size 3))
  pure (hs, groups)

/-- The work of NEAR_EXPERT but for Y (R226). -/
def expertWork {s0 : State} (p : Pkt) (ac : Acc) : A s0 (List Nat × List (List Nat)) := do
  let d := p.desc 31
  let n := (p.desc 2).size 1 * d.size 1
  let us := List.range (d.size 2)
  let homes ← expertHomes p ac
  (countFallback homes : M s0 _)
  let _ ← mapA (fun (u, h) => runExpertShare ac p u h) (us.zip homes)
  let shares ← mapA (fun u => rdChunks ac (expertShare p u).scratch n (if u = 0 then 1 else d.size 0 / 256)) us
  pure (homes, [joinShares n shares])

/-- Y's rows from the elements of its column groups, ns columns each (R225). -/
def groupRows (m ns : Nat) (groups : List (List Nat)) : List (List Nat × List Num) :=
  (List.range m).map fun i => ([i], groups.flatMap fun g => ((g.drop (i * ns)).take ns).map of32)

/-- The work of NEAR_ELT: each unit's share (R227). -/
def eltWork {s0 : State} (p : Pkt) (ac : Acc) : A s0 (List Nat) := do
  let x := p.desc 2
  let z := p.desc 3
  let hs ← eltHomes p ac
  let us := (hs.map fun h => h.2.1).eraseDups
  (countFallback us : M s0 _)
  let _ ← mapA (fun u => runEltShare ac p u
    ((copyPairs x z).filter fun (ls, ld) => (homesOf hs (x.addr ls) (z.addr ld)).1 == u)) us
  pure us

/-- The work of NEAR_COPY: probed, then copied by the units that own the sources (R228). -/
def nearCopyWork {s0 : State} (p : Pkt) (ac : Acc) : A s0 (List Nat) := do
  probeAll ac ((copyPairs (p.desc 2) (p.desc 3)).flatMap fun (ls, ld) => moveProbes (p.desc 2) (p.desc 3) ls ld)
  let hs ← copyHomes p ac
  (countFallback (copyUnits hs) : M s0 _)
  let _ ← mapA (runCopyShare ac p hs) (copyUnits hs)
  pure (copyUnits hs)

/-- The work of NEAR_RAW: both commands, as one run (R229): how each ends. -/
def rawWork {s0 : State} (p : Pkt) (ac : Acc) : A s0 (Option Stop × Option Stop) := do
  let s ← (cur : M s0 _)
  let home := s.rawHome p
  let c1 ← rawWords ac 9 home (rawExtents (rawCommand p 9)) (rawCommand p 9)
  let c2 ← rawWords ac 17 home (rawExtents (rawCommand p 17)) (rawCommand p 17)
  (countFallback [home] : M s0 _)
  let uac := { ac with unit := s.unitService (home / 32) (home % 32) == 0 }
  (clearBuf (home / 32) (home % 32) : M s0 _)
  let mk (ws : List Nat) : UCmd := { n := home / 32, p := home % 32, ac := uac, tag := 0xFFFF, ws := ws }
  let x ← rawRun (mk c1) 0
  let y ← rawRun (mk c2) 1
  (clearBuf (home / 32) (home % 32) : M s0 _)
  pure (x, y)

/-- The work of KV_APPEND: the units of the pages it writes; pages opened, rows written (R267, R269); the parts that failed. -/
def appendWork {s0 : State} (p : Pkt) (ac : Acc) : A s0 (List Nat × List (Nat × Stop)) := do
  let us ← appendUnits p ac
  (countFallback us : M s0 _)
  let fs ← kvAppend p ac p.kv
  pure (us, fs)

/-- The work of ATTEND but for the output: the units of the pages it writes and attends; rows appended, every sequence attended
(R263 to R267). -/
def attendWork {s0 : State} (p : Pkt) (ac : Acc) :
    A s0 (List Nat × List Nat × List (Nat × Stop) × List (Except (Nat × Stop) (List (List Wr × Nat × Nat)))) := do
  let words ← stageWords p ac
  let wr ← (if p.appends then appendUnits p ac else pure [])
  let at_ ← attendUnits p ac words
  (countFallback (wr ++ at_).eraseDups : M s0 _)
  useStage p ac words at_
  let fs ← (if p.appends then kvAppend p ac p.kv else pure [])
  let rs ← mapA (fun (i, x) => partOfWork ac p (attendSeq p ac p.kv (placedNear p p.kv words x) i x)) p.kv.live
  pure (words, (wr ++ at_).eraseDups, fs, rs)

/-- The writes of the output rows of the sequences attended (R265). -/
def attendWrites (rs : List (Except (Nat × Stop) (List (List Wr × Nat × Nat)))) : List Wr :=
  rs.flatMap fun r => match r with
    | .ok rows => rows.flatMap Prod.fst
    | .error _ => []

/-- How many of the sequences with query rows ATTEND places near, or on cores (R17, R266). -/
def Pkt.placed (p : Pkt) (words : List Nat) (near : Bool) : Nat :=
  (p.kv.live.filter fun x => placedNear p p.kv words x.2 == near).length

/-! ### The serving engine's packets -/

/-- The work of PREFIX_LOOKUP but for its results operand: hashes, result records, hits (R275). -/
def lookupWork {s0 : State} (p : Pkt) (ac : Acc) : A s0 (List Nat × List Byte × Nat) := do
  let s ← (cur : M s0 _)
  let hs ← pfxHashes ac p
  let (bs, n) ← lookupPages ac p (s.pfxLive p ac.part) 0 hs
  pure (hs, bs, n)

/-- The work of PREFIX_INSERT but for its results operand: hashes, result records, outcomes (R276). -/
def insertWork {s0 : State} (p : Pkt) (ac : Acc) : A s0 (List Nat × List Byte × List Nat) := do
  let s ← (cur : M s0 _)
  let hs ← pfxHashes ac p
  let (bs, os) ← insertPages ac p (s.pfxLive p ac.part) 0 hs
  pure (hs, bs, os)

/-- The results operand: header word 0 and the records (R273). -/
def resultWrites (p : Pkt) (pages count : Nat) (bs : List Byte) : List Wr :=
  [{ va := p.w 3, bs := toBytes 8 (count * 2 ^ 32 + pages) }, { va := p.w 3 + 32, bs := bs }]

/-- The pages inserted: outcomes 0 and 2 (R276). -/
def newPages (os : List Nat) : Nat := (os.filter fun o => o == 0 || o == 2).length

/-- The count table of a slot zeroed (R284). -/
def State.zeroCounts (s : State) (n : Nat) : Wr := { va := s.countBase n, bs := List.replicate 16384 0 }

/-- The work of REQ_OPEN up to the slot's opening: its checks and its slot, where it has none yet; the count table zeroed; the
prompt counted where PEN_PROMPT says so (R284). -/
def openWork {s0 : State} (c : Nat) (p : Pkt) (ac : Acc) : A s0 Unit := do
  let n := p.f 2 12 0
  if ((← (cur : M s0 _)).slotsAt n).opener ≠ some (c, p.id) then
    reqOpenChecks p ac p.reqBlock
    (takeSlot c p ac.part p.reqBlock : M s0 _)
  let s ← (cur : M s0 _)
  wrAll ac [s.zeroCounts n]
  (setSlotF n 23 63 32 0 : M s0 _)
  if s.slotF n 6 16 16 = 1 then
    let hist ← rd ac (s.slotF n 0 51 0) (4 * s.slotF n 1 31 0)
    countTokens ac n ((List.range (s.slotF n 1 31 0)).map fun i => ofBytes ((hist.drop (4 * i)).take 4))

/-- SAMPLE draws a token for every row of the step that draws one, in entry order (R294, R298). -/
def sampleReads {s0 : State} (p : Pkt) (st : Step) (ac : Acc) : A s0 (List (Nat × Bool)) :=
  mapA (fun j => sampleRow ac (p.desc 2) j (st.drawn.getD j (0, 0)).2) (List.range st.drawn.length)

/-! ### The fabric -/

/-- The first delivered frame of a type, where one has come. -/
def State.firstFrame (s : State) (type : Nat) : Option RxFrame := s.fab.inbox.find? fun x => hType (nth x.hdr 0) == type

/-- The first handshake message of a type that has come: its peer, and its frames' payloads joined in their order. -/
def State.message (s : State) (type : Nat) : Option (Nat × List Byte) :=
  (s.firstFrame type).map fun x => (x.peer,
    (inOrder (s.fab.inbox.filter fun z => hType (nth z.hdr 0) == type && z.peer == x.peer)).flatMap RxFrame.body)

/-- No collective is known to any group. -/
def State.noColl (s : State) : Prop := ∀ e ∈ s.fab.groups, e.2.coll = none

/-! ### The companion's window -/

/-- A companion access of len bytes reaches device address a through the memory window: EN and READY are set, the block is
out of reset, the length is a power of two up to 64, the address is aligned and backed (R368, R379, R413, R418). -/
def State.windowTo (s : State) (addr len a : Nat) : Prop :=
  addr = s.fld F.thmMemBase_base * 2 ^ 41 + a ∧ a < 2 ^ 41 ∧ s.flag F.thmMemBase_en = true ∧
    s.flag F.rstStatus_ready = true ∧ (blockOf a).any s.inReset = false ∧ len ∈ [1, 2, 4, 8, 16, 32, 64] ∧ a % len = 0 ∧
    s.backed a = true

/-- n bytes of memory as a read finds them. -/
def State.seenBytes (s : State) (a n : Nat) : List Byte := (List.range n).map fun i => s.seen (a + i)

/-- Memory as a read finds it changes from s to t in the bytes bs at a alone. -/
def BytesStored (s t : State) (a : Nat) (bs : List Byte) : Prop :=
  ∀ x, t.seen x = if a ≤ x ∧ x < a + bs.length then bs.getD (x - a) 0 else s.seen x

/-! ### Power -/

/-- The clocks, the cap and its first cause that PWR_DIE shows are those in force (R386, R401). -/
def State.diesShown (t : State) : Prop := ∀ d, d < 3 →
  t.fld F.pwrDie_fNow d = t.clockNow d % 2 ^ 16 ∧ t.flag F.pwrDie_capped d = !(t.causes d).isEmpty ∧
    t.fld F.pwrDie_cause d = (t.causes d).headD 0

/-- The points of the last tick are the highest, up to the requested one, that the grants allow (R387). -/
def State.pointsGranted (t : State) : Prop := ∀ c, c < 6 →
  let p := nth t.pwr.points c
  let fits (q : Nat) : Prop := leastPoint c ≤ q ∧ q ≤ t.requested c ∧ (Config.powerModel t.pwr.draws c q : Int) ≤ t.grants.1.getD c 0
  (p = leastPoint c ∨ fits p) ∧ ∀ q, fits q → q ≤ p

/-- The trip has acted (R384, R398, R408): the rails are off, the latch is set, the cause stands in its register and, in a journal
that was empty, as its entry; the whole module is in reset. -/
def Tripped (s t : State) (kind index : Nat) : Prop :=
  t.pwr.off = true ∧ t.pwr.latched = true ∧ t.reg ⟨.tmpTripCause, 0, 0, 0⟩ = 2 ^ 31 + kind * 2 ^ 28 + index ∧
    t.flag F.rstCause_trip = true ∧ 4 ∈ t.rst.sources ∧ (∀ b ∈ allBlocks, b ∈ t.rst.closed) ∧
    t.flag F.rstStatus_ready = false ∧
    (s.journal = [] → t.journal = [(2 ^ 31 + kind * 2 ^ 28 + index, s.fld F.rstHubEpoch_epoch)])

/-! ### The security monitor -/

/-- The monitor takes requests: its block answers, no transition is due (R434), it does not wait for recovery (R445). -/
def State.monitorFree (s : State) : Prop :=
  s.opens ⟨.secCmd, 0, 0, 0⟩ = true ∧ s.sec.moving = none ∧ s.sec.recovery = false

/-- The request has ended with a result (R452, R453). -/
def State.answered (t : State) (result : Nat) : Prop :=
  t.fld F.secCmdStatus_result = result ∧ t.flag F.secCmdStatus_done = true ∧ t.flag F.secCmdStatus_busy = false

/-! ### Commands of a galliard unit -/

/-- The write is one of a caller or a management core, aligned and of 64 bytes, to an offset of a unit's window (R208). -/
def Writes (x : Poke) (off : Nat) : Prop := x.off = off ∧ x.agent ≤ 1 ∧ x.off % 64 = 0 ∧ x.words.length = 8

/-- The words ask for a change of mode: KEY, REQ, and zeros everywhere else (R209). -/
def Asks (x : Poke) (req : Nat) : Prop := x.words.map BitVec.toNat = (0x6A111A2D * 2 ^ 32 + req) :: List.replicate 7 0

/-- The access has changed nothing but the stack's count of refused accesses (R208). -/
def RefusedAt (n : Nat) (s t : State) : Prop :=
  t.fld F.galWindowRefused_count n = satAdd 64 (s.fld F.galWindowRefused_count n) 1 ∧ SameRegs [.galWindowRefused] s t ∧
    SameStore s t ∧ t.units = s.units

/-- The command that a NEAR or EXITING unit in service runs next, of this operation. -/
def State.unitTurn (s : State) (n p t op : Nat) : Prop :=
  s.unitUp n p = true ∧ s.unitService n p = 0 ∧ (s.unitMode n p = 2 ∨ s.unitMode n p = 3) ∧
    s.runningTicket n p = some t ∧ cUop (s.ticket n p t).words = op

/-- The command of ticket t as its unit executes it, on behalf of the partition and context it carries (R214). -/
def State.unitCmd (s : State) (n p t : Nat) : UCmd :=
  let ws := (s.ticket n p t).words
  { n := n, p := p, ac := { part := bits (nth ws 0) 47 44, ctx := bits (nth ws 0) 43 36, unit := true }, tag := cTag ws, ws := ws }

/-- The status of a command by how its operation ended (R194, R218, R221). -/
def unitStatus : Except Stop UopUse → Nat
  | .ok _ => stOk
  | .error (.poison _ _) => stPoison
  | .error (.flt st _ _ _) => st
  | .error _ => stInternal

/-- The command of an operation code runs the operation on the unit: the ticket is DONE with its status, it leaves the queue,
and memory is as the operation left it; where nothing stopped the operation its figures stand in the result and the unit's
counters rise by them; where a granule could not be read, word 5 names its bank address. -/
def TicketRuns (cmd : Nat → Nat → Nat → Instr) (op : Nat) : Prop :=
  ∀ (n p t : Nat) (s : State), s.unitTurn n p t op → (s.unitsAt (uKey n p)).outDue = false → Answers (cmd n p t) s fun y =>
    let k := s.ticket n p t
    let r := s.runs (uopRun (s.unitCmd n p t) k.pos k.caller)
    (y.ticket n p t).st = 3 ∧ t ∉ (y.unitsAt (uKey n p)).queue ∧ SameStore r.2.2 y ∧
    nth (y.ticket n p t).result 0 = cTag k.words * 2 ^ 48 + unitStatus r.1 * 256 + 3 ∧
    (∀ x, r.1 = .ok x → ((y.ticket n p t).result.drop 1).take 4 = [x.cycles, x.rd, x.wr, x.macs] ∧
      y.fld F.galUnitMacs_count n p = satAdd 64 (r.2.2.fld F.galUnitMacs_count n p) x.macs ∧
      y.fld F.galUnitBusyCycles_count n p = satAdd 64 (r.2.2.fld F.galUnitBusyCycles_count n p) x.cycles) ∧
    ∀ va a, r.1 = .error (.poison va a) → nth (y.ticket n p t).result 5 = 2 ^ 63 + va / 64 * 64 % 2 ^ 31

/-- A check of the command's run fails: the whole run is queued again at the front, without results, and the unit has a strike;
the second that counts takes it out of service (R234, R235). -/
def TicketFails (cmd : Nat → Nat → Nat → Instr) (op : Nat) : Prop :=
  ∀ (n p t : Nat) (s : State), s.unitTurn n p t op → Answers (cmd n p t) s fun y =>
    let run := s.runTickets n p t
    (y.unitsAt (uKey n p)).queue = run ++ (s.unitsAt (uKey n p)).queue.filter (fun r => !run.contains r) ∧
    (∀ r ∈ run, (y.ticket n p r).st = 1 ∧ (y.ticket n p r).result = [] ∧ (y.ticket n p r).words = (s.ticket n p r).words) ∧
    y.strikes = s.strikes ++ [{ loc := uKey n p, unit := true, time := s.now }] ∧
    y.fld F.galUnitState_strikes n p = min (y.strikesOf (dieOf n) (uKey n p) true) 2 ∧
    y.unitService n p = (if 2 ≤ y.strikesOf (dieOf n) (uKey n p) true then 1 else 0)

end Sys2Proof.Machine
end

