-- ==== Sys2Proof/WellFormed.lean ====
section
/-!
DEFINITION. Well-formed commands: every number names a part the A12 has. The step does not ask for it: a command that names no
part finds nothing to act on.
-/
namespace Sys2Proof

/-- A group that exists: a stack, a partition. -/
def Group.wf : Group → Bool
  | .stkMap n | .stkReg n => decide (n < 12)
  | .schPart p => decide (p < 16)
  | .dtMap | .dtReg | .fabReg | .srvPfx | .schCard => true

/-- A resident context slot (R30). -/
def inCtx (c : Nat) : Bool := decide (c < 256)

/-- A write to the window of a unit that exists (R207). -/
def inWindow (n p : Nat) (x : Poke) : Bool := decide (n < 12) && decide (p < 32) && decide (x.off < 0x80000)

/-- The command names parts the A12 has. -/
def Instr.wf : Instr → Bool
  | .registerWrite off width _ =>
    off % width == 0 && decide (off < 0x10000000) && (width == 4 || width == 8)
  | .commitGo g | .commitLock g | .commitApply g =>
    g.wf
  | .sqDoorbell c q tail =>
    inCtx c && decide (q < 4) && decide (tail < 8192)
  | .sqAbort c q | .sqResume c q =>
    inCtx c && decide (q < 4)
  | .cqEnable c | .packetFetch c | .packetCompletion c _ | .nop c _ | .setScalar c _ | .scalarOp c _ | .setPred c _
  | .branch c _ | .call c _ | .ret c _ | .loadScalar c _ | .storeScalar c _ | .reduce c _ | .waitValue c _
  | .waitValuePoll c _ | .waitValueTimeout c _ | .signal c _ | .matmul c _ | .matmulBatched c _ | .adapter c _
  | .mlpGated c _ | .eltwise c _ | .norm c _ | .softmax c _ | .quantise c _ | .rotaryQ c _ | .moeRoute c _
  | .moeDispatch c _ | .copy c _ | .copyT c _ | .gather c _ | .scatter c _ | .fill c _ | .tierMove c _
  | .nearMatvec c _ | .nearExpert c _ | .nearElt c _ | .nearCopy c _ | .nearMode c _ | .nearRaw c _ | .kvAppend c _
  | .attend c _ | .kvRelease c _ | .prefixLookup c _ | .prefixInsert c _ | .kvMove c _ | .stepBegin c _ | .stepEnd c _
  | .stepCommit c _ | .reqOpen c _ | .reqClose c _ | .reqCancel c _ | .sample c _ | .adapterBind c _ | .allReduce c _
  | .allGather c _ | .reduceScatter c _ | .allToAll c _ | .fence c _ | .cue c _ | .eventSignal c _ | .eventWait c _
  | .eventWaitTimeout c _ | .timestamp c _ | .contextDisable c | .quantumExpiry c | .blockEvictExpiry c
  | .stepHoldExpiry c | .preemptionPoint c | .contextLoaded c | .hardSwap c | .encoreStart c | .encoreRerun c
  | .collectiveAdmissionTimeout c _ =>
    inCtx c
  | .eventCounterWrite c e _ =>
    inCtx c && decide (e < 32)
  | .tileReexecution c _ d st core cause =>
    inCtx c && decide (d < 2) && decide (st < 40) && decide (core < 130) && (cause % 4 == 1 || cause % 4 == 2) && decide (cause < 12)
  | .spareTakeover d st core =>
    decide (d < 2) && decide (st < 40) && decide (core < 130)
  | .setLeaveService d st | .setRetire d st | .setTest d st | .setReturn d st | .setTestDone d st _ =>
    decide (d < 2) && decide (st < 40)
  | .strikeExpiry | .strikeAgeRewrite | .servingCounterTick | .paritySeal _ _ | .parityUnseal _ _ | .parityCmdDone
  | .parityRebuild _ | .pfxKeyLoad | .pfxKeyClear | .invalidateDone | .cardFrameStart | .openTimeStart _ | .data
  | .ack | .credit | .hold | .hello _ | .helloReply _ | .fabricAttest _ | .confirm _ | .close | .ccPeriod
  | .theamFlitReplay | .linkDownRetry | .retrain | .companionMemWrite _ _ | .companionCacheableRead _ | .snoopTimeout
  | .thmSync | .inputSample _ _ | .inputBrakeEnd | .tempoTick _ | .pwrbrkAssert | .pwrbrkRelease | .cuePhaseStart _
  | .cuePhaseEnd _ | .cueEvaluation _ _ | .alertRelease | .idleEnter | .idleWakeDone | .powerOnAssert
  | .powerOnRelease | .mrstAssert | .mrstRelease | .hotResetAssert | .hotResetRelease | .watchdogExpiry
  | .watchdogRelease | .tripLatchRelease | .securityViolation _ | .securityResetRelease | .softResetRelease
  | .refclkFail _ | .refclkRecover _ | .firmwareVerify _ _ _ | .featPublish | .ready | .attest | .ceilingConfirm _
  | .bottomTreeBuilt | .nodeCacheRebuild | .lcChange _ | .lcTransitionReset _ | .dbgAuth _ | .dbgClose
  | .debugSessionExpiry | .dbgLockoutExpiry | .debugPortAccess _ _ _ _ | .chainWrite _ | .fwWrite _ | .fwActivate _ _
  | .fwSwitchStep _ _ | .calReload | .i3cPrivateWrite _ | .i3cPrivateRead _ | .snoopResponse _ | .debugResetRelease =>
    true
  | .meshFlitRetry d router dir _ =>
    decide (d < 2) && decide (router < 40) && decide (dir < 4)
  | .perfSnap d | .perfSnapDone d | .perfClear d | .droopDetect d | .droopFallback d | .droopRecover d =>
    decide (d < 2)
  | .bulkAgePromote target part =>
    decide (target ≤ 12) && decide (part < 16)
  | .mergeTimeout gran =>
    decide (gran < 2 ^ 42)
  | .scrubGranule t ch | .scrubAlarm t ch =>
    decide (t < 13) && decide (ch < 16)
  | .channelFail k _ => decide (k < 13 * 16)
  | .mapoutStart t | .mapoutSwitch t =>
    decide (t < 13)
  | .nearEnterDone n p _ | .nearExitDone n p | .nearIdleExit n p | .unitOut n p
  | .unitTest n p | .unitReturn n p | .unitTestDone n p _ =>
    decide (n < 12) && decide (p < 32)
  | .nearEnter u x => inWindow (u / 32) (u % 32) x && x.row == 0
  | .nearExit u x => inWindow (u / 32) (u % 32) x && x.row == 1
  | .unitCommandWrite n p off ws agent => let x : Poke := ⟨agent, off, ws⟩; inWindow n p x && x.row == 2
  | .unitTicketRelease n p x => inWindow n p x && x.row == 3
  | .uopLoad u t _ | .uopStore u t _ | .kvWrite u t _ | .join u t _ => decide (u < 12 * 32) && decide (t < 32)
  | .uopNone n p t | .matvec n p t _ | .expert n p t _ | .elt n p t _ | .attnPart n p t _ | .pcopy n p t | .selftest n p t _ =>
    decide (n < 12) && decide (p < 32) && decide (t < 32)
  | .reqSnapshot slot | .cancelRegister slot =>
    decide (slot < 8192)
  | .adapterSnapshot a =>
    decide (a < 4096)
  | .tlbInvalidate _ part _ _ =>
    decide (part < 16)
  | .contextEnable c part _ =>
    inCtx c && decide (part < 16)
  | .partitionTeardown p | .teardownDone p =>
    decide (p < 16)
  | .cardSlotStart i =>
    decide (i < 64)
  | .contextSaveDone c d st =>
    inCtx c && decide (d < 2) && decide (st < 40)
  | .faultResolveRetry fid | .faultResolveFail fid | .faultTimeout fid =>
    decide (fid < 2 ^ 32)
  | .frameReceive port _ =>
    decide (port < 48)
  | .ackTimer peer | .peerLost peer | .readmitRetry peer | .handshakeResend peer | .rekeyDue peer
  | .oldEpochExpiry peer | .peerLoad peer | .peerDrop peer =>
    decide (peer < 1024)
  | .retransmitTimeout peer psn =>
    decide (peer < 1024) && decide (psn < 2 ^ 32)
  | .holdTimer g rank | .collectiveSilence g rank =>
    decide (g < 1024) && decide (rank < 512)
  | .groupArm g | .groupDisarm g =>
    decide (g < 1024)
  | .laneFail p lane =>
    decide (p < 48) && decide (lane < 8)
  | .portRetrainDone p | .portEnable p | .injectReorderRelease p =>
    decide (p < 48)
  | .linkTrainingDone lanes =>
    decide (lanes < 2 ^ 32)
  | .linkLaneLoss lane =>
    decide (lane < 32)
  | .companionMemRead _ len =>
    decide (1 ≤ len)
  | .companionWriteback _ bytes _ =>
    bytes.length == 64
  | .vectorUnmask v =>
    decide (v < 256)
  | .railCheck r _ _ _ _ | .railCeilingRecovery r | .polOvercurrent r | .railPowerGoodTimeout r =>
    decide (r < 13)
  | .sensorRead i _ _ =>
    decide (i < 96)
  | .externalSensorRead i _ _ =>
    decide (96 ≤ i) && decide (i < 106)
  | .thermalStep part =>
    decide (part < 3)
  | .extThrottleStep j =>
    decide (j < 10)
  | .idleWake cause =>
    decide (cause < 5)
  | .debugReset reach =>
    decide (reach < 64)
  | .softReset kind die idx =>
    decide (kind < 4) && decide (die < 2) && decide (idx < 64)
  | .stackClearDone n =>
    decide (n < 12)
  | .deepWipeDone q =>
    decide (q < 16)
  | .wipeTimeout deep n =>
    decide (n < if deep then 16 else 12)
  | .i3cSetdasa addr =>
    decide (addr < 128)
  | .pllLock domain =>
    decide (domain < 15)
  | .mgmtMemoryUncorrectable core =>
    decide (core < 4)

end Sys2Proof
end

