-- ==== Sys2Proof/Certificates/Slice0/Obligations.lean ====
section
/-!
DEFINITION. The statements for the provers: what the commands do to the state, by the spec's rules. Each docstring says the
rule it formalises; a clause that rests on the model's own choice names its log entry.
-/
open Sys2Proof Sys2Proof.Machine

/-- For every command c and every state s, the step of s with c at the front of its queue is the effect of c on s with
the rest of the queue. With nothing waiting the block idles: the state stays as it is (the model's choice, log entry
4). Rests on 00_scope (how the block is commanded), log entry 4. -/
def Obligations.StepRunsFrontCommand : Prop :=
  (∀ (c : Instr) (cs : List Instr) (s : State),
    step { s with pending := c :: cs } = exec c { s with pending := cs }) ∧
  ∀ s : State, s.pending = [] → step s = .next s

/-- Whatever command answers a next state, the queue of waiting commands in it is the one of the state before; so a
step that answers a next state takes exactly the front command from the queue. Rests on 00_scope (how the block is
commanded), log entry 4. -/
def Obligations.CommandsLeaveTheQueue : Prop :=
  (∀ (i : Instr) (s t : State), exec i s = .next t → t.pending = s.pending) ∧
  ∀ s t : State, step s = .next t → t.pending = s.pending.tail

/-- Every command in every state answers a next state, with one exception: an input sample above 65 V, where R493
gives no guarantee, stops with the fault beyondRatings in every state. Rests on 17_package_pins (R493),
13_power_thermal (R380). -/
def Obligations.OnlyTheInputRatingsStop : Prop :=
  (∀ (i : Instr) (s : State), (∀ mv ma, i = .inputSample mv ma → mv ≤ 65000) → Completes (exec i s)) ∧
  ∀ (mv ma : Nat) (s : State), 65000 < mv → exec (.inputSample mv ma) s = .fault .beyondRatings

/-- In State.reset memory and the board's flash list nothing but what differs from what unwritten storage reads as, in
rising order of address; the register files and every sparse table are in that canonical form; every register holds 0
in its reserved bits. Rests on 00_scope (R7), 14_reset_clocks_startup (R406). -/
def Obligations.ResetMeetsInvariant : Prop :=
  State.reset.Inv

/-- From every state that meets the data invariant, not only those a run reaches, a step that answers a next state
answers one that meets it: memory and the flash stay in their one canonical form, so do the register files, the values
in force, the snapshots and the tables of queues, contexts, request slots, adapters, key slots, units and sets, and no
register outside the map and no reserved bit is ever held. Rests on 00_scope (R7), 06_memory_tiers (R168). -/
def Obligations.EveryStepKeepsInvariant : Prop :=
  ∀ s t : State, s.Inv → step s = .next t → t.Inv

/-- Whatever command runs in whatever state, every life-cycle fuse bit that was 1 is 1 after it, no minimum security
version falls, the device seed is never restored, and the count of signature indexes used never falls. Rests on
15_security_lifecycle (R420, R426). -/
def Obligations.FusesFloorsAndUsedIndexesOnlyRise : Prop :=
  ∀ (i : Instr) (s t : State), exec i s = .next t →
    (∀ b : Nat, s.sec.fuses.testBit b = true → t.sec.fuses.testBit b = true) ∧
    (∀ k : Nat, s.sec.minSvn.getD k 0 ≤ t.sec.minSvn.getD k 0) ∧
    s.sec.seed ≤ t.sec.seed ∧ s.sec.used ≤ t.sec.used

/-- In every state that meets the data invariant, a register as it stands, its value in force and its snapshot hold 0
in every bit that its map reserves; a read of a register outside the counters shown live returns 0 in every bit that
is reserved or write-only; after any command every reserved bit still is 0. Two writes of a register whose data agree
in every bit that its map does not reserve have the same outcome, so that a 1 written to a reserved bit is ignored and
nothing is recorded. Formalises R7. -/
def Obligations.ReservedBitsReadZero : Prop :=
  (∀ (s : State) (r : Reg) (b : Nat), s.Inv → r.name.held.testBit b = false →
    (s.reg r).testBit b = false ∧ (Bank.get s.force r).toNat.testBit b = false ∧ (Bank.get s.snap r).toNat.testBit b = false) ∧
  (∀ (s : State) (r : Reg) (b : Nat), s.Inv → r.name ≠ .srvCounter → r.name ≠ .thmTimePair →
    isPerf r.name = false → r.name.readable.testBit b = false → (s.regRead r).testBit b = false) ∧
  (∀ (i : Instr) (s t : State) (r : Reg) (b : Nat), s.Inv → exec i s = .next t → r.name.held.testBit b = false →
    (t.reg r).testBit b = false) ∧
  ∀ (s : State) (r : Reg) (off : Nat) (d e : W64), regAtOffset off = some r →
    (∀ b : Nat, b < r.name.spec.width → r.name.held.testBit b = true → d.toNat.testBit b = e.toNat.testBit b) →
    exec (.registerWrite off (r.name.spec.width / 8) d) s = exec (.registerWrite off (r.name.spec.width / 8) e) s

/-- An aligned write of the whole of a register that has no limit, lock or action of its own (named in the statement,
of every block of the window) completes where the access reaches its block: every RW bit takes the data, every W1C bit
written 1 becomes 0, every other bit the register holds stays; every other register and all storage stay. An access
that is not naturally aligned 32 or 64 bits sets HB_REG_ERR.MISALIGNED and gets an error response and changes no other
register. An aligned write at an offset that its block does not define changes nothing at all. Rests on 00_scope (R6,
R7, R8), 12_companion_link (R367). -/
def Obligations.RegisterWriteByAccessType : Prop :=
  (∀ (s : State) (r : Reg) (off : Nat) (data : W64), regAtOffset off = some r → s.opensAt off = true →
    off % (r.name.spec.width / 8) = 0 →
    r.name ∈ [.hbRegErr, .hbEncoreCfg, .pwrStatus, .rstCause, .secStage, .srvPfxCfg, .srvStatus, .fabStatus, .fabInjSeed,
      .stkArbCfg, .stkScrubStatus, .stkScrubAlarmUs, .dtArbCfg, .cdStrikeCfg, .cdSetStatus, .clrCtxStatus, .schCtxState,
      .galUnitState] →
    Answers (.registerWrite off (r.name.spec.width / 8) data) s fun t =>
      (∀ b : Nat, b < r.name.spec.width → r.name.held.testBit b = true → (t.reg r).testBit b =
        if r.name.spec.rw.testBit b then data.toNat.testBit b
        else (s.reg r).testBit b && !(r.name.spec.w1c.testBit b && data.toNat.testBit b)) ∧
      (∀ r' : Reg, r' ≠ r → t.reg r' = s.reg r') ∧ SameStore s t) ∧
  (∀ (s : State) (off width : Nat) (data : W64), (width ≠ 4 ∧ width ≠ 8) ∨ off % width ≠ 0 → s.inReset .hub = false →
    Answers (.registerWrite off width data) s fun t =>
      t.flag F.hbRegErr_misaligned = true ∧ t.out = s.out ++ [.linkError] ∧ SameRegs [.hbRegErr] s t ∧ SameStore s t) ∧
  ∀ (s : State) (off width : Nat) (data : W64), (width = 4 ∨ width = 8) → off % width = 0 → s.opensAt off = true →
    accessParts off width data.toNat = [] → exec (.registerWrite off width data) s = .next s

/-- An aligned register write whose block is in reset gets an error response and counts one isolated access, and one
to a block outside the hub globals, the reset controller, the security monitor and the link before READY gets an error
response; an offset outside every block sets UNMAPPED. No other register changes, and no storage. Rests on
14_reset_clocks_startup (R413, R418), 12_companion_link (R367). -/
def Obligations.ClosedBlocksAnswerWithError : Prop :=
  ∀ (s : State) (off width : Nat) (data : W64), (width = 4 ∨ width = 8) → off % width = 0 → s.opensAt off = false →
    Answers (.registerWrite off width data) s fun t =>
      t.out = s.out ++ [.linkError] ∧ SameStore s t ∧
      (windowBlock off = none → t.flag F.hbRegErr_unmapped = true ∧ SameRegs [.hbRegErr] s t) ∧
      ∀ b blk, windowBlock off = some (b, blk) →
        (s.inReset blk = true → t.fld F.rstIsoErrors_count = satAdd 64 (s.fld F.rstIsoErrors_count) 1 ∧
          SameRegs [.rstIsoErrors] s t) ∧
        (s.inReset blk = false → SameRegs [] s t)

/-- GO written to a commit group that its block answers for. On a locked group it only sets LOCK_IGNORED; on a pending
one it only sets LATE. Otherwise, where the shadow copies break the group's consistency rules, REFUSED is set with the
index of the first field that fails, the shadow copies take the values in force, and these stay; where they agree,
PENDING is set and shadows and values in force stay, or, for the dance card while it does not run (whose safe point is
then at hand), the values in force take the shadow copies and APPLIED is set. LOCK on a group with nothing pending
sets LOCKED; with a commit pending the lock waits for it. At a group's safe point a pending commit puts every shadow
copy in force together, sets APPLIED and clears PENDING and REFUSED, and a lock that waits takes hold; no shadow copy
changes. Rests on 00_scope (R9, R10, R11, R12), 10_partitions_scheduling (R319). -/
def Obligations.CommitGoLockAndApply : Prop :=
  (∀ (g : Group) (s : State), groupExists g = true → s.Inv →
     s.opens ⟨(groupRegs g).commit, (groupRegs g).i, 0, 0⟩ = true → Answers (.commitGo g) s fun t =>
       let r := groupRegs g
       SameStore s t ∧
       (s.flag r.locked r.i = true → t.flag r.lockIgnored r.i = true ∧ t.force = s.force ∧ SameRegs [r.locked.reg] s t) ∧
       (s.flag r.locked r.i = false → s.flag r.pending r.i = true →
         t.flag r.late r.i = true ∧ t.force = s.force ∧ SameRegs [r.locked.reg] s t) ∧
       (s.flag r.locked r.i = false → s.flag r.pending r.i = false →
         (∀ k, groupFlaw s g = some k →
           t.flag r.refused r.i = true ∧ t.flag r.applied r.i = false ∧ t.flag r.pending r.i = false ∧
           t.fld r.bad r.i = k % 256 ∧ t.force = s.force ∧
           ∀ x ∈ groupFields g, t.reg x = (Bank.get s.force x).toNat) ∧
         (groupFlaw s g = none →
           (s.safeAtGo g = false → t.flag r.pending r.i = true ∧ t.force = s.force ∧ SameRegs [r.locked.reg] s t) ∧
           (s.safeAtGo g = true → t.flag r.pending r.i = false ∧ t.flag r.applied r.i = true ∧
             ∀ x ∈ groupFields g, (Bank.get t.force x).toNat = s.reg x)))) ∧
  (∀ (g : Group) (s : State), groupExists g = true → s.opens ⟨(groupRegs g).commit, (groupRegs g).i, 0, 0⟩ = true →
    Answers (.commitLock g) s fun t =>
      let r := groupRegs g
      SameRegs [r.locked.reg] s t ∧ t.force = s.force ∧ SameStore s t ∧
      (s.flag r.pending r.i = false → t.flag r.locked r.i = true) ∧
      (s.flag r.pending r.i = true → t.flag r.locked r.i = s.flag r.locked r.i ∧ g ∈ t.sched.lockWait)) ∧
  ∀ (g : Group) (s : State), groupExists g = true → s.Inv → s.safePoint g = true →
    s.flag (groupRegs g).pending (groupRegs g).i = true → Answers (.commitApply g) s fun t =>
      let r := groupRegs g
      t.flag r.pending r.i = false ∧ t.flag r.applied r.i = true ∧ t.flag r.refused r.i = false ∧
      (∀ x ∈ groupFields g, (Bank.get t.force x).toNat = s.reg x ∧ t.reg x = s.reg x) ∧
      (g ∈ s.sched.lockWait → t.flag r.locked r.i = true ∧ g ∉ t.sched.lockWait) ∧ SameStore s t

/-- With m twice the queue's depth, a TAIL with (TAIL - HEAD) mod m at most the depth is taken modulo m; any other
leaves TAIL and sets DB_OVERRUN. Either way whether the queue fetches stays as it was, and of the other registers only
the status bits that follow the context's state change. Formalises R37. -/
def Obligations.DoorbellAcceptedOrOverrun : Prop :=
  ∀ (c q tail : Nat) (s : State), s.opens ⟨.clrSqDb, c, q, 0⟩ = true → s.fld F.clrSqCfg_depthLog2 c q ≤ 12 →
    Answers (.sqDoorbell c q tail) s fun t =>
      let m := 2 * s.sqDepth c q
      (if (tail % m + (m - s.fld F.clrSqStatus_head c q % m)) % m ≤ s.sqDepth c q then
         t.fld F.clrSqDb_tail c q = tail % m ∧ t.flag F.clrSqStatus_dbOverrun c q = s.flag F.clrSqStatus_dbOverrun c q
       else t.fld F.clrSqDb_tail c q = s.fld F.clrSqDb_tail c q ∧ t.flag F.clrSqStatus_dbOverrun c q = true) ∧
      t.fld F.clrSqStatus_head c q = s.fld F.clrSqStatus_head c q ∧ t.sqFetches c q = s.sqFetches c q ∧
      SameRegs (.clrSqDb :: followers) s t ∧ SameStore s t

/-- ABORT moves HEAD to TAIL, ends running chains and a skip under way, and the queue reads STOPPED; NEXT_SEQ stays.
Outside a step, with the completion ring disabled, one record with ST_CANCELLED is held whose DETAIL counts the
discarded slots, a skipping BRANCH ends ST_CANCELLED with the slots it had skipped, and without one the CALL of every
running chain ends ST_CANCELLED with the chain's slots discarded, by inference (log entry 62), as does a CALL that has
issued and not acted; a BRANCH or RETURN that has issued and not acted has ended. RESUME clears the halt and the error
stop, leaves HEAD, and the queue reads STOPPED only where its enable or the ring's is 0. Rests on 02_command_stream
(R40, R41, R72, R494), log entry 62. -/
def Obligations.AbortAndResume : Prop :=
  (∀ (c q : Nat) (s : State), s.opens ⟨.clrSqCtrl, c, q, 0⟩ = true → Answers (.sqAbort c q) s fun t =>
      t.fld F.clrSqStatus_head c q = s.fld F.clrSqDb_tail c q ∧ t.fld F.clrSqDb_tail c q = s.fld F.clrSqDb_tail c q ∧
      (t.queAt (qKey c q)).halt = true ∧ (t.queAt (qKey c q)).chain = [] ∧ (t.queAt (qKey c q)).skip = none ∧
      t.flag F.clrSqStatus_stopped c q = true ∧ t.reg ⟨.clrSqSeq, c, q, 0⟩ = s.reg ⟨.clrSqSeq, c, q, 0⟩ ∧
      ((s.ctxsAt c).step = none → s.flag F.clrCqCfg_en c = false →
        (t.ctxsAt c).held = (s.ctxsAt c).held ++ [(recordWords c q (s.fld F.clrSqSeq_nextSeq c q) stCancelled 0 0 0
          (s.sqUsed c q) false false false false s.now, s.flag F.clrCqCfg_irqOnErr c)]) ∧
      ((s.ctxsAt c).step = none → (s.queAt (qKey c q)).laterSkip = none → ∀ k p, (s.queAt (qKey c q)).skip = some k →
        s.pkt c k.branch = some p → t.ended c k.branch stCancelled k.done) ∧
      ((s.ctxsAt c).step = none → (s.queAt (qKey c q)).skip = none → (s.queAt (qKey c q)).laterSkip = none →
        ((s.queAt (qKey c q)).chain.map Frame.call).Nodup → ∀ f ∈ (s.queAt (qKey c q)).chain, ∀ p,
        s.pkt c f.call = some p → t.ended c f.call stCancelled (f.len - f.pos)) ∧
      ((s.ctxsAt c).step = none → ∀ id p, s.pkt c id = some p → p.q = q → p.st = .issued →
        (p.op ∈ [0x04, 0x05, 0x06] → t.stands c id .done) ∧
        (p.op = 0x05 → (s.queAt (qKey c q)).chain = [] → (s.queAt (qKey c q)).skip = none →
          (s.queAt (qKey c q)).laterSkip = none → t.ended c id stCancelled (p.f 3 12 0)))) ∧
  ∀ (c q : Nat) (s : State), s.opens ⟨.clrSqCtrl, c, q, 0⟩ = true → Answers (.sqResume c q) s fun t =>
      (t.queAt (qKey c q)).halt = false ∧ (t.queAt (qKey c q)).errStop = false ∧
      t.flag F.clrSqStatus_errStop c q = false ∧
      t.flag F.clrSqStatus_stopped c q = !(bit (s.fld F.clrCtxCfg_sqEn c) q && s.flag F.clrCqCfg_en c) ∧
      t.fld F.clrSqStatus_head c q = s.fld F.clrSqStatus_head c q ∧ SameRegs followers s t ∧ SameStore s t

/-- The counter takes the value written. Every waiting EVENT_WAIT on that event with a threshold of at most the value
ends ST_OK and its predicate becomes 1. Beside the counter, the predicates and the status bits that follow the context
no register changes, and no storage. Setting EN of a disabled ring translates every page of the ring through the
partition's root for writing. Where one fails, EN stays 0 and CQ_XLATE_ERR is set; where none does, EN becomes 1, the
pages' addresses are recorded, and no record stays held. Rests on 02_command_stream (R35, R67, R73, R74). -/
def Obligations.EventCounterAndCompletionRing : Prop :=
  (∀ (c e : Nat) (v : W64) (s : State), s.opens ⟨.clrEvent, c, e, 0⟩ = true → Answers (.eventCounterWrite c e v) s fun t =>
     t.fld F.clrEvent_count c e = v.toNat ∧
     (∀ id p, s.pkt c id = some p → p.op = 0x83 → p.st = .waiting → p.f 3 4 0 = e → p.w 4 ≤ v.toNat →
       t.ended c id stOk 1 ∧ t.pred c (p.f 5 2 0) = true) ∧
     SameRegs (.clrEvent :: .clrPred :: followers) s t ∧ SameStore s t) ∧
  ∀ (c : Nat) (s : State), s.opens ⟨.clrCqCfg, c, 0, 0⟩ = true → s.flag F.clrCqCfg_en c = false →
    Answers (.cqEnable c) s fun t =>
      let vas := (List.range (ceilDiv (32 * s.cqDepth c) 4096)).map fun i => s.fld F.clrCqBase_base c * 4096 + 4096 * i
      match ((ringPages (s.acc c) vas : M s _) ⟨s, Reach.refl s⟩).1 with
      | none => t.flag F.clrCqCfg_en c = false ∧ t.flag F.clrCtxStatus_cqXlateErr c = true ∧
          (t.ctxsAt c).held = (s.ctxsAt c).held
      | some ps => t.flag F.clrCqCfg_en c = true ∧ (t.ctxsAt c).cqPages = ps ∧ (t.ctxsAt c).held = []

/-- A packet whose every part has ended, under which no packet is still in flight, leaves the caller. Outside a step:
with the completion ring disabled, a packet with a status other than ST_OK or with COMPLETE set has its record held,
last in order; with the ring enabled, TAIL advances by one modulo twice the depth; an ST_OK packet without COMPLETE
posts none. A failing packet stops its queue where STOP_ON_ERR is 1. Rests on 02_command_stream (R41, R58, R72, R73).
-/
def Obligations.PacketCompletionPosts : Prop :=
  ∀ (c id : Nat) (s : State) (p : Pkt), s.callerUp c = true → s.pkt c id = some p → p.st = .done →
    (∀ y ∈ (s.ctxsAt c).pkts, y.parent ≠ some id) → Answers (.packetCompletion c id) s fun t =>
      t.pkt c id = none ∧
      (p.inStep = false →
        (p.status = 0 → p.complete = false → (t.ctxsAt c).held = (s.ctxsAt c).held ∧
          t.fld F.clrCqStatus_tail c = s.fld F.clrCqStatus_tail c) ∧
        (p.status ≠ 0 ∨ p.complete = true →
          (s.flag F.clrCqCfg_en c = false → (t.ctxsAt c).held = (s.ctxsAt c).held ++
            [(recordWords c p.q p.seq p.status p.op (p.f 1 63 32) p.chainOff p.detail p.parent.isSome p.skipped p.split
                p.recovered s.now, p.irq || (p.status != 0 && s.flag F.clrCqCfg_irqOnErr c))]) ∧
          (s.flag F.clrCqCfg_en c = true → c < 256 → s.fld F.clrCqCfg_depthLog2 c ≤ 14 →
            t.fld F.clrCqStatus_tail c = (s.fld F.clrCqStatus_tail c + 1) % (2 * s.cqDepth c))) ∧
        (p.status ≠ 0 → s.flag F.clrSqCfg_stopOnErr c p.q = true → (t.queAt (qKey c p.q)).errStop = true))

/-- Outside a step, with no BRANCH skipping and nothing earlier to wait for, the packet at HEAD of the first queue is
taken: HEAD moves past its slots modulo twice the depth, and every other packet in flight stays. One that fails the
first two rows of R46 posts its record and is not in flight; NEXT_SEQ advances, unless its SEQ slipped, which stops
the queue whatever STOP_ON_ERR holds. One that its predicate does not select is not in flight and posts a record only
with COMPLETE. A selected NOP is in flight, issued, under the next issue number. Rests on 02_command_stream (R39, R41,
R42, R46, R47, R73). -/
def Obligations.FetchTakesSkipsOrRefuses : Prop :=
  ∀ (c q : Nat) (s : State) (raw : List Nat), s.nextInRing c q raw → (s.ctxsAt c).step = none → (s.ctxsAt c).enc.stopped = false →
    (s.queAt (qKey c q)).skip = none → (s.queAt (qKey c q)).failAs = none → s.err.dieFault = false →
    s.fld F.clrSqCfg_depthLog2 c q ≤ 12 → s.fld F.clrCqCfg_depthLog2 c ≤ 14 →
    let p := s.fresh1 c q .ring raw
    (p.op = 0x81 ∨ s.fenced c p = false) →
    s.unsettled c p (substReads raw) (if p.b 0 12 && p.op != 0x81 then [p.f 0 10 8] else []) = false →
    let seq := s.fld F.clrSqSeq_nextSeq c q
    let taken (t : State) : Prop :=
      t.fld F.clrSqStatus_head c q = (s.fld F.clrSqStatus_head c q + slotsOf raw + 1) % (2 * s.sqDepth c q) ∧
      ∀ y ∈ (s.ctxsAt c).pkts, y.id ≠ p.id → y ∈ (t.ctxsAt c).pkts
    let posted (t : State) : Prop := t.fld F.clrCqStatus_tail c = (s.fld F.clrCqStatus_tail c + 1) % (2 * s.cqDepth c)
    (∀ e, s.firstRows c .ring raw p = some e → e ≠ (stBadParam, wordDetail 0 32) → Answers (.packetFetch c) s fun t =>
      taken t ∧ posted t ∧ t.pkt c p.id = none ∧ t.fld F.clrSqSeq_nextSeq c q = (seq + 1) % 2 ^ 32 ∧
      (t.queAt (qKey c q)).errStop = s.flag F.clrSqCfg_stopOnErr c q) ∧
    (s.firstRows c .ring raw p = some (stBadParam, wordDetail 0 32) → Answers (.packetFetch c) s fun t =>
      taken t ∧ posted t ∧ t.pkt c p.id = none ∧ t.fld F.clrSqSeq_nextSeq c q = seq ∧
      (t.queAt (qKey c q)).errStop = true ∧ t.flag F.clrSqStatus_stopped c q = true) ∧
    (s.firstRows c .ring raw p = none → s.selects c p = false → Answers (.packetFetch c) s fun t =>
      taken t ∧ t.pkt c p.id = none ∧ t.fld F.clrSqSeq_nextSeq c q = (seq + 1) % 2 ^ 32 ∧
      (if p.complete then posted t else t.fld F.clrCqStatus_tail c = s.fld F.clrCqStatus_tail c)) ∧
    (s.firstRows c .ring raw p = none → s.selects c p = true → p.op = 0x00 → Answers (.packetFetch c) s fun t =>
      taken t ∧ t.fld F.clrSqSeq_nextSeq c q = (seq + 1) % 2 ^ 32 ∧
      t.fld F.clrCqStatus_tail c = s.fld F.clrCqStatus_tail c ∧
      ∃ y, (t.ctxsAt c).pkts = (s.ctxsAt c).pkts ++ [y] ∧ y.id = p.id ∧ y.op = 0x00 ∧ y.words = p.words ∧ y.st = .issued)

/-- NOP ends ST_OK. SET_SCALAR gives sD the immediate. SCALAR_OP gives sD the result of its operation as 64-bit words
compute it, for each of the thirteen operations; OP values 13 to 15 end ST_BAD_PARAM and write nothing. SET_PRED gives
pPD the comparison or the predicate logic of its COND, 11 to 15 end ST_BAD_PARAM. Every other scalar and predicate,
every other register but those that follow the context, and all storage stay. Rests on 02_command_stream (R53, R54,
R55). -/
def Obligations.ScalarAndPredicatePackets : Prop :=
  (∀ (c id : Nat) (s : State) (p : Pkt), c < 256 → s.issued c id 0x00 p → Answers (.nop c id) s fun t =>
    t.ended c id stOk 0 ∧ SameRegs followers s t ∧ SameStore s t) ∧
  (∀ (c id : Nat) (s : State) (p : Pkt), c < 256 → s.issued c id 0x01 p → Answers (.setScalar c id) s fun t =>
    t.ended c id stOk 0 ∧ t.scalar c (p.f 2 5 0) = p.w 3 % 2 ^ 64 ∧
    (∀ i, i ≠ p.f 2 5 0 → t.scalar c i = s.scalar c i) ∧ SameRegs (.clrS :: followers) s t ∧ SameStore s t) ∧
  (∀ (c id : Nat) (s : State) (p : Pkt), c < 256 → s.issued c id 0x02 p → p.srcA < 2 ^ 64 → p.srcB < 2 ^ 64 →
    Answers (.scalarOp c id) s fun t =>
      let a := BitVec.ofNat 64 p.srcA
      let b := BitVec.ofNat 64 p.srcB
      let sh := p.srcB % 64
      let table : List (BitVec 64) := [a + b, a - b, a * b, a &&& b, a ||| b, a ^^^ b, a <<< sh, a >>> sh, a.sshiftRight sh,
        if a.ult b then a else b, if a.ult b then b else a, if a.slt b then a else b, if a.slt b then b else a]
      (∀ i, i ≠ p.f 2 5 0 → t.scalar c i = s.scalar c i) ∧ SameRegs (.clrS :: followers) s t ∧ SameStore s t ∧
      match table[p.f 2 35 32]? with
      | some v => t.scalar c (p.f 2 5 0) = v.toNat ∧ t.ended c id stOk 0
      | none => t.scalar c (p.f 2 5 0) = s.scalar c (p.f 2 5 0) ∧ t.ended c id stBadParam (wordDetail 2 32)) ∧
  ∀ (c id : Nat) (s : State) (p : Pkt), c < 256 → s.issued c id 0x03 p → p.srcA < 2 ^ 64 → p.srcB < 2 ^ 64 →
    Answers (.setPred c id) s fun t =>
      let a := BitVec.ofNat 64 p.srcA
      let b := BitVec.ofNat 64 p.srcB
      let pA := bit (nth p.aux 2) (p.f 2 10 8)
      let pB := bit (nth p.aux 2) (p.f 2 18 16)
      let table : List Bool := [a == b, a != b, a.ult b, !a.ult b, a.slt b, !a.slt b, true, false, pA && pB, pA || pB, !pA]
      (∀ i, i ≠ p.f 2 2 0 → i < 8 → t.pred c i = s.pred c i) ∧ SameRegs (.clrPred :: followers) s t ∧ SameStore s t ∧
      match table[p.f 2 35 32]? with
      | some v => t.pred c (p.f 2 2 0) = v ∧ t.ended c id stOk 0
      | none => t.pred c (p.f 2 2 0) = s.pred c (p.f 2 2 0) ∧ t.ended c id stBadParam (wordDetail 2 32)

/-- In a ring a BRANCH with an offset of 1 ends ST_OK, with a larger one waits while the queue skips the slots before
its target, with one that is not positive ends ST_BAD_PARAM. In a chain a BRANCH whose target is the first slot of a
packet, found when the CALL was validated, ends ST_OK and the chain goes on there; any other ends ST_BAD_PARAM and
leaves the chain, where slots of it are left. CALL opens its chain at slot 0 above those that run and waits. RETURN
ends ST_OK, as does the CALL whose chain it closes, and the chain around it, if slots of it are left, goes on; outside
a chain it ends ST_BAD_PARAM. Rests on 02_command_stream (R57, R58). -/
def Obligations.BranchCallReturn : Prop :=
  (∀ (c id : Nat) (s : State) (p : Pkt), s.issued c id 0x04 p → Answers (.branch c id) s fun t =>
    let ofs := signed 32 (p.w 2)
    let x := s.queAt (qKey c p.q)
    let y := t.queAt (qKey c p.q)
    SameRegs followers s t ∧ SameStore s t ∧
    (p.parent = none → y.chain = x.chain ∧
      (ofs ≤ 0 → t.ended c id stBadParam 2 ∧ y.skip = x.skip) ∧ (ofs = 1 → t.ended c id stOk 0 ∧ y.skip = x.skip) ∧
      (1 < ofs → t.stands c id .waiting ∧ y.skip = some ⟨id, ofs.toNat - 1, 0⟩)) ∧
    ∀ f fs, p.parent.isSome = true → x.chain = f :: fs → (∀ g ∈ x.chain, g.call ≠ id) →
      let target := (p.chainOff : Int) + ofs
      (0 ≤ target ∧ target.toNat ∈ f.starts → t.ended c id stOk 0 ∧
        (target < f.len → y.chain = { f with pos := target.toNat } :: fs)) ∧
      (¬(0 ≤ target ∧ target.toNat ∈ f.starts) → t.ended c id stBadParam 2 ∧ (f.pos < f.len → y.chain = f :: fs))) ∧
  (∀ (c id : Nat) (s : State) (p : Pkt), s.issued c id 0x05 p → Answers (.call c id) s fun t =>
    (t.queAt (qKey c p.q)).chain = ⟨p.w 2, p.f 3 12 0, 0, id, p.aux⟩ :: (s.queAt (qKey c p.q)).chain ∧
    t.stands c id .waiting ∧ SameRegs followers s t ∧ SameStore s t) ∧
  ∀ (c id : Nat) (s : State) (p : Pkt), s.issued c id 0x06 p → Answers (.ret c id) s fun t =>
    SameRegs followers s t ∧ SameStore s t ∧
    ((s.queAt (qKey c p.q)).chain = [] → t.ended c id stBadParam 0) ∧
    ∀ f fs, (s.queAt (qKey c p.q)).chain = f :: fs → t.ended c id stOk 0 ∧
      (∀ y, s.pkt c f.call = some y → t.ended c f.call stOk 0) ∧
      ((∀ g ∈ fs.head?, g.pos < g.len) → (t.queAt (qKey c p.q)).chain = fs)

/-- In memory without an error, a write of any bytes at any address changes what a read finds in exactly those bytes,
be they whole granules or narrow writes held in merge entries; a read of any bytes finds them, with no rebuild, and
changes nothing that a later read finds, where no granule read is one of a set buffer, whose reads may meet an error
(log entry 65), or none does; both leave memory without an error. Where their accesses meet no error and no fault, and
their tokens can be paid, the movement packets end ST_OK: COPY, COPY_T and TIER_MOVE give every element of the
destination the code and every block the scale that the source's held; GATHER gives every position in range its row's
element and every other one 0; SCATTER gives every destination its contribution, the last under LAST, or the reduced
value; FILL gives every element the pattern. FLAG says whether an index was out of range. Nothing else of memory
changes, no slot or adapter, and no register but the counters and those that follow the context. Rests on
06_memory_tiers (R182, R183, R185, R186), 05_tensor_movement (R144, R148, R151, R153, R157, R158, R164, R165). -/
def Obligations.MemoryReadsWhatWasWritten : Prop :=
  (∀ (s : State) (a : Nat) (bs : List Byte) (record : Bool), s.Sound →
    let t := M.result s (writeAt a bs record)
    t.Sound ∧ ∀ x, t.seen x = if a ≤ x ∧ x < a + bs.length then bs.getD (x - a) 0 else s.seen x) ∧
  (∀ (s : State) (w : Who) (a n : Nat), s.Sound →
    ((∀ k, Config.freeBit k = false) ∨ ∀ g ∈ gransOf a n, ∀ x, regionOf (64 * g) ≠ .setBuf x) →
    let r := (readAt w a n : M s _) ⟨s, Reach.refl s⟩
    r.1 = ((some ((List.range n).map fun i => s.seen (a + i)), 0), []) ∧ r.2.1.Sound ∧ ∀ x, r.2.1.seen x = s.seen x) ∧
  PacketMoves .copy 0x30 copyBody copyPairs ∧ PacketMoves .copyT 0x31 copyTBody turnPairs ∧
  PacketMoves .tierMove 0x35 copyBody copyPairs ∧
  (∀ (c id : Nat) (s : State) (p : Pkt) (rows : List (Nat × Option Nat)) (vs : List (Nat × Nat)) (ps : List Wr), c < 256 →
    s.ready c id 0x32 p (gatherBody p (s.acc c)) →
    s.finds (plans (s.acc c) (gatherReads p (s.acc c)) (gatherWrites p)) ((rows, vs), ps) →
    Answers (.gather c id) s fun t => Stored s t c id ps (if p.b 5 11 then [.clrPred] else []) ∧ FlagSet s t c p rows) ∧
  (∀ (c id : Nat) (s : State) (p : Pkt) (rows : List (Nat × Option Nat)) (ws ps : List Wr), c < 256 →
    s.ready c id 0x33 p (scatterBody p (s.acc c)) →
    s.finds (plans (s.acc c) (scatterReads p (s.acc c)) Prod.snd) ((rows, ws), ps) →
    Answers (.scatter c id) s fun t => Stored s t c id ps (if p.b 5 11 then [.clrPred] else []) ∧ FlagSet s t c p rows) ∧
  ∀ (c id : Nat) (s : State) (p : Pkt) (ps : List Wr), s.ready c id 0x34 p (fillBody p (s.acc c)) →
    s.finds (plans (s.acc c) (probeAll (s.acc c) (fillProbes (p.desc 2))) fun _ => fillWrites (p.desc 2) (p.w 3)) ((), ps) →
    Answers (.fill c id) s fun t => Stored s t c id ps

/-- LOAD_SCALAR gives sD the word its read finds. REDUCE, in memory without an error, gives sD the value that its
operation makes of the tensor's elements, and where PRED is set the predicate it names whether that is not 0; it ends
ST_OK with the value in DETAIL and changes nothing else. STORE_SCALAR stores sA as one word at the address that W3
translates to, SIGNAL stores W3 at W2's unless W2 is 0, TIMESTAMP stores the serving counter at issue at W3's unless
W3 is 0, and gives it to sD (not in a rerun, R460); each ends ST_OK, and memory as a read finds it changes in that
word alone, in no byte where none is stored. A SIGNAL without an address and with IRQ_NOW sends the context's
interrupt, where it is not masked and the link is ACTIVE. Rests on 02_command_stream (R53, R60, R67), 06_memory_tiers
(R185). -/
def Obligations.ScalarLoadsAndStores : Prop :=
  (∀ (c id : Nat) (s : State) (p : Pkt) (v : Nat), c < 256 → s.issued c id 0x07 p →
    (s.runs (rdWord (s.acc c) (p.w 3))).1 = .ok v → s.affords c p (rdWord (s.acc c) (p.w 3)) →
    Answers (.loadScalar c id) s fun t => t.scalar c (p.f 2 5 0) = v % 2 ^ 64 ∧
      (∀ i, i ≠ p.f 2 5 0 → t.scalar c i = (s.runs (rdWord (s.acc c) (p.w 3))).2.2.scalar c i)) ∧
  (∀ (c id : Nat) (s : State) (p : Pkt) (vs : List (Nat × Nat)), c < 256 → s.issued c id 0x09 p → s.Calm c →
    s.finds (rdTensor (s.acc c) (p.desc 3)) vs → s.affords c p (rdTensor (s.acc c) (p.desc 3)) →
    Answers (.reduce c id) s fun t =>
      let v := reduceValue (p.f 2 11 8) (p.desc 3).fmt (vs.map Prod.fst)
      t.ended c id stOk v ∧ t.scalar c (p.f 2 5 0) = v % 2 ^ 64 ∧ (∀ i, i ≠ p.f 2 5 0 → t.scalar c i = s.scalar c i) ∧
      (p.b 2 19 = true → t.pred c (p.f 2 18 16) = (v != 0) ∧ ∀ i, i ≠ p.f 2 18 16 → i < 8 → t.pred c i = s.pred c i) ∧
      SameRegs (.clrS :: (if p.b 2 19 then [.clrPred] else []) ++ counters ++ followers) s t ∧ ∀ a, t.seen a = s.seen a) ∧
  (∀ (c id : Nat) (s : State) (p : Pkt) (a : Nat), s.issued c id 0x08 p → s.storable c p (p.w 3) a p.srcA →
    Answers (.storeScalar c id) s fun t => t.ended c id stOk 0 ∧ WordStored s t a p.srcA ∧
      ∀ i j, t.scalar i j = s.scalar i j) ∧
  (∀ (c id : Nat) (s : State) (p : Pkt) (a : Nat), s.issued c id 0x0B p → p.w 2 ≠ 0 → s.storable c p (p.w 2) a (p.w 3) →
    Answers (.signal c id) s fun t => t.ended c id stOk 0 ∧ WordStored s t a (p.w 3)) ∧
  (∀ (c id : Nat) (s : State) (p : Pkt), s.issued c id 0x0B p → p.w 2 = 0 → p.exhausted = false →
    Answers (.signal c id) s fun t => t.ended c id stOk 0 ∧ SameStore s t ∧
      (p.b 4 0 = false → t.out = s.out ∧ SameRegs followers s t) ∧
      (p.b 4 0 = true → s.vecMasked (s.fld F.clrCtxCfg_vector c) = false → s.linkActive = true →
        t.out = s.out ++ [.irq (s.fld F.clrCtxCfg_vector c)] ∧ SameRegs followers s t)) ∧
  (∀ (c id : Nat) (s : State) (p : Pkt), c < 256 → s.issued c id 0x84 p → p.w 3 = 0 → s.logged c p = none →
    p.exhausted = false → Answers (.timestamp c id) s fun t =>
      t.ended c id stOk 0 ∧ t.scalar c (p.f 2 5 0) = p.at_ % 2 ^ 64 ∧ SameRegs (.clrS :: followers) s t ∧ SameStore s t) ∧
  ∀ (c id : Nat) (s : State) (p : Pkt) (a : Nat), c < 256 → s.issued c id 0x84 p → p.w 3 ≠ 0 → s.storable c p (p.w 3) a p.at_ →
    s.logged c p = none → Answers (.timestamp c id) s fun t =>
      t.ended c id stOk 0 ∧ t.scalar c (p.f 2 5 0) = p.at_ % 2 ^ 64 ∧ WordStored s t a p.at_

/-- At issue and at each later microsecond the word at W2 is compared with W3 under COND (equal, not equal, at least,
below, unsigned): where it holds the packet ends ST_OK with DETAIL 1 and the predicate becomes 1; where it does not,
the packet waits and the predicate stays. Once TIMEOUT_US has passed the packet ends either way, the predicate as the
comparison finds. In a context that is swapped out a comparison that would hold, or a time-out that has passed, makes
the context RUNNABLE and the packet goes on waiting. (Not in a rerun, R460.) Rests on 02_command_stream (R59),
10_partitions_scheduling (R316). -/
def Obligations.WaitValueComparesAndEnds : Prop :=
  let ends (s t : State) (c id : Nat) (p : Pkt) (sat : Bool) : Prop :=
    (t.pkt c id).map Pkt.outcome = some (p.endsWith stOk (b2n sat) (s.runs (rdWord (s.acc c) (p.w 2))).2.1) ∧
      t.pred c (p.f 4 10 8) = sat
  let holds (p : Pkt) (v : Nat) : Bool :=
    [v == p.w 3, v != p.w 3, decide (p.w 3 ≤ v), decide (v < p.w 3)].getD (min 3 (p.f 4 3 0)) false
  let found (s : State) (c : Nat) (p : Pkt) (v : Nat) : Prop :=
    s.logged c p = none ∧ p.inStep = false ∧ (s.runs (rdWord (s.acc c) (p.w 2))).1 = .ok v ∧
      s.affords c p (rdWord (s.acc c) (p.w 2))
  (∀ (c id : Nat) (s : State) (p : Pkt) (v : Nat), c < 256 → s.issued c id 0x0A p → found s c p v →
    Answers (.waitValue c id) s fun t => if holds p v then ends s t c id p true else
      t.stands c id .waiting ∧ t.pred c (p.f 4 10 8) = s.pred c (p.f 4 10 8)) ∧
  (∀ (c id : Nat) (s : State) (p : Pkt) (v : Nat), c < 256 → s.loaded c = true → s.callerUp c = true → s.pkt c id = some p → p.op = 0x0A →
    p.st = .waiting → found s c p v → holds p v = true → Answers (.waitValuePoll c id) s fun t => ends s t c id p true) ∧
  (∀ (c id : Nat) (s : State) (p : Pkt) (v : Nat), c < 256 → s.ctxState c = 1 → s.callerUp c = true → s.pkt c id = some p → p.op = 0x0A →
    p.st = .waiting → (s.runs (rdWord (s.acc c) (p.w 2))).1 = .ok v → holds p v = true →
    Answers (.waitValuePoll c id) s fun t => t.flag F.schCtxState_runnable c = true ∧ t.stands c id .waiting) ∧
  (∀ (c id : Nat) (s : State) (p : Pkt), c < 256 → s.ctxState c = 1 → s.callerUp c = true → s.pkt c id = some p → p.op = 0x0A →
    p.st = .waiting → p.f 4 63 32 ≠ 0 → p.at_ + p.f 4 63 32 ≤ s.now → Answers (.waitValueTimeout c id) s fun t =>
      t.flag F.schCtxState_runnable c = true ∧ t.stands c id .waiting ∧ SameStore s t) ∧
  ∀ (c id : Nat) (s : State) (p : Pkt) (v : Nat), c < 256 → s.loaded c = true → s.callerUp c = true → s.pkt c id = some p → p.op = 0x0A →
    p.st = .waiting → p.f 4 63 32 ≠ 0 → p.at_ + p.f 4 63 32 ≤ s.now → found s c p v →
    Answers (.waitValueTimeout c id) s fun t => ends s t c id p (holds p v)

/-- EVENT_WAIT ends ST_OK at issue with its predicate 1 where the counter is at least the threshold, and waits
otherwise; at the time-out it ends with the comparison in its predicate (neither in a rerun, R460). A FENCE ends once
no earlier packet of its queue has effects left in its scope, one with an empty scope at once, and then no merge entry
of that storage is left; until then it stays issued. An EVENT_SIGNAL whose drain is complete adds its value to the
counter modulo 2^64 and ends. Rests on 02_command_stream (R67, R69), 06_memory_tiers (R186). -/
def Obligations.EventsFencesAndSignals : Prop :=
  (∀ (c id : Nat) (s : State) (p : Pkt), c < 256 → s.issued c id 0x83 p → s.logged c p = none →
    Answers (.eventWait c id) s fun t => SameStore s t ∧ SameRegs (.clrPred :: followers) s t ∧
      if p.w 4 ≤ s.fld F.clrEvent_count c (p.f 3 4 0) then t.ended c id stOk 1 ∧ t.pred c (p.f 5 2 0) = true
      else t.stands c id .waiting ∧ ∀ i, i < 8 → t.pred c i = s.pred c i) ∧
  (∀ (c id : Nat) (s : State) (p : Pkt), c < 256 → s.loaded c = true → s.callerUp c = true → s.pkt c id = some p → p.op = 0x83 → p.st = .waiting →
    p.f 5 63 32 ≠ 0 → p.at_ + p.f 5 63 32 ≤ s.now → Answers (.eventWaitTimeout c id) s fun t =>
      let sat := decide (p.w 4 ≤ s.fld F.clrEvent_count c (p.f 3 4 0))
      t.ended c id stOk (b2n sat) ∧ t.pred c (p.f 5 2 0) = sat ∧ SameStore s t ∧ SameRegs (.clrPred :: followers) s t) ∧
  (∀ (c id : Nat) (s : State) (p : Pkt), s.issued c id 0x80 p → (p.w 2 = 0 ∨ ((drained c p : M s _) ⟨s, Reach.refl s⟩).1 = true) →
    Answers (.fence c id) s fun t => t.ended c id stOk 0 ∧ ∀ m ∈ t.merges, t.inScope (p.w 2) (64 * m.gran) = false) ∧
  (∀ (c id : Nat) (s : State) (p : Pkt), s.issued c id 0x80 p → ((drained c p : M s _) ⟨s, Reach.refl s⟩).1 = false →
    Answers (.fence c id) s fun t => t.stands c id .issued) ∧
  ∀ (c id : Nat) (s : State) (p : Pkt), c < 256 → s.issued c id 0x82 p → ((drained c p : M s _) ⟨s, Reach.refl s⟩).1 = true →
    Answers (.eventSignal c id) s fun t => t.ended c id stOk 0 ∧
      t.fld F.clrEvent_count c (p.f 3 4 0) = (s.fld F.clrEvent_count c (p.f 3 4 0) + p.w 4) % 2 ^ 64 ∧
      ∀ m ∈ t.merges, t.inScope (p.w 2) (64 * m.gran) = false

/-- For each opcode of the dense, movement, stack and serving classes and the memory packets of the control class that
runs as one operation: in every loaded context, where the operation runs to its end and its tokens can be paid, the
command ends the packet with that status and DETAIL, marked RECOVERED where a part needed a rebuild; memory, its check
bytes, merge entries, flash and request slots are as the operation left them, and so is every register but the
counters of granules served and the bits that follow the context. Where their accesses meet no error and no fault, and
their tokens can be paid, the dense packets end ST_OK: of each but SOFTMAX with a length table, ROTARY_Q with a
position outside its table and MOE_ROUTE, whose values the spec leaves open (log entry 22) or the router's weights are
(log entry 23), the destination takes the rows that its operation makes of what it reads, where it shares no byte with
an operand but as the same view; MOE_ROUTE stores the experts chosen and their weights, MOE_DISPATCH the weighted sums
of the experts, on units and cores as placed. Nothing else of memory changes, no slot or adapter, and no register but
the counters and those that follow the context. For the packet operations that are not all-or-nothing: where the
tokens an operation would use cannot be paid, the packet stays issued and no byte of memory, no merge entry and no
request slot changes; where the operation meets a translation or protection fault in a RESTART partition, the packet
stalls on the next fault identifier; where it meets an access that fails with ST_INTERNAL, it ends with that status.
Rests on 01_split_layer (R18, R21), 02_command_stream (R53, R56, R61, R62, R63, R66), 03_cores_and_sets (R83),
04_matrix_array (R108, R110, R120, R123, R124), 05_tensor_movement (R146), 06_memory_tiers (R178), 09_serving_engine
(R289, R290, R291, R293, R294), 10_partitions_scheduling (R331), 12_companion_link (R366). -/
def Obligations.PacketOperationsEndWaitOrStall : Prop :=
  PacketRuns .loadScalar 0x07 (fun c => loadScalarBody c) ∧ PacketRuns .storeScalar 0x08 (fun _ => storeScalarBody) ∧
  PacketRuns .signal 0x0B (fun c => signalBody c) ∧ PacketRuns .timestamp 0x84 (fun c => timestampBody c) ∧
  PacketRuns .reduce 0x09 (fun c => reduceBody c) ∧ PacketRuns .matmul 0x10 (fun _ => matmulBody) ∧
  PacketRuns .matmulBatched 0x11 (fun _ => matmulBody) ∧ PacketRuns .adapter 0x12 (fun _ => adapterBody) ∧
  PacketRuns .mlpGated 0x13 (fun _ => mlpBody) ∧ PacketRuns .eltwise 0x18 (fun _ => eltwiseBody) ∧
  PacketRuns .norm 0x19 (fun _ => normBody) ∧ PacketRuns .softmax 0x1A (fun _ => softmaxBody) ∧
  PacketRuns .quantise 0x1B (fun _ => quantiseBody) ∧ PacketRuns .rotaryQ 0x1C (fun _ => rotaryBody) ∧
  PacketRuns .moeRoute 0x20 (fun _ => moeRouteBody) ∧ PacketRuns .moeDispatch 0x21 (fun _ => moeBody) ∧
  PacketRuns .copy 0x30 (fun _ => copyBody) ∧ PacketRuns .copyT 0x31 (fun _ => copyTBody) ∧
  PacketRuns .gather 0x32 (fun _ => gatherBody) ∧ PacketRuns .scatter 0x33 (fun _ => scatterBody) ∧
  PacketRuns .fill 0x34 (fun _ => fillBody) ∧ PacketRuns .tierMove 0x35 (fun _ => copyBody) ∧
  PacketRuns .nearMatvec 0x40 (fun _ => nearMatvecBody) ∧ PacketRuns .nearExpert 0x41 (fun _ => nearExpertBody) ∧
  PacketRuns .nearElt 0x42 (fun _ => nearEltBody) ∧ PacketRuns .nearCopy 0x43 (fun _ => nearCopyBody) ∧
  PacketRuns .nearRaw 0x4F (fun _ => nearRawBody) ∧ PacketRuns .kvAppend 0x50 (fun _ => kvAppendBody) ∧
  PacketRuns .attend 0x51 (fun _ => attendBody) ∧ PacketRuns .kvRelease 0x52 (fun _ => kvReleaseBody) ∧
  PacketRuns .prefixLookup 0x53 (fun _ => prefixLookupBody) ∧ PacketRuns .prefixInsert 0x54 (fun _ => prefixInsertBody) ∧
  PacketRuns .kvMove 0x55 (fun _ => kvMoveBody) ∧ PacketRuns .reqOpen 0x62 (fun c => reqOpenBody c) ∧
  PacketRuns .stepBegin 0x60 (fun c => stepBeginBody c) ∧
  PacketRuns .sample 0x65 (fun c => sampleBody c) ∧ PacketRuns .adapterBind 0x66 (fun _ => adapterBindBody) ∧
  PacketPuts .matmul 0x10 matmulBody 4 (fun _ => []) matmulReads matmulOut ∧
  PacketPuts .matmulBatched 0x11 matmulBody 4 (fun _ => []) matmulReads matmulOut ∧
  PacketPuts .adapter 0x12 adapterBody 4 (fun _ => []) adapterReads adapterOut ∧
  PacketPuts .mlpGated 0x13 mlpBody 5 (fun _ => []) mlpReads mlpOut ∧
  PacketPuts .eltwise 0x18 eltwiseBody 4 Pkt.eltIns (fun p => rowReads (p.desc 4) p.eltIns) eltOut ∧
  PacketPuts .norm 0x19 normBody 4 (fun p => [p.desc 2]) normReads normOut ∧
  PacketPuts .softmax 0x1A softmaxBody 3 (fun p => [p.desc 2]) (fun p => rowReads (p.desc 3) [p.desc 2]) softmaxOut ∧
  (∀ (c id : Nat) (s : State) (p : Pkt) (f : Fin), p.f 4 31 0 ≠ 0 → s.ready c id 0x1A p (softmaxBody p (s.acc c)) →
    s.finds (softmaxBody p (s.acc c)) f → Answers (.softmax c id) s fun t => t.ended c id stOk 0 ∧ t.slots = s.slots) ∧
  PacketPuts .quantise 0x1B quantiseBody 3 (fun p => [p.desc 2]) (fun p => rowReads (p.desc 3) [p.desc 2]) quantiseOut ∧
  PacketPuts .rotaryQ 0x1C rotaryBody 2 (fun p => [p.desc 3, p.desc 4]) rotaryReads rotaryOut ∧
  (∀ (c id : Nat) (s : State) (p : Pkt) (f : Fin), s.ready c id 0x1C p (rotaryBody p (s.acc c)) →
    s.finds (rotaryBody p (s.acc c)) f → Answers (.rotaryQ c id) s fun t => t.ended c id stOk 0 ∧ t.slots = s.slots) ∧
  (∀ (c id : Nat) (s : State) (p : Pkt) (v : List (List Machine.Num)) (ps : List Wr), s.ready c id 0x20 p (moeRouteBody p (s.acc c)) →
    s.finds (plans (s.acc c) (routeReads p (s.acc c)) (routeWrites p)) (v, ps) →
    Answers (.moeRoute c id) s fun t => t.ended c id stOk 0 ∧ t.slots = s.slots ∧
      ((p.desc 3).apart [p.desc 2, p.desc 4] = true → (p.desc 4).apart [p.desc 2, p.desc 3] = true → Stored s t c id ps)) ∧
  (∀ (c id : Nat) (s : State) (p : Pkt) (routes : List (List (Nat × Nat))) (near : List (Nat × List Nat))
    (ops : List (Nat × ExpertOps)) (rs : List (List Machine.Num × Option (List Machine.Num))) (ps : List Wr),
    s.ready c id 0x21 p (moeBody p (s.acc c)) → s.unitsReady c 2 (near.flatMap Prod.snd) →
    s.finds (plans (s.acc c) (moeReads p (s.acc c)) fun v => rowWrites (p.desc 5) (moeOut p v)) ((routes, near, ops, rs), ps) →
    Answers (.moeDispatch c id) s fun t => Stored s t c id ps unitCounters) ∧
  PacketStops .loadScalar 0x07 (fun c => loadScalarBody c) ∧ PacketStops .storeScalar 0x08 (fun _ => storeScalarBody) ∧
  PacketStops .reduce 0x09 (fun c => reduceBody c) ∧ PacketStops .matmul 0x10 (fun _ => matmulBody) ∧
  PacketStops .mlpGated 0x13 (fun _ => mlpBody) ∧ PacketStops .eltwise 0x18 (fun _ => eltwiseBody) ∧
  PacketStops .copy 0x30 (fun _ => copyBody) ∧ PacketStops .gather 0x32 (fun _ => gatherBody) ∧
  PacketStops .scatter 0x33 (fun _ => scatterBody) ∧ PacketStops .fill 0x34 (fun _ => fillBody) ∧
  PacketStops .nearMatvec 0x40 (fun _ => nearMatvecBody) ∧ PacketStops .nearExpert 0x41 (fun _ => nearExpertBody)

/-- REQ_OPEN, where its accesses meet no error and no fault and its tokens can be paid, ends ST_OK and its slot is
OPEN, or CANCELLED where a cancel was latched while it was OPENING; its parameters are those of the block as captured
at validation, and where its issue took the slot and the prompt is not counted, its overflow list is empty and, with
no ledger, memory changes in the count table alone, which holds zeros. On a slot of another partition or tenant both
packets end ST_PROT, on a FREE one ST_BAD_PARAM, both naming W2, and no slot changes. REQ_CLOSE stays issued on an
OPENING slot and, on an ACTIVE one, latches the cancel and waits; otherwise it ends ST_OK with DELIVERED in DETAIL and
the slot is FREE. REQ_CANCEL latches once, at its issue: an OPENING or ACTIVE slot keeps it and it waits, an OPEN
request is CANCELLED and it ends ST_CANCELLED, of a FINISHED or CANCELLED one it ends ST_OK and changes no slot; with
its latch behind it, it changes no slot. The companion's cancel makes an OPEN request CANCELLED, latches in an OPENING
or ACTIVE one, changes no finished one, and on a FREE slot only sets CANCEL_IGNORED. No other slot changes. Rests on
09_serving_engine (R282, R283, R284, R285, R286, R287, R302, R303, R304). -/
def Obligations.RequestCloseAndCancel : Prop :=
  (∀ (c id : Nat) (s : State) (p : Pkt), s.ready c id 0x62 p (reqOpenBody c p (s.acc c)) →
    s.finds (openWork c p (s.acc c)) () → Answers (.reqOpen c id) s fun t =>
      let n := p.f 2 12 0
      let held := (s.slotsAt n).opener = some (c, id)
      t.ended c id stOk 0 ∧ (∀ m, m ≠ n → t.slotsAt m = s.slotsAt m) ∧ (t.slotsAt n).opener = none ∧
      (t.slotsAt n).cancels = [] ∧ t.slotState n = (if held ∧ s.slotFlag n 2 = true then 5 else 2) ∧
      (∀ i, i < 16 → t.slotW n i = if held then s.slotW n i else nth p.reqBlock i) ∧
      (held → s.slotF n 6 16 16 = 0 → t.ovfLen n = 0 ∧
        ∀ ps, s.finds (wrPlan (s.acc c) [s.zeroCounts n]) ps → s.flag F.srvLedgerBase_en = false →
          ∀ a, t.seen a = s.after ps a)) ∧
  (∀ (c id : Nat) (s : State) (p : Pkt), s.issued c id 0x63 p → Answers (.reqClose c id) s fun t =>
    let n := p.f 2 12 0
    (∀ m, m ≠ n → t.slotsAt m = s.slotsAt m) ∧
    (s.slotOk n (s.partOf c) = false → t.ended c id stProt (wordDetail 2 0) ∧ t.slots = s.slots) ∧
    (s.slotOk n (s.partOf c) = true →
      (s.slotState n = 0 → t.ended c id stBadParam (wordDetail 2 0) ∧ t.slots = s.slots) ∧
      (s.slotState n = 1 → t.stands c id .issued ∧ t.slots = s.slots) ∧
      (s.slotState n = 3 → t.stands c id .waiting ∧ t.slotState n = 3 ∧ t.slotFlag n 2 = true ∧
        (t.slotsAt n).closing = (s.slotsAt n).closing ++ [(c, id)]) ∧
      (s.slotState n ∈ [2, 4, 5] → t.slotState n = 0 ∧
        ((c, id) ∉ (s.slotsAt n).cancels → t.ended c id stOk (s.slotDelivered n))))) ∧
  (∀ (c id : Nat) (s : State) (p : Pkt), s.issued c id 0x64 p → Answers (.reqCancel c id) s fun t =>
    let n := p.f 2 12 0
    let met := if p.aux = [] then (if s.slotOk n (s.partOf c) then s.slotState n else 9) else nth p.aux 0
    (∀ m, m ≠ n → t.slotsAt m = s.slotsAt m) ∧
    (met = 9 → t.ended c id stProt (wordDetail 2 0)) ∧ (met = 0 → t.ended c id stBadParam (wordDetail 2 0)) ∧
    (met = 1 ∨ met = 3 → t.stands c id .waiting) ∧ (met = 2 → t.ended c id stCancelled (s.cancelDetail n)) ∧
    (met = 4 ∨ met = 5 → t.ended c id stOk (s.cancelDetail n)) ∧
    (p.aux = [] → met = 2 → t.slotState n = 5) ∧
    (p.aux = [] → met = 1 ∨ met = 3 → t.slotState n = met ∧ t.slotFlag n 2 = true ∧ (c, id) ∈ (t.slotsAt n).cancels) ∧
    (p.aux ≠ [] ∨ met ∉ [1, 2, 3] → t.slots = s.slots)) ∧
  ∀ (n : Nat) (s : State), n < 8192 → s.opens ⟨.srvCancel, 0, 0, 0⟩ = true → Answers (.cancelRegister n) s fun t =>
    (∀ m, m ≠ n → t.slotsAt m = s.slotsAt m) ∧
    (s.slotState n = 0 → t.slots = s.slots ∧ t.flag F.srvStatus_cancelIgnored = true ∧ SameRegs [.srvStatus] s t) ∧
    (s.slotState n = 1 ∨ s.slotState n = 3 → t.slotState n = s.slotState n ∧ t.slotFlag n 2 = true) ∧
    (s.slotState n = 2 → t.slotState n = 5) ∧ (s.slotState n ∈ [4, 5] → t.slots = s.slots ∧ SameRegs [] s t)

/-- SAMPLE, where its accesses meet no error and no fault and its tokens can be paid, ends ST_OK with a token drawn
for every row that draws one, in entry order, pending for its entry and stored in its tensor; a degenerate draw is
counted and flagged in its slot. Where STEP_BEGIN's operation runs to its end and its tokens can be paid, no step was
open before; then one is open under the packet's STEP_ID and issue number, with HB_SPLIT_CFG latched, no token pending
and no STEP_END seen, STEP_OPEN reads 1, the context's scalars, predicates and event counters are checkpointed, and
every slot its table names that was OPEN is ACTIVE while every other slot it names is FINISHED or CANCELLED as it was.
Rests on 09_serving_engine (R293, R294, R300), 01_split_layer (R19), 16_errors_recovery (R457). -/
def Obligations.StepBeginOpensTheStep : Prop :=
  (∀ (c id : Nat) (s : State) (p : Pkt) (st : Step) (toks : List (Nat × Bool)) (ps : List Wr),
    s.ready c id 0x65 p (sampleBody c p (s.acc c)) → (s.ctxsAt c).step = some st →
    s.finds (plans (s.acc c) (sampleReads p st (s.acc c)) fun v => (p.desc 4).storeAll (v.map Prod.fst) []) (toks, ps) →
    Answers (.sample c id) s fun t =>
      let es := st.drawn.zip toks
      t.ended c id stOk 0 ∧ (t.ctxsAt c).step = some { st with pend := es.map fun (e, k) => (e.1, k.1) } ∧
      t.fld F.srvDegenerate_count = satAdd 64 (s.fld F.srvDegenerate_count) (es.filter fun e => e.2.2).length ∧
      (∀ e ∈ es, e.2.2 = true → e.1.1 ∉ st.gone → t.slotFlag e.1.2 3 = true) ∧
      ((∀ e ∈ es, e.2.2 = false) → t.slots = s.slots ∧
        ((p.desc 4).apart [p.desc 2] = true → ∀ a, t.seen a = s.after ps a))) ∧
  ∀ (c id : Nat) (s : State) (p : Pkt) (f : Fin), c < 256 → s.issued c id 0x60 p →
    (s.runs (stepBeginBody c p (s.acc c))).1 = .ok f → s.affords c p (stepBeginBody c p (s.acc c)) →
    (s.ctxsAt c).step = none ∧ Answers (.stepBegin c id) s fun t =>
      t.flag F.clrCtxStatus_stepOpen c = true ∧
      (t.ctxsAt c).enc.scalars = (List.range 64).map (s.scalar c) ∧ (t.ctxsAt c).enc.preds = s.fld F.clrPred_p c ∧
      (t.ctxsAt c).enc.events = (List.range 32).map (fun e => s.fld F.clrEvent_count c e) ∧
      ∃ st, (t.ctxsAt c).step = some st ∧ st.stepId = p.f 2 31 0 ∧ st.first = id ∧
        st.attnMax = s.fld F.hbSplitCfg_attnNearMax ∧ st.expertMax = s.fld F.hbSplitCfg_expertNearMax ∧
        st.pend = [] ∧ st.ending = none ∧ st.rows.length = p.f 2 45 32 ∧
        ∀ r ∈ st.rows, (s.slotState (rowSlot r) = 2 → t.slotState (rowSlot r) = 3) ∧
          (s.slotState (rowSlot r) ≠ 2 → t.slotState (rowSlot r) = s.slotState (rowSlot r) ∧ 4 ≤ s.slotState (rowSlot r))

/-- A STEP_END that names the open step waits, and the step knows it; another ends ST_BAD_PARAM naming W2. At the
commit point, where the commit's operation runs to its end and its tokens can be paid, the step is closed and STEP_END
ends ST_OK with the operation's DETAIL (encores and tokens delivered). Where the encores are exhausted, the step is
closed and STEP_END ends ST_ENCORE_EXHAUSTED with the encores run and the marked entry in DETAIL. Rests on
09_serving_engine (R295, R296), 16_errors_recovery (R462), 02_command_stream (R72). -/
def Obligations.StepEndAndCommit : Prop :=
  (∀ (c id : Nat) (s : State) (p : Pkt), s.issued c id 0x61 p → Answers (.stepEnd c id) s fun t =>
    SameRegs followers s t ∧ SameStore s t ∧ t.slots = s.slots ∧
    (∀ st, (s.ctxsAt c).step = some st → st.stepId = p.f 2 31 0 →
      t.stands c id .waiting ∧ (t.ctxsAt c).step = some { st with ending := some id }) ∧
    ((∀ st, (s.ctxsAt c).step = some st → st.stepId ≠ p.f 2 31 0) →
      t.ended c id stBadParam (wordDetail 2 0) ∧ (t.ctxsAt c).step = (s.ctxsAt c).step)) ∧
  (∀ (c id : Nat) (s : State) (p : Pkt) (f : Fin), s.loaded c = true → s.callerUp c = true → s.pkt c id = some p → p.op = 0x61 → p.st = .waiting →
    s.atCommit c id = true → (s.ctxsAt c).enc.dead = none → (s.runs (commitBody c (s.acc c))).1 = .ok f →
    s.affords c p (commitBody c (s.acc c)) → Answers (.stepCommit c id) s fun t =>
      t.ended c id stOk f.detail ∧ (t.ctxsAt c).step = none ∧ f.detail % 65536 = (s.ctxsAt c).enc.count % 256) ∧
  ∀ (c id i : Nat) (s : State) (p : Pkt), s.loaded c = true → s.callerUp c = true → s.pkt c id = some p → p.op = 0x61 → p.st = .waiting →
    s.atCommit c id = true → (s.ctxsAt c).enc.dead = some i → Answers (.stepCommit c id) s fun t =>
      t.ended c id stEncoreExhausted ((s.ctxsAt c).enc.count % 256 + i * 2 ^ 32) ∧ (t.ctxsAt c).step = none

/-- One entry of a commit, on slot n. With a cancel latched, a slot not yet CANCELLED becomes CANCELLED, its FLAGS
byte is 1, and DROPPED is set exactly where a token was pending; one CANCELLED before keeps its state. An entry whose
slot was freed in the step changes nothing; one that was FINISHED or CANCELLED at STEP_BEGIN keeps its slot. One
without SAMPLE or without a pending token becomes OPEN. Otherwise, where the delivery's accesses run, DELIVERED and
HIST_NOW rise by one, LAST_TOKEN and STEP_ID are the step's, and the request is FINISHED with STOPPED where the token
is a stop token, FINISHED with MAXED where DELIVERED reaches MAX_TOKENS, else OPEN. Rests on 09_serving_engine (R286,
R296). -/
def Obligations.CommitRowTable : Prop :=
  ∀ (s : State) (ac : Acc) (st : Step) (i r : Nat),
    let n := rowSlot r
    let tok := (st.pend.find? fun e => e.1 == i).map Prod.snd
    let o := s.runs (commitRows ac st i [r])
    let t := o.2.2
    (i ∈ st.gone → o.1 = .ok ([0], 0) ∧ t = s) ∧
    (i ∉ st.gone → s.slotFlag n 2 = true → o.1 = .ok ([if s.slotState n = 5 then 0 else 1], 0) ∧ t.slotState n = 5 ∧
      (tok.isSome = true → t.slotFlag n 7 = true) ∧ (tok = none → t.slotFlag n 7 = s.slotFlag n 7)) ∧
    (i ∉ st.gone → s.slotFlag n 2 = false → i ∈ st.idle → o.1 = .ok ([0], 0) ∧ t.slots = s.slots) ∧
    (i ∉ st.gone → s.slotFlag n 2 = false → i ∉ st.idle → rowSample r = false ∨ tok = none →
      o.1 = .ok ([0], 0) ∧ t.slotState n = 2 ∧ t.slotDelivered n = s.slotDelivered n) ∧
    (i ∉ st.gone → s.slotFlag n 2 = false → i ∉ st.idle → rowSample r = true → ∀ v, tok = some v → o.1.isOk = true →
      t.slotDelivered n = (s.slotDelivered n + 1) % 2 ^ 32 ∧ t.slotF n 23 31 0 = (s.slotF n 23 31 0 + 1) % 2 ^ 32 ∧
      t.slotF n 22 63 0 = (st.stepId * 2 ^ 32 + v) % 2 ^ 64 ∧
      let stop := v ≠ 0xFFFFFFFF ∧ v ∈ [s.slotF n 13 31 0, s.slotF n 13 63 32, s.slotF n 14 31 0, s.slotF n 14 63 32]
      (stop → t.slotState n = 4 ∧ t.slotFlag n 5 = true ∧ o.1 = .ok ([1], 1)) ∧
      (¬stop → s.slotDelivered n + 1 = s.slotF n 4 63 32 → t.slotState n = 4 ∧ t.slotFlag n 6 = true ∧ o.1 = .ok ([1], 1)) ∧
      (¬stop → s.slotDelivered n + 1 ≠ s.slotF n 4 63 32 → t.slotState n = 2 ∧ o.1 = .ok ([0], 1)))

/-- Where every access meets no error and no fault, and the tokens can be paid: KV_APPEND, its units NEAR and free,
ends ST_OK with the pages opened and the rows written that its work leaves; ATTEND likewise stores the output rows of
every sequence and counts each as near or on cores; KV_RELEASE leaves memory as the pages that it gives back leave it,
and counts none where all are shared; PREFIX_LOOKUP and PREFIX_INSERT, in their turn, store a result record for every
page's hash, every one a miss where the index is not in use, and raise the counters by the pages, hits, entries made
and entries evicted; KV_MOVE counts the pages of its list; ADAPTER_BIND unbinds an adapter of the partition that no
request uses, or binds it to an image that lies in the deep tier, within the rank limit and the quota. Nothing else
changes. A write of SRV_REQ_SEL puts the 24 words of the slot into the data registers together; one of SRV_ADAPTER_SEL
the adapter's image, users, partition, rank and whether it is bound, the image 0 where it is not. LOAD copies the two
key registers into the selected key slot and clears them; CLEAR empties the slot; the status register's VALID follows.
No other key slot, no other register and no storage changes. Rests on 01_split_layer (R17), 08_attention_kv (R265,
R266, R267, R269, R270, R273, R275, R276, R279), 09_serving_engine (R286, R289, R306). -/
def Obligations.SnapshotsAndPrefixKeys : Prop :=
  (∀ (c id : Nat) (s : State) (p : Pkt) (us : List Nat), s.ready c id 0x50 p (kvAppendBody p (s.acc c)) →
    s.unitsReady c 4 us → s.finds (appendWork p (s.acc c)) (us, []) → Answers (.kvAppend c id) s fun t =>
      t.ended c id stOk 0 ∧ t.slots = s.slots ∧ t.adapters = s.adapters ∧
      SameStore (s.runs (appendWork p (s.acc c))).2.2 t ∧ SameRegs (unitCounters ++ counters ++ followers) s t ∧
      (t.pkt c id).map Pkt.seqIdx = some 0xFFFFFFFF) ∧
  (∀ (c id : Nat) (s : State) (p : Pkt) (words us : List Nat)
    (rs : List (Except (Nat × Stop) (List (List Wr × Nat × Nat)))) (ps : List Wr),
    s.ready c id 0x51 p (attendBody p (s.acc c)) → s.unitsReady c 4 us → (∀ r ∈ rs, r.isOk = true) →
    s.finds (plans (s.acc c) (attendWork p (s.acc c)) fun v => attendWrites v.2.2.2) ((words, us, [], rs), ps) →
    Answers (.attend c id) s fun t => t.ended c id stOk 0 ∧ t.slots = s.slots ∧ t.adapters = s.adapters ∧
      t.fld F.hbAttnNearSeqs_count = satAdd 64 (s.fld F.hbAttnNearSeqs_count) (p.placed words true) ∧
      t.fld F.hbAttnCoreSeqs_count = satAdd 64 (s.fld F.hbAttnCoreSeqs_count) (p.placed words false) ∧
      SameRegs ([.hbAttnNearSeqs, .hbAttnCoreSeqs, .hbAttnJoins] ++ unitCounters ++ counters ++ followers) s t ∧
      ((p.desc 5).apart [p.desc 2, p.desc 10] = true → ∀ a, t.seen a = (s.runs (attendWork p (s.acc c))).2.2.after ps a)) ∧
  (∀ (c id : Nat) (s : State) (p : Pkt) (l : List (Nat × (Bool × Nat) × Nat × Nat)) (f : Fin),
    s.ready c id 0x52 p (kvReleaseBody p (s.acc c)) → s.engineTurn c id 0x52 = true →
    s.finds (kvReleases (s.acc c) p.kv) l → s.finds (kvReleaseBody p (s.acc c)) f → Answers (.kvRelease c id) s fun t =>
      t.ended c id stOk 0 ∧ t.slots = s.slots ∧ SameStore (s.runs (kvReleaseBody p (s.acc c))).2.2 t ∧
      SameRegs (.hbKvPagesReleased :: counters ++ followers) s t ∧
      ((∀ y ∈ l, entryShared y.2.2.2 = true) → t.fld F.hbKvPagesReleased_count = s.fld F.hbKvPagesReleased_count)) ∧
  (∀ (c id : Nat) (s : State) (p : Pkt) (hs : List Nat) (bs : List Byte) (n : Nat) (ps : List Wr),
    s.ready c id 0x53 p (prefixLookupBody p (s.acc c)) → s.engineTurn c id 0x53 = true →
    s.finds (plans (s.acc c) (lookupWork p (s.acc c)) fun v => resultWrites p v.1.length v.2.2 v.2.1) ((hs, bs, n), ps) →
    Answers (.prefixLookup c id) s fun t => t.ended c id stOk 0 ∧ t.slots = s.slots ∧ t.keys = s.keys ∧
      (∀ a, t.seen a = (s.runs (lookupWork p (s.acc c))).2.2.after ps a) ∧
      t.fld F.srvPfxLookups_count = satAdd 64 (s.fld F.srvPfxLookups_count) hs.length ∧
      t.fld F.srvPfxHits_count = satAdd 64 (s.fld F.srvPfxHits_count) n ∧
      SameRegs ([.srvPfxLookups, .srvPfxHits] ++ counters ++ followers) s t ∧
      (s.pfxLive p (s.acc c).part = false →
        n = 0 ∧ bs = hs.flatMap (fun h => pfxResult h 0 0 0) ∧ ∀ a, t.seen a = s.after ps a)) ∧
  (∀ (c id : Nat) (s : State) (p : Pkt) (hs : List Nat) (bs : List Byte) (os : List Nat) (ps : List Wr),
    s.ready c id 0x54 p (prefixInsertBody p (s.acc c)) → s.engineTurn c id 0x54 = true →
    s.finds (plans (s.acc c) (insertWork p (s.acc c)) fun v => resultWrites p v.1.length (newPages v.2.2) v.2.1)
      ((hs, bs, os), ps) →
    Answers (.prefixInsert c id) s fun t => t.ended c id stOk 0 ∧ t.slots = s.slots ∧ t.keys = s.keys ∧
      (∀ a, t.seen a = (s.runs (insertWork p (s.acc c))).2.2.after ps a) ∧
      t.fld F.srvPfxLookups_count = satAdd 64 (s.fld F.srvPfxLookups_count) hs.length ∧
      t.fld F.srvPfxInserts_count = satAdd 64 (s.fld F.srvPfxInserts_count) (newPages os) ∧
      t.fld F.srvPfxEvicts_count = satAdd 64 (s.fld F.srvPfxEvicts_count) (os.filter (· == 2)).length ∧
      SameRegs ([.srvPfxLookups, .srvPfxInserts, .srvPfxEvicts] ++ counters ++ followers) s t ∧
      (s.pfxLive p (s.acc c).part = false →
        newPages os = 0 ∧ bs = hs.flatMap (fun h => pfxResult h 0 0 3) ∧ ∀ a, t.seen a = s.after ps a)) ∧
  (∀ (c id : Nat) (s : State) (p : Pkt) (f : Fin), s.ready c id 0x55 p (kvMoveBody p (s.acc c)) →
    s.finds (kvMoveBody p (s.acc c)) f → Answers (.kvMove c id) s fun t => t.ended c id stOk 0 ∧ t.slots = s.slots ∧
      t.fld F.hbKvPagesMoved_count = satAdd 64 (s.fld F.hbKvPagesMoved_count) (bits (nth (p.captured 200) 0) 31 0) ∧
      SameRegs (.hbKvPagesMoved :: counters ++ followers) s t ∧ SameStore (s.runs (kvMoveBody p (s.acc c))).2.2 t) ∧
  (∀ (c id : Nat) (s : State) (p : Pkt), s.ready c id 0x66 p (adapterBindBody p (s.acc c)) →
    let n := p.f 2 11 0
    let x := s.adaptersAt n
    let rank := p.f 4 7 0
    let part := (s.acc c).part
    let binds (y : Adapter) : Prop := Answers (.adapterBind c id) s fun t => t.ended c id stOk 0 ∧ t.adaptersAt n = y ∧
      (∀ m, m ≠ n → t.adaptersAt m = s.adaptersAt m) ∧ t.slots = s.slots ∧ (∀ a, t.seen a = s.seen a) ∧
      SameRegs (counters ++ followers) s t
    (x.bound = true → x.part = part ∧ x.users = 0) →
    (p.b 4 8 = true → p.w 3 = 0 → rank = 0 → binds {}) ∧
    (p.b 4 8 = false → p.w 3 % 4096 = 0 → s.finds (liesIn (s.acc c) (p.w 3) 512 true) true → 0 < rank →
      rank ≤ bits (s.fld F.featAdapters_value) 23 16 →
      (x.bound = false → s.adaptersHeld part < s.inForce F.schPartQuota_adapters part) →
      binds { bound := true, image := p.w 3, part := part, rank := rank, users := 0 })) ∧
  (∀ (n : Nat) (s : State), n < 8192 → s.opens ⟨.srvReqSel, 0, 0, 0⟩ = true → Answers (.reqSnapshot n) s fun t =>
    t.fld F.srvReqSel_slot = n ∧ (∀ i, i < 24 → t.reg ⟨.srvReqData, i, 0, 0⟩ = s.slotW n i % 2 ^ 64) ∧
    SameRegs [.srvReqSel, .srvReqData] s t ∧ t.slots = s.slots ∧ SameStore s t) ∧
  (∀ (n : Nat) (s : State), n < 4096 → s.opens ⟨.srvAdapterSel, 0, 0, 0⟩ = true → Answers (.adapterSnapshot n) s fun t =>
    let x := s.adaptersAt n
    t.fld F.srvAdapterSel_adapter = n ∧ t.flag F.srvAdapterData1_bound = x.bound ∧
    (x.image < 2 ^ 52 → t.fld F.srvAdapterData0_image = if x.bound then x.image else 0) ∧
    (x.part < 16 → t.fld F.srvAdapterData1_partition = x.part) ∧ (x.rank < 256 → t.fld F.srvAdapterData1_rank = x.rank) ∧
    (x.users < 2 ^ 14 → t.fld F.srvAdapterData1_users = x.users) ∧
    SameRegs [.srvAdapterSel, .srvAdapterData0, .srvAdapterData1] s t ∧ t.adapters = s.adapters ∧ SameStore s t) ∧
  (∀ s : State, s.opens ⟨.srvPfxKeyCtrl, 0, 0, 0⟩ = true → Answers .pfxKeyLoad s fun t =>
    t.keysAt s.keySel = some (s.fld F.srvPfxKeyLo_key + 2 ^ 64 * s.fld F.srvPfxKeyHi_key) ∧
    (∀ k, k ≠ s.keySel → t.keysAt k = s.keysAt k) ∧ t.fld F.srvPfxKeyLo_key = 0 ∧ t.fld F.srvPfxKeyHi_key = 0 ∧
    t.flag F.srvPfxKeyStatus_valid = true ∧ SameRegs [.srvPfxKeyLo, .srvPfxKeyHi, .srvPfxKeyStatus] s t ∧ SameStore s t) ∧
  ∀ s : State, s.opens ⟨.srvPfxKeyCtrl, 0, 0, 0⟩ = true → Answers .pfxKeyClear s fun t =>
    t.keysAt s.keySel = none ∧ (∀ k, k ≠ s.keySel → t.keysAt k = s.keysAt k) ∧ t.flag F.srvPfxKeyStatus_valid = false ∧
    SameRegs [.srvPfxKeyStatus] s t ∧ SameStore s t

/-- With a failure recorded in an open step that is not stopped, ENCORE_START stops issue for the context and keeps
the failure and the step. Once the step's packets in flight have completed, ENCORE_RERUN, where the failure
did not exhaust the encores, gives scalars, predicates and event counters their values at STEP_BEGIN, counts one encore, forgets the
failure and the pending tokens, and puts the logged ring packets before the ring, the first run's STEP_END left out
where it waits; where the failure exhausted them and no STEP_END waits, it ends the stop and marks for replay the requests of the
step, or of the one entry that every failing access belonged to. Rests on 16_errors_recovery
(R459, R460, R462, R463). -/
def Obligations.EncoreStopsAndReruns : Prop :=
  (∀ (c : Nat) (s : State) (st : Step) (f : StepFail), (s.ctxsAt c).step = some st → (s.ctxsAt c).enc.fail = some f →
    (s.ctxsAt c).enc.stopped = false → Answers (.encoreStart c) s fun t =>
      (t.ctxsAt c).enc.stopped = true ∧ (t.ctxsAt c).enc.replay = [] ∧ (t.ctxsAt c).enc.fail = some f ∧
      (t.ctxsAt c).step = some st ∧ SameRegs followers s t ∧ SameStore s t) ∧
  (∀ (c : Nat) (s : State) (st : Step) (f : StepFail), c < 256 → s.encoreReady c = true → (s.ctxsAt c).step = some st →
    (s.ctxsAt c).enc.fail = some f → f.spent = false → Answers (.encoreRerun c) s fun t =>
      let e := (s.ctxsAt c).enc
      let x := (t.ctxsAt c).enc
      (∀ i, i < 64 → t.scalar c i = nth e.scalars i % 2 ^ 64) ∧ t.fld F.clrPred_p c = e.preds % 256 ∧
      (∀ i, i < 32 → t.fld F.clrEvent_count c i = nth e.events i % 2 ^ 64) ∧
      t.fld F.hbEncores_count = satAdd 64 (s.fld F.hbEncores_count) 1 ∧
      x.count = e.count + 1 ∧ x.fail = none ∧ x.stopped = false ∧ x.rerun = true ∧ x.log = e.log ∧
      (st.ending = none → x.replay = e.log) ∧ ((t.ctxsAt c).step.map Step.pend) = some []) ∧
  ∀ (c : Nat) (s : State) (st : Step) (f : StepFail), s.encoreReady c = true → (s.ctxsAt c).step = some st →
    (s.ctxsAt c).enc.fail = some f → f.spent = true → st.ending = none → Answers (.encoreRerun c) s fun t =>
      let i := replayEntry st f
      (t.ctxsAt c).enc.dead = some i ∧ (t.ctxsAt c).enc.stopped = false ∧ (t.ctxsAt c).enc.fail = none ∧
      ∀ r ∈ st.rows, (i = 0xFFFFFFFF ∨ nth st.rows i = r) → (t.slotsAt (rowSlot r)).marked = true

/-- For each of the four kinds, an issued collective that owns its group's turn reads its send operand and waits;
while some member is not yet ADMITTED and none of its partners is LOST, nothing more happens. In a rerun of a step
whose first run logged it, it ends ST_OK with the logged DETAIL. Once its time-out has passed, silence of a partner
ends it ST_PEER_LOST, and a member that is not ADMITTED before it has begun ends it ST_PEER_UNAUTH, DETAIL naming the
rank, and the group is BROKEN. Rests on 11_fabric_collectives (R353, R358, R360). -/
def Obligations.CollectivesStartAndFail : Prop :=
  (∀ (i : Nat → Nat → Instr) (op : Nat), (i, op) ∈ [(Instr.allReduce, 0x70), (.allGather, 0x71), (.reduceScatter, 0x72), (.allToAll, 0x73)] →
    (∀ (c id : Nat) (s : State) (p : Pkt) (k : Coll) (vs : List (Nat × Nat)), s.issued c id op p → s.logged c p = none →
      (s.grp (p.f 2 9 0)).coll = some k → k.owner = some (c, id) → k.begun = false →
      (s.runs (rdTensor (s.acc c) (p.desc 3))).1 = .ok vs → s.affords c p (rdTensor (s.acc c) (p.desc 3)) →
      (∃ r ∈ (s.grp (p.f 2 9 0)).others, s.peerState ((s.grp (p.f 2 9 0)).peerOf r) ≠ 2) →
      s.lostRank (s.grp (p.f 2 9 0)) k = none → Answers (i c id) s fun t =>
        (t.pkt c id).map Pkt.st = ((s.runs (rdTensor (s.acc c) (p.desc 3))).2.2.pkt c id).map (fun _ => PState.waiting) ∧
        (t.grp (p.f 2 9 0)).coll.map Coll.own =
          some (vs.map fun v => if reduces (op % 4) then widenSend (p.desc 3).fmt v.1 else v.1)) ∧
    ∀ (c id d : Nat) (s : State) (p : Pkt), s.issued c id op p → s.logged c p = some d → Answers (i c id) s fun t =>
      t.ended c id stOk d ∧ SameRegs followers s t ∧ SameStore s t) ∧
  (∀ (g rank c id : Nat) (s : State) (k : Coll) (p : Pkt), g < 1024 → (s.grp g).coll = some k → k.owner = some (c, id) →
    s.pkt c id = some p → k.begun = true → rank ∈ partnersOf k.kind (s.grp g).rank (s.grp g).size →
    max (Tab.get 0 k.heard rank) k.issuedAt + k.timeout ≤ s.now → Answers (.collectiveSilence g rank) s fun t =>
      t.ended c id stPeerLost rank ∧ t.fld F.reelGroupState_state g = 3 ∧ (t.grp g).coll = none) ∧
  ∀ (c id r : Nat) (s : State) (k : Coll) (p : Pkt), s.pkt c id = some p → p.op / 16 = 7 → p.st = .waiting →
    (s.grp (p.f 2 9 0)).coll = some k → k.owner = some (c, id) → k.begun = false → k.issuedAt + k.timeout ≤ s.now →
    (s.grp (p.f 2 9 0)).others.find? (fun r => s.peerState ((s.grp (p.f 2 9 0)).peerOf r) != 2) = some r →
    Answers (.collectiveAdmissionTimeout c id) s fun t =>
      t.ended c id stPeerUnauth r ∧ t.fld F.reelGroupState_state (p.f 2 9 0) = 3 ∧ (t.grp (p.f 2 9 0)).coll = none

/-- A failed execution of a tile of an issued packet on a core that can have run it (a logical core at first, then a
free spare where there is one) marks the packet RECOVERED. The first and second failure of a tile let it execute again
and count one retried part and one re-executed tile; the third exhausts a part of the packet and counts neither. A
checksum failure that the array injector has armed for that core disarms it and gives no strike; any other failure
gives the core a strike, and two strikes that count retire it. Rests on 03_cores_and_sets (R96, R97, R98),
04_matrix_array (R136), 16_errors_recovery (R454, R455). -/
def Obligations.TileFailuresStrikeAndExhaust : Prop :=
  ∀ (c id d st core cause : Nat) (s : State) (p : Pkt), d < 2 → st < 40 → core < 130 → (cause % 4 = 1 ∨ cause % 4 = 2) →
    cause / 4 < 3 → s.runsOn c id d st = true → s.pkt c id = some p → cause / 4 ≤ p.tries → p.exhausted = false →
    s.executes d st core (cause / 4) = true → Answers (.tileReexecution c id d st core cause) s fun t =>
      let loc := coreKey d st core
      let armed := cause % 4 = 1 ∧ s.armedFor d st core = true
      t.pkt c id = some { p with tries := p.tries + 1, recovered := true, exhausted := decide (cause / 4 = 2) } ∧
      (cause / 4 < 2 → t.fld F.hbPartRetries_count = satAdd 64 (s.fld F.hbPartRetries_count) 1 ∧
        t.fld F.cdSetReexecTiles_count d st = (s.fld F.cdSetReexecTiles_count d st + 1) % 2 ^ 64) ∧
      (cause / 4 = 2 → t.fld F.hbPartRetries_count = s.fld F.hbPartRetries_count ∧
        t.fld F.cdSetReexecTiles_count d st = s.fld F.cdSetReexecTiles_count d st) ∧
      (armed → t.flag F.cdArrayInject_arm d = false ∧ t.strikes = s.strikes ∧
        t.flag F.cdCoreStatus_retired d st core = false) ∧
      (¬armed → t.strikes = s.strikes ++ [{ loc := loc, unit := false, time := s.now }] ∧
        t.fld F.cdCoreStatus_strikes d st core = min (t.strikesOf d loc false) 2 ∧
        t.flag F.cdCoreStatus_retired d st core = decide (2 ≤ t.strikesOf d loc false))

/-- At the tile boundary a core that leaves gives its logical number to the first spare that is free, or, with none
free, the set becomes RETIRING with 127 active cores; the core carries no number. At the packet boundary a RETIRING
set becomes RETIRED with no active core, is held by no context and is in service no more. Strikes older than the
window are forgotten and only those. Rewriting the stored ages stores one entry per strike and keeps every other entry
of the log; before the log has been applied nothing is rewritten. Rests on 03_cores_and_sets (R97, R98, R100),
10_partitions_scheduling (R328). -/
def Obligations.SparesTakeOverAndSetsLeave : Prop :=
  (∀ (d st core : Nat) (s : State), d < 2 → st < 40 → core < 130 → s.fld F.cdSetStatus_state d st < 6 →
    core ∈ (s.setsAt (40 * d + st)).leaving → Answers (.spareTakeover d st core) s fun t =>
      core ∉ (t.setsAt (40 * d + st)).leaving ∧ SameStore s t ∧
      match [128, 129].find? (fun k => s.spareOf d st k == 0xFF && k != core) with
      | some sp => t.spareOf d st sp = s.fld F.cdCoreStatus_logical d st core ∧
          t.fld F.cdCoreStatus_logical d st sp = s.fld F.cdCoreStatus_logical d st core ∧
          t.fld F.cdCoreStatus_logical d st core = 0xFF ∧ t.fld F.cdSetStatus_state d st = s.fld F.cdSetStatus_state d st
      | none => t.fld F.cdSetStatus_state d st = 5 ∧ t.fld F.cdSetStatus_activeCores d st = 127 ∧
          t.fld F.cdCoreStatus_logical d st core = 0xFF) ∧
  (∀ (d st : Nat) (s : State), d < 2 → st < 40 → s.fld F.cdSetStatus_state d st = 5 → s.atBoundary d st = true →
    Answers (.setLeaveService d st) s fun t =>
      t.fld F.cdSetStatus_state d st = 6 ∧ t.fld F.cdSetStatus_activeCores d st = 0 ∧ t.holderOf (40 * d + st) = none ∧
      bit (t.fld F.cdSetsInService_mask d) st = false) ∧
  (∀ s : State, Answers .strikeExpiry s fun t =>
    t.strikes = s.strikes.filter (fun k => s.strikeLive k.die k) ∧ t.retlog = s.retlog ∧ SameStore s t ∧
      SameRegs [.cdCoreStatus, .galUnitState] s t) ∧
  (∀ s : State, s.rst.published = false → exec .strikeAgeRewrite s = .next s) ∧
  ∀ s : State, s.rst.published = true → Answers .strikeAgeRewrite s fun t =>
    t.strikes = s.strikes ∧ t.retlog = s.strikeLog ++ s.retlog.filter (fun e => decide (2 ≤ e.1)) ∧ SameRegs [] s t ∧ SameStore s t

/-- RETIRE makes a FREE set RETIRED and out of service, one in use RETIRING, and gives every core the cause 4. TEST of
a FREE set and RETURN of a RETIRED one make it TESTING; RETURN also clears its cores' strikes. In any other state the
action changes only CTRL_IGNORED. A test that ends with at least 128 good cores makes the set FREE with 128 active
cores, and a core reads RETIRED exactly where it failed or, but for RETURN, was retired before; with fewer,
TEST_FAILED is set and the set is RETIRED. Rests on 03_cores_and_sets (R101, R104). -/
def Obligations.SetControlActions : Prop :=
  (∀ (d st : Nat) (s : State), s.opens ⟨.cdSetCtrl, d, st, 0⟩ = true → Answers (.setRetire d st) s fun t =>
    let v := s.fld F.cdSetStatus_state d st
    (v = 0 → t.fld F.cdSetStatus_state d st = 6 ∧ bit (t.fld F.cdSetsInService_mask d) st = false) ∧
    (1 ≤ v → v < 5 → t.fld F.cdSetStatus_state d st = 5 ∧ SameRegs [.cdCoreStatus, .cdSetStatus] s t) ∧
    (v < 5 → ∀ k, k < 130 → t.fld F.cdCoreStatus_cause d st k = 4) ∧
    (5 ≤ v → t.flag F.cdSetStatus_ctrlIgnored d st = true ∧ t.fld F.cdSetStatus_state d st = v ∧ SameRegs [.cdSetStatus] s t)) ∧
  (∀ (d st : Nat) (s : State), s.opens ⟨.cdSetCtrl, d, st, 0⟩ = true → Answers (.setTest d st) s fun t =>
    let v := s.fld F.cdSetStatus_state d st
    SameRegs [.cdSetStatus] s t ∧ t.strikes = s.strikes ∧
    (v = 0 → t.fld F.cdSetStatus_state d st = 7) ∧
    (v ≠ 0 → t.fld F.cdSetStatus_state d st = v ∧ t.flag F.cdSetStatus_ctrlIgnored d st = true)) ∧
  (∀ (d st : Nat) (s : State), s.opens ⟨.cdSetCtrl, d, st, 0⟩ = true → Answers (.setReturn d st) s fun t =>
    let v := s.fld F.cdSetStatus_state d st
    SameRegs [.cdSetStatus, .cdCoreStatus] s t ∧
    (v = 6 → t.fld F.cdSetStatus_state d st = 7 ∧ ∀ k, k < 130 → t.fld F.cdCoreStatus_strikes d st k = 0 ∧
      t.strikesOf d (coreKey d st k) false = 0) ∧
    (v ≠ 6 → t.fld F.cdSetStatus_state d st = v ∧ t.flag F.cdSetStatus_ctrlIgnored d st = true)) ∧
  ∀ (d st : Nat) (fails : List Nat) (s : State), d < 2 → st < 40 → s.fld F.cdSetStatus_state d st = 7 →
    Answers (.setTestDone d st fails) s fun t =>
      let bad (k : Nat) : Bool := fails.contains k || (!(s.setsAt (40 * d + st)).ret && s.flag F.cdCoreStatus_retired d st k)
      (∀ k, k < 130 → t.flag F.cdCoreStatus_retired d st k = bad k) ∧
      (128 ≤ ((List.range 130).filter fun k => !bad k).length →
        t.fld F.cdSetStatus_state d st = 0 ∧ t.fld F.cdSetStatus_activeCores d st = 128) ∧
      (((List.range 130).filter fun k => !bad k).length < 128 →
        t.fld F.cdSetStatus_state d st = 6 ∧ t.flag F.cdSetStatus_testFailed d st = true ∧ t.fld F.cdSetStatus_activeCores d st = 0)

/-- A retry of a flit on a link that is there and not shut counts; one that passes ends the run of failures, and the
sixteenth failure in a row shuts the link. SNAP copies every performance counter of the die into its snapshot and
reads busy, changing no counter, and CLEAR makes every live and snapshot counter of the die 0; both are ignored while
a snapshot is being taken; its end clears SNAP_BUSY. Rests on 03_cores_and_sets (R91, R107). -/
def Obligations.MeshRetriesAndPerfCounters : Prop :=
  (∀ (d router dir : Nat) (ok : Bool) (s : State), meshLink d router dir = true →
    dir ∉ (s.setsAt (40 * d + router)).shut → Answers (.meshFlitRetry d router dir ok) s fun t =>
      let n := Tab.get 0 (s.setsAt (40 * d + router)).fails dir + 1
      let x := t.setsAt (40 * d + router)
      t.fld F.cdMeshRetries_count d = satAdd 64 (s.fld F.cdMeshRetries_count d) 1 ∧
      (ok = true → Tab.get 0 x.fails dir = 0 ∧ dir ∉ x.shut ∧ SameRegs [.cdMeshRetries] s t) ∧
      (ok = false → n ≠ 16 → Tab.get 0 x.fails dir = n ∧ dir ∉ x.shut ∧ SameRegs [.cdMeshRetries] s t) ∧
      (ok = false → n = 16 → Tab.get 0 x.fails dir = 0 ∧ dir ∈ x.shut)) ∧
  (∀ (d : Nat) (s : State), s.Inv → s.opens ⟨.cdPerfCtrl, d, 0, 0⟩ = true → s.flag F.cdPerfCtrl_snapBusy d = false →
    Answers (.perfSnap d) s fun t =>
      t.flag F.cdPerfCtrl_snapBusy d = true ∧ SameRegs [.cdPerfCtrl] s t ∧
      (∀ r : Reg, r.exists = true → isPerf r.name = true → r.i = d → Bank.get t.snap r = Bank.get s.bank r) ∧
      ∀ r : Reg, ¬(isPerf r.name = true ∧ r.i = d) → Bank.get t.snap r = Bank.get s.snap r) ∧
  (∀ (d : Nat) (s : State), s.opens ⟨.cdPerfCtrl, d, 0, 0⟩ = true → s.flag F.cdPerfCtrl_snapBusy d = false →
    Answers (.perfClear d) s fun t =>
      (∀ r : Reg, isPerf r.name = true → r.i = d → t.reg r = 0 ∧ Bank.get t.snap r = 0) ∧
      ∀ r : Reg, ¬(isPerf r.name = true ∧ r.i = d) → t.reg r = s.reg r ∧ Bank.get t.snap r = Bank.get s.snap r) ∧
  (∀ (d : Nat) (s : State), s.flag F.cdPerfCtrl_snapBusy d = true →
    exec (.perfSnap d) s = .next s ∨ s.opens ⟨.cdPerfCtrl, d, 0, 0⟩ = false) ∧
  ∀ (d : Nat) (s : State), d < 2 → s.flag F.cdPerfCtrl_snapBusy d = true → Answers (.perfSnapDone d) s fun t =>
    t.flag F.cdPerfCtrl_snapBusy d = false ∧ SameRegs [.cdPerfCtrl] s t ∧ t.snap = s.snap

/-- While the hub is out of reset a tick adds one to the serving counter modulo 2^64; with no collective known and the
dance card not running, every bucket becomes the smaller of its burst and its tokens plus its rate, and no byte of
memory changes. Past BULK_AGE_US the oldest BULK request that waits on the target, a packet's or a caller's own reads,
is promoted there. A merge time-out writes out the granule's entry and no other, and in memory without an error no
read finds a change. The scrubber moves on by one granule, past the last one to the first, when the lap's time is
taken and the next lap starts, the first lap at its first granule; memory without an error stays as it is. A lap
longer than ALARM_US sets ALARM, once a lap. Rests on 00_scope (R5), 06_memory_tiers (R178, R177, R186, R188, R189).
-/
def Obligations.MicrosecondsRequestsAndScrub : Prop :=
  ((∀ s : State, s.inReset .hub = false → Answers .servingCounterTick s fun t => t.now = (s.now + 1) % 2 ^ 64) ∧
   ∀ s : State, s.inReset .hub = false → s.cardOn = false → (∀ e ∈ s.fab.groups, e.2.coll = none ∧ e.2.ahead = none) →
     Answers .servingCounterTick s fun t =>
       SameStore s t ∧ ∀ k p, k < 61 → p < 16 →
         t.bucket k p = min (s.bucketRate k p).2 (s.bucket k p + (s.bucketRate k p).1)) ∧
  (∀ (k part : Nat) (s : State) (c : Nat) (p : Pkt) (rest : List (Nat × Pkt)), k ≤ 12 → part < 16 → s.bulkAge k ≠ 0 →
    s.promotable k part = (c, p) :: rest → (∀ e ∈ (s.promotableReads k part).head?, p.waitsSince k s.now ≤ e.2.waitsSince k s.now) →
    Answers (.bulkAgePromote k part) s fun t =>
      SameRegs [] s t ∧ SameStore s t ∧
      t.pkt c p.id = (s.pkt c p.id).map fun y => { y with promoted := y.promoted ++ [k] }) ∧
  (∀ (k part : Nat) (s : State) (q : Nat) (x : Queue) (rest : List (Nat × Queue)), k ≤ 12 → part < 16 → s.bulkAge k ≠ 0 →
    s.promotableReads k part = (q, x) :: rest → (∀ e ∈ (s.promotable k part).head?, x.waitsSince k s.now < e.2.waitsSince k s.now) →
    Answers (.bulkAgePromote k part) s fun t => SameRegs [] s t ∧ SameStore s t ∧
      t.queAt q = { s.queAt q with promoted := (s.queAt q).promoted ++ [k] }) ∧
  (∀ (gran : Nat) (s : State), s.Sound → Answers (.mergeTimeout gran) s fun t =>
    t.Sound ∧ t.merges = s.merges.filter (fun m => m.gran != gran) ∧ ∀ x, t.seen x = s.seen x) ∧
  (∀ (k ch : Nat) (s : State), s.Sound → s.chanUp k ch = true → s.fld F.pwrStatus_idle ≤ 1 →
    s.ch F.stkScrubCfg_en F.dtScrubCfg_en k ch = 1 → Answers (.scrubGranule k ch) s fun t =>
      SameStore s t ∧ (s.scrubPos k ch + 1 < chanGrans k → t.scrubPos k ch = s.scrubPos k ch + 1) ∧
      (k * 16 + ch ∉ s.tier.laps → t.ch F.stkScrubLapStart_time F.dtScrubLapStart_time k ch = s.now % 2 ^ 64) ∧
      (s.scrubPos k ch + 1 = chanGrans k → t.scrubPos k ch = 0 ∧
        t.ch F.stkScrubLapStart_time F.dtScrubLapStart_time k ch = s.now % 2 ^ 64 ∧ k * 16 + ch ∉ t.tier.alarmed)) ∧
  ∀ (k ch : Nat) (s : State), s.chanUp k ch = true → k * 16 + ch ∈ s.tier.laps → k * 16 + ch ∉ s.tier.alarmed →
    s.ch F.stkScrubAlarmUs_us F.dtScrubAlarmUs_us k ch < s.now - s.ch F.stkScrubLapStart_time F.dtScrubLapStart_time k ch →
    Answers (.scrubAlarm k ch) s fun t =>
      t.ch F.stkScrubStatus_alarm F.dtScrubStatus_alarm k ch = 1 ∧ k * 16 + ch ∈ t.tier.alarmed

/-- A parity command over rows in range, with none running and no map-out pending, is BUSY from its first row on; any
other is REFUSED and leaves what runs. At its end exactly the rows of the range are sealed, or are not sealed after
UNSEAL, which changes no byte. After a seal of memory without an error and without merge entries, in every sealed row
the bytes at one offset of the twelve stacks XOR to 0. A granule of a sealed row that is uncorrectable, its channel
GOOD and the other stacks' granules without an error, takes the XOR of theirs, and one rebuild is counted. Rests on
06_memory_tiers (R192, R193, R195). -/
def Obligations.StackParityCommands : Prop :=
  (∀ (lift : Bool) (f l : Nat) (s : State), s.opens ⟨.hbParityCmd, 0, 0, 0⟩ = true → f < 2 ^ 15 → l < 2 ^ 15 →
    Answers (if lift then .parityUnseal f l else .paritySeal f l) s fun t =>
      if s.tier.parity.isSome = true ∨ s.mapPending = true ∨ l < f ∨ 24575 < l then
        t.flag F.hbParityStatus_refused = true ∧ t.tier = s.tier ∧ SameRegs [.hbParityCmd, .hbParityStatus] s t
      else t.flag F.hbParityStatus_busy = true ∧ t.fld F.hbParityStatus_row = f ∧ t.tier.parity = some (lift, f, l)) ∧
  (∀ (lift : Bool) (f l : Nat) (s : State), s.tier.parity = some (lift, f, l) → f ≤ l → l ≤ 24575 →
    Answers .parityCmdDone s fun t =>
      t.tier.parity = none ∧ t.flag F.hbParityStatus_busy = false ∧ t.flag F.hbParityStatus_done = true ∧
      t.fld F.hbParityStatus_row = l + 1 ∧ (lift = true → SameStore s t) ∧
      (∀ r, r < 24576 → t.rowSealed r = if f ≤ r ∧ r ≤ l then !lift else s.rowSealed r) ∧
      (lift = false → s.Sound → s.merges = [] → ∀ o, o < 2 ^ 36 → f ≤ o / 2 ^ 21 → o / 2 ^ 21 ≤ l →
        (stackList.map fun n => t.byteAt (n * 2 ^ 36 + o)).foldl (· ^^^ ·) 0 = 0)) ∧
  ∀ (a : Nat) (s : State), s.sealed a = true → decode (s.devAt (a / 64)) = .bad → s.chanState a = 0 → s.tier.lost = [] →
    s.errOpen = false → (∀ g, g ≠ a / 64 → s.devAt g = 0) → Answers (.parityRebuild a) s fun t =>
      t.granAt (a / 64) = ((stackList.filter (· != targetOf (64 * (a / 64)))).map fun n => s.granAt (peerGran (a / 64) n)).foldr xorBytes zeroGran ∧
      t.devAt (a / 64) = 0 ∧ t.fld F.hbParityRebuilds_count = satAdd 64 (s.fld F.hbParityRebuilds_count) 1

/-- A GOOD channel becomes FAILING by a write of FAIL or once its errors have reached UE_LIMIT; a stack's units behind
it read CHANNEL, and its fifth bad channel loses the stack. With no seal and no other map-out running, an accepted
map-out starts and its new channels are MAPPING with no progress. At the switch the values in force take DEAD and
CAPACITY, the commit reads APPLIED, the new channels are MAPPED and nothing moves any more; in memory without an
error, with no row sealed and the error ring disabled, a read finds every byte below the new capacity and of every
other part of memory as before, and 0 above it. Rests on 06_memory_tiers (R197, R198, R200, R201), 16_errors_recovery
(R467). -/
def Obligations.ChannelsFailAndMapOut : Prop :=
  (∀ (k ch : Nat) (byCount : Bool) (s : State), s.chanUp k ch = true → s.ch F.stkChState_state F.dtChState_state k ch = 0 →
    (byCount = true → s.ueReached k ch = true) → (byCount = false → s.opens (if k < 12 then ⟨.stkChState, k, ch, 0⟩ else ⟨.dtChState, ch, 0, 0⟩) = true) →
    Answers (.channelFail (16 * k + ch) byCount) s fun t =>
      t.ch F.stkChState_state F.dtChState_state k ch = 1 ∧
      (k < 12 → t.unitService k (2 * ch) = 3 ∧ t.unitService k (2 * ch + 1) = 3 ∧
        (5 ≤ s.badChans k + 1 → k ∈ t.tier.lost))) ∧
  (∀ (k : Nat) (s : State), k ≤ 12 → k ∈ s.tier.mapWait → s.tier.mapRun = [] → s.tier.parity = none →
    Answers (.mapoutStart k) s fun t =>
      t.tier.mapRun = [k] ∧ k ∉ t.tier.mapWait ∧ SameStore s t ∧
      (∀ c ∈ s.addedChans k, t.ch F.stkChState_state F.dtChState_state k c = 2) ∧
      t.ch F.stkMapoutProgress_done F.dtMapoutProgress_done k 0 = 0) ∧
  ∀ (k : Nat) (s : State), k ≤ 12 → s.Inv → s.tier.mapRun = [k] →
    s.flag (groupRegs (mapGroup k)).pending (groupRegs (mapGroup k)).i = true → Answers (.mapoutSwitch k) s fun t =>
      let r := groupRegs (mapGroup k)
      t.dead k = s.newDead k ∧ t.flag r.applied r.i = true ∧ t.flag r.pending r.i = false ∧ t.tier.mapRun = [] ∧
      (∀ c ∈ s.addedChans k, t.ch F.stkChState_state F.dtChState_state k c = 3) ∧
      (s.Sound → s.errOpen = false → (∀ x, s.rowSealed x = false) → ∀ x, t.seen x =
        if targetBase k + t.capacity k ≤ x ∧ x < targetBase k + s.capacity k then 0 else s.seen x)

/-- A write to CONTROL that asks to ENTER makes a NORMAL unit in service ENTERING, one that asks to EXIT a NEAR one
EXITING; any other write of CONTROL, one of STATUS, and an access of the window by another agent, not aligned or not
of 64 bytes, is refused, which changes only the count of refused accesses; a write to a reserved offset changes
nothing. At an entry's end the unit is NEAR, one entry is counted and its operand buffer holds zeros, memory elsewhere
unchanged; a failed check leaves it NORMAL and out of service. At an exit's end, its queue empty or the unit out of
service, it is NORMAL without tickets and its buffer holds zeros. A NEAR unit idle for IDLE_EXIT_US exits. NEAR_MODE
starts the entry or exit of every named unit once and ends with ST_OK when each has settled or is out of service.
Rests on 07_galliard_units (R209, R210, R211, R213). -/
def Obligations.UnitsEnterAndLeaveNearMode : Prop :=
  (∀ (n p : Nat) (x : Poke) (s : State), s.unitUp n p = true → Writes x 0 → Asks x 1 → Answers (.nearEnter (uKey n p) x) s fun t =>
    if s.unitMode n p = 0 ∧ s.unitService n p = 0 then t.unitMode n p = 1 ∧ SameRegs [.galUnitState] s t ∧ SameStore s t
    else RefusedAt n s t) ∧
  (∀ (n p : Nat) (x : Poke) (s : State), s.unitUp n p = true → Writes x 0 → Asks x 2 → Answers (.nearExit (uKey n p) x) s fun t =>
    if s.unitMode n p = 2 then t.unitMode n p = 3 ∧ SameRegs [.galUnitState] s t ∧ SameStore s t else RefusedAt n s t) ∧
  (∀ (n p : Nat) (x : Poke) (s : State), s.unitUp n p = true → Writes x 0 → ¬Asks x 1 → ¬Asks x 2 →
    Answers (if x.row = 0 then .nearEnter (uKey n p) x else .nearExit (uKey n p) x) s (RefusedAt n s)) ∧
  (∀ (i : Nat → Nat → Poke → Instr) (row n p : Nat) (x : Poke) (s : State),
    (i, row) ∈ [(fun n p x => Instr.nearEnter (uKey n p) x, 0), (fun n p x => .nearExit (uKey n p) x, 1),
      (fun n p x => .unitCommandWrite n p x.off x.words x.agent, 2), (.unitTicketRelease, 3)] → s.unitUp n p = true →
    x.row = row → x.off < 0x80000 →
    (1 < x.agent ∨ x.off % 64 ≠ 0 ∨ x.words.length ≠ 8 ∨ x.off = 0x40 → Answers (i n p x) s (RefusedAt n s)) ∧
    (Writes x x.off → x.off ≠ 0 → x.off ≠ 0x40 → (x.off < 0x1000 ∨ 0x1800 ≤ x.off) → (x.off < 0x2000 ∨ 0x2800 ≤ x.off) →
      exec (i n p x) s = .next s)) ∧
  (∀ (n p : Nat) (s : State), s.unitUp n p = true → s.unitMode n p = 1 → Answers (.nearEnterDone n p true) s fun t =>
      t.unitMode n p = 2 ∧ t.unitService n p = s.unitService n p ∧ (t.unitsAt (uKey n p)).modeTime = s.now ∧
      t.fld F.galUnitEntries_count n p = satAdd 64 (s.fld F.galUnitEntries_count n p) 1 ∧
      SameRegs [.galUnitState, .galUnitEntries] s t ∧
      ∀ a, t.byteAt a = if bufBase n p ≤ a ∧ a < bufBase n p + 2 ^ 20 then 0 else s.byteAt a) ∧
  (∀ (n p : Nat) (s : State), s.unitUp n p = true → s.unitMode n p = 1 → Answers (.nearEnterDone n p false) s fun t =>
      t.unitMode n p = 0 ∧ (s.unitService n p = 0 → t.unitService n p = 1 ∧
        t.fld F.featGalliard_value = s.fld F.featGalliard_value - 1) ∧
      (s.unitService n p = 2 → t.unitService n p = 1 ∧ t.flag F.galUnitState_testFailed n p = true ∧
        (t.unitsAt (uKey n p)).test = false)) ∧
  (∀ (n p : Nat) (s : State), s.unitUp n p = true → s.unitMode n p = 3 →
    ((s.unitsAt (uKey n p)).queue = [] ∨ s.unitService n p ≠ 0) → Answers (.nearExitDone n p) s fun t =>
      t.unitMode n p = 0 ∧ (t.unitsAt (uKey n p)).tickets = [] ∧ (t.unitsAt (uKey n p)).queue = [] ∧
      (t.unitsAt (uKey n p)).tails = [] ∧ (t.unitsAt (uKey n p)).running = none ∧ SameRegs [.galUnitState] s t ∧
      ∀ a, t.byteAt a = if bufBase n p ≤ a ∧ a < bufBase n p + 2 ^ 20 then 0 else s.byteAt a) ∧
  (∀ (n p : Nat) (s : State), s.unitUp n p = true → s.unitMode n p = 2 → (s.unitsAt (uKey n p)).queue = [] →
    (s.unitsAt (uKey n p)).tails = [] → s.fld F.galCfg_idleExitUs n ≠ 0 → (s.unitsAt (uKey n p)).idleSince + s.fld F.galCfg_idleExitUs n ≤ s.now →
    Answers (.nearIdleExit n p) s fun t => t.unitMode n p = 3 ∧ SameRegs [.galUnitState] s t ∧ SameStore s t) ∧
  ∀ (c id : Nat) (s : State) (p : Pkt), s.issued c id 0x4E p → Answers (.nearMode c id) s fun t =>
    let us := s.namedUnits (p.f 2 11 0) (p.f 3 31 0)
    let goal := if p.b 4 0 then 2 else 0
    SameStore s t ∧
    (p.aux ≠ [] → (∀ u ∈ us, s.unitService (u / 32) (u % 32) = 0 → s.unitMode (u / 32) (u % 32) = goal) →
      t.ended c id stOk 0 ∧ ∀ n q, t.unitMode n q = s.unitMode n q) ∧
    (p.aux = [] → ∀ u ∈ us, s.unitService (u / 32) (u % 32) = 0 → s.unitMode (u / 32) (u % 32) = 2 - goal →
      t.unitMode (u / 32) (u % 32) = (if p.b 4 0 then 1 else 3) ∧ t.stands c id .issued)

/-- A caller's or management core's command without reserved bits, written to a FREE ticket of a NEAR unit in service,
joins the unit's queue where every queued operation is one of the table: the first of a run at the end, a later one
behind the ticket before it; a command that goes on with no run of its caller's is written by none and changes nothing
(the model's choice, log entry 31). A command of no operation of the table, first in the queue, is DONE with
ST_INTERNAL. Any other command is refused and changes only the count of refused accesses. A write of zeros to a DONE
ticket's RESULT makes it FREE; any other is refused. Rests on 07_galliard_units (R214, R215, R216, R220, R221). -/
def Obligations.UnitCommandsTakeTickets : Prop :=
  (∀ (n p t : Nat) (x : Poke) (s : State), s.unitUp n p = true → t < 32 → Writes x (0x1000 + 64 * t) →
    s.unitMode n p = 2 → s.unitService n p = 0 → (s.ticket n p t).st = 0 → commandOk (x.words.map BitVec.toNat) = true →
    let ws := x.words.map BitVec.toNat
    let u := s.unitsAt (uKey n p)
    (s.nextPos n p t = none → exec (.unitCommandWrite n p x.off x.words x.agent) s = .next s) ∧
    ∀ pos, s.nextPos n p t = some pos → Answers (.unitCommandWrite n p x.off x.words x.agent) s fun y =>
      (cUop ws ∈ uopCodes → (∀ r ∈ u.queue, cUop (s.ticket n p r).words ∈ uopCodes) →
        y.ticket n p t = { st := 1, words := ws, result := [], caller := x.agent == 0, pos := pos } ∧
        (y.unitsAt (uKey n p)).queue = placeTicket t pos u.queue ∧ SameRegs [.galUnitState] s y ∧ SameStore s y) ∧
      (cUop ws ∉ uopCodes → u.queue = [] → u.outDue = false → (∀ k, u.running = some k → k = t / 4) →
        (y.ticket n p t).st = 3 ∧ (y.unitsAt (uKey n p)).queue = [] ∧ SameStore s y ∧
        nth (y.ticket n p t).result 0 = cTag ws * 2 ^ 48 + stInternal * 256 + 3)) ∧
  (∀ (n p t : Nat) (x : Poke) (s : State), s.unitUp n p = true → t < 32 → Writes x (0x1000 + 64 * t) →
    (s.unitMode n p ≠ 2 ∨ s.unitService n p ≠ 0 ∨ (s.ticket n p t).st ≠ 0 ∨ commandOk (x.words.map BitVec.toNat) = false) →
    Answers (.unitCommandWrite n p x.off x.words x.agent) s (RefusedAt n s)) ∧
  ∀ (n p t : Nat) (x : Poke) (s : State), s.unitUp n p = true → t < 32 → Writes x (0x2000 + 64 * t) →
    Answers (.unitTicketRelease n p x) s fun y =>
      if x.words.all (· == 0) = true ∧ (s.ticket n p t).st = 3 then
        y.ticket n p t = {} ∧ (∀ r, r ≠ t → y.ticket n p r = s.ticket n p r) ∧ y.bank = s.bank ∧ SameStore s y
      else RefusedAt n s y

/-- Where every access meets no error and no fault, the tokens can be paid, and each unit it needs in service is NEAR
and free, a stack-class packet ends ST_OK: NEAR_MATVEC and NEAR_EXPERT leave the shares' chunk values in the scratch
and Y the rows joined and added from them, NEAR_ELT and NEAR_COPY their shares, NEAR_RAW what its two commands do as
one run, or ST_INTERNAL where the first cannot run; of the registers only the counters of units, of accesses and of
fallbacks rise, each unit's commands by two a share. For each unit operation: the first queued command of a NEAR or
EXITING unit in service runs, its ticket is DONE with the status and, where nothing stopped it, the cycles, bytes and
MACs of the operation in its RESULT, which the unit's counters rise by; it leaves the queue, and memory is as the
operation left it. Where the checked lanes fail, its whole run is queued again in front without results, the unit has
one more strike, and with two that count it is out of service. Rests on 01_split_layer (R29), 07_galliard_units (R212,
R216, R218, R221, R222, R225, R226, R227, R228, R229, R233, R234, R235, R239), 08_attention_kv (R249, R264, R266). -/
def Obligations.UnitOperationsRunOrFail : Prop :=
  (∀ (c id : Nat) (s : State) (p : Pkt) (hs : List ((Nat × Nat) × Nat)) (groups : List (List Nat)) (ps : List Wr),
    s.ready c id 0x40 p (nearMatvecBody p (s.acc c)) → s.unitsReady c 2 (hs.map Prod.snd) →
    s.finds (plans (s.acc c) (matvecWork p (s.acc c)) fun v =>
      rowWrites (p.desc 4) (groupRows ((p.desc 2).size 1) ((p.desc 3).size 1) v.2)) ((hs, groups), ps) →
    Answers (.nearMatvec c id) s fun t => t.ended c id stOk 0 ∧ t.slots = s.slots ∧ UnitsCounted s t (hs.map Prod.snd) 2 ∧
      SameRegs (unitCounters ++ counters ++ followers) s t ∧
      ((p.desc 4).apart [p.desc 2, p.desc 3] = true → ∀ a, t.seen a = (s.runs (matvecWork p (s.acc c))).2.2.after ps a)) ∧
  (∀ (c id : Nat) (s : State) (p : Pkt) (homes : List Nat) (groups : List (List Nat)) (ps : List Wr),
    s.ready c id 0x41 p (nearExpertBody p (s.acc c)) → s.unitsReady c 2 homes →
    s.finds (plans (s.acc c) (expertWork p (s.acc c)) fun v =>
      rowWrites (p.desc 4) (groupRows ((p.desc 2).size 1) ((p.desc 31).size 1) v.2)) ((homes, groups), ps) →
    Answers (.nearExpert c id) s fun t => t.ended c id stOk 0 ∧ t.slots = s.slots ∧ UnitsCounted s t homes 2 ∧
      SameRegs (unitCounters ++ counters ++ followers) s t ∧
      ((p.desc 4).apart [p.desc 2, p.desc 30, p.desc 31] = true →
        ∀ a, t.seen a = (s.runs (expertWork p (s.acc c))).2.2.after ps a)) ∧
  (∀ (c id : Nat) (s : State) (p : Pkt) (us : List Nat), s.ready c id 0x42 p (nearEltBody p (s.acc c)) →
    s.unitsReady c 1 us → s.finds (eltWork p (s.acc c)) us →
    Answers (.nearElt c id) s fun t => t.ended c id stOk 0 ∧ t.slots = s.slots ∧
      SameRegs (unitCounters ++ counters ++ followers) s t ∧
      ((p.desc 3).apart [p.desc 2] = true → SameStore (s.runs (eltWork p (s.acc c))).2.2 t)) ∧
  (∀ (c id : Nat) (s : State) (p : Pkt) (us : List Nat), s.ready c id 0x43 p (nearCopyBody p (s.acc c)) →
    s.unitsReady c 1 us → s.finds (nearCopyWork p (s.acc c)) us →
    Answers (.nearCopy c id) s fun t => t.ended c id stOk 0 ∧ t.slots = s.slots ∧
      SameRegs (unitCounters ++ counters ++ followers) s t ∧ SameStore (s.runs (nearCopyWork p (s.acc c))).2.2 t) ∧
  (∀ (c id : Nat) (s : State) (p : Pkt) (x : Option Stop), s.ready c id 0x4F p (nearRawBody p (s.acc c)) →
    s.unitsReady c 2 [s.rawHome p] → x ∈ [none, some .internal] → s.finds (rawWork p (s.acc c)) (x, none) →
    Answers (.nearRaw c id) s fun t => t.ended c id (if x.isNone then stOk else stInternal) 0 ∧ t.slots = s.slots ∧
      SameRegs (.hbAttnJoins :: unitCounters ++ counters ++ followers) s t ∧
      SameStore (s.runs (rawWork p (s.acc c))).2.2 t) ∧
  TicketRuns (fun n p t => .uopNone n p t) 0x00 ∧ TicketRuns (fun n p t => .uopLoad (uKey n p) t true) 0x01 ∧
  TicketRuns (fun n p t => .uopStore (uKey n p) t true) 0x02 ∧ TicketRuns (fun n p t => .matvec n p t true) 0x10 ∧
  TicketRuns (fun n p t => .expert n p t true) 0x11 ∧ TicketRuns (fun n p t => .elt n p t true) 0x20 ∧
  TicketRuns (fun n p t => .kvWrite (uKey n p) t true) 0x30 ∧ TicketRuns (fun n p t => .attnPart n p t true) 0x31 ∧
  TicketRuns (fun n p t => .join (uKey n p) t true) 0x32 ∧ TicketRuns (fun n p t => .pcopy n p t) 0x40 ∧
  TicketRuns (fun n p t => .selftest n p t true) 0x7E ∧
  TicketFails (fun n p t => .uopLoad (uKey n p) t false) 0x01 ∧ TicketFails (fun n p t => .uopStore (uKey n p) t false) 0x02 ∧
  TicketFails (fun n p t => .kvWrite (uKey n p) t false) 0x30 ∧ TicketFails (fun n p t => .join (uKey n p) t false) 0x32 ∧
  TicketFails (fun n p t => .matvec n p t false) 0x10 ∧ TicketFails (fun n p t => .expert n p t false) 0x11 ∧
  TicketFails (fun n p t => .elt n p t false) 0x20 ∧ TicketFails (fun n p t => .attnPart n p t false) 0x31 ∧
  TicketFails (fun n p t => .selftest n p t false) 0x7E

/-- OUT takes a unit in service out, at once where no run is under way, else after it; a NEAR unit then is EXITING.
TEST and RETURN of a unit that is out make it TESTING and ENTERING; RETURN also clears its strikes. In any other
service state the action changes only CTRL_IGNORED. At a test's end the unit is NORMAL; it is in service after a
RETURN that passed and out otherwise, and a failed test sets TEST_FAILED. Rests on 07_galliard_units (R235, R236). -/
def Obligations.UnitServiceActions : Prop :=
  (∀ (n p : Nat) (s : State), s.opens ⟨.galUnitCtrl, n, p, 0⟩ = true → Answers (.unitOut n p) s fun t =>
    (s.unitService n p = 0 → s.midRun n p = false →
      t.unitService n p = 1 ∧ t.unitMode n p = (if s.unitMode n p = 2 then 3 else if s.unitMode n p = 1 then 0 else s.unitMode n p) ∧
      t.fld F.featGalliard_value = s.fld F.featGalliard_value - 1 ∧ (4, uKey n p, 1) ∈ t.retlog) ∧
    (s.unitService n p = 0 → s.midRun n p = true →
      (t.unitsAt (uKey n p)).outDue = true ∧ SameRegs [] s t ∧ SameStore s t) ∧
    (s.unitService n p ≠ 0 → t.flag F.galUnitState_ctrlIgnored n p = true ∧ t.unitService n p = s.unitService n p ∧
      SameRegs [.galUnitState] s t ∧ t.units = s.units)) ∧
  (∀ (n p : Nat) (ret : Bool) (s : State), s.opens ⟨.galUnitCtrl, n, p, 0⟩ = true →
    Answers (if ret then .unitReturn n p else .unitTest n p) s fun t => SameRegs [.galUnitState] s t ∧ SameStore s t ∧
      if s.unitService n p = 1 then
        t.unitService n p = 2 ∧ t.unitMode n p = 1 ∧ (t.unitsAt (uKey n p)).test = true ∧
        (ret = true → t.fld F.galUnitState_strikes n p = 0 ∧ t.strikesOf (dieOf n) (uKey n p) true = 0) ∧
        (ret = false → t.strikes = s.strikes)
      else t.flag F.galUnitState_ctrlIgnored n p = true ∧ t.unitService n p = s.unitService n p ∧ t.units = s.units) ∧
  ∀ (n p : Nat) (pass : Bool) (s : State), s.unitUp n p = true → (s.unitsAt (uKey n p)).test = true →
    Answers (.unitTestDone n p pass) s fun t =>
      t.unitMode n p = 0 ∧ (t.unitsAt (uKey n p)).test = false ∧
      t.unitService n p = (if pass && (s.unitsAt (uKey n p)).ret then 0 else 1) ∧
      (pass = false → t.flag F.galUnitState_testFailed n p = true)

/-- A write that enables an enabled context only sets WRITE_IGNORED. For a disabled one ENABLE_ERR becomes 1 where its
partition is not ENABLED, 2 where it binds a set outside the partition's allocation, 3 where it binds sets without a
save area, and EN stays 0; a context without sets, save and spill area is enabled, bound to the caller with the fewest
enabled contexts, and needs no loading. Disabling an enabled context leaves it DISABLED, not runnable, without packets
in flight, without an open step, without open faults and holding no set, and the HEAD of each enabled queue equals its
TAIL; disabling a disabled one changes nothing. Rests on 10_partitions_scheduling (R314, R317, R318). -/
def Obligations.ContextsEnableAndDisable : Prop :=
  (∀ (c part : Nat) (keeps : Bool) (s : State), s.opens ⟨.schCtxCfg, c, 0, 0⟩ = true →
    Answers (.contextEnable c part keeps) s fun t =>
      let err (e : Nat) : Prop := t.fld F.schCtxState_enableErr c = e ∧ t.flag F.schCtxCfg_en c = false ∧
        SameRegs [.schCtxCfg, .schCtxState] s t ∧ SameStore s t
      (s.flag F.schCtxCfg_en c = true →
        t.flag F.schCtxState_writeIgnored c = true ∧ SameRegs [.schCtxState] s t ∧ SameStore s t) ∧
      (s.flag F.schCtxCfg_en c = false →
        (s.fld F.schPartState_state (part % 16) ≠ 1 → err 1) ∧
        (s.fld F.schPartState_state (part % 16) = 1 →
          ((∃ x ∈ s.binds c, s.allocatesSet (part % 16) x = false) → err 2) ∧
          ((∀ x ∈ s.binds c, s.allocatesSet (part % 16) x = true) → s.fld F.schCtxSave_va c = 0 →
            (s.binds c ≠ [] → err 3) ∧
            (s.binds c = [] → s.fld F.schCtxSpill_va c = 0 →
              t.fld F.schCtxState_enableErr c = 0 ∧ t.flag F.schCtxCfg_en c = true ∧ t.partOf c = part % 16 ∧
              t.flag F.schCtxCfg_keepsSbuf c = keeps ∧ t.fld F.schCtxState_caller c = s.freeCaller ∧ t.loaded c = true))))) ∧
  (∀ (c : Nat) (s : State), s.opens ⟨.schCtxCfg, c, 0, 0⟩ = true → s.flag F.schCtxCfg_en c = true →
    Answers (.contextDisable c) s fun t =>
      t.flag F.schCtxCfg_en c = false ∧ t.ctxState c = 0 ∧ t.flag F.schCtxState_runnable c = false ∧
      (t.ctxsAt c).pkts = [] ∧ (t.ctxsAt c).step = none ∧ t.heldSets c = [] ∧ (∀ f ∈ t.sched.faults, f.ctx ≠ c) ∧
      ∀ q, q < 4 → bit (s.fld F.clrCtxCfg_sqEn c) q = true →
        t.fld F.clrSqStatus_head c q = s.fld F.clrSqDb_tail c q) ∧
  ∀ (c : Nat) (s : State), s.opens ⟨.schCtxCfg, c, 0, 0⟩ = true → s.flag F.schCtxCfg_en c = false →
    exec (.contextDisable c) s = .next s

/-- A teardown of a partition already in teardown, or with a sealed row in a window it would wipe, only sets
TD_REFUSED. Any other makes the partition TEARDOWN, disables its contexts, frees its request slots and drops the keys
and VALID bits of its tenants. At its end the partition is DISABLED with TD_DONE, EN, allocation and windows are 0
both as software reads them and in force, every byte of its enabled windows that are not SHARED and not companion
memory reads 0, and every other byte is as it was. An invalidation makes BUSY 1 until it is done; one that comes
meanwhile only sets IGNORED. Rests on 10_partitions_scheduling (R312, R334). -/
def Obligations.TeardownAndInvalidation : Prop :=
  (∀ (p : Nat) (s : State), s.opens ⟨.schPartCtrl, p, 0, 0⟩ = true → Answers (.partitionTeardown p) s fun t =>
    if s.fld F.schPartState_state p = 2 ∨ (s.wiped p).any (fun w => s.holdsSealed (s.winRange p w).1 (s.winRange p w).2) = true then
      t.flag F.schPartState_tdRefused p = true ∧ SameRegs [.schPartState] s t ∧ SameStore s t ∧ t.ctxs = s.ctxs
    else t.fld F.schPartState_state p = 2 ∧
      (∀ c, c < 256 → s.partOf c = p → t.flag F.schCtxCfg_en c = false) ∧
      (∀ n, t.slotState n ≠ 0 → t.slotPart n ≠ p) ∧
      ∀ k, k < 4096 → s.tenantOk k p = true → t.keysAt k = none ∧ t.flag F.srvTenant_valid k = false) ∧
  (∀ (p : Nat) (s : State), p < 16 → s.fld F.schPartState_state p = 2 → Answers (.teardownDone p) s fun t =>
    t.fld F.schPartState_state p = 0 ∧ t.flag F.schPartState_tdDone p = true ∧ t.inForce F.schPartCfg_en p = 0 ∧
    t.fld F.schPartCfg_en p = 0 ∧ t.inForce F.schPartAlloc0_mask p = 0 ∧ t.inForce F.schPartAlloc1_mask p = 0 ∧
    (∀ w, w < 8 → t.reg ⟨.schPartWin, p, w, 0⟩ = 0 ∧ Bank.get t.force ⟨.schPartWin, p, w, 0⟩ = 0) ∧
    (∀ w ∈ s.wiped p, ∀ a, (s.winRange p w).1 ≤ a → a < (s.winRange p w).1 + (s.winRange p w).2 → t.byteAt a = 0) ∧
    ∀ a, (∀ w ∈ s.wiped p, a < (s.winRange p w).1 ∨ (s.winRange p w).1 + (s.winRange p w).2 ≤ a) → t.byteAt a = s.byteAt a) ∧
  (∀ (all : Bool) (part va count : Nat) (s : State), s.opens ⟨.schInval, 0, 0, 0⟩ = true →
    Answers (.tlbInvalidate all part va count) s fun t => SameRegs [.schInval, .schInvalStatus] s t ∧ SameStore s t ∧
      t.flag F.schInvalStatus_busy = true ∧
      (s.flag F.schInvalStatus_busy = true → t.flag F.schInvalStatus_ignored = true)) ∧
  ∀ s : State, s.flag F.schInvalStatus_busy = true → Answers .invalidateDone s fun t =>
    t.flag F.schInvalStatus_busy = false ∧ t.flag F.schInvalStatus_done = true ∧ SameRegs [.schInvalStatus] s t ∧ SameStore s t

/-- At a frame's moment with no commit pending one frame is counted and the frame starts now. A slot begins once in a
frame. At the moment of a valid slot of an enabled partition that slot is current and not open time, its debt is paid
from its length, its owner and its reserved sets are set, and the shadow rates and bursts of every stack's group and
the deep tier's that is not locked become the shares' with a commit pending; a slot of a partition not enabled runs as
open time. Open time has no owner and no reserved sets. Rests on 10_partitions_scheduling (R319, R320, R321, R325,
R334). -/
def Obligations.DanceCardMovesOn : Prop :=
  (∀ s : State, s.cardOn = true → (s.fld F.schCardPos_frames = 0 ∨ s.sched.frameStart + s.inForce F.schCardFrame_frameUs ≤ s.now) →
    s.flag (groupRegs .schCard).pending (groupRegs .schCard).i = false → Answers .cardFrameStart s fun t =>
      t.fld F.schCardPos_frames = (s.fld F.schCardPos_frames + 1) % 2 ^ 32 ∧ t.sched.frameStart = s.now ∧ t.sched.begun = 0 ∧
      SameRegs [.schCardPos] s t ∧ SameStore s t) ∧
  (∀ (i : Nat) (s : State), i < 64 → s.cardOn = true → s.inForce F.schSlot_valid i ≠ 0 → s.fld F.schCardPos_frames ≠ 0 →
    s.sched.begun ≤ i → s.sched.frameStart + s.slotOffset i ≤ s.now → Answers (.cardSlotStart i) s fun t =>
      let p := s.inForce F.schSlot_partition i
      let cut := min (s.fld F.schPartDebtUs_count p) (s.inForce F.schSlot_lengthUs i)
      SameStore s t ∧ t.fld F.schCardPos_slot = i ∧ t.sched.begun = i + 1 ∧
      (s.fld F.schPartState_state p = 1 →
        t.flag F.schCardPos_open = false ∧ t.fld F.schPartDebtUs_count p = s.fld F.schPartDebtUs_count p - cut ∧
        t.sched.owner = some p ∧ t.sched.slotStart = s.now ∧ t.sched.slotEnd = s.now + (s.inForce F.schSlot_lengthUs i - cut) ∧
        t.sched.reserved = s.reserveOn p 0 (s.inForce F.schSlot_minCd0 i) ++ s.reserveOn p 1 (s.inForce F.schSlot_minCd1 i) ∧
        (∀ n q, n < 12 → q < 16 → s.flag F.stkRegStatus_locked n = false →
          t.flag F.stkRegStatus_pending n = true ∧ t.fld F.stkReg_rate n q = rateOf (s.shareNow (some i) q 0) 18750 ∧
          t.fld F.stkReg_burst n q = burstOf (rateOf (s.shareNow (some i) q 0) 18750)) ∧
        ∀ q, q < 16 → s.flag F.dtRegStatus_locked = false →
          t.flag F.dtRegStatus_pending = true ∧ t.fld F.dtReg_rate q = rateOf (s.shareNow (some i) q 1) 19200) ∧
      (s.fld F.schPartState_state p ≠ 1 →
        t.flag F.schCardPos_open = true ∧ t.sched.owner = none ∧ t.sched.reserved = [])) ∧
  (∀ (i : Nat) (s : State), i < s.sched.begun → exec (.cardSlotStart i) s = .next s) ∧
  ∀ (cut : Bool) (s : State), s.cardOn = true → s.fld F.schCardPos_frames ≠ 0 →
    (if cut then s.sched.owner.isSome = true ∧ s.sched.slotEnd ≤ s.now else s.sched.frameStart + s.slotOffset 64 ≤ s.now) →
    Answers (.openTimeStart cut) s fun t =>
      t.flag F.schCardPos_open = true ∧ t.flag F.schCardPos_cut = cut ∧ t.sched.owner = none ∧ t.sched.reserved = [] ∧ SameStore s t

/-- A wanted holder RUNNING for the quantum, or BLOCKED for the block time, becomes PREEMPTING from now on, to no
partition. The step hold ends at its limit. At its preemption point a context becomes SAVING with all the sets it
holds, and the time it was late is charged to its partition's debt where it must yield to another. A set saved is no
longer being saved, and after the last one the context is swapped out or loads again. A loading context, or a swapped-
out one that can load, becomes loaded and not runnable with nothing left to restore; the buffer of a set it never had
reads zero. A hard swap counts one and makes every context in the way SAVING. Rests on 10_partitions_scheduling (R316,
R320, R322, R324, R325, R326, R327). -/
def Obligations.PreemptionSavesAndLoads : Prop :=
  (∀ (c : Nat) (s : State), c < 256 → s.ctxState c = 3 → (s.ctxsAt c).loadedAt + s.fld F.schCfg_quantumUs ≤ s.now →
    s.wanted c = true → s.binds c ≠ [] → Answers (.quantumExpiry c) s fun t =>
      t.ctxState c = 6 ∧ (t.ctxsAt c).yieldTo = some (s.now, 16) ∧ SameRegs [.schCtxState, .schCtxSince] s t ∧ SameStore s t) ∧
  (∀ (c : Nat) (s : State), c < 256 → s.ctxState c = 4 → (s.ctxsAt c).blockedAt + s.fld F.schCfg_blockEvictUs ≤ s.now →
    s.wanted c = true → s.binds c ≠ [] → Answers (.blockEvictExpiry c) s fun t =>
      t.ctxState c = 6 ∧ (t.ctxsAt c).yieldTo = some (s.now, 16) ∧ SameRegs [.schCtxState, .schCtxSince] s t ∧ SameStore s t) ∧
  (∀ (c : Nat) (s : State) (y : Nat × Nat), c < 256 → s.ctxState c = 6 → (s.ctxsAt c).yieldTo = some y → s.stepHeld c = true →
    (s.ctxsAt c).asked + s.holdMax ≤ s.now → Answers (.stepHoldExpiry c) s fun t =>
      t.stepHeld c = false ∧ SameRegs [] s t ∧ SameStore s t) ∧
  (∀ (c : Nat) (s : State), c < 256 → s.ctxState c = 6 → s.stepHeld c = false → s.atPoint c = true →
    Answers (.preemptionPoint c) s fun t =>
      t.ctxState c = 7 ∧ (t.ctxsAt c).saving = s.heldSets c ∧ (t.ctxsAt c).yieldTo = none ∧
      ∀ t0 q, (s.ctxsAt c).yieldTo = some (t0, q) → q < 16 → t0 < s.now →
        t.fld F.schPartDebtUs_count (s.partOf c) = satAdd 64 (s.fld F.schPartDebtUs_count (s.partOf c)) (s.now - t0)) ∧
  (∀ (c d st : Nat) (s : State), c < 256 → d < 2 → st < 40 → s.ctxState c = 7 → 40 * d + st ∈ (s.ctxsAt c).saving →
    Answers (.contextSaveDone c d st) s fun t =>
      (t.ctxsAt c).saving = (s.ctxsAt c).saving.filter (· != 40 * d + st) ∧
      ((t.ctxsAt c).saving = [] → t.ctxState c = 1 ∨ t.ctxState c = 2) ∧
      ((t.ctxsAt c).saving ≠ [] → t.ctxState c = 7) ∧
      (40 * d + st ∈ (s.ctxsAt c).layout → t.fld F.cdSetSaves_count d st = (s.fld F.cdSetSaves_count d st + 1) % 2 ^ 64)) ∧
  (∀ (c : Nat) (s : State), c < 256 → (s.ctxState c = 2 ∨ s.canLoad c = true) → Answers (.contextLoaded c) s fun t =>
    t.loaded c = true ∧ t.flag F.schCtxState_runnable c = false ∧ (t.ctxsAt c).restoring = [] ∧ (t.ctxsAt c).loadedAt = s.now ∧
    t.fld F.schPartSwitches_count (s.partOf c) = satAdd 64 (s.fld F.schPartSwitches_count (s.partOf c)) 1 ∧
    ∀ x, s.ctxState c = 2 → (s.ctxsAt c).restoring = [x] → x ∈ (s.ctxsAt c).fresh →
      ∀ a, t.byteAt a = if bufAt x ≤ a ∧ a < bufAt x + 0x300000 then 0 else s.byteAt a) ∧
  ∀ (c : Nat) (s : State), c < 256 → s.waiters.head? = some c →
    (∀ k, k < 256 → s.loaded k = true → s.ctxState k = 4 ∨ s.ctxState k = 5) → (∀ k ∈ s.inTheWay c, s.ctxState k = 4) →
    Answers (.hardSwap c) s fun t =>
      t.fld F.schPartHardSwaps_count (s.partOf c) = satAdd 64 (s.fld F.schPartHardSwaps_count (s.partOf c)) 1 ∧
      ∀ k ∈ s.inTheWay c, k < 256 → t.ctxState k = 7

/-- An answer that names no open fault only sets RESOLVE_IGNORED. FAIL, and the time-out where the fault has waited
that long, close the fault: its packet has ended with the fault's status and address, and a queue whose ring slot
faulted is stopped. RETRY of a read that now translates closes the fault and its packet, neither CALL nor collective,
is issued again; where the walk fails anew the packet stalls on a new fault. Rests on 10_partitions_scheduling (R331,
R332), 02_command_stream (R495). -/
def Obligations.FaultsAreAnswered : Prop :=
  (∀ (fid : Nat) (s : State), s.opens ⟨.schFaultResolve, 0, 0, 0⟩ = true → s.openFaultOf fid = none →
    Answers (.faultResolveRetry fid) s (fun t => t.flag F.schStatus_resolveIgnored = true ∧ SameRegs [.schStatus] s t ∧ SameStore s t) ∧
    Answers (.faultResolveFail fid) s fun t =>
      t.flag F.schStatus_resolveIgnored = true ∧ SameRegs [.schStatus] s t ∧ SameStore s t) ∧
  (∀ (fid : Nat) (late : Bool) (s : State) (f : OpenFault), s.openFaultOf fid = some f →
    (if late then f.time + s.inForce F.schPartCfg_faultTimeoutMs f.part * 1000 ≤ s.now
     else s.opens ⟨.schFaultResolve, 0, 0, 0⟩ = true) →
    Answers (if late then .faultTimeout fid else .faultResolveFail fid) s fun t =>
      (∀ g ∈ t.sched.faults, g.fid ≠ fid) ∧
      (∀ id p, f.pkt = some id → s.pkt f.ctx id = some p →
        (p.op ≠ 0x05 → ∀ g ∈ (s.queAt (qKey f.ctx p.q)).chain, g.call ≠ id) → t.ended f.ctx id f.status f.va) ∧
      (f.pkt = none → f.op = 0 → (t.queAt (qKey f.ctx f.q)).errStop = true) ∧
      (f.pkt = none → f.op ≠ 0 → (t.queAt (qKey f.ctx f.q)).failAs = some (f.status, f.va))) ∧
  ∀ (fid : Nat) (s : State) (f : OpenFault) (id : Nat) (p : Pkt), s.opens ⟨.schFaultResolve, 0, 0, 0⟩ = true →
    s.openFaultOf fid = some f → f.pkt = some id → f.write = false → s.pkt f.ctx id = some p → p.op ≠ 0x05 → p.op / 16 ≠ 7 →
    (∀ g ∈ (s.queAt (qKey f.ctx p.q)).chain, g.call ≠ id) → Answers (.faultResolveRetry fid) s fun t =>
      let e : Eff := .sched { s.sched with faults := s.sched.faults.filter fun g => g.fid != f.fid }
      let r := ((walk ((e.apply s).acc f.ctx) f.va f.write : M s _) ⟨e.apply s, (Reach.refl s).step e⟩).1
      (∀ a, r = .ok a → t.stands f.ctx id .issued ∧ ∀ g ∈ t.sched.faults, g.fid ≠ fid) ∧
      (∀ st, r = .error st → st ≠ stPoison → t.stands f.ctx id (.stalled s.sched.nextFid) ∧
        t.openFaultOf s.sched.nextFid ≠ none) ∧
      (r = .error stPoison → t.ended f.ctx id stPoison f.va)

/-- A frame at a port that is up, with no injection armed there and none held: with a wrong FCS or too short it counts
in RX_BAD_FCS, not the A12's own in RX_FOREIGN, for another node in RX_UNKNOWN, encrypted from a node that is no
ADMITTED peer in RX_UNAUTH, with a replayed TXSEQ in RX_REPLAY, with a wrong tag in RX_TAG; in each case nothing is
delivered. A handshake frame of a loaded peer and an encrypted numbered frame that passes and is new are delivered
last, the latter decrypted and its TXSEQ marked as accepted. Frames held by REORDER for 100 us on the way out leave
the port. Rests on 11_fabric_collectives (R341, R349, R350, R361). -/
def Obligations.ReceivedFramesAreChecked : Prop :=
  (∀ (p : Nat) (frame : List Byte) (s : State), p < 48 → s.portUp p = true → s.flag F.fabInjCtrl_arm p = false → s.fab.held = [] →
    Answers (.frameReceive p frame) s fun t =>
      let f := frame.take (frame.length - 4)
      let bad := frame.length < 4 ∨ toBytes 4 (crc32 f) ≠ frame.drop (frame.length - 4)
      let one (c : Fld) : Prop := t.fld c p = satAdd 64 (s.fld c p) 1
      t.fld F.fabRxFrames_count p = satAdd 64 (s.fld F.fabRxFrames_count p) 1 ∧
      (bad → one F.fabRxBadFcs_count ∧ t.fab = s.fab ∧ SameRegs [.fabRxFrames, .fabRxBadFcs] s t) ∧
      (¬bad → s.parseFrame p f = none → one F.fabRxForeign_count ∧ t.fab = s.fab ∧ SameRegs [.fabRxFrames, .fabRxForeign] s t) ∧
      ∀ x, ¬bad → s.parseFrame p f = some x →
        let h := nth x.words 0
        let n := nth x.words 1
        let mine := s.loadedPeer (bits h 47 32)
        (bits h 31 16 ≠ s.fld F.fabNode_node → one F.fabRxUnknown_count ∧ t.fab = s.fab) ∧
        (bits h 31 16 = s.fld F.fabNode_node →
          (∀ i, encrypted (hType h) = false → mine = some i →
            t.fab.inbox = s.fab.inbox ++ [{ peer := i, hdr := x.words, body := x.body }]) ∧
          (encrypted (hType h) = true → (∀ i, mine = some i → s.peerState i ≠ 2) →
            one F.fabRxUnauth_count ∧ t.fab = s.fab) ∧
          (∀ i, encrypted (hType h) = true → mine = some i → s.peerState i = 2 → s.rxKeyOf (s.peer i) (bit h 55) = some true →
            let k := (s.peer i).rx
            let nonce := frameNonce (bits h 47 32) n
            let cipher := x.body.take (hLen h)
            let good := gcmTag k.key nonce (wordBytes x.words) cipher = x.body.drop (hLen h)
            (k.replays n = true → one F.fabRxReplay_count ∧ t.fab = s.fab) ∧
            (k.replays n = false → ¬good → one F.fabRxTag_count ∧ t.fab = s.fab) ∧
            (k.replays n = false → good → numbered (hType h) = true → (s.peer i).received (bits (nth x.words 2) 63 32) = false →
              t.fab.inbox = s.fab.inbox ++ [{ peer := i, hdr := x.words, body := gcmCrypt k.key nonce cipher }] ∧
              n ∈ (t.peer i).rx.seen)))) ∧
  ∀ (p : Nat) (s : State), (∀ h ∈ s.fab.held, h.port = p → h.rx = false) → Answers (.injectReorderRelease p) s fun t =>
    let due (h : HeldFrame) : Bool := h.port == p && decide (h.since + 100 ≤ s.now)
    t.fab.held = s.fab.held.filter (fun h => !due h) ∧ t.out = s.out ++ (s.fab.held.filter due).map (fun h => .frame p h.frame) ∧
    SameRegs [.fabTxFrames] s t

/-- The first delivered frame of its type, of an armed group from the rank that its peer has, with the sequence number
of the group's next collective: with the group's epoch its rank is noted as heard now, with its parameters, and a
CREDIT's chunks are added to that rank's credit on that stream; with another epoch, the first time, a mismatch is
counted and the rank is muted. It is taken from the frames delivered in either case. A partner to which no frame of
the running collective, of which one has been seen, was sent for 1,000 us gets a HOLD, kept until it is acknowledged.
Rests on 11_fabric_collectives (R340, R357, R358, R359). -/
def Obligations.CollectiveFramesAreNoted : Prop :=
  (∀ (i : Instr) (type : Nat) (x : RxFrame) (rest : List RxFrame) (s : State),
    (i, type) ∈ [(Instr.data, 0), (Instr.credit, 2), (Instr.hold, 3)] → s.fab.inbox = x :: rest → hType (nth x.hdr 0) = type →
    (s.grpState (fGroup x) = 1 ∨ s.grpState (fGroup x) = 2) → fRank x < (s.grp (fGroup x)).size →
    fRank x ≠ (s.grp (fGroup x)).rank → (s.grp (fGroup x)).peerOf (fRank x) = x.peer →
    fSeq x = s.fld F.reelGroupState_nextSeq (fGroup x) → Answers i s fun t =>
      let y := s.grp (fGroup x)
      let k := y.ahead.getD { seq := fSeq x }
      let key := sKey (bits (nth x.hdr 4) 63 56) (fRank x)
      t.fab.inbox = rest ∧
      (k.owner = none → fRank x ∉ k.mute → fEpoch x = y.epoch → ∃ k' : Coll, (t.grp (fGroup x)).ahead = some k' ∧
        Tab.get 0 k'.heard (fRank x) = s.now ∧ Tab.get none k'.params (fRank x) = some (nth x.hdr 5) ∧
        k'.firstSeen = some (k.firstSeen.getD s.now) ∧ k.lagUs ≤ k'.lagUs ∧ bits (nth x.hdr 6) 47 16 ≤ k'.lagUs ∧
        Tab.get 0 k'.credit key = Tab.get 0 k.credit key + (if type = 2 then bits (nth x.hdr 6) 15 0 else 0)) ∧
      (fRank x ∉ k.mute → fEpoch x ≠ y.epoch →
        t.fld F.reelMismatch_count = satAdd 64 (s.fld F.reelMismatch_count) 1 ∧
        ∃ k' : Coll, (t.grp (fGroup x)).ahead = some k' ∧ fRank x ∈ k'.mute)) ∧
  ∀ (g rank seen : Nat) (s : State) (k : Coll) (o : Nat × Nat), (s.grp g).coll = some k → k.owner = some o → k.firstSeen = some seen →
    (s.grpState g = 1 ∨ s.grpState g = 2) → rank ∈ partnersOf k.kind (s.grp g).rank (s.grp g).size → s.rankOpen g rank = true →
    max (Tab.get 0 k.said rank) (min k.issuedAt seen) + 1000 ≤ s.now →
    Answers (.holdTimer g rank) s fun t =>
      let i := (s.grp g).peerOf rank
      (t.grp g).coll = some { k with said := Tab.put 0 k.said rank s.now } ∧
      (t.peer i).txPsn = ((s.peer i).txPsn + 1) % 2 ^ 32 ∧
      (t.peer i).unacked.map TxFrame.psn = (s.peer i).unacked.map TxFrame.psn ++ [(s.peer i).txPsn]

/-- HELLO at the responder: a wrong node or chain refuses the peer, else the reply is sent and the peer is in
HANDSHAKE. At HELLO_REPLY and ATTEST a flaw of the evidence refuses the peer with its reason; sound evidence is
answered by ATTEST, and admits the peer under the pair key. CONFIRM admits the peer under the key formed, or refuses
it. CLOSE makes the peer IDLE. A message unanswered for 10 ms is sent again five times, then the peer is REFUSED with
reason 7. A LOST peer and one without answer are tried again after a second; a due rekey begins with HELLO and keeps
the peer ADMITTED; the old key ends at its time. Which of reasons 1 and 4 a failed verdict has is a free value (log
entry 7). Rests on 11_fabric_collectives (R344, R348, R349, R350), 15_security_lifecycle (R425, R431). -/
def Obligations.HandshakeAdmitsOrRefuses : Prop :=
  (∀ (ok : Bool) (i : Nat) (m : List Byte) (s : State), s.canSign = true → s.sec.chainOk = true → s.message 4 = some (i, m) →
    i < 1024 → s.peerState i ≠ 0 → (s.peer i).node < s.fld F.fabNode_node → (s.peer i).hs ≠ 3 → Answers (.hello ok) s fun t =>
      if ofBytes ((m.drop 32).take 2) ≠ (s.peer i).node then t.peerState i = 3 ∧ t.fld F.fabPeerState_reason i = 6
      else if ok = false then t.peerState i = 3 ∧ t.fld F.fabPeerState_reason i = 1
      else t.peerState i = (if s.peerState i = 2 then 2 else 1) ∧ (t.peer i).hs = 3 ∧ (t.peer i).msg.1 = 5 ∧
        (t.peer i).nonceI = m.take 32) ∧
  (∀ (ok : Bool) (i : Nat) (m : List Byte) (s : State), s.canSign = true → s.sec.chainOk = true → s.message 5 = some (i, m) →
    i < 1024 → (s.peer i).hs = 1 → Answers (.helloReply ok) s fun t =>
      let rest := m.drop (32 + chainLen (m.drop 32))
      match evidenceFlaw s (s.peer i) ok (Config.freeBit s.fresh) (rest.drop 1568) (s.peer i).nonceI (sha256 (rest.take 1568)) with
      | some r => t.peerState i = 3 ∧ t.fld F.fabPeerState_reason i = r
      | none => t.peerState i = s.peerState i ∧ (t.peer i).hs = 2 ∧ (t.peer i).msg.1 = 6 ∧ (t.peer i).nonceR = m.take 32) ∧
  (∀ (ok : Bool) (i : Nat) (m : List Byte) (s : State), s.message 6 = some (i, m) → i < 1024 → (s.peer i).hs = 3 →
    Answers (.fabricAttest ok) s fun t =>
      let x := s.peer i
      match evidenceFlaw s x ok (Config.freeBit s.fresh) (m.drop 1568) x.nonceR (sha256 x.script) with
      | some r => t.peerState i = 3 ∧ t.fld F.fabPeerState_reason i = r
      | none => t.peerState i = 2 ∧ (t.peer i).rx.key = s.pairKey x (m.take 1568)) ∧
  (∀ (ok : Bool) (i : Nat) (m : List Byte) (s : State), s.message 7 = some (i, m) → i < 1024 → (s.peer i).hs = 2 →
    Answers (.confirm ok) s fun t =>
      (∀ z ∈ t.fab.inbox, ¬(hType (nth z.hdr 0) = 7 ∧ z.peer = i)) ∧
      if ok then t.peerState i = 2 ∧ (t.peer i).rx.key = (s.peer i).fresh ∧ (t.peer i).hs = 0 ∧
        t.fld F.reelHandshakes_count = satAdd 64 (s.fld F.reelHandshakes_count) 1
      else t.peerState i = 3 ∧ t.fld F.fabPeerState_reason i = 5 ∧
        t.fld F.reelHandshakeFail_count = satAdd 64 (s.fld F.reelHandshakeFail_count) 1) ∧
  (∀ (x : RxFrame) (s : State), s.firstFrame 8 = some x → x.peer < 1024 → Answers .close s fun t =>
    t.peerState x.peer = 0 ∧ t.peer x.peer = {} ∧ SameRegs [.fabPeerState] s t) ∧
  (∀ (i : Nat) (s : State), i < 1024 → (s.peer i).hs ≠ 0 → (s.peer i).msgTime + 10000 ≤ s.now →
    Answers (.handshakeResend i) s fun t =>
      if (s.peer i).msgTries < 5 then (t.peer i).msgTries = (s.peer i).msgTries + 1 ∧ (t.peer i).msgTime = s.now ∧
        t.peerState i = s.peerState i
      else t.peerState i = 3 ∧ t.fld F.fabPeerState_reason i = 7 ∧ (t.peer i).hs = 0) ∧
  (∀ (i : Nat) (s : State), i < 1024 → (s.peerState i = 4 ∨ s.peerState i = 3 ∧ s.fld F.fabPeerState_reason i = 7) →
    (s.peer i).triedAt + 1000000 ≤ s.now → Answers (.readmitRetry i) s fun t =>
      t.peerState i = 1 ∧ (t.peer i).triedAt = s.now ∧
      (t.peer i).hs = (if s.fld F.fabNode_node < (s.peer i).node then 1 else 4)) ∧
  (∀ (i : Nat) (s : State), i < 1024 → s.peerState i = 2 → (s.peer i).hs = 0 → s.fld F.fabNode_node < (s.peer i).node →
    (s.fld F.fabCfg_keyAgeMin ≠ 0 ∧ (s.peer i).admittedAt + s.fld F.fabCfg_keyAgeMin * 60000000 ≤ s.now ∨ 2 ^ 40 ≤ (s.peer i).txSeq) →
    Answers (.rekeyDue i) s fun t => t.peerState i = 2 ∧ (t.peer i).hs = 1) ∧
  ∀ (i d : Nat) (s : State), (s.peer i).oldUntil = some d → d ≤ s.now → Answers (.oldEpochExpiry i) s fun t =>
    (t.peer i).old = {} ∧ (t.peer i).oldUntil = none ∧ (t.peer i).rx = (s.peer i).rx ∧ SameRegs [] s t

/-- An ACK with an empty SACK map, no collective running, frees every frame up to its PSN and no other, and notes its
CE_COUNT. At the ACK timer, 4 us after the oldest unacknowledged arrival, nothing is due any more. A frame
unacknowledged for its time-out, for which a port is up and its tokens are there, is counted and noted as sent again
now, and the peer's rate is halved but not below the minimum. A frame unacknowledged for LOST_MS makes the peer LOST.
Each congestion period updates alpha and the rate of every ADMITTED peer: with marks up and down, without them down
and up, by R345. Rests on 11_fabric_collectives (R340, R342, R343, R344, R345). -/
def Obligations.FlowsAcknowledgeAndRetransmit : Prop :=
  (∀ (x : RxFrame) (rest : List RxFrame) (s : State), s.fab.inbox = x :: rest → hType (nth x.hdr 0) = 1 → s.noColl →
    ofBytes (x.body.take 32) = 0 → Answers .ack s fun t =>
      t.fab.inbox = rest ∧ (t.peer x.peer).unacked = ((s.peer x.peer).acked (bits (nth x.hdr 2) 31 0)).unacked ∧
      (t.peer x.peer).ceSeen = ofBytes ((x.body.drop 32).take 4) ∧ SameRegs [] s t ∧ SameStore s t) ∧
  (∀ (i d : Nat) (s : State), s.peerState i = 2 → (s.peer i).ackSince = some d → d + 4 ≤ s.now → Answers (.ackTimer i) s fun t =>
    (t.peer i).ackSince = none ∧ (t.peer i).ackDue = 0 ∧ (t.peer i).unacked = (s.peer i).unacked) ∧
  (∀ (i psn p : Nat) (f : TxFrame) (s : State), s.peerState i = 2 → (s.peer i).unacked.find? (fun f => f.psn == psn) = some f →
    f.sent + s.rto f ≤ s.now → s.canResend i f = true → s.nextPort i = some p → p < 48 →
    Answers (.retransmitTimeout i psn) s fun t =>
      t.fld F.fabTxRetrans_count p = satAdd 64 (s.fld F.fabTxRetrans_count p) 1 ∧
      (t.peer i).rate = max (s.fld F.fabCc_rMin * 65536) ((s.peer i).rate / 2) ∧
      (t.peer i).unacked = (s.peer i).unacked.map fun y => if y.psn = psn then { y with sent := s.now, tries := y.tries + 1 } else y) ∧
  (∀ (i : Nat) (f : TxFrame) (s : State), i < 1024 → s.peerState i = 2 → f ∈ (s.peer i).unacked →
    f.first + s.fld F.fabCfg_lostMs * 1000 ≤ s.now → Answers (.peerLost i) s fun t =>
      t.peerState i = 4 ∧ (t.peer i).hs = 0 ∧ (t.peer i).triedAt = s.now) ∧
  ∀ s : State, s.fab.ccAt + s.fld F.fabCc_periodUs ≤ s.now → (s.fab.peers.map Prod.fst).Nodup → Answers .ccPeriod s fun t =>
    t.fab.ccAt = s.now ∧ SameRegs [] s t ∧ ∀ e ∈ s.fab.peers,
      let x := s.peer e.1
      let y := t.peer e.1
      (s.peerState e.1 ≠ 2 → y = x) ∧
      (s.peerState e.1 = 2 → y.cePeriod = 0 ∧
        (x.cePeriod = 0 → y.alpha = x.alpha - x.alpha / 2 ^ s.fld F.fabCc_g ∧
          y.rate = min (s.lineRate e.1) (x.rate + s.fld F.fabCc_ai * 65536)) ∧
        (0 < x.cePeriod → y.alpha = x.alpha + (65536 - x.alpha) / 2 ^ s.fld F.fabCc_g ∧
          y.rate = max (s.fld F.fabCc_rMin * 65536) (x.rate - x.rate * y.alpha / 131072)))

/-- With no collective running, LOAD of an entry that is not VALID leaves the peer IDLE, of the own node or one
ADMITTED elsewhere REFUSED, else in HANDSHAKE. DROP leaves the peer IDLE and empty. ARM or DISARM of a group whose
collective is in flight only sets IGNORED; an ARM that fails a check sets REFUSED with its REASON and leaves the
group; else the group is ARMED as read. DISARM makes it IDLE. EN of an allowed port going to 1 clears its failed lanes
and starts training; at its end the port is up at the widest sound width. A failed lane brings the port down to train
again, or retires it where no width is left. Rests on 11_fabric_collectives (R336, R338, R347, R348, R352). -/
def Obligations.PeersGroupsAndPorts : Prop :=
  (∀ (i : Nat) (s : State), s.opens ⟨.fabPeerCtrl, 0, 0, 0⟩ = true → i < 1024 → s.noColl → Answers (.peerLoad i) s fun t =>
    let e := ((peerEntry i : M s _) ⟨s, Reach.refl s⟩).1
    let node := bits (nth e 0) 15 0
    if bit (nth e 0) 63 = false then t.peerState i = 0 ∧ t.peer i = {}
    else if node = s.fld F.fabNode_node ∨
        (List.range 1024).any (fun j => j != i && s.peerState j == 2 && s.fld F.fabPeerState_node j == node) = true then
      t.peerState i = 3 ∧ t.fld F.fabPeerState_reason i = 6
    else t.peerState i = 1 ∧ (t.peer i).triedAt = s.now) ∧
  (∀ (i : Nat) (s : State), s.opens ⟨.fabPeerCtrl, 0, 0, 0⟩ = true → i < 1024 → Answers (.peerDrop i) s fun t =>
    t.peerState i = 0 ∧ t.peer i = {}) ∧
  (∀ (arm : Bool) (g : Nat) (s : State), s.opens ⟨.reelGroupCtrl, 0, 0, 0⟩ = true → g < 1024 →
    Answers (if arm then .groupArm g else .groupDisarm g) s fun t =>
      if (s.grp g).coll.isSome then t.flag F.reelGroupStatus_ignored = true ∧ SameRegs [.reelGroupStatus] s t ∧ t.fab = s.fab
      else if arm then
        let r := ((groupRead g : M s _) ⟨s, Reach.refl s⟩).1
        t.fld F.reelGroupStatus_reason = r.1 ∧
        (r.1 ≠ 0 → t.flag F.reelGroupStatus_refused = true ∧ t.fab = s.fab ∧ t.grpState g = s.grpState g) ∧
        (r.1 = 0 → t.flag F.reelGroupStatus_done = true ∧ t.grpState g = 1 ∧ t.grp g = r.2 ∧
          t.fld F.reelGroupState_nextSeq g = 0)
      else t.grpState g = 0 ∧ t.flag F.reelGroupStatus_done = true ∧ t.grp g = { capRec := (s.grp g).capRec }) ∧
  (∀ (p : Nat) (s : State), s.opens ⟨.fabPortCtrl, p, 0, 0⟩ = true →
    (s.portAllowed p = true → s.flag F.fabPortCtrl_en p = false → Answers (.portEnable p) s fun t =>
      t.flag F.fabPortCtrl_en p = true ∧ t.flag F.fabPortStatus_up p = false ∧ t.fld F.fabPortStatus_lanesFailed p = 0 ∧
      t.flag F.fabPortStatus_retired p = false ∧ p ∈ t.fab.training) ∧
    (s.portAllowed p = false ∨ s.flag F.fabPortCtrl_en p = true → exec (.portEnable p) s = .next s)) ∧
  (∀ (p : Nat) (s : State), p < 48 → p ∈ s.fab.training → s.fab.refDown = false → s.noColl → Answers (.portRetrainDone p) s fun t =>
    t.flag F.fabPortStatus_up p = true ∧ p ∉ t.fab.training ∧ bit (t.fld F.featFabric_value) p = true ∧
    ∀ w, soundWidth (s.fld F.fabPortStatus_lanesFailed p) (s.fld F.fabPortCtrl_width p) = some w →
      t.fld F.fabPortStatus_widthActive p = w) ∧
  ∀ (p lane : Nat) (s : State), p < 48 → lane < 8 → s.flag F.fabPortCtrl_en p = true → s.flag F.fabPortStatus_retired p = false →
    bit (s.fld F.fabPortStatus_lanesFailed p) lane = false → Answers (.laneFail p lane) s fun t =>
      let failed := s.fld F.fabPortStatus_lanesFailed p + 2 ^ lane
      t.fld F.fabPortStatus_lanesFailed p = failed ∧ t.flag F.fabPortStatus_up p = false ∧
      if soundWidth failed (s.fld F.fabPortCtrl_width p) = none then
        t.flag F.fabPortStatus_retired p = true ∧ p ∉ t.fab.training ∧ bit (t.fld F.featFabric_value) p = false
      else p ∈ t.fab.training ∧ t.flag F.fabPortStatus_retired p = false

/-- Training ends ACTIVE at the widest width that WIDTH allows and sound lanes make up, else DOWN, and held interrupts
go out in order; a lost lane, a retry 100 ms after DOWN and RETRAIN train again and are counted, and so is a flit's replay. THM_SYNC
returns 0. Unmasking a pending vector delivers it once, or holds it while the link is not ACTIVE. That a lane excluded
stays so until the next training from DOWN and that the retry tries every lane are the model's choices (log entry 43).
Rests on 12_companion_link (R364, R365, R366, R374, R377, R379). -/
def Obligations.LinkTrainsAndInterrupts : Prop :=
  (∀ (lanes : Nat) (s : State), s.linkOut = true → s.fld F.thmLinkStatus_state = 1 ∨ s.fld F.thmLinkStatus_state = 3 →
    Answers (.linkTrainingDone lanes) s fun t =>
      let sound := lanes % 2 ^ 32 &&& (s.fld F.thmLinkStatus_lanesFailed ^^^ (2 ^ 32 - 1))
      let limit := s.fld F.thmLinkCtrl_width
      let ok (w : Nat) : Prop := limit ≤ w ∧ ∃ i, i < 2 ^ w ∧ ∀ b, b < 32 / 2 ^ w → bit sound (32 / 2 ^ w * i + b) = true
      t.fld F.thmLinkStatus_lanesFailed = sound ^^^ (2 ^ 32 - 1) ∧
      (∀ w, w < 3 → ok w → (∀ v, v < w → ¬ok v) → t.fld F.thmLinkStatus_state = 2 ∧ t.fld F.thmLinkStatus_widthActive = w ∧
        t.thm.held = [] ∧ (s.flag F.hbErrCfg_en = false → t.out = s.out ++ s.thm.held.map Out.irq)) ∧
      ((∀ w, w < 3 → ¬ok w) → t.fld F.thmLinkStatus_state = 0)) ∧
  (∀ (i : Instr) (failed state : Nat) (s : State),
    ((∃ lane, i = .linkLaneLoss lane ∧ lane < 32 ∧ s.linkActive = true ∧ s.linkOut = true ∧ state = 3 ∧
        failed = s.fld F.thmLinkStatus_lanesFailed ||| 2 ^ lane) ∨
      (i = .linkDownRetry ∧ s.fld F.thmLinkStatus_state = 0 ∧ s.linkOut = true ∧ s.thm.downAt + 100000 ≤ s.now ∧ state = 1 ∧ failed = 0) ∨
      (i = .retrain ∧ s.opens ⟨.thmLinkCtrl, 0, 0, 0⟩ = true ∧ state = 1 ∧ failed = 0)) → Answers i s fun t =>
      t.fld F.thmLinkStatus_state = state ∧ t.fld F.thmLinkStatus_lanesFailed = failed ∧
      t.fld F.thmLinkStatus_retrains = satAdd 16 (s.fld F.thmLinkStatus_retrains) 1) ∧
  (∀ s : State, s.linkOut = true → Answers .theamFlitReplay s fun t =>
    t.fld F.thmReplays_count = satAdd 64 (s.fld F.thmReplays_count) 1 ∧ SameRegs [.thmReplays] s t ∧ SameStore s t) ∧
  (∀ s : State, s.opens ⟨.thmSync, 0, 0, 0⟩ = true → Answers .thmSync s fun t =>
    t.out = s.out ++ [.linkData (List.replicate 8 0)] ∧ SameRegs [] s t ∧ SameStore s t) ∧
  (∀ (v : Nat) (s : State), v < 256 → s.opens ⟨.thmVecMask, v / 64, 0, 0⟩ = true →
    (∀ b, b < 64 → b ≠ v % 64 → bit (s.fld F.thmVecPend_pend (v / 64)) b = true → bit (s.fld F.thmVecMask_mask (v / 64)) b = true) →
    Answers (.vectorUnmask v) s fun t =>
      (∀ u, t.vecMasked u = (s.vecMasked u && !(u == v))) ∧ bit (t.fld F.thmVecPend_pend (v / 64)) (v % 64) = false ∧
      if bit (s.fld F.thmVecPend_pend (v / 64)) (v % 64) then
        (s.linkActive = true → t.out = s.out ++ [.irq v]) ∧ (s.linkActive = false → t.out = s.out ∧ t.thm.held = s.thm.held ++ [v])
      else t.out = s.out ∧ t.thm = s.thm)

/-- A companion access that reaches backed memory returns the bytes as a read finds them, or changes exactly the bytes
written; a refused one is counted and gets an error response; with EN or READY clear it gets the error alone. A
cacheable read tracks a granule of the flush class; a full filter back-invalidates its oldest entry first. A write-
back replaces the granule; an eviction drops its entry. A snoop's answer or time-out ends the snoop, and a grant that
waited for it follows. That a granted entry counts as dirty is the model's choice (log entry 43). Rests on
12_companion_link (R368, R371, R372, R379), 14_reset_clocks_startup (R413, R418). -/
def Obligations.CompanionAccessesAreCoherent : Prop :=
  (∀ (addr len a : Nat) (s : State), s.Sound → s.windowTo addr len a → Answers (.companionMemRead addr len) s fun t =>
    t.out = s.out ++ [.linkData (s.seenBytes a len)] ∧ ∀ x, t.seen x = s.seen x) ∧
  (∀ (addr a : Nat) (bs : List Byte) (s : State), s.Sound → s.windowTo addr bs.length a → Answers (.companionMemWrite addr bs) s fun t =>
    if s.refusesWrite a = true then t.fld F.thmRefused_count = satAdd 64 (s.fld F.thmRefused_count) 1 ∧
      t.out = s.out ++ [.linkError] ∧ SameStore s t
    else t.out = s.out ++ [.linkAck] ∧ BytesStored s t a bs) ∧
  (∀ (addr len a : Nat) (s : State), addr = s.fld F.thmMemBase_base * 2 ^ 41 + a → a < 2 ^ 41 → (blockOf a).any s.inReset = false →
    Answers (.companionMemRead addr len) s fun t =>
      let off := s.flag F.thmMemBase_en = false ∨ s.flag F.rstStatus_ready = false
      (off → t.out = s.out ++ [.linkError] ∧ SameRegs [] s t ∧ SameStore s t) ∧
      (¬off → len ∉ [1, 2, 4, 8, 16, 32, 64] ∨ a % len ≠ 0 ∨ s.backed a = false →
        t.fld F.thmRefused_count = satAdd 64 (s.fld F.thmRefused_count) 1 ∧ t.out = s.out ++ [.linkError] ∧
        SameRegs [.thmRefused] s t ∧ SameStore s t)) ∧
  (∀ (addr a : Nat) (s : State), s.Sound → s.windowTo addr 64 a → Answers (.companionCacheableRead addr) s fun t =>
    let g := a / 64
    let tracked := ∃ d, (g, d) ∈ s.thm.filter
    (flushClass a = false ∨ tracked ∨ s.thm.filter.length < 524288 → t.out = s.out ++ [.linkData (s.seenBytes a 64)] ∧
      (∀ x, t.seen x = s.seen x) ∧
      t.thm.filter = if flushClass a then s.thm.filter.filter (fun e => e.1 != g) ++ [(g, true)] else s.thm.filter) ∧
    ∀ e rest, flushClass a = true → ¬tracked → s.thm.filter = e :: rest → 524288 ≤ s.thm.filter.length → s.thm.snoop = none →
      t.thm.snoop = some { gran := e.1, inval := true, back := some g, since := s.now } ∧ t.out = s.out ++ [.snoop e.1] ∧
      t.fld F.thmBackinv_count = satAdd 64 (s.fld F.thmBackinv_count) 1 ∧ t.thm.filter = s.thm.filter) ∧
  (∀ (addr a : Nat) (bs : List Byte) (evict : Bool) (s : State), s.Sound → bs.length = 64 → s.windowTo addr 64 a →
    s.refusesWrite a = false → Answers (.companionWriteback addr bs evict) s fun t =>
      t.out = s.out ++ [.linkAck] ∧ BytesStored s t a bs ∧
      t.thm.filter = if evict then s.thm.filter.filter (fun e => e.1 != a / 64)
        else s.thm.filter.map fun e => if e.1 == a / 64 then (e.1, false) else e) ∧
  (∀ (data : Option (List Byte)) (x : Snoop) (s : State), s.Sound → s.thm.snoop = some x → x.back = none →
    Answers (.snoopResponse data) s fun t =>
      t.thm.snoop = none ∧ t.out = s.out ∧
      t.thm.filter = (if x.inval then s.thm.filter.filter fun e => e.1 != x.gran
        else s.thm.filter.map fun e => if e.1 == x.gran then (e.1, false) else e) ∧
      (data = none → SameStore s t) ∧
      ∀ bs, data = some bs → bs.length = 64 → s.refusesWrite (64 * x.gran) = false → BytesStored s t (64 * x.gran) bs) ∧
  (∀ (x : Snoop) (g : Nat) (s : State), s.Sound → s.thm.snoop = some x → x.back = some g → x.inval = true → flushClass (64 * g) = true →
    Answers (.snoopResponse none) s fun t => t.thm.snoop = none ∧ t.out = s.out ++ [.linkData (s.seenBytes (64 * g) 64)] ∧
      t.thm.filter = (s.thm.filter.filter fun e => e.1 != x.gran).filter (fun e => e.1 != g) ++ [(g, true)]) ∧
  (∀ (x : Snoop) (s : State), s.thm.snoop = some x → x.back = none → x.since + 1000 ≤ s.now → Answers .snoopTimeout s fun t =>
    t.thm.snoop = none ∧ t.thm.filter = s.thm.filter.filter (fun e => e.1 != x.gran) ∧
    t.fld F.thmSnoopTimeouts_count = satAdd 64 (s.fld F.thmSnoopTimeouts_count) 1)

/-- An input sample up to 65 V joins the tick's samples; above 60 V ALERT_N is asserted, below 40 V for 10 us the
module brakes, below 36 V for 100 us or above 62 V for 10 us it trips; above 65 V the step stops. The brake ends after
1 ms at 40 V, and the land brakes while low: BRAKE shows it, the points fit the lowered limit, the hub clock is at
most 900 MHz. A rail check shows current and voltage, sets the flags of exceeded windows, gates, lowers points and
ceilings; a ceiling recovers by one point after 1 ms. An overcurrent or power-good time-out trips with KIND 2. A tick
takes the mean input power and gives every consumer the highest point within its grant, CAP_UNMET where the least
points exceed what is available. The order of causes and the first ceiling step are choices (log entry 47). Rests on
13_power_thermal (R380, R382, R384, R386, R387, R389, R401), 14_reset_clocks_startup (R408, R412), 17_package_pins
(R493). -/
def Obligations.PowerFollowsInputAndRails : Prop :=
  (∀ (mv ma : Nat) (s : State), s.tempoOn = true → Answers (.inputSample (mv % 65001) ma) s fun t =>
    let v := mv % 65001
    (36000 ≤ v → v ≤ 62000 → t.pwr.samples = s.pwr.samples ++ [(v, v * ma / 1000)]) ∧
    (60000 < v → v ≤ 62000 → s.pwr.highIn = false → t.flag F.pwrStatus_alert = true) ∧
    (36000 ≤ v → v < 40000 → lasted s.pwr.below40 10 s.now = true → s.pwr.inBrake = false →
      t.pwr.inBrake = true ∧ t.flag F.pwrStatus_brake = true ∧ t.pointsGranted) ∧
    ((v < 36000 ∧ lasted s.pwr.below36 100 s.now = true) ∨ (62000 < v ∧ lasted s.pwr.above62 10 s.now = true) → Tripped s t 3 0)) ∧
  (∀ (mv ma : Nat) (s : State), 65000 < mv → exec (.inputSample mv ma) s = .fault .beyondRatings) ∧
  (∀ s : State, s.tempoOn = true → s.pwr.inBrake = true → lasted s.pwr.above40 1000 s.now = true →
    Answers .inputBrakeEnd s fun t => t.pwr.inBrake = false ∧ t.flag F.pwrStatus_brake = s.pwr.land ∧ t.diesShown) ∧
  (∀ s : State, Answers .pwrbrkAssert s fun t => t.pwr.land = true ∧
    (s.tempoOn = true → t.flag F.pwrStatus_brake = true ∧ t.pointsGranted ∧ t.clockNow 2 ≤ 900 ∧ t.diesShown)) ∧
  (∀ s : State, Answers .pwrbrkRelease s fun t => t.pwr.land = false ∧
    (s.tempoOn = true → t.flag F.pwrStatus_brake = s.pwr.inBrake ∧ t.diesShown)) ∧
  (∀ (r i1 i10 i100 mv : Nat) (s : State), s.tempoOn = true → r < 13 → Answers (.railCheck r i1 i10 i100 mv) s fun t =>
    let lim (f : Fld) : Nat := s.fld f r * (if r = 12 then 100 else 1000)
    let over1 := decide (lim F.pwrCapRail_lim1us < i1)
    let over10 := decide (lim F.pwrCapRail_lim10us < i10)
    let over100 := decide (lim F.pwrCapRail_lim100us < i100)
    let ceil := Tab.get 0 s.pwr.ceil r
    let stepped := r < 4 ∨ 5 ≤ r ∧ r ≤ 8
    t.fld F.pwrRail_amps r = i100 / 250 % 2 ^ 16 ∧ t.fld F.pwrRail_mv r = mv % 2 ^ 16 ∧
    t.flag F.pwrRail_over1us r = (s.flag F.pwrRail_over1us r || over1) ∧
    t.flag F.pwrRail_over10us r = (s.flag F.pwrRail_over10us r || over10) ∧
    t.flag F.pwrRail_over100us r = (s.flag F.pwrRail_over100us r || over100) ∧
    t.pwr.gated.contains r = over1 ∧
    (over10 = true → Tab.get 0 t.pwr.low10 r = min 20 (Tab.get 0 s.pwr.low10 r + 1)) ∧
    (over10 = false → over100 = false → Tab.get 0 t.pwr.low10 r = 0) ∧
    (over100 = false → Tab.get 0 t.pwr.ceil r = ceil) ∧
    (over100 = true → stepped → Tab.get 0 s.pwr.acted r = 0 → Tab.get 0 t.pwr.ceil r = s.lowered ((consumersOf r).headD 0) ceil) ∧
    (over100 = true → stepped → 0 < Tab.get 0 s.pwr.acted r → s.now + 1 < Tab.get 0 s.pwr.acted r + 100 →
      Tab.get 0 t.pwr.ceil r = ceil) ∧ t.diesShown) ∧
  (∀ (r : Nat) (s : State), s.tempoOn = true → r < 13 → 0 < Tab.get 0 s.pwr.ceil r →
    lasted (Tab.get none s.pwr.under95 r) 1000 s.now = true → Answers (.railCeilingRecovery r) s fun t =>
      Tab.get 0 t.pwr.ceil r = Tab.get 0 s.pwr.ceil r - 1 ∧ t.diesShown) ∧
  (∀ (i : Instr) (r : Nat) (s : State), i = .polOvercurrent r ∨ i = .railPowerGoodTimeout r → r < 13 → s.pwr.off = false →
    Answers i s fun t => Tripped s t 2 r) ∧
  ∀ (draws : List Nat) (s : State), s.tempoOn = true → (∀ w ∈ s.sec.switches, w.kind ≠ 2) → Answers (.tempoTick draws) s fun t =>
    t.pwr.draws = draws ∧ t.pwr.tick = s.now ∧ t.pwr.samples = [] ∧ t.pointsGranted ∧ t.diesShown ∧
    t.fld F.pwrInput_milliwatts = (if s.pwr.samples = [] then s.fld F.pwrInput_milliwatts
      else (s.pwr.samples.map Prod.snd).sum / s.pwr.samples.length % 2 ^ 32) ∧
    (t.grants.2 = true → t.flag F.pwrStatus_capUnmet = true)

/-- CUE completes at issue; with CUE_EN set it joins the cues, taking the dies it names from those of its kind whose
phase has not begun, and with CUE_EN 0 the cues stay. At its moment it holds its dies out of rest and its phase begins; the
phase ends; within 20 us of its start it is counted as a hit at 10 % busy and as a miss below; one that has ended and
been counted is forgotten. A half-step is counted, and the first of a run as a droop; after eight the die's clock is
half of its point until the recovery. That half-steps of one microsecond are a run is the model's choice (log entry
47). Rests on 02_command_stream (R71), 13_power_thermal (R390, R391, R392, R393). -/
def Obligations.CuesAndDroop : Prop :=
  (∀ (c id : Nat) (s : State) (p : Pkt), s.issued c id 0x81 p → Answers (.cue c id) s fun t =>
    t.ended c id stOk 0 ∧
    let start := p.at_ + p.f 2 15 0
    let q : Cue := { kind := p.f 2 19 16, dies := p.f 2 49 48, at_ := p.at_, start := start,
                     finish := start + (if p.f 2 47 32 = 0 then s.fld F.pwrCfg_cueHoldUs else p.f 2 47 32), level := p.f 2 31 24 }
    let both (d : Nat) : Nat := if d = 0 then 3 else d
    let left (o : Cue) : Option Cue :=
      let common := both q.dies &&& both o.dies
      if q.kind = o.kind ∧ o.begun = false ∧ common ≠ 0 then
        (if common = both o.dies then none else some { o with dies := both o.dies - common })
      else some o
    (s.flag F.pwrCfg_cueEn = false → t.pwr = s.pwr) ∧
    (s.flag F.pwrCfg_cueEn = true → (∀ w ∈ s.sec.switches, w.kind ≠ 2) → ∃ h, p.at_ ≤ h ∧ (h ≤ q.start ∨ h = p.at_) ∧
      t.pwr.cues = s.pwr.cues.filterMap left ++ [{ q with hold := h }])) ∧
  (∀ (i : Nat) (q : Cue) (s : State), s.tempoOn = true → s.pwr.cues[i]? = some q → q.ended = false → q.holding = false → q.hold ≤ s.now →
    Answers (.cuePhaseStart i) s fun t => t.pwr.cues[i]? = some { q with holding := true, begun := decide (q.start ≤ s.now) } ∧
      (s.flag F.pwrCfg_cueEn = true → q.kind = 0 ∨ q.kind = 2 → ∀ d, d < 2 → q.names d = true → t.flag F.pwrDie_cueHold d = true)) ∧
  (∀ (i : Nat) (q : Cue) (s : State), s.tempoOn = true → s.pwr.cues[i]? = some q → q.begun = true → q.ended = false → q.finish ≤ s.now →
    Answers (.cuePhaseEnd i) s fun t => (∀ y ∈ t.pwr.cues, y.ended = true → y.counted = false) ∧
      (q.counted = false → { q with ended := true, holding := false } ∈ t.pwr.cues) ∧ t.diesShown) ∧
  (∀ (i busy : Nat) (q : Cue) (s : State), s.tempoOn = true → s.pwr.cues[i]? = some q → q.begun = true → q.counted = false →
    q.start + 20 ≤ s.now → Answers (.cueEvaluation i busy) s fun t =>
      (10 ≤ busy → t.fld F.pwrCueHits_count = satAdd 64 (s.fld F.pwrCueHits_count) 1 ∧ SameRegs [.pwrCueHits] s t) ∧
      (busy < 10 → t.fld F.pwrCueMisses_count = satAdd 64 (s.fld F.pwrCueMisses_count) 1 ∧ SameRegs [.pwrCueMisses] s t) ∧
      (∀ y ∈ t.pwr.cues, y.ended = true → y.counted = false) ∧ (q.ended = false → { q with counted := true } ∈ t.pwr.cues)) ∧
  (∀ (d n : Nat) (s : State), s.tempoOn = true → d < 2 → d ∉ s.pwr.droop → n < 8 →
    (n = 0 ∧ (Tab.get (0, 0) s.pwr.runs d).1 ≠ s.now + 1) ∨ Tab.get (0, 0) s.pwr.runs d = (s.now + 1, n) →
    Answers (.droopDetect d) s fun t =>
      Tab.get (0, 0) t.pwr.runs d = (s.now + 1, n + 1) ∧
      t.fld F.pwrHalfSteps_count d = satAdd 64 (s.fld F.pwrHalfSteps_count d) 1 ∧
      t.fld F.pwrDroops_count d = (if n = 0 then satAdd 64 (s.fld F.pwrDroops_count d) 1 else s.fld F.pwrDroops_count d) ∧
      SameRegs [.pwrHalfSteps, .pwrDroops] s t) ∧
  (∀ (d : Nat) (s : State), s.tempoOn = true → d < 2 → d ∉ s.pwr.droop → (Tab.get (0, 0) s.pwr.runs d).2 = 8 →
    Answers (.droopFallback d) s fun t => t.pwr.droop = s.pwr.droop ++ [d] ∧ t.clockNow d = (500 + 25 * t.pointNow d) / 2 ∧
      t.fld F.pwrFallbacks_count d = satAdd 64 (s.fld F.pwrFallbacks_count d) 1 ∧ 5 ∈ t.causes d ∧ t.diesShown) ∧
  ∀ (d : Nat) (s : State), d < 2 → d ∈ s.pwr.droop → Answers (.droopRecover d) s fun t =>
    t.pwr.droop = s.pwr.droop.filter (· != d) ∧ t.clockNow d = 500 + 25 * t.pointNow d ∧ t.diesShown

/-- Of an input whose read is due, a good reading stands in its register; at the alert threshold ALERT_N is asserted; at the trip temperature the
module trips with KIND 0 and the sensor. A bad read is held back, the second in a row trips with KIND 1. At 95 C a
part steps down every 100 us and below 93 C up every 1 ms; an external input at THROTTLE lowers the cap by 50 W every
1 ms, and 2 C below raises it every 10 ms. The alert ends after 1 ms. The idle state entered is the deepest allowed:
within MAX_STATE and every enabled partition's wake budget, with no context loading, running or saving; I1 changes
nothing but the status, from I2 on every set's logic is power-gated, and loaded contexts are saved for I3. A wake
event starts a wake, after which the module is in I0 and no set is gated. The sensors' figures are operands (log entry
9). Rests on 13_power_thermal (R395, R396, R397, R398, R399, R400, R401). -/
def Obligations.TemperatureAndIdleStates : Prop :=
  (∀ (i : Nat) (raw : Int) (bad : Bool) (s : State), s.tempoOn = true → i < 106 → (96 ≤ i → s.flag F.tmpSense_disabled i = false) →
    s.readDue i = true → Answers (if i < 96 then .sensorRead i raw bad else .externalSensorRead i raw bad) s fun t =>
      let r := raw + s.sensorOffset i
      let wrong := bad = true ∨ r < -640 ∨ 2400 < r
      let trip : Int := if i < 84 then 1840 else if i < 96 then 1600 else signed 16 (s.fld F.tmpExtLim_trip (i - 96))
      let alert : Int := if i < 84 then 1680 else 1520
      (wrong → Tab.get 0 s.pwr.badReads i = 0 → Tab.get 0 t.pwr.badReads i = 1 ∧ SameRegs [] s t ∧ SameStore s t) ∧
      (wrong → Tab.get 0 s.pwr.badReads i = 1 → Tripped s t 1 i) ∧
      (¬wrong → trip ≤ r → Tripped s t 0 i) ∧
      (¬wrong → r < trip → t.temp i = r ∧ t.flag F.tmpSense_valid i = true ∧ t.flag F.tmpSense_broken i = false ∧
        Tab.get 0 t.pwr.badReads i = 0 ∧ t.diesShown ∧
        (i < 96 → alert ≤ r → t.flag F.pwrStatus_alert = true ∧ i ∈ t.pwr.alerts) ∧ (r < alert ∨ 96 ≤ i → i ∉ t.pwr.alerts))) ∧
  (∀ (part : Nat) (x : Int) (s : State), s.tempoOn = true → part < 3 → s.hottest part = some x →
    (95 * 16 ≤ x ∧ Tab.get 0 s.pwr.stepped part + 100 ≤ s.now + 1) ∨
      (x < 93 * 16 ∧ 0 < Tab.get 0 s.pwr.hot part ∧ Tab.get 0 s.pwr.stepped part + 1000 ≤ s.now + 1) →
    Answers (.thermalStep part) s fun t =>
      let old := Tab.get 0 s.pwr.hot part
      Tab.get 0 t.pwr.hot part = (if x < 93 * 16 then old - 1 else if part = 2 then min 2 (old + 1) else min (s.top part) (s.lowered part old)) ∧
      Tab.get 0 t.pwr.stepped part = s.now + 1 ∧ t.diesShown) ∧
  (∀ (j : Nat) (s : State), s.tempoOn = true → j < 10 → s.flag F.tmpSense_valid (96 + j) = true → Answers (.extThrottleStep j) s fun t =>
    let lim : Int := signed 16 (s.fld F.tmpExtLim_throttle j)
    let low := Tab.get 0 s.pwr.extLow j
    let last := Tab.get 0 s.pwr.stepped (16 + j)
    (lim ≤ s.temp (96 + j) → last + 1000 ≤ s.now + 1 → Tab.get 0 t.pwr.extLow j = low + 50) ∧
    (s.temp (96 + j) ≤ lim - 32 → 0 < low → last + 10000 ≤ s.now + 1 → Tab.get 0 t.pwr.extLow j = low - 50) ∧
    (lim - 32 < s.temp (96 + j) → s.temp (96 + j) < lim → t.pwr = s.pwr)) ∧
  (∀ s : State, s.tempoOn = true → s.pwr.alerts = [] → s.pwr.highIn = false → lasted s.pwr.alertOver 1000 s.now = true →
    Answers .alertRelease s fun t => t.flag F.pwrStatus_alert = false ∧ SameRegs [.pwrStatus] s t) ∧
  (∀ s : State, s.tempoOn = true → s.pwr.waking = false → s.flag F.rstStatus_ready = true → s.fld F.pwrStatus_idle < s.deepest →
    Answers .idleEnter s fun t =>
      let k := t.fld F.pwrStatus_idle
      k = s.deepest ∧ k ≤ 4 ∧ k ≤ s.fld F.pwrIdleCfg_maxState ∧
      (∀ p, p < 16 → s.inForce F.schPartCfg_en p ≠ 0 → nth [0, 3, 60, 900, 25000] k ≤ s.inForce F.schPartCfg_wakeUs p) ∧
      (∀ c ∈ s.enabledCtxs, s.ctxState c ∉ [2, 3, 6, 7]) ∧ (k < 2 → SameRegs [.pwrStatus] s t) ∧
      (k < 3 → SameRegs [.pwrStatus, .cdSetStatus] s t ∧ SameStore s t) ∧
      (2 ≤ k → s.fld F.pwrStatus_idle < 2 → ∀ d i, d < 2 → i < 40 → t.flag F.cdSetStatus_gated d i = true) ∧
      t.pwr.parked = s.pwr.parked ++ (if 3 ≤ k ∧ s.fld F.pwrStatus_idle < 3 then s.enabledCtxs.filter s.loaded else [])) ∧
  (∀ (cause : Nat) (s : State), s.tempoOn = true → cause < 5 → Answers (.idleWake cause) s fun t =>
    t.pwr = { s.pwr with waking := s.pwr.waking || s.fld F.pwrStatus_idle != 0 } ∧ SameRegs [] s t ∧ SameStore s t) ∧
  ∀ s : State, s.pwr.waking = true → s.pwr.heldDebug = [] → Answers .idleWakeDone s fun t =>
    t.fld F.pwrStatus_idle = 0 ∧ t.pwr.waking = false ∧ t.pwr.parked = [] ∧
    (2 ≤ s.fld F.pwrStatus_idle → ∀ d i, d < 2 → i < 40 → t.flag F.cdSetStatus_gated d i = false) ∧
    (s.fld F.pwrStatus_idle < 4 → s.pwr.parked = [] → SameRegs [.pwrStatus, .cdSetStatus] s t ∧ SameStore s t) ∧
    (s.fld F.pwrStatus_idle < 2 → s.pwr.parked = [] → SameRegs [.pwrStatus] s t)

/-- Each source, asserted where its condition holds, joins the asserted sources, sets its bit of RST_CAUSE and closes
every block of its reach. One that reaches the hub clears READY, leaves no context, queue, request slot or unit state,
puts zeros into all on-die SRAM, leaves other memory, and brings the registers of its reach back to their reset
values; another leaves memory and the contexts. A power-on reset clears the epoch and the watchdog count, a hot reset
leaves the link, a violation stands in an empty journal. The latch's release puts a power-on reset in the trip's
place. A soft reset is accepted in the states of R417 and closes its block, else REFUSED is set. A failed fabric
reference takes the enabled ports down. Rests on 14_reset_clocks_startup (R405, R406, R408, R415, R417, R418, R419),
15_security_lifecycle (R438, R450), 16_errors_recovery (R469). -/
def Obligations.ResetsAreAsserted : Prop :=
  (∀ (i : Instr) (src : Nat) (s : State),
    ((i = .powerOnAssert ∧ src = 0) ∨ (i = .mrstAssert ∧ src = 1) ∨ (i = .hotResetAssert ∧ src = 2 ∧ .link ∉ s.rst.closed) ∨
      (i = .watchdogExpiry ∧ src = 3 ∧ .mgmt ∉ s.rst.closed) ∨
      (∃ k, i = .mgmtMemoryUncorrectable k ∧ k < 4 ∧ src = 3 ∧ .mgmt ∉ s.rst.closed) ∨
      (∃ code, i = .securityViolation code ∧ src = 5) ∨
      (∃ reach, i = .debugReset reach ∧ src = 6 ∧ s.flag F.secDbgStatus_resetOk = true ∧ .hub ∉ s.rst.closed) ∨
      (i = .refclkFail true ∧ src = 7)) → Answers i s fun t =>
      src ∈ t.rst.sources ∧ bit (t.reg ⟨.rstCause, 0, 0, 0⟩) src = true ∧ (∀ b ∈ s.rst.closed, b ∈ t.rst.closed) ∧
      (∀ b ∈ allBlocks, (src = 0 ∨ src = 5) ∨ ((src = 1 ∨ src = 7) ∧ b ≠ .aon) ∨ (src = 2 ∧ b ≠ .aon ∧ b ≠ .link) ∨
          (src = 3 ∧ (b = .mgmt ∨ ∃ k, b = .caller k)) → b ∈ t.rst.closed) ∧
      (∀ reach j, i = .debugReset reach → j < 6 → bit reach j = true → ∀ b ∈ allBlocks, reachOf j b = true → b ∈ t.rst.closed) ∧
      (src = 2 → .link ∉ t.rst.closed ∧ t.reg ⟨.thmLinkStatus, 0, 0, 0⟩ = s.reg ⟨.thmLinkStatus, 0, 0, 0⟩) ∧
      if t.reaches src .hub = true then
        t.flag F.rstStatus_ready = false ∧ t.ctxs = [] ∧ t.que = [] ∧ t.slots = [] ∧ t.units = [] ∧ t.sets = [] ∧ t.keys = [] ∧
        (∀ x, t.byteAt x = if isSram x then 0 else s.byteAt x) ∧ ∀ r, t.clears src r = true → t.reg r = r.reset.toNat
      else t.flag F.rstStatus_ready = s.flag F.rstStatus_ready ∧ t.ctxs = s.ctxs ∧ SameStore s t) ∧
  (∀ s : State, Answers .powerOnAssert s fun t => t.fld F.rstHubEpoch_epoch = 0 ∧ t.fld F.rstWdogCount_count = 0 ∧
    t.flag F.rstCause_trip = s.flag F.rstCause_trip ∧ t.flag F.rstCause_security = s.flag F.rstCause_security ∧
    t.flag F.rstCause_mrst = false ∧ t.rst.timedOut = [] ∧ t.reg ⟨.tmpTripCause, 0, 0, 0⟩ = s.reg ⟨.tmpTripCause, 0, 0, 0⟩) ∧
  (∀ (code : Nat) (s : State), s.journal = [] → Answers (.securityViolation code) s fun t =>
    t.journal = [(2 ^ 31 + 7 * 2 ^ 28 + code % 256, s.fld F.rstHubEpoch_epoch)]) ∧
  (∀ s : State, s.pwr.latched = true → Answers .tripLatchRelease s fun t => t.pwr.latched = false ∧ 0 ∈ t.rst.sources ∧
    4 ∉ t.rst.sources ∧ t.flag F.rstCause_por = true ∧ ∀ b ∈ allBlocks, b ∈ t.rst.closed) ∧
  (∀ (kind die idx : Nat) (s : State), s.opens ⟨.rstSoft, 0, 0, 0⟩ = true → Answers (.softReset kind die idx) s fun t =>
    let k := kind % 4
    let d := die % 2
    let n := idx % 64
    if s.rst.soft = none ∧ s.softOk k d n = true then
      t.rst.soft = some (k, d, n) ∧ t.flag F.rstSoftStatus_busy = true ∧ softBlk k d n ∈ t.rst.closed ∧
      (k = 0 → ∀ x, bufAt (40 * d + n) ≤ x → x < bufAt (40 * d + n) + 0x300000 → t.byteAt x = 0) ∧
      (k = 1 → ∀ x, targetOf x = n → t.byteAt x = 0)
    else t.flag F.rstSoftStatus_refused = true ∧ t.rst = s.rst ∧ SameStore s t) ∧
  ∀ s : State, s.fabOwnRef = true → s.fab.refDown = false → Answers (.refclkFail false) s fun t =>
    t.fab.refDown = true ∧ (.hub ∉ s.rst.closed → ∀ p, p < 48 → p ∈ s.portsOn → t.flag F.fabPortStatus_up p = false)

/-- A released source is no longer asserted; once no source is left the always-on block opens, and the hub, dies and
populated stacks in reset begin to lock. A power-on, MRST_N or core reference release reads the option record. A lock
releases its domain: the hub with the counter at 0 and the epoch raised, a die, or a stack's bank clear. A clear and a
wipe put zeros into the part and no other address, and open the stack; a part that times out is as though unpopulated,
and a stack leaves the published feature values. The first good management image of the two slots runs, or BOOT_FAIL
is set. FEAT_PUBLISH publishes the stacks and capacities in service, and READY follows once nothing is left to clear
or wipe. A soft reset's release, once nothing else holds the block, opens it. A recovered fabric reference trains the
enabled ports. Rests on 14_reset_clocks_startup (R405, R407, R408, R409, R412, R415, R416, R417, R419),
02_command_stream (R76). -/
def Obligations.ReleaseAndStartUp : Prop :=
  (∀ (i : Instr) (src : Nat) (s : State),
    ((i = .powerOnRelease ∧ src = 0 ∧ s.pwr.latched = false) ∨ (i = .mrstRelease ∧ src = 1) ∨ (i = .hotResetRelease ∧ src = 2) ∨
      (i = .watchdogRelease ∧ src = 3) ∨ (i = .securityResetRelease ∧ src = 5) ∨ (i = .debugResetRelease ∧ src = 6) ∨
      (i = .refclkRecover true ∧ src = 7)) → src ∈ s.rst.sources → Answers i s fun t =>
      t.rst.sources = s.rst.sources.filter (· != src) ∧ (∀ b ∈ t.rst.closed, b ∈ s.rst.closed) ∧
      ((∀ x ∈ s.rst.sources, x = src) → .aon ∉ t.rst.closed ∧ (.hub ∈ s.rst.closed → .hub ∈ t.rst.closed ∧ 0 ∈ t.rst.unlocked) ∧
        (∀ d, d < 2 → .die d ∈ s.rst.closed → 1 + d ∈ t.rst.unlocked) ∧
        (∀ n, n < 12 → .stack n ∈ s.rst.closed → n ∉ t.tier.absent → n ∉ s.rst.clearing → s.rst.soft = none →
          3 + n ∈ t.rst.unlocked)) ∧
      (src = 0 ∨ src = 1 ∨ src = 7 → t.fld F.rstStatus_optSrc = s.chooseOption.2.1 ∧
        ∀ j, j < 32 → t.opt j = wordAt s.chooseOption.1 j) ∧
      (src = 0 → t.pwr.off = false ∧ ∀ kind index, kind < 7 → index < 256 →
        (s.journal.getLast?).map Prod.fst = some (2 ^ 31 + kind * 2 ^ 28 + index) →
        t.reg ⟨.tmpTripCause, 0, 0, 0⟩ = 2 ^ 31 + kind * 2 ^ 28 + index ∧ t.flag F.rstCause_trip = true) ∧
      (src = 3 → t.fld F.rstWdogCount_count = satAdd 64 (s.fld F.rstWdogCount_count) 1)) ∧
  (∀ (k : Nat) (s : State), k ∈ s.rst.unlocked → Answers (.pllLock k) s fun t =>
    k ∉ t.rst.unlocked ∧
    (k = 0 → .hub ∉ t.rst.closed ∧ .deep ∉ t.rst.closed ∧ t.now = 0 ∧ t.rst.wiping = s.packages ∧
      t.fld F.rstHubEpoch_epoch = (s.fld F.rstHubEpoch_epoch + 1) % 2 ^ 32 ∧ t.fld F.pwrCap_watts = bits (s.opt 4) 42 32) ∧
    (k = 1 ∨ k = 2 → .die (k - 1) ∉ t.rst.closed ∧ SameRegs [] s t) ∧
    (3 ≤ k → t.rst.clearing = s.rst.clearing ++ [k - 3] ∧ t.flag F.rstStatus_wiping = true)) ∧
  (∀ (i : Instr) (deep : Bool) (n : Nat) (s : State),
    (i = .stackClearDone n ∧ deep = false ∧ n ∈ s.rst.clearing) ∨ (i = .deepWipeDone n ∧ deep = true ∧ n ∈ s.rst.wiping) →
    Answers i s fun t =>
      (∀ x, t.byteAt x = if (if deep then inPackage n x else targetOf x == n) then 0 else s.byteAt x) ∧
      t.rst.clearing = (if deep then s.rst.clearing else s.rst.clearing.filter (· != n)) ∧
      t.rst.wiping = (if deep then s.rst.wiping.filter (· != n) else s.rst.wiping) ∧ (deep = false → .stack n ∉ t.rst.closed) ∧
      t.flag F.rstStatus_wiping = (!t.rst.clearing.isEmpty || !t.rst.wiping.isEmpty || t.rst.soft.any fun e => e.1 < 2) ∧
      SameRegs [.rstStatus] s t) ∧
  (∀ (deep : Bool) (n : Nat) (s : State), n ∈ (if deep then s.rst.wiping else s.rst.clearing) → Answers (.wipeTimeout deep n) s fun t =>
    n ∉ (if deep then t.rst.wiping else t.rst.clearing) ∧ (if deep then 16 + n else n) ∈ t.rst.timedOut ∧
    t.rst.closed = s.rst.closed ∧ (deep = false → n ∈ t.tier.absent) ∧
    (deep = false → s.rst.published = true → n < 12 → bit (t.fld F.featStacks_value) n = false)) ∧
  (∀ (okA okB chain : Bool) (s : State), .mgmt ∈ s.rst.closed → .hub ∉ s.rst.closed → s.covered .mgmt = false → s.lc ≠ 4 →
    Answers (.firmwareVerify okA okB chain) s fun t =>
      let first := s.bootSlot
      let ok (slot : Nat) : Bool := if slot = 0 then okA else okB
      t.sec.chainOk = (chain && s.chainFits) ∧ t.sec.recovery = s.noMonitor ∧
      if ok first || ok (1 - first) then
        let slot := if ok first then first else 1 - first
        t.fld F.rstStatus_bootUsed = slot ∧ t.flag F.rstStatus_bootFail = false ∧ .mgmt ∉ t.rst.closed ∧ t.rst.firmware = true ∧
        t.sec.images = s.startImages slot
      else t.flag F.rstStatus_bootFail = true ∧ t.rst = s.rst) ∧
  (∀ s : State, s.rst.firmware = true → s.rst.published = false → .hub ∉ s.rst.closed → Answers .featPublish s fun t =>
    t.rst.published = true ∧ t.fld F.featDeepBytes_value = t.capacity 12 ∧
    t.fld F.featStackBytes_value = (stackList.map t.capacity).sum ∧
    ∀ n, n < 12 → bit (t.fld F.featStacks_value) n = (!t.tier.absent.contains n && !t.tier.lost.contains n)) ∧
  (∀ s : State, s.rst.published = true → s.rst.clearing = [] → s.rst.wiping = [] → s.rst.sources = [] → s.rst.unlocked = [] →
    Answers .ready s fun t => t.flag F.rstStatus_ready = true ∧ SameRegs [.rstStatus] s t ∧ SameStore s t) ∧
  (∀ (k d n : Nat) (s : State), s.rst.soft = some (k, d, n) → s.softDue k d n = true → Answers .softResetRelease s fun t =>
    t.rst.soft = none ∧ t.flag F.rstSoftStatus_busy = false ∧ t.flag F.rstSoftStatus_done = true ∧
    (k ≠ 1 ∨ n ∉ s.tier.absent → softBlk k d n ∉ t.rst.closed)) ∧
  ∀ s : State, s.fab.refDown = true → Answers (.refclkRecover false) s fun t =>
    t.fab.refDown = false ∧ ∀ p ∈ s.portsOn, p ∈ t.fab.training

/-- A request while the monitor waits for recovery or for a transition ends with STATE. ATTEST leaves the signed
evidence in the stage window and uses the next index. LC_CHANGE accepts exactly the transitions of R433 and the reset
that follows blows the fuses; a failed read-back is a violation, with the old or the new fuses. DBG_AUTH opens the
level that the token asks for and R437 grants, draws a new nonce, counts failures and locks after eight in a row;
CLOSE and the expiry end the session, the expiry of a lock-out unlocks. CHAIN_WRITE, when PROVISIONED, puts the staged
chain into flash, or answers FLASH. A confirmed ceiling is in force, a failed one is programmed again. That a request ends in its own command and
STATE counts as a failure are choices (log entry 44); verdicts are operands (log entry 7). Rests on
15_security_lifecycle (R420, R424, R425, R430, R433, R434, R435, R436, R437, R439, R451, R452). -/
def Obligations.MonitorSignsMovesAndAuthenticates : Prop :=
  (∀ (i : Instr) (op : Nat) (s : State), s.opens ⟨.secCmd, 0, 0, 0⟩ = true → s.sec.moving ≠ none ∨ s.sec.recovery = true →
    ((i = .attest ∧ op = 1 ∧ s.signWaits = false) ∨ (∃ b, i = .lcChange b ∧ op = 2) ∨ (∃ b, i = .dbgAuth b ∧ op = 3) ∨
      (i = .dbgClose ∧ op = 4) ∨ (∃ b, i = .chainWrite b ∧ op = 5) ∨ (i = .calReload ∧ op = 8)) → Answers i s fun t =>
      t.answered 4 ∧ t.fld F.secCmd_op = op ∧ t.sec = s.sec ∧ SameStore s t ∧ SameRegs [.secCmd, .secCmdStatus] s t) ∧
  (∀ s : State, s.monitorFree → s.sec.chainOk = true → s.canSign = true → Answers .attest s fun t =>
    let body := s.evidence (s.stage 0 32) (s.stage 0x20 32)
    t.answered 0 ∧ t.stage 0 4020 = body ++ signatureBytes s.sec.next body ∧
    t.sec.used = s.sec.next + 1 ∧ t.sec.next = s.sec.next + 1 ∧
    t.sec.raising = (if s.sec.raising = none ∧ s.sec.ceil ≤ s.sec.next + 257 then some (s.sec.ceil + 1024) else s.sec.raising) ∧
    t.fld F.secSigCount_count = satAdd 64 (s.fld F.secSigCount_count) 1 ∧ SameStore s t) ∧
  (∀ (ok : Bool) (c : Nat) (s : State), s.sec.raising = some c → Answers (.ceilingConfirm ok) s fun t =>
    t.sec.ceil = (if ok then c else s.sec.ceil) ∧ t.sec.raising = (if ok then none else some c)) ∧
  (∀ s : State, s.sec.seed = 1 → 2 ^ 19 < s.sec.next % 2 ^ 20 → s.sec.next / 2 ^ 20 + 1 ∉ s.sec.trees → Answers .bottomTreeBuilt s fun t =>
    t.sec.trees = s.sec.trees ++ [s.sec.next / 2 ^ 20 + 1] ∧ t.sec.sigSeq = s.sec.sigSeq + 1 ∧ SameRegs [] s t) ∧
  (∀ s : State, s.sec.cached = false → s.sec.seed = 1 → .hub ∉ s.rst.closed → Answers .nodeCacheRebuild s fun t =>
    t.sec.cached = true ∧ SameRegs [] s t ∧ SameStore s t) ∧
  (∀ (sigOk : Bool) (s : State), s.monitorFree → Answers (.lcChange sigOk) s fun t =>
    let target := s.stageNum 0 1 % 8
    let k := s.token 0x100
    let goes (data : List Byte) : Prop := t.sec.moving = some (target, data, s.now + 10000) ∧ t.answered 0
    let stays (r : Nat) : Prop := t.sec.moving = none ∧ t.answered r
    t.sec.fuses = s.sec.fuses ∧
    (s.lc = 0 → target = 1 → ∃ data, data.length = 16 ∧ goes data) ∧
    (s.lc = 1 → target = 2 → if s.sec.chainOk then goes (s.stage 0x20 32) else stays 4) ∧
    (s.lc = 1 ∨ s.lc = 2 → target = 3 →
      if s.tokenOk k sigOk && (s.vendorToken k || s.operatorToken k) then
        if k.level == 3 && s.vendorToken k then goes [] else stays 4
      else stays 2) ∧
    (s.lc < 4 → target = 4 → if s.stageNum 4 4 = 0x5C4A9D01 then goes [] else stays 4) ∧
    (s.lc = 4 ∨ (target ≠ 4 ∧ (s.lc, target) ∉ [(0, 1), (1, 2), (1, 3), (2, 3)]) → stays 4)) ∧
  (∀ (ok : Bool) (target due : Nat) (data : List Byte) (s : State), s.sec.moving = some (target, data, due) → due ≤ s.now →
    Answers (.lcTransitionReset ok) s fun t =>
      t.sec.moving = none ∧ t.flag F.rstStatus_ready = false ∧ .hub ∈ t.rst.closed ∧
      (ok = true → t.sec.fuses = s.sec.fuses ||| fusesOf target ∧ t.sec.lastChange = s.lc ∧ (target = 1 → t.sec.idI = data) ∧
        (target = 4 → 2 ≤ t.sec.seed)) ∧
      (ok = false → 5 ∈ t.rst.sources ∧ (t.sec.fuses = s.sec.fuses ∨ t.sec.fuses = s.sec.fuses ||| fusesOf target))) ∧
  (∀ (sigOk : Bool) (s : State), s.monitorFree → Answers (.dbgAuth sigOk) s fun t =>
    let k := s.token 0
    let vendor := s.vendorToken k
    let genuine := s.tokenOk k sigOk && (vendor || s.operatorToken k)
    let locks := 8 ≤ s.sec.fails + 1
    (∀ w, w < 4 → t.fld F.secDbgNonce_nonce w = (Config.free (s.fresh + w)).toNat) ∧
    (s.sec.lockUntil ≠ none → t.answered 7 ∧ t.sec = s.sec) ∧
    (s.sec.lockUntil = none → genuine = true → s.grantsLevel k.level vendor = true → t.answered 0 ∧
      t.fld F.secDbgStatus_level = k.level ∧ t.flag F.secDbgStatus_operator = (!vendor) ∧ t.sec.fails = 0 ∧
      t.sec.ends = if k.duration = 0 then none else some (s.now + k.duration * 1000000)) ∧
    (s.sec.lockUntil = none → ¬(genuine = true ∧ s.grantsLevel k.level vendor = true) →
      t.answered (if genuine then 4 else 2) ∧ t.fld F.secDbgStatus_level = s.fld F.secDbgStatus_level ∧
      t.fld F.secDbgFails_count = satAdd 64 (s.fld F.secDbgFails_count) 1 ∧
      (¬locks → t.sec.fails = s.sec.fails + 1 ∧ t.sec.lockUntil = none) ∧
      (locks → t.sec.fails = 0 ∧ t.flag F.secDbgStatus_locked = true ∧ t.sec.lockouts = s.sec.lockouts + 1 ∧
        (s.sec.lockouts < 6 → t.sec.lockUntil = some (s.now + 60000000 * 2 ^ s.sec.lockouts)) ∧
        (6 ≤ s.sec.lockouts → t.sec.lockUntil = some (s.now + 3600000000))))) ∧
  (∀ s : State, s.monitorFree → Answers .dbgClose s fun t =>
    t.answered 0 ∧ t.fld F.secDbgStatus_level = 0 ∧ t.sec.ends = none ∧ SameStore s t) ∧
  (∀ (e : Nat) (s : State), s.sec.ends = some e → e ≤ s.now → Answers .debugSessionExpiry s fun t =>
    t.fld F.secDbgStatus_level = 0 ∧ t.flag F.secDbgStatus_inject = false ∧ t.flag F.secDbgStatus_resetOk = false ∧ t.sec.ends = none) ∧
  (∀ (e : Nat) (s : State), s.sec.lockUntil = some e → e ≤ s.now → Answers .dbgLockoutExpiry s fun t =>
    t.sec.lockUntil = none ∧ t.flag F.secDbgStatus_locked = false) ∧
  ∀ (ok : Bool) (s : State), s.monitorFree → Answers (.chainWrite ok) s fun t =>
    let n := s.stageNum 0 4
    (s.lc ≠ 1 → t.answered 4 ∧ t.flash = s.flash) ∧ (s.lc = 1 → n < 2 ∨ 4 < n → t.answered 1 ∧ t.flash = s.flash) ∧
    (s.lc = 1 → 2 ≤ n → n ≤ 4 → ok = false → t.answered 6 ∧
      ∀ x, x < 0x100000 ∨ 0x110000 ≤ x → Map.get flashDefault t.flash x = Map.get flashDefault s.flash x) ∧
    (s.lc = 1 → 2 ≤ n → n ≤ 4 → ok = true → t.answered 0 ∧ t.flashBytes 0x100000 (4 + 3796 * n) = s.stage 0 (4 + 3796 * n))

/-- At level CLOSED the debug port refuses all but the monitor's block; READONLY reads a register, and a powered-down
block answers POWERED_DOWN; FULL reads and writes memory and wakes a block that is powered down. FW_WRITE writes the
staged bytes into the inactive slot only, or answers FLASH. FW_ACTIVATE refuses a flawed image with its result,
answers FLASH where programming fails, else the slot is the active one of its kind and the switch begins; its last
part leaves the image running, with MIN_SVN raised where asked. CAL_RELOAD takes the valid overlay with the higher GEN
and refuses an invalid one with its entry. The I3C target takes its address, returns its bytes from the offset on, and
writes the cap within 400 to 1,350 W. The directory's and the overlay's layout are choices (log entry 45). Rests on
13_power_thermal (R388, R399), 15_security_lifecycle (R437, R438, R440, R441, R442, R443, R445, R446, R447),
17_package_pins (R489, R490). -/
def Obligations.DebugPortFirmwareAndSideband : Prop :=
  (∀ (write : Bool) (wind off : Nat) (data : W64) (s : State),
    (s.fld F.secDbgStatus_level = 0 → write = true ∨ wind ≠ 0 ∨ off < 0x120000 ∨ 0x130000 ≤ off →
      Answers (.debugPortAccess write wind off data) s fun t => t.out = s.out ++ [.debug none] ∧ SameRegs [] s t ∧ SameStore s t) ∧
    (∀ b, s.debugGrants write wind off = true → debugBlk wind off = some b → s.blockDown b = true →
      Answers (.debugPortAccess write wind off data) s fun t => SameRegs [] s t ∧ SameStore s t ∧
        if s.fld F.secDbgStatus_level = 2 then t.out = s.out ∧ t.pwr.waking = true ∧
          t.pwr.heldDebug = s.pwr.heldDebug ++ [(write, wind, off, data)]
        else t.out = s.out ++ [.poweredDown])) ∧
  (∀ (off : Nat) (data : W64) (s : State) (b : Blk), s.fld F.secDbgStatus_level = 1 ∨ s.fld F.secDbgStatus_level = 2 →
    debugBlk 0 off = some b → s.blockDown b = false → s.inReset b = false → off % 8 = 0 →
    Answers (.debugPortAccess false 0 off data) s fun t =>
      t.out = s.out ++ [.debug (some (BitVec.ofNat 64 (s.windowRead off 8)))] ∧ SameRegs [] s t ∧ SameStore s t) ∧
  (∀ (off : Nat) (data : W64) (s : State) (b : Blk), s.Sound → s.fld F.secDbgStatus_level = 2 → debugBlk 1 off = some b →
    s.blockDown b = false → s.inReset b = false → off % 8 = 0 → s.backed off = true →
    (Answers (.debugPortAccess false 1 off data) s fun t =>
      t.out = s.out ++ [.debug (some (BitVec.ofNat 64 (ofBytes (s.seenBytes off 8))))] ∧ ∀ x, t.seen x = s.seen x) ∧
    (s.refusesWrite off = false → Answers (.debugPortAccess true 1 off data) s fun t =>
      t.out = s.out ++ [.debug (some 0)] ∧ WordStored s t off data.toNat)) ∧
  (∀ (programs : Bool) (s : State), s.opens ⟨.secCmd, 0, 0, 0⟩ = true → s.sec.moving = none → s.sec.recovery = false →
    Answers (.fwWrite programs) s fun t =>
    let w := s.stageNum 0 8
    let kind := bits w 3 0
    let slot := bits w 8 8
    let off := bits w 63 32
    let len := s.stageNum 8 8
    let ok := kind ≤ 5 ∧ bits w 7 4 = 0 ∧ bits w 31 9 = 0 ∧ len ≤ 32512 ∧ off + len ≤ 0x200000
    (¬ok → kind ≠ 6 → t.answered 1 ∧ t.flash = s.flash) ∧
    (ok → slot = s.activeSlot kind → t.answered 4 ∧ t.flash = s.flash) ∧
    (ok → slot ≠ s.activeSlot kind → t.answered (if programs then 0 else 6) ∧ ∀ x,
      if imageBase kind slot + off ≤ x ∧ x < imageBase kind slot + off + len then
        programs = true → Map.get flashDefault t.flash x = (s.stage 0x100 len).getD (x - (imageBase kind slot + off)) 0
      else Map.get flashDefault t.flash x = Map.get flashDefault s.flash x)) ∧
  (∀ (sigOk programs : Bool) (s : State), s.monitorFree → s.signWaits = false → Answers (.fwActivate sigOk programs) s fun t =>
    let w := s.stageNum 0 8
    let kind := bits w 3 0
    let slot := bits w 8 8
    let ok := kind ≤ 5 ∧ bits w 7 4 = 0 ∧ bits w 15 9 = 0 ∧ bits w 63 18 = 0
    (¬ok → t.answered 1 ∧ t.flash = s.flash ∧ t.sec = s.sec) ∧
    (ok → slot = s.activeSlot kind ∨ (kind ≠ 0 ∧ s.switching kind ≠ none) → t.answered 4 ∧ t.flash = s.flash ∧ t.sec = s.sec) ∧
    (ok → slot ≠ s.activeSlot kind → kind = 0 ∨ s.switching kind = none →
      (∀ r, s.imageFlaw kind slot sigOk = some r → t.answered r ∧ t.flash = s.flash ∧ t.sec = s.sec) ∧
      (s.imageFlaw kind slot sigOk = none → programs = false → t.answered 6 ∧ t.sec = s.sec) ∧
      (s.imageFlaw kind slot sigOk = none → programs = true → t.answered 0 ∧ t.flag F.secFw_pending kind = true ∧
        (∃ x, t.switching kind = some x ∧ x.kind = kind ∧ x.next = 0 ∧ x.raise = bit w 16 ∧ x.linkNow = bit w 17 ∧
          s.imageIn kind slot = some x.image) ∧
        (1 ≤ kind → s.slotsNow.1 + 1 < 2 ^ 32 → t.slotOf kind = slot)))) ∧
  (∀ (kind idx : Nat) (w : Switch) (s : State), s.switching kind = some w → w.next = idx → 1 ≤ kind → kind ≤ 5 →
    (kind = 1 → s.callerIdle idx = true) → (kind = 4 → s.unitsIdle idx = true) → Answers (.fwSwitchStep kind idx) s fun t =>
      if kind = 2 ∨ kind = 3 ∨ (kind = 1 ∧ idx = 7) ∨ (kind = 4 ∧ idx = 31) ∨ (kind = 5 ∧ idx = 47) then
        t.switching kind = none ∧ t.sec.images.getD kind {} = w.image ∧ t.flag F.secFw_pending kind = false ∧
        (w.raise = true → w.image.svn ≤ nth t.sec.minSvn kind)
      else t.switching kind = some { w with next := idx + 1 } ∧
        (kind = 5 → idx ∈ s.portsOn → idx ∈ t.fab.training) ∧
        (kind = 4 → idx = 0 → ∀ n, n < 12 → t.fld F.galCfg_microSlot n = w.image.slot % 2)) ∧
  (∀ s : State, s.monitorFree → Answers .calReload s fun t =>
    let a := s.overlayAt 0x70000
    let b := s.overlayAt 0x80000
    let takes (src gen : Nat) (es : List (Nat × Nat × Int)) : Prop := t.sec.overlay = some (gen, es) ∧ t.fld F.secCal_source = src ∧
      t.flag F.secCal_none = false ∧ t.answered 0
    let refuses (i : Nat) : Prop := t.flag F.secCal_refused = true ∧ t.fld F.secCal_badEntry = i
    (∀ ga x gb y, a = some (ga, .ok x) → b = some (gb, .ok y) → if ga < gb then takes 1 gb y else takes 0 ga x) ∧
    (∀ g x, a = some (g, .ok x) → b = none → takes 0 g x) ∧ (∀ g y, a = none → b = some (g, .ok y) → takes 1 g y) ∧
    (∀ g x h i, a = some (g, .ok x) → b = some (h, .error i) → takes 0 g x ∧ refuses i) ∧
    (∀ g i h y, a = some (g, .error i) → b = some (h, .ok y) → takes 1 h y ∧ refuses i) ∧
    (∀ g i, a = some (g, .error i) → b = none → refuses i ∧ t.sec.overlay = s.sec.overlay ∧ t.answered 1)) ∧
  (∀ (addr : Nat) (s : State), s.inReset .hub = false → Answers (.i3cSetdasa addr) s fun t =>
    t.i3c.addr = some (addr % 128) ∧ SameRegs [] s t ∧ SameStore s t) ∧
  (∀ (o lo hi : Byte) (s : State), s.inReset .hub = false → o.toNat % 16 = 8 → Answers (.i3cPrivateWrite [o, lo, hi]) s fun t =>
    let watts := min 1350 (max 400 ((lo.toNat + 256 * hi.toNat) % 2048))
    t.fld F.pwrCap_watts = watts ∧ t.fld F.pwrCap_brakeW = min watts (s.fld F.pwrCap_brakeW) ∧ t.i3c.offset = 10 ∧
    SameRegs [.pwrCap] s t) ∧
  ∀ (n : Nat) (s : State), s.inReset .hub = false → Answers (.i3cPrivateRead n) s fun t =>
    (∃ bs, t.out = s.out ++ [.i3c bs] ∧ bs.length = n ∧ (s.i3c.offset % 16 ∉ [5, 6, 7, 9, 11] →
      bs = (List.range n).map fun i => s.i3cBytes.getD ((s.i3c.offset + i) % 16) 0)) ∧
    t.i3c.offset = (s.i3c.offset + n) % 16 ∧ SameRegs [] s t ∧ SameStore s t

/-- For FP32, BF16, FP16, E4M3 and E5M2: a code's value converts back to that code without saturation, NaN to the one
code that R124 names. A finite value converts to a code of which no finite code of the format is nearer to the value,
and where another value of the format is as near, the code's lowest bit is 0. Finite values beyond the largest
magnitude become the largest magnitude in FP16, E4M3 and E5M2 and an infinity in FP32 and BF16, and E4M3 has the
largest magnitude for an infinity. Rests on 02_command_stream (R49), 04_matrix_array (R117, R124). -/
def Obligations.ConversionRoundsToNearestEven : Prop :=
  (∀ (fmt w : Nat), fmt ≤ 4 → w < 2 ^ nth [32, 16, 16, 8, 8] fmt →
    convert fmt (elemNum fmt w) =
      if elemNum fmt w = .nan then (nth [0x7FC00000, 0x7FC0, 0x7E00, 0x7F, 0x7E] fmt, false) else (w, false)) ∧
  (∀ (fmt m : Nat) (neg : Bool) (e : Int), fmt ≤ 4 → let c := (convert fmt (.fin neg m e)).1
    ∀ (w cm wm : Nat) (cn wn : Bool) (ce we : Int), elemNum fmt c = .fin cn cm ce → elemNum fmt w = .fin wn wm we →
      let k := min e (min ce we)
      let near := (numerAt neg m e k - numerAt cn cm ce k).natAbs
      let far := (numerAt neg m e k - numerAt wn wm we k).natAbs
      near ≤ far ∧ (near = far → numerAt cn cm ce k ≠ numerAt wn wm we k → c % 2 = 0)) ∧
  ∀ (m : Nat) (neg : Bool) (e : Int), 0 ≤ e → 0 < m →
    let big := Num.fin neg (m * 2 ^ 128) e
    let s := b2n neg
    convert 0 big = (0x7F800000 + s * 2 ^ 31, false) ∧ convert 1 big = (0x7F80 + s * 2 ^ 15, false) ∧
    convert 2 big = (0x7BFF + s * 2 ^ 15, true) ∧ convert 3 big = (0x7E + s * 2 ^ 7, true) ∧
    convert 4 big = (0x7B + s * 2 ^ 7, true) ∧ (convert 3 (.inf neg)).1 = 0x7E + s * 2 ^ 7
end

