-- ==== Sys2Proof/Laws/Table.lean ====
section
/-!
SUPPORT. The laws of sparse tables: reading after writing, and the canonical form that every write keeps; with them the laws of
registers and of memory.
-/
namespace Sys2Proof.Machine

section Table
variable {κ α : Type} [DecidableEq κ] [DecidableEq α] {d : κ → α} {lt : κ → κ → Bool}

omit [DecidableEq α] in
theorem Map.get_erase (l : List (κ × α)) (k k' : κ) :
    Map.get d (Map.erase l k) k' = if k' = k then d k' else Map.get d l k' := by
  induction l with
  | nil => simp [Map.erase, Map.get]
  | cons e l ih =>
    unfold Map.erase at ih ⊢
    by_cases h : e.1 = k
    · subst h
      simp only [List.filter_cons, decide_true, Bool.not_true, Bool.false_eq_true, if_false, ih, Map.get]
      split
      · rfl
      · next hk => rw [if_neg (fun h => hk h.symm)]
    · simp only [List.filter_cons, h, decide_false, Bool.not_false, if_true, Map.get, ih]
      split
      · next he => subst he; simp [h]
      · rfl

omit [DecidableEq α] in
theorem Map.get_insert (l : List (κ × α)) (k k' : κ) (v : α) (h : ∀ e ∈ l, e.1 ≠ k) :
    Map.get d (Map.insert lt k v l) k' = if k' = k then v else Map.get d l k' := by
  induction l with
  | nil => simp [Map.insert, Map.get, eq_comm]
  | cons e l ih =>
    simp only [Map.insert]
    split
    · simp [Map.get, eq_comm]
    · simp only [Map.get, ih fun x hx => h x (List.mem_cons_of_mem _ hx)]
      split
      · next he =>
        have := h e (List.mem_cons_self ..)
        rw [if_neg (he ▸ this)]
      · rfl

/-- Reading a table after one value has been set. -/
theorem Map.get_put (l : List (κ × α)) (k k' : κ) (v : α) :
    Map.get d (Map.put d lt l k v) k' = if k' = k then v else Map.get d l k' := by
  unfold Map.put
  split
  · next h =>
    rw [Map.get_erase]
    split
    · next hk => rw [hk, h]
    · rfl
  · rw [Map.get_insert _ _ _ _ (by simp [Map.erase]), Map.get_erase]
    split <;> simp_all

omit [DecidableEq κ] in
theorem Map.wf_filter (l : List (κ × α)) (p : κ × α → Bool) (h : Map.wf d lt l = true) :
    Map.wf d lt (l.filter p) = true := by
  induction l with
  | nil => rfl
  | cons e l ih =>
    simp only [Map.wf, Bool.and_eq_true, List.all_eq_true] at h
    simp only [List.filter_cons]
    split
    · simp only [Map.wf, Bool.and_eq_true, List.all_eq_true]
      exact ⟨⟨fun x hx => h.1.1 x (List.mem_of_mem_filter hx), h.1.2⟩, ih h.2⟩
    · exact ih h.2

omit [DecidableEq κ] [DecidableEq α] in
theorem Map.mem_insert (l : List (κ × α)) (k : κ) (v : α) (x : κ × α) (h : x ∈ Map.insert lt k v l) :
    x = (k, v) ∨ x ∈ l := by
  induction l with
  | nil => simpa [Map.insert] using h
  | cons e l ih =>
    simp only [Map.insert] at h
    split at h
    · simpa using h
    · rcases List.mem_cons.1 h with h | h
      · exact .inr (h ▸ List.mem_cons_self ..)
      · rcases ih h with h | h
        · exact .inl h
        · exact .inr (List.mem_cons_of_mem _ h)

/-- A strict total order of keys. -/
structure StrictOrder (lt : κ → κ → Bool) : Prop where
  trans : ∀ a b c, lt a b = true → lt b c = true → lt a c = true
  total : ∀ a b, a ≠ b → lt a b = true ∨ lt b a = true

omit [DecidableEq κ] in
theorem Map.wf_insert (o : StrictOrder lt) (l : List (κ × α)) (k : κ) (v : α) (hv : v ≠ d k)
    (hk : ∀ e ∈ l, e.1 ≠ k) (h : Map.wf d lt l = true) : Map.wf d lt (Map.insert lt k v l) = true := by
  induction l with
  | nil => simp [Map.insert, Map.wf, hv]
  | cons e l ih =>
    simp only [Map.wf, Bool.and_eq_true, List.all_eq_true] at h
    simp only [Map.insert]
    split
    · next hlt =>
      simp only [Map.wf, Bool.and_eq_true, List.all_eq_true]
      refine ⟨⟨fun x hx => ?_, by simpa using hv⟩, h⟩
      rcases List.mem_cons.1 hx with hx | hx
      · exact hx ▸ hlt
      · exact o.trans _ _ _ hlt (h.1.1 x hx)
    · next hlt =>
      simp only [Map.wf, Bool.and_eq_true, List.all_eq_true]
      refine ⟨⟨fun x hx => ?_, h.1.2⟩, ih (fun x hx => hk x (List.mem_cons_of_mem _ hx)) h.2⟩
      rcases Map.mem_insert _ _ _ _ hx with hx | hx
      · rcases o.total k e.1 (hk e (List.mem_cons_self ..)).symm with h1 | h1
        · exact absurd h1 hlt
        · exact hx ▸ h1
      · exact h.1.1 x hx

/-- A write keeps the canonical form. -/
theorem Map.wf_put (o : StrictOrder lt) (l : List (κ × α)) (k : κ) (v : α) (h : Map.wf d lt l = true) :
    Map.wf d lt (Map.put d lt l k v) = true := by
  unfold Map.put
  split
  · exact Map.wf_filter _ _ h
  · next hv => exact Map.wf_insert o _ _ _ hv (by simp [Map.erase]) (Map.wf_filter _ _ h)

end Table

theorem natLt_order : StrictOrder natLt where
  trans a b c h1 h2 := by simp only [natLt, decide_eq_true_eq] at *; omega
  total a b h := by simp only [natLt, decide_eq_true_eq]; omega

/-- Reading a table of numbers after one value has been set. -/
@[simp] theorem Tab.get_put {α : Type} [DecidableEq α] (d : α) (l : Tab α) (k k' : Nat) (v : α) :
    Tab.get d (Tab.put d l k v) k' = if k' = k then v else Tab.get d l k' := Map.get_put l k k' v

theorem Tab.wf_put {α : Type} [DecidableEq α] (d : α) (l : Tab α) (k : Nat) (v : α) (h : Tab.wf d l = true) :
    Tab.wf d (Tab.put d l k v) = true := Map.wf_put natLt_order l k v h

/-! ### Registers -/

theorem Reg.lt_order : StrictOrder Reg.lt where
  trans a b c h1 h2 := by
    simp only [Reg.lt, Bool.or_eq_true, Bool.and_eq_true, decide_eq_true_eq] at *
    omega
  total a b h := by
    simp only [Reg.lt, Bool.or_eq_true, Bool.and_eq_true, decide_eq_true_eq]
    by_contra hc
    apply h
    have h0 : a.name.ctorIdx = b.name.ctorIdx := by omega
    have hn : a.name = b.name := by
      have : ∀ x y : RegName, x.ctorIdx = y.ctorIdx → x = y := by
        intro x y hxy
        have := congrArg (RegName.ofNat) hxy
        simpa [RegName.ofNat_ctorIdx] using this
      exact this _ _ h0
    rcases a with ⟨an, ai, aj, ak⟩
    rcases b with ⟨bn, bi, bj, bk⟩
    simp only at *
    subst hn
    have : ai = bi ∧ aj = bj ∧ ak = bk := by omega
    simp [this]

/-- Reading a register file after a register has been set. -/
theorem Bank.get_put (b : Bank) (r r' : Reg) (v : W64) :
    Bank.get (Bank.put b r v) r' =
      if r' = r ∧ r.exists = true then v &&& BitVec.ofNat 64 r.name.held else Bank.get b r' := by
  unfold Bank.put Bank.get
  split
  · next h => rw [Map.get_put]; simp [h]
  · next h => simp [h]

end Sys2Proof.Machine
end

