-- ==== Sys2Proof/Laws/State.lean ====
section
/-!
SUPPORT. The laws of the state's updates: what each elementary effect makes of the state, and which effects alone can change a
field.
-/
namespace Sys2Proof.Machine

/-! ### One law per update -/

@[simp] theorem Eff.apply_reg (r : Reg) (v : W64) (s : State) :
    Eff.apply (.reg r v) s = { s with bank := Bank.put s.bank r v } := rfl
@[simp] theorem Eff.apply_force (r : Reg) (v : W64) (s : State) :
    Eff.apply (.force r v) s = { s with force := Bank.put s.force r v } := rfl
@[simp] theorem Eff.apply_snap (r : Reg) (v : W64) (s : State) :
    Eff.apply (.snap r v) s = { s with snap := Bank.put s.snap r v } := rfl
@[simp] theorem Eff.apply_dropRegs (p : Reg → Bool) (s : State) :
    Eff.apply (.dropRegs p) s = { s with bank := s.bank.filter (fun x => !p x.1), force := s.force.filter (fun x => !p x.1), snap := s.snap.filter (fun x => !p x.1) } := rfl
@[simp] theorem Eff.apply_tick (s : State) :
    Eff.apply (.tick) s = { s with now := (s.now + 1) % 2 ^ 64 } := rfl
@[simp] theorem Eff.apply_hubZero (s : State) :
    Eff.apply (.hubZero) s = { s with now := 0 } := rfl
@[simp] theorem Eff.apply_fresh (s : State) :
    Eff.apply (.fresh) s = { s with fresh := s.fresh + 1 } := rfl
@[simp] theorem Eff.apply_byte (a : Nat) (v : Byte) (s : State) :
    Eff.apply (.byte a v) s = { s with mem := Map.put memDefault natLt s.mem a v } := rfl
@[simp] theorem Eff.apply_dropMem (p : Nat → Bool) (s : State) :
    Eff.apply (.dropMem p) s = { s with mem := s.mem.filter (fun x => !p x.1) } := rfl
@[simp] theorem Eff.apply_chk (g v : Nat) (s : State) :
    Eff.apply (.chk g v) s = { s with chk := Tab.put 0 s.chk g v } := rfl
@[simp] theorem Eff.apply_flash (a : Nat) (v : Byte) (s : State) :
    Eff.apply (.flash a v) s = { s with flash := Map.put flashDefault natLt s.flash a v } := rfl
@[simp] theorem Eff.apply_eraseFlash (p : Nat → Bool) (s : State) :
    Eff.apply (.eraseFlash p) s = { s with flash := s.flash.filter (fun x => !p x.1) } := rfl
@[simp] theorem Eff.apply_merges (v : List Merge) (s : State) :
    Eff.apply (.merges v) s = { s with merges := v } := rfl
@[simp] theorem Eff.apply_injected (v : List Nat) (s : State) :
    Eff.apply (.injected v) s = { s with injected := v } := rfl
@[simp] theorem Eff.apply_tier (v : Tier) (s : State) :
    Eff.apply (.tier v) s = { s with tier := v } := rfl
@[simp] theorem Eff.apply_sched (v : Sched) (s : State) :
    Eff.apply (.sched v) s = { s with sched := v } := rfl
@[simp] theorem Eff.apply_strikes (v : List Strike) (s : State) :
    Eff.apply (.strikes v) s = { s with strikes := v } := rfl
@[simp] theorem Eff.apply_retlog (v : List (Nat × Nat × Nat)) (s : State) :
    Eff.apply (.retlog v) s = { s with retlog := v } := rfl
@[simp] theorem Eff.apply_err (v : ErrSt) (s : State) :
    Eff.apply (.err v) s = { s with err := v } := rfl
@[simp] theorem Eff.apply_i3c (v : I3c) (s : State) :
    Eff.apply (.i3c v) s = { s with i3c := v } := rfl
@[simp] theorem Eff.apply_fab (v : Fab) (s : State) :
    Eff.apply (.fab v) s = { s with fab := v } := rfl
@[simp] theorem Eff.apply_thm (v : Thm) (s : State) :
    Eff.apply (.thm v) s = { s with thm := v } := rfl
@[simp] theorem Eff.apply_pwr (v : Pwr) (s : State) :
    Eff.apply (.pwr v) s = { s with pwr := v } := rfl
@[simp] theorem Eff.apply_rst (v : Rst) (s : State) :
    Eff.apply (.rst v) s = { s with rst := v } := rfl
@[simp] theorem Eff.apply_que (k : Nat) (v : Queue) (s : State) :
    Eff.apply (.que k v) s = { s with que := Tab.put { } s.que k v } := rfl
@[simp] theorem Eff.apply_queClear (s : State) :
    Eff.apply (.queClear) s = { s with que := [] } := rfl
@[simp] theorem Eff.apply_ctxs (k : Nat) (v : Ctx) (s : State) :
    Eff.apply (.ctxs k v) s = { s with ctxs := Tab.put { } s.ctxs k v } := rfl
@[simp] theorem Eff.apply_ctxsClear (s : State) :
    Eff.apply (.ctxsClear) s = { s with ctxs := [] } := rfl
@[simp] theorem Eff.apply_slots (k : Nat) (v : Slot) (s : State) :
    Eff.apply (.slots k v) s = { s with slots := Tab.put { } s.slots k v } := rfl
@[simp] theorem Eff.apply_slotsClear (s : State) :
    Eff.apply (.slotsClear) s = { s with slots := [] } := rfl
@[simp] theorem Eff.apply_adapters (k : Nat) (v : Adapter) (s : State) :
    Eff.apply (.adapters k v) s = { s with adapters := Tab.put { } s.adapters k v } := rfl
@[simp] theorem Eff.apply_adaptersClear (s : State) :
    Eff.apply (.adaptersClear) s = { s with adapters := [] } := rfl
@[simp] theorem Eff.apply_keys (k : Nat) (v : Option Nat) (s : State) :
    Eff.apply (.keys k v) s = { s with keys := Tab.put none s.keys k v } := rfl
@[simp] theorem Eff.apply_keysClear (s : State) :
    Eff.apply (.keysClear) s = { s with keys := [] } := rfl
@[simp] theorem Eff.apply_units (k : Nat) (v : UnitSt) (s : State) :
    Eff.apply (.units k v) s = { s with units := Tab.put { } s.units k v } := rfl
@[simp] theorem Eff.apply_unitsClear (s : State) :
    Eff.apply (.unitsClear) s = { s with units := [] } := rfl
@[simp] theorem Eff.apply_sets (k : Nat) (v : SetSt) (s : State) :
    Eff.apply (.sets k v) s = { s with sets := Tab.put { } s.sets k v } := rfl
@[simp] theorem Eff.apply_setsClear (s : State) :
    Eff.apply (.setsClear) s = { s with sets := [] } := rfl
@[simp] theorem Eff.apply_sec (v : Sec) (s : State) :
    Eff.apply (.sec v) s = { s with sec := Sec.merge s.sec v } := rfl
@[simp] theorem Eff.apply_emit (o : Out) (s : State) :
    Eff.apply (.emit o) s = { s with out := s.out ++ [o] } := rfl

/-! ### One law per field: the effects that can change it -/

/-- No effect touches the queue of waiting commands. -/
@[simp] theorem Eff.pending_apply (e : Eff) (s : State) : (e.apply s).pending = s.pending := by cases e <;> rfl

theorem Eff.now_apply (e : Eff) (s : State) (h0 : e ≠ .tick) (h1 : e ≠ .hubZero) :
    (e.apply s).now = s.now := by cases e <;> first | rfl | simp_all

theorem Eff.fresh_apply (e : Eff) (s : State) (h0 : e ≠ .fresh) :
    (e.apply s).fresh = s.fresh := by cases e <;> first | rfl | simp_all

theorem Eff.bank_apply (e : Eff) (s : State) (h0 : ∀ a b, e ≠ .reg a b) (h1 : ∀ a, e ≠ .dropRegs a) :
    (e.apply s).bank = s.bank := by cases e <;> first | rfl | simp_all

theorem Eff.force_apply (e : Eff) (s : State) (h0 : ∀ a b, e ≠ .force a b) (h1 : ∀ a, e ≠ .dropRegs a) :
    (e.apply s).force = s.force := by cases e <;> first | rfl | simp_all

theorem Eff.snap_apply (e : Eff) (s : State) (h0 : ∀ a b, e ≠ .snap a b) (h1 : ∀ a, e ≠ .dropRegs a) :
    (e.apply s).snap = s.snap := by cases e <;> first | rfl | simp_all

theorem Eff.mem_apply (e : Eff) (s : State) (h0 : ∀ a b, e ≠ .byte a b) (h1 : ∀ a, e ≠ .dropMem a) :
    (e.apply s).mem = s.mem := by cases e <;> first | rfl | simp_all

theorem Eff.chk_apply (e : Eff) (s : State) (h0 : ∀ a b, e ≠ .chk a b) :
    (e.apply s).chk = s.chk := by cases e <;> first | rfl | simp_all

theorem Eff.flash_apply (e : Eff) (s : State) (h0 : ∀ a b, e ≠ .flash a b) (h1 : ∀ a, e ≠ .eraseFlash a) :
    (e.apply s).flash = s.flash := by cases e <;> first | rfl | simp_all

theorem Eff.merges_apply (e : Eff) (s : State) (h0 : ∀ a, e ≠ .merges a) :
    (e.apply s).merges = s.merges := by cases e <;> first | rfl | simp_all

theorem Eff.injected_apply (e : Eff) (s : State) (h0 : ∀ a, e ≠ .injected a) :
    (e.apply s).injected = s.injected := by cases e <;> first | rfl | simp_all

theorem Eff.tier_apply (e : Eff) (s : State) (h0 : ∀ a, e ≠ .tier a) :
    (e.apply s).tier = s.tier := by cases e <;> first | rfl | simp_all

theorem Eff.que_apply (e : Eff) (s : State) (h0 : ∀ a b, e ≠ .que a b) (h1 : e ≠ .queClear) :
    (e.apply s).que = s.que := by cases e <;> first | rfl | simp_all

theorem Eff.ctxs_apply (e : Eff) (s : State) (h0 : ∀ a b, e ≠ .ctxs a b) (h1 : e ≠ .ctxsClear) :
    (e.apply s).ctxs = s.ctxs := by cases e <;> first | rfl | simp_all

theorem Eff.slots_apply (e : Eff) (s : State) (h0 : ∀ a b, e ≠ .slots a b) (h1 : e ≠ .slotsClear) :
    (e.apply s).slots = s.slots := by cases e <;> first | rfl | simp_all

theorem Eff.adapters_apply (e : Eff) (s : State) (h0 : ∀ a b, e ≠ .adapters a b) (h1 : e ≠ .adaptersClear) :
    (e.apply s).adapters = s.adapters := by cases e <;> first | rfl | simp_all

theorem Eff.keys_apply (e : Eff) (s : State) (h0 : ∀ a b, e ≠ .keys a b) (h1 : e ≠ .keysClear) :
    (e.apply s).keys = s.keys := by cases e <;> first | rfl | simp_all

theorem Eff.sched_apply (e : Eff) (s : State) (h0 : ∀ a, e ≠ .sched a) :
    (e.apply s).sched = s.sched := by cases e <;> first | rfl | simp_all

theorem Eff.units_apply (e : Eff) (s : State) (h0 : ∀ a b, e ≠ .units a b) (h1 : e ≠ .unitsClear) :
    (e.apply s).units = s.units := by cases e <;> first | rfl | simp_all

theorem Eff.sets_apply (e : Eff) (s : State) (h0 : ∀ a b, e ≠ .sets a b) (h1 : e ≠ .setsClear) :
    (e.apply s).sets = s.sets := by cases e <;> first | rfl | simp_all

theorem Eff.strikes_apply (e : Eff) (s : State) (h0 : ∀ a, e ≠ .strikes a) :
    (e.apply s).strikes = s.strikes := by cases e <;> first | rfl | simp_all

theorem Eff.retlog_apply (e : Eff) (s : State) (h0 : ∀ a, e ≠ .retlog a) :
    (e.apply s).retlog = s.retlog := by cases e <;> first | rfl | simp_all

theorem Eff.err_apply (e : Eff) (s : State) (h0 : ∀ a, e ≠ .err a) :
    (e.apply s).err = s.err := by cases e <;> first | rfl | simp_all

theorem Eff.fab_apply (e : Eff) (s : State) (h0 : ∀ a, e ≠ .fab a) :
    (e.apply s).fab = s.fab := by cases e <;> first | rfl | simp_all

theorem Eff.thm_apply (e : Eff) (s : State) (h0 : ∀ a, e ≠ .thm a) :
    (e.apply s).thm = s.thm := by cases e <;> first | rfl | simp_all

theorem Eff.pwr_apply (e : Eff) (s : State) (h0 : ∀ a, e ≠ .pwr a) :
    (e.apply s).pwr = s.pwr := by cases e <;> first | rfl | simp_all

theorem Eff.rst_apply (e : Eff) (s : State) (h0 : ∀ a, e ≠ .rst a) :
    (e.apply s).rst = s.rst := by cases e <;> first | rfl | simp_all

theorem Eff.sec_apply (e : Eff) (s : State) (h0 : ∀ a, e ≠ .sec a) :
    (e.apply s).sec = s.sec := by cases e <;> first | rfl | simp_all

theorem Eff.i3c_apply (e : Eff) (s : State) (h0 : ∀ a, e ≠ .i3c a) :
    (e.apply s).i3c = s.i3c := by cases e <;> first | rfl | simp_all

theorem Eff.out_apply (e : Eff) (s : State) (h0 : ∀ a, e ≠ .emit a) :
    (e.apply s).out = s.out := by cases e <;> first | rfl | simp_all

/-! ### Canonical forms -/

/-- Every effect keeps memory in its canonical form. -/
theorem Eff.apply_mem_wf (e : Eff) (s : State) (h : Memory.wf s.mem = true) : Memory.wf (e.apply s).mem = true := by
  cases e <;> first | exact h | exact Map.wf_put natLt_order _ _ _ h | exact Map.wf_filter _ _ h

/-- Every effect keeps the flash in its canonical form. -/
theorem Eff.apply_flash_wf (e : Eff) (s : State) (h : Flash.wf s.flash = true) : Flash.wf (e.apply s).flash = true := by
  cases e <;> first | exact h | exact Map.wf_put natLt_order _ _ _ h | exact Map.wf_filter _ _ h

end Sys2Proof.Machine
end

