-- ==== Sys2Proof/Laws/Act.lean ====
section
/-!
SUPPORT. The laws of actions: how a program of effects runs, what a whole run can do (`Only`, `Steps`), and what the shared
operations over registers can do.
-/
namespace Sys2Proof.Machine

variable {s0 : State} {α β : Type}

/-! ### Running -/

@[simp] theorem cur_run (t : { t : State // Reach s0 t }) : (cur : M s0 State) t = (t.1, t) := rfl
@[simp] theorem eff_run (e : Eff) (t : { t : State // Reach s0 t }) :
    (eff e : M s0 Unit) t = ((), ⟨e.apply t.1, Reach.step t.2 e⟩) := rfl
@[simp] theorem pure_run (a : α) (t : { t : State // Reach s0 t }) : (pure a : M s0 α) t = (a, t) := rfl
@[simp] theorem bind_run (m : M s0 α) (f : α → M s0 β) (t : { t : State // Reach s0 t }) :
    (m >>= f) t = f (m t).1 (m t).2 := rfl
theorem map_run (g : α → β) (m : M s0 α) (t : { t : State // Reach s0 t }) : (g <$> m) t = (g (m t).1, (m t).2) := rfl

/-- The state after an action that begins in a state of the run. -/
def after (m : M s0 α) (t : { t : State // Reach s0 t }) : State := (m t).2.1

@[simp] theorem after_pure (a : α) (t : { t : State // Reach s0 t }) : after (pure a : M s0 α) t = t.1 := rfl
@[simp] theorem after_cur (t : { t : State // Reach s0 t }) : after (cur : M s0 State) t = t.1 := rfl
@[simp] theorem after_eff (e : Eff) (t : { t : State // Reach s0 t }) : after (eff e) t = e.apply t.1 := rfl
theorem after_bind (m : M s0 α) (f : α → M s0 β) (t : { t : State // Reach s0 t }) :
    after (m >>= f) t = after (f (m t).1) (m t).2 := rfl

theorem M.go_next (s : State) (m : M s Unit) : M.go s m = .next (M.result s m) := rfl
theorem M.result_eq (s : State) (m : M s Unit) : M.result s m = after m ⟨s, Reach.refl s⟩ := rfl

@[simp] theorem whenM_pos {c : Prop} [Decidable c] (h : c) (m : M s0 Unit) : whenM c m = m := if_pos h
@[simp] theorem whenM_neg {c : Prop} [Decidable c] (h : ¬c) (m : M s0 Unit) : whenM c m = pure () := if_neg h
@[simp] theorem each_nil (f : α → M s0 Unit) : each [] f = pure () := rfl
@[simp] theorem each_cons (x : α) (xs : List α) (f : α → M s0 Unit) : each (x :: xs) f = (do f x; each xs f) := rfl

/-! ### What a run can do -/

/-- The second state comes from the first by effects that all satisfy P. -/
inductive Steps (P : Eff → Prop) : State → State → Prop where
  | refl (s : State) : Steps P s s
  | step {s t : State} (h : Steps P s t) (e : Eff) (he : P e) : Steps P s (e.apply t)

theorem Steps.trans {P : Eff → Prop} {s t u : State} (h : Steps P s t) (k : Steps P t u) : Steps P s u := by
  induction k with
  | refl => exact h
  | step _ e he ih => exact ih.step e he

theorem Steps.mono {P Q : Eff → Prop} {s t : State} (h : Steps P s t) (hpq : ∀ e, P e → Q e) : Steps Q s t := by
  induction h with
  | refl => exact .refl _
  | step _ e he ih => exact ih.step e (hpq e he)

/-- What every allowed effect keeps, the run keeps. -/
theorem Steps.keeps {P : Eff → Prop} {s t : State} (h : Steps P s t) (f : State → β)
    (hf : ∀ e u, P e → f (e.apply u) = f u) : f t = f s := by
  induction h with
  | refl => rfl
  | step _ e he ih => rw [hf e _ he, ih]

/-- What every effect keeps, a run of effects keeps. -/
theorem Reach.keeps {s t : State} (h : Reach s t) (f : State → β) (hf : ∀ (e : Eff) u, f (e.apply u) = f u) : f t = f s := by
  induction h with
  | refl => rfl
  | step _ e ih => rw [hf e, ih]

/-- What every effect preserves, a run of effects preserves. -/
theorem Reach.preserves {s t : State} (h : Reach s t) (p : State → Prop) (hp : ∀ (e : Eff) u, p u → p (e.apply u)) (hs : p s) :
    p t := by
  induction h with
  | refl => exact hs
  | step _ e ih => exact hp e _ ih

/-- Every effect of an action satisfies P. -/
def Only (P : Eff → Prop) (m : M s0 α) : Prop := ∀ t, Steps P t.1 (after m t)

theorem Only.pure {P : Eff → Prop} (a : α) : Only P (Pure.pure a : M s0 α) := fun t => .refl t.1
theorem Only.cur {P : Eff → Prop} : Only P (Machine.cur : M s0 State) := fun t => .refl t.1
theorem Only.eff {P : Eff → Prop} (e : Eff) (h : P e) : Only P (Machine.eff e : M s0 Unit) :=
  fun t => .step (.refl t.1) e h
theorem Only.bind {P : Eff → Prop} {m : M s0 α} {f : α → M s0 β} (h : Only P m) (k : ∀ a, Only P (f a)) :
    Only P (m >>= f) := fun t => (h t).trans (k (m t).1 (m t).2)
theorem Only.mono {P Q : Eff → Prop} {m : M s0 α} (h : Only P m) (hpq : ∀ e, P e → Q e) : Only Q m :=
  fun t => (h t).mono hpq
theorem Only.ite {P : Eff → Prop} {c : Prop} [Decidable c] {m k : M s0 α} (h : Only P m) (h' : Only P k) :
    Only P (if c then m else k) := by split <;> assumption
theorem Only.whenM {P : Eff → Prop} {c : Prop} [Decidable c] {m : M s0 Unit} (h : Only P m) :
    Only P (Machine.whenM c m) := Only.ite h (Only.pure ())
theorem Only.each {P : Eff → Prop} (xs : List α) {f : α → M s0 Unit} (h : ∀ x, Only P (f x)) :
    Only P (Machine.each xs f) := by
  induction xs with
  | nil => exact Only.pure ()
  | cons x xs ih => exact Only.bind (h x) fun _ => ih

/-! ### Registers -/

/-- The effect sets a register of a list of names. -/
def setsReg (ns : List RegName) (e : Eff) : Prop := ∃ r v, e = .reg r v ∧ r.name ∈ ns

theorem Only.setF {ns : List RegName} (f : Fld) (v i j k : Nat) (h : f.reg ∈ ns) :
    Only (setsReg ns) (Machine.setF f v i j k : M s0 Unit) :=
  Only.bind Only.cur fun _ => Only.eff _ ⟨_, _, rfl, h⟩
theorem Only.setFlag {ns : List RegName} (f : Fld) (v : Bool) (i j k : Nat) (h : f.reg ∈ ns) :
    Only (setsReg ns) (Machine.setFlag f v i j k : M s0 Unit) := Only.setF _ _ _ _ _ h
theorem Only.bump {ns : List RegName} (f : Fld) (d i j k : Nat) (h : f.reg ∈ ns) :
    Only (setsReg ns) (Machine.bump f d i j k : M s0 Unit) := Only.bind Only.cur fun _ => Only.setF _ _ _ _ _ h

/-- A run that sets registers of some names leaves every other register. -/
theorem Steps.reg_eq {ns : List RegName} {s t : State} (h : Steps (setsReg ns) s t) (r : Reg) (hr : r.name ∉ ns) :
    t.reg r = s.reg r := by
  refine h.keeps (fun u => u.reg r) ?_
  rintro _ u ⟨r', v, rfl, hn⟩
  simp only [State.reg, Eff.apply_reg, Bank.get_put]
  rw [if_neg]
  rintro ⟨rfl, -⟩
  exact hr hn

/-- Reading a register after one register has been set. -/
theorem reg_after_setReg (r r' : Reg) (v : Nat) (t : { t : State // Reach s0 t }) :
    (after (setReg r v) t).reg r' =
      if r' = r ∧ r.exists = true then (v % 2 ^ 64) &&& (r.name.held % 2 ^ 64) else t.1.reg r' := by
  simp only [setReg, after_eff, Eff.apply_reg, State.reg, Bank.get_put]
  split <;> simp

/-- Setting a field changes no other register. -/
theorem reg_after_setF_ne (f : Fld) (v i j k : Nat) (r : Reg) (t : { t : State // Reach s0 t }) (h : r ≠ f.at i j k) :
    (after (setF f v i j k) t).reg r = t.1.reg r := by
  simp only [setF, after_bind, cur_run, reg_after_setReg]
  rw [if_neg fun x => h x.1]

/-- The register of a field after the field has been set. -/
theorem reg_after_setF (f : Fld) (v i j k : Nat) (t : { t : State // Reach s0 t }) (h : (f.at i j k).exists = true) :
    (after (setF f v i j k) t).reg (f.at i j k) =
      (setBits (t.1.reg (f.at i j k)) f.hi f.lo v % 2 ^ 64) &&& (f.reg.held % 2 ^ 64) := by
  simp only [setF, after_bind, cur_run, reg_after_setReg, h, and_self, if_true]
  rfl

end Sys2Proof.Machine
end

