-- ==== Sys2Proof/Laws/Fields.lean ====
section
/-!
SUPPORT. The laws of register fields: a field that has been set reads its value, and no other field changes.
-/
namespace Sys2Proof.Machine

variable {s0 : State}

/-- A number with a field replaced, in parts. -/
theorem setBits_eq (w hi lo v : Nat) (h : lo ≤ hi + 1) :
    setBits w hi lo v = 2 ^ lo * (2 ^ (hi + 1 - lo) * (w / 2 ^ (hi + 1)) + v % 2 ^ (hi + 1 - lo)) + w % 2 ^ lo := by
  unfold setBits
  simp only [Nat.shiftRight_eq_div_pow, Nat.shiftLeft_eq]
  obtain ⟨k, hk⟩ : ∃ k, hi + 1 = lo + k := ⟨hi + 1 - lo, by omega⟩
  have hk' : hi + 1 - lo = k := by omega
  rw [hk', hk, pow_add, ← Nat.div_div_eq_div_mul]
  have h1 : w = 2 ^ lo * (w / 2 ^ lo) + w % 2 ^ lo := (Nat.div_add_mod _ _).symm
  have h2 : w / 2 ^ lo = 2 ^ k * (w / 2 ^ lo / 2 ^ k) + w / 2 ^ lo % 2 ^ k := (Nat.div_add_mod _ _).symm
  generalize w / 2 ^ lo / 2 ^ k = A at *
  generalize w / 2 ^ lo % 2 ^ k = B at *
  generalize w / 2 ^ lo = C at *
  generalize w % 2 ^ lo = D at *
  generalize v % 2 ^ k = V at *
  subst h2
  have : w - B * 2 ^ lo = 2 ^ lo * (2 ^ k * A) + D := by
    rw [h1, Nat.mul_add, Nat.mul_comm B]; omega
  rw [this]; ring

/-- The bits of a number with a field replaced. -/
theorem testBit_setBits (w hi lo v i : Nat) (h : lo ≤ hi + 1) :
    (setBits w hi lo v).testBit i = if lo ≤ i ∧ i ≤ hi then v.testBit (i - lo) else w.testBit i := by
  rw [setBits_eq _ _ _ _ h, Nat.testBit_two_pow_mul_add _ (Nat.mod_lt _ (Nat.two_pow_pos _))]
  by_cases h1 : i < lo
  · rw [if_pos h1, if_neg (by omega), Nat.testBit_mod_two_pow]; simp [h1]
  · rw [if_neg h1, Nat.testBit_two_pow_mul_add _ (Nat.mod_lt _ (Nat.two_pow_pos _))]
    by_cases h2 : i ≤ hi
    · rw [if_pos (by omega), if_pos ⟨by omega, h2⟩, Nat.testBit_mod_two_pow]
      simp; omega
    · rw [if_neg (by omega), if_neg (by omega), ← Nat.shiftRight_eq_div_pow, Nat.testBit_shiftRight]
      congr 1; omega

/-- The bits of a field. -/
@[simp] theorem testBit_bits (w hi lo i : Nat) : (bits w hi lo).testBit i = (decide (i < hi + 1 - lo) && w.testBit (lo + i)) := by
  simp [bits, Nat.testBit_mod_two_pow, Nat.testBit_shiftRight]

/-- The field fits the bits its register holds. -/
def Fld.fits (f : Fld) : Bool :=
  decide (f.lo ≤ f.hi) && decide (f.hi < 64) && (List.range (f.hi + 1 - f.lo)).all fun i => f.reg.held.testBit (f.lo + i)

/-- A field that has been set reads the value. -/
theorem fld_after_setF (f : Fld) (v i j k : Nat) (t : { t : State // Reach s0 t }) (hx : (f.at i j k).exists = true)
    (hf : f.fits = true) (hv : v < 2 ^ (f.hi + 1 - f.lo)) : (after (setF f v i j k) t).fld f i j k = v := by
  simp only [Fld.fits, Bool.and_eq_true, decide_eq_true_eq, List.all_eq_true, List.mem_range] at hf
  obtain ⟨⟨h1, h2⟩, h3⟩ := hf
  unfold State.fld
  rw [reg_after_setF _ _ _ _ _ _ hx]
  apply Nat.eq_of_testBit_eq
  intro n
  rw [testBit_bits]
  by_cases hn : n < f.hi + 1 - f.lo
  · simp only [hn, decide_true, Bool.true_and, Nat.testBit_and, Nat.testBit_mod_two_pow]
    rw [testBit_setBits _ _ _ _ _ (by omega), if_pos (by omega), h3 n hn, Nat.add_sub_cancel_left]
    have : f.lo + n < 64 := by omega
    simp [this]
  · simp only [hn, decide_false, Bool.false_and]
    exact (Nat.testBit_lt_two_pow (lt_of_lt_of_le hv (Nat.pow_le_pow_right (by omega) (by omega)))).symm

/-- Setting a field leaves every field that shares no bit with it. -/
theorem fld_after_setF_other (f g : Fld) (v i j k i' j' k' : Nat) (t : { t : State // Reach s0 t }) (hf : f.fits = true)
    (hg : g.fits = true) (hd : f.hi < g.lo ∨ g.hi < f.lo) : (after (setF f v i j k) t).fld g i' j' k' = t.1.fld g i' j' k' := by
  by_cases hr : g.at i' j' k' = f.at i j k
  · by_cases hx : (f.at i j k).exists = true
    · simp only [Fld.fits, Bool.and_eq_true, decide_eq_true_eq, List.all_eq_true, List.mem_range] at hf hg
      obtain ⟨⟨h1, h2⟩, -⟩ := hf
      obtain ⟨⟨g1, g2⟩, g3⟩ := hg
      have hreg : g.reg = f.reg := congrArg Reg.name hr
      unfold State.fld
      rw [hr, reg_after_setF _ _ _ _ _ _ hx]
      apply Nat.eq_of_testBit_eq
      intro n
      rw [testBit_bits, testBit_bits]
      by_cases hn : n < g.hi + 1 - g.lo
      · simp only [hn, decide_true, Bool.true_and, Nat.testBit_and, Nat.testBit_mod_two_pow]
        rw [testBit_setBits _ _ _ _ _ (by omega), if_neg (by omega), ← hreg, g3 n hn]
        have : g.lo + n < 64 := by omega
        simp [this]
      · simp [hn]
    · unfold State.fld
      simp only [setF, after_bind, cur_run, reg_after_setReg]
      rw [if_neg (fun x => hx x.2)]
  · unfold State.fld
    rw [reg_after_setF_ne _ _ _ _ _ _ _ hr]

/-- Setting a field of one register leaves the fields of every other. -/
theorem fld_after_setF_ne (f g : Fld) (v i j k i' j' k' : Nat) (t : { t : State // Reach s0 t })
    (h : g.at i' j' k' ≠ f.at i j k) : (after (setF f v i j k) t).fld g i' j' k' = t.1.fld g i' j' k' := by
  unfold State.fld
  rw [reg_after_setF_ne _ _ _ _ _ _ _ h]

end Sys2Proof.Machine
end

