-- ==== Sys2Proof/Laws/PerInstr.lean ====
section
/-!
SUPPORT. One law per command, as syntax: a well-formed command names only a context slot that exists (R30).
-/
namespace Sys2Proof.Laws

/-- The context slot a command names, where it names one. -/
def Named.context : Instr → Option Nat
  | .sqDoorbell c _ _ | .sqAbort c _ | .sqResume c _ | .cqEnable c | .eventCounterWrite c _ _ | .packetFetch c
  | .packetCompletion c _ | .nop c _ | .setScalar c _ | .scalarOp c _ | .setPred c _ | .branch c _ | .call c _
  | .ret c _ | .loadScalar c _ | .storeScalar c _ | .reduce c _ | .waitValue c _ | .waitValuePoll c _
  | .waitValueTimeout c _ | .signal c _ | .matmul c _ | .matmulBatched c _ | .adapter c _ | .mlpGated c _
  | .eltwise c _ | .norm c _ | .softmax c _ | .quantise c _ | .rotaryQ c _ | .moeRoute c _ | .moeDispatch c _
  | .copy c _ | .copyT c _ | .gather c _ | .scatter c _ | .fill c _ | .tierMove c _ | .nearMatvec c _
  | .nearExpert c _ | .nearElt c _ | .nearCopy c _ | .nearMode c _ | .nearRaw c _ | .kvAppend c _ | .attend c _
  | .kvRelease c _ | .prefixLookup c _ | .prefixInsert c _ | .kvMove c _ | .stepBegin c _ | .stepEnd c _
  | .stepCommit c _ | .reqOpen c _ | .reqClose c _ | .reqCancel c _ | .sample c _ | .adapterBind c _ | .allReduce c _
  | .allGather c _ | .reduceScatter c _ | .allToAll c _ | .fence c _ | .cue c _ | .eventSignal c _ | .eventWait c _
  | .eventWaitTimeout c _ | .timestamp c _ | .tileReexecution c _ _ _ _ _ | .contextEnable c _ _ | .contextDisable c
  | .quantumExpiry c | .blockEvictExpiry c | .stepHoldExpiry c | .preemptionPoint c | .contextSaveDone c _ _
  | .contextLoaded c | .hardSwap c | .encoreStart c | .encoreRerun c | .collectiveAdmissionTimeout c _ => some c
  | .registerWrite _ _ _ | .commitGo _ | .commitLock _ | .commitApply _ | .spareTakeover _ _ _ | .setLeaveService _ _
  | .strikeExpiry | .strikeAgeRewrite | .setRetire _ _ | .setTest _ _ | .setReturn _ _ | .setTestDone _ _ _
  | .meshFlitRetry _ _ _ _ | .perfSnap _ | .perfSnapDone _ | .perfClear _ | .servingCounterTick | .bulkAgePromote _ _
  | .mergeTimeout _ | .scrubGranule _ _ | .scrubAlarm _ _ | .paritySeal _ _ | .parityUnseal _ _ | .parityCmdDone
  | .parityRebuild _ | .channelFail _ _ | .mapoutStart _ | .mapoutSwitch _ | .nearEnter _ _ | .nearEnterDone _ _ _
  | .nearExit _ _ | .nearExitDone _ _ | .nearIdleExit _ _ | .unitCommandWrite _ _ _ _ _ | .unitTicketRelease _ _ _
  | .uopNone _ _ _ | .uopLoad _ _ _ | .uopStore _ _ _ | .matvec _ _ _ _ | .expert _ _ _ _ | .elt _ _ _ _
  | .kvWrite _ _ _ | .attnPart _ _ _ _ | .join _ _ _ | .pcopy _ _ _ | .selftest _ _ _ _ | .unitOut _ _
  | .unitTest _ _ | .unitReturn _ _ | .unitTestDone _ _ _ | .pfxKeyLoad | .pfxKeyClear | .reqSnapshot _
  | .adapterSnapshot _ | .cancelRegister _ | .tlbInvalidate _ _ _ _ | .invalidateDone | .partitionTeardown _
  | .teardownDone _ | .cardFrameStart | .cardSlotStart _ | .openTimeStart _ | .faultResolveRetry _
  | .faultResolveFail _ | .faultTimeout _ | .frameReceive _ _ | .data | .ack | .credit | .hold | .hello _
  | .helloReply _ | .fabricAttest _ | .confirm _ | .close | .ackTimer _ | .retransmitTimeout _ _ | .peerLost _
  | .readmitRetry _ | .ccPeriod | .handshakeResend _ | .rekeyDue _ | .oldEpochExpiry _ | .holdTimer _ _
  | .collectiveSilence _ _ | .peerLoad _ | .peerDrop _ | .groupArm _ | .groupDisarm _ | .laneFail _ _
  | .portRetrainDone _ | .portEnable _ | .injectReorderRelease _ | .theamFlitReplay | .linkTrainingDone _
  | .linkLaneLoss _ | .linkDownRetry | .retrain | .companionMemRead _ _ | .companionMemWrite _ _
  | .companionCacheableRead _ | .companionWriteback _ _ _ | .snoopTimeout | .thmSync | .vectorUnmask _
  | .inputSample _ _ | .inputBrakeEnd | .railCheck _ _ _ _ _ | .railCeilingRecovery _ | .polOvercurrent _
  | .tempoTick _ | .pwrbrkAssert | .pwrbrkRelease | .cuePhaseStart _ | .cuePhaseEnd _ | .cueEvaluation _ _
  | .droopDetect _ | .droopFallback _ | .droopRecover _ | .sensorRead _ _ _ | .externalSensorRead _ _ _
  | .thermalStep _ | .extThrottleStep _ | .alertRelease | .idleEnter | .idleWake _ | .idleWakeDone | .powerOnAssert
  | .powerOnRelease | .mrstAssert | .mrstRelease | .hotResetAssert | .hotResetRelease | .watchdogExpiry
  | .watchdogRelease | .tripLatchRelease | .securityViolation _ | .securityResetRelease | .debugReset _
  | .softReset _ _ _ | .softResetRelease | .refclkFail _ | .refclkRecover _ | .firmwareVerify _ _ _
  | .stackClearDone _ | .deepWipeDone _ | .featPublish | .ready | .wipeTimeout _ _ | .attest | .ceilingConfirm _
  | .bottomTreeBuilt | .nodeCacheRebuild | .lcChange _ | .lcTransitionReset _ | .dbgAuth _ | .dbgClose
  | .debugSessionExpiry | .dbgLockoutExpiry | .debugPortAccess _ _ _ _ | .chainWrite _ | .fwWrite _ | .fwActivate _ _
  | .fwSwitchStep _ _ | .calReload | .i3cSetdasa _ | .i3cPrivateWrite _ | .i3cPrivateRead _ | .snoopResponse _
  | .pllLock _ | .railPowerGoodTimeout _ | .debugResetRelease | .mgmtMemoryUncorrectable _ => none

/-- A well-formed command that names a context names one of the 256. -/
def Named.Statement (i : Instr) : Prop := i.wf = true → ∀ c, Named.context i = some c → c < 256

/-- From the test of a slot alone. -/
theorem Named.of_ctx {c d : Nat} (h : inCtx c = true) (e : some c = some d) : d < 256 :=
  Option.some.inj e ▸ of_decide_eq_true h

/-- From the test of a slot among others. -/
theorem Named.of_and {c d : Nat} {b : Bool} (h : (inCtx c && b) = true) (e : some c = some d) : d < 256 :=
  Named.of_ctx (Bool.and_eq_true _ _ |>.mp h).1 e

theorem Named.registerWrite (off width : Nat) (data : W64) : Named.Statement (.registerWrite off width data) :=
  fun _ _ e => nomatch e
theorem Named.commitGo (g : Group) : Named.Statement (.commitGo g) := fun _ _ e => nomatch e
theorem Named.commitLock (g : Group) : Named.Statement (.commitLock g) := fun _ _ e => nomatch e
theorem Named.commitApply (g : Group) : Named.Statement (.commitApply g) := fun _ _ e => nomatch e
theorem Named.sqDoorbell (c q tail : Nat) : Named.Statement (.sqDoorbell c q tail) :=
  fun h _ e => Named.of_and ((Bool.and_eq_true _ _).mp h).1 e
theorem Named.sqAbort (c q : Nat) : Named.Statement (.sqAbort c q) := fun h _ e => Named.of_and h e
theorem Named.sqResume (c q : Nat) : Named.Statement (.sqResume c q) := fun h _ e => Named.of_and h e
theorem Named.cqEnable (c : Nat) : Named.Statement (.cqEnable c) := fun h _ e => Named.of_ctx h e
theorem Named.eventCounterWrite (c e : Nat) (v : W64) : Named.Statement (.eventCounterWrite c e v) :=
  fun h _ e => Named.of_and h e
theorem Named.packetFetch (c : Nat) : Named.Statement (.packetFetch c) := fun h _ e => Named.of_ctx h e
theorem Named.packetCompletion (c id : Nat) : Named.Statement (.packetCompletion c id) :=
  fun h _ e => Named.of_ctx h e
theorem Named.nop (c id : Nat) : Named.Statement (.nop c id) := fun h _ e => Named.of_ctx h e
theorem Named.setScalar (c id : Nat) : Named.Statement (.setScalar c id) := fun h _ e => Named.of_ctx h e
theorem Named.scalarOp (c id : Nat) : Named.Statement (.scalarOp c id) := fun h _ e => Named.of_ctx h e
theorem Named.setPred (c id : Nat) : Named.Statement (.setPred c id) := fun h _ e => Named.of_ctx h e
theorem Named.branch (c id : Nat) : Named.Statement (.branch c id) := fun h _ e => Named.of_ctx h e
theorem Named.call (c id : Nat) : Named.Statement (.call c id) := fun h _ e => Named.of_ctx h e
theorem Named.ret (c id : Nat) : Named.Statement (.ret c id) := fun h _ e => Named.of_ctx h e
theorem Named.loadScalar (c id : Nat) : Named.Statement (.loadScalar c id) := fun h _ e => Named.of_ctx h e
theorem Named.storeScalar (c id : Nat) : Named.Statement (.storeScalar c id) := fun h _ e => Named.of_ctx h e
theorem Named.reduce (c id : Nat) : Named.Statement (.reduce c id) := fun h _ e => Named.of_ctx h e
theorem Named.waitValue (c id : Nat) : Named.Statement (.waitValue c id) := fun h _ e => Named.of_ctx h e
theorem Named.waitValuePoll (c id : Nat) : Named.Statement (.waitValuePoll c id) := fun h _ e => Named.of_ctx h e
theorem Named.waitValueTimeout (c id : Nat) : Named.Statement (.waitValueTimeout c id) :=
  fun h _ e => Named.of_ctx h e
theorem Named.signal (c id : Nat) : Named.Statement (.signal c id) := fun h _ e => Named.of_ctx h e
theorem Named.matmul (c id : Nat) : Named.Statement (.matmul c id) := fun h _ e => Named.of_ctx h e
theorem Named.matmulBatched (c id : Nat) : Named.Statement (.matmulBatched c id) := fun h _ e => Named.of_ctx h e
theorem Named.adapter (c id : Nat) : Named.Statement (.adapter c id) := fun h _ e => Named.of_ctx h e
theorem Named.mlpGated (c id : Nat) : Named.Statement (.mlpGated c id) := fun h _ e => Named.of_ctx h e
theorem Named.eltwise (c id : Nat) : Named.Statement (.eltwise c id) := fun h _ e => Named.of_ctx h e
theorem Named.norm (c id : Nat) : Named.Statement (.norm c id) := fun h _ e => Named.of_ctx h e
theorem Named.softmax (c id : Nat) : Named.Statement (.softmax c id) := fun h _ e => Named.of_ctx h e
theorem Named.quantise (c id : Nat) : Named.Statement (.quantise c id) := fun h _ e => Named.of_ctx h e
theorem Named.rotaryQ (c id : Nat) : Named.Statement (.rotaryQ c id) := fun h _ e => Named.of_ctx h e
theorem Named.moeRoute (c id : Nat) : Named.Statement (.moeRoute c id) := fun h _ e => Named.of_ctx h e
theorem Named.moeDispatch (c id : Nat) : Named.Statement (.moeDispatch c id) := fun h _ e => Named.of_ctx h e
theorem Named.copy (c id : Nat) : Named.Statement (.copy c id) := fun h _ e => Named.of_ctx h e
theorem Named.copyT (c id : Nat) : Named.Statement (.copyT c id) := fun h _ e => Named.of_ctx h e
theorem Named.gather (c id : Nat) : Named.Statement (.gather c id) := fun h _ e => Named.of_ctx h e
theorem Named.scatter (c id : Nat) : Named.Statement (.scatter c id) := fun h _ e => Named.of_ctx h e
theorem Named.fill (c id : Nat) : Named.Statement (.fill c id) := fun h _ e => Named.of_ctx h e
theorem Named.tierMove (c id : Nat) : Named.Statement (.tierMove c id) := fun h _ e => Named.of_ctx h e
theorem Named.nearMatvec (c id : Nat) : Named.Statement (.nearMatvec c id) := fun h _ e => Named.of_ctx h e
theorem Named.nearExpert (c id : Nat) : Named.Statement (.nearExpert c id) := fun h _ e => Named.of_ctx h e
theorem Named.nearElt (c id : Nat) : Named.Statement (.nearElt c id) := fun h _ e => Named.of_ctx h e
theorem Named.nearCopy (c id : Nat) : Named.Statement (.nearCopy c id) := fun h _ e => Named.of_ctx h e
theorem Named.nearMode (c id : Nat) : Named.Statement (.nearMode c id) := fun h _ e => Named.of_ctx h e
theorem Named.nearRaw (c id : Nat) : Named.Statement (.nearRaw c id) := fun h _ e => Named.of_ctx h e
theorem Named.kvAppend (c id : Nat) : Named.Statement (.kvAppend c id) := fun h _ e => Named.of_ctx h e
theorem Named.attend (c id : Nat) : Named.Statement (.attend c id) := fun h _ e => Named.of_ctx h e
theorem Named.kvRelease (c id : Nat) : Named.Statement (.kvRelease c id) := fun h _ e => Named.of_ctx h e
theorem Named.prefixLookup (c id : Nat) : Named.Statement (.prefixLookup c id) := fun h _ e => Named.of_ctx h e
theorem Named.prefixInsert (c id : Nat) : Named.Statement (.prefixInsert c id) := fun h _ e => Named.of_ctx h e
theorem Named.kvMove (c id : Nat) : Named.Statement (.kvMove c id) := fun h _ e => Named.of_ctx h e
theorem Named.stepBegin (c id : Nat) : Named.Statement (.stepBegin c id) := fun h _ e => Named.of_ctx h e
theorem Named.stepEnd (c id : Nat) : Named.Statement (.stepEnd c id) := fun h _ e => Named.of_ctx h e
theorem Named.stepCommit (c id : Nat) : Named.Statement (.stepCommit c id) := fun h _ e => Named.of_ctx h e
theorem Named.reqOpen (c id : Nat) : Named.Statement (.reqOpen c id) := fun h _ e => Named.of_ctx h e
theorem Named.reqClose (c id : Nat) : Named.Statement (.reqClose c id) := fun h _ e => Named.of_ctx h e
theorem Named.reqCancel (c id : Nat) : Named.Statement (.reqCancel c id) := fun h _ e => Named.of_ctx h e
theorem Named.sample (c id : Nat) : Named.Statement (.sample c id) := fun h _ e => Named.of_ctx h e
theorem Named.adapterBind (c id : Nat) : Named.Statement (.adapterBind c id) := fun h _ e => Named.of_ctx h e
theorem Named.allReduce (c id : Nat) : Named.Statement (.allReduce c id) := fun h _ e => Named.of_ctx h e
theorem Named.allGather (c id : Nat) : Named.Statement (.allGather c id) := fun h _ e => Named.of_ctx h e
theorem Named.reduceScatter (c id : Nat) : Named.Statement (.reduceScatter c id) := fun h _ e => Named.of_ctx h e
theorem Named.allToAll (c id : Nat) : Named.Statement (.allToAll c id) := fun h _ e => Named.of_ctx h e
theorem Named.fence (c id : Nat) : Named.Statement (.fence c id) := fun h _ e => Named.of_ctx h e
theorem Named.cue (c id : Nat) : Named.Statement (.cue c id) := fun h _ e => Named.of_ctx h e
theorem Named.eventSignal (c id : Nat) : Named.Statement (.eventSignal c id) := fun h _ e => Named.of_ctx h e
theorem Named.eventWait (c id : Nat) : Named.Statement (.eventWait c id) := fun h _ e => Named.of_ctx h e
theorem Named.eventWaitTimeout (c id : Nat) : Named.Statement (.eventWaitTimeout c id) :=
  fun h _ e => Named.of_ctx h e
theorem Named.timestamp (c id : Nat) : Named.Statement (.timestamp c id) := fun h _ e => Named.of_ctx h e
theorem Named.tileReexecution (c id d st core cause : Nat) : Named.Statement (.tileReexecution c id d st core cause) :=
  fun h _ e => Named.of_and ((Bool.and_eq_true _ _).mp ((Bool.and_eq_true _ _).mp ((Bool.and_eq_true _ _).mp ((Bool.and_eq_true _ _).mp h).1).1).1).1 e
theorem Named.spareTakeover (d st core : Nat) : Named.Statement (.spareTakeover d st core) := fun _ _ e => nomatch e
theorem Named.setLeaveService (d st : Nat) : Named.Statement (.setLeaveService d st) := fun _ _ e => nomatch e
theorem Named.strikeExpiry : Named.Statement (.strikeExpiry) := fun _ _ e => nomatch e
theorem Named.strikeAgeRewrite : Named.Statement (.strikeAgeRewrite) := fun _ _ e => nomatch e
theorem Named.setRetire (d st : Nat) : Named.Statement (.setRetire d st) := fun _ _ e => nomatch e
theorem Named.setTest (d st : Nat) : Named.Statement (.setTest d st) := fun _ _ e => nomatch e
theorem Named.setReturn (d st : Nat) : Named.Statement (.setReturn d st) := fun _ _ e => nomatch e
theorem Named.setTestDone (d st : Nat) (fails : List Nat) : Named.Statement (.setTestDone d st fails) :=
  fun _ _ e => nomatch e
theorem Named.meshFlitRetry (d router dir : Nat) (ok : Bool) : Named.Statement (.meshFlitRetry d router dir ok) :=
  fun _ _ e => nomatch e
theorem Named.perfSnap (d : Nat) : Named.Statement (.perfSnap d) := fun _ _ e => nomatch e
theorem Named.perfSnapDone (d : Nat) : Named.Statement (.perfSnapDone d) := fun _ _ e => nomatch e
theorem Named.perfClear (d : Nat) : Named.Statement (.perfClear d) := fun _ _ e => nomatch e
theorem Named.servingCounterTick : Named.Statement (.servingCounterTick) := fun _ _ e => nomatch e
theorem Named.bulkAgePromote (target part : Nat) : Named.Statement (.bulkAgePromote target part) :=
  fun _ _ e => nomatch e
theorem Named.mergeTimeout (gran : Nat) : Named.Statement (.mergeTimeout gran) := fun _ _ e => nomatch e
theorem Named.scrubGranule (t ch : Nat) : Named.Statement (.scrubGranule t ch) := fun _ _ e => nomatch e
theorem Named.scrubAlarm (t ch : Nat) : Named.Statement (.scrubAlarm t ch) := fun _ _ e => nomatch e
theorem Named.paritySeal (first last : Nat) : Named.Statement (.paritySeal first last) := fun _ _ e => nomatch e
theorem Named.parityUnseal (first last : Nat) : Named.Statement (.parityUnseal first last) := fun _ _ e => nomatch e
theorem Named.parityCmdDone : Named.Statement (.parityCmdDone) := fun _ _ e => nomatch e
theorem Named.parityRebuild (dpa : Nat) : Named.Statement (.parityRebuild dpa) := fun _ _ e => nomatch e
theorem Named.channelFail (k : Nat) (b : Bool) : Named.Statement (.channelFail k b) := fun _ _ e => nomatch e
theorem Named.mapoutStart (t : Nat) : Named.Statement (.mapoutStart t) := fun _ _ e => nomatch e
theorem Named.mapoutSwitch (t : Nat) : Named.Statement (.mapoutSwitch t) := fun _ _ e => nomatch e
theorem Named.nearEnter (u : Nat) (x : Poke) : Named.Statement (.nearEnter u x) := fun _ _ e => nomatch e
theorem Named.nearEnterDone (n p : Nat) (ok : Bool) : Named.Statement (.nearEnterDone n p ok) :=
  fun _ _ e => nomatch e
theorem Named.nearExit (u : Nat) (x : Poke) : Named.Statement (.nearExit u x) := fun _ _ e => nomatch e
theorem Named.nearExitDone (n p : Nat) : Named.Statement (.nearExitDone n p) := fun _ _ e => nomatch e
theorem Named.nearIdleExit (n p : Nat) : Named.Statement (.nearIdleExit n p) := fun _ _ e => nomatch e
theorem Named.unitCommandWrite (n p off : Nat) (ws : List W64) (agent : Nat) : Named.Statement (.unitCommandWrite n p off ws agent) :=
  fun _ _ e => nomatch e
theorem Named.unitTicketRelease (n p : Nat) (x : Poke) : Named.Statement (.unitTicketRelease n p x) := fun _ _ e => nomatch e
theorem Named.uopNone (n p t : Nat) : Named.Statement (.uopNone n p t) := fun _ _ e => nomatch e
theorem Named.uopLoad (u t : Nat) (b : Bool) : Named.Statement (.uopLoad u t b) := fun _ _ e => nomatch e
theorem Named.uopStore (u t : Nat) (b : Bool) : Named.Statement (.uopStore u t b) := fun _ _ e => nomatch e
theorem Named.matvec (n p t : Nat) (pass : Bool) : Named.Statement (.matvec n p t pass) := fun _ _ e => nomatch e
theorem Named.expert (n p t : Nat) (pass : Bool) : Named.Statement (.expert n p t pass) := fun _ _ e => nomatch e
theorem Named.elt (n p t : Nat) (pass : Bool) : Named.Statement (.elt n p t pass) := fun _ _ e => nomatch e
theorem Named.kvWrite (u t : Nat) (b : Bool) : Named.Statement (.kvWrite u t b) := fun _ _ e => nomatch e
theorem Named.attnPart (n p t : Nat) (pass : Bool) : Named.Statement (.attnPart n p t pass) := fun _ _ e => nomatch e
theorem Named.join (u t : Nat) (b : Bool) : Named.Statement (.join u t b) := fun _ _ e => nomatch e
theorem Named.pcopy (n p t : Nat) : Named.Statement (.pcopy n p t) := fun _ _ e => nomatch e
theorem Named.selftest (n p t : Nat) (pass : Bool) : Named.Statement (.selftest n p t pass) := fun _ _ e => nomatch e
theorem Named.unitOut (n p : Nat) : Named.Statement (.unitOut n p) := fun _ _ e => nomatch e
theorem Named.unitTest (n p : Nat) : Named.Statement (.unitTest n p) := fun _ _ e => nomatch e
theorem Named.unitReturn (n p : Nat) : Named.Statement (.unitReturn n p) := fun _ _ e => nomatch e
theorem Named.unitTestDone (n p : Nat) (pass : Bool) : Named.Statement (.unitTestDone n p pass) :=
  fun _ _ e => nomatch e
theorem Named.pfxKeyLoad : Named.Statement (.pfxKeyLoad) := fun _ _ e => nomatch e
theorem Named.pfxKeyClear : Named.Statement (.pfxKeyClear) := fun _ _ e => nomatch e
theorem Named.reqSnapshot (slot : Nat) : Named.Statement (.reqSnapshot slot) := fun _ _ e => nomatch e
theorem Named.adapterSnapshot (a : Nat) : Named.Statement (.adapterSnapshot a) := fun _ _ e => nomatch e
theorem Named.cancelRegister (slot : Nat) : Named.Statement (.cancelRegister slot) := fun _ _ e => nomatch e
theorem Named.tlbInvalidate (all : Bool) (part va count : Nat) : Named.Statement (.tlbInvalidate all part va count) :=
  fun _ _ e => nomatch e
theorem Named.invalidateDone : Named.Statement (.invalidateDone) := fun _ _ e => nomatch e
theorem Named.contextEnable (c part : Nat) (keeps : Bool) : Named.Statement (.contextEnable c part keeps) :=
  fun h _ e => Named.of_and h e
theorem Named.contextDisable (c : Nat) : Named.Statement (.contextDisable c) := fun h _ e => Named.of_ctx h e
theorem Named.partitionTeardown (p : Nat) : Named.Statement (.partitionTeardown p) := fun _ _ e => nomatch e
theorem Named.teardownDone (p : Nat) : Named.Statement (.teardownDone p) := fun _ _ e => nomatch e
theorem Named.cardFrameStart : Named.Statement (.cardFrameStart) := fun _ _ e => nomatch e
theorem Named.cardSlotStart (i : Nat) : Named.Statement (.cardSlotStart i) := fun _ _ e => nomatch e
theorem Named.openTimeStart (cut : Bool) : Named.Statement (.openTimeStart cut) := fun _ _ e => nomatch e
theorem Named.quantumExpiry (c : Nat) : Named.Statement (.quantumExpiry c) := fun h _ e => Named.of_ctx h e
theorem Named.blockEvictExpiry (c : Nat) : Named.Statement (.blockEvictExpiry c) := fun h _ e => Named.of_ctx h e
theorem Named.stepHoldExpiry (c : Nat) : Named.Statement (.stepHoldExpiry c) := fun h _ e => Named.of_ctx h e
theorem Named.preemptionPoint (c : Nat) : Named.Statement (.preemptionPoint c) := fun h _ e => Named.of_ctx h e
theorem Named.contextSaveDone (c d st : Nat) : Named.Statement (.contextSaveDone c d st) :=
  fun h _ e => Named.of_and ((Bool.and_eq_true _ _).mp h).1 e
theorem Named.contextLoaded (c : Nat) : Named.Statement (.contextLoaded c) := fun h _ e => Named.of_ctx h e
theorem Named.hardSwap (c : Nat) : Named.Statement (.hardSwap c) := fun h _ e => Named.of_ctx h e
theorem Named.faultResolveRetry (fid : Nat) : Named.Statement (.faultResolveRetry fid) := fun _ _ e => nomatch e
theorem Named.faultResolveFail (fid : Nat) : Named.Statement (.faultResolveFail fid) := fun _ _ e => nomatch e
theorem Named.faultTimeout (fid : Nat) : Named.Statement (.faultTimeout fid) := fun _ _ e => nomatch e
theorem Named.frameReceive (port : Nat) (frame : List Byte) : Named.Statement (.frameReceive port frame) :=
  fun _ _ e => nomatch e
theorem Named.data : Named.Statement (.data) := fun _ _ e => nomatch e
theorem Named.ack : Named.Statement (.ack) := fun _ _ e => nomatch e
theorem Named.credit : Named.Statement (.credit) := fun _ _ e => nomatch e
theorem Named.hold : Named.Statement (.hold) := fun _ _ e => nomatch e
theorem Named.hello (ok : Bool) : Named.Statement (.hello ok) := fun _ _ e => nomatch e
theorem Named.helloReply (ok : Bool) : Named.Statement (.helloReply ok) := fun _ _ e => nomatch e
theorem Named.fabricAttest (ok : Bool) : Named.Statement (.fabricAttest ok) := fun _ _ e => nomatch e
theorem Named.confirm (ok : Bool) : Named.Statement (.confirm ok) := fun _ _ e => nomatch e
theorem Named.close : Named.Statement (.close) := fun _ _ e => nomatch e
theorem Named.ackTimer (peer : Nat) : Named.Statement (.ackTimer peer) := fun _ _ e => nomatch e
theorem Named.retransmitTimeout (peer psn : Nat) : Named.Statement (.retransmitTimeout peer psn) :=
  fun _ _ e => nomatch e
theorem Named.peerLost (peer : Nat) : Named.Statement (.peerLost peer) := fun _ _ e => nomatch e
theorem Named.readmitRetry (peer : Nat) : Named.Statement (.readmitRetry peer) := fun _ _ e => nomatch e
theorem Named.ccPeriod : Named.Statement (.ccPeriod) := fun _ _ e => nomatch e
theorem Named.handshakeResend (peer : Nat) : Named.Statement (.handshakeResend peer) := fun _ _ e => nomatch e
theorem Named.rekeyDue (peer : Nat) : Named.Statement (.rekeyDue peer) := fun _ _ e => nomatch e
theorem Named.oldEpochExpiry (peer : Nat) : Named.Statement (.oldEpochExpiry peer) := fun _ _ e => nomatch e
theorem Named.holdTimer (g rank : Nat) : Named.Statement (.holdTimer g rank) := fun _ _ e => nomatch e
theorem Named.collectiveSilence (g rank : Nat) : Named.Statement (.collectiveSilence g rank) := fun _ _ e => nomatch e
theorem Named.peerLoad (peer : Nat) : Named.Statement (.peerLoad peer) := fun _ _ e => nomatch e
theorem Named.peerDrop (peer : Nat) : Named.Statement (.peerDrop peer) := fun _ _ e => nomatch e
theorem Named.groupArm (g : Nat) : Named.Statement (.groupArm g) := fun _ _ e => nomatch e
theorem Named.groupDisarm (g : Nat) : Named.Statement (.groupDisarm g) := fun _ _ e => nomatch e
theorem Named.laneFail (p lane : Nat) : Named.Statement (.laneFail p lane) := fun _ _ e => nomatch e
theorem Named.portRetrainDone (p : Nat) : Named.Statement (.portRetrainDone p) := fun _ _ e => nomatch e
theorem Named.portEnable (p : Nat) : Named.Statement (.portEnable p) := fun _ _ e => nomatch e
theorem Named.injectReorderRelease (p : Nat) : Named.Statement (.injectReorderRelease p) := fun _ _ e => nomatch e
theorem Named.theamFlitReplay : Named.Statement (.theamFlitReplay) := fun _ _ e => nomatch e
theorem Named.linkTrainingDone (lanes : Nat) : Named.Statement (.linkTrainingDone lanes) := fun _ _ e => nomatch e
theorem Named.linkLaneLoss (lane : Nat) : Named.Statement (.linkLaneLoss lane) := fun _ _ e => nomatch e
theorem Named.linkDownRetry : Named.Statement (.linkDownRetry) := fun _ _ e => nomatch e
theorem Named.retrain : Named.Statement (.retrain) := fun _ _ e => nomatch e
theorem Named.companionMemRead (addr len : Nat) : Named.Statement (.companionMemRead addr len) :=
  fun _ _ e => nomatch e
theorem Named.companionMemWrite (addr : Nat) (bytes : List Byte) : Named.Statement (.companionMemWrite addr bytes) :=
  fun _ _ e => nomatch e
theorem Named.companionCacheableRead (addr : Nat) : Named.Statement (.companionCacheableRead addr) :=
  fun _ _ e => nomatch e
theorem Named.companionWriteback (addr : Nat) (bytes : List Byte) (evict : Bool) : Named.Statement (.companionWriteback addr bytes evict) :=
  fun _ _ e => nomatch e
theorem Named.snoopTimeout : Named.Statement (.snoopTimeout) := fun _ _ e => nomatch e
theorem Named.thmSync : Named.Statement (.thmSync) := fun _ _ e => nomatch e
theorem Named.vectorUnmask (v : Nat) : Named.Statement (.vectorUnmask v) := fun _ _ e => nomatch e
theorem Named.inputSample (mv ma : Nat) : Named.Statement (.inputSample mv ma) := fun _ _ e => nomatch e
theorem Named.inputBrakeEnd : Named.Statement (.inputBrakeEnd) := fun _ _ e => nomatch e
theorem Named.railCheck (r i1 i10 i100 mv : Nat) : Named.Statement (.railCheck r i1 i10 i100 mv) :=
  fun _ _ e => nomatch e
theorem Named.railCeilingRecovery (r : Nat) : Named.Statement (.railCeilingRecovery r) := fun _ _ e => nomatch e
theorem Named.polOvercurrent (r : Nat) : Named.Statement (.polOvercurrent r) := fun _ _ e => nomatch e
theorem Named.tempoTick (draws : List Nat) : Named.Statement (.tempoTick draws) := fun _ _ e => nomatch e
theorem Named.pwrbrkAssert : Named.Statement (.pwrbrkAssert) := fun _ _ e => nomatch e
theorem Named.pwrbrkRelease : Named.Statement (.pwrbrkRelease) := fun _ _ e => nomatch e
theorem Named.cuePhaseStart (i : Nat) : Named.Statement (.cuePhaseStart i) := fun _ _ e => nomatch e
theorem Named.cuePhaseEnd (i : Nat) : Named.Statement (.cuePhaseEnd i) := fun _ _ e => nomatch e
theorem Named.cueEvaluation (i busy : Nat) : Named.Statement (.cueEvaluation i busy) := fun _ _ e => nomatch e
theorem Named.droopDetect (d : Nat) : Named.Statement (.droopDetect d) := fun _ _ e => nomatch e
theorem Named.droopFallback (d : Nat) : Named.Statement (.droopFallback d) := fun _ _ e => nomatch e
theorem Named.droopRecover (d : Nat) : Named.Statement (.droopRecover d) := fun _ _ e => nomatch e
theorem Named.sensorRead (i : Nat) (raw : Int) (bad : Bool) : Named.Statement (.sensorRead i raw bad) :=
  fun _ _ e => nomatch e
theorem Named.externalSensorRead (i : Nat) (raw : Int) (bad : Bool) : Named.Statement (.externalSensorRead i raw bad) :=
  fun _ _ e => nomatch e
theorem Named.thermalStep (part : Nat) : Named.Statement (.thermalStep part) := fun _ _ e => nomatch e
theorem Named.extThrottleStep (j : Nat) : Named.Statement (.extThrottleStep j) := fun _ _ e => nomatch e
theorem Named.alertRelease : Named.Statement (.alertRelease) := fun _ _ e => nomatch e
theorem Named.idleEnter : Named.Statement (.idleEnter) := fun _ _ e => nomatch e
theorem Named.idleWake (cause : Nat) : Named.Statement (.idleWake cause) := fun _ _ e => nomatch e
theorem Named.idleWakeDone : Named.Statement (.idleWakeDone) := fun _ _ e => nomatch e
theorem Named.powerOnAssert : Named.Statement (.powerOnAssert) := fun _ _ e => nomatch e
theorem Named.powerOnRelease : Named.Statement (.powerOnRelease) := fun _ _ e => nomatch e
theorem Named.mrstAssert : Named.Statement (.mrstAssert) := fun _ _ e => nomatch e
theorem Named.mrstRelease : Named.Statement (.mrstRelease) := fun _ _ e => nomatch e
theorem Named.hotResetAssert : Named.Statement (.hotResetAssert) := fun _ _ e => nomatch e
theorem Named.hotResetRelease : Named.Statement (.hotResetRelease) := fun _ _ e => nomatch e
theorem Named.watchdogExpiry : Named.Statement (.watchdogExpiry) := fun _ _ e => nomatch e
theorem Named.watchdogRelease : Named.Statement (.watchdogRelease) := fun _ _ e => nomatch e
theorem Named.tripLatchRelease : Named.Statement (.tripLatchRelease) := fun _ _ e => nomatch e
theorem Named.securityViolation (code : Nat) : Named.Statement (.securityViolation code) := fun _ _ e => nomatch e
theorem Named.securityResetRelease : Named.Statement (.securityResetRelease) := fun _ _ e => nomatch e
theorem Named.debugReset (reach : Nat) : Named.Statement (.debugReset reach) := fun _ _ e => nomatch e
theorem Named.softReset (kind die idx : Nat) : Named.Statement (.softReset kind die idx) := fun _ _ e => nomatch e
theorem Named.softResetRelease : Named.Statement (.softResetRelease) := fun _ _ e => nomatch e
theorem Named.refclkFail (core : Bool) : Named.Statement (.refclkFail core) := fun _ _ e => nomatch e
theorem Named.refclkRecover (core : Bool) : Named.Statement (.refclkRecover core) := fun _ _ e => nomatch e
theorem Named.firmwareVerify (okA okB chainOk : Bool) : Named.Statement (.firmwareVerify okA okB chainOk) :=
  fun _ _ e => nomatch e
theorem Named.stackClearDone (n : Nat) : Named.Statement (.stackClearDone n) := fun _ _ e => nomatch e
theorem Named.deepWipeDone (q : Nat) : Named.Statement (.deepWipeDone q) := fun _ _ e => nomatch e
theorem Named.featPublish : Named.Statement (.featPublish) := fun _ _ e => nomatch e
theorem Named.ready : Named.Statement (.ready) := fun _ _ e => nomatch e
theorem Named.wipeTimeout (deep : Bool) (n : Nat) : Named.Statement (.wipeTimeout deep n) := fun _ _ e => nomatch e
theorem Named.attest : Named.Statement (.attest) := fun _ _ e => nomatch e
theorem Named.ceilingConfirm (ok : Bool) : Named.Statement (.ceilingConfirm ok) := fun _ _ e => nomatch e
theorem Named.bottomTreeBuilt : Named.Statement (.bottomTreeBuilt) := fun _ _ e => nomatch e
theorem Named.nodeCacheRebuild : Named.Statement (.nodeCacheRebuild) := fun _ _ e => nomatch e
theorem Named.lcChange (sigOk : Bool) : Named.Statement (.lcChange sigOk) := fun _ _ e => nomatch e
theorem Named.lcTransitionReset (ok : Bool) : Named.Statement (.lcTransitionReset ok) := fun _ _ e => nomatch e
theorem Named.dbgAuth (sigOk : Bool) : Named.Statement (.dbgAuth sigOk) := fun _ _ e => nomatch e
theorem Named.dbgClose : Named.Statement (.dbgClose) := fun _ _ e => nomatch e
theorem Named.debugSessionExpiry : Named.Statement (.debugSessionExpiry) := fun _ _ e => nomatch e
theorem Named.dbgLockoutExpiry : Named.Statement (.dbgLockoutExpiry) := fun _ _ e => nomatch e
theorem Named.debugPortAccess (write : Bool) (wind off : Nat) (data : W64) : Named.Statement (.debugPortAccess write wind off data) :=
  fun _ _ e => nomatch e
theorem Named.chainWrite (ok : Bool) : Named.Statement (.chainWrite ok) := fun _ _ e => nomatch e
theorem Named.fwWrite (ok : Bool) : Named.Statement (.fwWrite ok) := fun _ _ e => nomatch e
theorem Named.fwActivate (sigOk ok : Bool) : Named.Statement (.fwActivate sigOk ok) := fun _ _ e => nomatch e
theorem Named.fwSwitchStep (kind idx : Nat) : Named.Statement (.fwSwitchStep kind idx) := fun _ _ e => nomatch e
theorem Named.calReload : Named.Statement (.calReload) := fun _ _ e => nomatch e
theorem Named.encoreStart (c : Nat) : Named.Statement (.encoreStart c) := fun h _ e => Named.of_ctx h e
theorem Named.encoreRerun (c : Nat) : Named.Statement (.encoreRerun c) := fun h _ e => Named.of_ctx h e
theorem Named.i3cSetdasa (addr : Nat) : Named.Statement (.i3cSetdasa addr) := fun _ _ e => nomatch e
theorem Named.i3cPrivateWrite (bytes : List Byte) : Named.Statement (.i3cPrivateWrite bytes) := fun _ _ e => nomatch e
theorem Named.i3cPrivateRead (n : Nat) : Named.Statement (.i3cPrivateRead n) := fun _ _ e => nomatch e
theorem Named.collectiveAdmissionTimeout (c id : Nat) : Named.Statement (.collectiveAdmissionTimeout c id) :=
  fun h _ e => Named.of_ctx h e
theorem Named.snoopResponse (data : Option (List Byte)) : Named.Statement (.snoopResponse data) :=
  fun _ _ e => nomatch e
theorem Named.pllLock (domain : Nat) : Named.Statement (.pllLock domain) := fun _ _ e => nomatch e
theorem Named.railPowerGoodTimeout (r : Nat) : Named.Statement (.railPowerGoodTimeout r) := fun _ _ e => nomatch e
theorem Named.debugResetRelease : Named.Statement (.debugResetRelease) := fun _ _ e => nomatch e
theorem Named.mgmtMemoryUncorrectable (core : Nat) : Named.Statement (.mgmtMemoryUncorrectable core) :=
  fun _ _ e => nomatch e

end Sys2Proof.Laws
end

