-- ==== Sys2Proof/Tests/Slice0.lean ====
section
/-!
SUPPORT. Checks of the model's own work: the commands that well-formedness refuses, states that meet the hypotheses of every
statement, and small steps whose results are worked out by hand from the spec.
-/
namespace Sys2Proof.Tests
open Sys2Proof.Machine

set_option Elab.async false

/-! ### Small states -/

/-- The module after start-up: no reset asserted, READY. -/
def up : State :=
  { State.reset with rst := { sources := [], closed := [], firmware := true, published := true },
                     bank := [(⟨.rstStatus, 0, 0, 0⟩, 0x80000000)] }

/-- A state with one field set. -/
def put (f : Fld) (v : Nat) (i : Nat := 0) (j : Nat := 0) (k : Nat := 0) (s : State) : State :=
  { s with bank := Bank.put s.bank (f.at i j k) (BitVec.ofNat 64 (setBits (s.reg (f.at i j k)) f.hi f.lo v)) }

/-- A state with one field in force set. -/
def force (f : Fld) (v : Nat) (i : Nat := 0) (j : Nat := 0) (k : Nat := 0) (s : State) : State :=
  { s with force := Bank.put s.force (f.at i j k) (BitVec.ofNat 64 (setBits (Bank.get s.force (f.at i j k)).toNat f.hi f.lo v)) }

/-- Context 0 of partition 0 is RUNNING. -/
def run0 : State := put F.schCtxState_state 3 0 0 0 (put F.schCtxCfg_en 1 0 0 0 up)

/-- Context 0 runs with these packets in flight. -/
def flying (ps : List Pkt) : State := { run0 with ctxs := [(0, { nextId := 9, pkts := ps })] }

/-- A packet of an opcode with words. -/
def pk (id op : Nat) (ws : List Nat) : Pkt := { id := id, op := op, words := ws, dies := 1 }

/-- Context 0 runs with the first gigabyte of its addresses mapped to the first gigabyte of stack 0, readable and writable, a
token for every granule, and its submission queue 0 enabled, of one slot at address 0x10000, with one packet waiting. -/
def mapped : State :=
  let s := put F.schCtxState_state 3 0 0 0 (put F.schCtxCfg_en 1 0 0 0 up)
  let s := put F.clrSqBase_base 0x10 0 0 0 (put F.clrCtxCfg_sqEn 1 0 0 0 (put F.clrCqCfg_en 1 0 0 0 s))
  let s := put F.clrCqCfg_depthLog2 6 0 0 0 (put F.clrSqCfg_depthLog2 6 0 0 0 (put F.clrSqDb_tail 1 0 0 0 s))
  let s := force F.schPartWin_size 512 0 0 0 (force F.schPartWin_en 1 0 0 0 s)
  let s := force F.schPartRoot_v 1 0 0 0 (force F.schPartRoot_addr 0x4000 0 0 0 s)
  { s with ctxs := [(0, { rr := [3] })]
           mem := [(0x40000000, 1), (0x40000002, 1), (0x40000003, 0x40), (0x40010000, 15)]
           sched := { s.sched with buckets := [(0, 100000)] } }

/-- The same with these packets in flight. -/
def mflying (ps : List Pkt) : State := { mapped with ctxs := [(0, { nextId := 9, pkts := ps })] }

/-! ### Hypotheses of the statements that can be met -/

theorem test_hyp_OnlyTheInputRatingsStop : (∀ mv ma, Instr.ready = .inputSample mv ma → mv ≤ 65000) ∧ 65000 < 65001 :=
  ⟨nofun, by decide⟩

theorem reset_inv : State.reset.Inv := by constructor <;> decide
theorem up_inv : up.Inv := by constructor <;> decide

theorem test_hyp_ReservedBitsReadZero : State.reset.Inv ∧ RegName.rstStatus.held.testBit 0 = false ∧
    RegName.rstStatus.readable.testBit 0 = false ∧ isPerf .rstStatus = false ∧ regAtOffset 0x110000 = some ⟨.rstStatus, 0, 0, 0⟩ :=
  ⟨reset_inv, by decide⟩

theorem test_hyp_RegisterWriteByAccessType :
    (regAtOffset 0x100010 = some ⟨.pwrStatus, 0, 0, 0⟩ ∧ up.opensAt 0x100010 = true) ∧ up.inReset .hub = false ∧
    (up.opensAt 0x4 = true ∧ accessParts 0x4 4 0 = []) := by decide

theorem test_hyp_ClosedBlocksAnswerWithError :
    (State.reset.opensAt 0x100010 = false ∧ windowBlock 0x100010 = some (1, .hub) ∧ State.reset.inReset .hub = true) ∧
    (up.opensAt 0x130000 = false ∧ windowBlock 0x130000 = none) ∧
    (let s : State := { up with bank := [] }
     s.opensAt 0x100010 = true ∧ s.opensAt 0x100000 = true ∨ s.opensAt 0x100010 = false ∧ s.inReset .hub = false) := by decide

/-- A group's shadows that agree, that do not, a locked group, a pending commit. -/
theorem test_hyp_CommitGoLockAndApply :
    (groupExists (.stkReg 0) = true ∧ up.opens ⟨.stkRegCommit, 0, 0, 0⟩ = true ∧ groupFlaw up (.stkReg 0) = none) ∧
    groupFlaw (put F.stkReg_burst 0 0 3 0 (put F.stkReg_rate 5 0 3 0 up)) (.stkReg 0) = some 3 ∧
    (put F.stkRegStatus_locked 1 0 0 0 up).flag F.stkRegStatus_locked 0 = true ∧
    ((put F.stkRegStatus_pending 1 0 0 0 up).flag F.stkRegStatus_pending 0 = true ∧
      (put F.stkRegStatus_pending 1 0 0 0 up).safePoint (.stkReg 0) = true) ∧
    (groupExists .schCard = true ∧ up.safeAtGo .schCard = true ∧ groupFlaw up .schCard = none) := by decide

theorem pending_inv : (put F.stkRegStatus_pending 1 0 0 0 up).Inv ∧ (put F.stkReg_rate 5 0 3 0 up).Inv := by
  constructor <;> constructor <;> decide

theorem test_hyp_DoorbellAcceptedOrOverrun :
    up.opens ⟨.clrSqDb, 255, 3, 0⟩ = true ∧ up.fld F.clrSqCfg_depthLog2 255 3 ≤ 12 ∧
    (put F.clrSqCfg_depthLog2 12 255 3 0 up).fld F.clrSqCfg_depthLog2 255 3 ≤ 12 := by decide

/-- A queue with a BRANCH that skips, and one with a running chain. -/
theorem test_hyp_AbortAndResume :
    up.opens ⟨.clrSqCtrl, 0, 0, 0⟩ = true ∧ (up.ctxsAt 0).step = none ∧ up.flag F.clrCqCfg_en 0 = false ∧
    (let s : State := { flying [pk 4 4 []] with que := [(0, { skip := some ⟨4, 2, 0⟩ })] }
     (s.queAt (qKey 0 0)).skip = some ⟨4, 2, 0⟩ ∧ s.pkt 0 4 = some (pk 4 4 [])) ∧
    (let s : State := { flying [pk 4 5 []] with que := [(0, { chain := [⟨0, 4, 0, 4, [0]⟩] })] }
     (s.queAt (qKey 0 0)).chain = [⟨0, 4, 0, 4, [0]⟩] ∧ ((s.queAt (qKey 0 0)).chain.map Frame.call).Nodup ∧
       s.pkt 0 4 = some (pk 4 5 []) ∧ (s.queAt (qKey 0 0)).laterSkip = none) ∧
    (let p := pk 4 5 [0, 0, 0x1000, 4]
     let s := flying [p]
     s.pkt 0 4 = some p ∧ p.q = 0 ∧ p.st = .issued ∧ (s.queAt (qKey 0 0)).chain = [] ∧ (s.queAt (qKey 0 0)).skip = none) := by decide

theorem test_hyp_EventCounterAndCompletionRing :
    (let p : Pkt := { pk 1 0x83 [0, 0, 0, 3, 7, 2] with st := .waiting }
     (flying [p]).opens ⟨.clrEvent, 0, 3, 0⟩ = true ∧ (flying [p]).pkt 0 1 = some p ∧ p.f 3 4 0 = 3 ∧ p.w 4 ≤ 7) ∧
    up.opens ⟨.clrCqCfg, 0, 0, 0⟩ = true ∧ up.flag F.clrCqCfg_en 0 = false := by decide

theorem test_hyp_PacketCompletionPosts :
    (let p : Pkt := { pk 1 0 [0x8000] with st := .done }
     let s := put F.clrCqCfg_en 1 0 0 0 (flying [p])
     s.callerUp 0 = true ∧ s.pkt 0 1 = some p ∧ (∀ y ∈ (s.ctxsAt 0).pkts, y.parent ≠ some 1) ∧ p.complete = true ∧
     s.flag F.clrCqCfg_en 0 = true ∧ s.fld F.clrCqCfg_depthLog2 0 ≤ 14) ∧
    (let p : Pkt := { pk 1 0 [] with st := .done, status := 0x22 }
     let s := put F.clrSqCfg_stopOnErr 1 0 0 0 (flying [p])
     s.pkt 0 1 = some p ∧ p.inStep = false ∧ p.status ≠ 0 ∧ s.flag F.clrSqCfg_stopOnErr 0 p.q = true ∧
     s.flag F.clrCqCfg_en 0 = false) ∧
    (let p : Pkt := { pk 1 0 [] with st := .done }
     p.inStep = false ∧ p.status = 0 ∧ p.complete = false) := by decide
/-- Equality of answers of operations, decided. -/
def exceptEq {α : Type} (d : DecidableEq α) : DecidableEq (Except Stop α)
  | .ok a, .ok b => if h : a = b then isTrue (by rw [h]) else isFalse (fun h' => h (Except.ok.inj h'))
  | .error a, .error b => if h : a = b then isTrue (by rw [h]) else isFalse (fun h' => h (Except.error.inj h'))
  | .ok _, .error _ => isFalse nofun
  | .error _, .ok _ => isFalse nofun

/-- An equality from a decision of it. -/
theorem kernelEq {α : Type} (d : DecidableEq α) {a b : α} (h : @decide _ (d a b) = true) : a = b :=
  @of_decide_eq_true _ (d a b) h

theorem mapped_next : mapped.nextInRing 0 0 (List.replicate 8 0) :=
  ⟨by decide, by decide, by decide, by decide, by decide, by decide, ⟨{ grans := [(1024, false), (0x1000400, false), (0x1000000, false)] },
    kernelEq (@instDecidableEqProd _ _ (@instDecidableEqProd _ _ (exceptEq inferInstance) inferInstance) inferInstance)
      (by decide +kernel), by decide +kernel⟩⟩

/-- A NOP; a packet whose SEQ slips; one of an undefined opcode; one that its predicate does not select. -/
theorem test_hyp_FetchTakesSkipsOrRefuses :
    ((mapped.ctxsAt 0).step = none ∧ (mapped.ctxsAt 0).enc.stopped = false ∧ (mapped.queAt (qKey 0 0)).skip = none ∧
      (mapped.queAt (qKey 0 0)).failAs = none ∧ mapped.err.dieFault = false ∧ mapped.fld F.clrSqCfg_depthLog2 0 0 ≤ 12 ∧
      mapped.fld F.clrCqCfg_depthLog2 0 ≤ 14 ∧ mapped.fenced 0 (mapped.fresh1 0 0 .ring (List.replicate 8 0)) = false ∧
      mapped.unsettled 0 (mapped.fresh1 0 0 .ring (List.replicate 8 0)) (substReads (List.replicate 8 0)) [] = false) ∧
    (let p := mapped.fresh1 0 0 .ring (List.replicate 8 0)
     mapped.firstRows 0 .ring (List.replicate 8 0) p = none ∧ mapped.selects 0 p = true ∧ p.op = 0) ∧
    (let raw := [0x500000000, 0, 0, 0, 0, 0, 0, 0]
     mapped.firstRows 0 .ring raw (mapped.fresh1 0 0 .ring raw) = some (stBadParam, wordDetail 0 32)) ∧
    (let raw := [0xFF, 0, 0, 0, 0, 0, 0, 0]
     mapped.firstRows 0 .ring raw (mapped.fresh1 0 0 .ring raw) = some (stBadOpcode, 0)) ∧
    (let raw := [0x1000, 0, 0, 0, 0, 0, 0, 0]
     mapped.firstRows 0 .ring raw (mapped.fresh1 0 0 .ring raw) = none ∧ mapped.selects 0 (mapped.fresh1 0 0 .ring raw) = false) := by
  decide

/-- A packet in flight in context 0 is issued. -/
theorem issued_flying : (flying [pk 1 0 []]).issued 0 1 0x00 (pk 1 0 []) := by unfold State.issued; decide

theorem test_hyp_ScalarAndPredicatePackets :
    (flying [pk 1 1 [0, 0, 5, 9]]).issued 0 1 0x01 (pk 1 1 [0, 0, 5, 9]) ∧
    (let p := pk 1 2 [0, 0, 5 + 2 ^ 24, 9]
     (flying [p]).issued 0 1 0x02 p ∧ p.srcA < 2 ^ 64 ∧ p.srcB < 2 ^ 64) ∧
    (let p := pk 1 3 [0, 0, 5 + 2 ^ 24, 9]
     (flying [p]).issued 0 1 0x03 p ∧ p.srcA < 2 ^ 64 ∧ p.srcB < 2 ^ 64) := by
  unfold State.issued; decide

/-- A BRANCH on the ring forward and backward, a BRANCH in a chain, a RETURN of a chain. -/
theorem test_hyp_BranchCallReturn :
    (flying [pk 1 4 [0, 0, 3]]).issued 0 1 0x04 (pk 1 4 [0, 0, 3]) ∧
    (let p : Pkt := { pk 1 6 [] with parent := some 2 }
     let s : State := { flying [pk 2 5 [], p] with que := [(0, { chain := [⟨0, 8, 1, 2, [0, 1]⟩] })] }
     s.issued 0 1 0x06 p ∧ (s.queAt (qKey 0 p.q)).chain = [⟨0, 8, 1, 2, [0, 1]⟩] ∧ s.pkt 0 2 = some (pk 2 5 [])) ∧
    (flying [pk 1 5 [0, 0, 0x1000, 4]]).issued 0 1 0x05 (pk 1 5 [0, 0, 0x1000, 4]) ∧
    (flying [pk 1 6 []]).issued 0 1 0x06 (pk 1 6 []) ∧ ((flying [pk 1 4 [0, 0, 3]]).queAt (qKey 0 0)).chain = [] ∧
    (let f : Frame := ⟨0, 8, 1, 2, [0, 1, 2, 3]⟩
     let p : Pkt := { pk 1 4 [0, 0, 2] with parent := some 2, chainOff := 0 }
     let s : State := { flying [pk 2 5 [], p] with que := [(0, { chain := [f] })] }
     s.issued 0 1 0x04 p ∧ (s.queAt (qKey 0 p.q)).chain = [f] ∧ f.pos < f.len ∧ (p.chainOff + signed 32 (p.w 2)).toNat ∈ f.starts ∧
     f.call ≠ 1) := by
  unfold State.issued; decide

/-- A register whose name no entry of the file carries holds its reset value. -/
theorem get_reset (l : Bank) (r : Reg) (hb : ∀ e ∈ l, e.1.name ≠ r.name) : Bank.get l r = r.reset := by
  unfold Bank.get
  induction l with
  | nil => rfl
  | cons e l ih =>
    have : e.1 ≠ r := fun h' => hb e (List.mem_cons_self ..) (h' ▸ rfl)
    simp only [Map.get, if_neg this]
    exact ih fun x hx => hb x (List.mem_cons_of_mem _ hx)

/-- A state without an error in memory. -/
theorem sound_of (s : State) (hc : s.chk = []) (hl : s.tier.lost = []) (hm : s.merges = []) (hb : ∀ e ∈ s.bank,
    e.1.name ∉ [.stkChState, .dtChState, .stkFlipCtrl, .dtFlipCtrl]) : s.Sound := by
  have get (r : Reg) (h : r.name ∈ [.stkChState, .dtChState, .stkFlipCtrl, .dtFlipCtrl]) : Bank.get s.bank r = r.reset :=
    get_reset _ r fun e he h' => hb e he (h' ▸ h)
  have zero (f : Fld) (i j : Nat) (hn : f.reg ∈ [.stkChState, .dtChState, .stkFlipCtrl, .dtFlipCtrl])
      (hz : bits (BitVec.ofNat 64 f.reg.spec.reset).toNat f.hi f.lo = 0) : s.fld f i j = 0 := by
    unfold State.fld State.reg
    rw [get _ hn, ← hz]
    simp only [List.mem_cons, List.not_mem_nil, or_false] at hn
    obtain h | h | h | h := hn <;> simp only [Reg.reset, Fld.at, h]
  refine ⟨hc, hl, ?_, ?_, by simp [hm], by simp [hm]⟩ <;> intro t c <;> unfold State.ch <;> split
  · exact zero F.stkChState_state t c (by decide) (by decide)
  · exact zero F.dtChState_state c 0 (by decide) (by decide)
  · exact zero F.stkFlipCtrl_arm t c (by decide) (by decide)
  · exact zero F.dtFlipCtrl_arm c 0 (by decide) (by decide)

theorem mapped_sound (ps : List Pkt) : (mflying ps).Sound := sound_of _ rfl rfl rfl (by show ∀ e ∈ mapped.bank, _; decide)

theorem mapped_calm (ps : List Pkt) : (mflying ps).Calm 0 :=
  ⟨mapped_sound ps, rfl, by show inTiers (mapped.inForce F.schPartRoot_addr (mapped.partOf 0) * 2 ^ 16) = true; decide +kernel,
    .inr (by show ∀ x, x < 80 → mapped.bindsSet 0 x = false; decide +kernel)⟩

theorem test_hyp_MemoryReadsWhatWasWritten : up.Sound := sound_of _ rfl rfl rfl (by decide)

/-- An operation answers a value. -/
def gives {s : State} {α : Type} [DecidableEq α] (m : A s α) (v : α) : Bool :=
  match (s.runs m).1 with
  | .ok x => x == v
  | .error _ => false

theorem runs_of {s : State} {α : Type} [DecidableEq α] {m : A s α} {v : α} (h : gives m v = true) : (s.runs m).1 = .ok v := by
  unfold gives at h
  split at h
  · next e => rw [e, eq_of_beq h]
  · cases h

/-- What a storable word needs, but for memory without errors and its translation. -/
theorem storable_of {s : State} {c : Nat} {p : Pkt} {va a v : Nat} (hs : s.Calm c) (ht : gives (tr (s.acc c) va true : A s Nat) a = true)
    (h : (va % 8 == 0 && decide (va < 2 ^ 52) && !s.refusesWrite a && regionOf a != .companion && !p.exhausted &&
      s.pays p (s.partOf c) (s.runs (wrAll (s.acc c) [{ va := va, bs := toBytes 8 v }])).2.1) = true) : s.storable c p va a v := by
  simp only [Bool.and_eq_true, Bool.not_eq_true', beq_iff_eq, decide_eq_true_eq, bne_iff_ne] at h
  obtain ⟨⟨⟨⟨⟨h1, h2⟩, h3⟩, h5⟩, h6⟩, h7⟩ := h
  exact ⟨hs, h1, h2, runs_of ht, h3, fun e => absurd e h5, h6, h7⟩

theorem test_hyp_ScalarLoadsAndStores :
    (let p := pk 1 7 [0, 0, 5, 0x100]
     (mflying [p]).issued 0 1 7 p ∧ ((mflying [p]).runs (rdWord ((mflying [p]).acc 0) (p.w 3))).1 = .ok 0 ∧
     (mflying [p]).affords 0 p (rdWord ((mflying [p]).acc 0) (p.w 3))) ∧
    (let p := pk 1 8 [0, 0, 2 ^ 24, 0x100, 77]
     (mflying [p]).issued 0 1 8 p ∧ (mflying [p]).storable 0 p (p.w 3) 0x100 p.srcA) ∧
    (let p := pk 1 0xB [0, 0, 0x100, 77]
     (mflying [p]).issued 0 1 0xB p ∧ p.w 2 ≠ 0 ∧ (mflying [p]).storable 0 p (p.w 2) 0x100 (p.w 3)) ∧
    (let p := pk 1 0xB [0, 0, 0, 0, 1]
     let s := put F.thmVecMask_mask 0 0 0 0 (put F.thmLinkStatus_state 2 0 0 0 (mflying [p]))
     s.issued 0 1 0xB p ∧ p.w 2 = 0 ∧ p.exhausted = false ∧ p.b 4 0 = true ∧
     s.vecMasked (s.fld F.clrCtxCfg_vector 0) = false ∧ s.linkActive = true) ∧
    (let p := pk 1 0x84 [0, 0, 5, 0]
     (mflying [p]).issued 0 1 0x84 p ∧ p.w 3 = 0 ∧ (mflying [p]).logged 0 p = none ∧ p.exhausted = false) ∧
    (let p := pk 1 0x84 [0, 0, 5, 0x100]
     (mflying [p]).issued 0 1 0x84 p ∧ p.w 3 ≠ 0 ∧ (mflying [p]).storable 0 p (p.w 3) 0x100 p.at_ ∧ (mflying [p]).logged 0 p = none) := by
  refine ⟨⟨?_, runs_of (by decide +kernel), ?_, ?_⟩, ⟨?_, storable_of (mapped_calm _) (by decide +kernel) (by decide +kernel)⟩,
    ⟨?_, by decide, storable_of (mapped_calm _) (by decide +kernel) (by decide +kernel)⟩, ?_, ?_,
    ⟨?_, by decide, storable_of (mapped_calm _) (by decide +kernel) (by decide +kernel), by decide⟩⟩
  all_goals (try unfold State.issued); decide +kernel

/-- A waiting WAIT_VALUE: satisfied, in a context that is not loaded, past its timeout. -/
theorem test_hyp_WaitValueComparesAndEnds :
    (let p := pk 1 0xA [0, 0, 0x100, 0, 0]
     let s := mflying [p]
     s.issued 0 1 0xA p ∧ s.logged 0 p = none ∧ p.inStep = false ∧ (s.runs (rdWord (s.acc 0) (p.w 2))).1 = .ok 0 ∧
     s.affords 0 p (rdWord (s.acc 0) (p.w 2))) ∧
    (let p : Pkt := { pk 1 0xA [0, 0, 0x100, 0, 2 ^ 32] with st := .waiting }
     let s := mflying [p]
     (s.loaded 0 = true ∧ s.callerUp 0 = true ∧ s.pkt 0 1 = some p ∧ p.op = 0xA ∧ p.st = .waiting ∧ p.w 3 = 0) ∧
     (s.logged 0 p = none ∧ p.inStep = false ∧ (s.runs (rdWord (s.acc 0) (p.w 2))).1 = .ok 0 ∧
       s.affords 0 p (rdWord (s.acc 0) (p.w 2))) ∧
     (let t : State := { s with now := 1 }
      p.f 4 63 32 ≠ 0 ∧ p.at_ + p.f 4 63 32 ≤ t.now ∧ t.pkt 0 1 = some p ∧ t.logged 0 p = none ∧
        (t.runs (rdWord (t.acc 0) (p.w 2))).1 = .ok 0 ∧ t.affords 0 p (rdWord (t.acc 0) (p.w 2)))) ∧
    (let p : Pkt := { pk 1 0xA [0, 0, 0x100, 0, 0] with st := .waiting }
     let s := put F.schCtxState_state 1 0 0 0 (mflying [p])
     (s.ctxState 0 = 1 ∧ s.callerUp 0 = true ∧ s.pkt 0 1 = some p) ∧ (s.runs (rdWord (s.acc 0) (p.w 2))).1 = .ok 0) ∧
    (let p : Pkt := { pk 1 0xA [0, 0, 0x100, 0, 2 ^ 32] with st := .waiting }
     let s : State := put F.schCtxState_state 1 0 0 0 { mflying [p] with now := 1 }
     s.ctxState 0 = 1 ∧ s.callerUp 0 = true ∧ s.pkt 0 1 = some p ∧ p.f 4 63 32 ≠ 0 ∧ p.at_ + p.f 4 63 32 ≤ s.now) := by
  refine ⟨⟨?_, ?_, ?_, runs_of (by decide +kernel), ?_, ?_⟩, ⟨?_, ⟨?_, ?_, runs_of (by decide +kernel), ?_⟩, ?_, ?_, ?_, ?_,
    runs_of (by decide +kernel), ?_⟩, ⟨?_, runs_of (by decide +kernel)⟩, ?_⟩
  all_goals (try unfold State.issued); (try unfold State.affords); decide +kernel

theorem test_hyp_EventsFencesAndSignals :
    (let p := pk 1 0x83 [0, 0, 0, 3, 1, 2]
     (mflying [p]).issued 0 1 0x83 p ∧ (mflying [p]).logged 0 p = none) ∧
    (let p : Pkt := { pk 1 0x83 [0, 0, 0, 3, 1, 2 + 2 ^ 32] with st := .waiting }
     let s : State := { mflying [p] with now := 1 }
     s.loaded 0 = true ∧ s.callerUp 0 = true ∧ s.pkt 0 1 = some p ∧ p.f 5 63 32 ≠ 0 ∧ p.at_ + p.f 5 63 32 ≤ s.now) ∧
    (let p := pk 1 0x80 [0, 0, 1]
     (mflying [p]).issued 0 1 0x80 p ∧ ((drained 0 p : M (mflying [p]) _) ⟨mflying [p], Reach.refl _⟩).1 = true) ∧
    (let p := pk 2 0x80 [0, 0, 1]
     let s := mflying [pk 1 8 [0, 0, 0, 0x100], p]
     s.issued 0 2 0x80 p ∧ ((drained 0 p : M s _) ⟨s, Reach.refl _⟩).1 = false) ∧
    (let p := pk 1 0x82 [0, 0, 1, 3, 5]
     (mflying [p]).issued 0 1 0x82 p ∧ ((drained 0 p : M (mflying [p]) _) ⟨mflying [p], Reach.refl _⟩).1 = true) := by
  unfold State.issued; decide +kernel

/-- A state and a packet 1 of context 0 meet what PacketRuns asks of an opcode's operation. -/
def meets (s : State) (p : Pkt) (op : Nat) (body : {s0 : State} → Nat → Pkt → Acc → A s0 Fin) : Bool :=
  decide (s.loaded 0 = true ∧ s.callerUp 0 = true ∧ s.pkt 0 1 = some p ∧ p.op = op ∧ p.st = .issued ∧ p.exhausted = false ∧
      s.partsStop 0 p = false ∧ (engineClass op = 0 ∨ s.engineTurn 0 1 op = true)) && (match (s.runs (body 0 p (s.acc 0))).1 with
      | .ok f => !f.wait
      | .error _ => false) &&
    s.pays p (s.partOf 0) (s.runs (body 0 p (s.acc 0))).2.1

theorem meets_spec {s : State} {p : Pkt} {op : Nat} {body : {s0 : State} → Nat → Pkt → Acc → A s0 Fin}
    (h : meets s p op body = true) : s.issued 0 1 op p ∧ s.affords 0 p (body 0 p (s.acc 0)) ∧
    s.servedNow 0 1 op ∧ ∃ f, (s.runs (body 0 p (s.acc 0))).1 = .ok f ∧ f.wait = false := by
  simp only [meets, Bool.and_eq_true, decide_eq_true_eq] at h
  obtain ⟨⟨⟨h1, h2, h3, h4, h5, h6, h9, h10⟩, h7⟩, h8⟩ := h
  refine ⟨⟨h1, h2, h3, h4, h5, h9⟩, ⟨h6, h8⟩, h10, ?_⟩
  split at h7
  · next f e => exact ⟨f, e, by simpa using h7⟩
  · cases h7

/-- A packet whose tensors have no element. -/
def hollow (op : Nat) (ws : List Nat) : Pkt :=
  { pk 1 op ws with descs := [2, 3, 4, 5, 30, 31].map fun i => (i, [4 * 2 ^ 56]) }

/-- The units of stack 0 are out of service: their shares run on cores. -/
def coresOnly (s : State) : State := put F.galUnitState_service 1 0 0 0 s

/-- A NEAR_RAW that loads 64 bytes into the operand buffer, without a second command. -/
def rawLoad : Pkt := pk 1 0x4F [0, 0, 0, 0, 0, 0, 0, 0, 0, 1, 0, 0x1000, 0, 2 ^ 63, 0, 64]

theorem test_hyp_PacketOperationsEndWaitOrStall_scalar_and_dense :
    meets (mflying [pk 1 7 []]) (pk 1 7 []) 7 (fun c => loadScalarBody c) ∧
    meets (mflying [pk 1 8 []]) (pk 1 8 []) 8 (fun _ => storeScalarBody) ∧
    meets (mflying [pk 1 0xB []]) (pk 1 0xB []) 0xB (fun c => signalBody c) ∧
    meets (mflying [pk 1 0x84 []]) (pk 1 0x84 []) 0x84 (fun c => timestampBody c) ∧
    meets (mflying [pk 1 9 []]) (pk 1 9 []) 9 (fun c => reduceBody c) ∧
    meets (mflying [pk 1 0x10 []]) (pk 1 0x10 []) 0x10 (fun _ => matmulBody) ∧
    meets (mflying [pk 1 0x11 []]) (pk 1 0x11 []) 0x11 (fun _ => matmulBody) ∧
    meets (mflying [pk 1 0x12 []]) (pk 1 0x12 []) 0x12 (fun _ => adapterBody) ∧
    meets (mflying [pk 1 0x13 []]) (pk 1 0x13 []) 0x13 (fun _ => mlpBody) ∧
    meets (mflying [pk 1 0x18 []]) (pk 1 0x18 []) 0x18 (fun _ => eltwiseBody) ∧
    meets (mflying [pk 1 0x19 []]) (pk 1 0x19 []) 0x19 (fun _ => normBody) ∧
    meets (mflying [pk 1 0x1A []]) (pk 1 0x1A []) 0x1A (fun _ => softmaxBody) ∧
    meets (mflying [pk 1 0x1B []]) (pk 1 0x1B []) 0x1B (fun _ => quantiseBody) ∧
    meets (mflying [pk 1 0x1C []]) (pk 1 0x1C []) 0x1C (fun _ => rotaryBody) ∧
    meets (mflying [pk 1 0x20 []]) (pk 1 0x20 []) 0x20 (fun _ => moeRouteBody) := by decide +kernel

theorem test_hyp_PacketOperationsEndWaitOrStall_movement :
    meets (mflying [pk 1 0x30 []]) (pk 1 0x30 []) 0x30 (fun _ => copyBody) ∧
    meets (mflying [pk 1 0x31 []]) (pk 1 0x31 []) 0x31 (fun _ => copyTBody) ∧
    meets (mflying [pk 1 0x32 []]) (pk 1 0x32 []) 0x32 (fun _ => gatherBody) ∧
    meets (mflying [pk 1 0x33 []]) (pk 1 0x33 []) 0x33 (fun _ => scatterBody) ∧
    meets (mflying [pk 1 0x34 []]) (pk 1 0x34 []) 0x34 (fun _ => fillBody) ∧
    meets (mflying [hollow 0x35 []]) (hollow 0x35 []) 0x35 (fun _ => copyBody) ∧
    meets (mflying [hollow 0x40 []]) (hollow 0x40 []) 0x40 (fun _ => nearMatvecBody) ∧
    meets (mflying [hollow 0x41 []]) (hollow 0x41 []) 0x41 (fun _ => nearExpertBody) ∧
    meets (mflying [hollow 0x42 []]) (hollow 0x42 []) 0x42 (fun _ => nearEltBody) ∧
    meets (mflying [hollow 0x43 []]) (hollow 0x43 []) 0x43 (fun _ => nearCopyBody) ∧
    meets (coresOnly (mflying [rawLoad])) rawLoad 0x4F (fun _ => nearRawBody) := by decide +kernel

theorem test_hyp_PacketOperationsEndWaitOrStall_kv_and_serving :
    meets (mflying [pk 1 0x50 []]) (pk 1 0x50 []) 0x50 (fun _ => kvAppendBody) ∧
    meets (mflying [pk 1 0x51 []]) (pk 1 0x51 []) 0x51 (fun _ => attendBody) ∧
    meets (mflying [pk 1 0x52 []]) (pk 1 0x52 []) 0x52 (fun _ => kvReleaseBody) ∧
    meets (mflying [pk 1 0x53 []]) (pk 1 0x53 []) 0x53 (fun _ => prefixLookupBody) ∧
    meets (mflying [pk 1 0x54 []]) (pk 1 0x54 []) 0x54 (fun _ => prefixInsertBody) ∧
    meets (mflying [pk 1 0x55 []]) (pk 1 0x55 []) 0x55 (fun _ => kvMoveBody) ∧
    meets (mflying [pk 1 0x60 []]) (pk 1 0x60 []) 0x60 (fun c => stepBeginBody c) ∧
    meets (mflying [pk 1 0x66 [0, 0, 0, 0, 256]]) (pk 1 0x66 [0, 0, 0, 0, 256]) 0x66 (fun _ => adapterBindBody) := by
  decide +kernel

/-- A step without rows. -/
def openStep : Machine.Step :=
  { stepId := 0, attnMax := 0, expertMax := 0, batch := 0, flags := 0, rows := [], idle := [], first := 0 }

/-- A context whose step is open, with a SAMPLE in flight. -/
def samplingCtx : Ctx := { nextId := 9, pkts := [pk 1 0x65 []], step := some openStep }

theorem test_hyp_PacketOperationsEndWaitOrStall_sample :
    meets { mapped with ctxs := [(0, samplingCtx)] } (pk 1 0x65 []) 0x65 (fun c => sampleBody c) := by decide +kernel

/-! Operations whose accesses meet no fault -/

/-- The words of a descriptor: a dense view. -/
def view (base fmt : Nat) (sizes : List Nat) : List Nat :=
  let dims := (List.range sizes.length).map fun d => (sizes.take d).foldl (· * ·) 1 + nth sizes d * 2 ^ 40
  [base + fmt * 2 ^ 52 + sizes.length * 2 ^ 56, 0] ++ dims ++ List.replicate (6 - sizes.length) 0

/-- A packet with captured descriptors. -/
def viewed (op : Nat) (ws : List Nat) (ds : List (Nat × List Nat)) : Pkt := { pk 1 op ws with descs := ds }

/-- An operation answers a value of which a test holds. -/
def findsSome {s : State} {α : Type} (m : A s α) (good : α → Bool) : Bool :=
  match (s.runs m).1 with
  | .ok v => good v
  | .error _ => false

theorem finds_of {s : State} {α : Type} {m : A s α} {good : α → Bool} (h : findsSome m good = true) :
    ∃ v, s.finds m v ∧ good v = true := by
  unfold findsSome at h
  split at h
  · next v e => exact ⟨v, e, h⟩
  · cases h

theorem ready_of {s : State} {p : Pkt} {op : Nat} {body : {s0 : State} → Nat → Pkt → Acc → A s0 Fin} (hc : s.Calm 0)
    (h : meets s p op body = true) : s.ready 0 1 op p (body 0 p (s.acc 0)) :=
  ⟨(meets_spec h).1, hc, (meets_spec h).2.1⟩

/-- REDUCE of three elements; a copy, a turn, a gather of one row in range and one not, a scatter, a sum, a fill. -/
theorem test_hyp_ScalarLoadsAndStores_reduce :
    let p := viewed 9 [0, 0, 2 ^ 8 * 2 + 2 ^ 19] [(3, view 0x100 9 [3])]
    (mflying [p]).issued 0 1 9 p ∧ (∃ vs, (mflying [p]).finds (rdTensor ((mflying [p]).acc 0) (p.desc 3)) vs ∧ (vs.length == 3) = true) ∧
    (mflying [p]).affords 0 p (rdTensor ((mflying [p]).acc 0) (p.desc 3)) :=
  ⟨by unfold State.issued; decide +kernel, finds_of (by decide +kernel), by unfold State.affords; decide +kernel⟩

/-- What PacketMoves asks. -/
def moves (s : State) (p : Pkt) (op : Nat) (body : {s0 : State} → Pkt → Acc → A s0 Fin) (pairsOf : Desc → Desc → List (Int × Int)) : Bool :=
  meets s p op (fun _ => body) && findsSome (s := s) (plans (s.acc 0) (do
    probeAll (s.acc 0) ((pairsOf (p.desc 2) (p.desc 3)).flatMap fun (ls, ld) => moveProbes (p.desc 2) (p.desc 3) ls ld)
    rdCodes (s.acc 0) (p.desc 2) ((pairsOf (p.desc 2) (p.desc 3)).map Prod.fst)) (movedWrites (p.desc 2) (p.desc 3) (pairsOf (p.desc 2) (p.desc 3))))
    fun v => !v.2.isEmpty

theorem test_hyp_MemoryReadsWhatWasWritten_moves :
    let c (op : Nat) : Pkt := viewed op [] [(2, view 0x1000 0 [2, 1]), (3, view 0x2000 0 [2, 1])]
    let t : Pkt := viewed 0x31 [] [(2, view 0x1000 0 [2, 1]), (3, view 0x2000 0 [1, 2])]
    moves (mflying [c 0x30]) (c 0x30) 0x30 copyBody copyPairs ∧ moves (mflying [t]) t 0x31 copyTBody turnPairs ∧
    moves (mflying [c 0x35]) (c 0x35) 0x35 copyBody copyPairs := by decide +kernel

/-- Indexes 1 and 2 of a dimension of two rows. -/
def indexed (op w5 : Nat) : Pkt × State :=
  let p := if op = 0x32 then viewed op [0, 0, 0, 0, 0, w5] [(2, view 0x1000 0 [1, 2]), (3, view 0x3000 9 [2]), (4, view 0x2000 0 [1, 2])]
    else viewed op [0, 0, 0, 0, 0, w5] [(2, view 0x1000 0 [1, 2]), (3, view 0x3000 9 [2]), (4, view 0x2000 0 [1, 2])]
  (p, { mflying [p] with mem := [(0x3000, 1), (0x3004, 2)] ++ mapped.mem })

theorem indexed_calm (op w5 : Nat) : (indexed op w5).2.Calm 0 :=
  let h := mapped_calm [(indexed op w5).1]
  ⟨⟨h.sound.code, h.sound.lost, h.sound.good, h.sound.calm, h.sound.entries, h.sound.once⟩, h.untracked, h.tables, h.buffers⟩

theorem test_hyp_MemoryReadsWhatWasWritten_indexed :
    (let x := indexed 0x32 (2 ^ 11 + 3 * 2 ^ 8)
     meets x.2 x.1 0x32 (fun _ => gatherBody) ∧ findsSome (s := x.2) (plans (x.2.acc 0) (gatherReads x.1 (x.2.acc 0)) (gatherWrites x.1))
       fun v => outOf v.1.1 == [1] && v.2.length == 2) ∧
    (∀ w5 ∈ [2 ^ 11, 16, 64], let x := indexed 0x33 w5
     meets x.2 x.1 0x33 (fun _ => scatterBody) ∧ findsSome (s := x.2) (plans (x.2.acc 0) (scatterReads x.1 (x.2.acc 0)) Prod.snd)
       fun v => outOf v.1.1 == [1] && v.2.length == 1) ∧
    (let p := viewed 0x34 [0, 0, 0, 7] [(2, view 0x2000 0 [2])]
     meets (mflying [p]) p 0x34 (fun _ => fillBody) ∧ findsSome (s := mflying [p]) (plans ((mflying [p]).acc 0)
       (probeAll ((mflying [p]).acc 0) (fillProbes (p.desc 2))) fun _ => fillWrites (p.desc 2) (p.w 3)) fun v => v.2.length == 2) := by
  decide +kernel

/-- What PacketPuts asks. -/
def puts {α : Type} (p : Pkt) (op : Nat) (body : {s0 : State} → Pkt → Acc → A s0 Fin) (dst : Nat)
    (reads : {s0 : State} → Pkt → Acc → A s0 α) (rows : Pkt → α → Option (List (List Nat × List Machine.Num))) : Bool :=
  let s := mflying [p]
  meets s p op (fun _ => body) && findsSome (s := s) (plans (s.acc 0) (reads p (s.acc 0)) fun x => rowWrites (p.desc dst) ((rows p x).getD []))
    fun v => (rows p v.1).isSome && !v.2.isEmpty

theorem test_hyp_PacketOperationsEndWaitOrStall_products :
    (let p := viewed 0x10 [] [(2, view 0x1000 1 [2, 1]), (3, view 0x2000 1 [2, 2]), (4, view 0x3000 0 [2, 1])]
     puts p 0x10 matmulBody 4 matmulReads matmulOut) ∧
    (let p := viewed 0x11 [] [(2, view 0x1000 1 [2, 1, 2]), (3, view 0x2000 1 [2, 2, 2]), (4, view 0x3000 0 [2, 1, 2])]
     puts p 0x11 matmulBody 4 matmulReads matmulOut) ∧
    (let p := viewed 0x13 [] [(2, view 0x1000 1 [2, 1]), (3, view 0x2000 1 [2, 4]), (4, view 0x2100 1 [2, 2]), (5, view 0x3000 0 [2, 1])]
     puts p 0x13 mlpBody 5 mlpReads mlpOut) := by decide +kernel

theorem test_hyp_PacketOperationsEndWaitOrStall_rows :
    (let p := viewed 0x18 [] [(2, view 0x1000 0 [2, 1]), (3, view 0x2000 0 [2, 1]), (4, view 0x3000 0 [2, 1])]
     puts p 0x18 eltwiseBody 4 (fun p => rowReads (p.desc 4) p.eltIns) eltOut) ∧
    (let p := viewed 0x19 [0, 0, 0, 0, 0, 0x35800000 * 2 ^ 32] [(2, view 0x1000 0 [2, 1]), (3, view 0x2000 0 [2]), (4, view 0x3000 0 [2, 1])]
     puts p 0x19 normBody 4 normReads normOut) ∧
    (let p := viewed 0x1A [] [(2, view 0x1000 0 [2, 1]), (3, view 0x3000 0 [2, 1])]
     puts p 0x1A softmaxBody 3 (fun p => rowReads (p.desc 3) [p.desc 2]) softmaxOut) ∧
    (let p := viewed 0x1A [0, 0, 0, 0, 0x400] [(2, view 0x1000 0 [2, 1]), (3, view 0x3000 0 [2, 1])]
     p.f 4 31 0 ≠ 0 ∧ meets (mflying [p]) p 0x1A (fun _ => softmaxBody)) ∧
    (let p := viewed 0x1B [] [(2, view 0x1000 0 [2, 1]), (3, view 0x3000 1 [2, 1])]
     puts p 0x1B quantiseBody 3 (fun p => rowReads (p.desc 3) [p.desc 2]) quantiseOut) ∧
    (let p := viewed 0x1C [] [(2, view 0x1000 0 [2, 1]), (3, view 0x2000 9 [1]), (4, view 0x3000 0 [2, 1, 1])]
     puts p 0x1C rotaryBody 2 rotaryReads rotaryOut) ∧
    (let p := viewed 0x20 [0, 0, 0, 0, 0, 1] [(2, view 0x1000 0 [1, 1]), (3, view 0x2000 9 [1, 1]), (4, view 0x3000 0 [1, 1])]
     meets (mflying [p]) p 0x20 (fun _ => moeRouteBody) ∧ (p.desc 3).apart [p.desc 2, p.desc 4] ∧ (p.desc 4).apart [p.desc 2, p.desc 3]) := by
  decide +kernel

/-- Every unit of a list is in Near mode and free, or out of service. -/
def allReady (s : State) (m : Nat) (us : List Nat) : Bool :=
  us.all fun u => !s.notNear u && !s.unitTaken (s.fld F.schCtxState_caller 0) m u

/-- A view of one element in a page of stack 0, and another. -/
def oneElement (op : Nat) : Pkt := viewed op [] [(2, view 0x1000 0 [1, 1]), (3, view 0x2000 0 [1, 1])]

theorem cores_calm (p : Pkt) (h : p = oneElement 0x42 ∨ p = oneElement 0x43 ∨ p = rawLoad) : (coresOnly (mflying [p])).Calm 0 := by
  obtain h | h | h := h <;> subst h <;>
    exact ⟨sound_of _ rfl rfl rfl (by decide), rfl, by decide +kernel, .inr (by decide +kernel)⟩

/-- NEAR packets: products without shares, an element and a copy whose unit is out of service, a raw load. -/
theorem test_hyp_UnitOperationsRunOrFail_packets :
    (let p := hollow 0x40 []
     let s := mflying [p]
     findsSome (s := s) (plans (s.acc 0) (matvecWork p (s.acc 0)) fun v =>
       rowWrites (p.desc 4) (groupRows ((p.desc 2).size 1) ((p.desc 3).size 1) v.2)) fun v => allReady s 2 (v.1.1.map Prod.snd)) ∧
    (let p := hollow 0x41 []
     let s := mflying [p]
     findsSome (s := s) (plans (s.acc 0) (expertWork p (s.acc 0)) fun v =>
       rowWrites (p.desc 4) (groupRows ((p.desc 2).size 1) ((p.desc 31).size 1) v.2)) fun v => allReady s 2 v.1.1) ∧
    (let p := oneElement 0x42
     let s := coresOnly (mflying [p])
     meets s p 0x42 (fun _ => nearEltBody) ∧ findsSome (s := s) (eltWork p (s.acc 0)) fun us => allReady s 1 us && !us.isEmpty) ∧
    (let p := oneElement 0x43
     let s := coresOnly (mflying [p])
     meets s p 0x43 (fun _ => nearCopyBody) ∧
       findsSome (s := s) (nearCopyWork p (s.acc 0)) fun us => allReady s 1 us && !us.isEmpty) ∧
    (let s := coresOnly (mflying [rawLoad])
     findsSome (s := s) (rawWork rawLoad (s.acc 0)) fun x => x == (none, none) && allReady s 2 [s.rawHome rawLoad]) := by
  decide +kernel

/-- Packets of no sequence and of no page; one expert on cores. -/
theorem test_hyp_SnapshotsAndPrefixKeys_packets :
    (let p := pk 1 0x50 []
     let s := mflying [p]
     findsSome (s := s) (appendWork p (s.acc 0)) fun x => x.2.isEmpty && allReady s 4 x.1) ∧
    (let p := pk 1 0x51 []
     let s := mflying [p]
     findsSome (s := s) (plans (s.acc 0) (attendWork p (s.acc 0)) fun v => attendWrites v.2.2.2) fun v =>
       v.1.2.2.1.isEmpty && allReady s 4 v.1.2.1 && v.1.2.2.2.all fun r => r.isOk) ∧
    (let p := pk 1 0x52 []
     let s := mflying [p]
     s.engineTurn 0 1 0x52 = true ∧ findsSome (s := s) (kvReleases (s.acc 0) p.kv) fun l => l.all fun y => entryShared y.2.2.2) ∧
    (let p := pk 1 0x53 []
     let s := mflying [p]
     s.engineTurn 0 1 0x53 = true ∧ s.pfxLive p (s.acc 0).part = false ∧ findsSome (s := s) (plans (s.acc 0) (lookupWork p (s.acc 0))
       fun v => resultWrites p v.1.length v.2.2 v.2.1) fun _ => true) ∧
    (let p := pk 1 0x54 []
     let s := mflying [p]
     s.engineTurn 0 1 0x54 = true ∧ s.pfxLive p (s.acc 0).part = false ∧ findsSome (s := s) (plans (s.acc 0) (insertWork p (s.acc 0))
       fun v => resultWrites p v.1.length (newPages v.2.2) v.2.1) fun _ => true) := by
  decide +kernel

/-- A MOE_DISPATCH of one row over a table of one expert, on cores. -/
def moePkt : Pkt :=
  viewed 0x21 [0, 0, 0, 0, 0, 0, 0, 0, 0, 1] [(2, view 0x1000 1 [2, 1]), (30, view 0x2000 9 [1, 1]), (31, view 0x2100 0 [1, 1]),
    (40, view 0x4000 1 [2, 2]), (41, view 0x5000 1 [1, 2]), (5, view 0x3000 0 [2, 1])]

theorem test_hyp_PacketOperationsEndWaitOrStall_moe :
    let p := moePkt
    let s := mflying [p]
    meets s p 0x21 (fun _ => moeBody) ∧ findsSome (s := s) (plans (s.acc 0) (moeReads p (s.acc 0)) fun v =>
      rowWrites (p.desc 5) (moeOut p v)) fun v => v.1.2.1.isEmpty && !v.1.2.2.1.isEmpty && !v.2.isEmpty := by
  decide +kernel

/-- The page table with a second gigabyte, in the deep tier. -/
def mappedDeep : State :=
  let s := force F.schPartWin_base (2 ^ 19) 0 1 0 (force F.schPartWin_size 512 0 1 0 (force F.schPartWin_en 1 0 1 0 mapped))
  { s with mem := s.mem ++ [(0x40010008, 15), (0x4001000D, 1)] }

/-- Adapter 0 is not bound; partition 0 may hold one, of rank 1. -/
def binding (p : Pkt) : State :=
  put F.featAdapters_value (2 ^ 16) 0 0 0 (force F.schPartQuota_adapters 1 0 0 0
    { mappedDeep with ctxs := [(0, { nextId := 9, pkts := [p] })] })

theorem test_hyp_SnapshotsAndPrefixKeys_adapter :
    (let p := pk 1 0x66 [0, 0, 0, 2 ^ 30, 1]
     let s := binding p
     meets s p 0x66 (fun _ => adapterBindBody) ∧ p.b 4 8 = false ∧ p.w 3 % 4096 = 0 ∧
       findsSome (s := s) (liesIn (s.acc 0) (p.w 3) 512 true) id ∧ 0 < p.f 4 7 0 ∧
       p.f 4 7 0 ≤ bits (s.fld F.featAdapters_value) 23 16 ∧ (s.adaptersAt 0).bound = false ∧
       s.adaptersHeld (s.acc 0).part < s.inForce F.schPartQuota_adapters (s.acc 0).part) ∧
    (let p := pk 1 0x66 [0, 0, 0, 0, 256]
     p.b 4 8 = true ∧ p.w 3 = 0 ∧ p.f 4 7 0 = 0 ∧ ((mflying [p]).adaptersAt 0).bound = false) := by decide +kernel

theorem binding_calm : (binding (pk 1 0x66 [0, 0, 0, 2 ^ 30, 1])).Calm 0 :=
  ⟨sound_of _ rfl rfl rfl (by decide), rfl, by decide +kernel, .inr (by decide +kernel)⟩

/-- A slot held by the REQ_OPEN in flight. -/
def opening : Pkt × State :=
  let p := pk 1 0x62 []
  (p, { mflying [p] with slots := [(0, { words := List.replicate 16 0 ++ [1] ++ List.replicate 7 0, opener := some (0, 1) })] })

section
variable {s : State} {α β : Type}

/-- An operation goes on with a lifted action whatever that does. -/
theorem ok_lift (m : M s α) (f : α → A s β) (l : Log) (t : { t : State // Reach s t }) (P : Except Stop β × Log → Prop)
    (h : ∀ a u, P ((f a).run.run l u).1) : P (((liftM m : A s α) >>= f).run.run l t).1 := h _ _

/-- An operation goes on from the state that it looks at. -/
theorem ok_cur (f : State → A s β) (l : Log) (t : { t : State // Reach s t }) (P : Except Stop β × Log → Prop)
    (h : P ((f t.1).run.run l t).1) : P (((liftM (cur : M s State) : A s State) >>= f).run.run l t).1 := h

/-- An operation goes on after one that ends with a value. -/
theorem ok_bind (m : A s α) (f : α → A s β) (l : Log) (t : { t : State // Reach s t }) (v : α) (l' : Log)
    (h : (m.run.run l t).1 = (.ok v, l')) (P : Except Stop β × Log → Prop) (hf : ∀ u, P ((f v).run.run l' u).1) :
    P ((m >>= f).run.run l t).1 := by
  show P ((ExceptT.bind m f).run.run l t).1
  have : ((ExceptT.bind m f).run.run l t) = ((match (m.run.run l t).1 with
    | (.ok a, l') => (f a).run.run l' (m.run.run l t).2
    | (.error e, l') => ((.error e, l'), (m.run.run l t).2))) := by
    show (ExceptT.bindCont f (m.run.run l t).1.1).run (m.run.run l t).1.2 (m.run.run l t).2 = _
    rcases h' : (m.run.run l t) with ⟨⟨x, y⟩, z⟩
    cases x <;> rfl
  rw [this, h]
  exact hf _

theorem wrAll_ok (ac : Acc) (ws : List Wr) (l : Log) (t : { t : State // Reach s t }) (ps : List Wr) (l' : Log)
    (h : ((wrPlan ac ws : A s _).run.run l t).1 = (.ok ps, l')) : ((wrAll ac ws : A s _).run.run l t).1 = (.ok (), l') :=
  ok_bind _ _ _ _ _ _ h (· = (.ok (), l')) fun _ => rfl

/-- REQ_OPEN on a slot that it holds, without a prompt to count, ends where its zeroing does. -/
theorem reqOpen_ok (c : Nat) (p : Pkt) (ac : Acc) (ps : List Wr) (l : Log) (ho : (s.slotsAt (p.f 2 12 0)).opener = some (c, p.id))
    (hn : s.slotF (p.f 2 12 0) 6 16 16 ≠ 1)
    (h : ((runA (wrPlan ac [s.zeroCounts (p.f 2 12 0)]) : M s _) ⟨s, Reach.refl s⟩).1 = (.ok ps, l)) :
    (s.runs (reqOpenBody c p ac)).1 = .ok {} ∧ (s.runs (reqOpenBody c p ac)).2.1 = l ∧ s.finds (openWork c p ac) () := by
  have hw := wrAll_ok ac [s.zeroCounts (p.f 2 12 0)] {} ⟨s, Reach.refl s⟩ ps l h
  have hb : ((reqOpenBody c p ac : A s Fin).run.run {} ⟨s, Reach.refl s⟩).1 = (.ok {}, l) := by
    unfold reqOpenBody
    unfold State.zeroCounts at hw
    generalize 16384 = N at hw ⊢
    refine ok_cur _ _ _ (· = _) ?_
    rw [if_neg (not_not_intro ho)]
    dsimp only
    refine ok_cur _ _ _ (· = _) ?_
    refine ok_bind _ _ _ _ () l hw (· = _) fun u => ?_
    refine ok_lift _ _ _ _ (· = _) fun _ u => ?_
    rw [if_neg hn]
    refine ok_lift _ _ _ _ (· = _) fun _ u => ok_lift _ _ _ _ (· = _) fun _ u => ok_cur _ _ _ (· = _) ?_
    split
    · exact ok_lift _ _ _ _ (· = _) fun _ u => ok_lift _ _ _ _ (· = _) fun _ u => rfl
    · exact ok_lift _ _ _ _ (· = _) fun _ u => rfl
  have hw' : ((openWork c p ac : A s Unit).run.run {} ⟨s, Reach.refl s⟩).1 = (.ok (), l) := by
    unfold openWork
    unfold State.zeroCounts at hw ⊢
    generalize 16384 = N at hw ⊢
    refine ok_cur _ _ _ (· = _) ?_
    rw [if_neg (not_not_intro ho)]
    dsimp only
    refine ok_cur _ _ _ (· = _) ?_
    refine ok_bind _ _ _ _ () l hw (· = _) fun u => ?_
    refine ok_lift _ _ _ _ (· = _) fun _ u => ?_
    rw [if_neg hn]
    rfl
  exact ⟨congrArg Prod.fst hb, congrArg Prod.snd hb, congrArg Prod.fst hw'⟩
end

theorem opening_calm : opening.2.Calm 0 :=
  let h := mapped_calm [opening.1]
  ⟨⟨h.sound.code, h.sound.lost, h.sound.good, h.sound.calm, h.sound.entries, h.sound.once⟩, h.untracked, h.tables, h.buffers⟩

/-- What the zeroing of the held slot's counts answers can be paid. -/
def zeroPaid : Bool :=
  let p := opening.1
  let s := opening.2
  match ((runA (wrPlan (s.acc 0) [s.zeroCounts (p.f 2 12 0)]) : M s _) ⟨s, Reach.refl s⟩).1 with
  | (.ok _, l) => s.pays p (s.partOf 0) l
  | _ => false

theorem test_hyp_RequestCloseAndCancel_open :
    let p := opening.1
    let s := opening.2
    s.ready 0 1 0x62 p (reqOpenBody 0 p (s.acc 0)) ∧ (s.runs (reqOpenBody 0 p (s.acc 0))).1 = .ok {} ∧
    s.finds (openWork 0 p (s.acc 0)) () ∧ s.servedNow 0 1 0x62 ∧
    (s.slotsAt 0).opener = some (0, 1) ∧ s.slotF 0 6 16 16 = 0 ∧ s.flag F.srvLedgerBase_en = false := by
  have hz : zeroPaid = true := by decide +kernel
  unfold zeroPaid at hz
  dsimp only at hz
  split at hz
  · next ps l h =>
    obtain ⟨h1, h2, h3⟩ := reqOpen_ok 0 opening.1 (opening.2.acc 0) ps l (by decide) (by decide) h
    refine ⟨⟨by unfold State.issued; decide, opening_calm, rfl, ?_⟩, h1, h3, .inl rfl, by decide, by decide, by decide⟩
    rw [h2]
    exact hz
  · cases hz

/-- How an operation stops. -/
def stopOf {s : State} {α : Type} (m : A s α) : Option Stop :=
  match (s.runs m).1 with
  | .ok _ => none
  | .error e => some e

/-- The page table with a second gigabyte, at companion addresses. -/
def mappedOut : State :=
  let s := force F.schPartWin_base (2 ^ 26) 0 1 0 (force F.schPartWin_size 512 0 1 0 (force F.schPartWin_en 1 0 1 0 mapped))
  { s with mem := s.mem ++ [(0x40010008, 15), (0x4001000D, 0x80)] }

/-- A packet that cannot be paid, one whose access fails while the link is down, one that faults in a RESTART partition. -/
theorem test_hyp_PacketOperationsEndWaitOrStall_stops :
    (let p := pk 1 7 [0, 0, 5, 0x100]
     let s : State := force F.stkReg_borrow 0 0 0 0 { mflying [p] with sched := { mapped.sched with buckets := [] } }
     s.loaded 0 = true ∧ s.pkt 0 1 = some p ∧ s.pays p (s.partOf 0) (s.runs (loadScalarBody 0 p (s.acc 0))).2.1 = false) ∧
    (let p := pk 1 7 [0, 0, 5, 2 ^ 30]
     let s : State := { mappedOut with ctxs := [(0, { nextId := 9, pkts := [p] })] }
     s.loaded 0 = true ∧ s.pkt 0 1 = some p ∧ s.pays p (s.partOf 0) (s.runs (loadScalarBody 0 p (s.acc 0))).2.1 = true ∧
     stopOf (s := s) (loadScalarBody 0 p (s.acc 0)) = some .internal) ∧
    (let p := pk 1 7 [0, 0, 5, 2 ^ 40]
     let s := put F.schFaultCfg_en 1 0 0 0 (force F.schPartCfg_restart 1 0 0 0 (mflying [p]))
     s.loaded 0 = true ∧ s.pkt 0 1 = some p ∧ s.pays p (s.partOf 0) (s.runs (loadScalarBody 0 p (s.acc 0))).2.1 = true ∧
     s.restarts 0 = true ∧ stopOf (s := s) (loadScalarBody 0 p (s.acc 0)) = some (.flt 0x20 (2 ^ 40) false 0)) := by
  decide +kernel

/-- Request slot 0 in a state, with STATE_FLAGS. -/
def withSlot (st flags : Nat) (s : State) : State :=
  { s with slots := [(0, { words := List.replicate 16 0 ++ [st, flags * 256] ++ List.replicate 6 0 })] }

/-- Tenant 0 is partition 0's. -/
def tenant0 (s : State) : State := put F.srvTenant_valid 1 0 0 0 s

theorem test_hyp_RequestCloseAndCancel :
    (let p := pk 1 0x63 []
     let q := pk 1 0x64 []
     (withSlot 0 0 (flying [p])).issued 0 1 0x63 p ∧ (withSlot 0 0 (flying [p])).slotOk 0 0 = true ∧
     (withSlot 2 0 (flying [p])).slotOk 0 0 = false ∧
     (∀ st ∈ [1, 2, 3, 4, 5], let s := withSlot st 0 (tenant0 (flying [p]))
       s.issued 0 1 0x63 p ∧ s.slotOk 0 (s.partOf 0) = true ∧ s.slotState 0 = st) ∧
     (∀ st ∈ [1, 2, 3, 4, 5], let s := withSlot st 0 (tenant0 (flying [q]))
       s.issued 0 1 0x64 q ∧ s.slotOk 0 (s.partOf 0) = true ∧ s.slotState 0 = st)) ∧
    up.opens ⟨.srvCancel, 0, 0, 0⟩ = true ∧ (∀ st ∈ [0, 1, 2, 3, 4, 5], (withSlot st 0 up).slotState 0 = st) := by
  unfold State.issued; decide

/-- Request slot 0 of tenant 0 uses adapter 0, an image of rank 1 at 0x8000 whose first target is present, K and N 2. -/
def adapting (p : Pkt) : State :=
  { tenant0 (mflying [p]) with
    slots := [(0, { words := List.replicate 16 0 ++ [2, 2 ^ 44] ++ List.replicate 6 0 })]
    adapters := [(0, { bound := true, image := 0x8000, part := 0, rank := 1, users := 1 })]
    mem := [(0x8001, 1), (0x8005, 0x10), (0x8007, 0x80), (0x8009, 2), (0x8010, 2), (0x8014, 2)] ++ mapped.mem }

/-- An ADAPTER of one row, of slot 0. -/
def adapterPkt : Pkt :=
  viewed 0x12 [0, 0, 0, 0, 0, 255] [(2, view 0x1000 1 [2, 1]), (4, view 0x3000 0 [2, 1]), (3, []), (100, []), (101, [2 ^ 32])]

theorem test_hyp_PacketOperationsEndWaitOrStall_adapter :
    let p := adapterPkt
    let s := adapting p
    meets s p 0x12 (fun _ => adapterBody) ∧ findsSome (s := s) (plans (s.acc 0) (adapterReads p (s.acc 0)) fun x =>
      rowWrites (p.desc 4) ((adapterOut p x).getD [])) fun v => (adapterOut p v.1).isSome && !v.2.isEmpty := by
  decide +kernel

theorem adapting_calm : (adapting adapterPkt).Calm 0 :=
  ⟨sound_of _ rfl rfl rfl (by decide), rfl, by decide +kernel, .inr (by decide +kernel)⟩

/-- A SAMPLE in a step without rows. -/
def sampling : State := { mapped with ctxs := [(0, samplingCtx)] }

theorem test_hyp_StepBeginOpensTheStep_sample :
    let p := pk 1 0x65 []
    let s := sampling
    meets s p 0x65 (fun c => sampleBody c) ∧ (s.ctxsAt 0).step = some openStep ∧
      findsSome (s := s) (plans (s.acc 0) (sampleReads p openStep (s.acc 0)) fun v => (p.desc 4).storeAll (v.map Prod.fst) [])
        fun v => v.1.isEmpty := by
  decide +kernel

theorem sampling_calm : sampling.Calm 0 := ⟨sound_of _ rfl rfl rfl (by decide), rfl, by decide +kernel, .inr (by decide +kernel)⟩

/-- A STEP_BEGIN of two rows, of request slots 0 (READY) and 1 (FINISHED), whose batch record lies at 0x200. -/
theorem test_hyp_StepBeginOpensTheStep :
    let p := pk 1 0x60 [0, 0, 7 + 2 * 2 ^ 32, 0x200]
    let s := tenant0 (mflying [p])
    let s : State := { s with slots := [(0, { words := List.replicate 16 0 ++ [2] ++ List.replicate 7 0 }),
                                        (1, { words := List.replicate 16 0 ++ [4] ++ List.replicate 7 0 })] }
    let s : State := { s with mem := [(0x201, 3), (0x208, 2), (0x308, 1)] ++ s.mem }
    meets s p 0x60 (fun c => stepBeginBody c) := by decide +kernel

/-- A STEP_END of the open step and of another one, a commit of a step with and without exhaustion. -/
theorem test_hyp_StepEndAndCommit :
    (let p := pk 1 0x61 []
     let s : State := { mapped with ctxs := [(0, { nextId := 9, pkts := [p], step := some openStep })] }
     s.issued 0 1 0x61 p ∧ (s.ctxsAt 0).step = some openStep ∧ openStep.stepId = p.f 2 31 0) ∧
    ((flying [pk 1 0x61 []]).issued 0 1 0x61 (pk 1 0x61 []) ∧ ((flying [pk 1 0x61 []]).ctxsAt 0).step = none) ∧
    (let p : Pkt := { pk 1 0x61 [] with st := .waiting }
     let x : Ctx := { nextId := 9, pkts := [p], step := some { openStep with rows := [0], ending := some 1 } }
     let s : State := tenant0 (withSlot 3 0 { mapped with ctxs := [(0, x)] })
     s.loaded 0 = true ∧ s.callerUp 0 = true ∧ s.pkt 0 1 = some p ∧ s.atCommit 0 1 = true ∧ (s.ctxsAt 0).enc.dead = none ∧
     gives (s := s) (commitBody 0 (s.acc 0)) { detail := 0 } ∧ s.affords 0 p (commitBody 0 (s.acc 0))) ∧
    (let p : Pkt := { pk 1 0x61 [] with st := .waiting }
     let x : Ctx := { nextId := 9, pkts := [p], step := some { openStep with ending := some 1 }, enc := { dead := some 3 } }
     let s : State := { mapped with ctxs := [(0, x)] }
     s.loaded 0 = true ∧ s.callerUp 0 = true ∧ s.pkt 0 1 = some p ∧ s.atCommit 0 1 = true ∧ (s.ctxsAt 0).enc.dead = some 3) := by
  refine ⟨?_, ?_, ⟨?_, ?_, ?_, ?_, ?_, ?_, ?_⟩, ?_⟩
  all_goals (try unfold State.issued); (try unfold State.affords); decide +kernel

/-- A row of a request being cancelled, idle, not sampled, stopped by its token, full, and going on. -/
theorem test_hyp_CommitRowTable :
    (withSlot 3 4 mapped).slotFlag 0 2 = true ∧
    ((withSlot 4 0 mapped).slotFlag 0 2 = false ∧ 0 ∈ { openStep with idle := [0] }.idle) ∧
    (0 ∉ openStep.idle ∧ 0 ∉ openStep.gone ∧ rowSample 0 = false ∧ 0 ∈ { openStep with gone := [0] }.gone) ∧
    (let st : Machine.Step := { openStep with pend := [(0, 5)] }
     let ws (w4 w13 : Nat) : List Nat := [0, 0, 0, 0, w4] ++ List.replicate 8 0 ++ [w13, 0, 0, 3] ++ List.replicate 7 0
     let s (w4 w13 : Nat) : State := tenant0 { mapped with slots := [(0, { words := ws w4 w13 })] }
     rowSample (2 ^ 63) = true ∧ (st.pend.find? fun e => e.1 == 0).map Prod.snd = some 5 ∧
     ((s 0 5).slotFlag 0 2 = false ∧ gives (s := (s 0 5)) (commitRows ((s 0 5).acc 0) st 0 [2 ^ 63]) ([1], 1) ∧ 5 ∈ [(s 0 5).slotF 0 13 31 0]) ∧
     ((s (2 ^ 32) 0).slotFlag 0 2 = false ∧ gives (s := (s (2 ^ 32) 0)) (commitRows ((s (2 ^ 32) 0).acc 0) st 0 [2 ^ 63]) ([1], 1) ∧
       (s (2 ^ 32) 0).slotDelivered 0 + 1 = (s (2 ^ 32) 0).slotF 0 4 63 32) ∧
     (s 0 0).slotFlag 0 2 = false ∧ gives (s := (s 0 0)) (commitRows ((s 0 0).acc 0) st 0 [2 ^ 63]) ([0], 1) ∧
       (s 0 0).slotDelivered 0 + 1 ≠ (s 0 0).slotF 0 4 63 32) := by decide +kernel

theorem test_hyp_SnapshotsAndPrefixKeys :
    up.opens ⟨.srvReqSel, 0, 0, 0⟩ = true ∧ up.opens ⟨.srvAdapterSel, 0, 0, 0⟩ = true ∧ up.opens ⟨.srvPfxKeyCtrl, 0, 0, 0⟩ = true ∧
    (up.adaptersAt 4095).image < 2 ^ 52 ∧ (up.adaptersAt 4095).part < 16 ∧ (up.adaptersAt 4095).rank < 256 ∧
    (up.adaptersAt 4095).users < 2 ^ 14 := by decide

/-- A step whose failure stops it; one that may run again; one whose runs are used up. -/
theorem test_hyp_EncoreStopsAndReruns :
    let f (spent : Bool) : StepFail := { status := 0x22, dpa := 64, seqIdx := 0, op := 0x10, spent := spent }
    let s (stopped spent : Bool) : State :=
      { mapped with ctxs := [(0, { nextId := 9, step := some openStep, enc := { fail := some (f spent), stopped := stopped } })] }
    ((s false false).ctxsAt 0).enc.fail = some (f false) ∧ ((s false false).ctxsAt 0).enc.stopped = false ∧
    ((s true false).encoreReady 0 = true ∧ ((s true false).ctxsAt 0).step = some openStep ∧
      ((s true false).ctxsAt 0).enc.fail = some (f false) ∧ (f false).spent = false ∧ openStep.ending = none) ∧
    ((s true true).encoreReady 0 = true ∧ ((s true true).ctxsAt 0).enc.fail = some (f true) ∧ (f true).spent = true) := by decide

/-- A group of two nodes, this one rank 0, with a collective. -/
def grouped (k : Coll) (st : Nat) (s : State) : State :=
  let s := put F.reelGroupState_state st 0 0 0 s
  { s with fab := { s.fab with groups := [(0, { size := 2, members := [0, 1], coll := some k })] } }

theorem test_hyp_CollectivesStartAndFail :
    (let k : Coll := { seq := 0, owner := some (0, 1) }
     let s := grouped k 2 (mflying [hollow 0x70 []])
     s.issued 0 1 0x70 (hollow 0x70 []) ∧ s.logged 0 (hollow 0x70 []) = none ∧ (s.grp 0).coll = some k ∧ k.begun = false ∧
     gives (s := s) (rdTensor (s.acc 0) ((hollow 0x70 []).desc 3)) [] ∧ s.affords 0 (hollow 0x70 []) (rdTensor (s.acc 0) ((hollow 0x70 []).desc 3)) ∧
     (∃ r ∈ (s.grp 0).others, s.peerState ((s.grp 0).peerOf r) ≠ 2) ∧ s.lostRank (s.grp 0) k = none) ∧
    (let p : Pkt := { pk 1 0x71 [] with inStep := true, ord := 5 }
     let s : State := { mapped with ctxs := [(0, { nextId := 9, pkts := [p], enc := { rerun := true, outs := [(0, 5, 1)] } })] }
     s.issued 0 1 0x71 p ∧ s.logged 0 p = some 1) ∧
    (let k : Coll := { seq := 0, owner := some (0, 1), begun := true }
     let s := grouped k 2 (mflying [pk 1 0x72 []])
     (s.grp 0).coll = some k ∧ s.pkt 0 1 = some (pk 1 0x72 []) ∧ 1 ∈ partnersOf k.kind (s.grp 0).rank (s.grp 0).size ∧
     max (Tab.get 0 k.heard 1) k.issuedAt + k.timeout ≤ s.now) ∧
    (let k : Coll := { seq := 0, owner := some (0, 1) }
     let p : Pkt := { pk 1 0x73 [] with st := .waiting }
     let s := grouped k 2 (mflying [p])
     s.pkt 0 1 = some p ∧ (s.grp (p.f 2 9 0)).coll = some k ∧ k.issuedAt + k.timeout ≤ s.now ∧
     (s.grp 0).others.find? (fun r => s.peerState ((s.grp 0).peerOf r) != 2) = some 1) := by
  unfold State.issued State.affords; decide +kernel

/-- Set 0 of die 0 is held by context 0. -/
def held0 (s : State) : State := { s with sched := { s.sched with holder := [(0, some 0)] } }

/-- A tile that fails on the last core of the last set; the third failure of a part; a failure that an injection arms. -/
theorem test_hyp_TileFailuresStrikeAndExhaust :
    (let p := pk 1 0x10 []
     let s := held0 (mflying [p])
     s.runsOn 0 1 0 0 = true ∧ s.pkt 0 1 = some p ∧ 1 / 4 ≤ p.tries ∧ p.exhausted = false ∧
     s.executes 0 0 0 0 = true ∧ s.armedFor 0 0 129 = false ∧ (put F.cdArrayInject_arm 1 0 0 0 s).armedFor 0 0 0 = true) ∧
    (let p : Pkt := { pk 1 0x10 [] with tries := 2 }
     (held0 (mflying [p])).runsOn 0 1 0 0 = true ∧ 9 % 4 = 1 ∧ 9 / 4 < 3 ∧ 9 / 4 ≤ p.tries ∧
     (held0 (mflying [p])).executes 0 0 129 (9 / 4) = true) := by decide

theorem test_hyp_SparesTakeOverAndSetsLeave :
    (let s : State := { up with sets := [(79, { leaving := [129] })] }
     s.fld F.cdSetStatus_state 1 39 < 6 ∧ 129 ∈ (s.setsAt (40 * 1 + 39)).leaving ∧ [128, 129].find? (fun k => s.spareOf 1 39 k == 0xFF && k != 129) = some 128) ∧
    (let s : State := put F.cdSpareMap_spare0 3 1 39 0 { up with sets := [(79, { leaving := [129] })] }
     [128, 129].find? (fun k => s.spareOf 1 39 k == 0xFF && k != 129) = none) ∧
    (let s := put F.cdSetStatus_state 5 1 39 0 up
     s.fld F.cdSetStatus_state 1 39 = 5 ∧ s.atBoundary 1 39 = true) ∧ State.reset.rst.published = false ∧ up.rst.published = true := by decide

theorem test_hyp_SetControlActions :
    up.opens ⟨.cdSetCtrl, 1, 39, 0⟩ = true ∧ up.fld F.cdSetStatus_state 1 39 = 0 ∧
    (∀ v ∈ [1, 4, 5, 6, 7], let s := put F.cdSetStatus_state v 1 39 0 up
      s.opens ⟨.cdSetCtrl, 1, 39, 0⟩ = true ∧ s.fld F.cdSetStatus_state 1 39 = v) ∧
    128 ≤ ((List.range 130).filter fun k => ! [0, 129].contains k).length ∧
    ((List.range 130).filter fun k => ! [0, 1, 129].contains k).length < 128 := by decide +kernel

theorem test_hyp_MeshRetriesAndPerfCounters :
    (meshLink 0 39 3 = true ∧ 3 ∉ (up.setsAt 39).shut ∧ Tab.get 0 (up.setsAt 39).fails 3 + 1 ≠ 16) ∧
    (let s : State := { up with sets := [(39, { fails := [(3, 15)] })] }
     3 ∉ (s.setsAt 39).shut ∧ Tab.get 0 (s.setsAt 39).fails 3 + 1 = 16) ∧
    (up.opens ⟨.cdPerfCtrl, 1, 0, 0⟩ = true ∧ up.flag F.cdPerfCtrl_snapBusy 1 = false ∧
     (put F.cdPerfCtrl_snapBusy 1 1 0 0 up).flag F.cdPerfCtrl_snapBusy 1 = true) := by decide

theorem test_hyp_MicrosecondsRequestsAndScrub :
    (up.inReset .hub = false ∧ up.cardOn = false ∧ (∀ e ∈ up.fab.groups, e.2.coll = none ∧ e.2.ahead = none)) ∧
    (let p : Pkt := { pk 1 0x30 [] with paid := [(12, 1)], waits := [(12, 0)] }
     let s : State := { mflying [p] with now := 1000 }
     s.bulkAge 12 ≠ 0 ∧ s.promotable 12 0 = [(0, p)] ∧ s.promotableReads 12 0 = []) ∧
    (let s : State := { mapped with now := 1000, que := [(0, { waits := [(12, 0)] })] }
     s.bulkAge 12 ≠ 0 ∧ s.promotableReads 12 0 = [(0, { waits := [(12, 0)] })] ∧ s.promotable 12 0 = []) ∧
    (up.chanUp 12 15 = true ∧ up.fld F.pwrStatus_idle ≤ 1 ∧
      (put F.dtScrubCfg_en 1 15 0 0 up).ch F.stkScrubCfg_en F.dtScrubCfg_en 12 15 = 1 ∧ up.scrubPos 12 15 + 1 < chanGrans 12 ∧
      (put F.stkScrubStatus_pos (chanGrans 0 - 1) 0 15 0 up).scrubPos 0 15 + 1 = chanGrans 0) ∧
    (let s : State := put F.dtScrubAlarmUs_us 5 15 0 0 { up with now := 6, tier := { laps := [12 * 16 + 15] } }
     s.chanUp 12 15 = true ∧ 12 * 16 + 15 ∈ s.tier.laps ∧ 12 * 16 + 15 ∉ s.tier.alarmed ∧ s.ch F.stkScrubAlarmUs_us F.dtScrubAlarmUs_us 12 15 <
       s.now - s.ch F.stkScrubLapStart_time F.dtScrubLapStart_time 12 15) := by decide

/-- The scrubber's clause over sound memory. -/
theorem test_hyp_scrub_sound : (put F.dtScrubCfg_en 1 15 0 0 up).Sound := sound_of _ rfl rfl rfl (by decide)

theorem test_hyp_StackParityCommands :
    up.opens ⟨.hbParityCmd, 0, 0, 0⟩ = true ∧ up.tier.parity = none ∧ up.mapPending = false ∧
    (let s : State := { up with tier := { parity := some (false, 24575, 24575) } }
     s.tier.parity = some (false, 24575, 24575) ∧ s.merges = []) ∧
    (let s : State := put F.hbParityMap_map 1 0 0 0 { up with chk := [(0, poisonDev)] }
     s.sealed 0 = true ∧ decode (s.devAt (0 / 64)) = .bad ∧ s.chanState 0 = 0 ∧ s.tier.lost = [] ∧ s.errOpen = false) := by
  decide +kernel

theorem test_hyp_parity_alone (g : Nat) (h : g ≠ 0 / 64) :
    (put F.hbParityMap_map 1 0 0 0 { up with chk := [(0, poisonDev)] }).devAt g = 0 := by
  show Tab.get 0 [(0, poisonDev)] g = 0
  simp [Tab.get, Map.get]; omega

theorem test_hyp_ChannelsFailAndMapOut :
    (up.chanUp 12 15 = true ∧ up.ch F.stkChState_state F.dtChState_state 12 15 = 0 ∧ up.opens ⟨.dtChState, 15, 0, 0⟩ = true ∧
     up.opens ⟨.stkChState, 11, 15, 0⟩ = true ∧ (put F.dtMapoutCfg_ueLimit 1 0 0 0 { up with tier := { ueTimes := [(207, 0)] } }).ueReached 12 15 = true ∧
     up.chanUp 11 15 = true ∧ up.ch F.stkChState_state F.dtChState_state 11 15 = 0) ∧
    (let s : State := put F.stkChState_state 1 11 0 0 (put F.stkChState_state 1 11 1 0 (put F.stkChState_state 1 11 2 0
       (put F.stkChState_state 1 11 3 0 up)))
     s.ch F.stkChState_state F.dtChState_state 11 15 = 0 ∧ 5 ≤ s.badChans 11 + 1) ∧
    (let s : State := { up with tier := { mapWait := [12] } }
     12 ∈ s.tier.mapWait ∧ s.tier.mapRun = [] ∧ s.tier.parity = none) ∧
    (let s : State := put F.dtMapStatus_pending 1 0 0 0 (put F.dtMapDead_dead 0x8000 0 0 0 { up with tier := { mapRun := [12] } })
     s.tier.mapRun = [12] ∧ s.flag (groupRegs (mapGroup 12)).pending (groupRegs (mapGroup 12)).i = true ∧ s.addedChans 12 = [15] ∧
     s.errOpen = false) := by decide

/-- The deep tier's map-out of channel 15 as its switch finds it. -/
def mapSwitch : State :=
  put F.dtMapStatus_pending 1 0 0 0 (put F.dtMapDead_dead 0x8000 0 0 0 { up with tier := { mapRun := [12] } })

theorem mapSwitch_open : ∀ e ∈ mapSwitch.bank, e.1.name ≠ RegName.hbParityMap := by decide

theorem test_hyp_mapout_switch_sound : mapSwitch.Inv ∧ mapSwitch.Sound ∧ ∀ x, mapSwitch.rowSealed x = false :=
  ⟨by constructor <;> decide, sound_of _ rfl rfl rfl (by decide), fun x => by
    unfold State.rowSealed State.fld State.reg
    rw [get_reset _ _ mapSwitch_open]
    simp [bit, bits, Reg.reset, RegName.spec, Fld.at, F.hbParityMap_map]⟩

/-- Unit 31 of stack 11 in a mode and service, with these tickets, those before DONE queued. -/
def unit (mode service : Nat) (ts : List (Nat × Ticket)) (s : State) : State :=
  let s := put F.galUnitState_mode mode 11 31 0 (put F.galUnitState_service service 11 31 0 s)
  { s with units := [(uKey 11 31, { tickets := ts, queue := (ts.filter fun e => e.2.st < 3).map Prod.fst })] }

/-- A write of eight words, the first given and the others 0, to a unit's window. -/
def poke (off w0 : Nat) : Poke := { agent := 0, off := off, words := BitVec.ofNat 64 w0 :: List.replicate 7 0 }

theorem test_hyp_unit_window_writes :
    Writes (poke 0 0x6A111A2D00000001) 0 ∧ Asks (poke 0 0x6A111A2D00000001) 1 ∧ Asks (poke 0 0x6A111A2D00000002) 2 ∧
    ¬Asks (poke 0 0) 1 ∧ ¬Asks (poke 0 0) 2 ∧ (poke 0 0).row = 0 ∧
    (∀ e ∈ [(0, 0), (1, 0x40), (2, 0x1000), (3, 0x2000)], (poke e.2 0).off < 0x80000 ∧ ∃ w ∈ [0, 0x6A111A2D00000002], (poke e.2 w).row = e.1 ∨ e.1 = 1) ∧
    Writes (poke 0x3000 0) 0x3000 ∧ Writes (poke (0x1000 + 64 * 31) 0) (0x1000 + 64 * 31) ∧
    Writes (poke (0x2000 + 64 * 31) 0) (0x2000 + 64 * 31) := by
  unfold Writes Asks; decide +kernel

theorem test_hyp_unit_release : (poke 0x2000 0).words.all (· == 0) = true := by decide

theorem test_hyp_UnitsEnterAndLeaveNearMode :
    (up.unitUp 11 31 = true ∧ up.unitMode 11 31 = 0 ∧ up.unitService 11 31 = 0) ∧
    ((unit 2 0 [] up).unitUp 11 31 = true ∧ (unit 2 0 [] up).unitMode 11 31 = 2) ∧
    ((unit 1 0 [] up).unitMode 11 31 = 1 ∧ (unit 1 0 [] up).unitService 11 31 ≠ 2) ∧
    ((unit 3 0 [] up).unitMode 11 31 = 3 ∧ ((unit 3 0 [] up).unitsAt (uKey 11 31)).queue = []) ∧
    ((unit 3 1 [(0, { st := 1 })] up).unitMode 11 31 = 3 ∧ (unit 3 1 [(0, { st := 1 })] up).unitService 11 31 ≠ 0) ∧
    (let s : State := put F.galCfg_idleExitUs 5 11 0 0 { unit 2 0 [] up with now := 5 }
     s.unitMode 11 31 = 2 ∧ (s.unitsAt (uKey 11 31)).queue = [] ∧ (s.unitsAt (uKey 11 31)).tails = [] ∧ s.fld F.galCfg_idleExitUs 11 ≠ 0 ∧
     (s.unitsAt (uKey 11 31)).idleSince + s.fld F.galCfg_idleExitUs 11 ≤ s.now) ∧
    (let p := pk 1 0x4E [0, 0, 2 ^ 11, 2 ^ 31, 1]
     (flying [p]).issued 0 1 0x4E p ∧ p.aux = [] ∧ (flying [p]).namedUnits (p.f 2 11 0) (p.f 3 31 0) = [383] ∧ p.b 4 0 = true ∧
     (flying [p]).unitMode 11 31 = 0) ∧
    (let p : Pkt := { pk 1 0x4E [0, 0, 2 ^ 11, 2 ^ 31, 1] with aux := [0] }
     let s := unit 2 0 [] (flying [p])
     s.issued 0 1 0x4E p ∧ p.aux ≠ [] ∧ s.namedUnits (p.f 2 11 0) (p.f 3 31 0) = [383] ∧ s.unitMode 11 31 = 2) := by
  unfold State.issued; decide

theorem test_hyp_UnitCommandsTakeTickets :
    (let s := unit 2 0 [] up
     s.unitUp 11 31 = true ∧ s.unitMode 11 31 = 2 ∧ s.unitService 11 31 = 0 ∧ (s.ticket 11 31 31).st = 0 ∧
     commandOk (([0, 1, 0, 0, 0, 0, 0, 0] : List W64).map BitVec.toNat) = true ∧
     cUop (([0, 1, 0, 0, 0, 0, 0, 0] : List W64).map BitVec.toNat) ∈ uopCodes ∧
     commandOk (([0, 3, 0, 0, 0, 0, 0, 0] : List W64).map BitVec.toNat) = true ∧
     cUop (([0, 3, 0, 0, 0, 0, 0, 0] : List W64).map BitVec.toNat) ∉ uopCodes ∧
     (s.unitsAt (uKey 11 31)).queue = [] ∧ (s.unitsAt (uKey 11 31)).outDue = false ∧ (s.unitsAt (uKey 11 31)).running = none ∧
     s.nextPos 11 31 31 = some 0) ∧
    (let s : State := { unit 2 0 [] up with units := [(uKey 11 31, { tails := [(28, 0)] })] }
     s.nextPos 11 31 31 = none ∧ s.nextPos 11 31 29 = some 1) ∧
    up.unitMode 11 31 ≠ 2 ∧ ((unit 2 0 [(31, { st := 3 })] up).ticket 11 31 31).st = 3 ∧
    commandOk (([4, 1, 0, 0, 0, 0, 0, 0] : List W64).map BitVec.toNat) = false := by decide

/-- A unit whose first queued command has an operation code. -/
def turn (op : Nat) : State := unit 2 0 [(0, { st := 1, words := [0, op] })] up

theorem test_hyp_UnitOperationsRunOrFail :
    ∀ op ∈ uopCodes, (turn op).unitTurn 11 31 0 op ∧ ((turn op).unitsAt (uKey 11 31)).outDue = false := by
  unfold State.unitTurn; decide

theorem test_hyp_UnitServiceActions :
    (up.opens ⟨.galUnitCtrl, 11, 31, 0⟩ = true ∧ up.unitService 11 31 = 0 ∧ up.midRun 11 31 = false) ∧
    (let s := unit 2 0 [(0, { st := 1, words := [0, 1], pos := 1 })] up
     let s : State := { s with units := [(uKey 11 31, { running := some 0 })] }
     s.opens ⟨.galUnitCtrl, 11, 31, 0⟩ = true ∧ s.unitService 11 31 = 0 ∧ s.midRun 11 31 = true) ∧
    (let s := unit 0 1 [] up
     s.opens ⟨.galUnitCtrl, 11, 31, 0⟩ = true ∧ s.unitService 11 31 = 1) ∧
    (let s : State := { unit 1 2 [] up with units := [(uKey 11 31, { test := true, ret := true })] }
     s.unitUp 11 31 = true ∧ (s.unitsAt (uKey 11 31)).test = true ∧ (s.unitsAt (uKey 11 31)).ret = true) := by decide

/-- Partition 0 is ACTIVE, with set 0 of die 0 in its allocation. -/
def part0 (s : State) : State := force F.schPartAlloc0_mask 1 0 0 0 (put F.schPartState_state 1 0 0 0 s)

theorem test_hyp_ContextsEnableAndDisable :
    (up.opens ⟨.schCtxCfg, 255, 0, 0⟩ = true ∧ up.flag F.schCtxCfg_en 255 = false ∧ up.fld F.schPartState_state (15 % 16) ≠ 1) ∧
    (up.opens ⟨.schCtxCfg, 0, 0, 0⟩ = true ∧ (put F.schCtxCfg_en 1 0 0 0 up).opens ⟨.schCtxCfg, 0, 0, 0⟩ = true ∧
      (put F.schCtxCfg_en 1 0 0 0 up).flag F.schCtxCfg_en 0 = true) ∧
    (let s := part0 (put F.schCtxSets0_mask 3 0 0 0 up)
     s.fld F.schPartState_state 0 = 1 ∧ ∃ x ∈ s.binds 0, s.allocatesSet 0 x = false) ∧
    (let s := part0 (put F.schCtxSets0_mask 1 0 0 0 up)
     s.fld F.schPartState_state 0 = 1 ∧ (∀ x ∈ s.binds 0, s.allocatesSet 0 x = true) ∧ s.fld F.schCtxSave_va 0 = 0 ∧ s.binds 0 ≠ []) ∧
    (let s := part0 up
     s.fld F.schPartState_state 0 = 1 ∧ s.fld F.schCtxSave_va 0 = 0 ∧ s.binds 0 = [] ∧ s.fld F.schCtxSpill_va 0 = 0) := by decide

/-- Partition 15 has a window, wiped at its TEARDOWN. -/
theorem test_hyp_TeardownAndInvalidation :
    (let s := put F.schPartState_state 1 15 0 0 up
     s.opens ⟨.schPartCtrl, 15, 0, 0⟩ = true ∧ s.fld F.schPartState_state 15 ≠ 2 ∧
     (s.wiped 15).any (fun w => s.holdsSealed (s.winRange 15 w).1 (s.winRange 15 w).2) = false) ∧
    (let s := put F.schPartState_state 2 15 0 0 up
     s.opens ⟨.schPartCtrl, 15, 0, 0⟩ = true ∧ s.fld F.schPartState_state 15 = 2) ∧
    (up.opens ⟨.schInval, 0, 0, 0⟩ = true ∧ (put F.schInvalStatus_busy 1 0 0 0 up).opens ⟨.schInval, 0, 0, 0⟩ = true ∧
     (put F.schInvalStatus_busy 1 0 0 0 up).flag F.schInvalStatus_busy = true) := by decide

/-- The card runs, in its second frame, with slot 63 of partition 2. -/
def carded (active : Nat) : State :=
  let s := force F.schCardFrame_frameUs 1000 0 0 0 (force F.schCardFrame_en 1 0 0 0 (put F.schCardPos_frames 1 0 0 0 up))
  let s := force F.schSlot_partition 2 63 0 0 (force F.schSlot_lengthUs 100 63 0 0 (force F.schSlot_valid 1 63 0 0 s))
  put F.schPartState_state active 2 0 0 { s with now := 1000 }

theorem test_hyp_DanceCardMovesOn :
    ((carded 1).cardOn = true ∧ (carded 1).fld F.schCardPos_frames ≠ 0 ∧
      (carded 1).sched.frameStart + (carded 1).inForce F.schCardFrame_frameUs ≤ (carded 1).now ∧
      (carded 1).flag (groupRegs .schCard).pending (groupRegs .schCard).i = false) ∧
    ((carded 1).inForce F.schSlot_valid 63 ≠ 0 ∧ (carded 1).sched.frameStart + (carded 1).slotOffset 63 ≤ (carded 1).now ∧
      (carded 1).sched.begun ≤ 63 ∧ (carded 1).inForce F.schSlot_partition 63 = 2 ∧ (carded 1).fld F.schPartState_state 2 = 1 ∧
      (carded 0).fld F.schPartState_state 2 ≠ 1 ∧ (carded 0).cardOn = true) ∧
    ((carded 1).sched.frameStart + (carded 1).slotOffset 64 ≤ (carded 1).now) ∧
    (let s : State := { carded 1 with sched := { (carded 1).sched with owner := some 2, slotEnd := 1000 } }
     s.cardOn = true ∧ s.fld F.schCardPos_frames ≠ 0 ∧ s.sched.owner.isSome = true ∧ s.sched.slotEnd ≤ s.now) ∧
    3 < ({ carded 1 with sched := { (carded 1).sched with begun := 4 } } : State).sched.begun := by decide

/-- Context 0 in a state, bound to set 0 and holding it; context 1 waits for the set. -/
def rivals (st : Nat) (x : Ctx) : State :=
  let s := put F.schCtxState_runnable 1 1 0 0 (put F.schCtxState_state 1 1 0 0 (put F.schCtxState_state st 0 0 0 up))
  let s := put F.schCtxSets0_mask 1 0 0 0 (put F.schCtxSets0_mask 1 1 0 0 s)
  held0 { s with ctxs := [(0, x)], now := 100000 }

theorem test_hyp_PreemptionSavesAndLoads :
    (let s := rivals 3 {}
     s.ctxState 0 = 3 ∧ (s.ctxsAt 0).loadedAt + s.fld F.schCfg_quantumUs ≤ s.now ∧ s.wanted 0 = true ∧ s.binds 0 ≠ []) ∧
    (let s := rivals 4 {}
     s.ctxState 0 = 4 ∧ (s.ctxsAt 0).blockedAt + s.fld F.schCfg_blockEvictUs ≤ s.now ∧ s.wanted 0 = true ∧ s.binds 0 ≠ [] ∧
     s.waiters.head? = some 1 ∧ (∀ k ∈ s.inTheWay 1, s.ctxState k = 4)) ∧
    (let s := force F.schPartCfg_stepHold 1 0 0 0 (rivals 6 { step := some openStep, yieldTo := some (0, 3) })
     s.ctxState 0 = 6 ∧ (s.ctxsAt 0).yieldTo = some (0, 3) ∧ s.stepHeld 0 = true ∧ (s.ctxsAt 0).asked + s.holdMax ≤ s.now) ∧
    (let s := rivals 6 { yieldTo := some (0, 3) }
     s.ctxState 0 = 6 ∧ s.stepHeld 0 = false ∧ s.atPoint 0 = true ∧ (s.ctxsAt 0).yieldTo = some (0, 3) ∧ 0 < s.now) ∧
    (let s := rivals 7 { saving := [0], layout := [0] }
     s.ctxState 0 = 7 ∧ 40 * 0 + 0 ∈ (s.ctxsAt 0).saving ∧ 40 * 0 + 0 ∈ (s.ctxsAt 0).layout) ∧
    (let s := rivals 2 { restoring := [0], fresh := [0] }
     s.ctxState 0 = 2 ∧ (s.ctxsAt 0).restoring = [0] ∧ 0 ∈ (s.ctxsAt 0).fresh) ∧
    (let s : State := { rivals 1 {} with sched := {} }
     s.canLoad 1 = true) := by decide +kernel

theorem test_hyp_hard_swap (k : Nat) (_ : k < 256) (h : (rivals 4 {}).loaded k = true) :
    (rivals 4 {}).ctxState k = 4 ∨ (rivals 4 {}).ctxState k = 5 := by
  have : ∀ k ∈ List.range 256, (rivals 4 {}).loaded k = true → (rivals 4 {}).ctxState k = 4 := by decide +kernel
  exact .inl (this k (List.mem_range.2 ‹_›) h)

/-- An open fault of packet 1 of context 0. -/
def faulted (pkt : Option Nat) (op : Nat) : State :=
  let f : OpenFault := ⟨7, 0x20, 0, 0, 0, false, 0x100, 0, 0, op, 0, pkt, true⟩
  { mflying [{ pk 1 0x10 [] with st := .stalled 7 }] with now := 10000000, sched := { mapped.sched with faults := [f] } }

theorem test_hyp_FaultsAreAnswered :
    (up.opens ⟨.schFaultResolve, 0, 0, 0⟩ = true ∧ up.openFaultOf 0 = none) ∧
    (∀ e ∈ [(some 1, 0x10), (none, 0), (none, 5)], let s := faulted e.1 e.2
      s.opens ⟨.schFaultResolve, 0, 0, 0⟩ = true ∧ (s.openFaultOf 7).isSome = true ∧
      (∀ f ∈ s.openFaultOf 7, f.pkt = e.1 ∧ f.op = e.2 ∧ f.write = false ∧ f.time + s.inForce F.schPartCfg_faultTimeoutMs f.part * 1000 ≤ s.now)) ∧
    ((faulted (some 1) 0x10).pkt 0 1).map Pkt.op = some 0x10 ∧ ((faulted (some 1) 0x10).queAt (qKey 0 0)).chain = [] := by decide

/-- Port 47 is up; node 0 knows peer 1023 as node 5. -/
def ported (st : Nat) (x : Peer) : State :=
  let s := put F.fabPortCtrl_en 1 47 0 0 (put F.fabPortStatus_up 1 47 0 0 (put F.fabPeerState_state st 1023 0 0 up))
  { s with fab := { peers := [(1023, { x with node := 5 })] } }

/-- A frame of these transport words and payload, as it arrives at port 47. -/
def air (s : State) (ws : List Nat) (body : List Byte) : List Byte :=
  let f := s.frameOf 47 s.nodeIp 0 (wordBytes ws ++ body)
  f.take (f.length - 4) ++ toBytes 4 (crc32 (f.take (f.length - 4)))

/-- The parsed frame, after its FCS. -/
def heard (s : State) (ws : List Nat) (body : List Byte) : Option Parsed :=
  let f := air s ws body
  if toBytes 4 (crc32 (f.take (f.length - 4))) = f.drop (f.length - 4) then s.parseFrame 47 (f.take (f.length - 4)) else none

/-- H0 of a frame of a type from node 5 to a node, with a length. -/
def head (type dst len : Nat) : Nat := 2 ^ 60 + type * 2 ^ 56 + 5 * 2 ^ 32 + dst * 2 ^ 16 + len

/-- The frame's words behind H0. -/
def words8 (h : Nat) : List Nat := h :: List.replicate 7 0

/-- Port 47 takes frames: one of another node, a HELLO, an encrypted one of a peer not admitted, one accepted before, one whose
tag is wrong, one whose tag is right; no frame of the A12; a wrong FCS. -/
theorem test_hyp_ReceivedFramesAreChecked :
    let s := ported 2 { rx := { key := List.replicate 32 1 } }
    let ws := words8 (head 2 0 4)
    let cipher : List Byte := [1, 2, 3, 4]
    let tag := gcmTag (List.replicate 32 1) (frameNonce 5 0) (wordBytes ws) cipher
    (s.portUp 47 = true ∧ s.flag F.fabInjCtrl_arm 47 = false ∧ s.fab.held = [] ∧ s.loadedPeer 5 = some 1023 ∧ s.peerState 1023 = 2) ∧
    heard s (words8 (head 2 1 0)) (List.replicate 16 0) = some ⟨false, words8 (head 2 1 0), List.replicate 16 0⟩ ∧
    heard s (words8 (head 4 0 2)) [1, 2] = some ⟨false, words8 (head 4 0 2), [1, 2]⟩ ∧
    ((ported 1 {}).loadedPeer 5 = some 1023 ∧ (ported 1 {}).peerState 1023 ≠ 2) ∧
    (heard s ws (cipher ++ tag) = some ⟨false, ws, cipher ++ tag⟩ ∧ s.rxKeyOf (s.peer 1023) false = some true ∧
      (s.peer 1023).rx.replays 0 = false ∧ numbered 2 = true ∧ (s.peer 1023).received 0 = false) ∧
    (({ key := [], top := 1, seen := [0] } : RxKey).replays 0 = true) ∧
    s.parseFrame 47 (List.replicate 60 0) = none ∧ toBytes 4 (crc32 (List.replicate 60 0)) ≠ [0, 0, 0, 0] := by
  decide +kernel

/-- A frame held at another port does not hinder. -/
theorem test_hyp_reorder_release :
    ∀ h ∈ [({ port := 46, rx := true, frame := [], left := 1, since := 0 } : HeldFrame), { port := 47, rx := false, frame := [1], left := 1, since := 0 }],
      h.port = 47 → h.rx = false := by decide

/-- A frame for group 0 from rank 1 that has been delivered. -/
def delivered (type seq epoch : Nat) : RxFrame :=
  { peer := 1, hdr := [head type 0 0, 0, 0, seq * 2 ^ 32 + epoch * 2 ^ 24 + 1], body := [] }

/-- A group of two, without a collective, with a delivered frame of its next collective. -/
def listening (x : RxFrame) : State :=
  let s := put F.reelGroupState_state 1 0 0 0 up
  { s with fab := { inbox := [x], groups := [(0, { size := 2, members := [0, 1] })] } }

theorem test_hyp_CollectiveFramesAreNoted :
    (∀ type ∈ [0, 2, 3], ∀ epoch ∈ [0, 1],
      let x := delivered type 0 epoch
      let s := listening x
      s.fab.inbox = [x] ∧ hType (nth x.hdr 0) = type ∧ s.grpState (fGroup x) = 1 ∧ fRank x < (s.grp (fGroup x)).size ∧
      fRank x ≠ (s.grp (fGroup x)).rank ∧ (s.grp (fGroup x)).peerOf (fRank x) = x.peer ∧
      fSeq x = s.fld F.reelGroupState_nextSeq (fGroup x) ∧ fEpoch x = epoch ∧ (s.grp (fGroup x)).ahead = none) ∧
    (let k : Coll := { seq := 0, owner := some (0, 1), firstSeen := some 0 }
     let s : State := { grouped k 2 (put F.fabPeerState_state 2 1 0 0 up) with now := 1000 }
     (s.grp 0).coll = some k ∧ k.firstSeen = some 0 ∧ s.grpState 0 = 2 ∧ 1 ∈ partnersOf k.kind (s.grp 0).rank (s.grp 0).size ∧ s.rankOpen 0 1 = true ∧
     max (Tab.get 0 k.said 1) (min k.issuedAt 0) + 1000 ≤ s.now) := by decide

/-- A module that can sign. -/
def signing (s : State) : State :=
  { s with sec := { fuses := fusesOf 1, seed := 1, cached := true, ceil := 1024, trees := [0], chainOk := true } }

/-- A handshake message of a type from peer 1023 has come. -/
def messaged (type : Nat) (body : List Byte) (st : Nat) (x : Peer) : State :=
  let s := signing (ported st x)
  { s with fab := { s.fab with inbox := [{ peer := 1023, hdr := [type * 2 ^ 56], body := body }] } }

theorem test_hyp_HandshakeAdmitsOrRefuses :
    (let s := put F.fabNode_node 6 0 0 0 (messaged 4 (List.replicate 32 0 ++ [5, 0]) 1 {})
     s.canSign = true ∧ s.sec.chainOk = true ∧ s.message 4 = some (1023, List.replicate 32 0 ++ [5, 0]) ∧ s.peerState 1023 ≠ 0 ∧
     (s.peer 1023).node < s.fld F.fabNode_node ∧ (s.peer 1023).hs ≠ 3 ∧ ofBytes [5, 0] = (s.peer 1023).node) ∧
    (let s := messaged 5 [1] 1 { hs := 1 }
     s.canSign = true ∧ s.sec.chainOk = true ∧ s.message 5 = some (1023, [1]) ∧ (s.peer 1023).hs = 1) ∧
    ((messaged 6 [1] 1 { hs := 3 }).message 6 = some (1023, [1]) ∧ ((messaged 6 [1] 1 { hs := 3 }).peer 1023).hs = 3) ∧
    ((messaged 7 [1] 1 { hs := 2 }).message 7 = some (1023, [1]) ∧ ((messaged 7 [1] 1 { hs := 2 }).peer 1023).hs = 2) ∧
    ((messaged 8 [] 2 {}).firstFrame 8).map RxFrame.peer = some 1023 ∧
    (let s : State := { ported 1 { hs := 1, msgTries := 4 } with now := 10000 }
     (s.peer 1023).hs ≠ 0 ∧ (s.peer 1023).msgTime + 10000 ≤ s.now ∧ (s.peer 1023).msgTries < 5) ∧
    (let s : State := { ported 4 {} with now := 1000000 }
     s.peerState 1023 = 4 ∧ (s.peer 1023).triedAt + 1000000 ≤ s.now) ∧
    (let s : State := ported 2 { txSeq := 2 ^ 40 }
     s.peerState 1023 = 2 ∧ (s.peer 1023).hs = 0 ∧ s.fld F.fabNode_node < (s.peer 1023).node ∧ 2 ^ 40 ≤ (s.peer 1023).txSeq) ∧
    (let s : State := ported 2 { oldUntil := some 0 }
     (s.peer 1023).oldUntil = some 0 ∧ 0 ≤ s.now) := by decide

theorem test_hyp_FlowsAcknowledgeAndRetransmit :
    (let x : RxFrame := { peer := 1023, hdr := [2 ^ 56], body := List.replicate 36 0 }
     let s : State := { ported 2 {} with fab := { (ported 2 {}).fab with inbox := [x] } }
     s.fab.inbox = [x] ∧ hType (nth x.hdr 0) = 1 ∧ (∀ e ∈ s.fab.groups, e.2.coll = none) ∧ ofBytes (x.body.take 32) = 0) ∧
    (let s : State := { ported 2 { ackSince := some 0 } with now := 4 }
     s.peerState 1023 = 2 ∧ (s.peer 1023).ackSince = some 0 ∧ 0 + 4 ≤ s.now) ∧
    (let f : TxFrame := { psn := 0, hdr := [2 ^ 57], body := [], first := 0, sent := 0 }
     let s : State := { ported 2 { unacked := [f], ports := 2 ^ 47 } with now := 100000000 }
     s.peerState 1023 = 2 ∧ (s.peer 1023).unacked.find? (fun f => f.psn == 0) = some f ∧ f.sent + s.rto f ≤ s.now ∧
     s.canResend 1023 f = true ∧ s.nextPort 1023 = some 47 ∧ f ∈ (s.peer 1023).unacked ∧
     f.first + s.fld F.fabCfg_lostMs * 1000 ≤ s.now) ∧
    (let s : State := { ported 2 { cePeriod := 1 } with now := 100000000 }
     s.fab.ccAt + s.fld F.fabCc_periodUs ≤ s.now ∧ (s.fab.peers.map Prod.fst).Nodup ∧ 0 < (s.peer 1023).cePeriod) := by
  decide

theorem test_hyp_PeersGroupsAndPorts :
    (up.opens ⟨.fabPeerCtrl, 0, 0, 0⟩ = true ∧ (∀ e ∈ up.fab.groups, e.2.coll = none)) ∧
    (up.opens ⟨.reelGroupCtrl, 0, 0, 0⟩ = true ∧ (up.grp 1023).coll = none ∧ ((grouped { seq := 0 } 2 up).grp 0).coll.isSome = true) ∧
    (up.opens ⟨.fabPortCtrl, 47, 0, 0⟩ = true ∧ up.portAllowed 47 = false ∧
      (put F.rstOptRecord_word (2 ^ 47) 5 0 0 up).portAllowed 47 = true ∧ up.flag F.fabPortCtrl_en 47 = false) ∧
    (let s : State := { up with fab := { training := [47] } }
     47 ∈ s.fab.training ∧ s.fab.refDown = false ∧ soundWidth 0 0 = some 0) ∧
    ((ported 2 {}).flag F.fabPortCtrl_en 47 = true ∧ (ported 2 {}).flag F.fabPortStatus_retired 47 = false ∧
      bit ((ported 2 {}).fld F.fabPortStatus_lanesFailed 47) 7 = false ∧ soundWidth (2 ^ 7) 0 ≠ none ∧ soundWidth 0xD5 0 = none) := by
  decide

theorem test_hyp_LinkTrainsAndInterrupts :
    (let s := put F.thmLinkStatus_state 1 0 0 0 up
     s.linkOut = true ∧ s.fld F.thmLinkStatus_state = 1 ∧ (put F.thmLinkStatus_state 3 0 0 0 up).fld F.thmLinkStatus_state = 3 ∧
     s.fld F.thmLinkCtrl_width = 0 ∧ s.flag F.hbErrCfg_en = false) ∧
    (let s := put F.thmLinkStatus_state 2 0 0 0 up
     s.linkActive = true ∧ s.linkOut = true) ∧
    (up.fld F.thmLinkStatus_state = 0 ∧ up.opens ⟨.thmLinkCtrl, 0, 0, 0⟩ = true ∧ up.opens ⟨.thmSync, 0, 0, 0⟩ = true) ∧
    (let s : State := { up with now := 100000 }
     s.fld F.thmLinkStatus_state = 0 ∧ s.linkOut = true ∧ s.thm.downAt + 100000 ≤ s.now) ∧
    (let s := put F.thmVecPend_pend (2 ^ 63) 3 0 0 (put F.thmVecMask_mask (2 ^ 63) 3 0 0 up)
     s.opens ⟨.thmVecMask, 255 / 64, 0, 0⟩ = true ∧ bit (s.fld F.thmVecPend_pend (255 / 64)) (255 % 64) = true ∧
     ∀ b ∈ List.range 64, b ≠ 255 % 64 → bit (s.fld F.thmVecPend_pend (255 / 64)) b = true →
       bit (s.fld F.thmVecMask_mask (255 / 64)) b = true) := by decide +kernel

/-- The companion's memory window is open. -/
def windowed (s : State) : State := put F.thmMemBase_en 1 0 0 0 s

/-- The companion's window is open and these granules are tracked. -/
def tracking (l : List (Nat × Bool)) (x : Option Snoop) : State := { windowed up with thm := { filter := l, snoop := x } }

theorem tracking_sound (l : List (Nat × Bool)) (x : Option Snoop) : (tracking l x).Sound := by
  refine sound_of _ rfl rfl rfl ?_
  show ∀ e ∈ (windowed up).bank, _
  decide

theorem tracking_window (l : List (Nat × Bool)) (x : Option Snoop) (len a : Nat) (h : (tracking [] none).windowTo a len a) :
    (tracking l x).windowTo a len a := h

/-- Accesses of 1 byte at the window's last byte of the last stack, of 64 bytes; a tracked granule; snoops with and without a
grant behind them; refused accesses. -/
theorem test_hyp_CompanionAccessesAreCoherent :
    ((tracking [] none).windowTo (11 * 2 ^ 36 + 32 * 2 ^ 30 - 1) 1 (11 * 2 ^ 36 + 32 * 2 ^ 30 - 1) ∧ (tracking [] none).windowTo 0 64 0) ∧
    ((tracking [] none).refusesWrite 0 = false ∧ (put F.hbParityMap_map 1 0 0 0 (tracking [] none)).refusesWrite 0 = true) ∧
    (up.flag F.thmMemBase_en = false ∧ (blockOf 0).any up.inReset = false ∧ 3 ∉ [1, 2, 4, 8, 16, 32, 64]) ∧
    ((tracking [(0, true)] (some { gran := 0, inval := true, back := none })).thm.snoop = some { gran := 0, inval := true, back := none }) ∧
    (let s : State := { tracking [(0, true)] (some { gran := 0, inval := true, back := none }) with now := 1000 }
     s.thm.snoop = some { gran := 0, inval := true, back := none } ∧ 0 + 1000 ≤ s.now) ∧
    ((tracking [(0, true)] (some { gran := 0, inval := true, back := some 1 })).thm.snoop =
      some { gran := 0, inval := true, back := some 1 } ∧ flushClass (64 * 1) = true ∧ flushClass (2 ^ 40) = false) := by
  unfold State.windowTo; decide +kernel

/-- A filter that is full, of another granule. -/
def full : List (Nat × Bool) := (1, true) :: List.replicate 524287 (2, true)

theorem full_length : full.length = 524288 := by
  unfold full; rw [List.length_cons, List.length_replicate]

theorem full_lacks (d : Bool) : (0, d) ∉ full := by
  unfold full
  rw [List.mem_cons, List.mem_replicate]
  rintro (h | ⟨-, h⟩) <;> cases h

theorem test_hyp_full_filter :
    (tracking full none).Sound ∧ (tracking full none).windowTo 0 64 0 ∧ flushClass 0 = true ∧
    (¬∃ d, (0 / 64, d) ∈ (tracking full none).thm.filter) ∧ 524288 ≤ (tracking full none).thm.filter.length ∧
    (tracking full none).thm.snoop = none :=
  ⟨tracking_sound _ _, tracking_window _ _ _ _ (by unfold State.windowTo; decide +kernel), by decide +kernel,
    fun ⟨d, h⟩ => full_lacks d h, Nat.le_of_eq full_length.symm, rfl⟩

/-- The module with the tempo controller's state changed, at a moment. -/
def tempo (x : Pwr) (now : Nat := 1000000) : State := { up with pwr := x, now := now }

theorem test_hyp_PowerFollowsInputAndRails :
    up.tempoOn = true ∧ lasted (some 0) 10 10 = true ∧ lasted (some 0) 100 100 = true ∧ 65000 < 65001 ∧
    ((tempo { inBrake := true, above40 := some 0 }).tempoOn = true ∧ lasted (some 0) 1000 (tempo {}).now = true) ∧
    (tempo { below40 := some 0 }).pwr.inBrake = false ∧ (tempo {}).pwr.highIn = false ∧
    ((tempo { ceil := [(12, 1)], under95 := [(12, some 0)] }).tempoOn = true ∧
      0 < Tab.get 0 (tempo { ceil := [(12, 1)], under95 := [(12, some 0)] }).pwr.ceil 12 ∧
      lasted (Tab.get none (tempo { under95 := [(12, some 0)] }).pwr.under95 12) 1000 (tempo {}).now = true) ∧
    (up.pwr.off = false ∧ 12 < 13) ∧ Tab.get 0 up.pwr.acted 8 = 0 ∧
    (let s := tempo { acted := [(8, 1000000)] }
     0 < Tab.get 0 s.pwr.acted 8 ∧ s.now + 1 < Tab.get 0 s.pwr.acted 8 + 100) ∧
    (∀ w ∈ up.sec.switches, w.kind ≠ 2) := by decide

theorem test_hyp_CuesAndDroop :
    (let p := pk 1 0x81 [0, 0, 0]
     (flying [p]).issued 0 1 0x81 p ∧ (put F.pwrCfg_cueEn 1 0 0 0 (flying [p])).flag F.pwrCfg_cueEn = true ∧
     (flying [p]).sec.switches = []) ∧
    (let q : Cue := { kind := 2, dies := 3, at_ := 0, start := 5, finish := 9, level := 0 }
     let s := tempo { cues := [q] }
     s.tempoOn = true ∧ s.pwr.cues[0]? = some q ∧ q.ended = false ∧ q.holding = false ∧ q.hold ≤ s.now ∧ q.names 1 = true) ∧
    (let q : Cue := { kind := 0, dies := 0, at_ := 0, start := 5, finish := 9, level := 0, begun := true }
     let s := tempo { cues := [q] }
     s.tempoOn = true ∧ s.pwr.cues[0]? = some q ∧ q.begun = true ∧ q.ended = false ∧ q.finish ≤ s.now ∧ q.counted = false ∧
     q.start + 20 ≤ s.now) ∧
    (let s := tempo { runs := [(1, (1000001, 7))] }
     s.tempoOn = true ∧ 1 ∉ s.pwr.droop ∧ Tab.get (0, 0) s.pwr.runs 1 = (s.now + 1, 7) ∧ (Tab.get (0, 0) s.pwr.runs 0).1 ≠ s.now + 1) ∧
    (let s := tempo { runs := [(1, (1000001, 8))] }
     s.tempoOn = true ∧ 1 ∉ s.pwr.droop ∧ (Tab.get (0, 0) s.pwr.runs 1).2 = 8) ∧
    1 ∈ (tempo { droop := [1] }).pwr.droop := by
  unfold State.issued; decide

/-- Sensors at their boundary readings; parts to step down and up; an idle module that may rest. -/
theorem test_hyp_TemperatureAndIdleStates :
    (up.tempoOn = true ∧ (put F.tmpSense_disabled 0 105 0 0 up).flag F.tmpSense_disabled 105 = false ∧
      Tab.get 0 (tempo { badReads := [(105, 1)] }).pwr.badReads 105 = 1 ∧ Tab.get 0 up.pwr.badReads 0 = 0 ∧ up.sensorOffset 0 = 0 ∧
      up.readDue 0 = true ∧ (tempo { badReads := [(105, 1)], reads := [(105, 999501)] }).readDue 105 = true) ∧
    (let s := put F.tmpSense_temp 1520 83 0 0 (put F.tmpSense_valid 1 83 0 0 (tempo {}))
     s.tempoOn = true ∧ s.hottest 2 = some 1520 ∧ Tab.get 0 s.pwr.stepped 2 + 100 ≤ s.now + 1) ∧
    (let s := put F.tmpSense_temp 1487 83 0 0 (put F.tmpSense_valid 1 83 0 0 (tempo { hot := [(2, 1)] } 2000000))
     s.hottest 2 = some 1487 ∧ 0 < Tab.get 0 s.pwr.hot 2 ∧ Tab.get 0 s.pwr.stepped 2 + 1000 ≤ s.now + 1) ∧
    (let s := put F.tmpSense_temp 100 105 0 0 (put F.tmpSense_valid 1 105 0 0 (put F.tmpExtLim_throttle 100 9 0 0 (tempo {})))
     s.tempoOn = true ∧ s.flag F.tmpSense_valid (96 + 9) = true ∧ signed 16 (s.fld F.tmpExtLim_throttle 9) ≤ s.temp 105 ∧
     Tab.get 0 s.pwr.stepped 25 + 1000 ≤ s.now + 1) ∧
    (let s := put F.tmpSense_temp 68 105 0 0 (put F.tmpSense_valid 1 105 0 0 (put F.tmpExtLim_throttle 100 9 0 0 (tempo { extLow := [(9, 50)] })))
     s.temp 105 ≤ signed 16 (s.fld F.tmpExtLim_throttle 9) - 32 ∧ 0 < Tab.get 0 s.pwr.extLow 9 ∧
     Tab.get 0 s.pwr.stepped 25 + 10000 ≤ s.now + 1) ∧
    (let s := tempo { alertOver := some 0 }
     s.tempoOn = true ∧ s.pwr.alerts = [] ∧ s.pwr.highIn = false ∧ lasted s.pwr.alertOver 1000 s.now = true) ∧
    (let s := put F.pwrIdleCfg_maxState 4 0 0 0 (tempo { since := [some 0, some 0, some 0, some 0] })
     s.tempoOn = true ∧ s.pwr.waking = false ∧ s.flag F.rstStatus_ready = true ∧ s.fld F.pwrStatus_idle < s.deepest) ∧
    ((tempo { waking := true }).pwr.waking = true ∧ (tempo { waking := true }).pwr.heldDebug = [] ∧
      2 ≤ (put F.pwrStatus_idle 2 0 0 0 (tempo { waking := true })).fld F.pwrStatus_idle) := by decide +kernel

theorem test_hyp_ResetsAreAsserted :
    (.link ∉ up.rst.closed ∧ .mgmt ∉ up.rst.closed ∧ .hub ∉ up.rst.closed ∧
      (put F.secDbgStatus_resetOk 1 0 0 0 up).flag F.secDbgStatus_resetOk = true) ∧
    (up.journal = [] ∧ (tempo { latched := true }).pwr.latched = true ∧ up.opens ⟨.rstSoft, 0, 0, 0⟩ = true) ∧
    (up.rst.soft = none ∧ up.softOk 0 1 39 = true ∧ (put F.featStacks_value 0 0 0 0 up).softOk 1 1 11 = true ∧ up.softOk 1 0 12 = false) ∧
    up.fabOwnRef = true ∧ up.fab.refDown = false := by decide

/-- A module in some resets. -/
def resetting (x : Rst) : State := { up with rst := x }

theorem test_hyp_ReleaseAndStartUp :
    (∀ src ∈ [0, 1, 2, 3, 5, 6, 7], src ∈ (resetting { sources := [src] }).rst.sources) ∧
    (let s := resetting { sources := [1], clearing := [] }
     (∀ x ∈ s.rst.sources, x = 1) ∧ .hub ∈ s.rst.closed ∧ .die 1 ∈ s.rst.closed ∧ .stack 11 ∈ s.rst.closed ∧
     11 ∉ s.tier.absent ∧ 11 ∉ s.rst.clearing ∧ s.rst.soft = none) ∧
    ((resetting { sources := [], unlocked := [0, 14] }).rst.unlocked = [0, 14]) ∧
    (11 ∈ (resetting { sources := [], published := true, clearing := [11] }).rst.clearing ∧
      (resetting { sources := [], published := true, clearing := [11] }).rst.published = true ∧ 7 ∈ (resetting { sources := [], wiping := [7] }).rst.wiping) ∧
    (let s := resetting { sources := [], closed := [.mgmt] }
     .mgmt ∈ s.rst.closed ∧ .hub ∉ s.rst.closed ∧ s.covered .mgmt = false ∧ s.lc ≠ 4) ∧
    (let s := resetting { sources := [], closed := [], firmware := true }
     s.rst.firmware = true ∧ s.rst.published = false ∧ .hub ∉ s.rst.closed) ∧
    (up.rst.published = true ∧ up.rst.clearing = [] ∧ up.rst.wiping = [] ∧ up.rst.sources = [] ∧ up.rst.unlocked = []) ∧
    (let s := resetting { sources := [], closed := [.stack 11], soft := some (1, 0, 11) }
     s.rst.soft = some (1, 0, 11) ∧ s.softDue 1 0 11 = true ∧ 11 ∉ s.tier.absent) ∧
    ({ up with fab := { refDown := true } } : State).fab.refDown = true := by decide

/-- The module with the monitor's state changed. -/
def monitor (x : Sec) (s : State := up) : State := { s with sec := x }

/-- A debug token stands in the stage window: magic, format and level; its key and every digest are zeros. -/
def tokened (level : Nat) (s : State) : State :=
  put F.secStage_word level 9 0 0 (put F.secStage_word (0x4E474454 + 2 ^ 32) 0 0 0 s)

theorem test_hyp_MonitorSignsMovesAndAuthenticates :
    (up.opens ⟨.secCmd, 0, 0, 0⟩ = true ∧ up.monitorFree ∧ (signing up).monitorFree ∧ (signing up).signWaits = false ∧
      (monitor { moving := some (1, [], 0) }).sec.moving ≠ none ∧ (monitor { recovery := true }).sec.recovery = true) ∧
    ((signing up).sec.chainOk = true ∧ (signing up).canSign = true) ∧ (monitor { raising := some 2048 }).sec.raising = some 2048 ∧
    (let s := monitor { seed := 1, next := 2 ^ 19 + 1, trees := [0] }
     s.sec.seed = 1 ∧ 2 ^ 19 < s.sec.next % 2 ^ 20 ∧ s.sec.next / 2 ^ 20 + 1 ∉ s.sec.trees) ∧
    (let s := monitor { seed := 1 }
     s.sec.cached = false ∧ s.sec.seed = 1 ∧ .hub ∉ s.rst.closed) ∧
    ((monitor { moving := some (4, [], 0) }).sec.moving = some (4, [], 0) ∧ 0 ≤ up.now) ∧
    (monitor { lockUntil := some 0 }).sec.lockUntil = some 0 ∧ (monitor { ends := some 0 }).sec.ends = some 0 ∧
    (let s := tokened 1 (monitor { fuses := 1 })
     s.monitorFree ∧ s.sec.lockUntil = none ∧ s.tokenOk (s.token 0) true = true ∧ (s.token 0).level = 1 ∧
     s.grantsLevel 1 true = true ∧ s.grantsLevel 3 true = false) ∧
    (let s := put F.secStage_word 4 0 0 0 (monitor { fuses := 1 })
     s.monitorFree ∧ s.lc = 1 ∧ 2 ≤ s.stageNum 0 4 ∧ s.stageNum 0 4 ≤ 4) ∧ up.lc ≠ 1 ∧
    (monitor { fails := 7, lockouts := 6 }).sec.fails + 1 = 8 := by
  unfold State.monitorFree; decide +kernel

/-- Transitions: each target in its state. -/
theorem test_hyp_transitions :
    let toward (target fuses : Nat) : State := put F.secStage_word (target + 0x5C4A9D01 * 2 ^ 32) 0 0 0 (monitor { fuses := fuses, chainOk := true })
    ((toward 1 0).monitorFree ∧ (toward 1 0).lc = 0 ∧ (toward 1 0).stageNum 0 1 % 8 = 1) ∧
    ((toward 2 1).lc = 1 ∧ (toward 2 1).stageNum 0 1 % 8 = 2 ∧ (toward 2 1).sec.chainOk = true) ∧
    ((toward 3 3).lc = 2 ∧ (toward 3 3).stageNum 0 1 % 8 = 3) ∧
    ((toward 4 7).lc < 4 ∧ (toward 4 7).stageNum 0 1 % 8 = 4 ∧ (toward 4 7).stageNum 4 4 = 0x5C4A9D01) ∧ (toward 4 15).lc = 4 := by
  unfold State.monitorFree; decide +kernel

/-- A token whose key is the one whose digest is fused for the vendor. -/
theorem test_hyp_vendor_token :
    let s := tokened 1 (monitor { fuses := 1, digests := [[], [], sha256 (List.replicate 60 0)] })
    s.vendorToken (s.token 0) = true := by decide +kernel

/-- A debug session of a level. -/
def debugging (level : Nat) (s : State := up) : State := put F.secDbgStatus_level level 0 0 0 s

/-- An overlay, GEN 0, of 510 entries, in the first place for one. -/
def overlaid : State :=
  let bs : List Byte := [0x4C, 0x43, 0x47, 0x4E, 0, 0, 0, 0, 0xFE, 1, 0, 0]
  { up with flash := (List.range 12).map fun i => (0x70000 + i, bs.getD i 0) }

theorem test_hyp_DebugPortFirmwareAndSideband :
    (up.fld F.secDbgStatus_level = 0 ∧ (debugging 1).fld F.secDbgStatus_level = 1 ∧ debugBlk 0 0x100010 = some .hub ∧
      (debugging 1).blockDown .hub = false ∧ (debugging 1).inReset .hub = false) ∧
    (let s := put F.pwrStatus_idle 4 0 0 0 (debugging 2)
     s.debugGrants true 1 (2 ^ 40) = true ∧ debugBlk 1 (2 ^ 40) = some .deep ∧ s.blockDown .deep = true ∧
     s.fld F.secDbgStatus_level = 2) ∧
    (let s := put F.pwrStatus_idle 2 0 0 0 (debugging 1 (monitor { fuses := 1 }))
     s.debugGrants false 1 0 = true ∧ debugBlk 1 0 = some (.stack 0) ∧ s.blockDown (.stack 0) = true ∧
     s.fld F.secDbgStatus_level ≠ 2) ∧
    (debugBlk 1 8 = some (.stack 0) ∧ (debugging 2).blockDown (.stack 0) = false ∧ (debugging 2).inReset (.stack 0) = false ∧
      (debugging 2).backed 8 = true ∧ (debugging 2).refusesWrite 8 = false) ∧
    (up.opens ⟨.secCmd, 0, 0, 0⟩ = true ∧ up.sec.moving = none ∧ up.sec.recovery = false) ∧
    (let s := put F.secStage_word 0x100 0 0 0 (put F.secStage_word 32512 1 0 0 up)
     s.stageNum 8 8 ≤ 32512 ∧ bits (s.stageNum 0 8) 3 0 = 0 ∧ bits (s.stageNum 0 8) 8 8 ≠ s.activeSlot 0 ∧
     bits (up.stageNum 0 8) 8 8 = up.activeSlot 0 ∧ s.signWaits = false) ∧
    (∀ e ∈ [(1, 7), (2, 0), (3, 0), (4, 31), (5, 47), (4, 0), (5, 0), (1, 0)],
      let w : Switch := { kind := e.1, next := e.2 }
      (monitor { switches := [w] }).switching e.1 = some w ∧ w.kind = e.1 ∧ (monitor { switches := [w] }).unitsIdle e.2 = true) ∧
    up.callerIdle 7 = true ∧ up.inReset .hub = false ∧ (0xA8 : Byte).toNat % 16 = 8 := by decide +kernel

theorem test_hyp_session_sound : (debugging 2).Sound := sound_of _ rfl rfl rfl (by decide)

/-- A place without an overlay, and one whose overlay names too many entries. -/
theorem test_hyp_overlay :
    up.overlayAt 0x70000 = none ∧ overlaid.overlayAt 0x70000 = some (0, .error 0) := by
  have four (s : State) (a k : Nat) (h : k + 4 ≤ 4096) : ((s.flashBytes a 4096).drop k).take 4 =
      (List.range' k 4).map fun i => Map.get flashDefault s.flash (a + i) := by
    unfold State.flashBytes
    rw [List.range_eq_range', ← List.map_drop, ← List.map_take, List.drop_range', show 4096 - k = 4 + (4092 - k) by omega]
    simp only [Nat.zero_add, Nat.mul_one]
    rw [← List.range'_append_1, List.take_left' (by simp)]
  have zero (s : State) (a : Nat) := four s a 0 (by omega)
  simp only [List.drop_zero] at zero
  constructor
  · simp only [State.overlayAt, overlayGen, zero]
    rfl
  · have : 509 < ofBytes (((overlaid.flashBytes 0x70000 4096).drop 8).take 4) := by
      rw [four _ _ 8 (by omega)]; decide
    simp only [State.overlayAt, overlayGen, zero, four _ _ 4 (by omega : 4 + 4 ≤ 4096), if_pos (Or.inr this)]
    rfl

/-- Numbers of every format that convert finitely, to infinity, to a NaN. -/
theorem test_hyp_ConversionRoundsToNearestEven :
    (∀ fmt ∈ [0, 1, 2, 3, 4], ∃ w ∈ [0x7FFF, 0x7F, 0x7FFFFFFF], elemNum fmt w = .nan) ∧
    (∀ fmt ∈ [0, 1, 2, 3, 4], elemNum fmt (convert fmt (.fin false 1 0)).1 ≠ .nan) := by decide +kernel

/-! ### Ill-formed commands, one for each check -/

theorem test_wf_registers_and_groups :
    [Instr.registerWrite 2 4 0, .registerWrite 0x10000000 4 0, .registerWrite 0 2 0, .commitGo (.stkMap 12), .commitLock (.stkReg 12),
     .commitApply (.schPart 16), .sqDoorbell 256 0 0, .sqDoorbell 0 4 0, .sqDoorbell 0 0 8192, .sqAbort 256 0, .sqResume 0 4,
     .cqEnable 256, .eventCounterWrite 256 0 0, .eventCounterWrite 0 32 0].all (fun i => !i.wf) = true := by decide

theorem test_wf_cores_memory_and_units :
    [Instr.tileReexecution 256 0 0 0 0 1, .tileReexecution 0 0 2 0 0 1, .tileReexecution 0 0 0 40 0 1, .tileReexecution 0 0 0 0 130 1,
     .tileReexecution 0 0 0 0 0 0, .tileReexecution 0 0 0 0 0 13, .spareTakeover 2 0 0, .spareTakeover 0 40 0, .spareTakeover 0 0 130,
     .setRetire 2 0, .setTest 0 40, .meshFlitRetry 2 0 0 true, .meshFlitRetry 0 40 0 true, .meshFlitRetry 0 0 4 true, .perfSnap 2,
     .bulkAgePromote 13 0, .bulkAgePromote 0 16, .mergeTimeout (2 ^ 42), .scrubGranule 13 0, .channelFail 208 true, .mapoutStart 13,
     .nearEnter 384 (poke 0 0), .nearExit 384 (poke 0 0), .unitCommandWrite 12 0 0x1000 [] 0, .unitCommandWrite 0 32 0x1000 [] 0,
     .unitTicketRelease 12 0 (poke 0x2000 0), .join 384 0 true, .join 0 32 true].all (fun i => !i.wf) = true := by decide

theorem test_wf_serving_scheduling_and_fabric :
    [Instr.reqSnapshot 8192, .adapterSnapshot 4096, .tlbInvalidate true 16 0 0, .contextEnable 256 0 true, .contextEnable 0 16 true,
     .partitionTeardown 16, .cardSlotStart 64, .contextSaveDone 256 0 0, .contextSaveDone 0 2 0, .contextSaveDone 0 0 40,
     .faultResolveRetry (2 ^ 32), .frameReceive 48 [], .peerLoad 1024, .retransmitTimeout 1024 0, .retransmitTimeout 0 (2 ^ 32),
     .holdTimer 1024 0, .holdTimer 0 512, .groupArm 1024, .laneFail 48 0, .laneFail 0 8, .portEnable 48].all (fun i => !i.wf) = true := by
  decide

theorem test_wf_link_power_and_reset :
    [Instr.linkTrainingDone (2 ^ 32), .linkLaneLoss 32, .companionMemRead 0 0, .companionWriteback 0 [] true, .vectorUnmask 256,
     .railCeilingRecovery 13, .sensorRead 96 0 false, .externalSensorRead 95 0 false, .externalSensorRead 106 0 false, .thermalStep 3,
     .extThrottleStep 10, .idleWake 5, .debugReset 64, .softReset 4 0 0, .softReset 0 2 0, .softReset 0 0 64, .stackClearDone 12,
     .deepWipeDone 16, .wipeTimeout false 12, .wipeTimeout true 16, .i3cSetdasa 128, .pllLock 15,
     .mgmtMemoryUncorrectable 4].all (fun i => !i.wf) = true := by decide

/-! ### Results worked out by hand from the spec, and published test vectors -/

/-- CRC-32 of the ASCII digits 1 to 9; SHA-256 of "abc" (FIPS 180-4); SipHash-2-4 of its paper. -/
theorem test_hashes :
    crc32 ((List.range 9).map fun i => BitVec.ofNat 8 (0x31 + i)) = 0xCBF43926 ∧
    ofBytesBE (sha256 [0x61, 0x62, 0x63]) = 0xba7816bf8f01cfea414140de5dae2223b00361a396177a9cb410ff61f20015ad ∧
    sipHash 0x0706050403020100 0x0f0e0d0c0b0a0908 ((List.range 15).map (BitVec.ofNat 8)) = 0xa129ca6149be45e5 := by decide +kernel

/-- Test case 14 of the GCM specification: a block of zeros under a key of zeros. -/
theorem test_aes_gcm :
    let key : List Byte := List.replicate 32 0
    let nonce : List Byte := List.replicate 12 0
    let ct := toBytesBE 16 0xcea7403d4d606b6e074ec5d3baf39d18
    gcmCrypt key nonce (List.replicate 16 0) = ct ∧ ofBytesBE (gcmTag key nonce [] ct) = 0xd0d1c8a799996bf0265b98b5d48ab919 := by
  decide +kernel

/-- The worked example of R123: 0.3 and 500.0 to E4M3. -/
theorem test_convert_e4m3 : convert 3 (of32 0x3E99999A) = (0x2A, false) ∧ convert 3 (of32 0x43FA0000) = (0x7E, true) := by decide

/-- The MXFP4 block of chapter 04's worked example. -/
theorem test_mx_block :
    ((mxBlock 7 ([0x40A00000, 0xBE99999A, 0x41300000, 0x3D4CCCCD].map of32 ++ List.replicate 28 (.zero false))).1,
     (mxBlock 7 ([0x40A00000, 0xBE99999A, 0x41300000, 0x3D4CCCCD].map of32 ++ List.replicate 28 (.zero false))).2.1.take 4) =
    (128, [4, 8, 7, 0]) := by decide +kernel

/-- The first group of the KV4B example of chapter 08: 3.5, -1.2, 0.3. -/
theorem test_kv_group : (kvGroup 0x1C00 ([0x40600000, 0xBF99999A, 0x3E99999A] ++ List.replicate 13 0)).1 = 0x70 ∧
    (kvGroup 0x1C00 ([0x40600000, 0xBF99999A, 0x3E99999A] ++ List.replicate 13 0)).2.take 3 = [7, 0xE, 1] := by decide +kernel

/-- Step 1 of the sampling example of chapter 09: tokens 5 (drawn once) and 40 (three times). -/
theorem test_penalties :
    let x : Draw := ⟨0x3F000000, 0x3F666666, 4, 0x40000000, 0x3E000000, 0x3E000000, 0, 0, 37, [2 ^ 63 + 2 ^ 32 + 5, 2 ^ 63 + 3 * 2 ^ 32 + 40]⟩
    x.penalise 17 0x3F800000 = 0x3F800000 ∧ x.penalise 5 0x40000000 = 0x3F400000 ∧ x.penalise 40 0 = 0xBF000000 := by decide +kernel

/-- A flip within one symbol is corrected, in two symbols it is not (the example of R191); the exact poison pattern. -/
theorem test_code :
    let g (x : Nat) : Nat := encode (toBytes 8 x ++ List.replicate 56 0)
    decode (g 0x8001) = .single 4 0x8001 ∧ decode (g 0x10001) = .bad ∧ decode poisonDev = .bad := by decide +kernel

/-- The map-out example of R203: logical block (7000, 19) of ST4 after channel 9 has gone. -/
theorem test_mapout_home :
    let s := force F.stkMapDead_dead 0x200 4 0 0 up
    s.physUnit 0x436B130000 = 4 * 32 + 23 ∧ targetOf 0x436B130000 = 4 ∧ rowOf 0x436B130000 = 7000 ∧ unitOf 0x436B130000 = 19 := by decide

/-- What a command leaves, as far as a test looks. -/
def leaves {β : Type} (i : Instr) (s : State) (f : State → β) : Option β :=
  match exec i s with
  | .next t => some (f t)
  | _ => none

/-- A write of 4 bytes at an odd word is an error; the doorbell of queue 3 of context 255. -/
theorem test_register_commands :
    leaves (.registerWrite 0x100002 4 0) up (fun t => (t.flag F.hbRegErr_misaligned, t.out)) = some (true, [.linkError]) ∧
    leaves (.sqDoorbell 255 3 1) up (fun t => t.fld F.clrSqDb_tail 255 3) = some 1 := by decide +kernel

/-- S5 := S0 + 9 and a store of the value 77 captured at issue. -/
theorem test_packet_commands :
    leaves (.scalarOp 0 1) (flying [pk 1 2 [0, 0, 5 + 2 ^ 24, 9]]) (fun t => (t.pkt 0 1).map Pkt.st) = some (some .done) ∧
    leaves (.storeScalar 0 1) (mflying [{ pk 1 8 [0, 0, 0, 0x100] with aux := [77] }]) (fun t => (t.seen 0x100, t.seen 0x101)) = some (77, 0) := by
  decide +kernel

/-- Beat 1 of chapter 03's example: the first strike of a core; a later one within the window retires it. -/
theorem test_strikes :
    leaves (.tileReexecution 0 1 0 0 42 1) (held0 (mflying [pk 1 0x10 []]))
      (fun t => (t.fld F.cdCoreStatus_strikes 0 0 42, t.flag F.cdCoreStatus_retired 0 0 42)) = some (1, false) ∧
    leaves (.tileReexecution 0 1 0 0 42 1) { held0 (mflying [pk 1 0x10 []]) with strikes := [{ loc := coreLoc 0 0 42, unit := false, time := 0 }] }
      (fun t => (t.fld F.cdCoreStatus_strikes 0 0 42, t.flag F.cdCoreStatus_retired 0 0 42)) = some (2, true) := by decide +kernel

/-- A die sensor at 115 °C trips the module (R395); a droop fallback halves the clock (R392); a rail over its 1 us limit gates. -/
theorem test_power_commands :
    leaves (.sensorRead 0 1840 false) up (fun t => (t.pwr.off, t.reg ⟨.tmpTripCause, 0, 0, 0⟩)) = some (true, 2 ^ 31) ∧
    leaves (.railCheck 4 1000000000 0 0 0) up (fun t => t.pwr.gated.contains 4) = some true := by decide +kernel

/-- A parity command over rows in the wrong order is refused (R193); a lane of a 32-lane link fails and the link trains at half width. -/
theorem test_refusals_and_links :
    leaves (.paritySeal 2 1) up (fun t => t.flag F.hbParityStatus_refused) = some true ∧
    leaves (.linkTrainingDone 0xFFFF) (put F.thmLinkStatus_state 1 0 0 0 up) (fun t => (t.fld F.thmLinkStatus_state,
      t.fld F.thmLinkStatus_widthActive)) = some (2, 1) := by decide +kernel

/-- The front command leaves the queue and runs; an empty queue idles. -/
theorem test_step : (match step { up with pending := [.mrstAssert] } with
    | .next t => t.pending.isEmpty && t.rst.sources.contains 1
    | _ => false) = true ∧ (match step up with | .next t => t.now == 0 | _ => false) = true := by decide +kernel
end Sys2Proof.Tests
end

section
/-!
PROOFS. The data invariant: every effect keeps it, so every command does; the bits that a register reserves are 0 (R7).
-/
namespace Sys2Proof.Machine

variable {s0 : State}

/-! ### The bits a register holds -/

/-- A number whose set bits all lie among a register's held bits: what a register can hold (R7). -/
def RegName.Holds (n : RegName) (v : Nat) : Prop := v &&& n.held = v

theorem RegName.held_lt (n : RegName) : n.held < 2 ^ 64 := by cases n <;> decide

theorem RegName.holds_reset (n : RegName) : n.Holds n.spec.reset := by cases n <;> rfl

theorem RegName.holds_iff (n : RegName) (v : Nat) : n.Holds v ↔ ∀ b, n.held.testBit b = false → v.testBit b = false := by
  constructor
  · intro h b hb
    rw [← h, Nat.testBit_and, hb, Bool.and_false]
  · intro h
    refine Nat.eq_of_testBit_eq fun b => ?_
    rw [Nat.testBit_and]
    cases hb : n.held.testBit b
    · rw [h b hb]; rfl
    · exact Bool.and_true _

theorem RegName.Holds.lt {n : RegName} {v : Nat} (h : n.Holds v) : v < 2 ^ 64 := h ▸ Nat.and_lt_two_pow _ n.held_lt

/-- What is stored of a number that a register can hold is that number. -/
theorem RegName.Holds.stored {n : RegName} {v : Nat} (h : n.Holds v) : v % 2 ^ 64 &&& n.held % 2 ^ 64 = v := by
  rw [Nat.mod_eq_of_lt h.lt, Nat.mod_eq_of_lt n.held_lt, h]

theorem RegName.Holds.setBits {f : Fld} {w : Nat} (hf : f.fits = true) (hw : f.reg.Holds w) (v : Nat) :
    f.reg.Holds (setBits w f.hi f.lo v) := by
  simp only [Fld.fits, Bool.and_eq_true, decide_eq_true_eq, List.all_eq_true, List.mem_range] at hf
  obtain ⟨⟨hle, -⟩, hheld⟩ := hf
  rw [holds_iff] at hw ⊢
  intro b hb
  rw [testBit_setBits _ _ _ _ _ (by omega)]
  split
  · next hin =>
    have := hheld (b - f.lo) (by omega)
    rw [Nat.add_sub_cancel' hin.1, hb] at this
    cases this
  · exact hw b hb

theorem RegName.Holds.mod {n : RegName} {v : Nat} (h : n.Holds v) : n.Holds (v % 2 ^ 64) := by rwa [Nat.mod_eq_of_lt h.lt]

/-- A register's reset value has 0 in its reserved bits, whatever the indexes. -/
theorem Reg.holds_reset (r : Reg) : r.name.Holds r.reset.toNat := by
  rcases r with ⟨n, i, j, k⟩
  unfold Reg.reset
  rw [BitVec.toNat_ofNat]
  dsimp only
  split
  · exact (RegName.Holds.setBits (f := F.cdId_die) rfl (RegName.holds_reset .cdId) i).mod
  · exact (RegName.Holds.setBits (f := F.cdCoreStatus_logical) rfl (RegName.holds_reset .cdCoreStatus) _).mod
  · exact Nat.and_two_pow_sub_one_of_lt_two_pow (Nat.mod_lt _ (Nat.two_pow_pos 64))
  · split
    · rfl
    · exact (RegName.holds_reset .pwrDie).mod
  · refine RegName.Holds.mod ?_
    unfold railLimits
    split <;> rfl
  · exact (RegName.holds_reset n).mod

/-! ### Register files in canonical form -/

theorem Map.get_mem {κ α : Type} [DecidableEq κ] (d : κ → α) (l : List (κ × α)) (k : κ) :
    Map.get d l k = d k ∨ (k, Map.get d l k) ∈ l := by
  induction l with
  | nil => exact .inl rfl
  | cons e l ih =>
    unfold Map.get
    split
    · next h => subst h; exact .inr (List.mem_cons_self ..)
    · exact ih.imp_right (List.mem_cons_of_mem _)

/-- A register of a canonical file has 0 in its reserved bits. -/
theorem Bank.holds_get {b : Bank} (h : Bank.wf b = true) (r : Reg) : r.name.Holds (Bank.get b r).toNat := by
  simp only [Bank.wf, Bool.and_eq_true, List.all_eq_true, beq_iff_eq] at h
  rcases Map.get_mem Reg.reset b r with hd | hm
  · exact (congrArg (fun v => r.name.Holds v.toNat) hd).mpr r.holds_reset
  · have := congrArg BitVec.toNat (h.2 _ hm).2
    rwa [BitVec.toNat_and, BitVec.toNat_ofNat, Nat.mod_eq_of_lt r.name.held_lt] at this

theorem Bank.wf_put {b : Bank} (h : Bank.wf b = true) (r : Reg) (v : W64) : Bank.wf (Bank.put b r v) = true := by
  unfold Bank.put
  split
  · next hx =>
    simp only [Bank.wf, Bool.and_eq_true, List.all_eq_true, beq_iff_eq] at h ⊢
    refine ⟨Map.wf_put Reg.lt_order _ _ _ h.1, fun e he => ?_⟩
    unfold Map.put Map.erase at he
    split at he
    · exact h.2 e (List.mem_of_mem_filter he)
    · rcases Map.mem_insert _ _ _ _ he with rfl | hm
      · exact ⟨hx, by rw [BitVec.and_assoc, BitVec.and_self]⟩
      · exact h.2 e (List.mem_of_mem_filter hm)
  · exact h

theorem Bank.wf_filter {b : Bank} (h : Bank.wf b = true) (p : Reg × W64 → Bool) : Bank.wf (b.filter p) = true := by
  simp only [Bank.wf, Bool.and_eq_true, List.all_eq_true] at h ⊢
  exact ⟨Map.wf_filter _ _ h.1, fun e he => h.2 e (List.mem_of_mem_filter he)⟩

/-! ### The invariant -/

theorem Eff.apply_inv (e : Eff) (s : State) (h : s.Inv) : (e.apply s).Inv := by
  cases e with
  | reg r v => exact { h with bank := Bank.wf_put h.bank r v }
  | force r v => exact { h with force := Bank.wf_put h.force r v }
  | snap r v => exact { h with snap := Bank.wf_put h.snap r v }
  | dropRegs p =>
    exact { h with bank := Bank.wf_filter h.bank _, force := Bank.wf_filter h.force _, snap := Bank.wf_filter h.snap _ }
  | byte a v => exact { h with mem := Eff.apply_mem_wf (.byte a v) s h.mem }
  | dropMem p => exact { h with mem := Eff.apply_mem_wf (.dropMem p) s h.mem }
  | flash a v => exact { h with flash := Eff.apply_flash_wf (.flash a v) s h.flash }
  | eraseFlash p => exact { h with flash := Eff.apply_flash_wf (.eraseFlash p) s h.flash }
  | chk g v => exact { h with chk := Tab.wf_put _ _ _ _ h.chk }
  | que k v => exact { h with que := Tab.wf_put _ _ _ _ h.que }
  | ctxs k v => exact { h with ctxs := Tab.wf_put _ _ _ _ h.ctxs }
  | slots k v => exact { h with slots := Tab.wf_put _ _ _ _ h.slots }
  | adapters k v => exact { h with adapters := Tab.wf_put _ _ _ _ h.adapters }
  | keys k v => exact { h with keys := Tab.wf_put _ _ _ _ h.keys }
  | units k v => exact { h with units := Tab.wf_put _ _ _ _ h.units }
  | sets k v => exact { h with sets := Tab.wf_put _ _ _ _ h.sets }
  | queClear => exact { h with que := rfl }
  | ctxsClear => exact { h with ctxs := rfl }
  | slotsClear => exact { h with slots := rfl }
  | adaptersClear => exact { h with adapters := rfl }
  | keysClear => exact { h with keys := rfl }
  | unitsClear => exact { h with units := rfl }
  | setsClear => exact { h with sets := rfl }
  | _ => exact { h with }

/-- A meaning that is an action answers a state that a run of effects leads to. -/
theorem M.go_reaches {s t : State} {m : M s Unit} (h : M.go s m = .next t) : Reach s t := by
  cases h
  exact (m ⟨s, Reach.refl s⟩).2.2

/-- Whatever command answers a next state, a run of effects leads to it: every arm of the dispatcher is an action, but for an
input sample beyond the ratings, which stops. -/
theorem exec_reaches {i : Instr} {s t : State} (h : exec i s = .next t) : Reach s t := by
  cases i with
  | inputSample mv ma =>
    change execInputSample mv ma s = _ at h
    unfold execInputSample at h
    split at h
    · cases h
    · exact M.go_reaches h
  | _ => exact M.go_reaches h

theorem exec_inv {i : Instr} {s t : State} (hs : s.Inv) (h : exec i s = .next t) : t.Inv :=
  (exec_reaches h).preserves State.Inv Eff.apply_inv hs

/-- The invariant does not speak of the queue of waiting commands. -/
theorem State.Inv.withPending {s : State} (h : s.Inv) (cs : List Instr) : State.Inv { s with pending := cs } := { h with }

theorem step_inv {s t : State} (hs : s.Inv) (h : step s = .next t) : t.Inv := by
  unfold step at h
  split at h
  · cases h; exact hs
  · exact exec_inv (hs.withPending _) h

/-- Settles O4: everything is empty or at its reset value. -/
theorem resetMeetsInvariant : Obligations.ResetMeetsInvariant := by
  unfold Obligations.ResetMeetsInvariant
  constructor <;> rfl

/-- Settles O5: a step is a run of elementary effects, each of which keeps the invariant. -/
theorem everyStepKeepsInvariant : Obligations.EveryStepKeepsInvariant := by
  unfold Obligations.EveryStepKeepsInvariant
  exact fun _ _ hs h => step_inv hs h

end Sys2Proof.Machine
end

section
/-!
PROOFS. Register writes (R6 to R8): what a write stores depends on held bits alone (R7), and what it makes of a register that
has no limit, lock or action of its own.
-/
namespace Sys2Proof.Machine

variable {s0 : State}

theorem State.holds_reg {s : State} (h : s.Inv) (r : Reg) : r.name.Holds (s.reg r) := Bank.holds_get h.bank r

theorem RegName.Holds.testBit {n : RegName} {v b : Nat} (h : n.Holds v) (hb : n.held.testBit b = false) :
    v.testBit b = false := (n.holds_iff v).1 h b hb

/-- A read outside the counters shown live returns no bit that is not readable (R6). -/
theorem State.regRead_eq {s : State} {r : Reg} (h1 : r.name ≠ .srvCounter) (h2 : r.name ≠ .thmTimePair)
    (h3 : isPerf r.name = false) : s.regRead r = s.reg r &&& r.name.readable := by
  unfold State.regRead
  split
  · next h => exact absurd h h1
  · next h => exact absurd h h2
  · exact if_neg (by simp [h3])

/-! ### A write looks at held bits alone -/

theorem RegName.holds_rw (n : RegName) : n.Holds (n.spec.rw ||| n.heldWo) := by cases n <;> rfl
theorem RegName.holds_w1c (n : RegName) : n.Holds n.spec.w1c := by cases n <;> rfl
theorem RegName.holds_wo (n : RegName) : n.Holds n.spec.wo := by cases n <;> rfl

/-- Two data words agree in the masked bits that a register holds. -/
def RegName.Agree (n : RegName) (mask d e : Nat) : Prop := d &&& (mask &&& n.held) = e &&& (mask &&& n.held)

theorem RegName.Agree.and_eq {n : RegName} {mask d e k : Nat} (h : n.Agree mask d e) (hk : n.Holds k) :
    d &&& (k &&& mask) = e &&& (k &&& mask) := by
  have hm : k &&& mask = (mask &&& n.held) &&& k := by
    conv_lhs => rw [← hk]
    ac_rfl
  have h' : d &&& (mask &&& n.held) = e &&& (mask &&& n.held) := h
  rw [hm, ← Nat.and_assoc, h', Nat.and_assoc]

theorem State.merged_congr (s : State) {r : Reg} {mask d e : Nat} (h : r.name.Agree mask d e) :
    s.merged r mask d = s.merged r mask e := by
  have hclr : r.name.spec.w1c &&& mask &&& d = r.name.spec.w1c &&& mask &&& e := by
    rw [Nat.and_comm _ d, Nat.and_comm _ e, h.and_eq r.name.holds_w1c]
  simp only [State.merged, hclr, h.and_eq r.name.holds_rw]

theorem regWrite_congr {r : Reg} {mask d e : Nat} (h : r.name.Agree mask d e) :
    (regWrite r mask d : M s0 Unit) = regWrite r mask e := by
  have hwo : d &&& mask &&& r.name.spec.wo = e &&& mask &&& r.name.spec.wo := by
    rw [Nat.and_assoc, Nat.and_assoc, Nat.and_comm mask, h.and_eq r.name.holds_wo]
  simp only [regWrite, State.merged_congr _ h, hwo]

/-! ### The access of a whole register -/

theorem RegName.width_eq (n : RegName) : n.spec.width = 32 ∨ n.spec.width = 64 := by
  cases n <;> first | exact .inl rfl | exact .inr rfl

/-- An access of a register's own width at its offset writes the whole of it and nothing else (R8). -/
theorem accessParts_own {off : Nat} {r : Reg} (hr : regAtOffset off = some r) (data : W64) :
    accessParts off (r.name.spec.width / 8) data.toNat =
      [(r, 2 ^ r.name.spec.width - 1, data.toNat % 2 ^ r.name.spec.width)] := by
  rcases r.name.width_eq with hw | hw
  · simp [accessParts, halfAt, hr, hw]
  · simp [accessParts, hr, hw, Nat.mod_eq_of_lt data.isLt]

theorem RegName.agree_of_testBit {n : RegName} {w d e : Nat}
    (h : ∀ b, b < w → n.held.testBit b = true → d.testBit b = e.testBit b) : n.Agree (2 ^ w - 1) (d % 2 ^ w) (e % 2 ^ w) := by
  refine Nat.eq_of_testBit_eq fun b => ?_
  simp only [Nat.testBit_and, Nat.testBit_mod_two_pow, Nat.testBit_two_pow_sub_one]
  by_cases hb : b < w
  · cases hh : n.held.testBit b
    · simp
    · simp [h b hb hh]
  · simp [hb]

/-- Settles O7: files in canonical form hold held bits alone, a read masks what it returns, every command keeps the invariant,
and a write masks the data before it looks at them. -/
theorem reservedBitsReadZero : Obligations.ReservedBitsReadZero := by
  unfold Obligations.ReservedBitsReadZero
  refine ⟨fun s r b hs hb => ?_, fun s r b _ h1 h2 h3 hb => ?_, fun i s t r b hs ht hb => ?_, fun s r off d e hr h => ?_⟩
  · exact ⟨(s.holds_reg hs r).testBit hb, (Bank.holds_get hs.force r).testBit hb, (Bank.holds_get hs.snap r).testBit hb⟩
  · rw [State.regRead_eq h1 h2 h3, Nat.testBit_and, hb, Bool.and_false]
  · exact (t.holds_reg (exec_inv hs ht) r).testBit hb
  · change execRegisterWrite _ _ _ _ = execRegisterWrite _ _ _ _
    simp only [execRegisterWrite, accessParts_own hr, each_cons, regWrite_congr (RegName.agree_of_testBit h)]

/-! ### A write that completes -/

theorem answers_of_go {i : Instr} {s : State} {m : M s Unit} (h : exec i s = M.go s m) {P : State → Prop}
    (hP : P (after m ⟨s, Reach.refl s⟩)) : Answers i s P := ⟨_, h, hP⟩

/-- An access to a block that answers goes through. -/
theorem throughWindow_opens {off : Nat} {t : { t : State // Reach s0 t }} (h : t.1.opensAt off = true) (act : M s0 Unit) :
    throughWindow off act t = act t := by
  unfold State.opensAt at h
  unfold throughWindow
  rw [bind_run, cur_run]
  split at h
  · next b blk hw =>
    simp only [Bool.and_eq_true, Bool.not_eq_true', Bool.or_eq_true, beq_iff_eq] at h
    obtain ⟨hr, ho⟩ := h
    simp only [hw, hr, Bool.false_eq_true, if_false]
    rw [if_neg]
    rintro ⟨hf, h0, h2, h3, h9⟩
    simp [hf, h0, h2, h3, h9] at ho
  · cases h

/-- The registers of O8: no limit, lock or action of their own. -/
def plainRegs : List RegName :=
  [.hbRegErr, .hbEncoreCfg, .pwrStatus, .rstCause, .secStage, .srvPfxCfg, .srvStatus, .fabStatus, .fabInjSeed, .stkArbCfg,
   .stkScrubStatus, .stkScrubAlarmUs, .dtArbCfg, .cdStrikeCfg, .cdSetStatus, .clrCtxStatus, .schCtxState, .galUnitState]

/-- A write of a plain register stores what its access types make of the data, and does nothing else. -/
theorem regWrite_plain {r : Reg} (h : r.name ∈ plainRegs) (mask data : Nat) (t : { t : State // Reach s0 t }) :
    (regWrite r mask data : M s0 Unit) t = setReg r (t.1.merged r mask data) t := by
  rcases r with ⟨n, i, j, k⟩
  fin_cases h <;> rfl

/-- What a plain register can hold of a write that covers its width: RW bits take the data, W1C bits written 1 become 0. -/
theorem testBit_merged {s : State} {r : Reg} {w d b : Nat} (hr : r.name.heldWo = 0) (hb : b < w) :
    (s.merged r (2 ^ w - 1) (d % 2 ^ w)).testBit b =
      if r.name.spec.rw.testBit b then d.testBit b
      else (s.reg r).testBit b && !(r.name.spec.w1c.testBit b && d.testBit b) := by
  simp only [State.merged, hr, Nat.or_zero, Nat.testBit_or, Nat.testBit_xor, Nat.testBit_and, Nat.testBit_mod_two_pow,
    Nat.testBit_two_pow_sub_one, hb, decide_true, Bool.true_and, Bool.and_true]
  cases r.name.spec.rw.testBit b <;> cases (s.reg r).testBit b <;> simp

theorem heldWo_plain {n : RegName} (h : n ∈ plainRegs) : n.heldWo = 0 := by fin_cases h <;> rfl

/-- The register found at an offset exists. -/
theorem exists_of_regAtOffset {off : Nat} {r : Reg} (h : regAtOffset off = some r) : r.exists = true := by
  obtain ⟨n, -, hn⟩ := List.exists_of_findSome?_eq_some h
  simp only [RegName.at?, Option.ite_none_left_eq_some, Option.ite_none_right_eq_some] at hn
  obtain ⟨-, ⟨-, hx⟩, he⟩ := hn
  exact Option.some.inj he ▸ hx

/-- An access to a block that answers, whatever it is: the outcome. -/
theorem exec_registerWrite_opens {s : State} {off width : Nat} (data : W64) (hw : width = 4 ∨ width = 8)
    (ha : off % width = 0) (ho : s.opensAt off = true) :
    exec (.registerWrite off width data) s =
      M.go s (each (accessParts off width data.toNat) fun e => regWrite e.1 e.2.1 e.2.2) := by
  change M.go s _ = _
  rw [if_neg (by omega), M.go_next, M.go_next]
  unfold M.result
  rw [throughWindow_opens ho]

theorem misaligned_answers {s : State} {off width : Nat} (data : W64) (hm : (width ≠ 4 ∧ width ≠ 8) ∨ off % width ≠ 0)
    (hh : s.inReset .hub = false) : Answers (.registerWrite off width data) s fun t =>
      t.flag F.hbRegErr_misaligned = true ∧ t.out = s.out ++ [.linkError] ∧ SameRegs [.hbRegErr] s t ∧ SameStore s t := by
  refine answers_of_go (m := do setFlag F.hbRegErr_misaligned true; linkError) ?_ ⟨?_, rfl, ?_, rfl, rfl, rfl, rfl⟩
  · change M.go s _ = _
    rw [if_pos hm, if_pos hh]
  · exact bne_iff_ne.2 (ne_of_eq_of_ne (fld_after_setF F.hbRegErr_misaligned 1 0 0 0 ⟨s, Reach.refl s⟩ rfl rfl (by decide))
      (by decide))
  · intro r hr
    exact reg_after_setF_ne F.hbRegErr_misaligned 1 0 0 0 r ⟨s, Reach.refl s⟩ fun h => hr (h ▸ List.mem_cons_self ..)

/-- A write of the whole of a plain register. -/
theorem plainWrite_answers {s : State} {r : Reg} {off : Nat} (data : W64) (hr : regAtOffset off = some r)
    (ho : s.opensAt off = true) (ha : off % (r.name.spec.width / 8) = 0) (hn : r.name ∈ plainRegs) :
    Answers (.registerWrite off (r.name.spec.width / 8) data) s fun t =>
      (∀ b : Nat, b < r.name.spec.width → r.name.held.testBit b = true → (t.reg r).testBit b =
        if r.name.spec.rw.testBit b then data.toNat.testBit b
        else (s.reg r).testBit b && !(r.name.spec.w1c.testBit b && data.toNat.testBit b)) ∧
      (∀ r' : Reg, r' ≠ r → t.reg r' = s.reg r') ∧ SameStore s t := by
  have hw : r.name.spec.width / 8 = 4 ∨ r.name.spec.width / 8 = 8 := by
    rcases r.name.width_eq with h | h <;> simp [h]
  refine answers_of_go (exec_registerWrite_opens data hw ha ho) ?_
  set w := r.name.spec.width
  have hrun : after (each (accessParts off (w / 8) data.toNat) fun e => regWrite e.1 e.2.1 e.2.2) ⟨s, Reach.refl s⟩ =
      after (setReg r (s.merged r (2 ^ w - 1) (data.toNat % 2 ^ w))) ⟨s, Reach.refl s⟩ := by
    rw [accessParts_own hr]
    exact congrArg (fun x => x.2.1) (regWrite_plain hn _ _ ⟨s, Reach.refl s⟩)
  rw [hrun]
  refine ⟨fun b hb hheld => ?_, fun r' hr' => ?_, rfl, rfl, rfl, rfl⟩
  · have hb64 : b < 64 := hb.trans_le (by rcases r.name.width_eq with h | h <;> simp [w, h])
    rw [reg_after_setReg, if_pos ⟨rfl, exists_of_regAtOffset hr⟩, ← testBit_merged (heldWo_plain hn) hb]
    rw [Nat.testBit_and, Nat.testBit_mod_two_pow, Nat.testBit_mod_two_pow, hheld]
    simp [hb64]
  · rw [reg_after_setReg, if_neg fun h => hr' h.1]

/-- Settles O8: an access to a block that answers writes the parts it is made of; a plain register takes what its access types
make of the data. -/
theorem registerWriteByAccessType : Obligations.RegisterWriteByAccessType := by
  unfold Obligations.RegisterWriteByAccessType
  exact ⟨fun s r off data hr ho ha hn => plainWrite_answers data hr ho ha hn,
    fun s off width data hm hh => misaligned_answers data hm hh,
    fun s off width data hw ha ho hp => (exec_registerWrite_opens data hw ha ho).trans (by rw [hp]; rfl)⟩

end Sys2Proof.Machine
end

section
/-!
PROOFS. Commit groups (R9 to R12): the laws of their status flags, their fields, and what moves shadow copies.
-/
namespace Sys2Proof.Machine

variable {s0 : State} {α β : Type}

/-! ### Runs in sequence, and flags -/

theorem after_seq (m : M s0 α) (k : M s0 β) (t : { t : State // Reach s0 t }) :
    after (do let _ ← m; k) t = after k ⟨after m t, (m t).2.2⟩ := rfl

theorem after_cur_bind (f : State → M s0 α) (t : { t : State // Reach s0 t }) : after (cur >>= f) t = after (f t.1) t := rfl

/-- A run that sets registers alone changes nothing but the register file. -/
theorem Steps.eq_of_setsReg {ns : List RegName} {s t : State} (h : Steps (setsReg ns) s t) : t = { s with bank := t.bank } := by
  induction h with
  | refl => rfl
  | step _ e he ih =>
    obtain ⟨r, v, rfl, -⟩ := he
    rw [ih]
    rfl

theorem flag_after_setFlag {f : Fld} {b : Bool} {i j k : Nat} (t : { t : State // Reach s0 t })
    (hx : (f.at i j k).exists = true) (hf : f.fits = true) : (after (setFlag f b i j k) t).flag f i j k = b := by
  have hle : f.lo ≤ f.hi := by simp only [Fld.fits, Bool.and_eq_true, decide_eq_true_eq] at hf; exact hf.1.1
  have hb : b2n b < 2 ^ (f.hi + 1 - f.lo) :=
    lt_of_lt_of_le (by cases b <;> decide) (Nat.pow_le_pow_right (by decide : 0 < 2) (by omega : 1 ≤ f.hi + 1 - f.lo))
  unfold State.flag setFlag
  rw [fld_after_setF f _ i j k t hx hf hb]
  cases b <;> rfl

theorem flag_after_setF_other {f g : Fld} (v i j k i' j' k' : Nat) (t : { t : State // Reach s0 t }) (hf : f.fits = true)
    (hg : g.fits = true) (hd : f.hi < g.lo ∨ g.hi < f.lo) : (after (setF f v i j k) t).flag g i' j' k' = t.1.flag g i' j' k' := by
  unfold State.flag
  rw [fld_after_setF_other f g v i j k i' j' k' t hf hg hd]

/-- A field takes a value cut to its width. -/
theorem fld_after_setF_mod (f : Fld) (v i j k : Nat) (t : { t : State // Reach s0 t }) (hx : (f.at i j k).exists = true)
    (hf : f.fits = true) : (after (setF f v i j k) t).fld f i j k = v % 2 ^ (f.hi + 1 - f.lo) := by
  have h : (setF f v i j k : M s0 Unit) = setF f (v % 2 ^ (f.hi + 1 - f.lo)) i j k := by
    simp only [setF, setBits, Nat.mod_mod]
  rw [h, fld_after_setF f _ i j k t hx hf (Nat.mod_lt _ (Nat.two_pow_pos _))]

/-- A command that comes to a register through the window, where the access reaches it. -/
theorem atReg_opens {r : Reg} {t : { t : State // Reach s0 t }} (h : t.1.opens r = true) (act : M s0 Unit) :
    atReg r act t = act t := by
  rw [State.opens, Bool.and_eq_true] at h
  rw [atReg, if_pos h.1, throughWindow_opens h.2]

theorem after_atReg {r : Reg} {t : { t : State // Reach s0 t }} (h : t.1.opens r = true) (act : M s0 Unit) :
    after (atReg r act) t = after act t := congrArg (fun x => x.2.1) (atReg_opens h act)

/-! ### A group's status register and its fields -/

/-- The layout that every group's STATUS register has (R12). -/
def statusRegs (n c : RegName) (i : Nat) : GroupRegs :=
  ⟨⟨n, 15, 8⟩, ⟨n, 5, 5⟩, ⟨n, 4, 4⟩, ⟨n, 3, 3⟩, ⟨n, 2, 2⟩, ⟨n, 1, 1⟩, ⟨n, 0, 0⟩, c, i⟩

/-- A group's STATUS register. -/
def statusOf : Group → RegName
  | .stkMap _ => .stkMapStatus
  | .dtMap => .dtMapStatus
  | .stkReg _ => .stkRegStatus
  | .dtReg => .dtRegStatus
  | .fabReg => .fabRegStatus
  | .srvPfx => .srvPfxStatus
  | .schPart _ => .schPartStatus
  | .schCard => .schCardStatus

theorem groupRegs_eq (g : Group) : groupRegs g = statusRegs (statusOf g) (groupRegs g).commit (groupRegs g).i := by
  cases g <;> rfl

/-- The STATUS registers of the groups. -/
def statusNames : List RegName :=
  [.stkMapStatus, .dtMapStatus, .stkRegStatus, .dtRegStatus, .fabRegStatus, .srvPfxStatus, .schPartStatus, .schCardStatus]

theorem statusOf_mem (g : Group) : statusOf g ∈ statusNames := by cases g <;> simp [statusOf, statusNames]

theorem statusOf_held (g : Group) : (statusOf g).held = 0xff3f :=
  (by decide : ∀ n ∈ statusNames, n.held = 0xff3f) _ (statusOf_mem g)

theorem status_exists {g : Group} (h : groupExists g = true) : (⟨statusOf g, (groupRegs g).i, 0, 0⟩ : Reg).exists = true := by
  cases g <;> simp_all [groupExists, statusOf, groupRegs, Reg.exists, RegName.count, RegName.spec]

section
variable {n : RegName} {i : Nat} (hn : n.held = 0xff3f) (hx : (⟨n, i, 0, 0⟩ : Reg).exists = true)

include hn in
theorem fits_statusFlag {k : Nat} (hk : k < 6) : (⟨n, k, k⟩ : Fld).fits = true := by
  unfold Fld.fits
  dsimp only
  rw [hn]
  interval_cases k <;> rfl

include hn in
theorem fits_statusBad : (⟨n, 15, 8⟩ : Fld).fits = true := by
  unfold Fld.fits
  dsimp only
  rw [hn]
  rfl

include hn hx in
theorem status_set {k : Nat} (hk : k < 6) (b : Bool) (t : { t : State // Reach s0 t }) :
    (after (setFlag ⟨n, k, k⟩ b i) t).flag ⟨n, k, k⟩ i = b := flag_after_setFlag t hx (fits_statusFlag hn hk)

include hn in
theorem status_other {k l : Nat} (hk : k < 6) (hl : l < 6) (h : k ≠ l) (b : Bool) (t : { t : State // Reach s0 t }) :
    (after (setFlag ⟨n, k, k⟩ b i) t).flag ⟨n, l, l⟩ i = t.1.flag ⟨n, l, l⟩ i :=
  flag_after_setF_other _ _ _ _ _ _ _ t (fits_statusFlag hn hk) (fits_statusFlag hn hl) (Nat.lt_or_gt_of_ne h)

include hn in
theorem status_bad_other {l : Nat} (hl : l < 6) (v : Nat) (t : { t : State // Reach s0 t }) :
    (after (setF ⟨n, 15, 8⟩ v i) t).flag ⟨n, l, l⟩ i = t.1.flag ⟨n, l, l⟩ i :=
  flag_after_setF_other _ _ _ _ _ _ _ t (fits_statusBad hn) (fits_statusFlag hn hl) (.inr (show l < 8 by omega))

end

/-! ### The fields of a group -/

/-- The registers that are fields of some group. -/
def fieldNames : List RegName :=
  [.stkMapDead, .stkMapCapacity, .dtMapDead, .dtMapCapacity, .stkReg, .dtReg, .fabReg, .srvPfxBase, .schPartCfg, .schPartAlloc0,
   .schPartAlloc1, .schPartQuota, .schPartShare, .schPartRoot, .schPartWin, .schCardFrame, .schSlot]

/-- The registers that a group's commands set beside its fields: its status, a partition's state, the card's debts and place. -/
def groupSide (g : Group) : List RegName := [statusOf g, .schPartState, .schPartDebtUs, .schCardPos]

theorem groupFields_name (g : Group) : ∀ x ∈ groupFields g, x.name ∈ fieldNames := by
  cases g <;> simp [groupFields, fieldNames, or_imp, forall_and]

theorem groupFields_exists {g : Group} (hg : groupExists g = true) : ∀ x ∈ groupFields g, x.exists = true := by
  intro x hx
  cases g <;> simp only [groupExists, decide_eq_true_eq] at hg <;>
    simp only [groupFields, List.mem_cons, List.mem_append, List.mem_map, List.mem_range, List.not_mem_nil, or_false] at hx
  case stkMap n => rcases hx with rfl | rfl <;> simp [Reg.exists, RegName.count, RegName.spec, hg]
  case dtMap => rcases hx with rfl | rfl <;> rfl
  case stkReg n => obtain ⟨p, hp, rfl⟩ := hx; simp [Reg.exists, RegName.count, RegName.spec, hg, hp]
  case schPart n =>
    rcases hx with (rfl | rfl | rfl | rfl | rfl | rfl) | ⟨w, hw, rfl⟩ <;>
      simp [Reg.exists, RegName.count, RegName.spec, *]
  case schCard =>
    rcases hx with rfl | ⟨i, hi, rfl⟩
    · rfl
    · simp [Reg.exists, RegName.count, RegName.spec, hi]
  all_goals obtain ⟨p, hp, rfl⟩ := hx; simp [Reg.exists, RegName.count, RegName.spec, hp]

theorem notMem_groupSide {g : Group} {x : Reg} (h : x ∈ groupFields g) : x.name ∉ groupSide g := by
  have hd : ∀ n ∈ fieldNames, n ∉ statusNames ∧ n ∉ [RegName.schPartState, .schPartDebtUs, .schCardPos] := by decide
  obtain ⟨hs, ho⟩ := hd _ (groupFields_name g x h)
  exact fun hm => (List.mem_cons.1 hm).elim (fun he => hs (he ▸ statusOf_mem g)) ho

/-! ### Shadow copies and values in force -/

theorem reloadShadows_only {g : Group} {rs : List Reg} (h : ∀ r ∈ rs, r ∈ groupFields g) :
    Only (setsReg fieldNames) (reloadShadows rs : M s0 Unit) := by
  induction rs with
  | nil => exact Only.pure ()
  | cons r rs ih =>
    exact .bind .cur fun _ => .bind (.eff _ ⟨_, _, rfl, groupFields_name g r (h r (List.mem_cons_self ..))⟩)
      fun _ => ih fun x hx => h x (List.mem_cons_of_mem _ hx)

/-- After a reload every shadow copy is the value in force. -/
theorem reg_reloadShadows {rs : List Reg} (t : { t : State // Reach s0 t }) (hx : ∀ r ∈ rs, r.exists = true)
    (hf : Bank.wf t.1.force = true) (r : Reg) :
    (after (reloadShadows rs) t).reg r = if r ∈ rs then (Bank.get t.1.force r).toNat else t.1.reg r := by
  induction rs generalizing t with
  | nil => simp [reloadShadows]
  | cons a rs ih =>
    have hset : (after (setReg a (Bank.get t.1.force a).toNat) t).reg r =
        if r = a then (Bank.get t.1.force r).toNat else t.1.reg r := by
      rw [reg_after_setReg]
      by_cases h : r = a
      · subst h
        rw [if_pos ⟨rfl, hx r (List.mem_cons_self ..)⟩, if_pos rfl, (Bank.holds_get hf r).stored]
      · rw [if_neg fun h' => h h'.1, if_neg h]
    refine (ih ⟨after (setReg a _) t, (setReg a _ t).2.2⟩ (fun x h => hx x (List.mem_cons_of_mem _ h)) hf).trans ?_
    rw [hset]
    by_cases h : r ∈ rs
    · rw [if_pos h, if_pos (List.mem_cons_of_mem _ h)]
      rfl
    · simp [h]

/-- The effect puts a value in force. -/
def setsForce (e : Eff) : Prop := ∃ r v, e = .force r v

theorem applyShadows_only (rs : List Reg) : Only setsForce (applyShadows rs : M s0 Unit) := by
  induction rs with
  | nil => exact Only.pure ()
  | cons r rs ih => exact .bind .cur fun _ => .bind (.eff _ ⟨_, _, rfl⟩) fun _ => ih

/-- A run that puts values in force changes nothing else. -/
theorem Steps.eq_of_setsForce {s t : State} (h : Steps setsForce s t) : t = { s with force := t.force } := by
  induction h with
  | refl => rfl
  | step _ e he ih =>
    obtain ⟨r, v, rfl⟩ := he
    rw [ih]
    rfl

/-- Applying a group puts its shadow copies in force. -/
theorem force_applyShadows {rs : List Reg} (t : { t : State // Reach s0 t }) (hx : ∀ r ∈ rs, r.exists = true)
    (hb : Bank.wf t.1.bank = true) (r : Reg) :
    Bank.get (after (applyShadows rs) t).force r = if r ∈ rs then Bank.get t.1.bank r else Bank.get t.1.force r := by
  induction rs generalizing t with
  | nil => simp [applyShadows]
  | cons a rs ih =>
    let e : Eff := .force a (BitVec.ofNat 64 (t.1.reg a))
    have hset : Bank.get (e.apply t.1).force r = if r = a then Bank.get t.1.bank r else Bank.get t.1.force r := by
      simp only [e, Eff.apply_force, Bank.get_put]
      by_cases h : r = a
      · subst h
        rw [if_pos ⟨rfl, hx r (List.mem_cons_self ..)⟩, if_pos rfl]
        refine BitVec.eq_of_toNat_eq ?_
        rw [BitVec.toNat_and, BitVec.toNat_ofNat, BitVec.toNat_ofNat]
        exact (Bank.holds_get hb r).stored
      · rw [if_neg fun h' => h h'.1, if_neg h]
    refine (ih ⟨e.apply t.1, t.2.step e⟩ (fun x h => hx x (List.mem_cons_of_mem _ h)) hb).trans ?_
    rw [hset]
    by_cases h : r ∈ rs
    · rw [if_pos h, if_pos (List.mem_cons_of_mem _ h)]
      rfl
    · simp [h]

end Sys2Proof.Machine
end

section
/-!
PROOFS. Commit groups (R9 to R12): GO, LOCK and the application of a pending commit.
-/
namespace Sys2Proof.Machine

variable {s0 : State} {α β : Type}

/-- A run of effects keeps the invariant. -/
theorem Steps.inv {P : Eff → Prop} {s t : State} (h : Steps P s t) (hs : s.Inv) : t.Inv := by
  induction h with
  | refl => exact hs
  | step _ e _ ih => exact e.apply_inv _ ih

/-! ### What a group's commands do beside its fields -/

/-- The effect sets a register of a list of names, or changes the scheduler's or the memory tiers' own state. -/
def setsBeside (ns : List RegName) (e : Eff) : Prop := setsReg ns e ∨ (∃ v, e = .sched v) ∨ ∃ v, e = .tier v

theorem setsBeside_sched (ns : List RegName) (v : Sched) : setsBeside ns (.sched v) := .inr (.inl ⟨v, rfl⟩)
theorem setsBeside_tier (ns : List RegName) (v : Tier) : setsBeside ns (.tier v) := .inr (.inr ⟨v, rfl⟩)

theorem Only.beside {ns ms : List RegName} {m : M s0 α} (h : Only (setsReg ns) m) (hs : ∀ n ∈ ns, n ∈ ms) :
    Only (setsBeside ms) m := h.mono fun _ ⟨r, v, he, hr⟩ => .inl ⟨r, v, he, hs _ hr⟩

theorem modSched_beside (ns : List RegName) (f : Sched → Sched) : Only (setsBeside ns) (modSched f : M s0 Unit) :=
  .bind .cur fun _ => .eff _ (setsBeside_sched ..)
theorem modTier_beside (ns : List RegName) (f : Tier → Tier) : Only (setsBeside ns) (modTier f : M s0 Unit) :=
  .bind .cur fun _ => .eff _ (setsBeside_tier ..)

theorem Steps.beside_eq {ns : List RegName} {s t : State} (h : Steps (setsBeside ns) s t) :
    t = { s with bank := t.bank, sched := t.sched, tier := t.tier } := by
  induction h with
  | refl => rfl
  | step _ e he ih =>
    rcases he with ⟨r, v, rfl, -⟩ | ⟨v, rfl⟩ | ⟨v, rfl⟩ <;> (rw [ih]; rfl)

theorem Steps.beside_force {ns : List RegName} {s t : State} (h : Steps (setsBeside ns) s t) : t.force = s.force := by
  rw [h.beside_eq]

theorem Steps.beside_store {ns : List RegName} {s t : State} (h : Steps (setsBeside ns) s t) : SameStore s t := by
  rw [h.beside_eq]
  exact ⟨rfl, rfl, rfl, rfl⟩

theorem Steps.beside_reg {ns : List RegName} {s t : State} (h : Steps (setsBeside ns) s t) : SameRegs ns s t := by
  intro r hr
  refine h.keeps (fun u => u.reg r) ?_
  rintro _ u (⟨r', v, rfl, hn⟩ | ⟨v, rfl⟩ | ⟨v, rfl⟩)
  · exact (Steps.step (.refl u) _ ⟨r', v, rfl, hn⟩ : Steps (setsReg ns) u _).reg_eq r hr
  · rfl
  · rfl

theorem State.flag_congr {s t : State} {f : Fld} {i j k : Nat} (h : t.reg (f.at i j k) = s.reg (f.at i j k)) :
    t.flag f i j k = s.flag f i j k := by
  unfold State.flag State.fld
  rw [h]

/-- The registers that an application changes beside a group's fields and its status. -/
def applyNames : List RegName := [.schPartState, .schPartDebtUs, .schCardPos]

theorem statusOf_notMem (g : Group) : statusOf g ∉ applyNames :=
  (by decide : ∀ n ∈ statusNames, n ∉ applyNames) _ (statusOf_mem g)

theorem afterApply_beside (g : Group) : Only (setsBeside applyNames) (afterApply g : M s0 Unit) := by
  refine .bind .cur fun s => ?_
  split
  · exact .ite ((Only.setF _ _ _ _ _ (List.mem_singleton.2 rfl)).beside (by decide)) (.pure _)
  · refine .ite (.bind (.each _ fun p => (Only.setF _ _ _ _ _ (List.mem_singleton.2 rfl)).beside (by decide)) fun _ => ?_) (.pure _)
    refine .bind (.eff _ (.inl ⟨_, _, rfl, by decide⟩)) fun _ => modSched_beside _ _
  · exact .pure _

theorem flag_afterApply (g : Group) (k l i : Nat) (t : { t : State // Reach s0 t }) :
    (after (afterApply g) t).flag ⟨statusOf g, k, l⟩ i = t.1.flag ⟨statusOf g, k, l⟩ i :=
  State.flag_congr ((afterApply_beside g t).beside_reg _ (statusOf_notMem g))

/-- What follows once a group's shadow copies are in force (R10, R11, R12). -/
def applied (g : Group) (waits : Bool) : M s0 Unit := do
  let r := groupRegs g
  setFlag r.pending false r.i
  setFlag r.applied true r.i
  setFlag r.refused false r.i
  afterApply g
  if waits then
    modSched fun x => { x with lockWait := x.lockWait.filter (· != g) }
    setFlag r.locked true r.i

theorem applyGroup_eq {g : Group} {t : { t : State // Reach s0 t }} (h : t.1.flag (groupRegs g).pending (groupRegs g).i = true) :
    after (applyGroup g) t = after (do applyShadows (groupFields g); applied g (t.1.sched.lockWait.contains g)) t := by
  unfold applyGroup
  rw [after_cur_bind]
  dsimp only
  rw [if_pos h]
  rfl

theorem applied_beside (g : Group) (w : Bool) : Only (setsBeside (groupSide g)) (applied g w : M s0 Unit) := by
  have hs : ∀ f b, f.reg = statusOf g → Only (setsBeside (groupSide g)) (setFlag f b (groupRegs g).i : M s0 Unit) :=
    fun f b h => (Only.setFlag f b _ 0 0 (List.mem_singleton.2 h)).beside fun n hn => by
      rw [List.mem_singleton.1 hn]; exact List.mem_cons_self ..
  unfold applied
  rw [groupRegs_eq g]
  refine .bind (hs _ _ rfl) fun _ => .bind (hs _ _ rfl) fun _ => .bind (hs _ _ rfl) fun _ => .bind ?_ fun _ => ?_
  · exact (afterApply_beside g).mono fun e he => he.imp_left fun ⟨r, v, hr, hn⟩ => ⟨r, v, hr, List.mem_cons_of_mem _ hn⟩
  · exact .ite (.bind (modSched_beside _ _) fun _ => hs _ _ rfl) (.pure _)

theorem applied_status {g : Group} (hg : groupExists g = true) (w : Bool) (t : { t : State // Reach s0 t }) :
    let u := after (applied g w) t
    let r := groupRegs g
    u.flag r.pending r.i = false ∧ u.flag r.applied r.i = true ∧ u.flag r.refused r.i = false ∧
      (w = true → u.flag r.locked r.i = true ∧ g ∉ u.sched.lockWait) := by
  have hn := statusOf_held g
  have hx := status_exists hg
  have hm : ∀ (f : Sched → Sched) (k i : Nat) (t : { t : State // Reach s0 t }),
      (after (modSched f) t).flag ⟨statusOf g, k, k⟩ i = t.1.flag ⟨statusOf g, k, k⟩ i := fun _ _ _ _ => rfl
  dsimp only
  unfold applied
  rw [groupRegs_eq g]
  simp only [statusRegs, after_seq]
  cases w
  · simp [status_set hn hx, status_other hn, flag_afterApply]
  · refine ⟨?_, ?_, ?_, fun _ => ⟨?_, fun h => by simpa using (List.mem_filter.1 h).2⟩⟩ <;>
      simp [after_seq, status_set hn hx, status_other hn, flag_afterApply, hm]

/-- A pending commit is applied: every shadow copy is in force, the status says so, a lock that waits takes hold; no shadow copy
changes and no storage (R10, R11). -/
theorem applyGroup_applies {g : Group} (hg : groupExists g = true) (t : { t : State // Reach s0 t }) (hi : t.1.Inv)
    (hp : t.1.flag (groupRegs g).pending (groupRegs g).i = true) :
    let u := after (applyGroup g) t
    let r := groupRegs g
    u.flag r.pending r.i = false ∧ u.flag r.applied r.i = true ∧ u.flag r.refused r.i = false ∧
      (∀ x ∈ groupFields g, (Bank.get u.force x).toNat = t.1.reg x ∧ u.reg x = t.1.reg x) ∧
      (g ∈ t.1.sched.lockWait → u.flag r.locked r.i = true ∧ g ∉ u.sched.lockWait) ∧ SameStore t.1 u := by
  rw [applyGroup_eq hp, after_seq]
  obtain ⟨v, hv⟩ : ∃ v : { t : State // Reach s0 t }, v = 
      ⟨after (applyShadows (groupFields g)) t, (applyShadows (groupFields g) t).2.2⟩ := ⟨_, rfl⟩
  rw [← hv]
  have hval : v.1 = after (applyShadows (groupFields g)) t := congrArg Subtype.val hv
  have hforce (x : Reg) (hx : x ∈ groupFields g) : Bank.get v.1.force x = Bank.get t.1.bank x := by
    rw [hval, force_applyShadows t (groupFields_exists hg) hi.bank, if_pos hx]
  have hrest : v.1 = { t.1 with force := v.1.force } := by
    rw [hval]
    exact (applyShadows_only (groupFields g) t).eq_of_setsForce
  have hreg (x : Reg) : v.1.reg x = t.1.reg x := by rw [hrest]; rfl
  have hside := applied_beside g (t.1.sched.lockWait.contains g) v
  obtain ⟨h0, h1, h2, h3⟩ := applied_status hg (t.1.sched.lockWait.contains g) v
  refine ⟨h0, h1, h2, fun x hx => ⟨?_, ?_⟩, fun hm => h3 (List.contains_iff_mem.2 hm), ?_⟩
  · rw [hside.beside_force, hforce x hx]
    rfl
  · rw [hside.beside_reg x (notMem_groupSide hx), hreg]
  · have := hside.beside_store
    rw [hrest] at this
    exact this

/-! ### GO -/

section
variable {g : Group} {t : { t : State // Reach s0 t }}

theorem groupGo_locked (h : t.1.flag (groupRegs g).locked (groupRegs g).i = true) :
    after (groupGo g) t = after (setFlag (groupRegs g).lockIgnored true (groupRegs g).i) t := by
  unfold groupGo
  rw [after_cur_bind]
  dsimp only
  rw [if_pos h]

variable (hl : t.1.flag (groupRegs g).locked (groupRegs g).i = false)
include hl

theorem groupGo_pending (h : t.1.flag (groupRegs g).pending (groupRegs g).i = true) :
    after (groupGo g) t = after (setFlag (groupRegs g).late true (groupRegs g).i) t := by
  unfold groupGo
  rw [after_cur_bind]
  dsimp only
  rw [if_neg (by simp [hl]), if_pos h]

variable (hp : t.1.flag (groupRegs g).pending (groupRegs g).i = false)
include hp

theorem groupGo_refused {k : Nat} (h : groupFlaw t.1 g = some k) :
    after (groupGo g) t = after (do
      reloadShadows (groupFields g)
      setFlag (groupRegs g).refused true (groupRegs g).i
      setFlag (groupRegs g).applied false (groupRegs g).i
      setF (groupRegs g).bad k (groupRegs g).i) t := by
  unfold groupGo
  rw [after_cur_bind]
  dsimp only
  rw [if_neg (by simp [hl]), if_neg (by simp [hp]), h]

/-- What takes up a commit that has been made pending: a map-out's engine, the next microsecond (R179, R201, R346). -/
def takenUp (g : Group) : M s0 Unit := do
  awaitMicro g
  match g with
  | .stkMap n => modTier fun x => { x with mapWait := x.mapWait ++ [n] }
  | .dtMap => modTier fun x => { x with mapWait := x.mapWait ++ [12] }
  | _ => pure ()

/-- A commit made pending. -/
def madePending (g : Group) : M s0 Unit := do
  setFlag (groupRegs g).pending true (groupRegs g).i
  takenUp g

theorem groupGo_agrees (h : groupFlaw t.1 g = none) :
    after (groupGo g) t = after (do madePending g; if t.1.safeAtGo g then applyGroup g) t := by
  unfold groupGo
  rw [after_cur_bind]
  dsimp only
  rw [if_neg (by simp [hl]), if_neg (by simp [hp]), h]
  cases g <;> rfl

end

theorem takenUp_beside (g : Group) : Only (setsBeside []) (takenUp g : M s0 Unit) := by
  unfold takenUp awaitMicro
  cases g <;> exact .bind (by first | exact modSched_beside _ _ | exact .pure _) fun _ =>
    by first | exact modTier_beside _ _ | exact .pure _

theorem setFlag_beside {g : Group} {f : Fld} (h : f.reg = statusOf g) (b : Bool) :
    Only (setsBeside [statusOf g]) (setFlag f b (groupRegs g).i : M s0 Unit) :=
  (Only.setFlag f b _ 0 0 (List.mem_singleton.2 h)).beside fun _ h => h

theorem status_notField (g : Group) : statusOf g ∉ fieldNames :=
  (by decide : ∀ n ∈ statusNames, n ∉ fieldNames) _ (statusOf_mem g)

theorem SameStore.trans {s t u : State} (h : SameStore s t) (k : SameStore t u) : SameStore s u := by
  obtain ⟨h1, h2, h3, h4⟩ := h
  obtain ⟨k1, k2, k3, k4⟩ := k
  exact ⟨k1.trans h1, k2.trans h2, k3.trans h3, k4.trans h4⟩

section
variable {g : Group} (hg : groupExists g = true) {t : { t : State // Reach s0 t }}
include hg

/-- What GO leaves of a group whose shadow copies disagree. -/
theorem refused_leaves (k : Nat) (hi : t.1.Inv) (hp : t.1.flag (groupRegs g).pending (groupRegs g).i = false) :
    let r := groupRegs g
    let u := after (do
      reloadShadows (groupFields g)
      setFlag r.refused true r.i
      setFlag r.applied false r.i
      setF r.bad k r.i) t
    SameStore t.1 u ∧ u.flag r.refused r.i = true ∧ u.flag r.applied r.i = false ∧ u.flag r.pending r.i = false ∧
      u.fld r.bad r.i = k % 256 ∧ u.force = t.1.force ∧ ∀ x ∈ groupFields g, u.reg x = (Bank.get t.1.force x).toNat := by
  have hn := statusOf_held g
  have hx := status_exists hg
  have hre := (reloadShadows_only (s0 := s0) (g := g) (rs := groupFields g) fun _ h => h).beside (fun _ h => h) t
  have hflag (l : Nat) : (after (reloadShadows (groupFields g)) t).flag ⟨statusOf g, l, l⟩ (groupRegs g).i =
      t.1.flag ⟨statusOf g, l, l⟩ (groupRegs g).i := State.flag_congr (hre.beside_reg _ (status_notField g))
  have hmarks : Only (setsBeside [statusOf g]) (do
      setFlag (groupRegs g).refused true (groupRegs g).i
      setFlag (groupRegs g).applied false (groupRegs g).i
      setF (groupRegs g).bad k (groupRegs g).i : M s0 Unit) := by
    rw [groupRegs_eq g]
    exact .bind (setFlag_beside rfl _) fun _ => .bind (setFlag_beside rfl _) fun _ =>
      (Only.setF _ _ _ _ _ (List.mem_singleton.2 rfl)).beside fun _ h => h
  have hrest := hmarks ⟨after (reloadShadows (groupFields g)) t, (reloadShadows (groupFields g) t).2.2⟩
  dsimp only
  rw [after_seq]
  refine ⟨hre.beside_store.trans hrest.beside_store, ?_, ?_, ?_, ?_, hrest.beside_force.trans hre.beside_force, fun x hm => ?_⟩
  · rw [groupRegs_eq g]
    simp [statusRegs, after_seq, status_bad_other hn, status_set hn hx, status_other hn]
  · rw [groupRegs_eq g]
    simp [statusRegs, after_seq, status_bad_other hn, status_set hn hx]
  · rw [groupRegs_eq g] at hp ⊢
    simpa [statusRegs, after_seq, status_bad_other hn, status_other hn, hflag] using hp
  · rw [groupRegs_eq g, after_seq, after_seq]
    exact fld_after_setF_mod _ _ _ _ _ _ hx (fits_statusBad hn)
  · have hside : x.name ∉ [statusOf g] := fun h => notMem_groupSide hm (List.mem_cons.2 (.inl (List.mem_singleton.1 h)))
    exact (hrest.beside_reg x hside).trans ((reg_reloadShadows t (groupFields_exists hg) hi.force x).trans (if_pos hm))

/-- A commit made pending: the status says so, and nothing of the group changes yet. -/
theorem madePending_leaves : (after (madePending g) t).flag (groupRegs g).pending (groupRegs g).i = true ∧
    Steps (setsBeside [statusOf g]) t.1 (after (madePending g) t) := by
  have hto := takenUp_beside g (s0 := s0)
  unfold madePending
  constructor
  · rw [after_seq]
    refine (State.flag_congr ((hto _).beside_reg _ (List.not_mem_nil))).trans ?_
    rw [groupRegs_eq g]
    exact status_set (statusOf_held g) (status_exists hg) (by decide) _ t
  · rw [groupRegs_eq g]
    exact (Only.bind (setFlag_beside rfl _) fun _ => hto.mono fun e he => he.imp_left fun ⟨r, v, hr, hn⟩ => nomatch hn) t

/-- A commit made pending at the group's safe point applies at once (R319). -/
theorem appliedAtOnce_leaves (hi : t.1.Inv) : let r := groupRegs g
    let u := after (do madePending g; applyGroup g) t
    SameStore t.1 u ∧ u.flag r.pending r.i = false ∧ u.flag r.applied r.i = true ∧
      ∀ x ∈ groupFields g, (Bank.get u.force x).toNat = t.1.reg x := by
  obtain ⟨hp, hside⟩ := madePending_leaves hg (t := t)
  dsimp only
  rw [after_seq]
  obtain ⟨h0, h1, -, h3, -, h5⟩ := applyGroup_applies hg ⟨after (madePending g) t, (madePending g t).2.2⟩ (hside.inv hi) hp
  refine ⟨hside.beside_store.trans h5, h0, h1, fun x hx => (h3 x hx).1.trans (hside.beside_reg x fun h => ?_)⟩
  exact notMem_groupSide hx (List.mem_cons.2 (.inl (List.mem_singleton.1 h)))

end

theorem commitGo_answers {g : Group} {s : State} (hg : groupExists g = true)
    (ho : s.opens ⟨(groupRegs g).commit, (groupRegs g).i, 0, 0⟩ = true) {P : State → Prop}
    (hP : P (after (groupGo g) ⟨s, Reach.refl s⟩)) : Answers (.commitGo g) s P := by
  refine answers_of_go (m := if groupExists g then atReg ⟨(groupRegs g).commit, (groupRegs g).i, 0, 0⟩ (groupGo g) else pure ())
    rfl ?_
  rw [if_pos hg]
  rw [after_atReg ho]
  exact hP

theorem commitLock_answers {g : Group} {s : State} (hg : groupExists g = true)
    (ho : s.opens ⟨(groupRegs g).commit, (groupRegs g).i, 0, 0⟩ = true) {P : State → Prop}
    (hP : P (after (groupLock g) ⟨s, Reach.refl s⟩)) : Answers (.commitLock g) s P := by
  refine answers_of_go (m := if groupExists g then atReg ⟨(groupRegs g).commit, (groupRegs g).i, 0, 0⟩ (groupLock g) else pure ())
    rfl ?_
  rw [if_pos hg]
  rw [after_atReg ho]
  exact hP

/-- A GO that only marks a status flag. -/
theorem marked_leaves {g : Group} (hg : groupExists g = true) {k : Nat} (hk : k < 6) (t : { t : State // Reach s0 t }) :
    let u := after (setFlag ⟨statusOf g, k, k⟩ true (groupRegs g).i) t
    u.flag ⟨statusOf g, k, k⟩ (groupRegs g).i = true ∧ u.force = t.1.force ∧ SameRegs [statusOf g] t.1 u ∧ SameStore t.1 u := by
  have hb := setFlag_beside (s0 := s0) (g := g) (f := ⟨statusOf g, k, k⟩) rfl true t
  exact ⟨status_set (statusOf_held g) (status_exists hg) hk true t, hb.beside_force, hb.beside_reg, hb.beside_store⟩

/-- GO written to a group whose block answers. -/
theorem groupGo_leaves {g : Group} (hg : groupExists g = true) (v : { t : State // Reach s0 t }) (hi : v.1.Inv) :
    let s := v.1
    let t := after (groupGo g) v
    let r := groupRegs g
    SameStore s t ∧
    (s.flag r.locked r.i = true → t.flag r.lockIgnored r.i = true ∧ t.force = s.force ∧ SameRegs [r.locked.reg] s t) ∧
    (s.flag r.locked r.i = false → s.flag r.pending r.i = true →
      t.flag r.late r.i = true ∧ t.force = s.force ∧ SameRegs [r.locked.reg] s t) ∧
    (s.flag r.locked r.i = false → s.flag r.pending r.i = false →
      (∀ k, groupFlaw s g = some k →
        t.flag r.refused r.i = true ∧ t.flag r.applied r.i = false ∧ t.flag r.pending r.i = false ∧
        t.fld r.bad r.i = k % 256 ∧ t.force = s.force ∧
        ∀ x ∈ groupFields g, t.reg x = (Bank.get s.force x).toNat) ∧
      (groupFlaw s g = none →
        (s.safeAtGo g = false → t.flag r.pending r.i = true ∧ t.force = s.force ∧ SameRegs [r.locked.reg] s t) ∧
        (s.safeAtGo g = true → t.flag r.pending r.i = false ∧ t.flag r.applied r.i = true ∧
          ∀ x ∈ groupFields g, (Bank.get t.force x).toNat = s.reg x))) := by
  have hreg : (groupRegs g).locked.reg = statusOf g := by rw [groupRegs_eq g]; rfl
  dsimp only
  cases hl : v.1.flag (groupRegs g).locked (groupRegs g).i with
  | true =>
    rw [groupGo_locked hl, hreg]
    have h := marked_leaves hg (k := 5) (by decide) v
    rw [groupRegs_eq g]
    exact ⟨h.2.2.2, fun _ => ⟨h.1, h.2.1, h.2.2.1⟩, nofun, nofun⟩
  | false => cases hp : v.1.flag (groupRegs g).pending (groupRegs g).i with
    | true =>
      rw [groupGo_pending hl hp, hreg]
      have h := marked_leaves hg (k := 3) (by decide) v
      rw [groupRegs_eq g]
      exact ⟨h.2.2.2, nofun, fun _ _ => ⟨h.1, h.2.1, h.2.2.1⟩, nofun⟩
    | false => cases hf : groupFlaw v.1 g with
      | some k =>
        rw [groupGo_refused hl hp hf]
        obtain ⟨hstore, h⟩ := refused_leaves hg k (t := v) hi hp
        refine ⟨hstore, nofun, nofun, fun _ _ => ⟨fun k' hk => ?_, nofun⟩⟩
        cases hk
        exact h
      | none =>
        rw [groupGo_agrees hl hp hf, hreg]
        cases hs : v.1.safeAtGo g with
        | false =>
          simp only [Bool.false_eq_true, if_false]
          obtain ⟨hpend, hside⟩ := madePending_leaves hg (t := v)
          exact ⟨hside.beside_store, nofun, nofun, fun _ _ => ⟨nofun, fun _ =>
            ⟨fun _ => ⟨hpend, hside.beside_force, hside.beside_reg⟩, nofun⟩⟩⟩
        | true =>
          simp only [if_true]
          obtain ⟨hstore, h⟩ := appliedAtOnce_leaves hg (t := v) hi
          exact ⟨hstore, nofun, nofun, fun _ _ => ⟨nofun, fun _ => ⟨nofun, fun _ => h⟩⟩⟩

/-! ### LOCK -/

theorem groupLock_leaves {g : Group} (hg : groupExists g = true) (v : { t : State // Reach s0 t }) :
    let t := after (groupLock g) v
    let r := groupRegs g
    SameRegs [r.locked.reg] v.1 t ∧ t.force = v.1.force ∧ SameStore v.1 t ∧
    (v.1.flag r.pending r.i = false → t.flag r.locked r.i = true) ∧
    (v.1.flag r.pending r.i = true → t.flag r.locked r.i = v.1.flag r.locked r.i ∧ g ∈ t.sched.lockWait) := by
  have hreg : (groupRegs g).locked.reg = statusOf g := by rw [groupRegs_eq g]; rfl
  dsimp only
  unfold groupLock
  rw [after_cur_bind, hreg]
  dsimp only
  cases hp : v.1.flag (groupRegs g).pending (groupRegs g).i with
  | true =>
    rw [if_pos rfl]
    refine ⟨fun _ _ => rfl, rfl, ⟨rfl, rfl, rfl, rfl⟩, nofun, fun _ => ⟨rfl, ?_⟩⟩
    change g ∈ if v.1.sched.lockWait.contains g then v.1.sched.lockWait else v.1.sched.lockWait ++ [g]
    split
    · next h => exact List.contains_iff_mem.1 h
    · exact List.mem_append_right _ (List.mem_singleton.2 rfl)
  | false =>
    rw [if_neg (by decide)]
    obtain ⟨h1, h2, h3, h4⟩ := marked_leaves hg (k := 4) (by decide) v
    rw [groupRegs_eq g]
    exact ⟨h3, h2, h4, fun _ => h1, nofun⟩

/-- Settles O10: GO and LOCK by the cases of the group's status, the application by what it sets. -/
theorem commitGoLockAndApply : Obligations.CommitGoLockAndApply := by
  unfold Obligations.CommitGoLockAndApply
  refine ⟨fun g s hg hi ho => commitGo_answers hg ho (groupGo_leaves hg ⟨s, Reach.refl s⟩ hi),
    fun g s hg ho => commitLock_answers hg ho (groupLock_leaves hg ⟨s, Reach.refl s⟩), fun g s hg hi hs hp => ?_⟩
  refine answers_of_go (m := if groupExists g && s.safePoint g then applyGroup g else pure ()) rfl ?_
  rw [if_pos (by rw [hg, hs]; rfl)]
  exact applyGroup_applies hg ⟨s, Reach.refl s⟩ hi hp

end Sys2Proof.Machine
end

section
/-!
PROOFS. What storing a granule and writing an error record can do (R186, R190, R366, R377, R470 to R472), proved along the
programs: memory, merge entries, injected notes, the records' own state, and seven registers.
-/
namespace Sys2Proof.Machine

variable {s0 : State} {α β : Type} {P : Eff → Prop}

/-! ### Along the shape of a program -/

/-- A step that is taken under a condition, before what follows in either case. -/
theorem Only.seqIf {c : Prop} [Decidable c] {m : M s0 α} {k : α → M s0 β} {k' : M s0 β} (h : c → Only P m)
    (hk : ∀ a, Only P (k a)) (hk' : Only P k') : Only P (if c then m >>= k else k') := by
  split
  · next hc => exact .bind (h hc) hk
  · exact hk'

theorem Only.setReg' (r : Reg) (v : Nat) (h : ∀ x, P (.reg r x)) : Only P (setReg r v : M s0 Unit) := .eff _ (h _)
theorem Only.setF' (f : Fld) (v i j k : Nat) (h : ∀ x, P (.reg (f.at i j k) x)) :
    Only P (Machine.setF f v i j k : M s0 Unit) := .bind .cur fun _ => .setReg' _ _ h
theorem Only.bump' (f : Fld) (d i j k : Nat) (h : ∀ x, P (.reg (f.at i j k) x)) :
    Only P (Machine.bump f d i j k : M s0 Unit) := .bind .cur fun _ => .setF' _ _ _ _ _ h

/-! ### Effects of stores and records -/

/-- The registers that stores of granules and error records set: the flip-masks' (R190), the error ring's (R472), pending
interrupts (R377). -/
def recordRegs : List RegName := [.stkFlipCtrl, .dtFlipCtrl, .stkFlipHit, .dtFlipHit, .hbErrPtr, .hbErrLost, .thmVecPend]

/-- An effect of storing a granule or of writing an error record. -/
def Eff.Records : Eff → Prop
  | .reg r _ => r.name ∈ recordRegs
  | .byte _ _ | .chk _ _ | .merges _ | .injected _ | .err _ | .thm _ | .emit _ => True
  | _ => False

theorem setF_records (f : Fld) (v i j k : Nat) (h : f.reg ∈ recordRegs) :
    Only Eff.Records (setF f v i j k : M s0 Unit) := .setF' _ _ _ _ _ fun _ => h
theorem bump_records (f : Fld) (d i j k : Nat) (h : f.reg ∈ recordRegs) :
    Only Eff.Records (bump f d i j k : M s0 Unit) := .bump' _ _ _ _ _ fun _ => h
theorem setCh_records (fs fd : Fld) (v t c i : Nat) (hs : fs.reg ∈ recordRegs) (hd : fd.reg ∈ recordRegs) :
    Only Eff.Records (setCh fs fd v t c i : M s0 Unit) := .ite (setF_records _ _ _ _ _ hs) (setF_records _ _ _ _ _ hd)

theorem modMerges_records (f : List Merge → List Merge) : Only Eff.Records (modMerges f : M s0 Unit) :=
  .bind .cur fun _ => .eff _ trivial
theorem modInjected_records (f : List Nat → List Nat) : Only Eff.Records (modInjected f : M s0 Unit) :=
  .bind .cur fun _ => .eff _ trivial
theorem modErr_records (f : ErrSt → ErrSt) : Only Eff.Records (modErr f : M s0 Unit) := .bind .cur fun _ => .eff _ trivial
theorem modThm_records (f : Thm → Thm) : Only Eff.Records (modThm f : M s0 Unit) := .bind .cur fun _ => .eff _ trivial

theorem raiseVec_records (v : Nat) : Only Eff.Records (raiseVec v : M s0 Unit) :=
  .bind .cur fun _ => .ite (setF_records _ _ _ _ _ (by decide)) (.ite (.eff _ trivial) (modThm_records _))

theorem pokeBytes_records (a : Nat) (bs : List Byte) : Only Eff.Records (pokeBytes a bs : M s0 Unit) := by
  induction bs generalizing a with
  | nil => exact .pure ()
  | cons b bs ih => exact .bind (.eff _ trivial) fun _ => ih _

theorem storeGran_records (g : Nat) (bs : List Byte) : Only Eff.Records (storeGran g bs : M s0 Unit) :=
  .bind .cur fun _ => .ite
    (.ite
      (.bind (pokeBytes_records _ _) fun _ => .bind (.eff _ trivial) fun _ =>
        .bind (setCh_records _ _ _ _ _ _ (by decide) (by decide)) fun _ =>
        .bind (setCh_records _ _ _ _ _ _ (by decide) (by decide)) fun _ =>
        .bind (setCh_records _ _ _ _ _ _ (by decide) (by decide)) fun _ => modInjected_records _)
      (.bind (pokeBytes_records _ _) fun _ => .bind (.eff _ trivial) fun _ => modInjected_records _))
    (.bind (pokeBytes_records _ _) fun _ => .eff _ trivial)

theorem writeGran_records (g : Nat) (bs : List Byte) : Only Eff.Records (writeGran g bs : M s0 Unit) :=
  .bind (modMerges_records _) fun _ => storeGran_records _ _

theorem errPut_records (ws : List Nat) : Only Eff.Records (errPut ws : M s0 Unit) := by
  refine .bind .cur fun s => ?_
  have hrest : ∀ u : Unit, Only Eff.Records (do
      setF F.hbErrPtr_tail (s.fld F.hbErrPtr_tail + 1)
      modErr fun e => { e with seq := e.seq + 1 }
      if s.fld F.hbErrCfg_irqMin ≤ bits (nth ws 0) 9 8 then raiseVec (s.fld F.hbErrCfg_vector) : M s0 Unit) := fun _ =>
    .bind (setF_records _ _ _ _ _ (by decide)) fun _ => .bind (modErr_records _) fun _ => .ite (raiseVec_records _) (.pure ())
  exact .seqIf (fun _ => writeGran_records _ _) hrest (hrest ())

theorem errDrop_records : Only Eff.Records (errDrop : M s0 Unit) :=
  .bind (bump_records _ _ _ _ _ (by decide)) fun _ => modErr_records _

theorem errReport_records : Only Eff.Records (errReport : M s0 Unit) :=
  .bind .cur fun _ => .ite (.bind (errPut_records _) fun _ => modErr_records _) (.pure ())

theorem errStoreSome_records (l : List (List Nat)) : Only Eff.Records (errStoreSome l : M s0 _) := by
  induction l with
  | nil => exact .pure _
  | cons ws rest ih => exact .bind .cur fun _ => .ite (.bind (errPut_records _) fun _ => ih) (.pure _)

theorem errFlush_records : Only Eff.Records (errFlush : M s0 Unit) :=
  .bind .cur fun _ => .ite
    (.bind (errStoreSome_records _) fun _ => .bind (modErr_records _) fun _ => .ite errReport_records (.pure ())) (.pure ())

theorem errRecord_records (e : ErrRec) : Only Eff.Records (errRecord e : M s0 Unit) :=
  .bind .cur fun _ => .ite
    (.bind errFlush_records fun _ => .bind .cur fun _ => .ite (errPut_records _) errDrop_records)
    (.ite (modErr_records _) errDrop_records)

/-- A run of such effects changes no register outside those seven, and not the tiers' own state. -/
theorem Steps.records_reg {s t : State} (h : Steps Eff.Records s t) : SameRegs recordRegs s t := by
  intro r hr
  refine h.keeps (fun u => u.reg r) fun e u he => ?_
  cases e with
  | reg r' v => exact (Steps.step (.refl u) _ ⟨r', v, rfl, he⟩ : Steps (setsReg recordRegs) u _).reg_eq r hr
  | dropRegs => exact he.elim
  | _ => rfl

theorem Steps.records_tier {s t : State} (h : Steps Eff.Records s t) : t.tier = s.tier :=
  h.keeps State.tier fun e u he => Eff.tier_apply e u fun v hv => by subst hv; exact he

end Sys2Proof.Machine
end

section
/-!
PROOFS. The memory tiers' own commands on sound memory (R177, R186, R188, R189): promotion, merge time-outs, the scrubber.
-/
namespace Sys2Proof.Machine

variable {s0 : State} {α β : Type}

/-! ### Promotion of old requests (R177) -/

theorem find_map_id (l : List Pkt) (id : Nat) (f : Pkt → Pkt) (hf : ∀ p, (f p).id = p.id) :
    (l.map fun p => if p.id == id then f p else p).find? (fun p => p.id == id) = (l.find? fun p => p.id == id).map f := by
  induction l with
  | nil => rfl
  | cons p l ih =>
    rw [List.map_cons, List.find?_cons, List.find?_cons]
    cases h : p.id == id
    · simpa [h] using ih
    · simp [h, hf]

/-- The packet of an issue number, once it has been changed by a function that keeps the number. -/
theorem pkt_modPkt (c id : Nat) (f : Pkt → Pkt) (hf : ∀ p, (f p).id = p.id) (t : { t : State // Reach s0 t }) :
    (after (modPkt c id f) t).pkt c id = (t.1.pkt c id).map f := by
  change ((Tab.get {} (Tab.put {} t.1.ctxs c _) c).pkts.find? fun p => p.id == id) = _
  rw [Tab.get_put, if_pos rfl]
  exact find_map_id _ id f hf

theorem bulkAgePromote_packet {k part c : Nat} {s : State} {p : Pkt} {rest : List (Nat × Pkt)} (hk : k ≤ 12) (hp : part < 16)
    (ha : s.bulkAge k ≠ 0) (h : s.promotable k part = (c, p) :: rest)
    (hr : ∀ e ∈ (s.promotableReads k part).head?, p.waitsSince k s.now ≤ e.2.waitsSince k s.now) :
    Answers (.bulkAgePromote k part) s fun t => SameRegs [] s t ∧ SameStore s t ∧
      t.pkt c p.id = (s.pkt c p.id).map fun y => { y with promoted := y.promoted ++ [k] } := by
  have hpkt := pkt_modPkt c p.id (fun y => { y with promoted := y.promoted ++ [k] }) (fun _ => rfl) ⟨s, Reach.refl s⟩
  refine answers_of_go (m := modPkt c p.id fun y => { y with promoted := y.promoted ++ [k] }) ?_
    ⟨fun _ _ => rfl, ⟨rfl, rfl, rfl, rfl⟩, hpkt⟩
  change M.go s _ = _
  rw [whenM_pos ⟨hk, hp, ha⟩, h]
  dsimp only
  cases hq : s.promotableReads k part with
  | nil => rfl
  | cons e es =>
    rw [hq] at hr
    exact congrArg (M.go s) (if_neg (Nat.not_lt.2 (hr e rfl)))

theorem bulkAgePromote_reads {k part q : Nat} {s : State} {x : Queue} {rest : List (Nat × Queue)} (hk : k ≤ 12) (hp : part < 16)
    (ha : s.bulkAge k ≠ 0) (h : s.promotableReads k part = (q, x) :: rest)
    (hr : ∀ e ∈ (s.promotable k part).head?, x.waitsSince k s.now < e.2.waitsSince k s.now) :
    Answers (.bulkAgePromote k part) s fun t => SameRegs [] s t ∧ SameStore s t ∧
      t.queAt q = { s.queAt q with promoted := (s.queAt q).promoted ++ [k] } := by
  refine answers_of_go (m := modQue q fun y => { y with promoted := y.promoted ++ [k] }) ?_
    ⟨fun _ _ => rfl, ⟨rfl, rfl, rfl, rfl⟩, (Tab.get_put _ _ _ _ _).trans (if_pos rfl)⟩
  change M.go s _ = _
  rw [whenM_pos ⟨hk, hp, ha⟩, h]
  dsimp only
  cases hq : s.promotable k part with
  | nil => rfl
  | cons e es =>
    rw [hq] at hr
    exact congrArg (M.go s) (if_pos (hr e rfl))

/-! ### Storing granules of sound memory -/

theorem byteAt_pokeBytes (a : Nat) (bs : List Byte) (t : { t : State // Reach s0 t }) (x : Nat) :
    (after (pokeBytes a bs) t).byteAt x = if a ≤ x ∧ x < a + bs.length then bs.getD (x - a) 0 else t.1.byteAt x := by
  induction bs generalizing a t with
  | nil => simp [pokeBytes]
  | cons b bs ih =>
    refine (ih (a + 1) ⟨(Eff.byte a b).apply t.1, t.2.step _⟩).trans ?_
    have hb : State.byteAt ((Eff.byte a b).apply t.1) x = if x = a then b else t.1.byteAt x := Map.get_put _ _ _ _
    dsimp only
    rw [hb]
    rcases Nat.lt_trichotomy x a with h | rfl | h
    · rw [if_neg (by omega), if_neg (by omega), if_neg (by omega)]
    · simp
    · obtain ⟨n, rfl⟩ : ∃ n, x = a + 1 + n := ⟨x - (a + 1), by omega⟩
      rw [if_neg (by omega : a + 1 + n ≠ a), Nat.add_sub_cancel_left, (by omega : a + 1 + n - a = n + 1), List.getD_cons_succ,
        List.length_cons]
      simp only [(by omega : a + 1 ≤ a + 1 + n), (by omega : a ≤ a + 1 + n), true_and,
        (by omega : a + 1 + n < a + 1 + bs.length ↔ a + 1 + n < a + (bs.length + 1))]

/-- The effect changes a byte of memory. -/
def setsByte (e : Eff) : Prop := ∃ a v, e = .byte a v

theorem pokeBytes_only (a : Nat) (bs : List Byte) : Only setsByte (pokeBytes a bs : M s0 Unit) := by
  induction bs generalizing a with
  | nil => exact .pure ()
  | cons b bs ih => exact .bind (.eff _ ⟨_, _, rfl⟩) fun _ => ih _

/-- A run that changes bytes of memory changes nothing else. -/
theorem Steps.eq_of_setsByte {s t : State} (h : Steps setsByte s t) : t = { s with mem := t.mem } := by
  induction h with
  | refl => rfl
  | step _ e he ih =>
    obtain ⟨a, v, rfl⟩ := he
    rw [ih]
    rfl

/-- A byte of a granule after the granule has been stored. -/
theorem byteAt_pokeGran (g : Nat) (bs : List Byte) (h : bs.length = 64) (t : { t : State // Reach s0 t }) (x : Nat) :
    (after (pokeBytes (64 * g) bs) t).byteAt x = if x / 64 = g then bs.getD (x % 64) 0 else t.1.byteAt x := by
  rw [byteAt_pokeBytes, h]
  by_cases hx : x / 64 = g
  · rw [if_pos (by omega), if_pos hx]
    congr 1
    omega
  · rw [if_neg (by omega), if_neg hx]

/-- A granule of the code without a deviation reads as it stands, and nothing changes (R182). -/
theorem decodeGran_clean {g : Nat} {t : { t : State // Reach s0 t }} (h : t.1.devAt g = 0) :
    decodeGran g t = (some (t.1.granAt g), t) := by
  have hd : decode 0 = .clean := by decide
  unfold decodeGran
  rw [bind_run, cur_run]
  dsimp only
  rw [h]
  split
  · rfl
  · rw [hd]
    rfl

/-- What storing a granule leaves, where no flip-mask is armed: its bytes, no deviation, no injected note (R190). -/
theorem storeGran_calm {g : Nat} (bs : List Byte) {t : { t : State // Reach s0 t }} (hg : coded g = true)
    (hc : ∀ k c, t.1.ch F.stkFlipCtrl_arm F.dtFlipCtrl_arm k c = 0) :
    after (storeGran g bs) t = { after (pokeBytes (64 * g) bs) t with
      chk := Tab.put 0 t.1.chk g 0, injected := t.1.injected.filter (· != g) } := by
  have hrun : after (storeGran g bs) t = after (do
      pokeBytes (64 * g) bs
      eff (.chk g 0)
      modInjected fun l => l.filter (· != g)) t := by
    unfold storeGran
    rw [after_cur_bind]
    simp only [hg, hc, if_true, bne_self_eq_false, Bool.false_eq_true, if_false]
  have hpoke := (pokeBytes_only (64 * g) bs t).eq_of_setsByte
  rw [hrun, after_seq, after_seq]
  simp only [after_eff, Eff.apply_chk, modInjected, after_cur_bind, Eff.apply_injected]
  rw [hpoke]

end Sys2Proof.Machine
end

section
/-!
PROOFS. Merge entries and the scrubber on sound memory (R186, R188, R189).
-/
namespace Sys2Proof.Machine

variable {s0 : State} {α β : Type}

theorem after_bind_eq {m : M s0 α} {f : α → M s0 β} {t u : { t : State // Reach s0 t }} {a : α} (h : m t = (a, u)) :
    after (m >>= f) t = after (f a) u := by rw [after_bind, h]

/-! ### Writing out a merge entry (R186) -/

/-- A granule with a merge entry's bytes laid over it. -/
def Merge.over (m : Merge) (old : List Byte) : List Byte :=
  (List.range 64).map fun i => if bit m.mask i then m.data.getD i 0 else old.getD i 0

theorem Merge.length_over (m : Merge) (old : List Byte) : (m.over old).length = 64 := by simp [Merge.over]

theorem getD_map_range {n i : Nat} (f : Nat → Byte) (h : i < n) : ((List.range n).map f).getD i 0 = f i := by
  simp [List.getD, h]

theorem State.getD_granAt (s : State) {x g : Nat} (h : x / 64 = g) : (s.granAt g).getD (x % 64) 0 = s.byteAt x := by
  unfold State.granAt State.bytesAt
  rw [getD_map_range _ (Nat.mod_lt _ (by decide))]
  congr 1
  omega

/-- Sound memory's granules do not deviate from the code. -/
theorem State.Sound.devAt {s : State} (h : s.Sound) (g : Nat) : s.devAt g = 0 := by
  unfold State.devAt
  rw [h.code]
  rfl

/-- What a merge entry leaves that has been written out into sound memory. -/
structure WrittenOut (m : Merge) (s t : State) : Prop where
  merges : t.merges = s.merges.filter fun x => x.gran != m.gran
  chk : t.chk = []
  tier : t.tier = s.tier
  regs : SameRegs [.stkChMergeRmw, .dtChMergeRmw] s t
  bytes : ∀ x, t.byteAt x = if x / 64 = m.gran ∧ bit m.mask (x % 64) = true then m.data.getD (x % 64) 0 else s.byteAt x

/-- Storing a granule whose bytes are a merge entry's laid over the granule as it stood. -/
theorem storeGran_writtenOut {m : Merge} {s : State} {v : { t : State // Reach s0 t }} (bs : List Byte) (hg : coded m.gran = true)
    (hc : ∀ k c, v.1.ch F.stkFlipCtrl_arm F.dtFlipCtrl_arm k c = 0) (hl : bs.length = 64)
    (hb : ∀ x, x / 64 = m.gran → bs.getD (x % 64) 0 = if bit m.mask (x % 64) then m.data.getD (x % 64) 0 else s.byteAt x)
    (hm : v.1.merges = s.merges.filter fun x => x.gran != m.gran) (hk : v.1.chk = []) (ht : v.1.tier = s.tier)
    (hr : SameRegs [.stkChMergeRmw, .dtChMergeRmw] s v.1) (hmem : v.1.mem = s.mem) :
    WrittenOut m s (after (storeGran m.gran bs) v) := by
  have hp := (pokeBytes_only (64 * m.gran) bs v).eq_of_setsByte
  rw [storeGran_calm bs hg hc]
  constructor
  · rw [hp]; exact hm
  · rw [hk]; rfl
  · rw [hp]; exact ht
  · rw [hp]; exact hr
  · intro x
    refine (byteAt_pokeGran m.gran bs hl v x).trans ?_
    have hv : v.1.byteAt x = s.byteAt x := by rw [State.byteAt, hmem]; rfl
    by_cases hx : x / 64 = m.gran
    · rw [if_pos hx, hb x hx]
      simp [hx]
    · rw [if_neg hx, if_neg fun h => hx h.1, hv]

theorem bumpCh_mergeRmw (d k c : Nat) (t : { t : State // Reach s0 t }) :
    Steps (setsReg [.stkChMergeRmw, .dtChMergeRmw]) t.1 (after (bumpCh F.stkChMergeRmw_count F.dtChMergeRmw_count d k c) t) :=
  (Only.ite (.bump _ _ _ _ _ (by decide)) (.bump _ _ _ _ _ (by decide))) t

theorem State.ch_congr {s t : State} {fs fd : Fld} {ns : List RegName} (h : SameRegs ns s t) (hs : fs.reg ∉ ns)
    (hd : fd.reg ∉ ns) (k c i : Nat) : t.ch fs fd k c i = s.ch fs fd k c i := by
  unfold State.ch State.fld
  rw [h (fs.at k c i) hs, h (fd.at c i 0) hd]

/-- A full entry is stored as it is; any other is laid over the granule as it stood, a read-modify-write that is counted. -/
theorem writeOut_run {m : Merge} {t : { t : State // Reach s0 t }} (hs : t.1.chk = []) :
    ∃ v : { t : State // Reach s0 t }, ∃ bs, after (writeOut m) t = after (storeGran m.gran bs) v ∧
      (m.mask = 2 ^ 64 - 1 ∧ bs = m.data ∨ bs = m.over (v.1.granAt m.gran)) ∧
      Steps (setsReg [.stkChMergeRmw, .dtChMergeRmw]) { t.1 with merges := t.1.merges.filter fun x => x.gran != m.gran } v.1 := by
  let v : { t : State // Reach s0 t } := (modMerges (fun ms => ms.filter fun x => x.gran != m.gran) t).2
  by_cases hf : m.mask = 2 ^ 64 - 1
  · refine ⟨v, m.data, ?_, .inl ⟨hf, rfl⟩, .refl _⟩
    unfold writeOut
    rw [after_seq, if_pos (beq_iff_eq.2 hf)]
    rfl
  · let c := chanOf (v.1.physUnit (64 * m.gran))
    let w : { t : State // Reach s0 t } := ((bumpCh F.stkChMergeRmw_count F.dtChMergeRmw_count 1 c.1 c.2 : M s0 Unit) v).2
    have hw : Steps (setsReg [.stkChMergeRmw, .dtChMergeRmw]) v.1 w.1 := bumpCh_mergeRmw 1 c.1 c.2 v
    have hd : decodeGran m.gran w = (some (w.1.granAt m.gran), w) := by
      refine decodeGran_clean ?_
      rw [State.devAt, hw.eq_of_setsReg]
      exact congrArg (fun l => Tab.get 0 l m.gran) hs
    refine ⟨w, m.over (w.1.granAt m.gran), ?_, .inr rfl, hw⟩
    unfold writeOut
    rw [after_seq, if_neg (fun h => hf (beq_iff_eq.1 h)), after_cur_bind, after_seq]
    exact after_bind_eq hd

theorem writeOut_writtenOut {m : Merge} {t : { t : State // Reach s0 t }} (hs : t.1.Sound) (hm : m ∈ t.1.merges) :
    WrittenOut m t.1 (after (writeOut m) t) := by
  obtain ⟨hlen, hmask, hcoded⟩ := hs.entries m hm
  obtain ⟨v, bs, hrun, hbs, hv⟩ := writeOut_run (m := m) hs.code
  have hve := hv.eq_of_setsReg
  have hreg : SameRegs [.stkChMergeRmw, .dtChMergeRmw] t.1 v.1 := fun r hr => hv.reg_eq r hr
  have hgran : v.1.granAt m.gran = t.1.granAt m.gran := by rw [hve]; rfl
  rw [hrun]
  refine storeGran_writtenOut bs hcoded (fun k c => ?_) ?_ (fun x hx => ?_) ?_ ?_ ?_ hreg ?_
  · rw [State.ch_congr hreg (by decide) (by decide)]
    exact hs.calm k c
  · rcases hbs with ⟨-, rfl⟩ | rfl
    · exact hlen
    · exact m.length_over _
  · rcases hbs with ⟨hf, rfl⟩ | rfl
    · rw [if_pos]
      rw [hf, bit, Nat.testBit_two_pow_sub_one]
      exact decide_eq_true (by omega)
    · rw [Merge.over, getD_map_range _ (Nat.mod_lt _ (by decide)), hgran, State.getD_granAt _ hx]
  all_goals rw [hve]
  exact hs.code

theorem WrittenOut.sound {m : Merge} {s t : State} (h : WrittenOut m s t) (hs : s.Sound) : t.Sound where
  code := h.chk
  lost := h.tier ▸ hs.lost
  good k c := (State.ch_congr h.regs (by decide) (by decide) k c 0).trans (hs.good k c)
  calm k c := (State.ch_congr h.regs (by decide) (by decide) k c 0).trans (hs.calm k c)
  entries x hx := hs.entries x (List.mem_of_mem_filter (h.merges ▸ hx))
  once := h.merges ▸ hs.once.sublist (List.filter_sublist.map _)

theorem eq_of_gran_eq {l : List Merge} (h : (l.map Merge.gran).Nodup) {m n : Merge} (hm : m ∈ l) (hn : n ∈ l)
    (he : m.gran = n.gran) : m = n := List.inj_on_of_nodup_map h hm hn he

theorem find_gran_of_mem {l : List Merge} (h : (l.map Merge.gran).Nodup) {m : Merge} (hm : m ∈ l) :
    l.find? (fun n => n.gran == m.gran) = some m := by
  cases hf : l.find? (fun n => n.gran == m.gran) with
  | none => exact absurd (beq_self_eq_true m.gran) (List.find?_eq_none.1 hf m hm)
  | some n => rw [eq_of_gran_eq h (List.mem_of_find?_eq_some hf) hm (by simpa using List.find?_some hf)]

/-- The entries of one granule: at most one. -/
theorem filter_gran_of_mem {l : List Merge} (h : (l.map Merge.gran).Nodup) {m : Merge} (hm : m ∈ l) :
    l.filter (fun n => n.gran == m.gran) = [m] := by
  have hnd : (l.filter fun n => n.gran == m.gran).Nodup := (List.Nodup.of_map _ h).filter _
  refine List.perm_singleton.1 ((List.perm_ext_iff_of_nodup hnd (List.nodup_singleton m)).2 fun n => ?_)
  rw [List.mem_filter, List.mem_singleton, beq_iff_eq]
  exact ⟨fun hn => eq_of_gran_eq h hn.1 hm hn.2, by rintro rfl; exact ⟨hm, rfl⟩⟩

/-- A read finds the same before and after an entry has been written out (R185, R186). -/
theorem WrittenOut.seen {m : Merge} {s t : State} (h : WrittenOut m s t) (hs : s.Sound) (hm : m ∈ s.merges) (x : Nat) :
    t.seen x = s.seen x := by
  unfold State.seen
  by_cases hx : x / 64 = m.gran
  · have hnone : t.merges.find? (fun n => n.gran == x / 64) = none := by
      rw [h.merges, List.find?_filter]
      simp [hx]
    rw [hnone, hx, find_gran_of_mem hs.once hm, h.bytes]
    simp only [hx, true_and]
  · have hsame : t.merges.find? (fun n => n.gran == x / 64) = s.merges.find? (fun n => n.gran == x / 64) := by
      rw [h.merges, List.find?_filter]
      refine congrArg (List.find? · s.merges) (funext fun n => ?_)
      by_cases hn : n.gran = x / 64
      · simp [hn, hx]
      · simp [hn]
    rw [hsame, (h.bytes x).trans (if_neg fun h => hx h.1)]

theorem mergeTimeout_answers {gran : Nat} {s : State} (hs : s.Sound) : Answers (.mergeTimeout gran) s fun t =>
    t.Sound ∧ t.merges = s.merges.filter (fun m => m.gran != gran) ∧ ∀ x, t.seen x = s.seen x := by
  refine answers_of_go (m := writeOutAll (s.merges.filter fun m => m.gran == gran)) rfl ?_
  by_cases h : ∃ m ∈ s.merges, m.gran = gran
  · obtain ⟨m, hm, rfl⟩ := h
    have hw := writeOut_writtenOut (t := ⟨s, Reach.refl s⟩) hs hm
    rw [filter_gran_of_mem hs.once hm]
    exact ⟨hw.sound hs, hw.merges, hw.seen hs hm⟩
  · have hno : ∀ m ∈ s.merges, ¬ m.gran = gran := fun m hm he => h ⟨m, hm, he⟩
    have hnil : s.merges.filter (fun m => m.gran == gran) = [] := List.filter_eq_nil_iff.2 fun m hm => by simpa using hno m hm
    have hself : s.merges.filter (fun m => m.gran != gran) = s.merges := List.filter_eq_self.2 fun m hm => by simpa using hno m hm
    rw [hnil, hself]
    exact ⟨hs, rfl, fun _ => rfl⟩

end Sys2Proof.Machine
end

section
/-!
PROOFS. The scrubber on memory without an error (R188, R189).
-/
namespace Sys2Proof.Machine

variable {s0 : State} {α β : Type}

/-! ### Channel registers -/

section
variable {fs fd : Fld} {k c : Nat} (t : { t : State // Reach s0 t })

theorem ch_after_setCh (v : Nat) (hs : k < 12 → (fs.at k c 0).exists = true) (hd : (fd.at c 0 0).exists = true)
    (fits : fs.fits = true) (fitd : fd.fits = true) :
    (after (setCh fs fd v k c) t).ch fs fd k c = v % 2 ^ (if k < 12 then fs.hi + 1 - fs.lo else fd.hi + 1 - fd.lo) := by
  unfold setCh State.ch
  split
  · next h => exact fld_after_setF_mod _ _ _ _ _ _ (hs h) fits
  · exact fld_after_setF_mod _ _ _ _ _ _ hd fitd

/-- Setting a channel register leaves every other register. -/
theorem setCh_setsReg (v : Nat) : Only (setsReg [fs.reg, fd.reg]) (setCh fs fd v k c : M s0 Unit) :=
  .ite (.setF _ _ _ _ _ (List.mem_cons_self ..)) (.setF _ _ _ _ _ (List.mem_cons_of_mem _ (List.mem_cons_self ..)))

theorem reg_after_setCh_ne (v : Nat) {r : Reg} (hs : r.name ≠ fs.reg) (hd : r.name ≠ fd.reg) :
    (after (setCh fs fd v k c) t).reg r = t.1.reg r :=
  (setCh_setsReg v t).reg_eq r fun h => (List.mem_pair.1 h).elim hs hd

theorem ch_after_setCh_ne {gs gd : Fld} (v : Nat) (h : gs.reg ∉ [fs.reg, fd.reg]) (h' : gd.reg ∉ [fs.reg, fd.reg]) (k' c' i : Nat) :
    (after (setCh fs fd v k c) t).ch gs gd k' c' i = t.1.ch gs gd k' c' i :=
  State.ch_congr (fun r hr => (setCh_setsReg v t).reg_eq r hr) h h' k' c' i

theorem tier_after_setCh (v : Nat) : (after (setCh fs fd v k c) t).tier = t.1.tier := by
  rw [(setCh_setsReg v t).eq_of_setsReg]

theorem ch_after_modTier (f : Tier → Tier) (k' c' i : Nat) : (after (modTier f) t).ch fs fd k' c' i = t.1.ch fs fd k' c' i := rfl

theorem tier_after_modTier (f : Tier → Tier) : (after (modTier f) t).tier = f t.1.tier := rfl

end

/-- The registers of a channel that exists. -/
theorem stkCh_exists {n : RegName} (hn : n ∈ [RegName.stkScrubStatus, .stkScrubLapStart, .stkScrubLastLapUs]) {k c : Nat}
    (hk : k < 12) (hc : c < 16) : (⟨n, k, c, 0⟩ : Reg).exists = true := by
  fin_cases hn <;> simp [Reg.exists, RegName.count, RegName.spec, hk, hc]

theorem dtCh_exists {n : RegName} (hn : n ∈ [RegName.dtScrubStatus, .dtScrubLapStart, .dtScrubLastLapUs]) {c : Nat}
    (hc : c < 16) : (⟨n, c, 0, 0⟩ : Reg).exists = true := by
  fin_cases hn <;> simp [Reg.exists, RegName.count, RegName.spec, hc]

theorem State.chanUp_bounds {s : State} {k c : Nat} (h : s.chanUp k c = true) : k ≤ 12 ∧ c < 16 := by
  simp only [State.chanUp, Bool.and_eq_true, decide_eq_true_eq] at h
  exact ⟨h.1.1.1, h.1.1.2⟩

/-! ### The scrubber (R188, R189) -/

/-- A granule without a deviation is read, and nothing changes. -/
theorem scrubGran_clean {g : Nat} {t : { t : State // Reach s0 t }} (h : t.1.devAt g = 0) : scrubGran g t = ((), t) := by
  unfold scrubGran
  rw [bind_run, cur_run]
  dsimp only
  split
  · rfl
  · rw [bind_run, decodeGran_clean h]
    rfl

/-- The effect sets a register of the scrubber's or changes the tiers' own state. -/
def scrubRegs : List RegName :=
  [.stkScrubStatus, .dtScrubStatus, .stkScrubLapStart, .dtScrubLapStart, .stkScrubLastLapUs, .dtScrubLastLapUs]

theorem setCh_scrub {fs fd : Fld} (hs : fs.reg ∈ scrubRegs) (hd : fd.reg ∈ scrubRegs) (v k c : Nat) :
    Only (setsBeside scrubRegs) (setCh fs fd v k c : M s0 Unit) :=
  (setCh_setsReg v).beside fun n hn => by
    rcases List.mem_pair.1 hn with rfl | rfl <;> assumption

theorem startLap_beside (k c : Nat) : Only (setsBeside scrubRegs) (startLap k c : M s0 Unit) :=
  .bind .cur fun _ => .ite (.bind (setCh_scrub (by decide) (by decide) _ _ _) fun _ => modTier_beside _ _) (.pure _)

theorem scrubOn_beside (k c : Nat) : Only (setsBeside scrubRegs) (scrubOn k c : M s0 Unit) :=
  .bind .cur fun _ => .bind (setCh_scrub (by decide) (by decide) _ _ _) fun _ => .bind (modTier_beside _ _) fun _ =>
    .ite (.bind (setCh_scrub (by decide) (by decide) _ _ _) fun _ => .bind (setCh_scrub (by decide) (by decide) _ _ _) fun _ =>
      modTier_beside _ _) (.pure _)

section
variable {k c : Nat} (hc : c < 16) (t : { t : State // Reach s0 t })

include hc in
theorem lapStart_after_set (v : Nat) :
    (after (setCh F.stkScrubLapStart_time F.dtScrubLapStart_time v k c) t).ch F.stkScrubLapStart_time F.dtScrubLapStart_time k c =
      v % 2 ^ 64 := by
  rw [ch_after_setCh t v (fun h => stkCh_exists (by decide) h hc) (dtCh_exists (by decide) hc) rfl rfl]
  split <;> rfl

include hc in
theorem startLap_time (h : k * 16 + c ∉ t.1.tier.laps) :
    (after (startLap k c) t).ch F.stkScrubLapStart_time F.dtScrubLapStart_time k c = t.1.now % 2 ^ 64 := by
  unfold startLap
  rw [after_cur_bind, if_pos (by simpa using h), after_seq, ch_after_modTier, lapStart_after_set hc]

theorem State.scrubPos_congr {s t : State} {k c : Nat} (h : t.reg ⟨.stkScrubStatus, k, c, 0⟩ = s.reg ⟨.stkScrubStatus, k, c, 0⟩)
    (ht : t.tier.deepPos = s.tier.deepPos) : t.scrubPos k c = s.scrubPos k c := by
  have h' : t.reg (F.stkScrubStatus_pos.at k c 0) = s.reg (F.stkScrubStatus_pos.at k c 0) := h
  unfold State.scrubPos State.fld
  rw [h', ht]

theorem startLap_pos : (after (startLap k c) t).scrubPos k c = t.1.scrubPos k c := by
  unfold startLap
  rw [after_cur_bind]
  split
  · rw [after_seq]
    refine State.scrubPos_congr ?_ ?_
    · exact reg_after_setCh_ne t _ (show RegName.stkScrubStatus ≠ .stkScrubLapStart by decide)
        (show RegName.stkScrubStatus ≠ .dtScrubLapStart by decide)
    · simp only [tier_after_modTier, tier_after_setCh]
  · rfl

/-- The scrubber's position put at a granule. -/
def moveScrub (k c next : Nat) : M s0 Unit := do
  setCh F.stkScrubStatus_pos F.dtScrubStatus_pos next k c
  modTier fun x => { x with deepPos := if k < 12 then x.deepPos else Tab.put 0 x.deepPos c next }

/-- The lap's time is taken, and the next lap starts (R189). -/
def newLap (s : State) (k c : Nat) : M s0 Unit := do
  setCh F.stkScrubLastLapUs_us F.dtScrubLastLapUs_us (s.now - s.ch F.stkScrubLapStart_time F.dtScrubLapStart_time k c) k c
  setCh F.stkScrubLapStart_time F.dtScrubLapStart_time s.now k c
  modTier fun x => { x with alarmed := x.alarmed.filter (· != k * 16 + c) }

/-- The scrubber's step: its position moves on, and past the last granule a lap starts. -/
theorem scrubOn_moves (next : Nat) (h : next = if t.1.scrubPos k c + 1 = chanGrans k then 0 else t.1.scrubPos k c + 1) :
    after (scrubOn k c) t = after (do moveScrub k c next; if next = 0 then newLap t.1 k c else pure ()) t := by
  subst h
  rfl

/-- Within a lap the scrubber moves on by one granule. -/
theorem scrubOn_within (h : t.1.scrubPos k c + 1 ≠ chanGrans k) :
    after (scrubOn k c) t = after (moveScrub k c (t.1.scrubPos k c + 1)) t := by
  rw [scrubOn_moves t _ (if_neg h).symm, if_neg (Nat.succ_ne_zero _)]
  rfl

/-- Past the last granule it moves to the first, and a lap starts. -/
theorem scrubOn_last (h : t.1.scrubPos k c + 1 = chanGrans k) :
    after (scrubOn k c) t = after (do moveScrub k c 0; newLap t.1 k c) t := by
  rw [scrubOn_moves t _ (if_pos h).symm, if_pos rfl]

include hc in
theorem moveScrub_pos {next : Nat} (hn : k < 12 → next < 2 ^ 26) : (after (moveScrub k c next) t).scrubPos k c = next := by
  unfold moveScrub State.scrubPos
  rw [after_seq]
  split
  · next h =>
    have hset : (setCh F.stkScrubStatus_pos F.dtScrubStatus_pos next k c : M s0 Unit) = setF F.stkScrubStatus_pos next k c := if_pos h
    rw [hset]
    exact fld_after_setF F.stkScrubStatus_pos next k c 0 t (stkCh_exists (by decide) h hc) rfl (hn h)
  · next h =>
    rw [tier_after_modTier]
    simp only [Tab.get_put, if_true]

theorem moveScrub_time (next : Nat) : (after (moveScrub k c next) t).ch F.stkScrubLapStart_time F.dtScrubLapStart_time k c =
    t.1.ch F.stkScrubLapStart_time F.dtScrubLapStart_time k c := by
  unfold moveScrub
  rw [after_seq, ch_after_modTier, ch_after_setCh_ne t _ (by decide) (by decide)]

theorem newLap_pos (s : State) : (after (newLap s k c) t).scrubPos k c = t.1.scrubPos k c := by
  unfold newLap
  rw [after_seq, after_seq]
  refine State.scrubPos_congr ?_ ?_
  · refine (reg_after_setCh_ne _ _ (show RegName.stkScrubStatus ≠ .stkScrubLapStart by decide)
      (show RegName.stkScrubStatus ≠ .dtScrubLapStart by decide)).trans ?_
    exact reg_after_setCh_ne t _ (show RegName.stkScrubStatus ≠ .stkScrubLastLapUs by decide)
      (show RegName.stkScrubStatus ≠ .dtScrubLastLapUs by decide)
  · simp only [tier_after_modTier, tier_after_setCh]

include hc in
theorem newLap_time (s : State) :
    (after (newLap s k c) t).ch F.stkScrubLapStart_time F.dtScrubLapStart_time k c = s.now % 2 ^ 64 := by
  unfold newLap
  rw [after_seq, after_seq, ch_after_modTier, lapStart_after_set hc]

theorem newLap_alarmed (s : State) : k * 16 + c ∉ (after (newLap s k c) t).tier.alarmed := by
  unfold newLap
  rw [after_seq, after_seq, tier_after_modTier]
  simp

/-- Granules of a stack's channel: the position register holds every one. -/
theorem chanGrans_stack (h : k < 12) : chanGrans k = 2 ^ 26 := by
  simp [chanGrans, tierRows, blockGrans, blockBytes, h]

include hc in
theorem scrubOn_moved (h : t.1.scrubPos k c + 1 < chanGrans k) :
    (after (scrubOn k c) t).scrubPos k c = t.1.scrubPos k c + 1 := by
  rw [scrubOn_within t (Nat.ne_of_lt h)]
  exact moveScrub_pos hc t fun hk => chanGrans_stack hk ▸ h

include hc in
theorem scrubOn_wrapped (h : t.1.scrubPos k c + 1 = chanGrans k) :
    (after (scrubOn k c) t).scrubPos k c = 0 ∧
      (after (scrubOn k c) t).ch F.stkScrubLapStart_time F.dtScrubLapStart_time k c = t.1.now % 2 ^ 64 ∧
      k * 16 + c ∉ (after (scrubOn k c) t).tier.alarmed := by
  rw [scrubOn_last t h, after_seq]
  exact ⟨(newLap_pos _ _).trans (moveScrub_pos hc t fun _ => Nat.two_pow_pos _), newLap_time hc _ _, newLap_alarmed _ _⟩

include hc in
/-- The lap that runs keeps the time it started at, or a new one takes the time that is. -/
theorem scrubOn_time (h : t.1.ch F.stkScrubLapStart_time F.dtScrubLapStart_time k c = t.1.now % 2 ^ 64) :
    (after (scrubOn k c) t).ch F.stkScrubLapStart_time F.dtScrubLapStart_time k c = t.1.now % 2 ^ 64 := by
  by_cases hl : t.1.scrubPos k c + 1 = chanGrans k
  · exact (scrubOn_wrapped hc t hl).2.1
  · rw [scrubOn_within t hl, moveScrub_time, h]

end

section
variable {k ch : Nat} {s : State}

/-- The lap's alarm (R189). -/
def setAlarm (k c : Nat) : M s0 Unit := do
  setCh F.stkScrubStatus_alarm F.dtScrubStatus_alarm 1 k c
  modTier fun x => { x with alarmed := x.alarmed ++ [k * 16 + c] }

theorem after_setAlarm (t : { t : State // Reach s0 t }) (hc : ch < 16) :
    (after (setAlarm k ch) t).ch F.stkScrubStatus_alarm F.dtScrubStatus_alarm k ch = 1 ∧
      k * 16 + ch ∈ (after (setAlarm k ch) t).tier.alarmed := by
  unfold setAlarm
  rw [after_seq]
  refine ⟨?_, by simp [tier_after_modTier]⟩
  rw [ch_after_modTier, ch_after_setCh t 1 (fun h => stkCh_exists (by decide) h hc) (dtCh_exists (by decide) hc) rfl rfl]
  split <;> rfl

/-- The error record that follows changes no channel's status and no lap. -/
theorem errRecord_alarm (t : { t : State // Reach s0 t }) (x : ErrRec) :
    (after (errRecord x) t).ch F.stkScrubStatus_alarm F.dtScrubStatus_alarm k ch =
        t.1.ch F.stkScrubStatus_alarm F.dtScrubStatus_alarm k ch ∧
      (after (errRecord x) t).tier = t.1.tier :=
  have h := errRecord_records x t
  ⟨State.ch_congr (fun r hr => h.records_reg r hr) (show RegName.stkScrubStatus ∉ recordRegs by decide)
    (show RegName.dtScrubStatus ∉ recordRegs by decide) k ch 0, h.records_tier⟩

/-- A channel of memory without an error: the scrubber's read changes nothing, so its step is the lap's start and the move. -/
theorem scrub_calm (t : { t : State // Reach s0 t }) (hg : ∀ g, t.1.devAt g = 0) (g : Nat) :
    after (do startLap k ch; scrubGran g; scrubOn k ch) t = after (do startLap k ch; scrubOn k ch) t := by
  have hdev : (after (startLap k ch) t).devAt g = 0 := by
    rw [(startLap_beside k ch t).beside_eq]
    exact hg g
  refine (after_seq (startLap k ch) _ t).trans (Eq.trans ?_ (after_seq (startLap k ch) _ t).symm)
  exact after_bind_eq (scrubGran_clean hdev)

/-- What the lap's start and the move leave, from any state of a run. -/
theorem scrub_moved (t : { t : State // Reach s0 t }) (hc : ch < 16) :
    SameStore t.1 (after (do startLap k ch; scrubOn k ch) t) ∧
    (t.1.scrubPos k ch + 1 < chanGrans k → (after (do startLap k ch; scrubOn k ch) t).scrubPos k ch = t.1.scrubPos k ch + 1) ∧
    (k * 16 + ch ∉ t.1.tier.laps →
      (after (do startLap k ch; scrubOn k ch) t).ch F.stkScrubLapStart_time F.dtScrubLapStart_time k ch = t.1.now % 2 ^ 64) ∧
    (t.1.scrubPos k ch + 1 = chanGrans k → (after (do startLap k ch; scrubOn k ch) t).scrubPos k ch = 0 ∧
      (after (do startLap k ch; scrubOn k ch) t).ch F.stkScrubLapStart_time F.dtScrubLapStart_time k ch = t.1.now % 2 ^ 64 ∧
      k * 16 + ch ∉ (after (do startLap k ch; scrubOn k ch) t).tier.alarmed) := by
  rw [after_seq]
  obtain ⟨v, hv⟩ : ∃ v : { t : State // Reach s0 t }, v = ⟨after (startLap k ch) t, (startLap k ch t).2.2⟩ := ⟨_, rfl⟩
  have hval : v.1 = after (startLap k ch) t := congrArg Subtype.val hv
  have hsteps : Steps (setsBeside scrubRegs) t.1 v.1 := hval ▸ startLap_beside k ch t
  have hpos : v.1.scrubPos k ch = t.1.scrubPos k ch := by rw [hval, startLap_pos]
  have hnow : v.1.now = t.1.now := by rw [hsteps.beside_eq]
  rw [← hv, ← hpos, ← hnow]
  refine ⟨hsteps.beside_store.trans (scrubOn_beside k ch v).beside_store, scrubOn_moved hc v, fun h => ?_, scrubOn_wrapped hc v⟩
  exact scrubOn_time hc v (by rw [hnow, hval, startLap_time hc t h])

theorem scrubGranule_answers (hs : s.Sound) (hu : s.chanUp k ch = true) (hi : s.fld F.pwrStatus_idle ≤ 1)
    (he : s.ch F.stkScrubCfg_en F.dtScrubCfg_en k ch = 1) : Answers (.scrubGranule k ch) s fun t =>
      SameStore s t ∧ (s.scrubPos k ch + 1 < chanGrans k → t.scrubPos k ch = s.scrubPos k ch + 1) ∧
      (k * 16 + ch ∉ s.tier.laps → t.ch F.stkScrubLapStart_time F.dtScrubLapStart_time k ch = s.now % 2 ^ 64) ∧
      (s.scrubPos k ch + 1 = chanGrans k → t.scrubPos k ch = 0 ∧
        t.ch F.stkScrubLapStart_time F.dtScrubLapStart_time k ch = s.now % 2 ^ 64 ∧ k * 16 + ch ∉ t.tier.alarmed) := by
  obtain ⟨-, hc⟩ := State.chanUp_bounds hu
  refine answers_of_go (m := do
    startLap k ch
    scrubGran (s.granOf k ch (s.scrubPos k ch))
    scrubOn k ch) ?_ ?_
  · exact congrArg (M.go s) (whenM_pos ⟨hu, hi, he, by rw [hs.good]; decide⟩ _)
  · rw [scrub_calm _ hs.devAt]
    exact scrub_moved _ hc

theorem answers_scrubAlarm (hu : s.chanUp k ch = true) (hl : k * 16 + ch ∈ s.tier.laps) (ha : k * 16 + ch ∉ s.tier.alarmed)
    (ht : s.ch F.stkScrubAlarmUs_us F.dtScrubAlarmUs_us k ch < s.now - s.ch F.stkScrubLapStart_time F.dtScrubLapStart_time k ch) :
    Answers (.scrubAlarm k ch) s fun t =>
      t.ch F.stkScrubStatus_alarm F.dtScrubStatus_alarm k ch = 1 ∧ k * 16 + ch ∈ t.tier.alarmed := by
  obtain ⟨-, hc⟩ := State.chanUp_bounds hu
  have hgo : exec (.scrubAlarm k ch) s = M.go s (do
      setAlarm k ch
      errRecord { kind := 0x22, sev := 1, source := 2, loc := chanLoc k ch }) :=
    congrArg (M.go s) (whenM_pos ⟨hu, by simpa using hl, by simpa using ha, ht⟩ _)
  obtain ⟨hset, hmem⟩ := after_setAlarm (k := k) ⟨s, Reach.refl s⟩ hc
  refine answers_of_go hgo ?_
  rw [after_seq]
  obtain ⟨hch, htier⟩ := errRecord_alarm (k := k) (ch := ch) ⟨_, (setAlarm k ch ⟨s, Reach.refl s⟩).2.2⟩
    { kind := 0x22, sev := 1, source := 2, loc := chanLoc k ch }
  exact ⟨hch.trans hset, htier ▸ hmem⟩

end

end Sys2Proof.Machine
end

section
/-!
PROOFS. Reads and writes of memory (R183 to R195, R230) never let the serving counter move, proved along their programs.
-/
namespace Sys2Proof.Machine

variable {s0 : State} {α β : Type}

/-- An effect of the work of packets and collectives: registers, memory, and the state of queues, contexts, sets, scheduler,
tiers, fabric, link and power. The serving counter, the values in force and the units' own tables are not among them. -/
def Eff.Works : Eff → Prop
  | .reg _ _ | .fresh | .byte _ _ | .chk _ _ | .merges _ | .injected _ | .tier _ | .sched _ | .err _ | .fab _ | .thm _ | .pwr _
  | .que _ _ | .ctxs _ _ | .sets _ _ | .emit _ => True
  | _ => False

theorem Eff.Works.of_records {e : Eff} (h : e.Records) : e.Works := by
  cases e <;> trivial

/-- Work leaves the serving counter. -/
theorem Steps.works_now {s t : State} (h : Steps Eff.Works s t) : t.now = s.now :=
  h.keeps State.now fun e u he => by
    cases e with
    | tick => exact he.elim
    | hubZero => exact he.elim
    | _ => rfl

/-- A step taken under a condition, and what follows in either case. -/
theorem Only.ifThen {P : Eff → Prop} {c : Prop} [Decidable c] {m : M s0 Unit} {k : Unit → M s0 β} (hm : Only P m)
    (hk : ∀ u, Only P (k u)) : Only P (if c then m >>= k else k ()) := .ite (.bind hm hk) (hk ())

/-! ### Single steps -/

theorem setF_works {f : Fld} {v i j k : Nat} : Only Eff.Works (setF f v i j k : M s0 Unit) := .setF' _ _ _ _ _ fun _ => trivial
theorem setFlag_works {f : Fld} {v : Bool} {i j k : Nat} : Only Eff.Works (setFlag f v i j k : M s0 Unit) := setF_works
theorem bump_works {f : Fld} {d i j k : Nat} : Only Eff.Works (bump f d i j k : M s0 Unit) := .bump' _ _ _ _ _ fun _ => trivial
theorem bumpCh_works {fs fd : Fld} {d t c i : Nat} : Only Eff.Works (bumpCh fs fd d t c i : M s0 Unit) :=
  .ite bump_works bump_works

theorem modMerges_works {f : List Merge → List Merge} : Only Eff.Works (modMerges f : M s0 Unit) := .bind .cur fun _ => .eff _ trivial
theorem modInjected_works {f : List Nat → List Nat} : Only Eff.Works (modInjected f : M s0 Unit) := .bind .cur fun _ => .eff _ trivial
theorem modTier_works {f : Tier → Tier} : Only Eff.Works (modTier f : M s0 Unit) := .bind .cur fun _ => .eff _ trivial
theorem modSched_works {f : Sched → Sched} : Only Eff.Works (modSched f : M s0 Unit) := .bind .cur fun _ => .eff _ trivial
theorem modFab_works {f : Fab → Fab} : Only Eff.Works (modFab f : M s0 Unit) := .bind .cur fun _ => .eff _ trivial
theorem modThm_works {f : Thm → Thm} : Only Eff.Works (modThm f : M s0 Unit) := .bind .cur fun _ => .eff _ trivial
theorem modQue_works {k : Nat} {f : Queue → Queue} : Only Eff.Works (modQue k f : M s0 Unit) := .bind .cur fun _ => .eff _ trivial
theorem modCtxs_works {k : Nat} {f : Ctx → Ctx} : Only Eff.Works (modCtxs k f : M s0 Unit) := .bind .cur fun _ => .eff _ trivial
theorem modSets_works {k : Nat} {f : SetSt → SetSt} : Only Eff.Works (modSets k f : M s0 Unit) := .bind .cur fun _ => .eff _ trivial
theorem emit_works {o : Out} : Only Eff.Works (emit o : M s0 Unit) := .eff _ trivial
theorem takeFresh_works : Only Eff.Works (takeFresh : M s0 Nat) := .bind .cur fun _ => .bind (.eff _ trivial) fun _ => .pure _

theorem raiseVec_works {v : Nat} : Only Eff.Works (raiseVec v : M s0 Unit) := (raiseVec_records v).mono fun _ => .of_records
theorem pokeBytes_works {a : Nat} {bs : List Byte} : Only Eff.Works (pokeBytes a bs : M s0 Unit) :=
  (pokeBytes_records a bs).mono fun _ => .of_records
theorem storeGran_works {g : Nat} {bs : List Byte} : Only Eff.Works (storeGran g bs : M s0 Unit) :=
  (storeGran_records g bs).mono fun _ => .of_records
theorem writeGran_works {g : Nat} {bs : List Byte} : Only Eff.Works (writeGran g bs : M s0 Unit) :=
  (writeGran_records g bs).mono fun _ => .of_records
theorem errRecord_works {e : ErrRec} : Only Eff.Works (errRecord e : M s0 Unit) := (errRecord_records e).mono fun _ => .of_records

theorem freeWords_works {n : Nat} : Only Eff.Works (freeWords n : M s0 (List W64)) := by
  induction n with
  | zero => exact .pure _
  | succ n ih => exact .bind takeFresh_works fun _ => .bind ih fun _ => .pure _

theorem freeBytes_works {n : Nat} : Only Eff.Works (freeBytes n : M s0 (List Byte)) := .bind freeWords_works fun _ => .pure _

/-! ### Granules (R183 to R195) -/

theorem backGran_works {g : Nat} {bs : List Byte} : Only Eff.Works (backGran g bs : M s0 Unit) :=
  .bind pokeBytes_works fun _ => .bind (.eff _ trivial) fun _ => modInjected_works

theorem poisonGran_works {g : Nat} : Only Eff.Works (poisonGran g : M s0 Unit) :=
  .bind modMerges_works fun _ => .ifThen pokeBytes_works fun _ => .eff _ trivial

theorem decodeGran_works {g : Nat} : Only Eff.Works (decodeGran g : M s0 (Option (List Byte))) := by
  refine .bind .cur fun s => .ite (.pure _) ?_
  split
  · exact .pure _
  · exact .bind bumpCh_works fun _ => .bind backGran_works fun _ => .pure _
  · exact .pure _

theorem takeUncorrectable_works {w : Who} {g : Nat} : Only Eff.Works (takeUncorrectable w g : M s0 Unit) :=
  .bind .cur fun _ => .ite (.bind bumpCh_works fun _ => .ifThen modTier_works fun _ => .bind poisonGran_works fun _ => errRecord_works)
    (.pure ())

theorem writeOut_works {m : Merge} : Only Eff.Works (writeOut m : M s0 Unit) := by
  refine .bind modMerges_works fun _ => .ite storeGran_works (.bind .cur fun s => .bind bumpCh_works fun _ =>
    .bind decodeGran_works fun old => ?_)
  cases old with
  | some bs => exact storeGran_works
  | none => exact .ite (.bind errRecord_works fun _ => storeGran_works) takeUncorrectable_works

theorem writeOutAll_works {ms : List Merge} : Only Eff.Works (writeOutAll ms : M s0 Unit) := by
  induction ms with
  | nil => exact .pure ()
  | cons m ms ih => exact .bind writeOut_works fun _ => ih

theorem settle_works {g : Nat} : Only Eff.Works (settle g : M s0 Unit) := .bind .cur fun _ => writeOutAll_works

theorem xorPeers_works {g : Nat} {ns : List Nat} : Only Eff.Works (xorPeers g ns : M s0 (Option (List Byte))) := by
  induction ns with
  | nil => exact .pure _
  | cons n ns ih => exact .bind .cur fun _ => .bind decodeGran_works fun _ => .bind ih fun _ => .pure _

theorem decodeNow_works {g : Nat} : Only Eff.Works (decodeNow g : M s0 (Option (List Byte))) :=
  .bind settle_works fun _ => .bind decodeGran_works fun _ =>
    .ifThen takeUncorrectable_works fun _ => .pure _

theorem restoreEntry_works {r : Nat} {gs : List Nat} : Only Eff.Works (restoreEntry r gs : M s0 (Option (Nat × Nat))) := by
  induction gs with
  | nil => exact .pure _
  | cons g gs ih =>
    refine .bind decodeNow_works fun d => ?_
    dsimp only
    split
    · exact .pure _
    · exact ih

theorem restoreGran_works {copy first g : Nat} : Only Eff.Works (restoreGran copy first g : M s0 Bool) :=
  .bind decodeNow_works fun data => match data with
    | some _ => .bind backGran_works fun _ => .bind bump_works fun _ => .pure _
    | none => .pure _

theorem restoreAll_works {copy first g : Nat} {ns : List Nat} : Only Eff.Works (restoreAll copy first g ns : M s0 Unit) := by
  induction ns with
  | nil => exact .pure ()
  | cons n ns ih => exact .bind decodeGran_works fun _ => .ite (.bind restoreGran_works fun _ => ih) ih

theorem rebuildGran_works {w : Who} {g : Nat} : Only Eff.Works (rebuildGran w g : M s0 (Option (List Byte))) := by
  refine .bind .cur fun s => .bind xorPeers_works fun sum => ?_
  cases sum with
  | some bs =>
    exact .ifThen backGran_works fun _ => .bind bump_works fun _ => .bind errRecord_works fun _ => .pure _
  | none =>
    refine .bind poisonGran_works fun _ => .bind bump_works fun _ => .bind restoreEntry_works fun e => ?_
    cases e with
    | some e => exact .bind restoreAll_works fun _ => .bind errRecord_works fun _ => .pure _
    | none => exact .bind errRecord_works fun _ => .pure _

theorem retireSet_works {d st active : Nat} : Only Eff.Works (retireSet d st active : M s0 Unit) :=
  .bind setF_works fun _ => setF_works

theorem bankError_works {x g : Nat} : Only Eff.Works (bankError x g : M s0 Unit) :=
  .bind poisonGran_works fun _ => .bind .cur fun _ => .bind modSets_works fun _ => .ite retireSet_works (.pure ())

theorem sbufRead_works {g : Nat} : Only Eff.Works (sbufRead g : M s0 Unit) := by
  unfold sbufRead
  split
  · exact .bind .cur fun _ => .ite (.bind takeFresh_works fun _ => .ite bankError_works (.pure ())) (.pure ())
  · exact .pure ()

theorem readGran_works {w : Who} {g : Nat} : Only Eff.Works (readGran w g : M s0 (Option (List Byte) × Bool)) := by
  have hrebuild : Only Eff.Works (do let r ← rebuildGran w g; pure (r, true) : M s0 _) :=
    .bind rebuildGran_works fun _ => .pure _
  refine .bind settle_works fun _ => .bind sbufRead_works fun _ => .bind .cur fun s =>
    .ite (.ite hrebuild (.pure _)) (.bind decodeGran_works fun r => ?_)
  cases r with
  | some bs => exact .pure _
  | none => exact .ite hrebuild (.bind takeUncorrectable_works fun _ => .pure _)

theorem writeNarrow_works {g off : Nat} {bs : List Byte} {record : Bool} :
    Only Eff.Works (writeNarrow g off bs record : M s0 Unit) := by
  refine .bind .cur fun s => ?_
  dsimp only
  split
  · exact .bind modMerges_works fun _ => .ite writeOut_works (.pure ())
  · exact .ifThen writeOutAll_works fun _ => modMerges_works

theorem writePiece_works {record : Bool} {a : Nat} {bs : List Byte} {g : Nat} :
    Only Eff.Works (writePiece record a bs g : M s0 Unit) :=
  .ite writeGran_works (.ite writeNarrow_works (.bind .cur fun _ => .ite pokeBytes_works (.pure ())))

theorem writePieces_works {record : Bool} {a : Nat} {bs : List Byte} {gs : List Nat} :
    Only Eff.Works (writePieces record a bs gs : M s0 Unit) := by
  induction gs with
  | nil => exact .pure ()
  | cons g gs ih => exact .bind writePiece_works fun _ => ih

theorem writeAt_works {a : Nat} {bs : List Byte} {record : Bool} : Only Eff.Works (writeAt a bs record : M s0 Unit) :=
  writePieces_works

theorem readGrans_works {w : Who} {gs : List Nat} : Only Eff.Works (readGrans w gs : M s0 _) := by
  induction gs with
  | nil => exact .pure _
  | cons g gs ih =>
    refine .bind readGran_works fun r => ?_
    obtain ⟨r, rb⟩ := r
    cases r with
    | none => exact .pure _
    | some bs => exact .bind ih fun _ => .pure _

theorem readAt_works {w : Who} {a n : Nat} : Only Eff.Works (readAt w a n : M s0 _) := .bind readGrans_works fun _ => .pure _

theorem walkFrom_works {ac : Acc} {va fuel level table : Nat} : Only Eff.Works (walkFrom ac va fuel level table : M s0 _) := by
  induction fuel generalizing level table with
  | zero => exact .pure _
  | succ fuel ih =>
    refine .bind .cur fun s => .ite (.pure _) (.bind readGran_works fun r => ?_)
    obtain ⟨r, rb⟩ := r
    cases r with
    | none => exact .pure _
    | some bs => exact .ite (.pure _) (.ite (.ite (.pure _) (.pure _)) (.ite (.pure _) (.bind ih fun _ => .pure _)))

theorem leafWalk_works {ac : Acc} {va : Nat} : Only Eff.Works (leafWalk ac va : M s0 _) :=
  .bind .cur fun _ => .ite (.pure _) walkFrom_works

theorem walk_works {ac : Acc} {va : Nat} {write : Bool} : Only Eff.Works (walk ac va write : M s0 _) :=
  .bind leafWalk_works fun _ => .bind .cur fun _ => .pure _

end Sys2Proof.Machine
end

section
/-!
PROOFS. Accesses by virtual address, operations that may stop (R175, R309, R371): they do work alone, whatever they find.
-/
namespace Sys2Proof.Machine

variable {s0 : State} {α β : Type} {P : Eff → Prop}

/-! ### Operations that may stop -/

/-- Every effect of an operation that may stop satisfies P, from whatever log it starts. -/
def OnlyA (P : Eff → Prop) (m : A s0 α) : Prop := ∀ l t, Steps P t.1 (m.run.run l t).2.1

theorem OnlyA.pure (a : α) : OnlyA P (Pure.pure a : A s0 α) := fun _ t => .refl t.1
theorem OnlyA.throw (e : Stop) : OnlyA P (MonadExcept.throw e : A s0 α) := fun _ t => .refl t.1
theorem OnlyA.get : OnlyA P (MonadState.get : A s0 Log) := fun _ t => .refl t.1
theorem OnlyA.modify (f : Log → Log) : OnlyA P (modifyThe Log f : A s0 Unit) := fun _ t => .refl t.1
theorem OnlyA.lift {m : M s0 α} (h : Only P m) : OnlyA P (liftM m : A s0 α) := fun _ t => h t
theorem OnlyA.cur : OnlyA P (liftM (Machine.cur : M s0 State) : A s0 State) := .lift .cur

/-- What goes on from an operation's answer, whichever it is. -/
theorem OnlyA.andThen {m : A s0 α} {g : Except Stop α → StateT Log (M s0) (Except Stop β)} (h : OnlyA P m)
    (k : ∀ r l t, Steps P t.1 (g r l t).2.1) : OnlyA P (ExceptT.mk (m.run >>= g)) := fun l t => (h l t).trans (k _ _ _)

theorem OnlyA.bind {m : A s0 α} {f : α → A s0 β} (h : OnlyA P m) (k : ∀ a, OnlyA P (f a)) : OnlyA P (m >>= f) :=
  .andThen (g := ExceptT.bindCont f) h fun r => match r with
    | .ok a => k a
    | .error _ => fun _ t => .refl t.1

theorem OnlyA.ite {c : Prop} [Decidable c] {m k : A s0 α} (h : OnlyA P m) (h' : OnlyA P k) : OnlyA P (if c then m else k) := by
  split <;> assumption

theorem OnlyA.ifThen {c : Prop} [Decidable c] {m : A s0 Unit} {k : Unit → A s0 β} (hm : OnlyA P m)
    (hk : ∀ u, OnlyA P (k u)) : OnlyA P (if c then m >>= k else k ()) := .ite (.bind hm hk) (hk ())

theorem OnlyA.tryCatch {m : A s0 α} {f : Stop → A s0 α} (h : OnlyA P m) (k : ∀ e, OnlyA P (f e)) :
    OnlyA P (MonadExcept.tryCatch m f) :=
  .andThen h fun r => match r with
    | .ok _ => fun _ t => .refl t.1
    | .error e => k e

theorem Only.runA {m : A s0 α} (h : OnlyA P m) : Only P (Machine.runA m) := fun t => h {} t

/-! ### What an access notes -/

theorem noteGran_works {g : Nat} {write : Bool} : OnlyA Eff.Works (noteGran g write : A s0 Unit) := .ite (.modify _) (.pure ())

theorem noteGrans_works {write : Bool} {gs : List Nat} : OnlyA Eff.Works (noteGrans write gs : A s0 Unit) := by
  induction gs with
  | nil => exact .pure ()
  | cons g gs ih => exact .bind noteGran_works fun _ => ih

theorem noteRebuilt_works {gs : List Nat} : OnlyA Eff.Works (noteRebuilt gs : A s0 Unit) := by
  induction gs with
  | nil => exact .pure ()
  | cons g gs ih => exact .bind noteGrans_works fun _ => .bind (.modify _) fun _ => ih

theorem noteWalk_works {rs : List GranRead} : OnlyA Eff.Works (noteWalk rs : A s0 Unit) :=
  .bind noteGrans_works fun _ => noteRebuilt_works

theorem noteUse_works {ac : Acc} {a n : Nat} {write : Bool} : OnlyA Eff.Works (noteUse ac a n write : A s0 Unit) :=
  .ite (.pure ()) noteGrans_works

/-! ### Translation, the link and snoops -/

theorem leafOf_works {ac : Acc} {va : Nat} : OnlyA Eff.Works (leafOf ac va : A s0 _) :=
  .bind (.lift leafWalk_works) fun _ => .bind noteWalk_works fun _ => .pure _

theorem tr_works {ac : Acc} {va : Nat} {write : Bool} : OnlyA Eff.Works (tr ac va write : A s0 Nat) := by
  refine .bind leafOf_works fun r => .bind .cur fun s => ?_
  split
  · exact .pure _
  · exact .ite (.throw _) (.throw _)

theorem needLink_works {a : Nat} : OnlyA Eff.Works (needLink a : A s0 Unit) :=
  .ite (.bind .cur fun _ => .ite (.throw _) (.ite (.throw _) (.pure ()))) (.pure ())

theorem snoopFor_works {ac : Acc} {g : Nat} {write : Bool} : OnlyA Eff.Works (snoopFor ac g write : A s0 Unit) := by
  refine .bind .cur fun s => .ite (.bind .get fun l => .ite
    (.bind (.modify _) fun _ => .bind (.lift bump_works) fun _ => .lift errRecord_works) (.pure ())) ?_
  split
  · exact .pure ()
  · exact .ite (.throw _) (.ite (.bind (.lift emit_works) fun _ => .lift modThm_works) (.pure ()))

theorem snoopAll_works {ac : Acc} {write : Bool} {gs : List Nat} : OnlyA Eff.Works (snoopAll ac write gs : A s0 Unit) := by
  induction gs with
  | nil => exact .pure ()
  | cons g gs ih => exact .bind snoopFor_works fun _ => ih

/-! ### Reads -/

theorem rdPhys_works {ac : Acc} {va a n : Nat} : OnlyA Eff.Works (rdPhys ac va a n : A s0 (List Byte)) := by
  refine .bind needLink_works fun _ => .bind snoopAll_works fun _ => .bind noteUse_works fun _ => .bind (.lift readAt_works) fun r =>
    .bind noteRebuilt_works fun _ => ?_
  split
  · exact .pure _
  · exact .throw _

theorem orFree_works {ac : Acc} {n : Nat} {m : A s0 (List Byte)} (h : OnlyA Eff.Works m) : OnlyA Eff.Works (orFree ac n m) :=
  .ite (.tryCatch h fun _ => .lift freeBytes_works) h

theorem rdPieces_works {ac : Acc} {ps : List (Nat × Nat × Nat)} : OnlyA Eff.Works (rdPieces ac ps : A s0 (List Byte)) := by
  induction ps with
  | nil => exact .pure _
  | cons p ps ih => exact .bind (orFree_works (.bind tr_works fun _ => rdPhys_works)) fun _ => .bind ih fun _ => .pure _

theorem rd_works {ac : Acc} {va n : Nat} : OnlyA Eff.Works (rd ac va n : A s0 (List Byte)) := rdPieces_works

theorem rdDestPieces_works {ac : Acc} {ps : List (Nat × Nat × Nat)} : OnlyA Eff.Works (rdDestPieces ac ps : A s0 (List Byte)) := by
  induction ps with
  | nil => exact .pure _
  | cons p ps ih => exact .bind (orFree_works (.bind tr_works fun _ => rdPhys_works)) fun _ => .bind ih fun _ => .pure _

theorem rdDest_works {ac : Acc} {va n : Nat} : OnlyA Eff.Works (rdDest ac va n : A s0 (List Byte)) := rdDestPieces_works

/-! ### Writes -/

theorem wrPieces_works {ac : Acc} {w : Wr} {ps : List (Nat × Nat × Nat)} : OnlyA Eff.Works (wrPieces ac w ps : A s0 (List Wr)) := by
  induction ps with
  | nil => exact .pure _
  | cons p ps ih =>
    have hpiece : OnlyA Eff.Works (do
        let a ← tr ac p.1 true
        if (← (cur : M s0 _)).refusesWrite a then throw (.flt 0x21 p.1 true ac.source)
        needLink a
        snoopAll ac true (gransOf a p.2.2)
        noteUse ac a p.2.2 true
        pure [{ va := a, bs := (w.bs.drop p.2.1).take p.2.2, half := w.half }] : A s0 (List Wr)) :=
      .bind tr_works fun a => .bind .cur fun s => .ifThen (.throw _) fun _ => .bind needLink_works fun _ => .bind snoopAll_works fun _ =>
        .bind noteUse_works fun _ => .pure _
    exact .bind (.ite (.tryCatch hpiece fun _ => .pure _) hpiece) fun _ => .bind ih fun _ => .pure _

theorem wrPlan_works {ac : Acc} {ws : List Wr} : OnlyA Eff.Works (wrPlan ac ws : A s0 (List Wr)) := by
  induction ws with
  | nil => exact .pure _
  | cons w ws ih => exact .bind wrPieces_works fun _ => .bind ih fun _ => .pure _

theorem wrOne_works {w : Wr} : Only Eff.Works (wrOne w : M s0 Unit) := by
  unfold wrOne
  split
  · exact writeAt_works
  · refine .bind decodeNow_works fun d => ?_
    cases d with
    | some bs => exact writeAt_works
    | none => exact .pure ()

theorem wrDo_works {ws : List Wr} : Only Eff.Works (wrDo ws : M s0 Unit) := by
  induction ws with
  | nil => exact .pure ()
  | cons w ws ih => exact .bind wrOne_works fun _ => ih

theorem wrAll_works {ac : Acc} {ws : List Wr} : OnlyA Eff.Works (wrAll ac ws : A s0 Unit) :=
  .bind wrPlan_works fun _ => .lift wrDo_works

end Sys2Proof.Machine
end

section
/-!
PROOFS. The run of a packet's operation and its end (R146, R178, R331, R458), and what is refreshed after it: work alone.
-/
namespace Sys2Proof.Machine

variable {s0 : State} {α β : Type} {P : Eff → Prop}

/-! ### Status registers kept up to date -/

theorem refreshSet_works {x : Nat} : Only Eff.Works (refreshSet x : M s0 Unit) := by
  refine .bind .cur fun s => ?_
  have howner : Only Eff.Works (match s.holderOf x with
      | some c => if s.fld F.cdSetOwner_partition (x / 40) (x % 40) ≠ s.fld F.schCtxCfg_partition c then
          setF F.cdSetOwner_partition (s.fld F.schCtxCfg_partition c) (x / 40) (x % 40) else pure ()
      | none => pure () : M s0 Unit) := by
    split
    · exact .ite setF_works (.pure ())
    · exact .pure ()
  exact .ifThen setF_works fun _ => .ifThen setFlag_works fun _ => howner

theorem refreshQueue_works {c q : Nat} : Only Eff.Works (refreshQueue c q : M s0 Unit) :=
  .bind .cur fun _ => .bind setFlag_works fun _ => .bind setFlag_works fun _ => setF_works

theorem refreshCtx_works {c : Nat} : Only Eff.Works (refreshCtx c : M s0 Unit) :=
  .bind .cur fun _ => .bind setF_works fun _ => .bind setFlag_works fun _ => .bind setFlag_works fun _ =>
    .bind (.each _ fun _ => refreshQueue_works) fun _ => .each _ fun _ => refreshSet_works

theorem refreshState_works {c : Nat} : Only Eff.Works (refreshState c : M s0 Unit) :=
  .bind .cur fun _ => .ite
    (.ite (.bind setF_works fun _ => .bind setF_works fun _ => .ite modCtxs_works (.pure ())) (.pure ()))
    (.ite (.ite (.bind setFlag_works fun _ => .ite modCtxs_works (.pure ())) (.pure ())) (.pure ()))

theorem refresh_works {c : Nat} : Only Eff.Works (refresh c : M s0 Unit) := .bind refreshCtx_works fun _ => refreshState_works

theorem unstick_works {c : Nat} : Only Eff.Works (unstick c : M s0 Unit) := .each _ fun _ => modQue_works

theorem unstickAll_works : Only Eff.Works (unstickAll : M s0 Unit) := .bind .cur fun _ => .each _ fun _ => unstick_works

/-! ### A packet's record -/

theorem modPkt_works {c id : Nat} {f : Pkt → Pkt} : Only Eff.Works (modPkt c id f : M s0 Unit) := modCtxs_works
theorem endPkt_works {c id status detail : Nat} : Only Eff.Works (endPkt c id status detail : M s0 Unit) := modPkt_works
theorem waitPkt_works {c id : Nat} : Only Eff.Works (waitPkt c id : M s0 Unit) := modPkt_works

theorem logOutcome_works {c : Nat} {p : Pkt} {v : Nat} : Only Eff.Works (logOutcome c p v : M s0 Unit) :=
  .ite modCtxs_works (.pure ())

/-! ### Tokens (R178) -/

theorem countGrans_works {t part n : Nat} : Only Eff.Works (countGrans t part n : M s0 Unit) := .ite bump_works bump_works
theorem takeTokens_works {t part n : Nat} : Only Eff.Works (takeTokens t part n : M s0 Unit) := modSched_works
theorem noteThrottled_works {t part : Nat} : Only Eff.Works (noteThrottled t part : M s0 Unit) := modSched_works

theorem chargeTokens_works {c : Nat} {p : Pkt} {part : Nat} {use : Nat × Nat} :
    Only Eff.Works (chargeTokens c p part use : M s0 Unit) :=
  .bind takeTokens_works fun _ => .bind countGrans_works fun _ => modPkt_works

theorem payPart_works {c : Nat} {p : Pkt} {part : Nat} {use : Nat × Nat} : Only Eff.Works (payPart c p part use : M s0 Unit) :=
  .bind .cur fun _ => .ite (.bind takeTokens_works fun _ => .bind noteThrottled_works fun _ => modPkt_works) (.pure ())

/-! ### Runs that may be taken back -/

/-- A run that is kept or taken back whole. -/
theorem Only.attempt {m : M s0 α} {good : α → Bool} (h : Only P m) : Only P (Machine.attempt m good) := fun t => by
  have hm : Steps P t.1 (m t).2.1 := h t
  change Steps P t.1 (if good (m t).1 then (((m t).1, true), (m t).2) else (((m t).1, false), t)).2.1
  split
  · exact hm
  · exact .refl t.1

/-- A run made for its answer alone changes nothing. -/
theorem Only.whatIf {m : M s0 α} : Only P (Machine.whatIf m) := fun t => .refl t.1

/-! ### Faults (R331) -/

theorem enterFaults_works {fs : List OpenFault} : Only Eff.Works (enterFaults fs : M s0 Unit) := by
  induction fs with
  | nil => exact .pure ()
  | cons f fs ih =>
    exact .bind .cur fun s => .ite (.ifThen writeAt_works fun _ => .bind setF_works fun _ => .bind modSched_works fun _ =>
      .bind bump_works fun _ => .bind raiseVec_works fun _ => ih) ih

theorem flushFaults_works : Only Eff.Works (flushFaults : M s0 Unit) :=
  .bind .cur fun _ => .bind enterFaults_works fun _ => .bind .cur fun _ => setFlag_works

theorem openFault_works {c source status va : Nat} {write : Bool} {seq op q : Nat} {pkt : Option Nat} :
    Only Eff.Works (openFault c source status va write seq op q pkt : M s0 Nat) :=
  .bind .cur fun _ => .bind modSched_works fun _ => .bind flushFaults_works fun _ => .pure _

/-! ### What an abandoned packet leaves (R146) -/

theorem afterwards_works {ac : Acc} {body : Acc → A s0 Unit} {xs : List Place} : Only Eff.Works (afterwards ac body xs) := .whatIf

theorem oldOrNew_works {ac : Acc} {xs : List (Place × Option Nat × Option Nat)} : Only Eff.Works (oldOrNew ac xs : M s0 Unit) := by
  induction xs with
  | nil => exact .pure ()
  | cons x xs ih =>
    obtain ⟨x, a, b⟩ := x
    cases a with
    | none => exact ih
    | some v =>
      cases b with
      | none => exact ih
      | some w => exact .ite (.bind takeFresh_works fun _ => .ite (.bind (.runA wrAll_works) fun _ => ih) ih) ih

theorem leavePlaces_works {ac : Acc} {body : Acc → A s0 Unit} {xs : List Place} : Only Eff.Works (leavePlaces ac body xs) :=
  .bind afterwards_works fun _ => .bind takeFresh_works fun _ => .bind afterwards_works fun _ => oldOrNew_works

theorem freeElem_works {ac : Acc} {t : Desc} {l : Int} : Only Eff.Works (freeElem ac t l : M s0 Unit) :=
  .bind takeFresh_works fun _ => .bind takeFresh_works fun _ => .ite (.bind (.runA wrAll_works) fun _ => .pure _) (.pure ())

theorem freeDests_works {c : Nat} {p : Pkt} : Only Eff.Works (freeDests c p : M s0 Unit) :=
  .bind .cur fun _ => .each _ fun _ => .each _ fun _ => freeElem_works

theorem leaveDests_works {c : Nat} {p : Pkt} {body : Acc → A s0 Fin} : Only Eff.Works (leaveDests c p body) :=
  .bind .cur fun _ => .ite freeDests_works leavePlaces_works

/-! ### Encores exhausted (R458) -/

theorem destGrans_works {ac : Acc} {vas : List Nat} : Only Eff.Works (destGrans ac vas : M s0 (List Nat)) := by
  induction vas with
  | nil => exact .pure _
  | cons va vas ih => exact .bind walk_works fun _ => .bind ih fun _ => .pure _

theorem chooseGrans_works {gs : List Nat} : Only Eff.Works (chooseGrans gs : M s0 (List Nat)) := by
  induction gs with
  | nil => exact .pure _
  | cons g gs ih => exact .bind takeFresh_works fun _ => .bind ih fun _ => .pure _

theorem exhaustGran_works {g : Nat} : Only Eff.Works (exhaustGran g : M s0 Unit) := by
  unfold exhaustGran
  split
  · exact .bind takeFresh_works fun _ => .bind freeBytes_works fun _ => .ite pokeBytes_works (.pure ())
  · exact poisonGran_works

theorem poisonDests_works {c : Nat} {p : Pkt} : Only Eff.Works (poisonDests c p : M s0 Nat) :=
  .bind .cur fun _ => .bind destGrans_works fun _ => .bind chooseGrans_works fun _ =>
    .bind (.each _ fun _ => exhaustGran_works) fun _ => .bind bump_works fun _ => .pure _

/-! ### A packet's end -/

theorem askSnoop_works {sn : Option (Nat × Bool)} : Only Eff.Works (askSnoop sn : M s0 Unit) := by
  cases sn with
  | none => exact .pure ()
  | some x => exact .bind .cur fun _ => .ite (.bind modThm_works fun _ => emit_works) (.pure ())

theorem countWork_works {c : Nat} {p : Pkt} : Only Eff.Works (countWork c p : M s0 Unit) :=
  .bind takeFresh_works fun _ => .bind .cur fun _ => .each _ fun _ => .whenM modSets_works

/-- Two steps taken under conditions, one between them, and what follows. -/
theorem Only.seqIfIf {c d : Prop} [Decidable c] [Decidable d] {m k n r : M s0 Unit} (hm : Only P m) (hk : Only P k) (hn : Only P n)
    (hr : Only P r) : Only P (do
      if c then m
      k
      if d then n
      r) := .ifThen hm fun _ => .bind hk fun _ => .ifThen hn fun _ => hr

theorem endRun_works {c : Nat} {p : Pkt} {source : Nat} {r : Except Stop Fin} {l : Log} {onAbort : M s0 Unit}
    (h : Only Eff.Works onAbort) : Only Eff.Works (endRun c p source r l onAbort) := by
  have hran (s : State) {tail : M s0 Unit} (ht : Only Eff.Works tail) : Only Eff.Works (do
      if l.recovered then modPkt c p.id fun y => { y with recovered := true }
      each l.used (chargeTokens c p (s.partOf c))
      if l.grans ≠ [] then countWork c p
      tail) := .seqIfIf modPkt_works (.each _ fun _ => chargeTokens_works) countWork_works ht
  refine .bind .cur fun s => ?_
  cases r with
  | ok f =>
    exact hran s (.ite waitPkt_works (.ite (.bind poisonDests_works fun _ => .bind modPkt_works fun _ => endPkt_works) endPkt_works))
  | error e =>
    cases e with
    | flt st va w k => exact hran s (.ite (.bind openFault_works fun _ => modPkt_works) (.bind h fun _ => endPkt_works))
    | poison va dpa => exact hran s (.bind h fun _ => .bind modPkt_works fun _ => endPkt_works)
    | internal => exact hran s (.bind h fun _ => endPkt_works)
    | hold sn => exact hran s askSnoop_works
    | fail st d => exact hran s endPkt_works

theorem touchPoison_works {ac : Acc} {r : Except Stop α} : Only Eff.Works (touchPoison ac r : M s0 Unit) := by
  unfold touchPoison
  split
  · exact .bind (.runA rd_works) fun _ => .pure _
  · exact .pure ()

theorem runPktWith_works {c : Nat} {p : Pkt} {source : Nat} {atomic : Bool} {onAbort : M s0 Unit} {body : Acc → A s0 Fin}
    (habort : Only Eff.Works onAbort) (h : ∀ ac, OnlyA Eff.Works (body ac)) :
    Only Eff.Works (runPktWith c p source atomic onAbort body) :=
  .bind .cur fun _ => .bind (.attempt (.runA (h _))) fun _ => .ite
    (.ifThen touchPoison_works fun _ => .bind (endRun_works habort) fun _ => refresh_works)
    (.bind (.each _ fun _ => payPart_works) fun _ => refresh_works)

theorem runPkt_works {c : Nat} {p : Pkt} {source : Nat} {body : Acc → A s0 Fin} (h : ∀ ac, OnlyA Eff.Works (body ac)) :
    Only Eff.Works (runPkt c p source body) := runPktWith_works leaveDests_works h

end Sys2Proof.Machine
end

section
/-!
PROOFS. The fabric's frames, the collectives' pump and the tick of the serving counter (R5, R178, R341 to R358): all of it work,
but for the tick itself.
-/
namespace Sys2Proof.Machine

variable {s0 : State} {α β : Type} {P : Eff → Prop}

/-! ### Frames (R341, R361) -/

theorem modPeer_works {i : Nat} {f : Peer → Peer} : Only Eff.Works (modPeer i f : M s0 Unit) := modFab_works

theorem passHeld_works {p : Nat} {rx : Bool} {go : List Byte → M s0 Unit} (h : ∀ f, Only Eff.Works (go f)) :
    Only Eff.Works (passHeld p rx go) := .bind .cur fun _ => .bind modFab_works fun _ => .each _ fun _ => h _

theorem inject_works {p : Nat} {rx : Bool} {frame : List Byte} {go : List Byte → M s0 Unit} (h : ∀ f, Only Eff.Works (go f)) :
    Only Eff.Works (inject p rx frame go) := by
  have hgo : Only Eff.Works (do go frame; passHeld p rx go) := .bind (h _) fun _ => passHeld_works h
  refine .bind .cur fun s => .ite (.bind modFab_works fun _ => .ite (.bind bump_works fun _ => .bind modFab_works fun _ => ?_) hgo) hgo
  refine .ifThen setFlag_works fun _ => ?_
  split
  · exact passHeld_works h
  · exact .bind (h _) fun _ => passHeld_works h
  · exact .bind (passHeld_works h) fun _ => modFab_works

theorem leavePort_works {p : Nat} {frame : List Byte} : Only Eff.Works (leavePort p frame : M s0 Unit) :=
  .bind bump_works fun _ => emit_works

theorem sendFrame_works {i : Nat} {hdr : List Nat} {psn : Nat} {body : List Byte} {tries : Nat} :
    Only Eff.Works (sendFrame i hdr psn body tries : M s0 Unit) := by
  refine .bind .cur fun s => ?_
  dsimp only
  split
  · exact .pure ()
  · exact .bind modPeer_works fun _ => inject_works fun _ => leavePort_works

theorem sendNumbered_works {i : Nat} {hdr : List Nat} {body : List Byte} : Only Eff.Works (sendNumbered i hdr body : M s0 Unit) :=
  .bind .cur fun _ => .bind modPeer_works fun _ => sendFrame_works

/-! ### Collectives (R354 to R358) -/

theorem breakGroup_works {g rank : Nat} : Only Eff.Works (breakGroup g rank : M s0 Unit) :=
  .bind modFab_works fun _ => .bind setF_works fun _ => setF_works

theorem modGrp_works {g : Nat} {f : GroupSt → GroupSt} : Only Eff.Works (modGrp g f : M s0 Unit) := modFab_works
theorem modColl_works {g : Nat} {f : Coll → Coll} : Only Eff.Works (modColl g f : M s0 Unit) := modGrp_works

theorem sendCredit_works {g stream r n : Nat} : Only Eff.Works (sendCredit g stream r n : M s0 Unit) := by
  refine .bind .cur fun s => ?_
  split
  · exact .ite (.bind sendNumbered_works fun _ => modColl_works) (.pure ())
  · exact .pure ()

theorem chargePort_works {p part n : Nat} : Only Eff.Works (chargePort p part n : M s0 Unit) :=
  .bind .cur fun _ => .bind modSched_works fun _ => bump_works

theorem throttlePort_works {p part : Nat} : Only Eff.Works (throttlePort p part : M s0 Unit) := modSched_works

theorem pumpStream_works {g stream r fuel : Nat} : Only Eff.Works (pumpStream g stream r fuel : M s0 Unit) := by
  induction fuel with
  | zero => exact .pure ()
  | succ fuel ih =>
    refine .bind .cur fun s => ?_
    dsimp only
    split
    · exact .ite (.pure ()) (.ite throttlePort_works (.bind chargePort_works fun _ => .bind sendNumbered_works fun _ =>
        .bind modColl_works fun _ => ih))
    · exact .pure ()

theorem grantStream_works {g : Nat} {e : Nat × Nat × Nat} : Only Eff.Works (grantStream g e : M s0 Unit) := by
  refine .bind .cur fun s => ?_
  dsimp only
  split
  · exact .ite sendCredit_works (.pure ())
  · exact .pure ()

theorem breakAfter_works {g c id rank : Nat} : Only Eff.Works (breakAfter g c id rank : M s0 Unit) := by
  refine .bind .cur fun s => ?_
  split
  · exact .ite breakGroup_works (.pure ())
  · exact .pure ()

theorem collFail_works {g rank status : Nat} : Only Eff.Works (collFail g rank status : M s0 Unit) := by
  have hend (c : Nat) : Only Eff.Works (do breakGroup g rank; unstickAll; refresh c : M s0 Unit) :=
    .bind breakGroup_works fun _ => .bind unstickAll_works fun _ => refresh_works
  refine .bind .cur fun s => ?_
  split
  · dsimp only
    split
    · exact .bind freeDests_works fun _ => .bind endPkt_works fun _ => hend _
    · exact hend _
  · exact .pure ()

theorem finishColl_works {g : Nat} : Only Eff.Works (finishColl g : M s0 Unit) := by
  refine .bind .cur fun s => ?_
  dsimp only
  split
  · split
    · split
      · refine .ite (.ifThen modPkt_works fun _ => .bind (runPkt_works fun _ => .bind wrAll_works fun _ => .pure _) fun _ =>
          .bind .cur fun s => ?_) (.pure ())
        split
        · exact .ite (.bind logOutcome_works fun _ => .bind bump_works fun _ => .bind modGrp_works fun _ => .bind setF_works fun _ =>
            .bind unstickAll_works fun _ => refresh_works) breakAfter_works
        · exact .pure ()
      · exact .pure ()
    · exact .pure ()
  · exact .pure ()

theorem beginColl_works {g : Nat} : Only Eff.Works (beginColl g : M s0 Unit) := by
  refine .bind .cur fun s => ?_
  dsimp only
  split
  · exact .ite (.bind modColl_works fun _ => .each _ fun _ => sendCredit_works) (.pure ())
  · exact .pure ()

theorem pump_works {g : Nat} : Only Eff.Works (pump g : M s0 Unit) := by
  refine .bind .cur fun s => ?_
  dsimp only
  split
  · split
    · exact collFail_works
    · exact .ite (.bind beginColl_works fun _ => .bind .cur fun _ => .ite
        (.bind (.each _ fun _ => grantStream_works) fun _ => .bind (.each _ fun _ => pumpStream_works) fun _ => finishColl_works)
        (.pure ())) (.pure ())
    · exact .pure ()
  · exact .pure ()

theorem collTick_works {g : Nat} : Only Eff.Works (collTick g : M s0 Unit) :=
  .bind pump_works fun _ => .bind .cur fun _ => modGrp_works

/-! ### The rest of a tick -/

theorem setCtxState_works {c v : Nat} : Only Eff.Works (setCtxState c v : M s0 Unit) :=
  .bind .cur fun _ => .ite (.bind setF_works fun _ => .bind .cur fun _ => setF_works) (.pure ())

theorem requestPreempt_works {c p : Nat} : Only Eff.Works (requestPreempt c p : M s0 Unit) := by
  refine .bind .cur fun s => .ite (.ite (.bind setCtxState_works fun _ => modCtxs_works) (.ite ?_ (.pure ()))) (.pure ())
  split <;> exact modCtxs_works

theorem yieldReserved_works : Only Eff.Works (yieldReserved : M s0 Unit) := by
  refine .bind .cur fun s => ?_
  split
  · exact .pure ()
  · exact .each _ fun _ => requestPreempt_works

/-- An effect of what a tick counts and shows: registers, and the idle states' own times. -/
def Eff.Counts : Eff → Prop
  | .reg _ _ | .pwr _ => True
  | _ => False

theorem Eff.Works.of_counts {e : Eff} (h : e.Counts) : e.Works := by
  cases e <;> trivial

theorem bump_counts {f : Fld} {d i j k : Nat} : Only Eff.Counts (bump f d i j k : M s0 Unit) := .bump' _ _ _ _ _ fun _ => trivial
theorem setF_counts {f : Fld} {v i j k : Nat} : Only Eff.Counts (setF f v i j k : M s0 Unit) := .setF' _ _ _ _ _ fun _ => trivial

theorem countThrottled_counts : Only Eff.Counts (countThrottled : M s0 Unit) :=
  .bind .cur fun _ => .each _ fun _ => .bind (.each _ fun _ => .whenM bump_counts) fun _ => .bind (.whenM bump_counts) fun _ =>
    .whenM bump_counts

theorem countMicros_counts : Only Eff.Counts (countMicros : M s0 Unit) :=
  .bind .cur fun _ => .bind (.each _ fun _ => bump_counts) fun _ => .bind (.each _ fun _ => .whenM bump_counts) fun _ =>
    .whenM bump_counts

theorem refreshRemain_counts : Only Eff.Counts (refreshRemain : M s0 Unit) := by
  refine .bind .cur fun s => ?_
  split
  · exact setF_counts
  · exact .pure ()

theorem refreshIdle_counts : Only Eff.Counts (refreshIdle : M s0 Unit) :=
  .bind .cur fun _ => .bind (.bind .cur fun _ => .eff _ trivial) fun _ => setF_counts

theorem Steps.counts_works {s t : State} (h : Steps Eff.Counts s t) : Steps Eff.Works s t := h.mono fun _ => .of_counts

/-- Counting leaves all but the register file and the power unit's state. -/
theorem Steps.counts_eq {s t : State} (h : Steps Eff.Counts s t) : t = { s with bank := t.bank, pwr := t.pwr } := by
  induction h with
  | refl => rfl
  | step _ e he ih =>
    cases e with
    | reg r v => rw [ih]; rfl
    | pwr v => rw [ih]; rfl
    | _ => exact he.elim

theorem Steps.counts_store {s t : State} (h : Steps Eff.Counts s t) : SameStore s t := by
  rw [h.counts_eq]
  exact ⟨rfl, rfl, rfl, rfl⟩

theorem Steps.counts_sched {s t : State} (h : Steps Eff.Counts s t) : t.sched = s.sched := by
  rw [h.counts_eq]

/-! ### The tick (R5, R178) -/

/-- The buckets of a state refilled, and nobody throttled yet (R178). -/
def refill (s : State) : M s0 Unit := modSched fun x => { x with buckets := s.refilled, throttled := [], justGo := [] }

/-- What a tick does once the counter has moved. -/
def tickRest (s : State) : M s0 Unit := do
  refill s
  each ((s.fab.groups.filter fun e => e.2.coll.isSome || e.2.ahead.isSome).map Prod.fst) collTick
  if s.cardOn then yieldReserved
  refreshRemain
  refreshIdle

/-- A tick of a serving counter that counts. -/
def tick (s : State) : M s0 Unit := do
  countThrottled
  countMicros
  eff .tick
  tickRest s

theorem sched_after_modSched (f : Sched → Sched) (t : { t : State // Reach s0 t }) :
    (after (modSched f) t).sched = f t.1.sched := rfl

theorem refill_buckets (s : State) (t : { t : State // Reach s0 t }) : (after (refill s) t).sched.buckets = s.refilled := by
  unfold refill
  rw [sched_after_modSched]

theorem exec_tick {s : State} (h : s.inReset .hub = false) : exec .servingCounterTick s = M.go s (tick s) :=
  congrArg (M.go s) (whenM_pos h _)

theorem tickRest_works {s : State} : Only Eff.Works (tickRest s : M s0 Unit) :=
  .bind modSched_works fun _ => .bind (.each _ fun _ => collTick_works) fun _ => .ifThen yieldReserved_works fun _ =>
    .bind (refreshRemain_counts.mono fun _ => .of_counts) fun _ => refreshIdle_counts.mono fun _ => .of_counts

/-- The tick: what it counts before the counter moves, and what it does from there. -/
theorem after_tick (s : State) (t : { t : State // Reach s0 t }) : ∃ u v : { t : State // Reach s0 t },
    Steps Eff.Counts t.1 u.1 ∧ v.1 = Eff.tick.apply u.1 ∧ after (tick s) t = after (tickRest s) v := by
  refine ⟨(countMicros (countThrottled t).2).2, (eff .tick (countMicros (countThrottled t).2).2).2,
    (countThrottled_counts t).trans (countMicros_counts _), rfl, ?_⟩
  unfold tick
  rw [after_bind, after_bind, after_bind]

theorem tick_now (s : State) (t : { t : State // Reach s0 t }) : (after (tick s) t).now = (t.1.now + 1) % 2 ^ 64 := by
  obtain ⟨u, v, hu, hv, htick⟩ := after_tick s t
  calc (after (tick s) t).now = v.1.now := by rw [htick, (tickRest_works v).works_now]
    _ = (u.1.now + 1) % 2 ^ 64 := by rw [hv]; rfl
    _ = (t.1.now + 1) % 2 ^ 64 := by rw [hu.counts_works.works_now]

theorem Tab.get_filterMap_key (f : Nat → Nat) (ks : List Nat) (x : Nat) :
    Tab.get 0 (ks.filterMap fun k => if f k = 0 then none else some (k, f k)) x = if x ∈ ks then f x else 0 := by
  induction ks with
  | nil => rfl
  | cons k ks ih =>
    by_cases hk : f k = 0
    · rw [List.filterMap_cons, if_pos hk]
      refine ih.trans ?_
      by_cases hx : x = k
      · subst hx
        simp [hk]
      · simp [hx]
    · rw [List.filterMap_cons, if_neg hk]
      by_cases hx : k = x
      · subst hx
        simp [Tab.get, Map.get]
      · have hx' : ¬ x = k := fun h => hx h.symm
        simpa [Tab.get, Map.get, hx, hx'] using ih

/-- A bucket after the refill (R178). -/
theorem State.refilled_bucket (s : State) {k p : Nat} (hk : k < 61) (hp : p < 16) :
    Tab.get 0 s.refilled (bKey k p) = min (s.bucketRate k p).2 (s.bucket k p + (s.bucketRate k p).1) := by
  have hkey : bKey k p ∈ List.range (61 * 16) := by
    simp only [bKey, List.mem_range]
    omega
  have hdiv : bKey k p / 16 = k := by unfold bKey; omega
  have hmod : bKey k p % 16 = p := by unfold bKey; omega
  refine (Tab.get_filterMap_key (fun b => min (s.bucketRate (b / 16) (b % 16)).2
    (Tab.get 0 s.sched.buckets b + (s.bucketRate (b / 16) (b % 16)).1)) _ _).trans ?_
  rw [if_pos hkey, hdiv, hmod]
  rfl

/-- With no collective known and the dance card not running, a tick's rest is the refill and what is shown after it. -/
theorem tickRest_quiet {s : State} (hcard : s.cardOn = false) (hcoll : ∀ e ∈ s.fab.groups, e.2.coll = none ∧ e.2.ahead = none)
    (t : { t : State // Reach s0 t }) : after (tickRest s) t = after (do refill s; refreshRemain; refreshIdle) t := by
  have hnone : (s.fab.groups.filter fun e => e.2.coll.isSome || e.2.ahead.isSome) = [] :=
    List.filter_eq_nil_iff.2 fun e he => by simp [hcoll e he]
  unfold tickRest
  rw [hnone, hcard]
  rfl

theorem tickRest_refills {s : State} (hcard : s.cardOn = false)
    (hcoll : ∀ e ∈ s.fab.groups, e.2.coll = none ∧ e.2.ahead = none) (t : { t : State // Reach s0 t }) :
    SameStore t.1 (after (tickRest s) t) ∧ (after (tickRest s) t).sched.buckets = s.refilled := by
  rw [tickRest_quiet hcard hcoll, after_seq]
  have hshown := (Only.bind refreshRemain_counts fun _ => refreshIdle_counts) ⟨after (refill s) t, (refill s t).2.2⟩
  refine ⟨SameStore.trans (modSched_beside [] _ t).beside_store hshown.counts_store, ?_⟩
  exact (congrArg Sched.buckets hshown.counts_sched).trans (refill_buckets s t)

theorem tick_refills {s : State} (hcard : s.cardOn = false) (hcoll : ∀ e ∈ s.fab.groups, e.2.coll = none ∧ e.2.ahead = none)
    (t : { t : State // Reach s0 t }) :
    SameStore t.1 (after (tick s) t) ∧ (after (tick s) t).sched.buckets = s.refilled := by
  obtain ⟨u, v, hu, hv, htick⟩ := after_tick s t
  obtain ⟨hstore, hbuckets⟩ := tickRest_refills hcard hcoll v
  have hmoved : SameStore u.1 v.1 := by
    rw [hv]
    exact ⟨rfl, rfl, rfl, rfl⟩
  rw [htick]
  exact ⟨hu.counts_store.trans (hmoved.trans hstore), hbuckets⟩

/-- Settles O34: the tick's run is work but for the tick itself; requests, merge entries and the scrubber by their own laws. -/
theorem microsecondsRequestsAndScrub : Obligations.MicrosecondsRequestsAndScrub := by
  unfold Obligations.MicrosecondsRequestsAndScrub
  refine ⟨⟨fun s h => ?_, fun s h hcard hcoll => ?_⟩, ?_, ?_, ?_, ?_, ?_⟩
  · exact answers_of_go (exec_tick h) (tick_now s _)
  · refine answers_of_go (exec_tick h) ?_
    obtain ⟨hstore, hbuckets⟩ := tick_refills hcard hcoll ⟨s, Reach.refl s⟩
    refine ⟨hstore, fun k p hk hp => ?_⟩
    unfold State.bucket
    rw [hbuckets]
    exact s.refilled_bucket hk hp
  · exact fun k part s c p rest hk hpart hage hlist hreads => bulkAgePromote_packet hk hpart hage hlist hreads
  · exact fun k part s q x rest hk hpart hage hlist hpkts => bulkAgePromote_reads hk hpart hage hlist hpkts
  · exact fun gran s hs => mergeTimeout_answers hs
  · exact fun k ch s hs hu hi he => scrubGranule_answers hs hu hi he
  · exact fun k ch s hu hl ha ht => answers_scrubAlarm hu hl ha ht

end Sys2Proof.Machine
end

section
/-!
PROOFS. Courses of a run: an invariant that a program keeps and a relation between where it begins and where it ends, along the
shape of the program; and the answers of operations that may stop.
-/
namespace Sys2Proof.Machine

variable {s0 : State} {α β : Type}

/-- A state of a run begun in s0. -/
abbrev At (s0 : State) := { t : State // Reach s0 t }

/-- What a program does to the state: an invariant it keeps, and a relation that holds from where it begins to where it ends. -/
structure Course where
  inv : State → Prop
  rel : State → State → Prop
  refl : ∀ s, rel s s
  trans : ∀ {s t u}, rel s t → rel t u → rel s u

/-- A program runs along a course. -/
def Along (K : Course) (m : M s0 α) : Prop := ∀ t, K.inv t.1 → K.inv (after m t) ∧ K.rel t.1 (after m t)

/-- An operation that may stop runs along a course, and its answer satisfies Q where it does not stop. -/
def AlongA (K : Course) (Q : α → Prop) (m : A s0 α) : Prop := ∀ l t, K.inv t.1 →
  K.inv (m.run.run l t).2.1 ∧ K.rel t.1 (m.run.run l t).2.1 ∧ ∀ a, (m.run.run l t).1.1 = .ok a → Q a

variable {K : Course} {Q : α → Prop} {Q' : β → Prop}

theorem Along.pure (a : α) : Along K (Pure.pure a : M s0 α) := fun t h => ⟨h, K.refl t.1⟩
theorem Along.cur : Along K (Machine.cur : M s0 State) := fun t h => ⟨h, K.refl t.1⟩
theorem Along.bind {m : M s0 α} {f : α → M s0 β} (h : Along K m) (k : ∀ a, Along K (f a)) : Along K (m >>= f) := by
  intro t ht
  obtain ⟨hi, hr⟩ := h t ht
  obtain ⟨ki, kr⟩ := k (m t).1 (m t).2 hi
  exact ⟨ki, K.trans hr kr⟩
/-- What follows a look at the state may use that the invariant holds of it. -/
theorem Along.curBind {f : State → M s0 β} (k : ∀ s, K.inv s → Along K (f s)) : Along K (Machine.cur >>= f) :=
  fun t ht => k t.1 ht t ht
theorem Along.ite {c : Prop} [Decidable c] {m k : M s0 α} (h : Along K m) (h' : Along K k) :
    Along K (if c then m else k) := by split <;> assumption
theorem Along.cases {c : Prop} [Decidable c] {m k : M s0 α} (h : c → Along K m) (h' : ¬c → Along K k) :
    Along K (if c then m else k) := by
  split
  · next hc => exact h hc
  · next hc => exact h' hc
theorem Along.whenM {c : Prop} [Decidable c] {m : M s0 Unit} (h : Along K m) : Along K (Machine.whenM c m) :=
  .ite h (.pure ())
theorem Along.ifThen {c : Prop} [Decidable c] {m : M s0 Unit} {k : Unit → M s0 β} (hm : Along K m)
    (hk : ∀ u, Along K (k u)) : Along K (if c then m >>= k else k ()) := .ite (.bind hm hk) (hk ())
theorem Along.each (xs : List α) {f : α → M s0 Unit} (h : ∀ x, Along K (f x)) : Along K (Machine.each xs f) := by
  induction xs with
  | nil => exact .pure ()
  | cons x xs ih => exact .bind (h x) fun _ => ih
theorem Along.mono {L : Course} {m : M s0 α} (h : Along K m) (hi : ∀ s, L.inv s → K.inv s)
    (hr : ∀ s t, L.inv s → K.inv t → K.rel s t → L.inv t ∧ L.rel s t) : Along L m := fun t ht =>
  have ⟨ki, kr⟩ := h t (hi _ ht)
  hr _ _ ht ki kr

theorem AlongA.pure {a : α} (h : Q a) : AlongA K Q (Pure.pure a : A s0 α) := fun _ t ht => ⟨ht, K.refl t.1, fun _ ha => by
  cases ha
  exact h⟩
theorem AlongA.throw (e : Stop) : AlongA K Q (MonadExcept.throw e : A s0 α) := fun _ t ht => ⟨ht, K.refl t.1, nofun⟩
theorem AlongA.get : AlongA K (fun _ => True) (MonadState.get : A s0 Log) := fun _ t ht => ⟨ht, K.refl t.1, fun _ _ => trivial⟩
theorem AlongA.modify (f : Log → Log) : AlongA K (fun _ => True) (modifyThe Log f : A s0 Unit) :=
  fun _ t ht => ⟨ht, K.refl t.1, fun _ _ => trivial⟩
theorem AlongA.lift {m : M s0 α} (h : Along K m) : AlongA K (fun _ => True) (liftM m : A s0 α) :=
  fun _ t ht => ⟨(h t ht).1, (h t ht).2, fun _ _ => trivial⟩
theorem AlongA.cur : AlongA K K.inv (liftM (Machine.cur : M s0 State) : A s0 State) := fun _ t ht =>
  ⟨ht, K.refl t.1, fun _ ha => by
    cases ha
    exact ht⟩
theorem AlongA.post {m : A s0 α} {R : α → Prop} (h : AlongA K Q m) (hR : ∀ a, Q a → R a) : AlongA K R m := fun l t ht =>
  have ⟨hi, hr, hq⟩ := h l t ht
  ⟨hi, hr, fun a ha => hR a (hq a ha)⟩
theorem AlongA.free {m : A s0 α} (h : AlongA K Q m) : AlongA K (fun _ => True) m := h.post fun _ _ => trivial

/-- What goes on from an operation's answer, whichever it is. -/
theorem AlongA.andThen {m : A s0 α} {g : Except Stop α → StateT Log (M s0) (Except Stop β)} (h : AlongA K Q m)
    (k : ∀ r, (∀ a, r = .ok a → Q a) → AlongA K Q' (ExceptT.mk (g r))) : AlongA K Q' (ExceptT.mk (m.run >>= g)) := by
  intro l t ht
  obtain ⟨hi, hr, hq⟩ := h l t ht
  obtain ⟨ki, kr, kq⟩ := k _ hq (m.run.run l t).1.2 (m.run.run l t).2 hi
  exact ⟨ki, K.trans hr kr, kq⟩

theorem AlongA.bind {m : A s0 α} {f : α → A s0 β} (h : AlongA K Q m) (k : ∀ a, Q a → AlongA K Q' (f a)) :
    AlongA K Q' (m >>= f) :=
  .andThen (g := ExceptT.bindCont f) h fun r hr => match r with
    | .ok a => k a (hr a rfl)
    | .error _ => fun _ t ht => ⟨ht, K.refl t.1, nofun⟩

theorem AlongA.ite {c : Prop} [Decidable c] {m k : A s0 α} (h : AlongA K Q m) (h' : AlongA K Q k) :
    AlongA K Q (if c then m else k) := by
  split <;> assumption

theorem AlongA.cases {c : Prop} [Decidable c] {m k : A s0 α} (h : c → AlongA K Q m) (h' : ¬c → AlongA K Q k) :
    AlongA K Q (if c then m else k) := by
  split
  · next hc => exact h hc
  · next hc => exact h' hc

theorem AlongA.ifThen {c : Prop} [Decidable c] {m : A s0 Unit} {k : Unit → A s0 β} {R : Unit → Prop} (hm : AlongA K R m)
    (hk : ∀ u, AlongA K Q' (k u)) : AlongA K Q' (if c then m >>= k else k ()) := .ite (.bind hm fun u _ => hk u) (hk ())

theorem AlongA.tryCatch {m : A s0 α} {f : Stop → A s0 α} (h : AlongA K Q m) (k : ∀ e, AlongA K Q (f e)) :
    AlongA K Q (MonadExcept.tryCatch m f) :=
  .andThen h fun r hr => match r with
    | .ok a => fun _ t ht => ⟨ht, K.refl t.1, fun b hb => by
        cases hb
        exact hr a rfl⟩
    | .error e => k e

/-- Each element's answer satisfies R. -/
theorem AlongA.mapA {f : α → A s0 β} {R : β → Prop} (xs : List α) (h : ∀ x ∈ xs, AlongA K R (f x)) :
    AlongA K (fun ys => ∀ y ∈ ys, R y) (Machine.mapA f xs) := by
  induction xs with
  | nil => exact .pure (by simp)
  | cons x xs ih =>
    refine .bind (h x (List.mem_cons_self ..)) fun y hy => .bind (ih fun x hx => h x (List.mem_cons_of_mem _ hx)) fun ys hys => .pure ?_
    simpa using ⟨hy, hys⟩

theorem Along.runA {m : A s0 α} (h : AlongA K Q m) : Along K (Machine.runA m) := fun t ht => ⟨(h {} t ht).1, (h {} t ht).2.1⟩

/-! ### Runs by effects -/

/-- The course of runs whose effects all satisfy P. -/
def byEffects (P : Eff → Prop) : Course where
  inv _ := True
  rel := Steps P
  refl := .refl
  trans := .trans

theorem Only.along {P : Eff → Prop} {m : M s0 α} (h : Only P m) : Along (byEffects P) m := fun t _ => ⟨trivial, h t⟩
theorem Along.only {P : Eff → Prop} {m : M s0 α} (h : Along (byEffects P) m) : Only P m := fun t => (h t trivial).2

end Sys2Proof.Machine
end

section
/-!
PROOFS. The end of a packet's run (R66, R72, R178): what the bookkeeping after an operation leaves, and how the packet then stands.
-/
namespace Sys2Proof.Machine

variable {s0 : State} {α β : Type} {P : Eff → Prop}

/-! ### What runs of effects leave -/

/-- The registers that an effect may change are of the names given. -/
def Eff.setsIn (ns : List RegName) : Eff → Prop
  | .reg r _ => r.name ∈ ns
  | .dropRegs _ => False
  | _ => True

theorem Steps.sameRegs {ns : List RegName} {s t : State} (h : Steps P s t) (hP : ∀ e, P e → e.setsIn ns) : SameRegs ns s t := by
  intro r hr
  refine h.keeps (fun u => u.reg r) fun e u he => ?_
  have hin := hP e he
  cases e with
  | reg r' v => exact (Steps.step (.refl u) _ ⟨r', v, rfl, hin⟩ : Steps (setsReg ns) u _).reg_eq r hr
  | dropRegs => exact hin.elim
  | _ => rfl

theorem SameRegs.trans {ns : List RegName} {s t u : State} (h : SameRegs ns s t) (k : SameRegs ns t u) : SameRegs ns s u :=
  fun r hr => (k r hr).trans (h r hr)

theorem SameRegs.mono {ns ms : List RegName} {s t : State} (h : SameRegs ns s t) (hs : ns ⊆ ms) : SameRegs ms s t :=
  fun r hr => h r fun hn => hr (hs hn)

theorem SameRegs.fld {ns : List RegName} {s t : State} (h : SameRegs ns s t) {f : Fld} (hf : f.reg ∉ ns) (i j k : Nat) :
    t.fld f i j k = s.fld f i j k := by
  unfold State.fld
  rw [h _ hf]

theorem SameStore.symm {s t : State} (h : SameStore s t) : SameStore t s := by
  obtain ⟨hmem, hchk, hmerges, hflash⟩ := h
  exact ⟨hmem.symm, hchk.symm, hmerges.symm, hflash.symm⟩

/-! ### Bookkeeping -/

/-- An effect of the bookkeeping of packets: the counters of granules served, the bits that follow a context, the tokens, the sets'
work counts, and the packets themselves. -/
def Eff.Books : Eff → Prop
  | .reg r _ => r.name ∈ RegName.stkRegGranules :: .dtRegGranules :: followers
  | .fresh | .sched _ | .sets _ _ | .ctxs _ _ => True
  | _ => False

theorem Eff.Books.setsIn {e : Eff} (h : e.Books) : e.setsIn (.stkRegGranules :: .dtRegGranules :: followers) := by
  cases e <;> first | exact h | trivial

/-- What bookkeeping never changes. -/
structure Booked (s t : State) : Prop where
  store : SameStore s t
  slots : t.slots = s.slots
  adapters : t.adapters = s.adapters
  keys : t.keys = s.keys
  regs : SameRegs (.stkRegGranules :: .dtRegGranules :: followers) s t

theorem Steps.booked {s t : State} (h : Steps Eff.Books s t) : Booked s t := by
  refine ⟨?_, ?_, ?_, ?_, h.sameRegs fun _ => Eff.Books.setsIn⟩
  · have hkeep := h.keeps (fun u => (u.mem, u.chk, u.merges, u.flash)) fun e u he => by cases e <;> first | rfl | exact he.elim
    simp only [Prod.mk.injEq] at hkeep
    exact hkeep
  · exact h.keeps State.slots fun e u he => by cases e <;> first | rfl | exact he.elim
  · exact h.keeps State.adapters fun e u he => by cases e <;> first | rfl | exact he.elim
  · exact h.keeps State.keys fun e u he => by cases e <;> first | rfl | exact he.elim

theorem setF_books {f : Fld} {v i j k : Nat} (h : f.reg ∈ RegName.stkRegGranules :: .dtRegGranules :: followers) :
    Only Eff.Books (setF f v i j k : M s0 Unit) := .setF' _ _ _ _ _ fun _ => h

theorem modSched_books {f : Sched → Sched} : Only Eff.Books (modSched f : M s0 Unit) := .bind .cur fun _ => .eff _ trivial
theorem modSets_books {k : Nat} {f : SetSt → SetSt} : Only Eff.Books (modSets k f : M s0 Unit) := .bind .cur fun _ => .eff _ trivial
theorem modCtxs_books {k : Nat} {f : Ctx → Ctx} : Only Eff.Books (modCtxs k f : M s0 Unit) := .bind .cur fun _ => .eff _ trivial
theorem takeFresh_books : Only Eff.Books (takeFresh : M s0 Nat) := .bind .cur fun _ => .bind (.eff _ trivial) fun _ => .pure _
theorem modPkt_books {c id : Nat} {f : Pkt → Pkt} : Only Eff.Books (modPkt c id f : M s0 Unit) := modCtxs_books
theorem endPkt_books {c id status detail : Nat} : Only Eff.Books (endPkt c id status detail : M s0 Unit) := modPkt_books

/-! ### How a packet stands -/

/-- Every packet of every context is as it was. -/
def SamePkts (s t : State) : Prop := ∀ c id, t.pkt c id = s.pkt c id

/-- A context changed in anything but its packets. -/
theorem modCtxs_samePkts {k : Nat} {f : Ctx → Ctx} (hf : ∀ x, (f x).pkts = x.pkts) (t : At s0) :
    SamePkts t.1 (after (modCtxs k f) t) := by
  intro c id
  change ((Tab.get {} (Tab.put {} t.1.ctxs k (f (t.1.ctxsAt k))) c).pkts.find? fun p => p.id == id) = _
  rw [Tab.get_put]
  split
  · next h => rw [hf, h]; rfl
  · rfl

theorem SamePkts.trans {s t u : State} (h : SamePkts s t) (k : SamePkts t u) : SamePkts s u :=
  fun c id => (k c id).trans (h c id)

/-- The course of what is shown of the packets: bookkeeping that leaves every packet. -/
def showing : Course where
  inv _ := True
  rel s t := Steps Eff.Books s t ∧ SamePkts s t ∧ t.sched = s.sched
  refl s := ⟨.refl s, fun _ _ => rfl, rfl⟩
  trans h k := ⟨h.1.trans k.1, h.2.1.trans k.2.1, k.2.2.trans h.2.2⟩

theorem setF_showing {f : Fld} {v i j k : Nat} (h : f.reg ∈ RegName.stkRegGranules :: .dtRegGranules :: followers) :
    Along showing (setF f v i j k : M s0 Unit) := fun _ _ =>
  ⟨trivial, setF_books h _, fun _ _ => rfl, rfl⟩
theorem setFlag_showing {f : Fld} {v : Bool} {i j k : Nat} (h : f.reg ∈ RegName.stkRegGranules :: .dtRegGranules :: followers) :
    Along showing (setFlag f v i j k : M s0 Unit) := setF_showing h
theorem modCtxs_showing {k : Nat} {f : Ctx → Ctx} (hf : ∀ x, (f x).pkts = x.pkts) : Along showing (modCtxs k f : M s0 Unit) :=
  fun t _ => ⟨trivial, modCtxs_books t, modCtxs_samePkts hf t, rfl⟩

theorem refreshSet_showing {x : Nat} : Along showing (refreshSet x : M s0 Unit) := by
  refine .bind .cur fun s => ?_
  have howner : Along showing (match s.holderOf x with
      | some c => if s.fld F.cdSetOwner_partition (x / 40) (x % 40) ≠ s.fld F.schCtxCfg_partition c then
          setF F.cdSetOwner_partition (s.fld F.schCtxCfg_partition c) (x / 40) (x % 40) else pure ()
      | none => pure () : M s0 Unit) := by
    split
    · exact .ite (setF_showing (by decide)) (.pure ())
    · exact .pure ()
  exact .ifThen (setF_showing (by decide)) fun _ => .ifThen (setFlag_showing (by decide)) fun _ => howner

theorem refreshQueue_showing {c q : Nat} : Along showing (refreshQueue c q : M s0 Unit) :=
  .bind .cur fun _ => .bind (setFlag_showing (by decide)) fun _ => .bind (setFlag_showing (by decide)) fun _ =>
    setF_showing (by decide)

theorem refreshCtx_showing {c : Nat} : Along showing (refreshCtx c : M s0 Unit) :=
  .bind .cur fun _ => .bind (setF_showing (by decide)) fun _ => .bind (setFlag_showing (by decide)) fun _ =>
    .bind (setFlag_showing (by decide)) fun _ => .bind (.each _ fun _ => refreshQueue_showing) fun _ =>
      .each _ fun _ => refreshSet_showing

theorem refreshState_showing {c : Nat} : Along showing (refreshState c : M s0 Unit) :=
  .bind .cur fun _ => .ite
    (.ite (.bind (setF_showing (by decide)) fun _ => .bind (setF_showing (by decide)) fun _ =>
      .ite (modCtxs_showing fun _ => rfl) (.pure ())) (.pure ()))
    (.ite (.ite (.bind (setFlag_showing (by decide)) fun _ => .ite (modCtxs_showing fun _ => rfl) (.pure ())) (.pure ())) (.pure ()))

theorem refresh_showing {c : Nat} : Along showing (refresh c : M s0 Unit) :=
  .bind refreshCtx_showing fun _ => refreshState_showing

/-- What the serving of a packet leaves of it: how it stands, and the page list that holds its number in the step. -/
def Pkt.core (y : Pkt) : (PState × Nat × Nat × Bool) × Nat := (y.outcome, y.seqIdx)

/-- The course of what a packet pays for its accesses: bookkeeping that leaves how the packet stands. -/
def paying (c id : Nat) : Course where
  inv _ := True
  rel s t := Steps Eff.Books s t ∧ (t.pkt c id).map Pkt.core = (s.pkt c id).map Pkt.core ∧ t.sched.nextFid = s.sched.nextFid
  refl s := ⟨.refl s, rfl, rfl⟩
  trans h k := ⟨h.1.trans k.1, k.2.1.trans h.2.1, k.2.2.trans h.2.2⟩

section
variable {c id : Nat}

theorem Along.paying {m : M s0 α} (h : Along showing m) : Along (paying c id) m := fun t ht =>
  have ⟨_, hs, hp, hf⟩ := h t ht
  ⟨trivial, hs, by rw [hp c id], by rw [hf]⟩

theorem modSched_paying {f : Sched → Sched} (hf : ∀ x, (f x).nextFid = x.nextFid) : Along (paying c id) (modSched f : M s0 Unit) :=
  fun t _ => ⟨trivial, modSched_books t, rfl, hf _⟩

theorem countGrans_paying {t part n : Nat} : Along (paying c id) (countGrans t part n : M s0 Unit) :=
  .ite (.bind .cur fun _ => (setF_showing (by decide)).paying) (.bind .cur fun _ => (setF_showing (by decide)).paying)

theorem modPkt_paying {f : Pkt → Pkt} (hid : ∀ p, (f p).id = p.id) (hf : ∀ p, (f p).core = p.core) :
    Along (paying c id) (modPkt c id f : M s0 Unit) := fun t _ => by
  refine ⟨trivial, modPkt_books t, ?_, rfl⟩
  rw [pkt_modPkt c id f hid, Option.map_map]
  exact congrArg (fun g => (t.1.pkt c id).map g) (funext hf)

theorem chargeTokens_paying {p : Pkt} (hp : p.id = id) {part : Nat} {use : Nat × Nat} :
    Along (paying c id) (chargeTokens c p part use : M s0 Unit) :=
  .bind (modSched_paying fun _ => rfl) fun _ => .bind countGrans_paying fun _ => hp ▸ modPkt_paying (fun _ => rfl) fun _ => rfl

theorem payPart_paying {p : Pkt} (hp : p.id = id) {part : Nat} {use : Nat × Nat} :
    Along (paying c id) (payPart c p part use : M s0 Unit) :=
  .bind .cur fun _ => .ite (.bind (modSched_paying fun _ => rfl) fun _ => .bind (modSched_paying fun _ => rfl) fun _ =>
    hp ▸ modPkt_paying (fun _ => rfl) fun _ => rfl) (.pure ())

theorem countWork_paying {p : Pkt} : Along (paying c id) (countWork c p : M s0 Unit) :=
  Along.paying (.bind (fun t _ => ⟨trivial, takeFresh_books t, fun _ _ => rfl, rfl⟩) fun _ => .bind .cur fun _ => .each _ fun _ =>
    .whenM fun t _ => ⟨trivial, modSets_books t, fun _ _ => rfl, rfl⟩)

end

end Sys2Proof.Machine
end

section
/-!
PROOFS. The commands of packets' operations (R56, R66, R178, R331): an operation that ends is kept with its packet's status, one
that cannot be paid leaves memory, one that stops ends or stalls its packet.
-/
namespace Sys2Proof.Machine

variable {s0 : State} {α β : Type} {c id op : Nat}

/-! ### From a command to its operation -/

theorem State.pkt_id {s : State} {p : Pkt} (h : s.pkt c id = some p) : p.id = id := by
  simpa using List.find?_some h

/-- The command of an issued packet acts on that packet. -/
theorem go_onIssued {s : State} {p : Pkt} (h : s.issued c id op p) (f : Pkt → M s Unit) :
    M.go s (do if (← cur).loaded c then onIssued c id [op] f) = M.go s (f p) := by
  obtain ⟨hload, hup, hpkt, rfl, hst, hstop⟩ := h
  have hon : onIssued c id [p.op] f ⟨s, Reach.refl s⟩ = f p ⟨s, Reach.refl s⟩ := by
    unfold onIssued
    rw [bind_run, cur_run]
    simp [hpkt, hst, hup, hstop]
  unfold M.go
  rw [bind_run, cur_run]
  simp only [hload, if_true, hon]

theorem go_opOf {s : State} {p : Pkt} (h : s.issued c id op p) (source : Nat) (body : Pkt → Acc → A s Fin) :
    M.go s (opOf c id [op] source body) = M.go s (runPktWith c p source false (leaveDests c p (body p)) (body p)) :=
  go_onIssued h _

/-! ### An operation that ends -/

theorem map_map_of_core {o o' : Option Pkt} {h : Pkt → (PState × Nat × Nat × Bool) × Nat} (e : o'.map Pkt.core = o.map h)
    (g : (PState × Nat × Nat × Bool) × Nat → β) : o'.map (g ∘ Pkt.core) = o.map (g ∘ h) := by
  rw [← Option.map_map, e, Option.map_map]

/-- Marking, paying and counting before a packet's end. -/
def settleUp (c : Nat) (p : Pkt) (part : Nat) (l : Log) : M s0 Unit := do
  if l.recovered then modPkt c p.id fun y => { y with recovered := true }
  each l.used (chargeTokens c p part)
  if l.grans ≠ [] then countWork c p

/-- The state in which a packet's operation has been paid. -/
def settled (c : Nat) (p : Pkt) (l : Log) (t : At s0) : At s0 := (settleUp c p (t.1.partOf c) l t).2

section
variable {p : Pkt} {source : Nat} {l : Log} {onAbort : M s0 Unit} {t : At s0}

theorem endRun_ok {f : Fin} (hw : f.wait = false) (hx : p.exhausted = false) :
    after (endRun c p source (.ok f) l onAbort) t = after (endPkt c p.id f.status f.detail) (settled c p l t) := by
  unfold endRun settled settleUp
  rw [after_cur_bind]
  by_cases hr : l.recovered <;> by_cases hg : l.grans = [] <;>
    simp only [hr, hg, hw, hx, reduceIte, ne_eq, not_true_eq_false, not_false_eq_true, Bool.false_eq_true, after_bind, bind_run, pure_run]

theorem endRun_internal : after (endRun c p source (.error .internal) l onAbort) t =
    after (do onAbort; endPkt c p.id stInternal 0) (settled c p l t) := by
  unfold endRun settled settleUp
  rw [after_cur_bind]
  by_cases hr : l.recovered <;> by_cases hg : l.grans = [] <;>
    simp only [hr, hg, reduceIte, ne_eq, not_true_eq_false, not_false_eq_true, Bool.false_eq_true, after_bind, bind_run, pure_run]

theorem endRun_flt {st va k : Nat} {w : Bool} (h : t.1.restarts c = true) :
    after (endRun c p source (.error (.flt st va w k)) l onAbort) t = after (do
      let fid ← openFault c (if k = 0 then source else k) st va w p.seq p.op p.q (some p.id)
      modPkt c p.id fun y => { y with st := .stalled fid }) (settled c p l t) := by
  unfold endRun settled settleUp
  rw [after_cur_bind]
  by_cases hr : l.recovered <;> by_cases hg : l.grans = [] <;>
    simp only [hr, hg, h, reduceIte, ne_eq, not_true_eq_false, not_false_eq_true, Bool.false_eq_true, after_bind, bind_run, pure_run]

/-- How a packet stands once its operation has been paid. -/
theorem settled_core (hp : p.id = id) : Steps Eff.Books t.1 (settled c p l t).1 ∧
    ((settled c p l t).1.pkt c id).map Pkt.core =
      (t.1.pkt c id).map (fun y => ((y.st, y.status, y.detail, y.recovered || l.recovered), y.seqIdx)) ∧
    (settled c p l t).1.sched.nextFid = t.1.sched.nextFid := by
  have hpay : Along (paying c id) (do
      each l.used (chargeTokens c p (t.1.partOf c))
      if l.grans ≠ [] then countWork c p else pure () : M s0 Unit) :=
    .bind (.each _ fun _ => chargeTokens_paying hp) fun _ => .ite countWork_paying (.pure ())
  unfold settled settleUp
  by_cases hr : l.recovered = true
  · have hmark := pkt_modPkt c id (fun y => { y with recovered := true }) (fun _ => rfl) t
    obtain ⟨-, hsteps, hcore, hfid⟩ := hpay (modPkt c p.id (fun y => { y with recovered := true }) t).2 trivial
    simp only [hr, if_true, Bool.or_true]
    rw [hp] at hsteps hcore hfid ⊢
    refine ⟨(modPkt_books t).trans hsteps, hcore.trans ?_, hfid⟩
    exact (congrArg (Option.map Pkt.core) hmark).trans (Option.map_map _ _ _)
  · obtain ⟨-, hsteps, hcore, hfid⟩ := hpay t trivial
    simp only [hr, Bool.false_eq_true, if_false, Bool.or_false]
    exact ⟨hsteps, hcore, hfid⟩

end

/-! ### A run that is kept, and one that is not paid -/

section
variable {s : State} {p : Pkt} {source : Nat} {atomic : Bool} {onAbort : M s Unit} {body : Acc → A s Fin}

theorem runPktWith_kept {r : Except Stop Fin} {l : Log} {u : At s} (hrun : runA (body (s.acc c)) ⟨s, Reach.refl s⟩ = ((r, l), u))
    (hpays : s.pays p (s.partOf c) l = true) (hok : atomic = true → r.isOk = true) :
    after (runPktWith c p source atomic onAbort body) ⟨s, Reach.refl s⟩ =
      after (do endRun c p source r l onAbort; refresh c) u := by
  have hgood : (s.pays p (s.partOf c) l && (!atomic || r.isOk)) = true := by
    rw [hpays]
    cases atomic
    · rfl
    · simpa using hok rfl
  have hatt : attempt (runA (body (s.acc c))) (fun x => s.pays p (s.partOf c) x.2 && (!atomic || x.1.isOk)) ⟨s, Reach.refl s⟩ =
      (((r, l), true), u) := by
    unfold attempt
    simp only [hrun, hgood, if_true]
  unfold runPktWith
  rw [after_cur_bind]
  refine (after_bind_eq hatt).trans ?_
  simp only [Bool.true_or, if_true, Bool.not_true, Bool.false_eq_true, if_false]

theorem runPktWith_unpaid {r : Except Stop Fin} {l : Log} {u : At s}
    (hrun : runA (body (s.acc c)) ⟨s, Reach.refl s⟩ = ((r, l), u)) (hpays : s.pays p (s.partOf c) l = false) :
    after (runPktWith c p source atomic onAbort body) ⟨s, Reach.refl s⟩ =
      after (do each l.used (payPart c p (s.partOf c)); refresh c) ⟨s, Reach.refl s⟩ := by
  have hatt : attempt (runA (body (s.acc c))) (fun x => s.pays p (s.partOf c) x.2 && (!atomic || x.1.isOk)) ⟨s, Reach.refl s⟩ =
      (((r, l), false), ⟨s, Reach.refl s⟩) := by
    unfold attempt
    simp only [hrun, hpays, Bool.false_and, Bool.false_eq_true, if_false]
  unfold runPktWith
  rw [after_cur_bind]
  refine (after_bind_eq hatt).trans ?_
  simp only [hpays, Bool.or_false, Bool.false_eq_true, if_false]

theorem pkt_endPkt (status detail : Nat) (t : At s0) : (after (endPkt c id status detail) t).pkt c id =
    (t.1.pkt c id).map fun y => { y with st := .done, status := status, detail := detail } :=
  pkt_modPkt c id (fun y => { y with st := .done, status := status, detail := detail }) (fun _ => rfl) t

/-- Booked packets stay as a refresh finds them. -/
theorem refresh_after {m : M s α} {r : State} {t : At s} {o : Option β} {g : Pkt → β}
    (h : Steps Eff.Books r (after m t) ∧ ((after m t).pkt c id).map g = o) :
    Steps Eff.Books r (after (m >>= fun _ => refresh c) t) ∧ ((after (m >>= fun _ => refresh c) t).pkt c id).map g = o := by
  rw [after_bind]
  obtain ⟨-, hsteps, hpkts, -⟩ := refresh_showing (c := c) (m t).2 trivial
  exact ⟨h.1.trans hsteps, (congrArg _ (hpkts c id)).trans h.2⟩

/-- What an operation that ends leaves: its packet with its status and DETAIL, and all else as the operation left it. -/
theorem runPktWith_ends (hp : p.id = id) {f : Fin} {l : Log} {u : At s}
    (hrun : runA (body (s.acc c)) ⟨s, Reach.refl s⟩ = ((.ok f, l), u)) (hw : f.wait = false) (hx : p.exhausted = false)
    (hpays : s.pays p (s.partOf c) l = true) :
    let t := after (runPktWith c p source atomic onAbort body) ⟨s, Reach.refl s⟩
    Booked u.1 t ∧ (t.pkt c id).map Pkt.core = (u.1.pkt c id).map fun y => (y.endsWith f.status f.detail l, y.seqIdx) := by
  dsimp only
  rw [runPktWith_kept hrun hpays fun _ => rfl]
  refine (refresh_after ?_).imp_left Steps.booked
  rw [endRun_ok hw hx]
  obtain ⟨hsteps, hcore, -⟩ := settled_core (c := c) (l := l) (t := u) hp
  refine ⟨hsteps.trans (endPkt_books _), ?_⟩
  rw [hp, pkt_endPkt, Option.map_map]
  exact map_map_of_core hcore fun x => ((PState.done, f.status, f.detail, x.1.2.2.2), x.2)

end

/-- A run of an operation begun in a state, put together from what is known of it. -/
theorem runA_eq {s : State} {m : A s α} {r : Except Stop α} (h : (s.runs m).1 = r) :
    runA m ⟨s, Reach.refl s⟩ = ((r, (s.runs m).2.1), (runA m ⟨s, Reach.refl s⟩).2) := by
  rw [← h]
  rfl

/-- A command that runs the operation of its packet. -/
def RunsBody (cmd : Nat → Nat → Instr) (op : Nat) (body : {s0 : State} → Nat → Pkt → Acc → A s0 Fin) : Prop :=
  ∀ (c id : Nat) (s : State) (p : Pkt), s.issued c id op p → s.servedNow c id op → ∃ source atomic onAbort,
    exec (cmd c id) s = M.go s (runPktWith c p source atomic onAbort (body c p))

theorem RunsBody.packetRuns {cmd : Nat → Nat → Instr} {body : {s0 : State} → Nat → Pkt → Acc → A s0 Fin}
    (h : RunsBody cmd op body) : PacketRuns cmd op body := by
  intro c id s p f hissued hturn hf hw ⟨hx, hpays⟩
  obtain ⟨source, atomic, onAbort, hgo⟩ := h c id s p hissued hturn
  obtain ⟨-, -, hpkt, -⟩ := hissued
  obtain ⟨hbooked, hcore⟩ := runPktWith_ends (source := source) (atomic := atomic) (onAbort := onAbort)
    (State.pkt_id hpkt) (runA_eq hf) hw hx hpays
  refine answers_of_go hgo ⟨?_, hbooked.store, hbooked.slots, hbooked.regs⟩
  have := congrArg (Option.map Prod.fst) hcore
  rwa [Option.map_map, Option.map_map] at this

/-- A command whose packet has no order to keep. -/
theorem runsBody_onIssued {cmd : Nat → Nat → Instr} {body : {s0 : State} → Nat → Pkt → Acc → A s0 Fin}
    {source : Nat} {atomic : Bool} {onAbort : {s0 : State} → Nat → Pkt → M s0 Unit}
    (h : ∀ c id s, exec (cmd c id) s = M.go s (do
      if (← cur).loaded c then onIssued c id [op] fun p => runPktWith c p source atomic (onAbort c p) (body c p))) :
    RunsBody cmd op body :=
  fun c id s _ hissued _ => ⟨_, _, _, (h c id s).trans (go_onIssued hissued _)⟩

theorem runsBody_opOf {cmd : Nat → Nat → Instr} {body : {s0 : State} → Nat → Pkt → Acc → A s0 Fin} {source : Nat}
    (h : ∀ c id s, exec (cmd c id) s = M.go s (opOf c id [op] source (body c))) : RunsBody cmd op body :=
  fun c id s _ hissued _ => ⟨_, _, _, (h c id s).trans (go_opOf hissued _ _)⟩

end Sys2Proof.Machine
end

section
/-!
PROOFS. Reads and writes of memory and the faults they meet (R183 to R195, R331), in any state: they leave queues, contexts, slots,
adapters, keys and units, and every value in force.
-/
namespace Sys2Proof.Machine

variable {s0 : State} {α β : Type}

/-- An effect of accesses and of the faults they meet: registers, memory, the state of sets, scheduler, tiers and link. -/
def Eff.Accesses : Eff → Prop
  | .reg _ _ | .fresh | .byte _ _ | .dropMem _ | .chk _ _ | .merges _ | .injected _ | .tier _ | .sched _ | .err _ | .thm _
  | .sets _ _ | .emit _ => True
  | _ => False

theorem Eff.Accesses.of_records {e : Eff} (h : e.Records) : e.Accesses := by
  cases e <;> trivial

/-! ### Single steps -/

theorem setF_accesses {f : Fld} {v i j k : Nat} : Only Eff.Accesses (setF f v i j k : M s0 Unit) := .setF' _ _ _ _ _ fun _ => trivial
theorem setFlag_accesses {f : Fld} {v : Bool} {i j k : Nat} : Only Eff.Accesses (setFlag f v i j k : M s0 Unit) := setF_accesses
theorem bump_accesses {f : Fld} {d i j k : Nat} : Only Eff.Accesses (bump f d i j k : M s0 Unit) := .bump' _ _ _ _ _ fun _ => trivial
theorem bumpCh_accesses {fs fd : Fld} {d t c i : Nat} : Only Eff.Accesses (bumpCh fs fd d t c i : M s0 Unit) :=
  .ite bump_accesses bump_accesses

theorem modMerges_accesses {f : List Merge → List Merge} : Only Eff.Accesses (modMerges f : M s0 Unit) := .bind .cur fun _ => .eff _ trivial
theorem modInjected_accesses {f : List Nat → List Nat} : Only Eff.Accesses (modInjected f : M s0 Unit) := .bind .cur fun _ => .eff _ trivial
theorem modTier_accesses {f : Tier → Tier} : Only Eff.Accesses (modTier f : M s0 Unit) := .bind .cur fun _ => .eff _ trivial
theorem modSched_accesses {f : Sched → Sched} : Only Eff.Accesses (modSched f : M s0 Unit) := .bind .cur fun _ => .eff _ trivial
theorem modThm_accesses {f : Thm → Thm} : Only Eff.Accesses (modThm f : M s0 Unit) := .bind .cur fun _ => .eff _ trivial
theorem modSets_accesses {k : Nat} {f : SetSt → SetSt} : Only Eff.Accesses (modSets k f : M s0 Unit) := .bind .cur fun _ => .eff _ trivial
theorem emit_accesses {o : Out} : Only Eff.Accesses (emit o : M s0 Unit) := .eff _ trivial
theorem takeFresh_accesses : Only Eff.Accesses (takeFresh : M s0 Nat) := .bind .cur fun _ => .bind (.eff _ trivial) fun _ => .pure _

theorem raiseVec_accesses {v : Nat} : Only Eff.Accesses (raiseVec v : M s0 Unit) := (raiseVec_records v).mono fun _ => .of_records
theorem pokeBytes_accesses {a : Nat} {bs : List Byte} : Only Eff.Accesses (pokeBytes a bs : M s0 Unit) :=
  (pokeBytes_records a bs).mono fun _ => .of_records
theorem storeGran_accesses {g : Nat} {bs : List Byte} : Only Eff.Accesses (storeGran g bs : M s0 Unit) :=
  (storeGran_records g bs).mono fun _ => .of_records
theorem writeGran_accesses {g : Nat} {bs : List Byte} : Only Eff.Accesses (writeGran g bs : M s0 Unit) :=
  (writeGran_records g bs).mono fun _ => .of_records
theorem errRecord_accesses {e : ErrRec} : Only Eff.Accesses (errRecord e : M s0 Unit) := (errRecord_records e).mono fun _ => .of_records

/-! ### Granules (R183 to R195) -/

theorem backGran_accesses {g : Nat} {bs : List Byte} : Only Eff.Accesses (backGran g bs : M s0 Unit) :=
  .bind pokeBytes_accesses fun _ => .bind (.eff _ trivial) fun _ => modInjected_accesses

theorem poisonGran_accesses {g : Nat} : Only Eff.Accesses (poisonGran g : M s0 Unit) :=
  .bind modMerges_accesses fun _ => .ifThen pokeBytes_accesses fun _ => .eff _ trivial

theorem decodeGran_accesses {g : Nat} : Only Eff.Accesses (decodeGran g : M s0 (Option (List Byte))) := by
  refine .bind .cur fun s => .ite (.pure _) ?_
  split
  · exact .pure _
  · exact .bind bumpCh_accesses fun _ => .bind backGran_accesses fun _ => .pure _
  · exact .pure _

theorem takeUncorrectable_accesses {w : Who} {g : Nat} : Only Eff.Accesses (takeUncorrectable w g : M s0 Unit) :=
  .bind .cur fun _ => .ite (.bind bumpCh_accesses fun _ => .ifThen modTier_accesses fun _ => .bind poisonGran_accesses fun _ => errRecord_accesses)
    (.pure ())

theorem writeOut_accesses {m : Merge} : Only Eff.Accesses (writeOut m : M s0 Unit) := by
  refine .bind modMerges_accesses fun _ => .ite storeGran_accesses (.bind .cur fun s => .bind bumpCh_accesses fun _ =>
    .bind decodeGran_accesses fun old => ?_)
  cases old with
  | some bs => exact storeGran_accesses
  | none => exact .ite (.bind errRecord_accesses fun _ => storeGran_accesses) takeUncorrectable_accesses

theorem writeOutAll_accesses {ms : List Merge} : Only Eff.Accesses (writeOutAll ms : M s0 Unit) := by
  induction ms with
  | nil => exact .pure ()
  | cons m ms ih => exact .bind writeOut_accesses fun _ => ih

theorem settle_accesses {g : Nat} : Only Eff.Accesses (settle g : M s0 Unit) := .bind .cur fun _ => writeOutAll_accesses

theorem xorPeers_accesses {g : Nat} {ns : List Nat} : Only Eff.Accesses (xorPeers g ns : M s0 (Option (List Byte))) := by
  induction ns with
  | nil => exact .pure _
  | cons n ns ih => exact .bind .cur fun _ => .bind decodeGran_accesses fun _ => .bind ih fun _ => .pure _

theorem decodeNow_accesses {g : Nat} : Only Eff.Accesses (decodeNow g : M s0 (Option (List Byte))) :=
  .bind settle_accesses fun _ => .bind decodeGran_accesses fun _ =>
    .ifThen takeUncorrectable_accesses fun _ => .pure _

theorem restoreEntry_accesses {r : Nat} {gs : List Nat} : Only Eff.Accesses (restoreEntry r gs : M s0 (Option (Nat × Nat))) := by
  induction gs with
  | nil => exact .pure _
  | cons g gs ih =>
    refine .bind decodeNow_accesses fun d => ?_
    dsimp only
    split
    · exact .pure _
    · exact ih

theorem restoreGran_accesses {copy first g : Nat} : Only Eff.Accesses (restoreGran copy first g : M s0 Bool) :=
  .bind decodeNow_accesses fun data => match data with
    | some _ => .bind backGran_accesses fun _ => .bind bump_accesses fun _ => .pure _
    | none => .pure _

theorem restoreAll_accesses {copy first g : Nat} {ns : List Nat} : Only Eff.Accesses (restoreAll copy first g ns : M s0 Unit) := by
  induction ns with
  | nil => exact .pure ()
  | cons n ns ih => exact .bind decodeGran_accesses fun _ => .ite (.bind restoreGran_accesses fun _ => ih) ih

theorem rebuildGran_accesses {w : Who} {g : Nat} : Only Eff.Accesses (rebuildGran w g : M s0 (Option (List Byte))) := by
  refine .bind .cur fun s => .bind xorPeers_accesses fun sum => ?_
  cases sum with
  | some bs =>
    exact .ifThen backGran_accesses fun _ => .bind bump_accesses fun _ => .bind errRecord_accesses fun _ => .pure _
  | none =>
    refine .bind poisonGran_accesses fun _ => .bind bump_accesses fun _ => .bind restoreEntry_accesses fun e => ?_
    cases e with
    | some e => exact .bind restoreAll_accesses fun _ => .bind errRecord_accesses fun _ => .pure _
    | none => exact .bind errRecord_accesses fun _ => .pure _

theorem retireSet_accesses {d st active : Nat} : Only Eff.Accesses (retireSet d st active : M s0 Unit) :=
  .bind setF_accesses fun _ => setF_accesses

theorem bankError_accesses {x g : Nat} : Only Eff.Accesses (bankError x g : M s0 Unit) :=
  .bind poisonGran_accesses fun _ => .bind .cur fun _ => .bind modSets_accesses fun _ => .ite retireSet_accesses (.pure ())

theorem sbufRead_accesses {g : Nat} : Only Eff.Accesses (sbufRead g : M s0 Unit) := by
  unfold sbufRead
  split
  · exact .bind .cur fun _ => .ite (.bind takeFresh_accesses fun _ => .ite bankError_accesses (.pure ())) (.pure ())
  · exact .pure ()

theorem readGran_accesses {w : Who} {g : Nat} : Only Eff.Accesses (readGran w g : M s0 (Option (List Byte) × Bool)) := by
  have hrebuild : Only Eff.Accesses (do let r ← rebuildGran w g; pure (r, true) : M s0 _) :=
    .bind rebuildGran_accesses fun _ => .pure _
  refine .bind settle_accesses fun _ => .bind sbufRead_accesses fun _ => .bind .cur fun s =>
    .ite (.ite hrebuild (.pure _)) (.bind decodeGran_accesses fun r => ?_)
  cases r with
  | some bs => exact .pure _
  | none => exact .ite hrebuild (.bind takeUncorrectable_accesses fun _ => .pure _)

theorem writeNarrow_accesses {g off : Nat} {bs : List Byte} {record : Bool} :
    Only Eff.Accesses (writeNarrow g off bs record : M s0 Unit) := by
  refine .bind .cur fun s => ?_
  dsimp only
  split
  · exact .bind modMerges_accesses fun _ => .ite writeOut_accesses (.pure ())
  · exact .ifThen writeOutAll_accesses fun _ => modMerges_accesses

theorem writePiece_accesses {record : Bool} {a : Nat} {bs : List Byte} {g : Nat} :
    Only Eff.Accesses (writePiece record a bs g : M s0 Unit) :=
  .ite writeGran_accesses (.ite writeNarrow_accesses (.bind .cur fun _ => .ite pokeBytes_accesses (.pure ())))

theorem writePieces_accesses {record : Bool} {a : Nat} {bs : List Byte} {gs : List Nat} :
    Only Eff.Accesses (writePieces record a bs gs : M s0 Unit) := by
  induction gs with
  | nil => exact .pure ()
  | cons g gs ih => exact .bind writePiece_accesses fun _ => ih

theorem writeAt_accesses {a : Nat} {bs : List Byte} {record : Bool} : Only Eff.Accesses (writeAt a bs record : M s0 Unit) :=
  writePieces_accesses

end Sys2Proof.Machine
end

section
/-!
PROOFS. Accesses by virtual address along any course that reads granules and snoops (R173 to R175, R309, R371): what an operation
reads keeps to the course, and an address that translates lies in its page.
-/
namespace Sys2Proof.Machine

variable {s0 : State} {α β : Type} {K : Course} {Q : α → Prop}

/-- An action's answer satisfies a predicate wherever it runs from. -/
theorem AlongA.liftPost {m : M s0 α} (h : Along K m) (hq : ∀ t, Q (m t).1) : AlongA K Q (liftM m : A s0 α) :=
  fun _ t ht => ⟨(h t ht).1, (h t ht).2, fun a ha => by
    cases ha
    exact hq t⟩

/-! ### What an access notes -/

theorem noteGran_along {g : Nat} {write : Bool} : AlongA K (fun _ => True) (noteGran g write : A s0 Unit) :=
  .ite (.modify _) (.pure trivial)

theorem noteGrans_along {write : Bool} {gs : List Nat} : AlongA K (fun _ => True) (noteGrans write gs : A s0 Unit) := by
  induction gs with
  | nil => exact .pure trivial
  | cons g gs ih => exact .bind noteGran_along fun _ _ => ih

theorem noteRebuilt_along {gs : List Nat} : AlongA K (fun _ => True) (noteRebuilt gs : A s0 Unit) := by
  induction gs with
  | nil => exact .pure trivial
  | cons g gs ih => exact .bind noteGrans_along fun _ _ => .bind (.modify _) fun _ _ => ih

theorem noteWalk_along {rs : List GranRead} : AlongA K (fun _ => True) (noteWalk rs : A s0 Unit) :=
  .bind noteGrans_along fun _ _ => noteRebuilt_along

theorem noteUse_along {ac : Acc} {a n : Nat} {write : Bool} : AlongA K (fun _ => True) (noteUse ac a n write : A s0 Unit) :=
  .ite (.pure trivial) noteGrans_along

theorem needLink_along {a : Nat} : AlongA K (fun _ => True) (needLink a : A s0 Unit) :=
  .ite (.bind .cur fun _ _ => .ite (.throw _) (.ite (.throw _) (.pure trivial))) (.pure trivial)

/-! ### Courses that serve accesses -/

/-- An address that stands for va: it lies at va's place in a page of fine granules. -/
def Lies (fine : Nat → Prop) (va a : Nat) : Prop := a % 65536 = va % 65536 ∧ ∀ x, x / 65536 = a / 65536 → fine (x / 64)

/-- A course keeps to the accesses of some accessors: it takes free values, reads the granules that are fine, and snoops; the
tables and the addresses that translate lie in fine granules. -/
structure Serves (K : Course) where
  acc : Acc → Prop
  fine : Nat → Prop
  table : Nat → Prop
  fresh : ∀ {s0 : State}, Along K (takeFresh : M s0 Nat)
  read : ∀ {s0 : State} (w : Who) (g : Nat), fine g → Along K (readGran w g : M s0 _)
  snoop : ∀ {s0 : State} (ac : Acc) (g : Nat) (write : Bool), acc ac → AlongA K (fun _ => True) (snoopFor ac g write : A s0 Unit)
  root : ∀ (s : State) (ac : Acc), K.inv s → acc ac → table (s.inForce F.schPartRoot_addr ac.part * 2 ^ 16)
  next : ∀ a, inTiers a = true → table a
  entry : ∀ (s : State) (t ea : Nat), table t → t ≤ ea → ea < t + 2 ^ 16 → s.backed ea = true → fine (ea / 64)
  leaf : ∀ (s : State) (ac : Acc) (e size va : Nat) (write : Bool) (a : Nat), K.inv s → acc ac → 65536 ∣ size →
    leafDecision s ac e size (va % 2 ^ 52) write = .ok a → Lies fine va a

section
variable (S : Serves K)
include S

theorem Serves.freeWords {n : Nat} : Along K (Machine.freeWords n : M s0 (List W64)) := by
  induction n with
  | zero => exact .pure _
  | succ n ih => exact .bind S.fresh fun _ => .bind ih fun _ => .pure _

theorem Serves.freeBytes {n : Nat} : Along K (Machine.freeBytes n : M s0 (List Byte)) := .bind S.freeWords fun _ => .pure _

theorem Serves.readGrans {w : Who} {gs : List Nat} (h : ∀ g ∈ gs, S.fine g) : Along K (Machine.readGrans w gs : M s0 _) := by
  induction gs with
  | nil => exact .pure _
  | cons g gs ih =>
    refine .bind (S.read w g (h g (List.mem_cons_self ..))) fun r => ?_
    obtain ⟨r, rb⟩ := r
    cases r with
    | none => exact .pure _
    | some bs => exact .bind (ih fun g hg => h g (List.mem_cons_of_mem _ hg)) fun _ => .pure _

theorem Serves.readAt {w : Who} {a n : Nat} (h : ∀ g ∈ gransOf a n, S.fine g) : Along K (Machine.readAt w a n : M s0 _) :=
  .bind (S.readGrans h) fun _ => .pure _

omit S in
theorem bits_lt (w hi lo : Nat) : bits w hi lo < 2 ^ (hi + 1 - lo) := by
  unfold bits
  exact Nat.mod_lt _ (Nat.two_pow_pos _)

omit S in
theorem levelShift_width (level : Nat) : (levelShift level).2 ≤ 13 := by
  unfold levelShift
  split <;> decide

omit S in
theorem tableEntry_lt (va level table : Nat) :
    table + 8 * bits va ((levelShift level).1 + (levelShift level).2 - 1) (levelShift level).1 < table + 2 ^ 16 := by
  have hb := bits_lt va ((levelShift level).1 + (levelShift level).2 - 1) (levelShift level).1
  have hle : (levelShift level).1 + (levelShift level).2 - 1 + 1 - (levelShift level).1 ≤ 13 := by
    have := levelShift_width level
    have : 0 < (levelShift level).2 := by unfold levelShift; split <;> decide
    omega
  have := lt_of_lt_of_le hb (Nat.pow_le_pow_right (by decide : 0 < 2) hle)
  omega

theorem Serves.walkFrom {ac : Acc} {va fuel level table : Nat} (h : S.table table) :
    Along K (Machine.walkFrom ac va fuel level table : M s0 _) := by
  induction fuel generalizing level table with
  | zero => exact .pure _
  | succ fuel ih =>
    refine .bind .cur fun s => ?_
    refine .cases (fun _ => .pure _) fun hb => .bind (S.read _ _ ?_) fun r => ?_
    · exact S.entry s table _ h (Nat.le_add_right ..) (tableEntry_lt ..) (by simpa using hb)
    · obtain ⟨r, rb⟩ := r
      cases r with
      | none => exact .pure _
      | some bs =>
        refine .ite (.pure _) (.ite (.ite (.pure _) (.pure _)) (.cases (fun _ => .pure _) fun hn => ?_))
        simp only [not_or, Bool.not_eq_false] at hn
        exact .bind (ih (S.next _ hn.2.2.2)) fun _ => .pure _

theorem Serves.leafWalk {ac : Acc} {va : Nat} (h : S.acc ac) : Along K (Machine.leafWalk ac va : M s0 _) :=
  .curBind fun s hs => .ite (.pure _) (S.walkFrom (S.root s ac hs h))

end

/-! ### Translation -/

/-- An action's answer satisfies Q, wherever it begins. -/
def Says (Q : α → Prop) (m : M s0 α) : Prop := ∀ t, Q (m t).1

theorem Says.bind {m : M s0 β} {f : β → M s0 α} (h : ∀ b, Says Q (f b)) : Says Q (m >>= f) := fun t => h (m t).1 (m t).2
/-- What follows a step whose answer is known. -/
theorem Says.bindOf {R : β → Prop} {m : M s0 β} {f : β → M s0 α} (h : Says R m) (k : ∀ b, R b → Says Q (f b)) : Says Q (m >>= f) :=
  fun t => k _ (h t) (m t).2
theorem Says.pure {a : α} (h : Q a) : Says Q (Pure.pure a : M s0 α) := fun _ => h
theorem Says.ite {c : Prop} [Decidable c] {m k : M s0 α} (h : c → Says Q m) (h' : ¬c → Says Q k) :
    Says Q (if c then m else k) := by
  split
  · next hc => exact h hc
  · next hc => exact h' hc

/-- A leaf maps whole pages of 64 KiB. -/
def MapsPages (r : Except Nat (Nat × Nat) × List GranRead) : Prop := ∀ e size, r.1 = .ok (e, size) → 65536 ∣ size

theorem mapsPages_error (st : Nat) (rs : List GranRead) : MapsPages (.error st, rs) := nofun

theorem walkFrom_mapsPages {ac : Acc} {va fuel level table : Nat} :
    Says MapsPages (walkFrom ac va fuel level table : M s0 _) := by
  induction fuel generalizing level table with
  | zero => exact .pure (mapsPages_error _ _)
  | succ fuel ih =>
    refine .bind fun s => .ite (fun _ => .pure (mapsPages_error _ _)) fun _ => .bind fun r => ?_
    obtain ⟨r, rb⟩ := r
    cases r with
    | none => exact .pure (mapsPages_error _ _)
    | some bs =>
      refine .ite (fun _ => .pure (mapsPages_error _ _)) fun _ => .ite (fun _ => .ite (fun _ => .pure (mapsPages_error _ _)) fun h0 =>
        .pure fun e size he => ?_) fun _ => .ite (fun _ => .pure (mapsPages_error _ _)) fun _ => .bindOf ih fun x hx => .pure hx
      cases he
      refine Nat.pow_dvd_pow 2 (?_ : 16 ≤ _)
      split
      · exact absurd rfl h0
      all_goals decide

theorem leafWalk_mapsPages {ac : Acc} {va : Nat} : Says MapsPages (leafWalk ac va : M s0 _) :=
  .bind fun _ => .ite (fun _ => .pure (mapsPages_error _ _)) fun _ => walkFrom_mapsPages

section
variable (S : Serves K)
include S

theorem Serves.leafOf {ac : Acc} {va : Nat} (h : S.acc ac) :
    AlongA K (fun r => ∀ e size, r = .ok (e, size) → 65536 ∣ size) (Machine.leafOf ac va : A s0 _) :=
  .bind (.liftPost (S.leafWalk h) leafWalk_mapsPages) fun _ hr => .bind noteWalk_along fun _ _ => .pure hr

theorem Serves.tr {ac : Acc} {va : Nat} {write : Bool} (h : S.acc ac) :
    AlongA K (Lies S.fine va) (Machine.tr ac va write : A s0 Nat) := by
  refine .bind (S.leafOf h) fun r hr => .bind .cur fun s hs => ?_
  split
  · next a ha =>
    refine .pure ?_
    cases r with
    | error st => cases ha
    | ok x => exact S.leaf s ac x.1 x.2 va write a hs h (hr _ _ rfl) ha
  · exact .ite (.throw _) (.throw _)

theorem Serves.snoopAll {ac : Acc} {write : Bool} {gs : List Nat} (h : S.acc ac) :
    AlongA K (fun _ => True) (Machine.snoopAll ac write gs : A s0 Unit) := by
  induction gs with
  | nil => exact .pure trivial
  | cons g gs ih => exact .bind (S.snoop ac g write h) fun _ _ => ih

/-! ### Reads -/

theorem Serves.rdPhys {ac : Acc} {va a n : Nat} (h : S.acc ac) (hg : ∀ g ∈ gransOf a n, S.fine g) :
    AlongA K (fun _ => True) (Machine.rdPhys ac va a n : A s0 (List Byte)) := by
  refine .bind needLink_along fun _ _ => .bind (S.snoopAll h) fun _ _ => .bind noteUse_along fun _ _ =>
    .bind (.lift (S.readAt hg)) fun r _ => .bind noteRebuilt_along fun _ _ => ?_
  split
  · exact .pure trivial
  · exact .throw _

theorem Serves.orFree {ac : Acc} {n : Nat} {m : A s0 (List Byte)} (h : AlongA K (fun _ => True) m) :
    AlongA K (fun _ => True) (Machine.orFree ac n m) :=
  .ite (.tryCatch h fun _ => .lift S.freeBytes) h

omit S in
/-- A piece of a run of bytes stays within its page. -/
theorem pagePieces_within {va n : Nat} {q : Nat × Nat × Nat} (h : q ∈ pagePieces va n) : q.1 % 65536 + q.2.2 ≤ 65536 := by
  unfold pagePieces at h
  split at h
  · cases h
  · obtain ⟨i, -, rfl⟩ := List.mem_map.1 h
    dsimp only
    omega

omit S in
/-- The granules of a piece lie in its page. -/
theorem Lies.grans {fine : Nat → Prop} {va a n : Nat} (h : Lies fine va a) (hn : va % 65536 + n ≤ 65536) :
    ∀ g ∈ gransOf a n, fine g := by
  obtain ⟨hplace, hfine⟩ := h
  intro g hg
  unfold gransOf at hg
  split at hg
  · cases hg
  · obtain ⟨i, hi, rfl⟩ := List.mem_map.1 hg
    rw [List.mem_range] at hi
    have := hfine (64 * (a / 64 + i)) (by omega)
    rwa [Nat.mul_div_cancel_left _ (by decide : 0 < 64)] at this

theorem Serves.rdPieces {ac : Acc} (h : S.acc ac) {ps : List (Nat × Nat × Nat)} (hps : ∀ q ∈ ps, q.1 % 65536 + q.2.2 ≤ 65536) :
    AlongA K (fun _ => True) (Machine.rdPieces ac ps : A s0 (List Byte)) := by
  induction ps with
  | nil => exact .pure trivial
  | cons q ps ih =>
    exact .bind (S.orFree (.bind (S.tr h) fun a ha => S.rdPhys h (ha.grans (hps q (List.mem_cons_self ..))))) fun _ _ =>
      .bind (ih fun q hq => hps q (List.mem_cons_of_mem _ hq)) fun _ _ => .pure trivial

theorem Serves.rd {ac : Acc} (h : S.acc ac) {va n : Nat} : AlongA K (fun _ => True) (Machine.rd ac va n : A s0 (List Byte)) :=
  S.rdPieces h fun _ => pagePieces_within

theorem Serves.rdDestPieces {ac : Acc} (h : S.acc ac) {ps : List (Nat × Nat × Nat)} (hps : ∀ q ∈ ps, q.1 % 65536 + q.2.2 ≤ 65536) :
    AlongA K (fun _ => True) (Machine.rdDestPieces ac ps : A s0 (List Byte)) := by
  induction ps with
  | nil => exact .pure trivial
  | cons q ps ih =>
    exact .bind (S.orFree (.bind (S.tr h) fun a ha => S.rdPhys h (ha.grans (hps q (List.mem_cons_self ..))))) fun _ _ =>
      .bind (ih fun q hq => hps q (List.mem_cons_of_mem _ hq)) fun _ _ => .pure trivial

theorem Serves.rdDest {ac : Acc} (h : S.acc ac) {va n : Nat} :
    AlongA K (fun _ => True) (Machine.rdDest ac va n : A s0 (List Byte)) := S.rdDestPieces h fun _ => pagePieces_within

theorem Serves.rdWord {ac : Acc} (h : S.acc ac) {va : Nat} : AlongA K (fun _ => True) (Machine.rdWord ac va : A s0 Nat) :=
  .bind (S.rd h) fun _ _ => .pure trivial

theorem Serves.rdWords {ac : Acc} (h : S.acc ac) {va n : Nat} :
    AlongA K (fun _ => True) (Machine.rdWords ac va n : A s0 (List Nat)) :=
  .bind (S.rd h) fun _ _ => .pure trivial

/-! ### Plans of writes, and probes -/

theorem Serves.wrPieces {ac : Acc} (h : S.acc ac) {w : Wr} {ps : List (Nat × Nat × Nat)} :
    AlongA K (fun _ => True) (Machine.wrPieces ac w ps : A s0 (List Wr)) := by
  induction ps with
  | nil => exact .pure trivial
  | cons p ps ih =>
    have hpiece : AlongA K (fun _ => True) (do
        let a ← Machine.tr ac p.1 true
        if (← (cur : M s0 _)).refusesWrite a then throw (.flt 0x21 p.1 true ac.source)
        needLink a
        Machine.snoopAll ac true (gransOf a p.2.2)
        noteUse ac a p.2.2 true
        pure [{ va := a, bs := (w.bs.drop p.2.1).take p.2.2, half := w.half }] : A s0 (List Wr)) :=
      .bind (S.tr h) fun a _ => .bind .cur fun s _ => .ifThen (.throw (Q := fun _ => True) _) fun _ => .bind needLink_along fun _ _ =>
        .bind (S.snoopAll h) fun _ _ => .bind noteUse_along fun _ _ => .pure trivial
    exact .bind (.ite (.tryCatch hpiece fun _ => .pure trivial) hpiece) fun _ _ => .bind ih fun _ _ => .pure trivial

theorem Serves.wrPlan {ac : Acc} (h : S.acc ac) {ws : List Wr} :
    AlongA K (fun _ => True) (Machine.wrPlan ac ws : A s0 (List Wr)) := by
  induction ws with
  | nil => exact .pure trivial
  | cons w ws ih => exact .bind (S.wrPieces h) fun _ _ => .bind ih fun _ _ => .pure trivial

theorem Serves.probe {ac : Acc} (h : S.acc ac) {va : Nat} {write : Bool} :
    AlongA K (fun _ => True) (Machine.probe ac va write : A s0 Unit) :=
  .ite (.bind (S.tr h) fun _ _ => .bind .cur fun _ _ => .ite (.throw _) (.pure trivial)) (.pure trivial)

theorem Serves.probeAll {ac : Acc} (h : S.acc ac) {ps : List (Nat × Bool)} :
    AlongA K (fun _ => True) (Machine.probeAll ac ps : A s0 Unit) := by
  induction ps with
  | nil => exact .pure trivial
  | cons p ps ih => exact .bind (S.probe h) fun _ _ => ih

/-! ### Writes -/

omit S in
theorem wrDo_along (hw : ∀ {s0 : State} (w : Wr), Along K (wrOne w : M s0 Unit)) {ws : List Wr} :
    Along K (Machine.wrDo ws : M s0 Unit) := by
  induction ws with
  | nil => exact .pure ()
  | cons w ws ih => exact .bind (hw w) fun _ => ih

theorem Serves.wrAll (hw : ∀ {s0 : State} (w : Wr), Along K (wrOne w : M s0 Unit)) {ac : Acc} (h : S.acc ac) {ws : List Wr} :
    AlongA K (fun _ => True) (Machine.wrAll ac ws : A s0 Unit) :=
  .bind (S.wrPlan h) fun _ _ => .lift (wrDo_along hw)

end

end Sys2Proof.Machine
end

section
/-!
PROOFS. What an abandoned packet leaves, and faults that open (R146, R331): effects of accesses alone, so that every packet stands as
it did; and the packets' operations that stop (R66).
-/
namespace Sys2Proof.Machine

variable {s0 : State} {α β : Type}

/-- A leaf that maps an address: where it lies, and that its region is the accessor's own where it is a set's buffer (R175, R310). -/
theorem leafDecision_ok {s : State} {ac : Acc} {e size va a : Nat} {write : Bool} (h : leafDecision s ac e size va write = .ok a) :
    bits e 47 8 * 256 % size = 0 ∧ a = bits e 47 8 * 256 + va % size ∧
      ∀ x, regionOf a = .setBuf x → s.bindsSet ac.ctx x = true := by
  unfold leafDecision at h
  dsimp only at h
  split at h
  · cases h
  next hbase =>
  split at h
  · cases h
  split at h
  · cases h
  split at h
  · cases h
  have hmod : bits e 47 8 * 256 % size = 0 := by
    simp only [not_or, Decidable.not_not] at hbase
    exact hbase.1
  split at h
  next x hx =>
    split at h
    next hb =>
      have ha : a = bits e 47 8 * 256 + va % size := by
        split at h
        · cases h
        · split at h
          · cases h
          · exact (Except.ok.inj h).symm
      subst ha
      refine ⟨hmod, rfl, fun y hy => ?_⟩
      rw [hx] at hy
      cases hy
      exact hb
    · split at h <;> cases h
  next hx =>
    have ha : a = bits e 47 8 * 256 + va % size := by
      split at h
      · cases h
      split at h
      · cases h
      split at h
      · cases h
      split at h
      · cases h
      exact (Except.ok.inj h).symm
    subst ha
    exact ⟨hmod, rfl, fun y hy => absurd hy (hx y)⟩

/-- An address keeps its place in its page of 64 KiB (R173). -/
theorem leafDecision_place {s : State} {ac : Acc} {e size va a : Nat} {write : Bool} (hd : 65536 ∣ size)
    (h : leafDecision s ac e size (va % 2 ^ 52) write = .ok a) : a % 65536 = va % 65536 := by
  obtain ⟨hmod, rfl, -⟩ := leafDecision_ok h
  have hb : 65536 ∣ bits e 47 8 * 256 := hd.trans (Nat.dvd_of_mod_eq_zero hmod)
  rw [Nat.add_mod, Nat.mod_eq_zero_of_dvd hb, Nat.zero_add, Nat.mod_mod, Nat.mod_mod_of_dvd _ hd,
    Nat.mod_mod_of_dvd _ (by decide)]

theorem snoopFor_accesses {ac : Acc} {g : Nat} {write : Bool} :
    AlongA (byEffects Eff.Accesses) (fun _ => True) (snoopFor ac g write : A s0 Unit) := by
  refine .bind .cur fun s _ => .ite (.bind .get fun l _ => .ite
    (.bind (.modify _) fun _ _ => .bind (.lift bump_accesses.along) fun _ _ => .lift errRecord_accesses.along) (.pure trivial)) ?_
  split
  · exact .pure trivial
  · exact .ite (.throw _) (.ite (.bind (.lift emit_accesses.along) fun _ _ => .lift modThm_accesses.along) (.pure trivial))

/-- Every access is one of such effects, whatever it finds. -/
def servesAll : Serves (byEffects Eff.Accesses) where
  acc _ := True
  fine _ := True
  table _ := True
  fresh := takeFresh_accesses.along
  read _ _ _ := readGran_accesses.along
  snoop _ _ _ _ := snoopFor_accesses
  root _ _ _ _ := trivial
  next _ _ := trivial
  entry _ _ _ _ _ _ _ := trivial
  leaf _ _ _ _ _ _ _ _ _ hdvd h := ⟨leafDecision_place hdvd h, fun _ _ => trivial⟩

theorem wrOne_accesses {w : Wr} : Only Eff.Accesses (wrOne w : M s0 Unit) := by
  unfold wrOne
  split
  · exact writeAt_accesses
  · refine .bind decodeNow_accesses fun d => ?_
    cases d with
    | some bs => exact writeAt_accesses
    | none => exact .pure ()

theorem wrAll_accesses {ac : Acc} {ws : List Wr} :
    AlongA (byEffects Eff.Accesses) (fun _ => True) (wrAll ac ws : A s0 Unit) :=
  servesAll.wrAll (fun _ => wrOne_accesses.along) trivial

/-! ### What an abandoned packet leaves (R146) -/

theorem oldOrNew_accesses {ac : Acc} {xs : List (Place × Option Nat × Option Nat)} :
    Only Eff.Accesses (oldOrNew ac xs : M s0 Unit) := by
  induction xs with
  | nil => exact .pure ()
  | cons x xs ih =>
    obtain ⟨x, a, b⟩ := x
    match a, b with
    | none, _ | some _, none => exact ih
    | some v, some w =>
      exact .ite (.bind takeFresh_accesses fun _ => .ite (.bind (Along.runA wrAll_accesses).only fun _ => ih) ih) ih

theorem freeElem_accesses {ac : Acc} {t : Desc} {l : Int} : Only Eff.Accesses (freeElem ac t l : M s0 Unit) :=
  .bind takeFresh_accesses fun _ => .bind takeFresh_accesses fun _ =>
    .ite (.bind (Along.runA wrAll_accesses).only fun _ => .pure _) (.pure ())

theorem leaveDests_accesses {c : Nat} {p : Pkt} {body : Acc → A s0 Fin} : Only Eff.Accesses (leaveDests c p body) :=
  .bind .cur fun _ => .ite (.bind .cur fun _ => .each _ fun _ => .each _ fun _ => freeElem_accesses)
    (.bind .whatIf fun _ => .bind takeFresh_accesses fun _ => .bind .whatIf fun _ => oldOrNew_accesses)

/-! ### Faults (R331) -/

theorem enterFaults_accesses {fs : List OpenFault} : Only Eff.Accesses (enterFaults fs : M s0 Unit) := by
  induction fs with
  | nil => exact .pure ()
  | cons f fs ih =>
    exact .bind .cur fun s => .ite (.ifThen writeAt_accesses fun _ => .bind setF_accesses fun _ => .bind modSched_accesses fun _ =>
      .bind bump_accesses fun _ => .bind raiseVec_accesses fun _ => ih) ih

theorem flushFaults_accesses : Only Eff.Accesses (flushFaults : M s0 Unit) :=
  .bind .cur fun _ => .bind enterFaults_accesses fun _ => .bind .cur fun _ => setFlag_accesses

theorem openFault_accesses {c source status va : Nat} {write : Bool} {seq op q : Nat} {pkt : Option Nat} :
    Only Eff.Accesses (openFault c source status va write seq op q pkt : M s0 Nat) :=
  .bind .cur fun _ => .bind modSched_accesses fun _ => .bind flushFaults_accesses fun _ => .pure _

theorem Steps.accesses_pkt {s t : State} (h : Steps Eff.Accesses s t) (c id : Nat) : t.pkt c id = s.pkt c id := by
  have hk : t.ctxs = s.ctxs := h.keeps State.ctxs fun e u he => by cases e <;> first | rfl | exact he.elim
  unfold State.pkt State.ctxsAt
  rw [hk]

theorem Only.accesses_pkt {m : M s0 α} (h : Only Eff.Accesses m) (t : At s0) (c id : Nat) :
    (m t).2.1.pkt c id = t.1.pkt c id := (h t).accesses_pkt c id

/-! ### Operations that stop -/

variable {c id op : Nat}

section
variable {s : State} {p : Pkt} {source : Nat} {onAbort : M s Unit} {body : Acc → A s Fin} {l : Log} {u : At s}

/-- An operation that cannot be paid leaves memory, and its packet issued. -/
theorem runPktWith_waits {r : Except Stop Fin} (hp : p.id = id) (hpkt : s.pkt c id = some p) (hst : p.st = .issued)
    (hrun : runA (body (s.acc c)) ⟨s, Reach.refl s⟩ = ((r, l), u)) (hpays : s.pays p (s.partOf c) l = false) :
    let t := after (runPktWith c p source false onAbort body) ⟨s, Reach.refl s⟩
    Booked s t ∧ t.stands c id .issued := by
  dsimp only
  rw [runPktWith_unpaid hrun hpays]
  obtain ⟨-, hsteps, hcore, -⟩ :=
    (Along.each l.used fun use => payPart_paying hp (part := s.partOf c) (use := use)) (⟨s, Reach.refl s⟩ : At s) trivial
  obtain ⟨hsteps, hcore⟩ := refresh_after ⟨hsteps, hcore⟩
  refine ⟨hsteps.booked, ?_⟩
  rw [hpkt] at hcore
  obtain ⟨y, hy, hycore⟩ := Option.map_eq_some_iff.1 hcore
  exact ⟨y, hy, (congrArg (fun x => x.1.1) hycore).trans hst⟩

/-- What happens to a packet between its operation's end and its own. -/
theorem pkt_after_refresh {m : M s α} {t : At s} : ((after (m >>= fun _ => refresh c) t).pkt c id) = (after m t).pkt c id := by
  rw [after_bind]
  exact (refresh_showing (c := c) (m t).2 trivial).2.2.1 c id

/-- An operation that meets an internal failure ends its packet with ST_INTERNAL. -/
theorem runPktWith_internal (hp : p.id = id) (hrun : runA (body (s.acc c)) ⟨s, Reach.refl s⟩ = ((.error .internal, l), u))
    (hpays : s.pays p (s.partOf c) l = true) (habort : Only Eff.Accesses onAbort) :
    ((after (runPktWith c p source false onAbort body) ⟨s, Reach.refl s⟩).pkt c id).map Pkt.outcome =
      (u.1.pkt c id).map fun y => y.endsWith stInternal 0 l := by
  rw [runPktWith_kept hrun hpays fun h => Bool.noConfusion h, pkt_after_refresh, endRun_internal, after_bind, hp, pkt_endPkt, Option.map_map]
  obtain ⟨-, hcore, -⟩ := settled_core (c := c) (l := l) (t := u) hp
  rw [habort.accesses_pkt]
  exact map_map_of_core hcore fun x => (PState.done, stInternal, 0, x.1.2.2.2)

theorem fst_openFault (source status va : Nat) (write : Bool) (seq op q : Nat) (pkt : Option Nat) (t : At s0) :
    (openFault c source status va write seq op q pkt t).1 = t.1.sched.nextFid := rfl

theorem pkt_stalled (fid : Nat) (t : At s0) : (after (modPkt c id fun y => { y with st := .stalled fid }) t).pkt c id =
    (t.1.pkt c id).map fun y => { y with st := .stalled fid } :=
  pkt_modPkt c id (fun y => { y with st := .stalled fid }) (fun _ => rfl) t

/-- An operation that faults in a RESTART partition stalls its packet on the fault that opens. -/
theorem runPktWith_stalls {st va k : Nat} {w : Bool} (hp : p.id = id)
    (hrun : runA (body (s.acc c)) ⟨s, Reach.refl s⟩ = ((.error (.flt st va w k), l), u))
    (hpays : s.pays p (s.partOf c) l = true) (hrestart : u.1.restarts c = true) :
    ((after (runPktWith c p source false onAbort body) ⟨s, Reach.refl s⟩).pkt c id).map (fun y => (y.st, y.recovered)) =
      (u.1.pkt c id).map fun y => (PState.stalled u.1.sched.nextFid, y.recovered || l.recovered) := by
  obtain ⟨-, hcore, hfid⟩ := settled_core (c := c) (l := l) (t := u) hp
  rw [runPktWith_kept hrun hpays fun h => Bool.noConfusion h, pkt_after_refresh, endRun_flt hrestart, after_bind, fst_openFault, hp,
    pkt_stalled, Option.map_map, hfid]
  rw [openFault_accesses.accesses_pkt]
  exact map_map_of_core hcore fun x => (PState.stalled u.1.sched.nextFid, x.1.2.2.2)

end

/-- The command of a packet whose destinations alone an abandoned run leaves keeps to the fault model. -/
theorem packetStops_opOf {cmd : Nat → Nat → Instr} {body : {s0 : State} → Nat → Pkt → Acc → A s0 Fin} {source : Nat}
    (h : ∀ c id s, exec (cmd c id) s = M.go s (opOf c id [op] source (body c))) : PacketStops cmd op body := by
  intro c id s p hissued
  refine answers_of_go ((h c id s).trans (go_opOf hissued source (body c))) ?_
  obtain ⟨-, -, hpkt, -, hst, -⟩ := hissued
  have hp := State.pkt_id hpkt
  refine ⟨fun hpays => ?_, fun hpays hr => ?_, fun hpays st va w k hr hrestart => ?_⟩
  · obtain ⟨hbooked, hstands⟩ := runPktWith_waits (source := source) (onAbort := leaveDests c p (body c p)) hp hpkt hst (runA_eq rfl) hpays
    exact ⟨hbooked.store, hbooked.slots, hstands⟩
  · exact runPktWith_internal hp (runA_eq hr) hpays leaveDests_accesses
  · exact runPktWith_stalls hp (runA_eq hr) hpays hrestart

end Sys2Proof.Machine
end

section
/-!
PROOFS. Memory without an error under reads and writes (R182 to R187): a read changes no byte that a read finds, a write changes those
it names, and memory stays without an error.
-/
namespace Sys2Proof.Machine

variable {s0 : State} {α β : Type} {part ctx : Nat} {ns : List RegName}

/-- Accesses of a partition and context meet no error and no snoop (as `State.Calm` says of a context's packets). -/
structure State.Still (s : State) (part ctx : Nat) : Prop where
  sound : s.Sound
  untracked : s.thm.filter = []
  tables : inTiers (s.inForce F.schPartRoot_addr part * 2 ^ 16) = true
  buffers : (∀ n, Config.freeBit n = false) ∨ ∀ x, x < 80 → s.bindsSet ctx x = false

theorem State.Calm.still {s : State} {c : Nat} (h : s.Calm c) : s.Still (s.partOf c) c := ⟨h.sound, h.untracked, h.tables, h.buffers⟩

/-- The registers on which memory's soundness and the accessor's rights rest. -/
def stillRegs : List RegName := [.stkChState, .dtChState, .stkFlipCtrl, .dtFlipCtrl, .schCtxSets0, .schCtxSets1]

/-- Names of registers that accesses may count in: the counters of read-modify-writes, and none that soundness rests on. -/
structure Counting (ns : List RegName) : Prop where
  rmw : ∀ n ∈ [RegName.stkChMergeRmw, .dtChMergeRmw], n ∈ ns
  apart : ∀ n ∈ stillRegs, n ∉ ns

/-- An effect of accesses that meet no error: counters, free values, bytes, merge entries, and the work of sets and units. -/
def Eff.Serves (ns : List RegName) : Eff → Prop
  | .reg r _ => r.name ∈ ns
  | .fresh | .byte _ _ | .dropMem _ | .chk _ _ | .merges _ | .injected _ | .sets _ _ | .units _ _ => True
  | _ => False

theorem Eff.Serves.setsIn {e : Eff} (h : e.Serves ns) : e.setsIn ns := by
  cases e <;> first | exact h | trivial

theorem Eff.Serves.mono {ms : List RegName} (hs : ns ⊆ ms) {e : Eff} (h : e.Serves ns) : e.Serves ms := by
  cases e <;> first | exact hs h | exact h

/-- What such a run leaves beside memory, sets, units and counters. -/
structure Served (ns : List RegName) (s t : State) : Prop where
  regs : SameRegs ns s t
  force : t.force = s.force
  thm : t.thm = s.thm
  tier : t.tier = s.tier
  slots : t.slots = s.slots
  adapters : t.adapters = s.adapters
  keys : t.keys = s.keys
  ctxs : t.ctxs = s.ctxs
  rst : t.rst = s.rst
  now : t.now = s.now

theorem Steps.served {s t : State} (h : Steps (Eff.Serves ns) s t) : Served ns s t := by
  refine ⟨h.sameRegs fun _ => Eff.Serves.setsIn, ?_, ?_, ?_, ?_, ?_, ?_, ?_, ?_, ?_⟩ <;>
    refine h.keeps _ fun e u he => ?_ <;>
    cases e <;> first | rfl | exact he.elim

theorem Served.pkt {s t : State} (h : Served ns s t) (c id : Nat) : t.pkt c id = s.pkt c id := by
  unfold State.pkt State.ctxsAt
  rw [h.ctxs]

/-- Sound memory, with what its soundness does not rest on changed. -/
theorem State.Still.of_served {s t : State} (hn : Counting ns) (hs : s.Still part ctx) (h : Served ns s t) (hchk : t.chk = [])
    (hentries : ∀ m ∈ t.merges, m.data.length = 64 ∧ m.mask < 2 ^ 64 ∧ coded m.gran = true) (honce : (t.merges.map Merge.gran).Nodup) :
    t.Still part ctx where
  sound := by
    refine ⟨hchk, h.tier ▸ hs.sound.lost, fun k c => ?_, fun k c => ?_, hentries, honce⟩
    · exact (State.ch_congr h.regs (hn.apart _ (by decide)) (hn.apart _ (by decide)) k c 0).trans (hs.sound.good k c)
    · exact (State.ch_congr h.regs (hn.apart _ (by decide)) (hn.apart _ (by decide)) k c 0).trans (hs.sound.calm k c)
  untracked := by rw [h.thm, hs.untracked]
  tables := by
    unfold State.inForce
    rw [h.force]
    exact hs.tables
  buffers := by
    refine hs.buffers.imp_right fun hb x hx => ?_
    unfold State.bindsSet
    rw [h.regs.fld (f := F.schCtxSets0_mask) (hn.apart _ (by decide)) ctx 0 0,
      h.regs.fld (f := F.schCtxSets1_mask) (hn.apart _ (by decide)) ctx 0 0]
    exact hb x hx

/-! ### The two courses -/

/-- The course of accesses that meet no error. -/
def working (part ctx : Nat) (ns : List RegName) : Course where
  inv s := s.Still part ctx
  rel := Steps (Eff.Serves ns)
  refl := .refl
  trans := .trans

/-- The course of accesses that change no byte as a read finds it. -/
def reading (part ctx : Nat) (ns : List RegName) : Course where
  inv s := s.Still part ctx
  rel s t := Steps (Eff.Serves ns) s t ∧ ∀ x, t.seen x = s.seen x
  refl s := ⟨.refl s, fun _ => rfl⟩
  trans h k := ⟨h.1.trans k.1, fun x => (k.2 x).trans (h.2 x)⟩

theorem Along.working {m : M s0 α} (h : Along (reading part ctx ns) m) : Along (working part ctx ns) m := fun t ht =>
  ⟨(h t ht).1, (h t ht).2.1⟩

theorem AlongA.working {Q : α → Prop} {m : A s0 α} (h : AlongA (reading part ctx ns) Q m) : AlongA (working part ctx ns) Q m :=
  fun l t ht => ⟨(h l t ht).1, (h l t ht).2.1.1, (h l t ht).2.2⟩

/-- A run of effects that changes no byte, granule or entry. -/
theorem Along.of_steps {m : M s0 α} (hn : Counting ns) (h : Only (Eff.Serves ns) m)
    (hk : ∀ t, (after m t).chk = t.1.chk ∧ (after m t).merges = t.1.merges ∧ (after m t).mem = t.1.mem) :
    Along (reading part ctx ns) m := fun t ht => by
  obtain ⟨hchk, hmerges, hmem⟩ := hk t
  refine ⟨ht.of_served hn (h t).served (hchk.trans ht.sound.code) (hmerges ▸ ht.sound.entries) (hmerges ▸ ht.sound.once), h t,
    fun x => ?_⟩
  unfold State.seen State.byteAt
  rw [hmerges, hmem]

theorem takeFresh_reading (hn : Counting ns) : Along (reading part ctx ns) (takeFresh : M s0 Nat) :=
  .of_steps hn (.bind .cur fun _ => .bind (.eff _ trivial) fun _ => .pure _) fun _ => ⟨rfl, rfl, rfl⟩

theorem setReg_reading (hn : Counting ns) {r : Reg} {v : Nat} (h : r.name ∈ ns) : Along (reading part ctx ns) (setReg r v : M s0 Unit) :=
  .of_steps hn (.setReg' _ _ fun _ => h) fun _ => ⟨rfl, rfl, rfl⟩

theorem setF_reading (hn : Counting ns) {f : Fld} {v i j k : Nat} (h : f.reg ∈ ns) :
    Along (reading part ctx ns) (setF f v i j k : M s0 Unit) := .bind .cur fun _ => setReg_reading hn h

theorem bump_reading (hn : Counting ns) {f : Fld} {d i j k : Nat} (h : f.reg ∈ ns) :
    Along (reading part ctx ns) (bump f d i j k : M s0 Unit) := .bind .cur fun _ => setF_reading hn h

/-! ### Merge entries written out -/

theorem storeGran_serves {g : Nat} {bs : List Byte} {t : At s0} (hc : ∀ k c, t.1.ch F.stkFlipCtrl_arm F.dtFlipCtrl_arm k c = 0) :
    Steps (Eff.Serves ns) t.1 (after (storeGran g bs) t) := by
  have hpoke : Only (Eff.Serves ns) (pokeBytes (64 * g) bs : M s0 Unit) :=
    (pokeBytes_only (64 * g) bs).mono fun e ⟨_, _, he⟩ => he ▸ trivial
  unfold storeGran
  rw [after_cur_bind]
  simp only [hc, bne_self_eq_false, Bool.false_eq_true, if_false]
  refine Only.ite ?_ ?_ t
  · exact .bind hpoke fun _ => .bind (.eff _ trivial) fun _ => .bind .cur fun _ => .eff _ trivial
  · exact .bind hpoke fun _ => .eff _ trivial

theorem writeOut_serves {m : Merge} {t : At s0} (hn : Counting ns) (hs : t.1.Sound) :
    Steps (Eff.Serves ns) t.1 (after (writeOut m) t) := by
  obtain ⟨v, bs, hrun, -, hv⟩ := writeOut_run (m := m) hs.code
  have hv' : Steps (Eff.Serves ns) { t.1 with merges := t.1.merges.filter fun x => x.gran != m.gran } v.1 :=
    hv.mono fun e ⟨r, x, he, hr⟩ => he ▸ hn.rmw _ hr
  have hreg : SameRegs [.stkChMergeRmw, .dtChMergeRmw] t.1 v.1 := fun r hr => hv.reg_eq r hr
  rw [hrun]
  refine ((Steps.step (.refl t.1) (.merges _) trivial).trans hv').trans (storeGran_serves fun k c => ?_)
  rw [State.ch_congr hreg (by decide) (by decide)]
  exact hs.calm k c

/-- An entry of memory without an error is written out, and a read finds the same. -/
theorem writeOut_reads {m : Merge} {t : At s0} (hn : Counting ns) (ht : t.1.Still part ctx) (hm : m ∈ t.1.merges) :
    (after (writeOut m) t).Still part ctx ∧ Steps (Eff.Serves ns) t.1 (after (writeOut m) t) ∧
      (∀ x, (after (writeOut m) t).seen x = t.1.seen x) ∧
      (after (writeOut m) t).merges = t.1.merges.filter fun x => x.gran != m.gran := by
  have hw := writeOut_writtenOut ht.sound hm
  have hsound := hw.sound ht.sound
  have hsteps := writeOut_serves (m := m) hn ht.sound
  exact ⟨ht.of_served hn hsteps.served hsound.code hsound.entries hsound.once, hsteps, hw.seen ht.sound hm, hw.merges⟩

/-- Every entry of a granule written out: none of it is left. -/
theorem settle_reads {g : Nat} {t : At s0} (hn : Counting ns) (ht : t.1.Still part ctx) :
    (after (settle g) t).Still part ctx ∧ Steps (Eff.Serves ns) t.1 (after (settle g) t) ∧
      (∀ x, (after (settle g) t).seen x = t.1.seen x) ∧ ∀ m ∈ (after (settle g) t).merges, m.gran ≠ g := by
  unfold settle
  rw [after_cur_bind]
  by_cases h : ∃ m ∈ t.1.merges, m.gran = g
  · obtain ⟨m, hm, rfl⟩ := h
    rw [filter_gran_of_mem ht.sound.once hm]
    obtain ⟨hstill, hsteps, hseen, hmerges⟩ := writeOut_reads hn ht hm
    refine ⟨hstill, hsteps, hseen, fun n hmem => ?_⟩
    change n ∈ (after (writeOut m) t).merges at hmem
    rw [hmerges] at hmem
    simpa using (List.mem_filter.1 hmem).2
  · have hno : ∀ m ∈ t.1.merges, m.gran ≠ g := fun m hm he => h ⟨m, hm, he⟩
    rw [List.filter_eq_nil_iff.2 fun m hm => by simpa using hno m hm]
    exact ⟨ht, .refl _, fun _ => rfl, hno⟩

/-! ### Reads -/

/-- A granule whose reads meet no error: outside every set's buffer, where free values can bring one (log entry 65). -/
def Quiet (g : Nat) : Prop := (∀ n, Config.freeBit n = false) ∨ ∀ x, regionOf (64 * g) ≠ .setBuf x

/-- Such a read's set takes free values alone. -/
theorem sbufRead_fresh {g : Nat} (hg : Quiet g) : Only (fun e => e = .fresh) (sbufRead g : M s0 Unit) := by
  unfold sbufRead
  split
  · next x hx =>
    have hfree : ∀ n, Config.freeBit n = false := hg.resolve_right fun h => h x hx
    refine .bind .cur fun s => .ite (.bind (.bind .cur fun _ => .bind (.eff _ rfl) fun _ => .pure _) fun n => ?_) (.pure ())
    rw [hfree n]
    exact .pure ()
  · exact .pure ()

theorem sbufRead_keeps {g : Nat} (hg : Quiet g) (t : At s0) : let u := after (sbufRead g) t
    u.chk = t.1.chk ∧ u.merges = t.1.merges ∧ u.mem = t.1.mem := by
  have hkeep := (sbufRead_fresh hg t).keeps (fun u => (u.chk, u.merges, u.mem)) fun e u he => by subst he; rfl
  simpa only [Prod.mk.injEq] using hkeep

theorem sbufRead_reading (hn : Counting ns) {g : Nat} (hg : Quiet g) : Along (reading part ctx ns) (sbufRead g : M s0 Unit) :=
  .of_steps hn ((sbufRead_fresh hg).mono fun _ he => he ▸ trivial) (sbufRead_keeps hg)

theorem State.seen_none {s : State} {x : Nat} (h : s.merges.find? (fun m => m.gran == x / 64) = none) : s.seen x = s.byteAt x := by
  unfold State.seen
  rw [h]

/-- A granule's bytes as a read finds them. -/
def State.seenGran (s : State) (g : Nat) : List Byte := (List.range 64).map fun i => s.seen (64 * g + i)

/-- A granule that no merge entry holds. -/
theorem State.granAt_eq_seenGran {s : State} {g : Nat} (h : ∀ m ∈ s.merges, m.gran ≠ g) : s.granAt g = s.seenGran g := by
  refine List.map_congr_left fun i hi => (State.seen_none ?_).symm
  have hdiv : (64 * g + i) / 64 = g := by
    have := List.mem_range.1 hi
    omega
  rw [hdiv, List.find?_eq_none]
  exact fun m hm => by simpa using h m hm

theorem State.seenGran_congr {s t : State} (h : ∀ x, t.seen x = s.seen x) (g : Nat) : t.seenGran g = s.seenGran g := by
  unfold State.seenGran
  simp only [h]

/-- The granule as decoded in memory without an error: its bytes, and nothing changes. -/
theorem State.Still.decodeGran {t : At s0} (h : t.1.Still part ctx) (g : Nat) : decodeGran g t = (some (t.1.granAt g), t) :=
  decodeGran_clean (h.sound.devAt g)

theorem State.Still.chanState {s : State} (h : s.Still part ctx) (a : Nat) : s.chanState a = 0 := h.sound.good _ _

/-- A read of memory without an error finds its bytes, and changes nothing that a read finds. -/
theorem readGran_reads {w : Who} {g : Nat} {t : At s0} (hn : Counting ns) (hg : Quiet g) (ht : t.1.Still part ctx) :
    (readGran w g t).1 = (some (t.1.seenGran g), false) ∧ (after (readGran w g) t).Still part ctx ∧
      Steps (Eff.Serves ns) t.1 (after (readGran w g) t) ∧ ∀ x, (after (readGran w g) t).seen x = t.1.seen x := by
  obtain ⟨v, hv⟩ : ∃ v : At s0, (settle g t).2 = v := ⟨_, rfl⟩
  obtain ⟨u, hu⟩ : ∃ u : At s0, (sbufRead g v).2 = u := ⟨_, rfl⟩
  obtain ⟨hstill1, hsteps1, hseen1, hnone⟩ : v.1.Still part ctx ∧ Steps (Eff.Serves ns) t.1 v.1 ∧ (∀ x, v.1.seen x = t.1.seen x) ∧
      ∀ m ∈ v.1.merges, m.gran ≠ g := hv ▸ settle_reads hn ht
  obtain ⟨hstill, hsteps, hseen⟩ : u.1.Still part ctx ∧ Steps (Eff.Serves ns) v.1 u.1 ∧ ∀ x, u.1.seen x = v.1.seen x :=
    hu ▸ sbufRead_reading hn hg v hstill1
  have hmerges : u.1.merges = v.1.merges := hu ▸ (sbufRead_keeps hg v).2.1
  have hlost : u.1.tier.lost = [] := hstill.sound.lost
  have hcond : ¬(u.1.tier.lost.contains (targetOf (64 * g)) || (u.1.sealed (64 * g) &&
      (u.1.chanState (64 * g) == 1 || u.1.chanState (64 * g) == 2))) = true := by
    simp [hlost, hstill.chanState]
  have hrun : readGran w g t = ((some (u.1.granAt g), false), u) := by
    unfold readGran
    rw [bind_run, hv, bind_run, hu, bind_run, cur_run]
    dsimp only
    rw [if_neg hcond, bind_run, hstill.decodeGran]
    rfl
  unfold after
  rw [hrun, State.granAt_eq_seenGran (hmerges ▸ hnone), State.seenGran_congr fun x => (hseen x).trans (hseen1 x)]
  exact ⟨rfl, hstill, hsteps1.trans hsteps, fun x => (hseen x).trans (hseen1 x)⟩

theorem readGran_reading (hn : Counting ns) {w : Who} {g : Nat} (hg : Quiet g) :
    Along (reading part ctx ns) (readGran w g : M s0 _) := fun _ ht => (readGran_reads hn hg ht).2

end Sys2Proof.Machine
end

section
/-!
PROOFS. Writing into memory without an error (R140, R185, R186): a read then finds the bytes written, and all others as they were.
-/
namespace Sys2Proof.Machine

variable {s0 : State} {α β : Type} {part ctx : Nat} {ns : List RegName}

/-! ### Pieces of a run of bytes -/

/-- What a read finds once bytes have been put at an offset of granule g. -/
def putIn (g off : Nat) (p : List Byte) (f : Nat → Byte) (x : Nat) : Byte :=
  if x / 64 = g ∧ off ≤ x % 64 ∧ x % 64 < off + p.length then p.getD (x % 64 - off) 0 else f x

theorem getD_drop_take (bs : List Byte) {d n i : Nat} (hi : i < n) : ((bs.drop d).take n).getD i 0 = bs.getD (d + i) 0 := by
  simp [List.getD, hi, List.getElem?_drop]

/-- A granule that a run of bytes touches: the piece in it is not empty and lies within it. -/
theorem pieceOf_length {a g : Nat} {bs : List Byte} (h : g ∈ gransOf a bs.length) :
    max a (64 * g) < min (a + bs.length) (64 * g + 64) ∧ (pieceOf a bs g).2.length = min (a + bs.length) (64 * g + 64) - max a (64 * g) := by
  unfold gransOf at h
  split at h
  · cases h
  · next hn =>
    obtain ⟨i, hi, rfl⟩ := List.mem_map.1 h
    rw [List.mem_range] at hi
    refine ⟨by omega, ?_⟩
    unfold pieceOf
    simp only [List.length_take, List.length_drop]
    omega

/-- The piece of a run of bytes in a granule holds the run's bytes there. -/
theorem putIn_pieceOf {a g : Nat} {bs : List Byte} (h : g ∈ gransOf a bs.length) (f : Nat → Byte) (x : Nat) :
    putIn g (pieceOf a bs g).1 (pieceOf a bs g).2 f x =
      if x / 64 = g ∧ a ≤ x ∧ x < a + bs.length then bs.getD (x - a) 0 else f x := by
  obtain ⟨hlt, hlen⟩ := pieceOf_length h
  have hoff : (pieceOf a bs g).1 = max a (64 * g) - 64 * g := rfl
  unfold putIn
  rw [hlen, hoff]
  by_cases hx : x / 64 = g
  · have hiff : (max a (64 * g) - 64 * g ≤ x % 64 ∧ x % 64 < max a (64 * g) - 64 * g + (min (a + bs.length) (64 * g + 64) - max a (64 * g))) ↔
        (a ≤ x ∧ x < a + bs.length) := by omega
    simp only [hx, true_and, hiff]
    split
    · next hin =>
      have hp : (pieceOf a bs g).2 = (bs.drop (max a (64 * g) - a)).take (min (a + bs.length) (64 * g + 64) - max a (64 * g)) := rfl
      rw [hp, getD_drop_take _ (by omega)]
      congr 1
      omega
    · rfl
  · rw [if_neg fun h => hx h.1, if_neg fun h => hx h.1]

theorem mem_gransOf {a n x : Nat} (h : a ≤ x) (h' : x < a + n) : x / 64 ∈ gransOf a n := by
  unfold gransOf
  rw [if_neg (by omega)]
  exact List.mem_map.2 ⟨x / 64 - a / 64, List.mem_range.2 (by omega), by omega⟩

/-! ### Storing granules -/

/-- What storing a granule leaves where no flip-mask is armed and no granule deviates. -/
theorem storeGran_leaves {g : Nat} {bs : List Byte} {t : At s0} (hc : t.1.chk = [])
    (ha : ∀ k c, t.1.ch F.stkFlipCtrl_arm F.dtFlipCtrl_arm k c = 0) :
    (after (storeGran g bs) t).chk = [] ∧ (after (storeGran g bs) t).merges = t.1.merges ∧ (bs.length = 64 →
      ∀ x, (after (storeGran g bs) t).byteAt x = if x / 64 = g then bs.getD (x % 64) 0 else t.1.byteAt x) := by
  have hp := (pokeBytes_only (64 * g) bs t).eq_of_setsByte
  have hput : Tab.put 0 ([] : Tab Nat) g 0 = [] := rfl
  by_cases hg : coded g = true
  · rw [storeGran_calm bs hg ha]
    exact ⟨by rw [hc, hput], by rw [hp], fun hl => byteAt_pokeGran g bs hl t⟩
  · have hrun : after (storeGran g bs) t = { after (pokeBytes (64 * g) bs) t with chk := Tab.put 0 t.1.chk g 0 } := by
      unfold storeGran
      rw [after_cur_bind, if_neg hg, after_seq]
      simp only [after_eff, Eff.apply_chk]
      rw [hp]
    rw [hrun]
    exact ⟨by rw [hc, hput], by rw [hp], fun hl => byteAt_pokeGran g bs hl t⟩

/-- What a write leaves: memory without an error still, by effects of accesses alone, and what a read then finds. -/
structure Writing (part ctx : Nat) (ns : List RegName) (f : (Nat → Byte) → Nat → Byte) (s t : State) : Prop where
  still : t.Still part ctx
  steps : Steps (Eff.Serves ns) s t
  seen : ∀ x, t.seen x = f s.seen x

theorem Along.writing {m : M s0 α} (h : Along (reading part ctx ns) m) {t : At s0} (ht : t.1.Still part ctx) :
    Writing part ctx ns id t.1 (after m t) := ⟨(h t ht).1, (h t ht).2.1, (h t ht).2.2⟩

theorem Writing.trans {f g : (Nat → Byte) → Nat → Byte} {s t u : State} (h : Writing part ctx ns f s t)
    (k : Writing part ctx ns g t u) : Writing part ctx ns (fun b => g (f b)) s u :=
  ⟨k.still, h.steps.trans k.steps, fun x => by rw [k.seen x, funext h.seen]⟩

theorem Writing.congr {f g : (Nat → Byte) → Nat → Byte} {s t : State} (h : Writing part ctx ns f s t) (hfg : ∀ x, f s.seen x = g s.seen x) :
    Writing part ctx ns g s t := ⟨h.still, h.steps, fun x => (h.seen x).trans (hfg x)⟩

theorem State.seen_some {s : State} {x : Nat} {m : Merge} (h : s.merges.find? (fun m => m.gran == x / 64) = some m) :
    s.seen x = if bit m.mask (x % 64) then m.data.getD (x % 64) 0 else s.byteAt x := by
  unfold State.seen
  rw [h]

/-- A read finds the same where the entry and the byte are the same. -/
theorem State.seen_congr {s t : State} {x : Nat} (h : t.merges.find? (fun m => m.gran == x / 64) = s.merges.find? fun m => m.gran == x / 64)
    (hb : t.byteAt x = s.byteAt x) : t.seen x = s.seen x := by
  unfold State.seen
  rw [h, hb]

theorem find_other {ms : List Merge} {g h : Nat} (hne : h ≠ g) :
    (ms.filter fun m => m.gran != g).find? (fun m => m.gran == h) = ms.find? fun m => m.gran == h := by
  rw [List.find?_filter]
  refine congrArg (List.find? · ms) (funext fun m => ?_)
  by_cases hm : m.gran = h
  · simp [hm, hne]
  · simp [hm]

theorem find_dropped (ms : List Merge) (g : Nat) : (ms.filter fun m => m.gran != g).find? (fun m => m.gran == g) = none := by
  rw [List.find?_filter]
  simp

/-- A granule written whole leaves memory without an error, and no entry of it. -/
theorem writeGran_leaves {g : Nat} {p : List Byte} {t : At s0} (hn : Counting ns) (ht : t.1.Still part ctx) :
    (after (writeGran g p) t).Still part ctx ∧ Steps (Eff.Serves ns) t.1 (after (writeGran g p) t) ∧
      (after (writeGran g p) t).merges = (t.1.merges.filter fun m => m.gran != g) ∧ (p.length = 64 →
        ∀ x, (after (writeGran g p) t).byteAt x = if x / 64 = g then p.getD (x % 64) 0 else t.1.byteAt x) := by
  let v : At s0 := (dropMerge g t).2
  have hch : ∀ k c, v.1.ch F.stkFlipCtrl_arm F.dtFlipCtrl_arm k c = 0 := ht.sound.calm
  have hsteps : Steps (Eff.Serves ns) t.1 (after (storeGran g p) v) :=
    (Steps.step (.refl t.1) (.merges _) trivial).trans (storeGran_serves (t := v) hch)
  obtain ⟨hchk, hmerges, hbytes⟩ := storeGran_leaves (t := v) (g := g) (bs := p) ht.sound.code hch
  refine ⟨ht.of_served hn hsteps.served hchk (fun m hm => ?_) ?_, hsteps, hmerges, hbytes⟩
  · exact ht.sound.entries m (List.mem_of_mem_filter (hmerges ▸ hm))
  · exact (congrArg (List.map Merge.gran) hmerges) ▸ ht.sound.once.sublist (List.filter_sublist.map _)

theorem writeGran_writes {g : Nat} {p : List Byte} {t : At s0} (hn : Counting ns) (ht : t.1.Still part ctx) (hl : p.length = 64) :
    Writing part ctx ns (putIn g 0 p) t.1 (after (writeGran g p) t) := by
  obtain ⟨hstill, hsteps, hmerges, hbytes⟩ := writeGran_leaves (g := g) (p := p) hn ht
  refine ⟨hstill, hsteps, fun x => ?_⟩
  unfold putIn
  by_cases hx : x / 64 = g
  · rw [State.seen_none (by rw [hmerges, hx, find_dropped]), hbytes hl, if_pos hx, if_pos ⟨hx, by omega, by omega⟩]
    rfl
  · rw [if_neg fun h => hx h.1]
    exact State.seen_congr (by rw [hmerges, find_other hx]) ((hbytes hl x).trans (if_neg hx))

/-! ### Narrow writes (R185, R186) -/

/-- The mask of a piece of a granule. -/
theorem testBit_mask (off n i : Nat) (hn : 0 < n) : bit (maskOf (off + n - 1) off) i = decide (off ≤ i ∧ i < off + n) := by
  unfold bit maskOf
  rw [(by omega : off + n - 1 + 1 - off = n), Nat.testBit_shiftLeft, Nat.testBit_two_pow_sub_one]
  by_cases h : off ≤ i
  · simp only [h, decide_true, Bool.true_and, true_and]
    congr 1
    exact propext (by omega)
  · simp [h]

theorem mask_lt (off n : Nat) (hn : 0 < n) (h : off + n ≤ 64) : maskOf (off + n - 1) off < 2 ^ 64 := by
  refine Nat.lt_pow_two_of_testBit _ fun i hi => ?_
  have := testBit_mask off n i hn
  unfold bit at this
  rw [this]
  exact decide_eq_false (by omega)

/-- A granule's bytes with a piece laid over them. -/
def laidOver (mask off : Nat) (p old : List Byte) : List Byte :=
  (List.range 64).map fun i => if bit mask i then p.getD (i - off) 0 else old.getD i 0

theorem length_laidOver (mask off : Nat) (p old : List Byte) : (laidOver mask off p old).length = 64 := by simp [laidOver]

theorem getD_laidOver (mask off : Nat) (p old : List Byte) {i : Nat} (hi : i < 64) :
    (laidOver mask off p old).getD i 0 = if bit mask i then p.getD (i - off) 0 else old.getD i 0 := getD_map_range _ hi

/-- The entry of a granule that a narrow write has joined. -/
def Merge.joined (m : Merge) (off : Nat) (p : List Byte) (record : Bool) : Merge :=
  { m with mask := m.mask ||| maskOf (off + p.length - 1) off
           data := laidOver (maskOf (off + p.length - 1) off) off p m.data, record := m.record || record }

/-- The entry that a narrow write opens. -/
def opened (g off : Nat) (p : List Byte) (record : Bool) : Merge :=
  { gran := g, mask := maskOf (off + p.length - 1) off, data := laidOver (maskOf (off + p.length - 1) off) off p zeroGran, record := record }

section
variable {g off : Nat} {p : List Byte} {record : Bool} {t : At s0}

/-- Merge entries replaced: memory without an error stays so, where the entries are such as it has. -/
theorem modMerges_still (hn : Counting ns) (ht : t.1.Still part ctx) {f : List Merge → List Merge}
    (he : ∀ m ∈ f t.1.merges, m.data.length = 64 ∧ m.mask < 2 ^ 64 ∧ coded m.gran = true) (ho : ((f t.1.merges).map Merge.gran).Nodup) :
    (after (modMerges f) t).Still part ctx ∧ Steps (Eff.Serves ns) t.1 (after (modMerges f) t) := by
  have hsteps : Steps (Eff.Serves ns) t.1 (after (modMerges f) t) := .step (.refl _) (.merges _) trivial
  exact ⟨ht.of_served hn hsteps.served ht.sound.code he ho, hsteps⟩

/-- What a read finds where an entry holds a piece over what was found before. -/
theorem joined_holds {m : Merge} {x : Nat} {b : Byte} (hp : 0 < p.length) :
    (if bit (m.joined off p record).mask (x % 64) then (m.joined off p record).data.getD (x % 64) 0 else b) =
      if off ≤ x % 64 ∧ x % 64 < off + p.length then p.getD (x % 64 - off) 0
      else if bit m.mask (x % 64) then m.data.getD (x % 64) 0 else b := by
  have hor : bit (m.mask ||| maskOf (off + p.length - 1) off) (x % 64) =
      (bit m.mask (x % 64) || bit (maskOf (off + p.length - 1) off) (x % 64)) := Nat.testBit_or ..
  unfold Merge.joined
  dsimp only
  rw [hor, getD_laidOver _ _ _ _ (Nat.mod_lt _ (by decide)), testBit_mask _ _ _ hp]
  by_cases hin : off ≤ x % 64 ∧ x % 64 < off + p.length <;> simp [hin]

theorem opened_holds {x : Nat} {b : Byte} (hp : 0 < p.length) :
    (if bit (opened g off p record).mask (x % 64) then (opened g off p record).data.getD (x % 64) 0 else b) =
      if off ≤ x % 64 ∧ x % 64 < off + p.length then p.getD (x % 64 - off) 0 else b := by
  unfold opened
  dsimp only
  rw [getD_laidOver _ _ _ _ (Nat.mod_lt _ (by decide)), testBit_mask _ _ _ hp]
  by_cases hin : off ≤ x % 64 ∧ x % 64 < off + p.length <;> simp [hin]

theorem joined_entry {m : Merge} (hp : 0 < p.length) (ho : off + p.length ≤ 64) (hm : m.mask < 2 ^ 64) (hc : coded m.gran = true) :
    (m.joined off p record).data.length = 64 ∧ (m.joined off p record).mask < 2 ^ 64 ∧ coded (m.joined off p record).gran = true :=
  ⟨length_laidOver .., Nat.or_lt_two_pow hm (mask_lt _ _ hp ho), hc⟩

theorem opened_entry (hp : 0 < p.length) (ho : off + p.length ≤ 64) (hc : coded g = true) :
    (opened g off p record).data.length = 64 ∧ (opened g off p record).mask < 2 ^ 64 ∧ coded (opened g off p record).gran = true :=
  ⟨length_laidOver .., mask_lt _ _ hp ho, hc⟩

theorem map_replace_gran (ms : List Merge) (m' : Merge) (hm : m'.gran = g) :
    (ms.map fun x => if x.gran == g then m' else x).map Merge.gran = ms.map Merge.gran := by
  rw [List.map_map]
  refine List.map_congr_left fun x _ => ?_
  by_cases hx : x.gran = g <;> simp [hx, hm]

theorem find_replace (ms : List Merge) (m' : Merge) (hm : m'.gran = g) (h : Nat) :
    (ms.map fun x => if x.gran == g then m' else x).find? (fun m => m.gran == h) =
      if h = g then (ms.find? fun m => m.gran == h).map fun _ => m' else ms.find? fun m => m.gran == h := by
  induction ms with
  | nil => simp
  | cons x ms ih =>
    rw [List.map_cons, List.find?_cons, List.find?_cons]
    by_cases hx : x.gran = g
    · by_cases hh : h = g
      · simp [hx, hh, hm]
      · have : (g == h) = false := beq_eq_false_iff_ne.2 fun e => hh e.symm
        simpa [hx, hh, hm, this] using ih
    · by_cases hxh : x.gran = h
      · have : ¬h = g := fun e => hx (hxh.trans e)
        simp [hxh, this]
      · have : (x.gran == h) = false := beq_eq_false_iff_ne.2 hxh
        simpa [hx, this] using ih

/-- A narrow write that joins its granule's entry. -/
theorem joinEntry_writes {m : Merge} (hn : Counting ns) (ht : t.1.Still part ctx) (hp : 0 < p.length) (ho : off + p.length ≤ 64)
    (hm : t.1.merges.find? (fun m => m.gran == g) = some m) :
    Writing part ctx ns (putIn g off p) t.1
      (after (modMerges fun ms => ms.map fun x => if x.gran == g then m.joined off p record else x) t) ∧
    m.joined off p record ∈ (after (modMerges fun ms => ms.map fun x => if x.gran == g then m.joined off p record else x) t).merges := by
  have hmem := List.mem_of_find?_eq_some hm
  have hg : m.gran = g := by simpa using List.find?_some hm
  obtain ⟨-, hmask, hcoded⟩ := ht.sound.entries m hmem
  obtain ⟨hstill, hsteps⟩ := modMerges_still (f := fun ms => ms.map fun x => if x.gran == g then m.joined off p record else x) hn ht
    (fun n hmem' => by
      obtain ⟨x, hx, rfl⟩ := List.mem_map.1 hmem'
      split
      · exact joined_entry hp ho hmask hcoded
      · exact ht.sound.entries x hx)
    (by rw [map_replace_gran _ (m.joined off p record) hg]; exact ht.sound.once)
  refine ⟨⟨hstill, hsteps, fun x => ?_⟩, List.mem_map.2 ⟨m, hmem, by simp [hg]⟩⟩
  have hfind := find_replace t.1.merges (m.joined off p record) hg (x / 64)
  unfold putIn
  by_cases hx : x / 64 = g
  · rw [if_pos hx] at hfind
    have hm' : t.1.merges.find? (fun m => m.gran == x / 64) = some m := hx ▸ hm
    rw [hm'] at hfind
    rw [State.seen_some hfind, joined_holds hp, State.seen_some hm']
    simp only [hx, true_and]
    rfl
  · rw [if_neg hx] at hfind
    rw [if_neg fun h => hx h.1]
    exact State.seen_congr hfind rfl

/-- A narrow write that opens an entry. -/
theorem openEntry_writes (hn : Counting ns) (ht : t.1.Still part ctx) (hp : 0 < p.length) (ho : off + p.length ≤ 64)
    (hc : coded g = true) (hm : t.1.merges.find? (fun m => m.gran == g) = none) :
    Writing part ctx ns (putIn g off p) t.1 (after (modMerges fun ms => ms ++ [opened g off p record]) t) := by
  have hno : ∀ m ∈ t.1.merges, m.gran ≠ g := fun m hmem => by simpa using List.find?_eq_none.1 hm m hmem
  obtain ⟨hstill, hsteps⟩ := modMerges_still (f := fun ms => ms ++ [opened g off p record]) hn ht
    (fun m hmem => by
      rcases List.mem_append.1 hmem with h | h
      · exact ht.sound.entries m h
      · rw [List.mem_singleton.1 h]
        exact opened_entry hp ho hc)
    (by
      rw [List.map_append]
      refine List.nodup_append.2 ⟨ht.sound.once, List.nodup_singleton _, fun a ha b hb => ?_⟩
      obtain ⟨m, hmem, rfl⟩ := List.mem_map.1 ha
      rw [List.mem_singleton.1 hb]
      exact hno m hmem)
  refine ⟨hstill, hsteps, fun x => ?_⟩
  have hfind : (t.1.merges ++ [opened g off p record]).find? (fun m => m.gran == x / 64) =
      if x / 64 = g then some (opened g off p record) else t.1.merges.find? fun m => m.gran == x / 64 := by
    rw [List.find?_append]
    by_cases hx : x / 64 = g
    · rw [hx, hm]
      simp [opened]
    · have : ¬g = x / 64 := fun e => hx e.symm
      cases t.1.merges.find? (fun m => m.gran == x / 64) <;> simp [opened, hx, this]
  unfold putIn
  by_cases hx : x / 64 = g
  · rw [if_pos hx] at hfind
    rw [State.seen_some hfind, opened_holds hp, State.seen_none (by rw [hx]; exact hm)]
    simp only [hx, true_and]
    rfl
  · rw [if_neg hx] at hfind
    rw [if_neg fun h => hx h.1]
    exact State.seen_congr hfind rfl

/-- A narrow write changes the piece it writes (R185). -/
theorem writeNarrow_writes (hn : Counting ns) (ht : t.1.Still part ctx) (hp : 0 < p.length) (ho : off + p.length ≤ 64)
    (hc : coded g = true) : Writing part ctx ns (putIn g off p) t.1 (after (writeNarrow g off p record) t) := by
  unfold writeNarrow
  rw [after_cur_bind]
  dsimp only
  split
  · next m hm =>
    let v : At s0 := (modMerges (fun ms => ms.map fun x => if x.gran == g then m.joined off p record else x) t).2
    obtain ⟨hw, hmem⟩ : Writing part ctx ns (putIn g off p) t.1 v.1 ∧ m.joined off p record ∈ v.1.merges :=
      joinEntry_writes hn ht hp ho hm
    rw [after_seq]
    change Writing part ctx ns _ t.1 (after (if (m.joined off p record).mask == 2 ^ 64 - 1 then writeOut (m.joined off p record) else pure ()) v)
    split
    · obtain ⟨hstill, hsteps, hseen, -⟩ := writeOut_reads hn hw.still hmem
      exact hw.trans (⟨hstill, hsteps, hseen⟩ : Writing part ctx ns id _ _)
    · exact hw
  · next hm =>
    have hopen (v : At s0) (hv : v.1.Still part ctx) (hmv : v.1.merges.find? (fun m => m.gran == g) = none) :
        Writing part ctx ns (putIn g off p) v.1 (after (modMerges fun ms => ms ++ [opened g off p record]) v) :=
      openEntry_writes hn hv hp ho hc hmv
    split
    · next hfull =>
      obtain ⟨m, rest, hsame⟩ := List.exists_cons_of_length_pos (lt_of_lt_of_le (by decide) hfull)
      have hmem : m ∈ t.1.merges := (List.mem_filter.1 (hsame ▸ List.mem_cons_self .. :
        m ∈ t.1.merges.filter fun m => t.1.physUnit (64 * m.gran) == t.1.physUnit (64 * g))).1
      rw [after_seq, hsame]
      let v : At s0 := (writeOutAll [m] t).2
      obtain ⟨hstill, hsteps, hseen, hmerges⟩ : v.1.Still part ctx ∧ Steps (Eff.Serves ns) t.1 v.1 ∧ (∀ x, v.1.seen x = t.1.seen x) ∧
        v.1.merges = t.1.merges.filter fun x => x.gran != m.gran := writeOut_reads hn ht hmem
      refine Writing.trans (⟨hstill, hsteps, hseen⟩ : Writing part ctx ns id t.1 v.1) (hopen v hstill ?_)
      rw [hmerges, List.find?_filter]
      refine List.find?_eq_none.2 fun x hx => ?_
      have := List.find?_eq_none.1 hm x hx
      simp [this]
    · exact hopen t ht hm

end

/-! ### Pieces, runs and plans -/

/-- A run of bytes at an address, as a read then finds it. -/
def runAt (a : Nat) (bs : List Byte) (f : Nat → Byte) (x : Nat) : Byte :=
  if a ≤ x ∧ x < a + bs.length then bs.getD (x - a) 0 else f x

section
variable {record : Bool} {a : Nat} {bs : List Byte} {t : At s0}

theorem coded_of_entry {s : State} {part ctx : Nat} (h : s.Still part ctx) {g : Nat} (hg : coded g = false) :
    s.merges.find? (fun m => m.gran == g) = none := by
  refine List.find?_eq_none.2 fun m hm he => ?_
  have hc := (h.sound.entries m hm).2.2
  rw [beq_iff_eq.1 he, hg] at hc
  cases hc

/-- Bytes put outside the coded tiers. -/
theorem pokePart_writes {g off : Nat} {p : List Byte} (hn : Counting ns) (ht : t.1.Still part ctx) (hg : coded g = false)
    (ho : off + p.length ≤ 64) : Writing part ctx ns (putIn g off p) t.1 (after (pokeBytes (64 * g + off) p) t) := by
  have hsteps : Steps (Eff.Serves ns) t.1 (after (pokeBytes (64 * g + off) p) t) :=
    ((pokeBytes_only _ _).mono fun e ⟨_, _, he⟩ => he ▸ trivial : Only (Eff.Serves ns) (pokeBytes (64 * g + off) p : M s0 Unit)) t
  have heq := (pokeBytes_only (64 * g + off) p t).eq_of_setsByte
  have hmerges : (after (pokeBytes (64 * g + off) p) t).merges = t.1.merges := by rw [heq]
  have hchk : (after (pokeBytes (64 * g + off) p) t).chk = t.1.chk := by rw [heq]
  refine ⟨ht.of_served hn hsteps.served (hchk.trans ht.sound.code) (hmerges ▸ ht.sound.entries) (hmerges ▸ ht.sound.once), hsteps,
    fun x => ?_⟩
  have hbyte := byteAt_pokeBytes (64 * g + off) p t x
  unfold putIn
  by_cases hx : x / 64 = g
  · have hnone := coded_of_entry ht hg
    rw [← hx] at hnone
    rw [State.seen_none (hmerges ▸ hnone), hbyte, State.seen_none hnone]
    have hiff : (64 * g + off ≤ x ∧ x < 64 * g + off + p.length) ↔ (x / 64 = g ∧ off ≤ x % 64 ∧ x % 64 < off + p.length) := by omega
    simp only [hiff]
    split
    · congr 1
      omega
    · rfl
  · rw [if_neg fun h => hx h.1]
    refine State.seen_congr (by rw [hmerges]) (hbyte.trans (if_neg ?_))
    omega

theorem writePiece_writes {g : Nat} (hn : Counting ns) (ht : t.1.Still part ctx) (hg : g ∈ gransOf a bs.length) :
    Writing part ctx ns (putIn g (pieceOf a bs g).1 (pieceOf a bs g).2) t.1 (after (writePiece record a bs g) t) := by
  obtain ⟨hlt, hlen⟩ := pieceOf_length hg
  have hoff : (pieceOf a bs g).1 = max a (64 * g) - 64 * g := rfl
  have hpos : 0 < (pieceOf a bs g).2.length := by omega
  have hfit : (pieceOf a bs g).1 + (pieceOf a bs g).2.length ≤ 64 := by omega
  unfold writePiece
  dsimp only
  split
  · next hfull =>
    rw [(by omega : (pieceOf a bs g).1 = 0)]
    exact writeGran_writes hn ht hfull
  · split
    · next hc => exact writeNarrow_writes hn ht hpos hfit hc
    · next hc =>
      rw [after_cur_bind, if_pos (ht.sound.devAt g)]
      exact pokePart_writes hn ht (by simpa using hc) hfit

/-- What a read finds once the pieces of a run in some granules have been written. -/
theorem writePieces_writes {gs : List Nat} (hn : Counting ns) (hgs : ∀ g ∈ gs, g ∈ gransOf a bs.length) (ht : t.1.Still part ctx) :
    Writing part ctx ns (fun f x => if x / 64 ∈ gs then runAt a bs f x else f x) t.1 (after (writePieces record a bs gs) t) := by
  induction gs generalizing t with
  | nil => exact ⟨ht, .refl _, fun x => by simp only [List.not_mem_nil, if_false]; rfl⟩
  | cons g gs ih =>
    have hg := hgs g (List.mem_cons_self ..)
    have hone := writePiece_writes (record := record) hn ht hg
    have hrest := ih (fun g hg => hgs g (List.mem_cons_of_mem _ hg)) (t := ⟨_, (writePiece record a bs g t).2.2⟩) hone.still
    refine (hone.trans hrest).congr fun x => ?_
    simp only [List.mem_cons]
    unfold runAt
    rw [putIn_pieceOf hg]
    by_cases hx : x / 64 = g <;> by_cases hin : a ≤ x ∧ x < a + bs.length <;> by_cases hm : x / 64 ∈ gs <;> simp [hx, hin, hm]

theorem writeAt_writes (hn : Counting ns) (ht : t.1.Still part ctx) :
    Writing part ctx ns (runAt a bs) t.1 (after (writeAt a bs record) t) := by
  refine (writePieces_writes hn (fun _ h => h) ht).congr fun x => ?_
  unfold runAt
  by_cases hin : a ≤ x ∧ x < a + bs.length
  · rw [if_pos (mem_gransOf hin.1 hin.2)]
  · simp [hin]

end

/-- One write, as a read then finds it (R140). -/
theorem wrOne_writes {w : Wr} {t : At s0} (hn : Counting ns) (ht : t.1.Still part ctx) :
    Writing part ctx ns (fun f => w.onto f) t.1 (after (wrOne w) t) := by
  unfold wrOne
  split
  · next hh =>
    refine (writeAt_writes hn ht).congr fun x => ?_
    unfold Wr.onto runAt
    rw [hh]
  · next hi hh =>
    let u : At s0 := (settle (w.va / 64) t).2
    obtain ⟨hstill, hsteps, hseen, hgone⟩ : u.1.Still part ctx ∧ Steps (Eff.Serves ns) t.1 u.1 ∧ (∀ x, u.1.seen x = t.1.seen x) ∧
      ∀ m ∈ u.1.merges, m.gran ≠ w.va / 64 := settle_reads hn ht
    have hbyte : (u.1.granAt (w.va / 64)).getD (w.va % 64) 0 = t.1.seen w.va := by
      rw [State.getD_granAt _ rfl, ← hseen, State.seen_none]
      exact List.find?_eq_none.2 fun m hm => by simpa using hgone m hm
    have hdec : decodeNow (w.va / 64) t = (some (u.1.granAt (w.va / 64)), u) := by
      unfold decodeNow
      rw [bind_run, (rfl : (settle (w.va / 64) t).2 = u), bind_run, hstill.decodeGran]
      rfl
    have hw := writeAt_writes (record := false) (a := w.va) (bs := [BitVec.ofNat 8 (if hi then
      setBits (t.1.seen w.va).toNat 7 4 ((w.bs.getD 0 0).toNat % 16) else setBits (t.1.seen w.va).toNat 3 0 ((w.bs.getD 0 0).toNat % 16))]) hn hstill
    rw [after_bind_eq hdec]
    dsimp only
    rw [hbyte]
    refine (Writing.trans (⟨hstill, hsteps, hseen⟩ : Writing part ctx ns id t.1 u.1) hw).congr fun x => ?_
    unfold Wr.onto runAt
    rw [hh]
    by_cases hx : x = w.va
    · subst hx
      simp
    · dsimp only
      rw [if_neg (by simp only [List.length_singleton]; omega), if_neg hx]
      rfl

/-- The writes of a plan in order, as a read then finds them. -/
theorem wrDo_writes {ps : List Wr} {t : At s0} (hn : Counting ns) (ht : t.1.Still part ctx) :
    Writing part ctx ns (fun f => ps.foldl Wr.onto f) t.1 (after (wrDo ps) t) := by
  induction ps generalizing t with
  | nil => exact ⟨ht, .refl _, fun _ => rfl⟩
  | cons w ps ih =>
    have hone := wrOne_writes (w := w) hn ht
    exact hone.trans (ih (t := ⟨_, (wrOne w t).2.2⟩) hone.still)

theorem wrOne_working (hn : Counting ns) {w : Wr} : Along (working part ctx ns) (wrOne w : M s0 Unit) := fun _ ht =>
  have h := wrOne_writes (w := w) hn ht
  ⟨h.still, h.steps⟩

theorem writeGran_working (hn : Counting ns) {g : Nat} {p : List Byte} :
    Along (working part ctx ns) (writeGran g p : M s0 Unit) := fun _ ht =>
  have ⟨hstill, hsteps, _⟩ := writeGran_leaves (g := g) (p := p) hn ht
  ⟨hstill, hsteps⟩

end Sys2Proof.Machine
end

section
/-!
PROOFS. Accesses by virtual address that meet no error (R168, R173 to R175, R310, R371): they read memory as it stands.
-/
namespace Sys2Proof.Machine

variable {s0 : State} {α β : Type} {part ctx : Nat} {ns : List RegName}

theorem regionOf_setBuf {a x : Nat} (h : regionOf a = .setBuf x) :
    0x30000000000 ≤ a ∧ a < 0x30014000000 ∧ (a - 0x30000000000) % 0x400000 < 0x300000 ∧ x = (a - 0x30000000000) / 0x400000 := by
  unfold regionOf at h
  split at h
  · cases h
  split at h
  · cases h
  split at h
  · cases h
  split at h
  · cases h
  split at h
  · split at h
    · cases h
      omega
    · cases h
  split at h
  · cases h
  split at h <;> cases h

theorem regionOf_buffer {a : Nat} (h : 0x30000000000 ≤ a) (h' : a < 0x30014000000) (hin : (a - 0x30000000000) % 0x400000 < 0x300000) :
    regionOf a = .setBuf ((a - 0x30000000000) / 0x400000) := by
  unfold regionOf
  rw [if_neg (by omega), if_neg (by omega), if_neg (by omega), if_neg (by omega), if_pos h', if_pos hin]

/-- The place of an address in its set's buffer, by pages of 64 KiB. -/
theorem buffer_pages {a : Nat} (h : 0x30000000000 ≤ a) :
    (a - 0x30000000000) % 0x400000 < 0x300000 ↔ (a / 65536 - 0x3000000) % 64 < 48 := by
  have hmod : (a - 0x30000000000) % (65536 * 64) = (a - 0x30000000000) % 65536 + 65536 * ((a - 0x30000000000) / 65536 % 64) :=
    Nat.mod_mul
  have hdiv : (a - 0x30000000000) / 65536 = a / 65536 - 0x3000000 := by omega
  rw [hdiv] at hmod
  omega

/-- A page lies in a set's buffer whole, or not at all. -/
theorem page_setBuf {a x : Nat} (h : x / 65536 = a / 65536) {y : Nat} (hy : regionOf (64 * (x / 64)) = .setBuf y) :
    ∃ z, z < 80 ∧ regionOf a = .setBuf z := by
  obtain ⟨hlo, hhi, hin, -⟩ := regionOf_setBuf hy
  rw [buffer_pages hlo, (by omega : 64 * (x / 64) / 65536 = a / 65536)] at hin
  have hlo' : 0x30000000000 ≤ a := by omega
  exact ⟨_, by omega, regionOf_buffer hlo' (by omega) ((buffer_pages hlo').2 hin)⟩

theorem inTiers_setBuf {t ea : Nat} (ht : inTiers t = true) (h : t ≤ ea) (h' : ea < t + 2 ^ 16)
    (x : Nat) : regionOf (64 * (ea / 64)) ≠ .setBuf x := by
  intro hx
  obtain ⟨hlo, hhi, hin, -⟩ := regionOf_setBuf hx
  simp only [inTiers, Bool.or_eq_true, Bool.and_eq_true, decide_eq_true_eq] at ht
  omega

theorem snoopFor_reading {ac : Acc} {g : Nat} {write : Bool} :
    AlongA (reading part ctx ns) (fun _ => True) (snoopFor ac g write : A s0 Unit) := by
  refine .bind .cur fun s hs => ?_
  have hfilter : s.thm.filter = [] := State.Still.untracked hs
  simp only [hfilter, List.any_nil, Bool.false_and, Bool.false_eq_true, if_false, List.find?_nil]
  exact .ite (.bind .get fun _ _ => .pure trivial) (.pure trivial)

/-- Accesses that meet no error read. -/
def servesReading (part ctx : Nat) {ns : List RegName} (hn : Counting ns) : Serves (reading part ctx ns) where
  acc ac := ac.part = part ∧ ac.ctx = ctx
  fine := Quiet
  table t := inTiers t = true
  fresh := takeFresh_reading hn
  read _ _ hg := readGran_reading hn hg
  snoop _ _ _ _ := snoopFor_reading
  root _ _ hs hac := by
    rw [hac.1]
    exact hs.tables
  next _ h := h
  entry _ _ _ ht h h' _ := .inr fun _ => inTiers_setBuf ht h h' _
  leaf s ac e size va write a hs hac hdvd hleaf := by
    refine ⟨leafDecision_place hdvd hleaf, fun x hx => ?_⟩
    refine hs.buffers.imp_right fun hb y hy => ?_
    obtain ⟨z, hz, hregion⟩ := page_setBuf hx hy
    have hbinds := (leafDecision_ok hleaf).2.2 z hregion
    rw [hac.2, hb z hz] at hbinds
    cases hbinds

/-- An accessor of a context's packets. -/
theorem acc_serves {s : State} {c : Nat} {hn : Counting ns} : (servesReading (s.partOf c) c hn).acc (s.acc c) := ⟨rfl, rfl⟩

/-- What serves reads serves writes as well. -/
def Serves.working (S : Serves (reading part ctx ns)) : Serves (working part ctx ns) where
  acc := S.acc
  fine := S.fine
  table := S.table
  fresh := S.fresh.working
  read w g h := (S.read w g h).working
  snoop ac g write h := (S.snoop ac g write h).working
  root := S.root
  next := S.next
  entry := S.entry
  leaf := S.leaf

/-- Accesses that meet no error keep memory without one. -/
def servesWorking {part ctx : Nat} {ns : List RegName} (hn : Counting ns) : Serves (working part ctx ns) := (servesReading part ctx hn).working

end Sys2Proof.Machine
end

section
/-!
PROOFS. Operands read along a course that serves accesses (R140 to R145): elements, rows, tensors; the corrections of adapters.
-/
namespace Sys2Proof.Machine

variable {s0 : State} {α β : Type} {K : Course}

/-- An operation on each element of a list keeps to the course. -/
theorem AlongA.mapAll {f : α → A s0 β} (xs : List α) (h : ∀ x, AlongA K (fun _ => True) (f x)) :
    AlongA K (fun _ => True) (Machine.mapA f xs) := (AlongA.mapA (R := fun _ => True) xs fun x _ => h x).free

theorem check_along {f : Flaw} : AlongA K (fun _ => True) (check f : A s0 Unit) := by
  cases f with
  | none => exact .pure trivial
  | some x => exact .throw _

section
variable (S : Serves K) {ac : Acc} (h : S.acc ac)
include h

theorem Serves.rdElem {t : Desc} {l : Int} : AlongA K (fun _ => True) (Machine.rdElem ac t l : A s0 Nat) :=
  .bind (S.rd h) fun _ _ => .pure trivial

theorem Serves.rdScale {t : Desc} {l : Int} : AlongA K (fun _ => True) (Machine.rdScale ac t l : A s0 Nat) :=
  .ite (.bind (S.rd h) fun _ _ => .pure trivial) (.pure trivial)

theorem Serves.rdElems {t : Desc} {ls : List Int} : AlongA K (fun _ => True) (Machine.rdElems ac t ls : A s0 _) := by
  induction ls with
  | nil => exact .pure trivial
  | cons l ls ih => exact .bind (S.rdElem h) fun _ _ => .bind (S.rdScale h) fun _ _ => .bind ih fun _ _ => .pure trivial

theorem Serves.rdDestElem {t : Desc} {l : Int} : AlongA K (fun _ => True) (Machine.rdDestElem ac t l : A s0 Nat) :=
  .bind (S.rdDest h) fun _ _ => .pure trivial

theorem Serves.rdTensor {t : Desc} : AlongA K (fun _ => True) (Machine.rdTensor ac t : A s0 _) := S.rdElems h

theorem Serves.rdRow {t : Desc} {o : List Nat} : AlongA K (fun _ => True) (Machine.rdRow ac t o : A s0 (List Num)) :=
  .bind (S.rdElems h) fun _ _ => .pure trivial

theorem Serves.rdRows {t : Desc} {n : Nat} {o : List Nat} :
    AlongA K (fun _ => True) (Machine.rdRows ac t n o : A s0 (List (List Num))) := .mapAll _ fun _ => S.rdRow h

theorem Serves.rdOldRow {t : Desc} {o : List Nat} : AlongA K (fun _ => True) (Machine.rdOldRow ac t o : A s0 (List Num)) :=
  .bind (.mapAll _ fun _ => S.rdDestElem h) fun _ _ => .pure trivial

theorem Serves.rdMatrix {base fmt n cols : Nat} :
    AlongA K (fun _ => True) (Machine.rdMatrix ac base fmt n cols : A s0 (List (List Num))) :=
  .mapAll _ fun _ => .bind (S.rd h) fun _ _ => .pure trivial

omit h in
/-- A row read where a condition holds. -/
theorem rdWhere_along {b : Bool} {m : A s0 (List Num)} (hm : AlongA K (fun _ => True) m) :
    AlongA K (fun _ => True) (rdWhere b m) := .ite (.bind hm fun _ _ => .pure trivial) (.pure trivial)

/-! ### Adapters (R290, R291) -/

theorem Serves.seeCorr {t : Target} {target slot : Nat} : AlongA K (fun _ => True) (Machine.seeCorr ac t target slot : A s0 _) := by
  refine .bind .cur fun s _ => .ite (.pure trivial) ?_
  split
  · exact .pure trivial
  · exact .ite (.pure trivial) (.bind (S.rdWords h) fun _ _ => .ite (.pure trivial) (.pure trivial))

theorem Serves.rdCorr {t : Target} {target slot : Nat} : AlongA K (fun _ => True) (Machine.rdCorr ac t target slot : A s0 _) := by
  refine .bind (S.seeCorr h) fun r _ => ?_
  obtain ⟨f, g, e⟩ := r
  refine .bind check_along fun _ _ => .bind check_along fun _ _ => .bind .cur fun s _ => ?_
  split
  · exact .bind (S.rdMatrix h) fun _ _ => .bind (S.rdMatrix h) fun _ _ => .pure trivial
  · exact .pure trivial

theorem Serves.corrsOf {p : Pkt} {ts : List Target} {add m : Nat} :
    AlongA K (fun _ => True) (Machine.corrsOf ac p ts add m : A s0 (List (Option Corr))) := by
  unfold Machine.corrsOf
  split
  · exact .bind (.mapAll _ fun _ => .bind (.ite (.pure trivial) (S.rdCorr h)) fun _ _ => .pure trivial) fun _ _ => .pure trivial
  · exact .pure trivial

/-! ### What the dense packets read -/

theorem Serves.matmulReads {p : Pkt} : AlongA K (fun _ => True) (Machine.matmulReads p ac : A s0 _) :=
  .bind (S.corrsOf h) fun _ _ => .bind (.mapAll _ fun _ => .bind (S.rdRows h) fun _ _ => .bind (.mapAll _ fun _ =>
    .bind (S.rdRow h) fun _ _ => .bind (rdWhere_along (S.rdRow h)) fun _ _ => .bind (rdWhere_along (S.rdOldRow h)) fun _ _ =>
      .pure trivial) fun _ _ => .pure trivial) fun _ _ => .pure trivial

theorem Serves.adapterReads {p : Pkt} : AlongA K (fun _ => True) (Machine.adapterReads p ac : A s0 _) := by
  refine .bind (S.corrsOf h) fun cs _ => .bind (.mapAll _ fun i => ?_) fun _ _ => .pure trivial
  split
  · exact .pure trivial
  · exact .bind (S.rdRow h) fun _ _ => .bind (S.rdOldRow h) fun _ _ => .pure trivial

theorem Serves.mlpReads {p : Pkt} : AlongA K (fun _ => True) (Machine.mlpReads p ac : A s0 _) :=
  .bind (S.corrsOf h) fun _ _ => .bind (S.corrsOf h) fun _ _ => .bind (.ite (.pure trivial) (S.rdRow h)) fun _ _ =>
    .bind (S.rdRows h) fun _ _ => .bind (S.rdRows h) fun _ _ => .bind (.mapAll _ fun _ => .bind (S.rdRow h) fun _ _ =>
      .bind (rdWhere_along (S.rdOldRow h)) fun _ _ => .pure trivial) fun _ _ => .pure trivial

theorem Serves.rowReads {z : Desc} {ins : List Desc} : AlongA K (fun _ => True) (Machine.rowReads z ins ac : A s0 _) :=
  .mapAll _ fun _ => .mapAll _ fun _ => S.rdRow h

theorem Serves.normReads {p : Pkt} : AlongA K (fun _ => True) (Machine.normReads p ac : A s0 _) :=
  .bind (S.rdRow h) fun _ _ => .bind (S.rowReads h) fun _ _ => .pure trivial

theorem Serves.rdIndexes {t : Desc} : AlongA K (fun _ => True) (Machine.rdIndexes ac t : A s0 _) :=
  .bind (S.rdTensor h) fun _ _ => .pure trivial

theorem Serves.rdRotary {t : Desc} {pos : Nat} : AlongA K (fun _ => True) (Machine.rdRotary ac t pos : A s0 _) :=
  .bind (S.rdElems h) fun _ _ => .bind (S.rdElems h) fun _ _ => .pure trivial

theorem Serves.rotaryReads {p : Pkt} : AlongA K (fun _ => True) (Machine.rotaryReads p ac : A s0 _) :=
  .bind (S.rdIndexes h) fun _ _ => .mapAll _ fun _ => .bind (S.rdRow h) fun _ _ =>
    .ite (.bind (S.rdRotary h) fun _ _ => .pure trivial) (.pure trivial)

theorem Serves.routeReads {p : Pkt} : AlongA K (fun _ => True) (Machine.routeReads p ac : A s0 _) :=
  .mapAll _ fun _ => S.rdRow h

end

end Sys2Proof.Machine
end

section
/-!
PROOFS. Operations that run to their end: the run of a sequence by the runs of its parts; a packet's end from its operation's run (R56,
R66); the rows a packet computes, written out (R124 to R126).
-/
namespace Sys2Proof.Machine

variable {s0 : State} {α β γ : Type} {part ctx : Nat} {ns : List RegName}

/-! ### Runs that do not stop -/

/-- From log l and state t the operation ends with answer a, log k and state u. -/
def Yields (m : A s0 α) (l : Log) (t : At s0) (a : α) (k : Log) (u : At s0) : Prop := m.run.run l t = ((.ok a, k), u)

section
variable {m : A s0 α} {l k k' : Log} {t u v : At s0} {a : α} {b : β}

theorem Yields.pure : Yields (Pure.pure a : A s0 α) l t a l t := rfl

theorem Yields.of_pure {a' : α} (h : Yields (Pure.pure a : A s0 α) l t a' k u) : a' = a ∧ k = l ∧ u = t := by
  cases h
  exact ⟨rfl, rfl, rfl⟩

theorem Yields.lift {m : M s0 α} : Yields (liftM m : A s0 α) l t (m t).1 l (m t).2 := rfl

theorem Yields.of_lift {m : M s0 α} (h : Yields (liftM m : A s0 α) l t a k u) : a = (m t).1 ∧ k = l ∧ u = (m t).2 := by
  cases h
  exact ⟨rfl, rfl, rfl⟩

/-- An action lifted, when its answer does not matter. -/
theorem Yields.liftUnit {m : M s0 Unit} : Yields (liftM m : A s0 Unit) l t () l (m t).2 := rfl

theorem Yields.throw {e : Stop} : ¬Yields (MonadExcept.throw e : A s0 α) l t a k u := nofun

theorem run_bind (m : A s0 α) (f : α → A s0 β) (l : Log) (t : At s0) : (m >>= f).run.run l t =
    match m.run.run l t with
    | ((.ok a, k), v) => (f a).run.run k v
    | ((.error e, k), v) => ((.error e, k), v) := by
  change (m.run >>= ExceptT.bindCont f).run l t = _
  rw [StateT.run_bind]
  change ((ExceptT.bindCont f (m.run.run l t).1.1).run (m.run.run l t).1.2) (m.run.run l t).2 = _
  generalize m.run.run l t = x
  obtain ⟨⟨r, k⟩, v⟩ := x
  cases r <;> rfl

theorem Yields.bind {f : α → A s0 β} (h : Yields m l t a k u) (h' : Yields (f a) k u b k' v) : Yields (m >>= f) l t b k' v := by
  unfold Yields
  rw [run_bind, h]
  exact h'

theorem Yields.of_bind {f : α → A s0 β} (h : Yields (m >>= f) l t b k' v) :
    ∃ a k u, Yields m l t a k u ∧ Yields (f a) k u b k' v := by
  unfold Yields at h
  rw [run_bind] at h
  rcases hm : m.run.run l t with ⟨⟨r, k⟩, u⟩
  rw [hm] at h
  cases r with
  | ok a => exact ⟨a, k, u, hm, h⟩
  | error e => cases h

/-- An operation whose answer is only rewritten. -/
theorem Yields.map {f : α → β} (h : Yields m l t a k u) : Yields (do let x ← m; Pure.pure (f x)) l t (f a) k u := h.bind .pure

theorem Yields.of_map {f : α → β} (h : Yields (do let x ← m; Pure.pure (f x)) l t b k u) : ∃ a, Yields m l t a k u ∧ b = f a := by
  obtain ⟨a, k', u', hm, hp⟩ := h.of_bind
  obtain ⟨rfl, rfl, rfl⟩ := hp.of_pure
  exact ⟨a, hm, rfl⟩

theorem AlongA.yields {K : Course} {Q : α → Prop} (h : AlongA K Q m) (hm : Yields m l t a k u) (ht : K.inv t.1) :
    K.inv u.1 ∧ K.rel t.1 u.1 ∧ Q a := by
  obtain ⟨hi, hr, hq⟩ := h l t ht
  rw [hm] at hi hr hq
  exact ⟨hi, hr, hq a rfl⟩

end

/-- Where f answers each element, g answers it by z; so it does the list. -/
theorem Yields.mapA_zipWith {f : α → A s0 β} {g : α → A s0 γ} {z : α → β → γ} {xs : List α} {ys : List β} {l k : Log} {t u : At s0}
    (hfg : ∀ x y, (x, y) ∈ xs.zip ys → ∀ l t k u, Yields (f x) l t y k u → Yields (g x) l t (z x y) k u)
    (h : Yields (mapA f xs) l t ys k u) : Yields (mapA g xs) l t (List.zipWith z xs ys) k u := by
  induction xs generalizing ys l t with
  | nil =>
    obtain ⟨rfl, rfl, rfl⟩ := h.of_pure
    exact .pure
  | cons x xs ih =>
    obtain ⟨y, k1, u1, hx, hrest⟩ := h.of_bind
    obtain ⟨ys', k2, u2, hxs, hp⟩ := hrest.of_bind
    obtain ⟨rfl, rfl, rfl⟩ := hp.of_pure
    refine .bind (hfg x y (List.mem_cons_self ..) _ _ _ _ hx) (.bind (ih (fun x' y' hm => hfg x' y' ?_) hxs) .pure)
    exact List.mem_cons_of_mem _ hm

/-- An answer for each element. -/
theorem Yields.mapA_length {f : α → A s0 β} {xs : List α} {ys : List β} {l k : Log} {t u : At s0}
    (h : Yields (mapA f xs) l t ys k u) : ys.length = xs.length := by
  induction xs generalizing ys l t k u with
  | nil =>
    obtain ⟨rfl, -, -⟩ := h.of_pure
    rfl
  | cons x xs ih =>
    obtain ⟨y, k1, u1, -, hrest⟩ := h.of_bind
    obtain ⟨ys', k2, u2, hxs, hp⟩ := hrest.of_bind
    obtain ⟨rfl, -, -⟩ := hp.of_pure
    simp [ih hxs]

/-- What an operation finds from a state, as its run. -/
theorem State.finds.yields {s : State} {m : A s α} {a : α} (h : s.finds m a) :
    Yields m {} ⟨s, Reach.refl s⟩ a (s.runs m).2.1 (runA m ⟨s, Reach.refl s⟩).2 := runA_eq h

/-- What is read and planned: the read's run, then the plan's. -/
theorem State.finds.of_plans {s : State} {ac : Acc} {reads : A s α} {ws : α → List Wr} {v : α} {ps : List Wr}
    (h : s.finds (plans ac reads ws) (v, ps)) : ∃ k u k' u', Yields reads {} ⟨s, Reach.refl s⟩ v k u ∧
      Yields (wrPlan ac (ws v)) k u ps k' u' := by
  obtain ⟨v', k, u, hr, hrest⟩ := h.yields.of_bind
  obtain ⟨ps', k', u', hw, hp⟩ := hrest.of_bind
  obtain ⟨hpair, -, -⟩ := hp.of_pure
  cases hpair
  exact ⟨k, u, k', u', hr, hw⟩

/-! ### From an operation's run to its packet -/

variable {c id op : Nat} {s : State} {p : Pkt}

/-- A packet whose operation has ended, and what else it left. -/
structure EndedAs (s t u : State) (c id : Nat) (f : Fin) : Prop where
  ended : t.ended c id f.status f.detail
  booked : Booked u t
  slots : t.slots = s.slots
  adapters : t.adapters = s.adapters
  keys : t.keys = s.keys

/-- The command of a packet whose operation ends, having kept the packets, slots and adapters. -/
theorem RunsBody.ends {cmd : Nat → Nat → Instr} {body : {s0 : State} → Nat → Pkt → Acc → A s0 Fin} (h : RunsBody cmd op body)
    (hissued : s.issued c id op p) (hturn : s.servedNow c id op) (haff : s.affords c p (body c p (s.acc c))) {f : Fin} {k : Log}
    {u : At s} (hrun : Yields (body c p (s.acc c)) {} ⟨s, Reach.refl s⟩ f k u) (hw : f.wait = false) (hserved : Served ns s u.1) :
    Answers (cmd c id) s fun t => EndedAs s t u.1 c id f := by
  obtain ⟨source, atomic, onAbort, hgo⟩ := h c id s p hissued hturn
  obtain ⟨-, -, hpkt, -⟩ := hissued
  obtain ⟨hx, hpays⟩ := haff
  have hlog : (s.runs (body c p (s.acc c))).2.1 = k := by
    unfold State.runs runA
    rw [hrun]
  rw [hlog] at hpays
  obtain ⟨hbooked, hcore⟩ := runPktWith_ends (source := source) (atomic := atomic) (onAbort := onAbort)
    (State.pkt_id hpkt) hrun hw hx hpays
  refine answers_of_go hgo ⟨?_, hbooked, hbooked.slots.trans hserved.slots, hbooked.adapters.trans hserved.adapters,
    hbooked.keys.trans hserved.keys⟩
  rw [hserved.pkt, hpkt] at hcore
  obtain ⟨y, hy, hycore⟩ := Option.map_eq_some_iff.1 hcore
  unfold Pkt.core Pkt.outcome Pkt.endsWith at hycore
  simp only [Prod.mk.injEq] at hycore
  exact ⟨y, hy, hycore.1.1, hycore.1.2.1, hycore.1.2.2.1⟩

/-- Memory as a read finds it rests on its bytes and its merge entries. -/
theorem SameStore.seen {s t : State} (h : SameStore s t) (x : Nat) : t.seen x = s.seen x := by
  obtain ⟨hmem, -, hmerges, -⟩ := h
  unfold State.seen State.byteAt
  rw [hmerges, hmem]

/-- The registers that an operation and the bookkeeping after it may have changed. -/
theorem SameRegs.booked {ms : List RegName} {s t u : State} (h : SameRegs ns s u)
    (k : SameRegs (.stkRegGranules :: .dtRegGranules :: followers) u t) (hns : ns ⊆ ms) (hg : [.stkRegGranules, .dtRegGranules] ⊆ ms) :
    SameRegs (ms ++ followers) s t := by
  refine (h.mono fun n hn => List.mem_append_left _ (hns hn)).trans (k.mono fun n hn => ?_)
  simp only [List.mem_cons] at hn
  obtain rfl | rfl | hn := hn
  · exact List.mem_append_left _ (hg (by simp))
  · exact List.mem_append_left _ (hg (by simp))
  · exact List.mem_append_right _ hn

theorem EndedAs.regs {t u : State} {f : Fin} (h : EndedAs s t u c id f) (hserved : Served ns s u) {ms : List RegName}
    (hns : ns ⊆ ms) (hg : [.stkRegGranules, .dtRegGranules] ⊆ ms) : SameRegs (ms ++ followers) s t :=
  hserved.regs.booked h.booked.regs hns hg

/-- The counters of read-modify-writes are among those of accesses. -/
theorem counting_counters : Counting counters := ⟨by decide, by decide⟩

/-- A packet whose operation has written a plan's writes has stored them. -/
theorem EndedAs.stored {t u : State} {ps : List Wr} (h : EndedAs s t u c id {}) {regs : List RegName}
    (hw : Writing part ctx (regs ++ counters) (fun f => ps.foldl Wr.onto f) s u) : Stored s t c id ps regs :=
  ⟨h.ended, fun x => (h.booked.store.seen x).trans (hw.seen x), h.slots, h.adapters,
    h.regs hw.steps.served (fun _ h => h) fun n hn => List.mem_append_right _ ((by decide : [_, _] ⊆ counters) hn)⟩

/-! ### Rows written (R126) -/

theorem countShared_reading (hn : Counting ns) {f : Fld} (hf : f.reg ∈ ns) {dies total : Nat} :
    Along (reading part ctx ns) (countShared f dies total : M s0 Unit) :=
  .ite (.ite (.bind (takeFresh_reading hn) fun _ => .bind (bump_reading hn hf) fun _ => bump_reading hn hf) (bump_reading hn hf))
    (.pure ())

/-- The counters of R126 are among those that a run may raise. -/
structure CountsRows (ns : List RegName) : Prop extends Counting ns where
  sat : F.cdArraySat_count.reg ∈ ns
  nan : F.cdArrayNan_count.reg ∈ ns

theorem countsRows_counters : CountsRows counters := ⟨counting_counters, by decide, by decide⟩

/-- Planned rows are written, and counted; nothing else that a read finds changes. -/
theorem Yields.putRows {ac : Acc} {dies : Nat} {rows : List (List Wr × Nat × Nat)} {ws ps : List Wr} {l k : Log} {t u : At s0}
    (hn : CountsRows ns) (hws : rows.flatMap Prod.fst = ws) (h : Yields (wrPlan ac ws) l t ps k u) (hu : u.1.Still part ctx) :
    ∃ v, Yields (Machine.putRows ac dies rows) l t () k v ∧ Writing part ctx ns (fun f => ps.foldl Wr.onto f) u.1 v.1 := by
  have hcount : Along (reading part ctx ns) (do
      countShared F.cdArraySat_count dies ((rows.map fun r => r.2.1).foldl (· + ·) 0)
      countShared F.cdArrayNan_count dies ((rows.map fun r => r.2.2).foldl (· + ·) 0) : M s0 Unit) :=
    .bind (countShared_reading hn.toCounting hn.sat) fun _ => countShared_reading hn.toCounting hn.nan
  have hdo := wrDo_writes (ps := ps) (t := u) hn.toCounting hu
  exact ⟨_, .bind (.bind (hws ▸ h) .liftUnit) (.bind .liftUnit .liftUnit), hdo.trans (hcount.writing (t := ⟨_, (wrDo ps u).2.2⟩) hdo.still)⟩

end Sys2Proof.Machine
end

section
/-!
PROOFS. Packets that put rows of what they read (R61, R108 to R126, R290, R291): the operations of the dense class.
-/
namespace Sys2Proof.Machine

variable {s0 : State} {α β γ : Type} {part ctx : Nat} {ns : List RegName} {c id op : Nat}

/-! ### A destination of open values (log entry 22) -/

theorem wrAll_working (hn : Counting ns) {ac : Acc} (h : ac.part = part ∧ ac.ctx = ctx) {ws : List Wr} :
    AlongA (working part ctx ns) (fun _ => True) (wrAll ac ws : A s0 Unit) :=
  (servesWorking hn).wrAll (fun _ => wrOne_working hn) h

theorem freeElem_working (hn : Counting ns) {ac : Acc} (h : ac.part = part ∧ ac.ctx = ctx) {z : Desc} {l : Int} :
    Along (working part ctx ns) (freeElem ac z l : M s0 Unit) :=
  .bind (takeFresh_reading hn).working fun _ => .bind (takeFresh_reading hn).working fun _ =>
    .ite (.bind (.runA (wrAll_working hn h)) fun _ => .pure ()) (.pure ())

theorem openDest_working (hn : Counting ns) {ac : Acc} (h : ac.part = part ∧ ac.ctx = ctx) {z : Desc} {others : List Desc} :
    Along (working part ctx ns) (openDest ac z others : M s0 Unit) :=
  .ite (.pure ()) (.each _ fun _ => freeElem_working hn h)

/-- A destination that stands apart is left. -/
theorem openDest_apart {ac : Acc} {z : Desc} {others : List Desc} (h : z.apart others = true) :
    (openDest ac z others : M s0 Unit) = pure () := if_pos h

/-! ### Operations that put rows -/

/-- What follows the rows of a packet: nothing but a destination left open, and that only where it does not stand apart. -/
structure Tail (apart : Pkt → Prop) (tail : {s0 : State} → Pkt → Acc → M s0 Unit) : Prop where
  works : ∀ {s0 : State} {part ctx : Nat} {ns : List RegName} {p : Pkt} {ac : Acc}, Counting ns → ac.part = part ∧ ac.ctx = ctx →
    Along (working part ctx ns) (tail p ac : M s0 Unit)
  none : ∀ {s0 : State} {p : Pkt} {ac : Acc}, apart p → (tail p ac : M s0 Unit) = pure ()

theorem tail_openDest {dst : Nat} {others : Pkt → List Desc} :
    Tail (fun p => (p.desc dst).apart (others p) = true) fun p ac => openDest ac (p.desc dst) (others p) :=
  ⟨fun hn h => openDest_working hn h, fun h => openDest_apart h⟩

theorem tail_none {apart : Pkt → Prop} : Tail apart fun _ _ => pure () := ⟨fun _ _ => .pure (), fun _ => rfl⟩

/-- Rows put, then what follows them. -/
def putThen (p : Pkt) (ac : Acc) (rs : List (List Wr × Nat × Nat)) (tail : M s0 Unit) : A s0 Fin := do
  putRows ac p.dies rs
  tail
  pure {}

/-- An operation reads, then puts rows: the writes that follow from what it read. -/
structure Puts (body : {s0 : State} → Pkt → Acc → A s0 Fin) (tail : {s0 : State} → Pkt → Acc → M s0 Unit) {α : Type}
    (reads : {s0 : State} → Pkt → Acc → A s0 α) (gives : Pkt → α → List Wr → Prop) : Prop where
  serves : ∀ {s0 : State} {K : Course} (S : Serves K) {p : Pkt} {ac : Acc}, S.acc ac →
    AlongA K (fun _ => True) (reads p ac : A s0 α)
  puts : ∀ {s0 : State} {p : Pkt} {ac : Acc} {l k : Log} {t u : At s0} {v : α} {ws : List Wr}, gives p v ws →
    Yields (reads p ac) l t v k u → ∃ rs : List (List Wr × Nat × Nat), rs.flatMap Prod.fst = ws ∧
      ∀ k' w, Yields (putThen p ac rs (tail p ac)) k u {} k' w → Yields (body p ac) l t {} k' w

/-- The packet of such an operation ends, its writes stored where its destinations stand apart. -/
theorem Puts.ends {cmd : Nat → Nat → Instr} {body : {s0 : State} → Pkt → Acc → A s0 Fin}
    {apart : Pkt → Prop} {tail : {s0 : State} → Pkt → Acc → M s0 Unit} {reads : {s0 : State} → Pkt → Acc → A s0 α}
    {gives : Pkt → α → List Wr → Prop} (hputs : Puts body tail reads gives) (htail : Tail apart tail)
    (hruns : RunsBody cmd op fun _ => body) (hclass : engineClass op = 0) {s : State} {p : Pkt} {v : α} {ws : α → List Wr}
    {ps : List Wr} (hready : s.ready c id op p (body p (s.acc c))) (hgives : gives p v (ws v))
    (hfinds : s.finds (plans (s.acc c) (reads p (s.acc c)) ws) (v, ps)) :
    Answers (cmd c id) s fun t => t.ended c id stOk 0 ∧ t.slots = s.slots ∧ (apart p → Stored s t c id ps) := by
  obtain ⟨hissued, hcalm, haff⟩ := hready
  have hn := countsRows_counters
  have hac : (servesReading (s.partOf c) c hn.toCounting).acc (s.acc c) := acc_serves
  obtain ⟨k, u, k', u', hread, hplan⟩ := hfinds.of_plans
  obtain ⟨hstill, ⟨hsteps, hseen⟩, -⟩ := (hputs.serves (servesReading _ _ hn.toCounting) hac).yields hread hcalm.still
  obtain ⟨hstill', ⟨hsteps', hseen'⟩, -⟩ := ((servesReading _ _ hn.toCounting).wrPlan hac).yields hplan hstill
  obtain ⟨rs, hrs, hbody⟩ := hputs.puts hgives hread
  obtain ⟨x, hput, hwrote⟩ := Yields.putRows (dies := p.dies) hn hrs hplan hstill'
  have hwrites := (Writing.mk hstill' (hsteps.trans hsteps') fun x => (hseen' x).trans (hseen x) :
    Writing (s.partOf c) c counters (fun f => f) s u'.1).trans hwrote
  obtain ⟨htailstill, htailsteps⟩ := htail.works (p := p) hn.toCounting hac x hwrote.still
  have hrun := hbody k' _ (.bind hput (.bind .liftUnit .pure))
  obtain ⟨t, ht, hend⟩ := hruns.ends hissued (.inl hclass) haff hrun rfl (hwrites.steps.trans htailsteps).served
  refine ⟨t, ht, hend.ended, hend.slots, fun hapart => ?_⟩
  rw [htail.none hapart] at hend
  exact hend.stored (regs := []) hwrites

/-- An operation puts rows of its destination. -/
abbrev PutsRows (body : {s0 : State} → Pkt → Acc → A s0 Fin) (dst : Nat) (tail : {s0 : State} → Pkt → Acc → M s0 Unit)
    {α : Type} (reads : {s0 : State} → Pkt → Acc → A s0 α) (rows : Pkt → α → Option (List (List Nat × List Num))) : Prop :=
  Puts body tail reads fun p v ws => ∃ out, rows p v = some out ∧ ws = rowWrites (p.desc dst) out

theorem PutsRows.packetPuts {cmd : Nat → Nat → Instr} {body : {s0 : State} → Pkt → Acc → A s0 Fin} {dst : Nat}
    {others : Pkt → List Desc} {tail : {s0 : State} → Pkt → Acc → M s0 Unit} {reads : {s0 : State} → Pkt → Acc → A s0 α}
    {rows : Pkt → α → Option (List (List Nat × List Num))} (hputs : PutsRows body dst tail reads rows)
    (htail : Tail (fun p => (p.desc dst).apart (others p) = true) tail) (hruns : RunsBody cmd op fun _ => body)
    (hclass : engineClass op = 0) : PacketPuts cmd op body dst others reads rows :=
  fun _ _ _ _ _ out _ hready hrows hfinds =>
    hputs.ends htail hruns hclass hready ⟨out, hrows, by rw [hrows, Option.getD_some]⟩ hfinds

/-! ### Row-wise packets -/

/-- The rows of a row-wise packet, as written. -/
def rowsPut (z : Desc) (f : List (List Num) → List Num) (v : List (List (List Num))) : List (List Wr × Nat × Nat) :=
  List.zipWith (fun o xs => outRow z o (f xs)) z.outers v

theorem flatMap_rowsPut (z : Desc) (f : List (List Num) → List Num) (v : List (List (List Num))) :
    (rowsPut z f v).flatMap Prod.fst = rowWrites z ((z.outers.zip v).map fun (o, xs) => (o, f xs)) := by
  unfold rowsPut rowWrites
  rw [← List.map_uncurry_zip_eq_zipWith, List.flatMap_map, List.flatMap_map]
  rfl

/-- A row-wise operation goes on from what it reads. -/
theorem Yields.rowwise {p : Pkt} {ac : Acc} {z : Desc} {ins : List Desc} {f : List (List Num) → List Num} {l k k' : Log} {t u w : At s0}
    {v : List (List (List Num))} (h : Yields (rowReads z ins ac) l t v k u)
    (hput : Yields (putThen p ac (rowsPut z f v) (openDest ac z ins)) k u {} k' w) :
    Yields (do Machine.rowwise ac p.dies z ins f; Pure.pure {} : A s0 Fin) l t {} k' w := by
  obtain ⟨_, k1, u1, hrows, hrest⟩ := hput.of_bind
  obtain ⟨_, k2, u2, htail, hp⟩ := hrest.of_bind
  refine .bind (.bind (.mapA_zipWith (fun o xs _ l t k u hxs => ?_) h) (.bind hrows htail)) hp
  exact hxs.map

theorem putsRows_eltwise : PutsRows eltwiseBody 4 (fun p ac => openDest ac (p.desc 4) p.eltIns)
    (fun p => rowReads (p.desc 4) p.eltIns) eltOut where
  serves S _ _ h := S.rowReads h
  puts := by
    rintro s0 p ac l k t u v _ ⟨out, hrows, rfl⟩ h
    cases hrows
    exact ⟨_, flatMap_rowsPut _ _ _, fun k' w hput => h.rowwise hput⟩

theorem putsRows_norm : PutsRows normBody 4 (fun p ac => openDest ac (p.desc 4) [p.desc 2]) normReads normOut where
  serves S _ _ h := S.normReads h
  puts := by
    rintro s0 p ac l k t u v _ ⟨out, hrows, rfl⟩ h
    cases hrows
    obtain ⟨g, k1, u1, hg, hrest⟩ := h.of_bind
    obtain ⟨rs, hrs, rfl⟩ := hrest.of_map
    exact ⟨_, flatMap_rowsPut _ _ _, fun k' w hput => .bind hg (hrs.rowwise hput)⟩

theorem putsRows_softmax : PutsRows softmaxBody 3 (fun p ac => openDest ac (p.desc 3) [p.desc 2])
    (fun p => rowReads (p.desc 3) [p.desc 2]) softmaxOut where
  serves S _ _ h := S.rowReads h
  puts := by
    rintro s0 p ac l k t u v _ ⟨out, hrows, rfl⟩ h
    unfold softmaxOut at hrows
    split at hrows
    · next hlen =>
      cases hrows
      refine ⟨_, flatMap_rowsPut _ (fun xs => (softmaxRow ((xs.headD []).map to32)).map of32) _, fun k' w hput => ?_⟩
      unfold softmaxBody
      simp only [hlen, ne_eq, not_true_eq_false, if_false]
      exact h.rowwise hput
    · cases hrows

theorem putsRows_quantise : PutsRows quantiseBody 3 (fun p ac => openDest ac (p.desc 3) [p.desc 2])
    (fun p => rowReads (p.desc 3) [p.desc 2]) quantiseOut where
  serves S _ _ h := S.rowReads h
  puts := by
    rintro s0 p ac l k t u v _ ⟨out, hrows, rfl⟩ h
    cases hrows
    exact ⟨_, flatMap_rowsPut _ _ _, fun k' w hput => h.rowwise hput⟩

/-! ### Rows that some values give -/

/-- The rows of a list of values that all give one. -/
theorem of_mapM_some {f : α → Option β} {xs : List α} {ys : List β} (h : xs.mapM f = some ys) :
    (∀ x ∈ xs, ∃ y, f x = some y) ∧ ∀ d, ys = xs.map fun x => (f x).getD d := by
  induction xs generalizing ys with
  | nil =>
    cases h
    exact ⟨nofun, fun _ => rfl⟩
  | cons x xs ih =>
    rw [List.mapM_cons] at h
    obtain ⟨y, hy, h⟩ := Option.bind_eq_some_iff.1 h
    obtain ⟨ys', hys, h⟩ := Option.bind_eq_some_iff.1 h
    cases h
    obtain ⟨hall, heq⟩ := ih hys
    refine ⟨fun z hz => ?_, fun d => by rw [List.map_cons, hy, ← heq d]; rfl⟩
    obtain rfl | hz := List.mem_cons.1 hz
    · exact ⟨y, hy⟩
    · exact hall z hz

/-- A list zipped with one as long, of which the answers alone count. -/
theorem zipWith_snd {f : β → γ} {xs : List α} {ys : List β} (h : ys.length = xs.length) :
    List.zipWith (fun _ y => f y) xs ys = ys.map f := by
  rw [← List.map_uncurry_zip_eq_zipWith]
  change (xs.zip ys).map (f ∘ Prod.snd) = _
  rw [← List.map_map, List.map_snd_zip (by omega)]

theorem Yields.correct {w fa : Nat} {x : List Num} {c : Option Corr} {acc r : List Num} {l : Log} {t : At s0}
    (h : corrected fa x c acc = some r) : Yields (Machine.correct w fa x c acc) l t r l t := by
  cases c with
  | none =>
    cases h
    exact .pure
  | some k =>
    unfold corrected at h
    obtain ⟨ts, hts, rfl⟩ := Option.map_eq_some_iff.1 h
    unfold Machine.correct
    simp only [hts]
    exact .pure

end Sys2Proof.Machine
end

section
/-!
PROOFS. Products and corrections (R108 to R123, R290, R291): MATMUL, MATMUL_BATCHED, ADAPTER and MLP_GATED put the rows of what they read.
-/
namespace Sys2Proof.Machine

variable {s0 : State} {α β γ : Type}

theorem rdWhere_ne_zero {w : Nat} {m : A s0 (List Num)} : (if w = 0 then pure none else do pure (some (← m))) = rdWhere (w != 0) m := by
  unfold rdWhere
  by_cases h : w = 0
  · simp [h]
  · simp [h]

/-- A packet that leaves no destination open. -/
theorem Yields.of_putThen {p : Pkt} {ac : Acc} {rs : List (List Wr × Nat × Nat)} {l k : Log} {t u : At s0} {f : Fin}
    (h : Yields (putThen p ac rs (Pure.pure ())) l t f k u) : Yields (do Machine.putRows ac p.dies rs; Pure.pure {} : A s0 Fin) l t f k u := by
  obtain ⟨_, k2, u2, hrows, hrest⟩ := h.of_bind
  obtain ⟨_, k3, u3, htail, hp⟩ := hrest.of_bind
  obtain ⟨-, rfl, rfl⟩ := htail.of_pure
  exact .bind hrows hp

/-! ### MATMUL and MATMUL_BATCHED -/

/-- What a product reads of one row: A's, the addend's, C's as it was. -/
abbrev RowRead := List Num × Option (List Num) × Option (List Num)

/-- What a product reads of one batch element: its outer index, B's columns, its rows. -/
abbrev ElementRead := List Nat × List (List Num) × List RowRead

/-- The row of C from what is read, where its correction can be added. -/
def matmulOutRow (p : Pkt) (cs : List (Option Corr)) (r : List Nat × List (List Num) × RowRead × Nat) : Option (List Nat × List Num) :=
  let ar := (arithOf (p.aFmt 2) (p.desc 3).fmt).getD {}
  let x := prologueRow p.prologue [] r.2.2.1.1
  (corrected (p.aFmt 2) x (cs.getD ((p.desc 2).size 1 * r.1.headD 0 + r.2.2.2) none) (productRow ar x r.2.1)).map fun acc =>
    (r.2.2.2 :: r.1, finishRow ar p.epi p.outFmt acc r.2.2.1.2.1 r.2.2.1.2.2)

/-- The rows of a product's batch element, in order. -/
def elementRows (p : Pkt) (e : ElementRead) : List (List Nat × List (List Num) × RowRead × Nat) :=
  (e.2.2.zip (List.range ((p.desc 2).size 1))).map fun r => (e.1, e.2.1, r)

theorem matmulOut_eq (p : Pkt) (v : List (Option Corr) × List ElementRead) :
    matmulOut p v = (v.2.flatMap (elementRows p)).mapM (matmulOutRow p v.1) := rfl

theorem matmulRow_yields {ac : Acc} {p : Pkt} {cs : List (Option Corr)} {o : List Nat} {i : Nat} {cols : List (List Num)} {r : RowRead}
    {z : List Nat × List Num} {l k : Log} {t u : At s0} (hz : matmulOutRow p cs (o, cols, r, i) = some z)
    (h : Yields (do
      let x ← rdRow ac (p.desc 2) (i :: o)
      let d ← rdWhere (p.w 5 != 0) (rdRow ac (p.desc 5) (i :: o))
      let old ← rdWhere p.accumulate (rdOldRow ac (p.desc 4) (i :: o))
      pure (x, d, old)) l t r k u) :
    Yields (matmulRow ac p ((arithOf (p.aFmt 2) (p.desc 3).fmt).getD {}) cols (i :: o)
      ((cs.drop ((p.desc 2).size 1 * o.headD 0)).getD i none)) l t (outRow (p.desc 4) z.1 z.2) k u := by
  obtain ⟨x, k1, u1, hx, h⟩ := h.of_bind
  obtain ⟨d, k2, u2, hd, h⟩ := h.of_bind
  obtain ⟨old, hold, rfl⟩ := h.of_map
  obtain ⟨acc, hacc, rfl⟩ := Option.map_eq_some_iff.1 hz
  have hdrop : (cs.drop ((p.desc 2).size 1 * o.headD 0)).getD i none = cs.getD ((p.desc 2).size 1 * o.headD 0 + i) none := by
    simp [List.getD_eq_getElem?_getD, List.getElem?_drop]
  unfold matmulRow
  rw [hdrop, rdWhere_ne_zero]
  exact .bind hx (.bind (.correct hacc) (.bind hd (.bind hold .pure)))

/-- The rows that a batch element's reads give, as written. -/
def elementPut (p : Pkt) (cs : List (Option Corr)) (e : ElementRead) : List (List Wr × Nat × Nat) :=
  (elementRows p e).map fun r => let z := (matmulOutRow p cs r).getD ([], []); outRow (p.desc 4) z.1 z.2

theorem matmulOne_yields {ac : Acc} {p : Pkt} {cs : List (Option Corr)} {o : List Nat} {e : ElementRead} {l k : Log} {t u : At s0}
    (hall : ∀ r ∈ elementRows p e, ∃ z, matmulOutRow p cs r = some z) (h : Yields (do
      let cols ← rdRows ac (p.desc 3) ((p.desc 3).size 1) o
      let rs ← mapA (fun i => do
        let x ← rdRow ac (p.desc 2) (i :: o)
        let d ← rdWhere (p.w 5 != 0) (rdRow ac (p.desc 5) (i :: o))
        let old ← rdWhere p.accumulate (rdOldRow ac (p.desc 4) (i :: o))
        pure (x, d, old)) (List.range ((p.desc 2).size 1))
      pure (o, cols, rs)) l t e k u) :
    Yields (matmulOne ac p ((arithOf (p.aFmt 2) (p.desc 3).fmt).getD {}) ((p.desc 2).size 1) o
      (cs.drop ((p.desc 2).size 1 * o.headD 0))) l t (elementPut p cs e) k u := by
  obtain ⟨cols, k1, u1, hcols, h⟩ := h.of_bind
  obtain ⟨rs, hrs, rfl⟩ := h.of_map
  have hput : elementPut p cs (o, cols, rs) = List.zipWith (fun i r =>
      let z := (matmulOutRow p cs (o, cols, r, i)).getD ([], [])
      outRow (p.desc 4) z.1 z.2) (List.range ((p.desc 2).size 1)) rs := by
    unfold elementPut elementRows
    rw [List.zipWith_comm, ← List.map_uncurry_zip_eq_zipWith, List.map_map]
    rfl
  rw [hput]
  refine .bind hcols (.mapA_zipWith (fun i r hir l t k u hr => ?_) hrs)
  have hri : (r, i) ∈ rs.zip (List.range ((p.desc 2).size 1)) := by
    rw [← List.zip_swap]
    exact List.mem_map.2 ⟨(i, r), hir, rfl⟩
  obtain ⟨z, hz⟩ := hall (o, cols, r, i) (List.mem_map.2 ⟨(r, i), hri, rfl⟩)
  rw [hz]
  exact matmulRow_yields hz hr

theorem putsRows_matmul : PutsRows matmulBody 4 (fun _ _ => pure ()) matmulReads matmulOut where
  serves S _ _ h := S.matmulReads h
  puts := by
    rintro s0 p ac l k t u v _ ⟨out, hrows, rfl⟩ h
    obtain ⟨cs, k1, u1, hcs, h⟩ := h.of_bind
    obtain ⟨es, hes, rfl⟩ := h.of_map
    rw [matmulOut_eq] at hrows
    obtain ⟨hall, hout⟩ := of_mapM_some hrows
    have hrowsRun : Yields (mapA (fun o => matmulOne ac p ((arithOf (p.aFmt 2) (p.desc 3).fmt).getD {}) ((p.desc 2).size 1) o
        (cs.drop ((p.desc 2).size 1 * o.headD 0))) p.outers) k1 u1 (es.map (elementPut p cs)) k u := by
      rw [← zipWith_snd (xs := p.outers) hes.mapA_length]
      exact .mapA_zipWith (fun o e hoe l t k u he => matmulOne_yields (fun r hr =>
        hall r (List.mem_flatMap.2 ⟨e, (List.of_mem_zip hoe).2, hr⟩)) he) hes
    refine ⟨(es.map (elementPut p cs)).flatten, ?_, fun k' w hput => .bind hcs (.bind hrowsRun ?_)⟩
    · rw [hout ([], []), rowWrites]
      simp only [elementPut, ← List.flatMap_def, List.flatMap_assoc, List.flatMap_map, List.map_flatMap]
    · exact hput.of_putThen

/-! ### ADAPTER -/

/-- The row of Y from what is read, where its correction can be added. -/
def adapterOutRow (p : Pkt) (r : Nat × Corr × List Num × List Num) : Option (List Nat × List Num) :=
  (corrected (p.desc 2).fmt r.2.2.1 (some r.2.1) r.2.2.2).map fun v => ([r.1], v)

theorem adapterOut_eq (p : Pkt) (v : List (Nat × Corr × List Num × List Num)) : adapterOut p v = v.mapM (adapterOutRow p) := rfl

/-- The row that an ADAPTER row's reads give, as written: none where it has no correction. -/
def adapterPut (p : Pkt) (r : Option (Nat × Corr × List Num × List Num)) : List Wr × Nat × Nat :=
  match r with
  | none => ([], 0, 0)
  | some r => let z := (adapterOutRow p r).getD ([], []); outRow (p.desc 4) z.1 z.2

theorem adapterRow_yields {ac : Acc} {p : Pkt} {i : Nat} {c : Option Corr} {r : Option (Nat × Corr × List Num × List Num)}
    {l k : Log} {t u : At s0} (hall : ∀ y, r = some y → ∃ z, adapterOutRow p y = some z) (h : Yields (match c with
      | none => pure none
      | some k => do
        let x ← rdRow ac (p.desc 2) [i]
        let old ← rdOldRow ac (p.desc 4) [i]
        pure (some (i, k, x, old))) l t r k u) : Yields (adapterRow ac p i c) l t (adapterPut p r) k u := by
  cases c with
  | none =>
    obtain ⟨rfl, rfl, rfl⟩ := h.of_pure
    exact .pure
  | some c =>
    obtain ⟨x, k1, u1, hx, h⟩ := h.of_bind
    obtain ⟨old, hold, rfl⟩ := h.of_map
    obtain ⟨z, hz⟩ := hall _ rfl
    unfold adapterPut
    simp only [hz, Option.getD_some]
    obtain ⟨acc, hacc, rfl⟩ := Option.map_eq_some_iff.1 hz
    exact .bind hx (.bind hold (.bind (.correct hacc) .pure))

theorem flatMap_adapterPut (p : Pkt) (rs : List (Option (Nat × Corr × List Num × List Num))) :
    (rs.map (adapterPut p)).flatMap Prod.fst =
      rowWrites (p.desc 4) ((rs.filterMap id).map fun r => (adapterOutRow p r).getD ([], [])) := by
  unfold rowWrites
  induction rs with
  | nil => rfl
  | cons r rs ih =>
    cases r with
    | none => exact ih
    | some r =>
      simp only [List.map_cons, List.flatMap_cons, List.filterMap_cons_some (f := id) (a := some r) rfl, ih]
      rfl

theorem putsRows_adapter : PutsRows adapterBody 4 (fun _ _ => pure ()) adapterReads adapterOut where
  serves S _ _ h := S.adapterReads h
  puts := by
    rintro s0 p ac l k t u v _ ⟨out, hrows, rfl⟩ h
    obtain ⟨cs, k1, u1, hcs, h⟩ := h.of_bind
    obtain ⟨rs, hrs, rfl⟩ := h.of_map
    rw [adapterOut_eq] at hrows
    obtain ⟨hall, hout⟩ := of_mapM_some hrows
    have hrun : Yields (mapA (fun i => adapterRow ac p i (cs.getD i none)) (List.range ((p.desc 2).size 1))) k1 u1
        (rs.map (adapterPut p)) k u := by
      rw [← zipWith_snd (xs := List.range ((p.desc 2).size 1)) hrs.mapA_length]
      exact .mapA_zipWith (fun i r hir l t k u hr => adapterRow_yields (fun y hy =>
        hall y (List.mem_filterMap.2 ⟨r, (List.of_mem_zip hir).2, hy⟩)) hr) hrs
    exact ⟨rs.map (adapterPut p), hout ([], []) ▸ flatMap_adapterPut p rs, fun k' w hput =>
      .bind hcs (.bind hrun hput.of_putThen)⟩

/-! ### MLP_GATED -/

/-- What a gated MLP reads before its rows: both corrections, the gain, both matrices' columns. -/
abbrev GatedRead := (List (Option Corr) × List (Option Corr)) × List Num × (List (List Num) × List (List Num))

/-- The row of Y from what is read, where both corrections can be added. -/
def mlpOutRow (p : Pkt) (g : GatedRead) (r : (List Num × Option (List Num)) × Nat) : Option (List Nat × List Num) :=
  let a1 := (arithOf (p.aFmt 2) (p.desc 3).fmt).getD {}
  let a2 := (arithOf 0 (p.desc 4).fmt).getD {}
  let x := prologueRow p.prologue (g.2.1.map to32) r.1.1
  (corrected (p.aFmt 2) x (g.1.1.getD r.2 none) (productRow a1 x g.2.2.1)).bind fun acc =>
    let h := gated p.epi acc
    (corrected 0 h (g.1.2.getD r.2 none) (productRow a2 h g.2.2.2)).map fun acc2 =>
      ([r.2], finishRow a2 0 p.outFmt acc2 none r.1.2)

theorem mlpOut_eq (p : Pkt) (c1 c2 : List (Option Corr)) (gain : List Num) (gu dn : List (List Num))
    (rs : List (List Num × Option (List Num))) : mlpOut p ((c1, c2), gain, (gu, dn), rs) =
      (rs.zip (List.range rs.length)).mapM (mlpOutRow p ((c1, c2), gain, gu, dn)) := rfl

theorem mlpRow_yields {ac : Acc} {p : Pkt} {g : GatedRead} {i : Nat} {r : List Num × Option (List Num)} {z : List Nat × List Num}
    {l k : Log} {t u : At s0} (hz : mlpOutRow p g (r, i) = some z) (h : Yields (do
      let x ← rdRow ac (p.desc 2) [i]
      let old ← rdWhere p.accumulate (rdOldRow ac (p.desc 5) [i])
      pure (x, old)) l t r k u) :
    Yields (mlpRow ac p (g.2.1.map to32) g.2.2.1 g.2.2.2 i (g.1.1.getD i none) (g.1.2.getD i none)) l t
      (outRow (p.desc 5) z.1 z.2) k u := by
  obtain ⟨x, k1, u1, hx, h⟩ := h.of_bind
  obtain ⟨old, hold, rfl⟩ := h.of_map
  obtain ⟨acc, hacc, hz⟩ := Option.bind_eq_some_iff.1 hz
  obtain ⟨acc2, hacc2, rfl⟩ := Option.map_eq_some_iff.1 hz
  exact .bind hx (.bind (.correct hacc) (.bind (.correct hacc2) (.bind hold .pure)))

/-- The rows that MLP_GATED's reads give, as written. -/
def mlpPut (p : Pkt) (g : GatedRead) (rs : List (List Num × Option (List Num))) : List (List Wr × Nat × Nat) :=
  List.zipWith (fun i r => let z := (mlpOutRow p g (r, i)).getD ([], []); outRow (p.desc 5) z.1 z.2) (List.range rs.length) rs

theorem flatMap_mlpPut (p : Pkt) (g : GatedRead) (rs : List (List Num × Option (List Num))) :
    (mlpPut p g rs).flatMap Prod.fst =
      rowWrites (p.desc 5) ((rs.zip (List.range rs.length)).map fun r => (mlpOutRow p g r).getD ([], [])) := by
  unfold mlpPut rowWrites
  rw [List.zipWith_comm, ← List.map_uncurry_zip_eq_zipWith, List.flatMap_map, List.flatMap_map]
  rfl

theorem putsRows_mlp : PutsRows mlpBody 5 (fun _ _ => pure ()) mlpReads mlpOut where
  serves S _ _ h := S.mlpReads h
  puts := by
    rintro s0 p ac l k t u v _ ⟨out, hrows, rfl⟩ h
    obtain ⟨c1, k1, u1, hc1, h⟩ := h.of_bind
    obtain ⟨c2, k2, u2, hc2, h⟩ := h.of_bind
    obtain ⟨gain, k3, u3, hgain, h⟩ := h.of_bind
    obtain ⟨gu, k4, u4, hgu, h⟩ := h.of_bind
    obtain ⟨dn, k5, u5, hdn, h⟩ := h.of_bind
    obtain ⟨rs, hrs, rfl⟩ := h.of_map
    rw [mlpOut_eq] at hrows
    obtain ⟨hall, hout⟩ := of_mapM_some hrows
    have hlen : rs.length = (p.desc 2).size 1 := by simpa using hrs.mapA_length
    have hrun : Yields (mapA (fun i => mlpRow ac p (gain.map to32) gu dn i (c1.getD i none) (c2.getD i none))
        (List.range ((p.desc 2).size 1))) k5 u5 (mlpPut p ((c1, c2), gain, gu, dn) rs) k u := by
      unfold mlpPut
      rw [hlen]
      refine .mapA_zipWith (fun i r hir l t k u hr => ?_) hrs
      have hri : (r, i) ∈ rs.zip (List.range rs.length) := by
        rw [← List.zip_swap, hlen]
        exact List.mem_map.2 ⟨(i, r), hir, rfl⟩
      obtain ⟨z, hz⟩ := hall (r, i) hri
      rw [hz]
      exact mlpRow_yields (g := ((c1, c2), gain, gu, dn)) hz hr
    exact ⟨_, hout ([], []) ▸ flatMap_mlpPut p _ rs, fun k' w hput =>
      .bind hc1 (.bind hc2 (.bind hgain (.bind hgu (.bind hdn (.bind hrun hput.of_putThen)))))⟩

end Sys2Proof.Machine
end

section
/-!
PROOFS. ROTARY_Q, MOE_ROUTE, and the packets whose values the spec leaves open (R61, R248, log entry 22).
-/
namespace Sys2Proof.Machine

variable {s0 : State} {α β γ : Type} {part ctx : Nat} {ns : List RegName} {c id op : Nat}

/-! ### ROTARY_Q -/

/-- What ROTARY_Q reads of one row: its outer index, Q's row, the table's cos and sin at its position, where it has them. -/
abbrev RotaryRead := List Nat × List Num × Option (List Nat × List Nat)

/-- The row of Q rotated, where its position lies in the table. -/
def rotaryOutRow (r : RotaryRead) : Option (List Nat × List Num) :=
  r.2.2.map fun cs => (r.1, (rotate cs.1 cs.2 (r.2.1.map to32)).map of32)

theorem rotaryOut_eq (p : Pkt) (v : List RotaryRead) : rotaryOut p v = v.mapM rotaryOutRow := rfl

theorem rotaryRow_yields {ac : Acc} {q rot : Desc} {o : List Nat} {pos : Int} {r : RotaryRead} {z : List Nat × List Num}
    {l k : Log} {t u : At s0} (hz : rotaryOutRow r = some z) (h : Yields (do
      let x ← rdRow ac q o
      if 0 ≤ pos ∧ pos < rot.size 2 then do
        let r ← rdRotary ac rot pos.toNat
        pure (o, x, some r)
      else pure (o, x, none)) l t r k u) : Yields (rotaryRow ac q rot o pos) l t (outRow q z.1 z.2) k u := by
  obtain ⟨x, k1, u1, hx, h⟩ := h.of_bind
  refine .bind hx ?_
  by_cases hpos : 0 ≤ pos ∧ pos < rot.size 2
  · rw [if_pos hpos] at h ⊢
    obtain ⟨cs, hcs, rfl⟩ := h.of_map
    cases hz
    exact .bind hcs .pure
  · rw [if_neg hpos] at h
    obtain ⟨rfl, -, -⟩ := h.of_pure
    cases hz

theorem putsRows_rotary :
    PutsRows rotaryBody 2 (fun p ac => openDest ac (p.desc 2) [p.desc 3, p.desc 4]) rotaryReads rotaryOut where
  serves S _ _ h := S.rotaryReads h
  puts := by
    rintro s0 p ac l k t u v _ ⟨out, hrows, rfl⟩ h
    obtain ⟨ps, k1, u1, hps, hrs⟩ := h.of_bind
    rw [rotaryOut_eq] at hrows
    obtain ⟨hall, hout⟩ := of_mapM_some hrows
    have hrun : Yields (mapA (fun o => rotaryRow ac (p.desc 2) (p.desc 4) o (ps.getD (if (p.desc 2).rank = 1 then 0 else o.getLastD 0) 0))
        (p.desc 2).outers) k1 u1 (v.map fun r => let z := (rotaryOutRow r).getD ([], []); outRow (p.desc 2) z.1 z.2) k u := by
      rw [← zipWith_snd (xs := (p.desc 2).outers) hrs.mapA_length]
      refine .mapA_zipWith (fun o r hor l t k u hr => ?_) hrs
      obtain ⟨z, hz⟩ := hall r (List.of_mem_zip hor).2
      rw [hz]
      exact rotaryRow_yields hz hr
    refine ⟨_, ?_, fun k' w hput => .bind hps (.bind hrun hput)⟩
    rw [hout ([], []), rowWrites, List.flatMap_map, List.flatMap_map]

/-! ### MOE_ROUTE -/

/-- The chosen experts of a row of logits, and their weights, as written. -/
def routeRow (p : Pkt) (i : Nat) (xs : List Num) : (List Wr × Nat × Nat) × List Wr × Nat × Nat :=
  let row := xs.map fun v => BitVec.ofNat 32 (to32 v)
  let es := chooseExperts row (p.f 5 3 0)
  (outRow (p.desc 3) [i] (es.map fun e => .ofInt (Int.ofNat e)),
    outRow (p.desc 4) [i] (es.map fun e => of32 (Config.routeWeight row (p.f 5 3 0) e).toNat))

/-- What MOE_ROUTE puts: every row's experts, then every row's weights. -/
def routePut (p : Pkt) (v : List (List Num)) : List (List Wr × Nat × Nat) :=
  let rows := List.zipWith (routeRow p) (List.range v.length) v
  rows.map Prod.fst ++ rows.map Prod.snd

theorem flatMap_routePut (p : Pkt) (v : List (List Num)) : (routePut p v).flatMap Prod.fst = routeWrites p v := by
  unfold routePut routeWrites rowWrites
  simp only [← List.map_uncurry_zip_eq_zipWith, List.map_map, List.flatMap_append, List.flatMap_map, List.zip_map_right]
  rfl

/-- What MOE_ROUTE leaves open where its destinations do not stand apart. -/
def routeTail (p : Pkt) (ac : Acc) : M s0 Unit := do
  openDest ac (p.desc 3) [p.desc 2, p.desc 4]
  openDest ac (p.desc 4) [p.desc 2, p.desc 3]

theorem tail_route : Tail (fun p => (p.desc 3).apart [p.desc 2, p.desc 4] = true ∧ (p.desc 4).apart [p.desc 2, p.desc 3] = true)
    routeTail where
  works hn h := .bind (openDest_working hn h) fun _ => openDest_working hn h
  none h := by
    unfold routeTail
    rw [openDest_apart h.1, openDest_apart h.2]
    rfl

theorem puts_route : Puts moeRouteBody routeTail routeReads fun p v ws => ws = routeWrites p v where
  serves S _ _ h := S.routeReads h
  puts := by
    rintro s0 p ac l k t u v _ rfl h
    have hrun : Yields (mapA (fun i => do let xs ← rdRow ac (p.desc 2) [i]; pure (routeRow p i xs)) (List.range ((p.desc 2).size 1)))
        l t (List.zipWith (routeRow p) (List.range v.length) v) k u := by
      rw [h.mapA_length, List.length_range]
      exact .mapA_zipWith (fun _ _ _ _ _ _ _ hx => hx.map) h
    refine ⟨routePut p v, flatMap_routePut p v, fun k' w hput => .bind hrun ?_⟩
    obtain ⟨_, k1, u1, hrows, hrest⟩ := hput.of_bind
    obtain ⟨_, k2, u2, hopen, hp⟩ := hrest.of_bind
    obtain ⟨-, rfl, rfl⟩ := hopen.of_lift
    exact .bind hrows (.bind .liftUnit (.bind .liftUnit hp))

/-! ### Packets of open values -/

theorem putRows_working (hn : CountsRows ns) {ac : Acc} (h : ac.part = part ∧ ac.ctx = ctx) {dies : Nat}
    {rows : List (List Wr × Nat × Nat)} : AlongA (working part ctx ns) (fun _ => True) (putRows ac dies rows : A s0 Unit) :=
  .bind (wrAll_working hn.toCounting h) fun _ _ => .bind (.lift (countShared_reading hn.toCounting hn.sat).working) fun _ _ =>
    .lift (countShared_reading hn.toCounting hn.nan).working

theorem rowwise_working (hn : CountsRows ns) {ac : Acc} (h : ac.part = part ∧ ac.ctx = ctx) {dies : Nat} {z : Desc} {ins : List Desc}
    {f : List (List Num) → List Num} : AlongA (working part ctx ns) (fun _ => True) (rowwise ac dies z ins f : A s0 Unit) :=
  .bind (.mapAll _ fun _ => .bind (.mapAll _ fun _ => (servesWorking hn.toCounting).rdRow h) fun _ _ => .pure trivial) fun _ _ =>
    .bind (putRows_working hn h) fun _ _ => .lift (openDest_working hn.toCounting h)

theorem softmaxBody_working (hn : CountsRows ns) {ac : Acc} (h : ac.part = part ∧ ac.ctx = ctx) {p : Pkt} :
    AlongA (working part ctx ns) (fun f => f = {}) (softmaxBody p ac : A s0 Fin) := by
  let S := servesWorking (part := part) (ctx := ctx) hn.toCounting
  unfold softmaxBody
  by_cases h0 : p.f 4 31 0 ≠ 0
  · simp only [if_pos h0]
    exact .bind (S.rdWords h) fun _ _ => .bind (S.rdWords h) fun _ _ => .bind (rowwise_working hn h) fun _ _ =>
      .bind (.lift (.each _ fun _ => freeElem_working hn.toCounting h)) fun _ _ => .pure rfl
  · simp only [if_neg h0]
    exact .bind (rowwise_working hn h) fun _ _ => .pure rfl

theorem rotaryRow_working (hn : Counting ns) {ac : Acc} (h : ac.part = part ∧ ac.ctx = ctx) {q rot : Desc} {o : List Nat} {pos : Int} :
    AlongA (working part ctx ns) (fun _ => True) (rotaryRow ac q rot o pos : A s0 _) := by
  let S := servesWorking (part := part) (ctx := ctx) hn
  refine .bind (S.rdRow h) fun _ _ => .ite (.bind (S.rdRotary h) fun _ _ => .pure trivial) ?_
  exact .bind (.mapAll _ fun _ => .bind (.lift (takeFresh_reading hn).working) fun _ _ => .pure trivial) fun _ _ => .pure trivial

theorem rotaryBody_working (hn : CountsRows ns) {ac : Acc} (h : ac.part = part ∧ ac.ctx = ctx) {p : Pkt} :
    AlongA (working part ctx ns) (fun f => f = {}) (rotaryBody p ac : A s0 Fin) := by
  let S := servesWorking (part := part) (ctx := ctx) hn.toCounting
  exact .bind (S.rdIndexes h) fun _ _ => .bind (.mapAll _ fun _ => rotaryRow_working hn.toCounting h) fun _ _ =>
    .bind (putRows_working hn h) fun _ _ => .bind (.lift (openDest_working hn.toCounting h)) fun _ _ => .pure rfl

/-- A packet whose operation works, and ends ST_OK where it ends. -/
theorem RunsBody.endsWorking {cmd : Nat → Nat → Instr} {body : {s0 : State} → Nat → Pkt → Acc → A s0 Fin} (h : RunsBody cmd op body)
    {s : State} {p : Pkt} {f : Fin} (hready : s.ready c id op p (body c p (s.acc c))) (hturn : s.servedNow c id op)
    (hwork : AlongA (working (s.partOf c) c ns) (fun f => f = {}) (body c p (s.acc c) : A s Fin))
    (hfinds : s.finds (body c p (s.acc c)) f) :
    Answers (cmd c id) s fun t => EndedAs s t (s.runs (body c p (s.acc c))).2.2 c id {} ∧ Served ns s (s.runs (body c p (s.acc c))).2.2 := by
  obtain ⟨hissued, hcalm, haff⟩ := hready
  obtain ⟨-, hsteps, rfl⟩ := hwork.yields hfinds.yields hcalm.still
  obtain ⟨t, ht, hend⟩ := h.ends hissued hturn haff hfinds.yields rfl hsteps.served
  exact ⟨t, ht, hend, hsteps.served⟩

end Sys2Proof.Machine
end

section
/-!
PROOFS. Units that packets use (R18, R29, R212, R239): where pages lie, units that are ready, and the counters of units; MOE_DISPATCH.
-/
namespace Sys2Proof.Machine

variable {s0 : State} {α β γ : Type} {part ctx : Nat} {ns : List RegName} {c id op : Nat} {K : Course}

/-! ### Where pages lie -/

section
variable (S : Serves K) {ac : Acc} (h : S.acc ac)
include h

theorem Serves.pageHome {w va : Nat} {write : Bool} : AlongA K (fun _ => True) (Machine.pageHome ac w va write : A s0 Nat) :=
  .bind (S.tr h) fun _ _ => .bind .cur fun _ _ => .ifThen (.throw (Q := fun _ => True) _) fun _ => .ite (.pure trivial) (.throw _)

theorem Serves.oneHome {w : Nat} {write : Bool} {vas : List Nat} :
    AlongA K (fun _ => True) (Machine.oneHome ac w write vas : A s0 (List Nat)) := .mapAll _ fun _ => S.pageHome h

theorem Serves.shareHome {x : Share} : AlongA K (fun _ => True) (Machine.shareHome ac x : A s0 Nat) := by
  refine .bind (.mapAll _ fun _ => S.oneHome h) fun hs _ => .bind (S.oneHome h) fun sc _ => ?_
  dsimp only
  split
  · exact .throw _
  · exact .ite (.pure trivial) (.throw _)

theorem Serves.soleHome {vas : List Nat} : AlongA K (fun _ => True) (Machine.soleHome ac vas : A s0 (Option Nat)) := by
  refine .tryCatch (.bind (S.oneHome h) fun hs _ => ?_) fun _ => .pure trivial
  split <;> exact .pure trivial

/-! ### What MOE_DISPATCH reads -/

theorem Serves.nearHomes {p : Pkt} {m e : Nat} : AlongA K (fun _ => True) (Machine.nearHomes ac p m e : A s0 (List Nat)) :=
  .ite (.pure trivial) (.bind (.mapAll _ fun _ => S.soleHome h) fun _ _ => .pure trivial)

theorem Serves.placeExperts {p : Pkt} {counts : List (Nat × Nat)} :
    AlongA K (fun _ => True) (Machine.placeExperts ac p counts : A s0 _) :=
  .bind (.mapAll _ fun _ => .bind (.ite (S.nearHomes h) (.pure trivial)) fun _ _ => .pure trivial) fun _ _ => .pure trivial

theorem Serves.rdRouting {p : Pkt} {m : Nat} : AlongA K (fun _ => True) (Machine.rdRouting ac p m : A s0 _) :=
  .bind (S.rdRows h) fun _ _ => .bind (S.rdRows h) fun _ _ => .ifThen (.throw (Q := fun _ => True) _) fun _ => .pure trivial

omit h in
theorem Serves.guCols {acs : Nat → Acc} (h : ∀ u, S.acc (acs u)) {t : Desc} :
    AlongA K (fun _ => True) (Machine.guCols acs t : A s0 _) :=
  .ite (.bind (.mapAll _ fun u => .mapAll _ fun _ => S.rdRow (h u)) fun _ _ =>
    .bind (.mapAll _ fun u => .mapAll _ fun _ => S.rdRow (h u)) fun _ _ => .pure trivial) (S.rdRows (h 0))

omit h in
theorem Serves.dnCols {acs : Nat → Acc} (h : ∀ u, S.acc (acs u)) {t : Desc} :
    AlongA K (fun _ => True) (Machine.dnCols acs t : A s0 _) :=
  .ite (.mapAll _ fun _ => .bind (.mapAll _ fun u => S.rdRow (h u)) fun _ _ => .pure trivial) (S.rdRows (h 0))

theorem Serves.rdExpert (hvia : ∀ s u, S.acc (State.via s ac u)) {p : Pkt} {near : List (Nat × List Nat)} {e : Nat} :
    AlongA K (fun _ => True) (Machine.rdExpert ac p near e : A s0 ExpertOps) := by
  refine .bind .cur fun s _ => ?_
  have hacs : ∀ u : Nat, S.acc (match (((near.find? fun h => h.1 == e).map Prod.snd).getD [] : List Nat)[u]? with
      | some h => s.via ac h
      | none => ac) := by
    intro u
    split
    · exact hvia _ _
    · exact h
  exact .bind (S.guCols hacs) fun _ _ => .bind (S.dnCols hacs) fun _ _ => .pure trivial

end

/-! ### Units that are ready -/

/-- A unit's share has its partition's and context's rights. -/
theorem via_serves {s : State} {ac : Acc} (h : ac.part = part ∧ ac.ctx = ctx) (u : Nat) :
    (s.via ac u).part = part ∧ (s.via ac u).ctx = ctx := by
  unfold State.via
  split <;> exact h

/-- Whether units are ready rests on the units' own tickets and on two registers. -/
theorem State.unitsReady.congr {s t : State} {m : Nat} {us : List Nat} (h : s.unitsReady c m us) (hu : t.units = s.units)
    (hr : SameRegs ns s t) (hmode : RegName.galUnitState ∉ ns) (hctx : RegName.schCtxState ∉ ns) : t.unitsReady c m us := by
  intro u hmem
  obtain ⟨hnear, htaken⟩ := h u hmem
  constructor
  · unfold State.notNear State.unitService State.unitMode at hnear ⊢
    rw [hr.fld hmode, hr.fld hmode]
    exact hnear
  · unfold State.unitTaken State.ticketsFree State.ticket State.unitsAt State.unitService at htaken ⊢
    rw [hr.fld hmode, hr.fld hctx, hu]
    exact htaken

theorem State.unitsReady.mono {s : State} {m : Nat} {us vs : List Nat} (h : s.unitsReady c m us) (hv : vs ⊆ us) : s.unitsReady c m vs :=
  fun u hu => h u (hv hu)

/-- Units that are ready are there at once. -/
theorem needUnits_yields {ac : Acc} {m : Nat} {us : List Nat} {l : Log} {t : At s0} (h : t.1.unitsReady ac.ctx m us) :
    Yields (needUnits ac m us) l t () l t := by
  unfold needUnits
  split
  · exact .pure
  · have haway : us.filter t.1.notNear = [] := List.filter_eq_nil_iff.2 fun u hu => by simp [(h u hu).1]
    have htaken : us.any (t.1.unitTaken (t.1.fld F.schCtxState_caller ac.ctx) m) = false :=
      List.any_eq_false.2 fun u hu => by simp [(h u hu).2]
    refine .bind (.lift (m := cur)) ?_
    rw [cur_run]
    simp only [haway, htaken, List.any_nil, List.isEmpty_nil, Bool.not_true, Bool.false_eq_true, if_false]
    exact .pure

/-! ### Counters of units (R29, R239) -/

/-- The counters of units are among those that a run may raise. -/
structure CountsUnits (ns : List RegName) : Prop extends CountsRows ns where
  units : unitCounters ⊆ ns

theorem countsUnits_counters : CountsUnits (unitCounters ++ counters) :=
  ⟨⟨⟨by decide, by decide⟩, by decide, by decide⟩, by decide⟩

theorem bump_units (hn : CountsUnits ns) {f : Fld} {d i j k : Nat} (h : f.reg ∈ unitCounters) :
    Along (reading part ctx ns) (bump f d i j k : M s0 Unit) := bump_reading hn.toCounting (hn.units h)

theorem modUnits_reading (hn : Counting ns) {u : Nat} {f : UnitSt → UnitSt} :
    Along (reading part ctx ns) (modUnits u f : M s0 Unit) :=
  .of_steps hn (.bind .cur fun _ => .eff _ trivial) fun _ => ⟨rfl, rfl, rfl⟩

theorem countFallback_reading (hn : CountsUnits ns) {us : List Nat} : Along (reading part ctx ns) (countFallback us : M s0 Unit) :=
  .bind .cur fun _ => .ite (bump_units hn (by decide)) (.pure ())

theorem countUop_reading (hn : CountsUnits ns) {n p : Nat} {x : UopUse} : Along (reading part ctx ns) (countUop n p x : M s0 Unit) :=
  .bind (bump_units hn (by decide)) fun _ => .bind (bump_units hn (by decide)) fun _ => .bind (bump_units hn (by decide)) fun _ =>
    .bind (bump_units hn (by decide)) fun _ => bump_units hn (by decide)

theorem countShare_reading (hn : CountsUnits ns) {u cmds : Nat} {x : UopUse} :
    Along (reading part ctx ns) (countShare u cmds x : M s0 Unit) :=
  .bind .cur fun _ => .ite (.bind (countUop_reading hn) fun _ => .bind (bump_units hn (by decide)) fun _ =>
    modUnits_reading hn.toCounting) (.pure ())

/-- Effects of accesses leave the units' own state. -/
theorem Steps.accesses_units {s t : State} (h : Steps Eff.Accesses s t) : t.units = s.units :=
  h.keeps State.units fun e u he => by cases e <;> first | rfl | exact he.elim

/-- Units stay ready while an operation only reads. -/
theorem State.unitsReady.read {ac : Acc} {m : A s0 α} (hm : ∀ {K : Course} (S : Serves K), S.acc ac → AlongA K (fun _ => True) m)
    {l k : Log} {t u : At s0} {a : α} {n : Nat} {us : List Nat} (h : t.1.unitsReady ac.ctx n us) (ht : t.1.Still part ctx)
    (hac : ac.part = part ∧ ac.ctx = ctx) (hrun : Yields m l t a k u) : u.1.unitsReady ac.ctx n us ∧ u.1.Still part ctx := by
  obtain ⟨hstill, ⟨hsteps, -⟩, -⟩ := (hm (servesReading part ctx counting_counters) hac).yields hrun ht
  have hunits := ((hm servesAll trivial).yields hrun trivial).2.1.accesses_units
  exact ⟨h.congr hunits hsteps.served.regs (by decide) (by decide), hstill⟩

/-! ### MOE_DISPATCH -/

/-- The row of Y from what is read. -/
def moeRow (p : Pkt) (routes : List (List (Nat × Nat))) (ops : List (Nat × ExpertOps)) (i : Nat)
    (r : List Num × Option (List Num)) : List Nat × List Num :=
  let sum := moeSum ((p.desc 2).size 0) (p.aFmt 2) p.epi ops (prologueRow p.prologue [] r.1) (routes.getD i [])
  ([i], finishRow {} 0 p.outFmt sum none r.2)

theorem moeOut_eq (p : Pkt) (routes : List (List (Nat × Nat))) (near : List (Nat × List Nat)) (ops : List (Nat × ExpertOps))
    (rs : List (List Num × Option (List Num))) :
    moeOut p (routes, near, ops, rs) = (rs.zip (List.range rs.length)).map fun r => moeRow p routes ops r.2 r.1 := rfl

/-- What MOE_DISPATCH puts. -/
def moePut (p : Pkt) (routes : List (List (Nat × Nat))) (ops : List (Nat × ExpertOps)) (rs : List (List Num × Option (List Num))) :
    List (List Wr × Nat × Nat) :=
  List.zipWith (fun i r => let z := moeRow p routes ops i r; outRow (p.desc 5) z.1 z.2) (List.range rs.length) rs

theorem flatMap_moePut (p : Pkt) (routes : List (List (Nat × Nat))) (near : List (Nat × List Nat)) (ops : List (Nat × ExpertOps))
    (rs : List (List Num × Option (List Num))) :
    (moePut p routes ops rs).flatMap Prod.fst = rowWrites (p.desc 5) (moeOut p (routes, near, ops, rs)) := by
  unfold moePut rowWrites
  rw [moeOut_eq, List.zipWith_comm, ← List.map_uncurry_zip_eq_zipWith, List.flatMap_map, List.flatMap_map]
  rfl

/-- The end of MOE_DISPATCH: the units' counters. -/
theorem countExperts_reading (hn : CountsUnits ns) {p : Pkt} {counts : List (Nat × Nat)} {near : List (Nat × List Nat)} :
    Along (reading part ctx ns) (each near (countExpert p counts) : M s0 Unit) := .each _ fun _ => .each _ fun _ => countShare_reading hn

theorem moeReads_reading (hn : CountsUnits ns) {ac : Acc} (h : ac.part = part ∧ ac.ctx = ctx) {p : Pkt} :
    AlongA (reading part ctx ns) (fun _ => True) (moeReads p ac : A s0 _) := by
  let S := servesReading part ctx hn.toCounting
  exact .bind (S.rdRouting h) fun _ _ => .bind (S.placeExperts h) fun _ _ => .bind (.lift (countFallback_reading hn)) fun _ _ =>
    .bind (.mapAll _ fun _ => .bind (S.rdExpert h fun _ u => via_serves h u) fun _ _ => .pure trivial) fun _ _ =>
      .bind (.mapAll _ fun _ => .bind (S.rdRow h) fun _ _ => .bind (rdWhere_along (S.rdOldRow h)) fun _ _ => .pure trivial) fun _ _ =>
        .pure trivial

/-- MOE_DISPATCH goes on from what it reads where its units are ready. -/
theorem moeBody_yields {p : Pkt} {ac : Acc} {l k k' : Log} {t u w : At s0} {routes : List (List (Nat × Nat))}
    {near : List (Nat × List Nat)} {ops : List (Nat × ExpertOps)} {rs : List (List Num × Option (List Num))}
    (hready : t.1.unitsReady ac.ctx 2 (near.flatMap Prod.snd)) (hac : ac.part = part ∧ ac.ctx = ctx) (ht : t.1.Still part ctx)
    (h : Yields (moeReads p ac) l t (routes, near, ops, rs) k u)
    (hput : Yields (putThen p ac (moePut p routes ops rs) (each near (countExpert p (routed p routes)))) k u {} k' w) :
    Yields (moeBody p ac) l t {} k' w := by
  obtain ⟨routes', k1, u1, hroutes, h⟩ := h.of_bind
  obtain ⟨near', k2, u2, hnear, h⟩ := h.of_bind
  obtain ⟨_, k3, u3, hfall, h⟩ := h.of_bind
  obtain ⟨ops', k4, u4, hops, h⟩ := h.of_bind
  obtain ⟨rs', hrs, hpair⟩ := h.of_map
  cases hpair
  obtain ⟨hready, hstill⟩ := hready.read (fun S hac => S.rdRouting hac) ht hac hroutes
  obtain ⟨hready, -⟩ := hready.read (fun S hac => S.placeExperts hac) hstill hac hnear
  have hrun : Yields (mapA (fun i => do
      let r ← rdRow ac (p.desc 2) [i]
      let r := prologueRow p.prologue [] r
      let sum := moeSum ((p.desc 2).size 0) (p.aFmt 2) p.epi ops r (routes.getD i [])
      let old ← (if p.accumulate then do pure (some (← rdOldRow ac (p.desc 5) [i])) else pure none)
      pure (outRow (p.desc 5) [i] (finishRow {} 0 p.outFmt sum none old))) (List.range ((p.desc 2).size 1)))
      k4 u4 (moePut p routes ops rs) k u := by
    unfold moePut
    rw [hrs.mapA_length, List.length_range]
    refine .mapA_zipWith (fun i r _ l t k u hr => ?_) hrs
    obtain ⟨x, k5, u5, hx, hr⟩ := hr.of_bind
    obtain ⟨old, hold, rfl⟩ := hr.of_map
    exact .bind hx (.bind hold .pure)
  exact .bind hroutes (.bind hnear (.bind (needUnits_yields (hready.mono fun u hu => List.mem_eraseDups.1 hu)) (.bind hfall
    (.bind hops (.bind hrun hput)))))

theorem runsBody_moeDispatch : RunsBody .moeDispatch 0x21 (fun _ => moeBody) := runsBody_opOf fun _ _ _ => rfl

/-- MOE_DISPATCH ends with the experts' weighted sums stored. -/
theorem moeDispatch_stored (c id : Nat) (s : State) (p : Pkt) (routes : List (List (Nat × Nat))) (near : List (Nat × List Nat))
    (ops : List (Nat × ExpertOps)) (rs : List (List Num × Option (List Num))) (ps : List Wr)
    (hready : s.ready c id 0x21 p (moeBody p (s.acc c))) (hunits : s.unitsReady c 2 (near.flatMap Prod.snd))
    (hfinds : s.finds (plans (s.acc c) (moeReads p (s.acc c)) fun v => rowWrites (p.desc 5) (moeOut p v)) ((routes, near, ops, rs), ps)) :
    Answers (.moeDispatch c id) s fun t => Stored s t c id ps unitCounters := by
  obtain ⟨hissued, hcalm, haff⟩ := hready
  have hn := countsUnits_counters
  have hac : (s.acc c).part = s.partOf c ∧ (s.acc c).ctx = c := ⟨rfl, rfl⟩
  obtain ⟨k, u, k', u', hread, hplan⟩ := hfinds.of_plans
  obtain ⟨hstill, ⟨hsteps, hseen⟩, -⟩ := (moeReads_reading hn hac).yields hread hcalm.still
  obtain ⟨hstill', ⟨hsteps', hseen'⟩, -⟩ := ((servesReading _ _ hn.toCounting).wrPlan hac).yields hplan hstill
  obtain ⟨x, hput, hwrote⟩ := Yields.putRows (dies := p.dies) hn.toCountsRows (flatMap_moePut p routes near ops rs) hplan hstill'
  have hcount := (countExperts_reading hn (p := p) (counts := routed p routes) (near := near)).writing (t := x) hwrote.still
  have hwrites := ((Writing.mk hstill' (hsteps.trans hsteps') fun x => (hseen' x).trans (hseen x) :
    Writing (s.partOf c) c (unitCounters ++ counters) (fun f => f) s u'.1).trans hwrote).trans hcount
  have hthen : Yields (putThen p (s.acc c) (moePut p routes ops rs) (each near (countExpert p (routed p routes)))) k u {} k'
      (each near (countExpert p (routed p routes)) x).2 := .bind hput (.bind .liftUnit .pure)
  have hrun := moeBody_yields (t := ⟨s, Reach.refl s⟩) (ac := s.acc c) hunits hac hcalm.still hread hthen
  obtain ⟨t, ht, hend⟩ := runsBody_moeDispatch.ends hissued (.inl rfl) haff hrun rfl
    hwrites.steps.served
  exact ⟨t, ht, hend.stored hwrites⟩

end Sys2Proof.Machine
end

section
/-!
PROOFS. O22: the packets' operations end, wait and stall as their runs say, and the dense packets store what they compute.
-/
namespace Sys2Proof.Machine

variable {op : Nat}

/-! ### Commands that run their packet's operation -/

/-- A command whose packet waits for its turn in the serving engine (R255, R274). -/
theorem runsBody_inTurn {cmd : Nat → Nat → Instr} {body : {s0 : State} → Nat → Pkt → Acc → A s0 Fin} (hclass : engineClass op ≠ 0)
    {source : Nat} {atomic : Bool} {onAbort : {s0 : State} → Nat → Pkt → M s0 Unit}
    (h : ∀ c id s, exec (cmd c id) s = M.go s (do
      let s ← cur
      if s.loaded c && s.engineTurn c id op then
        onIssued c id [op] fun p => runPktWith c p source atomic (onAbort c p) (body c p))) : RunsBody cmd op body := by
  intro c id s p hissued hturn
  refine ⟨source, atomic, onAbort c p, (h c id s).trans ?_⟩
  have hgo := go_onIssued hissued fun p => runPktWith c p source atomic (onAbort c p) (body c p)
  unfold M.go at hgo ⊢
  rw [bind_run, cur_run] at hgo ⊢
  simpa only [hturn.resolve_left hclass, Bool.and_true] using hgo

theorem runsBody_matmul : RunsBody .matmul 0x10 (fun _ => matmulBody) := runsBody_opOf fun _ _ _ => rfl
theorem runsBody_matmulBatched : RunsBody .matmulBatched 0x11 (fun _ => matmulBody) := runsBody_opOf fun _ _ _ => rfl
theorem runsBody_adapter : RunsBody .adapter 0x12 (fun _ => adapterBody) := runsBody_opOf fun _ _ _ => rfl
theorem runsBody_mlpGated : RunsBody .mlpGated 0x13 (fun _ => mlpBody) := runsBody_opOf fun _ _ _ => rfl
theorem runsBody_eltwise : RunsBody .eltwise 0x18 (fun _ => eltwiseBody) := runsBody_opOf fun _ _ _ => rfl
theorem runsBody_norm : RunsBody .norm 0x19 (fun _ => normBody) := runsBody_opOf fun _ _ _ => rfl
theorem runsBody_softmax : RunsBody .softmax 0x1A (fun _ => softmaxBody) := runsBody_opOf fun _ _ _ => rfl
theorem runsBody_quantise : RunsBody .quantise 0x1B (fun _ => quantiseBody) := runsBody_opOf fun _ _ _ => rfl
theorem runsBody_rotaryQ : RunsBody .rotaryQ 0x1C (fun _ => rotaryBody) := runsBody_opOf fun _ _ _ => rfl
theorem runsBody_moeRoute : RunsBody .moeRoute 0x20 (fun _ => moeRouteBody) := runsBody_opOf fun _ _ _ => rfl
theorem runsBody_nearMatvec : RunsBody .nearMatvec 0x40 (fun _ => nearMatvecBody) := runsBody_opOf fun _ _ _ => rfl
theorem runsBody_nearExpert : RunsBody .nearExpert 0x41 (fun _ => nearExpertBody) := runsBody_opOf fun _ _ _ => rfl
theorem runsBody_nearElt : RunsBody .nearElt 0x42 (fun _ => nearEltBody) := runsBody_opOf fun _ _ _ => rfl
theorem runsBody_nearCopy : RunsBody .nearCopy 0x43 (fun _ => nearCopyBody) := runsBody_opOf fun _ _ _ => rfl
theorem runsBody_nearRaw : RunsBody .nearRaw 0x4F (fun _ => nearRawBody) := runsBody_opOf fun _ _ _ => rfl
theorem runsBody_adapterBind : RunsBody .adapterBind 0x66 (fun _ => adapterBindBody) := runsBody_opOf fun _ _ _ => rfl
theorem runsBody_kvAppend : RunsBody .kvAppend 0x50 (fun _ => kvAppendBody) :=
  runsBody_onIssued (onAbort := fun c p => kvAbort c p (kvAppendBody p)) fun _ _ _ => rfl
theorem runsBody_attend : RunsBody .attend 0x51 (fun _ => attendBody) :=
  runsBody_onIssued (onAbort := fun c p => kvAbort c p (attendBody p)) fun _ _ _ => rfl
theorem runsBody_kvMove : RunsBody .kvMove 0x55 (fun _ => kvMoveBody) :=
  runsBody_onIssued (onAbort := fun _ _ => pure ()) fun _ _ _ => rfl
theorem runsBody_kvRelease : RunsBody .kvRelease 0x52 (fun _ => kvReleaseBody) :=
  runsBody_inTurn (by decide) (onAbort := fun _ _ => pure ()) fun _ _ _ => rfl
theorem runsBody_prefixLookup : RunsBody .prefixLookup 0x53 (fun _ => prefixLookupBody) :=
  runsBody_inTurn (by decide) (onAbort := fun _ _ => pure ()) fun _ _ _ => rfl
theorem runsBody_prefixInsert : RunsBody .prefixInsert 0x54 (fun _ => prefixInsertBody) :=
  runsBody_inTurn (by decide) (onAbort := fun _ _ => pure ()) fun _ _ _ => rfl

/-- A request that cannot be opened gives its slot back (R284). -/
def giveBackSlot {s0 : State} (c : Nat) (p : Pkt) : M s0 Unit := do
  let n := p.f 2 12 0
  if ((← cur).slotsAt n).opener = some (c, p.id) then
    modSlots n fun x => { x with opener := none }
    freeSlot n

theorem runsBody_reqOpen : RunsBody .reqOpen 0x62 (fun c => reqOpenBody c) := runsBody_onIssued (onAbort := giveBackSlot) fun _ _ _ => rfl

/-- A packet whose values the spec leaves open ends ST_OK all the same. -/
theorem openValues_ends {cmd : Nat → Nat → Instr} {body : {s0 : State} → Pkt → Acc → A s0 Fin} (hruns : RunsBody cmd op fun _ => body)
    (hclass : engineClass op = 0) (hwork : ∀ {s0 : State} {part ctx : Nat} {ac : Acc} {p : Pkt}, ac.part = part ∧ ac.ctx = ctx →
      AlongA (working part ctx counters) (fun f => f = {}) (body p ac : A s0 Fin)) {c id : Nat} {s : State} {p : Pkt} {f : Fin}
    (hready : s.ready c id op p (body p (s.acc c))) (hfinds : s.finds (body p (s.acc c)) f) :
    Answers (cmd c id) s fun t => t.ended c id stOk 0 ∧ t.slots = s.slots := by
  obtain ⟨t, ht, hend, -⟩ := hruns.endsWorking hready (.inl hclass) (hwork ⟨rfl, rfl⟩) hfinds
  exact ⟨t, ht, hend.ended, hend.slots⟩

/-- MOE_ROUTE ends, its experts and weights stored where its destinations stand apart. -/
theorem moeRoute_stored (c id : Nat) (s : State) (p : Pkt) (v : List (List Machine.Num)) (ps : List Wr)
    (hready : s.ready c id 0x20 p (moeRouteBody p (s.acc c)))
    (hfinds : s.finds (plans (s.acc c) (routeReads p (s.acc c)) (routeWrites p)) (v, ps)) :
    Answers (.moeRoute c id) s fun t => t.ended c id stOk 0 ∧ t.slots = s.slots ∧
      ((p.desc 3).apart [p.desc 2, p.desc 4] = true → (p.desc 4).apart [p.desc 2, p.desc 3] = true → Stored s t c id ps) := by
  obtain ⟨t, ht, hend, hslots, hstored⟩ := puts_route.ends tail_route runsBody_moeRoute rfl hready rfl hfinds
  exact ⟨t, ht, hend, hslots, fun h3 h4 => hstored ⟨h3, h4⟩⟩

/-- Settles O22: what a packet's operation leaves by how its run ends, and the rows that the dense packets store. -/
theorem packetOperationsEndWaitOrStall : Obligations.PacketOperationsEndWaitOrStall :=
  ⟨(runsBody_opOf fun _ _ _ => rfl).packetRuns, (runsBody_opOf fun _ _ _ => rfl).packetRuns,
    (runsBody_opOf fun _ _ _ => rfl).packetRuns, (runsBody_opOf fun _ _ _ => rfl).packetRuns,
    (runsBody_opOf fun _ _ _ => rfl).packetRuns, runsBody_matmul.packetRuns, runsBody_matmulBatched.packetRuns,
    runsBody_adapter.packetRuns, runsBody_mlpGated.packetRuns, runsBody_eltwise.packetRuns, runsBody_norm.packetRuns,
    runsBody_softmax.packetRuns, runsBody_quantise.packetRuns, runsBody_rotaryQ.packetRuns, runsBody_moeRoute.packetRuns,
    runsBody_moeDispatch.packetRuns, (runsBody_opOf fun _ _ _ => rfl).packetRuns, (runsBody_opOf fun _ _ _ => rfl).packetRuns,
    (runsBody_opOf fun _ _ _ => rfl).packetRuns, (runsBody_opOf fun _ _ _ => rfl).packetRuns,
    (runsBody_opOf fun _ _ _ => rfl).packetRuns, (runsBody_opOf fun _ _ _ => rfl).packetRuns, runsBody_nearMatvec.packetRuns,
    runsBody_nearExpert.packetRuns, runsBody_nearElt.packetRuns, runsBody_nearCopy.packetRuns, runsBody_nearRaw.packetRuns,
    runsBody_kvAppend.packetRuns, runsBody_attend.packetRuns, runsBody_kvRelease.packetRuns, runsBody_prefixLookup.packetRuns,
    runsBody_prefixInsert.packetRuns, runsBody_kvMove.packetRuns, runsBody_reqOpen.packetRuns,
    (runsBody_opOf fun _ _ _ => rfl).packetRuns, (runsBody_opOf fun _ _ _ => rfl).packetRuns, runsBody_adapterBind.packetRuns,
    putsRows_matmul.packetPuts tail_none runsBody_matmul rfl, putsRows_matmul.packetPuts tail_none runsBody_matmulBatched rfl,
    putsRows_adapter.packetPuts tail_none runsBody_adapter rfl, putsRows_mlp.packetPuts tail_none runsBody_mlpGated rfl,
    putsRows_eltwise.packetPuts tail_openDest runsBody_eltwise rfl, putsRows_norm.packetPuts tail_openDest runsBody_norm rfl,
    putsRows_softmax.packetPuts tail_openDest runsBody_softmax rfl,
    fun _ _ _ _ _ _ => openValues_ends runsBody_softmax rfl (fun h => softmaxBody_working countsRows_counters h),
    putsRows_quantise.packetPuts tail_openDest runsBody_quantise rfl, putsRows_rotary.packetPuts tail_openDest runsBody_rotaryQ rfl,
    fun _ _ _ _ _ => openValues_ends runsBody_rotaryQ rfl (fun h => rotaryBody_working countsRows_counters h),
    moeRoute_stored,
    moeDispatch_stored,
    packetStops_opOf fun _ _ _ => rfl, packetStops_opOf fun _ _ _ => rfl, packetStops_opOf fun _ _ _ => rfl,
    packetStops_opOf fun _ _ _ => rfl, packetStops_opOf fun _ _ _ => rfl, packetStops_opOf fun _ _ _ => rfl,
    packetStops_opOf fun _ _ _ => rfl, packetStops_opOf fun _ _ _ => rfl, packetStops_opOf fun _ _ _ => rfl,
    packetStops_opOf fun _ _ _ => rfl, packetStops_opOf fun _ _ _ => rfl, packetStops_opOf fun _ _ _ => rfl⟩

end Sys2Proof.Machine
end

section
/-!
PROOFS. The operations of units along a course that serves and writes (R214 to R222, R231, R233, R249, R263 to R266).
-/
namespace Sys2Proof.Machine

variable {s0 : State} {α β γ : Type} {part ctx : Nat} {ns : List RegName} {K : Course}

/-! ### Courses that employ units -/

/-- An effect of a unit's own work: its counters, free values, its operand buffer. -/
def Eff.Operates : Eff → Prop
  | .reg r _ => r.name ∈ [RegName.hbAttnJoins, .galPromBytes, .galUnitWrBytes]
  | .fresh | .byte _ _ | .dropMem _ => True
  | _ => False

/-- A course that serves also keeps to writes. -/
structure Stores (K : Course) extends Serves K where
  write : ∀ {s0 : State} (g : Nat) (bs : List Byte), Along K (writeGran g bs : M s0 Unit)
  one : ∀ {s0 : State} (w : Wr), Along K (wrOne w : M s0 Unit)

/-- A course that stores also keeps to a unit's own work, and to the banks of the tiers. -/
structure Employs (K : Course) extends Stores K where
  operate : ∀ {s0 : State} {m : M s0 Unit}, Only Eff.Operates m → Along K m
  bank : ∀ (s : State) (n p a : Nat), n < 13 → p < 32 → Lies fine a (s.bankDpa n p a)

/-! ### Banks -/

theorem mem_deadUnits {t dead u : Nat} (h : u ∈ deadUnits t dead) : u < 32 := by
  unfold deadUnits bitList at h
  split at h
  · obtain ⟨c, hc, hu⟩ := List.mem_flatMap.1 h
    have := List.mem_range.1 (List.mem_of_mem_filter hc)
    simp only [List.mem_cons, List.not_mem_nil, or_false] at hu
    omega
  · have := List.mem_range.1 (List.mem_of_mem_filter h)
    omega

/-- The row and unit of a bank address, by its own row (R199). -/
theorem bankDpa_bounds (s : State) {n p : Nat} (a : Nat) (hp : p < 32) :
    ∃ r u, s.bankDpa n p a = n * 2 ^ 36 + (r * 32 + u) * 65536 + a % 65536 ∧ r ≤ 2 ^ 20 ∧ u < 32 := by
  unfold State.bankDpa
  dsimp only
  split
  · exact ⟨_, _, rfl, by omega, hp⟩
  · next h =>
    refine ⟨_, _, rfl, (Nat.div_le_self _ _).trans ?_, ?_⟩
    · generalize hlive : (List.range 32).filter (fun x => !(deadUnits n (s.dead n)).contains x) = live
      have hlen : live.length ≤ 32 := hlive ▸ (List.length_filter_le _ _).trans (by simp)
      have hidx : live.idxOf p ≤ 32 := List.idxOf_le_length.trans hlen
      have hmul : live.length * (a / 65536 % 32768 - liveRows n (s.dead n)) ≤ 32 * 32767 := Nat.mul_le_mul hlen (by omega)
      omega
    · rw [List.getD_eq_getElem?_getD]
      cases hget : (deadUnits n (s.dead n))[(((List.range 32).filter fun x => !(deadUnits n (s.dead n)).contains x).length *
          (a / 65536 % 32768 - liveRows n (s.dead n)) +
          ((List.range 32).filter fun x => !(deadUnits n (s.dead n)).contains x).idxOf p) % (deadUnits n (s.dead n)).length]? with
      | none => simp
      | some u => exact mem_deadUnits (List.mem_of_getElem? hget)

theorem bankDpa_place (s : State) {n p : Nat} (a : Nat) (hp : p < 32) : s.bankDpa n p a % 65536 = a % 65536 := by
  obtain ⟨r, u, h, -, -⟩ := bankDpa_bounds s (n := n) a hp
  omega

/-- Banks lie outside the sets' buffers. -/
theorem bankDpa_lies (s : State) {n p : Nat} (a : Nat) (hn : n < 13) (hp : p < 32) : Lies Quiet a (s.bankDpa n p a) := by
  refine ⟨bankDpa_place s a hp, fun x hx => .inr fun y hy => ?_⟩
  obtain ⟨hlo, -, -, -⟩ := regionOf_setBuf hy
  obtain ⟨r, u, h, hr, hu⟩ := bankDpa_bounds s (n := n) a hp
  omega

/-! ### The two courses -/

/-- Work that leaves granules' codes and entries keeps memory without an error. -/
theorem Along.of_plain {m : M s0 α} (hn : Counting ns) (h : Only (Eff.Serves ns) m)
    (hk : ∀ t, (after m t).chk = t.1.chk ∧ (after m t).merges = t.1.merges) : Along (Machine.working part ctx ns) m := fun t ht =>
  have ⟨hchk, hmerges⟩ := hk t
  ⟨ht.of_served hn (h t).served (hchk.trans ht.sound.code) (hmerges ▸ ht.sound.entries) (hmerges ▸ ht.sound.once), h t⟩

theorem operates_working (hn : Counting ns) (hops : [RegName.hbAttnJoins, .galPromBytes, .galUnitWrBytes] ⊆ ns) {m : M s0 Unit}
    (h : Only Eff.Operates m) : Along (working part ctx ns) m := by
  refine .of_plain hn (h.mono fun e he => ?_) fun t => ⟨?_, ?_⟩
  · cases e <;> first | exact hops he | trivial
  · exact (h t).keeps State.chk fun e u he => by cases e <;> first | rfl | exact he.elim
  · exact (h t).keeps State.merges fun e u he => by cases e <;> first | rfl | exact he.elim

/-- Writes in memory without an error. -/
def storesWorking {part ctx : Nat} {ns : List RegName} (hn : Counting ns) : Stores (working part ctx ns) where
  toServes := servesWorking hn
  write _ _ := writeGran_working hn
  one _ := wrOne_working hn

/-- Units work in memory without an error. -/
def employsWorking {part ctx : Nat} {ns : List RegName} (hn : Counting ns)
    (hops : [RegName.hbAttnJoins, .galPromBytes, .galUnitWrBytes] ⊆ ns) : Employs (working part ctx ns) where
  toStores := storesWorking hn
  operate := operates_working hn hops
  bank s _ _ a hn hp := bankDpa_lies s a hn hp

/-- Units work, whatever they find. -/
def employsAll : Employs (byEffects Eff.Accesses) where
  toServes := servesAll
  write _ _ := writeGran_accesses.along
  one _ := wrOne_accesses.along
  operate h := (h.mono fun e he => by cases e <;> trivial).along
  bank s _ _ a _ hp := ⟨bankDpa_place s a hp, fun _ _ => trivial⟩

/-! ### Granules changed, and whole writes (R231, R249) -/

section
variable (E : Stores K) {ac : Acc} (h : E.acc ac)

theorem Stores.changeGran {la a g : Nat} {f : List Byte → List Byte} (hg : E.fine g) :
    AlongA K (fun _ => True) (Machine.changeGran ac la a g f : A s0 Unit) := by
  refine .ifThen noteGran_along fun _ => .bind (.lift (E.read _ _ hg)) fun r _ => .ifThen noteRebuilt_along fun _ => ?_
  cases r.1 with
  | none => exact .throw _
  | some o => exact .lift (E.write _ _)

theorem Stores.unitPut {la a : Nat} {bs : List Byte} {gs : List Nat} (hg : ∀ g ∈ gs, E.fine g) :
    AlongA K (fun _ => True) (Machine.unitPut ac la a bs gs : A s0 Unit) := by
  induction gs with
  | nil => exact .pure trivial
  | cons g gs ih =>
    have hrest := ih fun g hg' => hg g (List.mem_cons_of_mem _ hg')
    exact .ite (.bind (.lift (E.write _ _)) fun _ _ => hrest)
      (.bind (E.changeGran (hg g (List.mem_cons_self ..))) fun _ _ => hrest)

/-- A planned write of a unit lies in fine granules. -/
def FineWr (fine : Nat → Prop) (w : Wr) : Prop := fine (w.va / 64) ∧ ∀ g ∈ gransOf w.va w.bs.length, fine g

theorem Stores.unitDo {ws : List (Nat × Wr)} (hw : ∀ x ∈ ws, FineWr E.fine x.2) :
    AlongA K (fun _ => True) (Machine.unitDo ac ws : A s0 Unit) := by
  induction ws with
  | nil => exact .pure trivial
  | cons x ws ih =>
    obtain ⟨va, w⟩ := x
    obtain ⟨hone, hall⟩ := hw _ (List.mem_cons_self ..)
    have hrest := ih fun x hx => hw x (List.mem_cons_of_mem _ hx)
    unfold Machine.unitDo
    split
    · exact .bind (E.unitPut hall) fun _ _ => hrest
    · exact .bind (E.changeGran hone) fun _ _ => hrest

include h

/-- Each write of a plan lies in fine granules. -/
theorem Stores.wrPieces_fine {w : Wr} {ps : List (Nat × Nat × Nat)} (hps : ∀ q ∈ ps, q.1 % 65536 + q.2.2 ≤ 65536) :
    AlongA K (fun xs => ∀ y ∈ xs, FineWr E.fine y) (Machine.wrPieces ac w ps : A s0 (List Wr)) := by
  induction ps with
  | nil => exact .pure (by simp)
  | cons p ps ih =>
    have hpiece : AlongA K (fun xs => ∀ x ∈ xs, FineWr E.fine x) (do
        let a ← Machine.tr ac p.1 true
        if (← (cur : M s0 _)).refusesWrite a then throw (.flt 0x21 p.1 true ac.source)
        needLink a
        Machine.snoopAll ac true (gransOf a p.2.2)
        noteUse ac a p.2.2 true
        pure [{ va := a, bs := (w.bs.drop p.2.1).take p.2.2, half := w.half }] : A s0 (List Wr)) := by
      refine .bind (E.tr h) fun a ha => .bind .cur fun s _ => .ifThen (.throw (Q := fun _ => True) _) fun _ => .bind needLink_along fun _ _ =>
        .bind (E.snoopAll h) fun _ _ => .bind noteUse_along fun _ _ => .pure ?_
      have hlen : ((w.bs.drop p.2.1).take p.2.2).length ≤ p.2.2 := by simp
      have hp := hps p (List.mem_cons_self ..)
      simp only [List.mem_singleton, forall_eq]
      exact ⟨ha.2 a rfl, ha.grans (by dsimp only; omega)⟩
    refine .bind (.ite (.tryCatch hpiece fun _ => .pure (by simp)) hpiece) fun xs hxs =>
      .bind (ih fun q hq => hps q (List.mem_cons_of_mem _ hq)) fun ys hys => .pure fun x hx => ?_
    obtain hx | hx := List.mem_append.1 hx
    · exact hxs x hx
    · exact hys x hx

theorem Stores.wrPlan_fine {ws : List Wr} :
    AlongA K (fun xs => ∀ x ∈ xs, FineWr E.fine x) (Machine.wrPlan ac ws : A s0 (List Wr)) := by
  induction ws with
  | nil => exact .pure (by simp)
  | cons w ws ih =>
    refine .bind (E.wrPieces_fine h fun _ => pagePieces_within) fun xs hxs => .bind ih fun ys hys => .pure fun x hx => ?_
    obtain hx | hx := List.mem_append.1 hx
    · exact hxs x hx
    · exact hys x hx

theorem Stores.wrWhole {ws : List Wr} : AlongA K (fun _ => True) (Machine.wrWhole ac ws : A s0 Unit) :=
  .ite (E.wrAll E.one h) (.bind (E.wrPlan_fine h) fun _ hp => E.unitDo fun _ hx => hp _ (List.of_mem_zip hx).2)

theorem Stores.wrVia {ws : List Wr} : AlongA K (fun _ => True) (Machine.wrVia ac ws : A s0 Unit) :=
  .ite (E.wrWhole h) (E.wrAll E.one h)

end

/-! ### Banks -/

section
variable (E : Employs K) {ac : Acc} (h : E.acc ac)
include h

theorem Employs.bankPieces {n p : Nat} (hn : n < 13) (hp : p < 32) {ps : List (Nat × Nat × Nat)}
    (hps : ∀ q ∈ ps, q.1 % 65536 + q.2.2 ≤ 65536) : AlongA K (fun _ => True) (Machine.bankPieces ac n p ps : A s0 (List Byte)) := by
  induction ps with
  | nil => exact .pure trivial
  | cons q ps ih =>
    exact .bind .cur fun s _ => .bind (E.rdPhys h ((E.bank s n p q.1 hn hp).grans (hps q (List.mem_cons_self ..)))) fun _ _ =>
      .bind (ih fun q hq => hps q (List.mem_cons_of_mem _ hq)) fun _ _ => .pure trivial

theorem Employs.bankPut {n p : Nat} (hn : n < 13) (hp : p < 32) {bs : List Byte} {ps : List (Nat × Nat × Nat)}
    (hps : ∀ q ∈ ps, q.1 % 65536 + q.2.2 ≤ 65536) : AlongA K (fun _ => True) (Machine.bankPut ac n p bs ps : A s0 Unit) := by
  induction ps with
  | nil => exact .pure trivial
  | cons q ps ih =>
    exact .bind .cur fun s _ => .ifThen (.throw (Q := fun _ => True) _) fun _ => .bind (E.snoopAll h) fun _ _ =>
      .bind noteUse_along fun _ _ => .bind (E.unitPut ((E.bank s n p q.1 hn hp).grans (hps q (List.mem_cons_self ..)))) fun _ _ =>
        ih fun q hq => hps q (List.mem_cons_of_mem _ hq)

end

end Sys2Proof.Machine
end

section
/-!
PROOFS. The unit operations of R221 along a course that employs units.
-/
namespace Sys2Proof.Machine

variable {s0 : State} {α β γ : Type} {K : Course}

/-! ### The operand buffer (R206, R217) -/

theorem pokeBytes_operates {a : Nat} {bs : List Byte} : Only Eff.Operates (pokeBytes a bs : M s0 Unit) :=
  (pokeBytes_only a bs).mono fun _ ⟨_, _, he⟩ => he ▸ trivial

theorem clearBuf_operates {n p : Nat} : Only Eff.Operates (clearBuf n p : M s0 Unit) := .eff _ trivial

theorem claimLine_operates {n p tag line : Nat} : Only Eff.Operates (claimLine n p tag line : M s0 Unit) :=
  .bind .cur fun _ => .ite (.bind (.eff _ trivial) fun _ => pokeBytes_operates) (.pure ())

theorem bufWrite_operates {n p tag off : Nat} {bs : List Byte} : Only Eff.Operates (bufWrite n p tag off bs : M s0 Unit) :=
  .ite (.bind (.each _ fun _ => claimLine_operates) fun _ => pokeBytes_operates) (.pure ())

theorem bump_operates {f : Fld} {d i j k : Nat} (h : f.reg ∈ [RegName.hbAttnJoins, .galPromBytes, .galUnitWrBytes]) :
    Only Eff.Operates (bump f d i j k : M s0 Unit) := .bump' _ _ _ _ _ fun _ => h

theorem unitArrive_operates {n p q bytes : Nat} : Only Eff.Operates (unitArrive n p q bytes : M s0 Unit) :=
  .ite (.bind (bump_operates (by decide)) fun _ => bump_operates (by decide)) (bump_operates (by decide))

section
variable (E : Employs K) {u : UCmd}

/-- A unit that exists, for an accessor of the course. -/
structure Employs.Runs (E : Employs K) (u : UCmd) : Prop where
  acc : E.acc u.ac
  stack : u.n < 13
  chan : u.p < 32

include E

theorem Employs.exactBytes {n : Nat} {x : Num} : Along K (Machine.exactBytes n x : M s0 (List Byte)) := by
  unfold Machine.exactBytes
  split
  · split
    exact .ite (.pure _) E.toServes.freeBytes
  · exact E.toServes.freeBytes

theorem Employs.exactAll {n : Nat} {xs : List Num} : Along K (Machine.exactAll n xs : M s0 (List Byte)) := by
  induction xs with
  | nil => exact .pure _
  | cons x xs ih => exact .bind E.exactBytes fun _ => .bind ih fun _ => .pure _

theorem Employs.sumsBytes {x : Sums} : Along K (x.bytes : M s0 (List Byte)) :=
  .bind E.exactBytes fun _ => .bind E.exactAll fun _ => .pure _

omit E in
theorem within_along {i off len : Nat} : AlongA K (fun _ => True) (u.within i off len : A s0 Unit) :=
  .ite (.pure trivial) (.throw _)

variable (h : E.Runs u)
include h

theorem Employs.pieces {a len : Nat} : AlongA K (fun _ => True) (Machine.bankPieces u.ac u.n u.p (pagePieces a len) : A s0 (List Byte)) :=
  E.bankPieces h.acc h.stack h.chan fun _ => pagePieces_within

theorem Employs.put {p a : Nat} (hp : p < 32) {bs : List Byte} :
    AlongA K (fun _ => True) (Machine.bankPut u.ac u.n p bs (pagePieces a bs.length) : A s0 Unit) :=
  E.bankPut h.acc h.stack hp fun _ => pagePieces_within

theorem Employs.unitRead {i off len : Nat} : AlongA K (fun _ => True) (u.read i off len : A s0 (List Byte)) :=
  .bind within_along fun _ _ => .ite (.bind .cur fun _ _ => .pure trivial) (E.pieces h)

theorem Employs.unitWrite {i : Nat} {bs : List Byte} : AlongA K (fun _ => True) (u.write i bs : A s0 Unit) :=
  .bind within_along fun _ _ => .ite (.lift (E.operate bufWrite_operates)) (E.put h h.chan)

theorem Employs.unitValues {i fmt n : Nat} : AlongA K (fun _ => True) (u.values i fmt n : A s0 (List Num)) :=
  .bind (E.unitRead h) fun _ _ => .bind (.ite (.ite (E.unitRead h) (E.pieces h)) (.pure trivial)) fun _ _ => .pure trivial

/-! ### The operations -/

theorem Employs.uopLoad : AlongA K (fun _ => True) (Machine.uopLoad u : A s0 UopUse) :=
  .ifThen (.throw (Q := fun _ => True) _) fun _ => .ite
    (.bind (E.unitRead h) fun _ _ => .bind (E.pieces h) fun _ _ => .bind (E.unitWrite h) fun _ _ => .pure trivial)
    (.ite (.bind (E.unitValues h) fun _ _ => .bind (E.unitWrite h) fun _ _ => .pure trivial) (.throw _))

theorem Employs.uopStore : AlongA K (fun _ => True) (Machine.uopStore u : A s0 UopUse) :=
  .ifThen (.throw (Q := fun _ => True) _) fun _ => .bind (E.unitRead h) fun _ _ => .bind (E.unitWrite h) fun _ _ => .pure trivial

theorem Employs.uopMatvec : AlongA K (fun _ => True) (Machine.uopMatvec u : A s0 UopUse) := by
  unfold Machine.uopMatvec
  split
  · exact .throw _
  · exact .ifThen (.throw (Q := fun _ => True) _) fun _ => .bind (E.unitValues h) fun _ _ => .bind (E.unitValues h) fun _ _ =>
      .bind (E.unitWrite h) fun _ _ => .pure trivial

theorem Employs.uopExpert : AlongA K (fun _ => True) (Machine.uopExpert u : A s0 UopUse) := by
  unfold Machine.uopExpert
  split
  · exact .ifThen (.throw (Q := fun _ => True) _) fun _ => .bind (E.unitValues h) fun _ _ => .bind (E.unitValues h) fun _ _ =>
      .bind (E.unitValues h) fun _ _ => .bind (E.unitWrite h) fun _ _ => .pure trivial
  · exact .throw _

theorem Employs.uopElt : AlongA K (fun _ => True) (Machine.uopElt u : A s0 UopUse) :=
  .ifThen (.throw (Q := fun _ => True) _) fun _ => .bind (E.unitValues h) fun _ _ =>
    .bind (.ite (E.unitValues h) (.pure trivial)) fun _ _ => .bind (E.unitWrite h) fun _ _ => .pure trivial

theorem Employs.bankRow {region : Nat} {ps : List (Nat × List Byte)} :
    AlongA K (fun _ => True) (Machine.bankRow u region ps : A s0 (Nat × Nat)) := by
  induction ps with
  | nil => exact .pure trivial
  | cons x ps ih => exact .bind (E.put h h.chan) fun _ _ => .bind ih fun _ _ => .pure trivial

theorem Employs.unitRow {fmt region t : Nat} {xs : List Nat} :
    AlongA K (fun _ => True) (Machine.unitRow u fmt region t xs : A s0 (Nat × Nat)) :=
  .bind (Q := fun _ => True) (.ite (.pure trivial) (.ite (.pure trivial) (.bind (E.pieces h) fun _ _ => .pure trivial))) fun _ _ =>
    .bind (E.bankRow h) fun _ _ => .pure trivial

theorem Employs.kvWriteRows {fmt : Nat} {rows rots : List Num} {n i : Nat} :
    AlongA K (fun _ => True) (Machine.kvWriteRows u fmt rows rots n i : A s0 (Nat × Nat)) := by
  induction n generalizing i with
  | zero => exact .pure trivial
  | succ n ih =>
    exact .bind (E.unitRow h) fun _ _ => .bind (E.unitRow h) fun _ _ => .bind ih fun _ _ => .pure trivial

theorem Employs.uopKvWrite : AlongA K (fun _ => True) (Machine.uopKvWrite u : A s0 UopUse) :=
  .ifThen (.throw (Q := fun _ => True) _) fun _ => .bind (E.unitValues h) fun _ _ => .bind (E.unitValues h) fun _ _ =>
    .bind within_along fun _ _ => .bind (E.kvWriteRows h) fun _ _ => .pure trivial

theorem Employs.unitPages {fmt d n a : Nat} :
    AlongA K (fun _ => True) (Machine.unitPages u fmt d n a : A s0 (List (List Byte))) := by
  induction n generalizing a with
  | zero => exact .pure trivial
  | succ n ih => exact .bind (E.pieces h) fun _ _ => .bind ih fun _ _ => .pure trivial

theorem Employs.uopAttnPart : AlongA K (fun _ => True) (Machine.uopAttnPart u : A s0 UopUse) :=
  .ifThen (.throw (Q := fun _ => True) _) fun _ => .bind (E.unitValues h) fun _ _ => .bind within_along fun _ _ =>
    .bind (E.unitPages h) fun _ _ => .bind (.mapAll _ fun _ => .ite (.pure trivial) (.lift E.sumsBytes)) fun _ _ =>
      .bind (E.unitWrite h) fun _ _ => .pure trivial

theorem Employs.uopJoin : AlongA K (fun _ => True) (Machine.uopJoin u : A s0 UopUse) :=
  .ifThen (.throw (Q := fun _ => True) _) fun _ => .bind (E.unitRead h) fun _ _ => .bind (E.unitWrite h) fun _ _ =>
    .bind (.lift (E.operate (bump_operates (by decide)))) fun _ _ =>
      .bind (.lift (E.operate (bump_operates (by decide)))) fun _ _ => .pure trivial

theorem Employs.uopPcopy : AlongA K (fun _ => True) (Machine.uopPcopy u : A s0 UopUse) :=
  .ifThen (.throw (Q := fun _ => True) _) fun _ => .bind (E.unitRead h) fun _ _ => .bind within_along fun _ _ =>
    .bind (E.put h (Nat.mod_lt _ (by decide))) fun _ _ => .bind (.lift (E.operate unitArrive_operates)) fun _ _ => .pure trivial

theorem Employs.uopRun {pos : Nat} {caller : Bool} : AlongA K (fun _ => True) (Machine.uopRun u pos caller : A s0 UopUse) := by
  unfold Machine.uopRun
  split
  · exact .ite (.pure trivial) (.throw _)
  · exact E.uopLoad h
  · exact E.uopStore h
  · exact E.uopMatvec h
  · exact E.uopExpert h
  · exact E.uopElt h
  · exact E.uopKvWrite h
  · exact E.uopAttnPart h
  · exact E.uopJoin h
  · exact E.uopPcopy h
  · exact .ite (.throw _) (.bind (.lift E.fresh) fun _ _ => .pure trivial)
  · exact .throw _

end

end Sys2Proof.Machine
end

section
/-!
PROOFS. Counters raised (R6, R239): what a field holds after a count, and a unit's counters after a command or a share.
-/
namespace Sys2Proof.Machine

variable {s0 : State} {α β γ : Type}

theorem satAdd_satAdd (n v d e : Nat) : satAdd n (satAdd n v d) e = satAdd n v (d + e) := by
  unfold satAdd
  omega

/-- Nothing counted onto a value of the width. -/
theorem satAdd_zero {n v : Nat} (h : v < 2 ^ n) : satAdd n v 0 = v := by
  unfold satAdd
  omega

theorem State.fld_lt (s : State) (f : Fld) (i j k : Nat) : s.fld f i j k < 2 ^ (f.hi + 1 - f.lo) := bits_lt _ _ _

/-- A counter that does not wrap, after a count. -/
theorem fld_after_bump {f : Fld} {d i j k : Nat} (t : At s0) (hx : (f.at i j k).exists = true) (hf : f.fits = true)
    (hw : wrapsRound f.reg = false) :
    (after (bump f d i j k) t).fld f i j k = satAdd (f.hi + 1 - f.lo) (t.1.fld f i j k) d := by
  unfold bump
  rw [after_cur_bind, hw]
  refine fld_after_setF f _ i j k t hx hf ?_
  have := Nat.two_pow_pos (f.hi + 1 - f.lo)
  simp only [Bool.false_eq_true, if_false]
  unfold satAdd
  omega

theorem fld_after_bump_ne {f g : Fld} {d i j k i' j' k' : Nat} (t : At s0) (h : g.at i' j' k' ≠ f.at i j k) :
    (after (bump f d i j k) t).fld g i' j' k' = t.1.fld g i' j' k' := by
  unfold bump
  rw [after_cur_bind]
  exact fld_after_setF_ne f g _ _ _ _ _ _ _ t h

/-- A count leaves the fields of registers of other names. -/
theorem fld_after_bump_name {f g : Fld} {d i j k i' j' k' : Nat} (t : At s0) (h : g.reg ≠ f.reg) :
    (after (bump f d i j k) t).fld g i' j' k' = t.1.fld g i' j' k' := fld_after_bump_ne t fun he => h (congrArg Reg.name he)

/-! ### A unit's counters -/

/-- The counters of one unit. -/
def unitFields : List Fld :=
  [F.galUnitBusyCycles_count, F.galUnitMacs_count, F.galUnitRdBytes_count, F.galUnitWrBytes_count, F.galUnitCommands_count]

theorem unitField_exists {f : Fld} (hf : f ∈ unitFields) {n p : Nat} (hn : n < 12) (hp : p < 32) : (f.at n p 0).exists = true := by
  simp only [unitFields, List.mem_cons, List.not_mem_nil, or_false] at hf
  obtain rfl | rfl | rfl | rfl | rfl := hf <;> simp [Fld.at, Reg.exists, RegName.count, RegName.spec,
    F.galUnitBusyCycles_count, F.galUnitMacs_count, F.galUnitRdBytes_count, F.galUnitWrBytes_count, F.galUnitCommands_count, hn, hp]

/-- What a command adds to each counter of its unit. -/
structure CommandCounted (n p : Nat) (x : UopUse) (s t : State) : Prop where
  busy : t.fld F.galUnitBusyCycles_count n p = satAdd 64 (s.fld F.galUnitBusyCycles_count n p) x.cycles
  macs : t.fld F.galUnitMacs_count n p = satAdd 64 (s.fld F.galUnitMacs_count n p) x.macs
  commands : t.fld F.galUnitCommands_count n p = satAdd 64 (s.fld F.galUnitCommands_count n p) 1

/-- Counts onto fields of registers of distinct names, each once. -/
theorem fld_after_bumps {ls : List (Fld × Nat)} {n p d : Nat} {f : Fld} (hx : ∀ e ∈ ls, (e.1.at n p 0).exists = true)
    (hf : ∀ e ∈ ls, e.1.fits = true ∧ wrapsRound e.1.reg = false) (hnodup : ((ls.map Prod.fst).map Fld.reg).Nodup) (hmem : (f, d) ∈ ls)
    (t : At s0) : (after (each ls fun e => bump e.1 e.2 n p) t).fld f n p = satAdd (f.hi + 1 - f.lo) (t.1.fld f n p) d := by
  induction ls generalizing t with
  | nil => cases hmem
  | cons e ls ih =>
    rw [List.map_cons, List.map_cons, List.nodup_cons] at hnodup
    obtain ⟨hfirst, hnodup⟩ := hnodup
    have hother {g : Fld} (hg : ∀ e ∈ ls, e.1.reg ≠ g.reg) (u : At s0) :
        (after (each ls fun e => bump e.1 e.2 n p) u).fld g n p = u.1.fld g n p := by
      clear ih hmem hfirst hnodup hx hf
      induction ls generalizing u with
      | nil => rfl
      | cons e ls ih =>
        exact (ih (fun e he => hg e (List.mem_cons_of_mem _ he)) _).trans
          (fld_after_bump_name u fun he => hg e (List.mem_cons_self ..) he.symm)
    obtain rfl | hmem := List.mem_cons.1 hmem
    · obtain ⟨hfit, hwrap⟩ := hf _ (List.mem_cons_self ..)
      exact (hother (fun e he heq => hfirst (List.mem_map.2 ⟨e.1, List.mem_map_of_mem he, heq⟩)) _).trans
        (fld_after_bump t (hx _ (List.mem_cons_self ..)) hfit hwrap)
    · refine (ih (fun e he => hx e (List.mem_cons_of_mem _ he)) (fun e he => hf e (List.mem_cons_of_mem _ he)) hnodup hmem _).trans ?_
      refine congrArg (satAdd _ · d) (fld_after_bump_name t fun he => hfirst (List.mem_map.2 ⟨_, List.mem_map_of_mem hmem, he⟩))

/-- What a command adds to its unit's counters. -/
def commandCounts (x : UopUse) : List (Fld × Nat) :=
  [(F.galUnitBusyCycles_count, x.cycles), (F.galUnitMacs_count, x.macs), (F.galUnitRdBytes_count, x.rd),
    (F.galUnitWrBytes_count, x.wr), (F.galUnitCommands_count, 1)]

theorem countUop_counted {n p : Nat} {x : UopUse} (t : At s0) (hn : n < 12) (hp : p < 32) :
    CommandCounted n p x t.1 (after (countUop n p x) t) := by
  have hcount {f : Fld} {d : Nat} (hmem : (f, d) ∈ commandCounts x) :
      (after (countUop n p x) t).fld f n p = satAdd (f.hi + 1 - f.lo) (t.1.fld f n p) d := by
    have hfst : (commandCounts x).map Prod.fst = unitFields := rfl
    have hall : ∀ f ∈ unitFields, f.fits = true ∧ wrapsRound f.reg = false := by decide
    exact fld_after_bumps (fun e he => unitField_exists (hfst ▸ List.mem_map_of_mem he) hn hp)
      (fun e he => hall _ (hfst ▸ List.mem_map_of_mem he)) (hfst ▸ by decide) hmem t
  exact ⟨hcount (by simp [commandCounts]), hcount (by simp [commandCounts]), hcount (by simp [commandCounts])⟩

/-- A run that sets registers of these names alone. -/
theorem countUop_sets {n p : Nat} {x : UopUse} : Only (setsReg (unitFields.map Fld.reg)) (countUop n p x : M s0 Unit) := by
  have hb {f : Fld} {d : Nat} (hf : f ∈ unitFields) : Only (setsReg (unitFields.map Fld.reg)) (bump f d n p : M s0 Unit) :=
    .bump' _ _ _ _ _ fun v => ⟨_, v, rfl, List.mem_map.2 ⟨f, hf, rfl⟩⟩
  exact .bind (hb (by decide)) fun _ => .bind (hb (by decide)) fun _ => .bind (hb (by decide)) fun _ =>
    .bind (hb (by decide)) fun _ => hb (by decide)

end Sys2Proof.Machine
end

section
/-!
PROOFS. Tickets that are DONE (R216, R218, R220, R221, R239), and the commands of unit operations whose check passed.
-/
namespace Sys2Proof.Machine

variable {s0 : State} {α β γ : Type} {n p t : Nat}

theorem SameStore.refl (s : State) : SameStore s s := ⟨rfl, rfl, rfl, rfl⟩

theorem unitsAt_modUnits {k : Nat} {f : UnitSt → UnitSt} (u : At s0) : (after (modUnits k f) u).unitsAt k = f (u.1.unitsAt k) := by
  change Tab.get {} (Tab.put {} u.1.units k (f (u.1.unitsAt k))) k = _
  rw [Tab.get_put, if_pos rfl]

/-- A ticket read after a ticket of the same unit has changed. -/
theorem ticket_modTicket {f : Ticket → Ticket} (r : Nat) (u : At s0) :
    (after (modTicket n p t f) u).ticket n p r = if r = t then f (u.1.ticket n p t) else u.1.ticket n p r := by
  unfold State.ticket modTicket
  rw [unitsAt_modUnits, Tab.get_put]

/-- Registers alone are set: memory and the units' own state stay. -/
theorem Steps.setsReg_keeps {ns : List RegName} {s u : State} (h : Steps (setsReg ns) s u) :
    SameStore s u ∧ u.units = s.units ∧ u.strikes = s.strikes ∧ u.now = s.now := by
  rw [h.eq_of_setsReg]
  exact ⟨⟨rfl, rfl, rfl, rfl⟩, rfl, rfl, rfl⟩

theorem refreshUnit_sets : Only (setsReg [.galUnitState]) (refreshUnit n p : M s0 Unit) :=
  .bind .cur fun _ => .setF' _ _ _ _ _ fun v => ⟨_, v, rfl, List.mem_cons_self ..⟩

/-! ### A command is DONE -/

/-- A ticket DONE. -/
def Ticket.done (k : Ticket) (status : Nat) (x : UopUse) (la : Option Nat) (re rebuilds : Nat) : Ticket :=
  { k with st := 3, result := resultWords k.words status x (la <|> k.failLa) re rebuilds }

/-- A unit whose ticket t has ended, the last of its run or not. -/
def UnitSt.ended (y : UnitSt) (t now : Nat) (last : Bool) : UnitSt :=
  { y with
    queue := y.queue.filter (· != t), idleSince := now, reexec := if last then 0 else y.reexec
    running := if last then none else some (t / 4) }

/-- What a ticket's end leaves of its unit, its memory and its counters. -/
structure DoneAs (n p t status : Nat) (x : UopUse) (la : Option Nat) (u y : State) : Prop where
  ticket : ∃ re rebuilds, y.ticket n p t = (u.ticket n p t).done status x la re rebuilds
  others : ∀ r, r ≠ t → y.ticket n p r = u.ticket n p r
  queue : (y.unitsAt (uKey n p)).queue = (u.unitsAt (uKey n p)).queue.filter (· != t)
  due : (y.unitsAt (uKey n p)).outDue = false
  store : SameStore u y
  counted : CommandCounted n p x u y

/-- The ticket's own change and the unit's, before the counters. -/
def noteDone (n p t status : Nat) (x : UopUse) (la : Option Nat) (rebuilds : Nat) (u : State) : M s0 Unit := do
  modTicket n p t fun k => k.done status x la (u.unitsAt (uKey n p)).reexec rebuilds
  modUnits (uKey n p) fun y => y.ended t u.now (cLast (u.ticket n p t).words)

section
variable {status rebuilds : Nat} {x : UopUse} {la : Option Nat} (u : At s0)

theorem after_doneTicket (hdue : (u.1.unitsAt (uKey n p)).outDue = false) :
    after (doneTicket n p t status x la rebuilds) u =
      after (refreshUnit n p) (countUop n p x (noteDone n p t status x la rebuilds u.1 u).2).2 := by
  unfold doneTicket
  rw [after_cur_bind, hdue]
  simp only [Bool.false_eq_true, and_false, if_false, after_bind, noteDone, bind_run]
  rfl

theorem unitsAt_noteDone : (noteDone n p t status x la rebuilds u.1 u).2.1.unitsAt (uKey n p) =
    ((after (modTicket n p t fun k => k.done status x la (u.1.unitsAt (uKey n p)).reexec rebuilds) u).unitsAt (uKey n p)).ended
      t u.1.now (cLast (u.1.ticket n p t).words) := by
  unfold noteDone
  rw [bind_run]
  exact unitsAt_modUnits _

theorem ticket_noteDone (r : Nat) : (noteDone n p t status x la rebuilds u.1 u).2.1.ticket n p r =
    if r = t then (u.1.ticket n p t).done status x la (u.1.unitsAt (uKey n p)).reexec rebuilds else u.1.ticket n p r := by
  rw [← ticket_modTicket (f := fun k => k.done status x la (u.1.unitsAt (uKey n p)).reexec rebuilds)]
  unfold State.ticket
  rw [unitsAt_noteDone]
  rfl

theorem unit_noteDone : ((noteDone n p t status x la rebuilds u.1 u).2.1.unitsAt (uKey n p)).queue =
      (u.1.unitsAt (uKey n p)).queue.filter (· != t) ∧
    ((noteDone n p t status x la rebuilds u.1 u).2.1.unitsAt (uKey n p)).outDue = (u.1.unitsAt (uKey n p)).outDue := by
  rw [unitsAt_noteDone, modTicket, unitsAt_modUnits]
  exact ⟨rfl, rfl⟩

theorem doneTicket_done (hn : n < 12) (hp : p < 32) (hdue : (u.1.unitsAt (uKey n p)).outDue = false) :
    DoneAs n p t status x la u.1 (after (doneTicket n p t status x la rebuilds) u) := by
  rw [after_doneTicket u hdue]
  obtain ⟨v, hv⟩ : ∃ v : At s0, (noteDone n p t status x la rebuilds u.1 u).2 = v := ⟨_, rfl⟩
  obtain ⟨w, hw⟩ : ∃ w : At s0, (countUop n p x v).2 = w := ⟨_, rfl⟩
  have hticket := ticket_noteDone (n := n) (p := p) (t := t) (status := status) (rebuilds := rebuilds) (x := x) (la := la) u
  obtain ⟨hqueue, houtDue⟩ := unit_noteDone (n := n) (p := p) (t := t) (status := status) (rebuilds := rebuilds) (x := x) (la := la) u
  have hstore : SameStore u.1 (noteDone n p t status x la rebuilds u.1 u).2.1 := ⟨rfl, rfl, rfl, rfl⟩
  have hfld (f : Fld) : (noteDone n p t status x la rebuilds u.1 u).2.1.fld f n p = u.1.fld f n p := rfl
  simp only [hv] at hticket hqueue houtDue hstore hfld
  have hcounted : CommandCounted n p x v.1 w.1 := hw ▸ countUop_counted v hn hp
  have hcount : Steps (setsReg (unitFields.map Fld.reg)) v.1 w.1 := hw ▸ countUop_sets v
  have hshow := refreshUnit_sets (n := n) (p := p) w
  rw [hv, hw]
  obtain ⟨hstoreW, hunitsW, -, -⟩ := hcount.setsReg_keeps
  obtain ⟨hstoreY, hunitsY, -, -⟩ := hshow.setsReg_keeps
  have hunits := hunitsY.trans hunitsW
  have hat : (after (refreshUnit n p) w).unitsAt (uKey n p) = v.1.unitsAt (uKey n p) := by
    unfold State.unitsAt
    rw [hunits]
  have hregs : SameRegs [.galUnitState] w.1 (after (refreshUnit n p) w) := fun r hr => hshow.reg_eq r hr
  have hticketY (r : Nat) : (after (refreshUnit n p) w).ticket n p r = v.1.ticket n p r := by
    unfold State.ticket
    rw [hat]
  refine ⟨⟨_, _, (hticketY t).trans ((hticket t).trans (if_pos rfl))⟩, fun r hr => (hticketY r).trans ((hticket r).trans (if_neg hr)), ?_, ?_,
    hstore.trans (hstoreW.trans hstoreY), ?_⟩
  · rw [hat]
    exact hqueue
  · rw [hat, houtDue, hdue]
  · obtain ⟨hbusy, hmacs, hcommands⟩ := hcounted
    refine ⟨?_, ?_, ?_⟩
    · rw [hregs.fld (by decide), hbusy, hfld]
    · rw [hregs.fld (by decide), hmacs, hfld]
    · rw [hregs.fld (by decide), hcommands, hfld]

end

/-! ### Undefined commands behind it -/

/-- What the end of other tickets leaves of one that is DONE. -/
structure SkippedAs (n p t : Nat) (u y : State) : Prop where
  ticket : y.ticket n p t = u.ticket n p t
  queue : t ∉ (y.unitsAt (uKey n p)).queue
  store : SameStore u y
  busy : y.fld F.galUnitBusyCycles_count n p = u.fld F.galUnitBusyCycles_count n p
  macs : y.fld F.galUnitMacs_count n p = u.fld F.galUnitMacs_count n p

theorem State.runningTicket_mem {s : State} {r : Nat} (h : s.runningTicket n p = some r) : r ∈ (s.unitsAt (uKey n p)).queue := by
  unfold State.runningTicket at h
  dsimp only at h
  split at h
  · exact List.mem_of_head? (Option.filter_eq_some_iff.1 h).1
  · cases h

theorem skipUndefined_skipped (fuel : Nat) (u : At s0) (hn : n < 12) (hp : p < 32) (hq : t ∉ (u.1.unitsAt (uKey n p)).queue)
    (hdue : (u.1.unitsAt (uKey n p)).outDue = false) : SkippedAs n p t u.1 (after (skipUndefined n p fuel) u) := by
  induction fuel generalizing u with
  | zero => exact ⟨rfl, hq, .refl _, rfl, rfl⟩
  | succ fuel ih =>
    unfold skipUndefined
    rw [after_cur_bind]
    split
    · next r hr =>
      split
      · have hne : t ≠ r := fun he => hq (he ▸ State.runningTicket_mem hr)
        obtain ⟨v, hv⟩ : ∃ v : At s0, (doneTicket n p r stInternal {} none 0 u).2 = v := ⟨_, rfl⟩
        have hdone : DoneAs n p r stInternal {} none u.1 v.1 := hv ▸ doneTicket_done u hn hp hdue
        have hrest := ih v (by rw [hdone.queue]; exact fun hm => hq (List.mem_of_mem_filter hm)) hdone.due
        rw [after_bind, hv]
        obtain ⟨hbusy, hmacs, -⟩ := hdone.counted
        refine ⟨hrest.ticket.trans (hdone.others t hne), hrest.queue, hdone.store.trans hrest.store, ?_, ?_⟩
        · exact hrest.busy.trans (hbusy.trans (satAdd_zero (State.fld_lt ..)))
        · exact hrest.macs.trans (hmacs.trans (satAdd_zero (State.fld_lt ..)))
      · exact ⟨rfl, hq, .refl _, rfl, rfl⟩
    · exact ⟨rfl, hq, .refl _, rfl, rfl⟩

/-- What the end of a command leaves. -/
structure FinishedAs (n p t status : Nat) (x : UopUse) (la : Option Nat) (u y : State) : Prop where
  ticket : ∃ re rebuilds, y.ticket n p t = (u.ticket n p t).done status x la re rebuilds
  queue : t ∉ (y.unitsAt (uKey n p)).queue
  store : SameStore u y
  busy : y.fld F.galUnitBusyCycles_count n p = satAdd 64 (u.fld F.galUnitBusyCycles_count n p) x.cycles
  macs : y.fld F.galUnitMacs_count n p = satAdd 64 (u.fld F.galUnitMacs_count n p) x.macs

theorem finishTicket_finished {status rebuilds : Nat} {x : UopUse} {la : Option Nat} (u : At s0) (hn : n < 12) (hp : p < 32)
    (hdue : (u.1.unitsAt (uKey n p)).outDue = false) :
    FinishedAs n p t status x la u.1 (after (finishTicket n p t status x la rebuilds) u) := by
  obtain ⟨v, hv⟩ : ∃ v : At s0, (doneTicket n p t status x la rebuilds u).2 = v := ⟨_, rfl⟩
  have hdone : DoneAs n p t status x la u.1 v.1 := hv ▸ doneTicket_done u hn hp hdue
  have hskip := skipUndefined_skipped (t := t) 32 v hn hp (by rw [hdone.queue]; simp) hdone.due
  unfold finishTicket
  rw [after_bind, hv]
  obtain ⟨re, rebuilds, hticket⟩ := hdone.ticket
  obtain ⟨hbusy, hmacs, -⟩ := hdone.counted
  exact ⟨⟨re, rebuilds, hskip.ticket.trans hticket⟩, hskip.queue, hdone.store.trans hskip.store, hskip.busy.trans hbusy, hskip.macs.trans hmacs⟩

/-! ### The command of the ticket that runs -/

/-- Free values alone are taken. -/
theorem freeUse_fresh : Only (fun e => e = .fresh) (freeUse : M s0 UopUse) :=
  have take : Only (fun e => e = .fresh) (takeFresh : M s0 Nat) := .bind .cur fun _ => .bind (.eff _ rfl) fun _ => .pure _
  .bind take fun _ => .bind take fun _ => .bind take fun _ => .bind take fun _ => .pure _

/-- Where only free values are taken, all else stays. -/
theorem Steps.fresh_keeps {s u : State} (h : Steps (fun e => e = .fresh) s u) : SameStore s u ∧ u.units = s.units := by
  have hkeep := h.keeps (fun u => ((u.mem, u.chk, u.merges, u.flash), u.units)) fun e u he => by subst he; rfl
  simp only [Prod.mk.injEq] at hkeep
  exact hkeep

/-- A ticket's end by how its operation ended. -/
def endTicket (n p t rebuilds : Nat) : Except Stop UopUse → M s0 Unit
  | .ok x => finishTicket n p t stOk x none rebuilds
  | .error (.poison va _) => do finishTicket n p t stPoison (← freeUse) (some (va / 64 * 64)) rebuilds
  | .error (.flt st _ _ _) => do finishTicket n p t st (← freeUse) none rebuilds
  | .error _ => finishTicket n p t stInternal {} none rebuilds

theorem runTicket_eq {op : Nat} {s : State} (h : s.unitTurn n p t op) {r : Except Stop UopUse} {l : Log} {u : At s}
    (hrun : runA (uopRun (s.unitCmd n p t) (s.ticket n p t).pos (s.ticket n p t).caller) ⟨s, Reach.refl s⟩ = ((r, l), u)) :
    ∃ rebuilds, after (runTicket op n p t true) ⟨s, Reach.refl s⟩ = after (endTicket n p t rebuilds r) u := by
  obtain ⟨-, -, -, hturn, hop⟩ := h
  refine ⟨u.1.fld F.hbParityRebuilds_count - s.fld F.hbParityRebuilds_count, ?_⟩
  unfold runTicket
  rw [after_cur_bind]
  simp only [hturn, hop, and_self, if_true]
  refine (after_bind_eq hrun).trans ?_
  rw [after_cur_bind]
  match r with
  | .ok _ | .error (.poison _ _) | .error (.flt _ _ _ _) | .error .internal | .error (.hold _) | .error (.fail _ _) => rfl

/-- How the running ticket's command ends: its status, what it used where that is known, the granule that could not be read. -/
theorem endTicket_ends {rebuilds : Nat} {r : Except Stop UopUse} (u : At s0) (hn : n < 12) (hp : p < 32)
    (hdue : (u.1.unitsAt (uKey n p)).outDue = false) :
    ∃ x la v, v.units = u.1.units ∧ SameStore u.1 v ∧ FinishedAs n p t (unitStatus r) x la v (after (endTicket n p t rebuilds r) u) ∧
      (∀ y, r = .ok y → x = y ∧ v = u.1) ∧ ∀ va a, r = .error (.poison va a) → la = some (va / 64 * 64) := by
  obtain ⟨w, hw⟩ : ∃ w : At s0, (freeUse u).2 = w := ⟨_, rfl⟩
  obtain ⟨hstore, hunits⟩ : SameStore u.1 w.1 ∧ w.1.units = u.1.units := hw ▸ (freeUse_fresh u).fresh_keeps
  have hduew : (w.1.unitsAt (uKey n p)).outDue = false := by
    unfold State.unitsAt at hdue ⊢
    rw [hunits, hdue]
  match r with
  | .ok x => exact ⟨x, none, u.1, rfl, .refl _, finishTicket_finished u hn hp hdue, fun _ h => by cases h; exact ⟨rfl, rfl⟩, nofun⟩
  | .error (.poison va a) =>
    refine ⟨(freeUse u).1, some (va / 64 * 64), w.1, hunits, hstore, ?_, nofun, fun _ _ h => by cases h; rfl⟩
    unfold endTicket
    rw [after_bind, hw]
    exact finishTicket_finished w hn hp hduew
  | .error (.flt st va wr k) =>
    refine ⟨(freeUse u).1, none, w.1, hunits, hstore, ?_, nofun, nofun⟩
    unfold endTicket
    rw [after_bind, hw]
    exact finishTicket_finished w hn hp hduew
  | .error .internal | .error (.hold _) | .error (.fail _ _) =>
    exact ⟨{}, none, u.1, rfl, .refl _, finishTicket_finished u hn hp hdue, nofun, nofun⟩

/-- The command of an operation code that runs its ticket's command. -/
theorem ticketRuns_of {cmd : Nat → Nat → Nat → Instr} {op : Nat}
    (h : ∀ n p t s, s.unitTurn n p t op → exec (cmd n p t) s = M.go s (runTicket op n p t true)) : TicketRuns cmd op := by
  intro n p t s hturn hdue
  refine answers_of_go (h n p t s hturn) ?_
  obtain ⟨⟨r, l⟩, u, hrun⟩ : ∃ rl u, runA (uopRun (s.unitCmd n p t) (s.ticket n p t).pos (s.ticket n p t).caller) ⟨s, Reach.refl s⟩ = (rl, u) :=
    ⟨_, _, rfl⟩
  obtain ⟨rebuilds, heq⟩ := runTicket_eq hturn hrun
  obtain ⟨hup, -⟩ := hturn
  simp only [State.unitUp, Bool.and_eq_true, decide_eq_true_eq] at hup
  obtain ⟨⟨hn, hp⟩, -⟩ := hup
  have hunits : u.1.units = s.units := by
    have hwork := employsAll.uopRun (s0 := s) (u := s.unitCmd n p t) ⟨trivial, Nat.lt_succ_of_lt hn, hp⟩
      (pos := (s.ticket n p t).pos) (caller := (s.ticket n p t).caller)
    have hsteps : Steps Eff.Accesses s (runA (uopRun (s.unitCmd n p t) (s.ticket n p t).pos (s.ticket n p t).caller) ⟨s, Reach.refl s⟩).2.1 :=
      (hwork {} ⟨s, Reach.refl s⟩ trivial).2.1
    rw [hrun] at hsteps
    exact Steps.accesses_units hsteps
  have hruns : s.runs (uopRun (s.unitCmd n p t) (s.ticket n p t).pos (s.ticket n p t).caller) = (r, l, u.1) := by
    unfold State.runs
    rw [hrun]
  obtain ⟨x, la, v, hvunits, hstore, hfin, hok, hpoison⟩ := endTicket_ends (n := n) (p := p) (t := t) (rebuilds := rebuilds) (r := r) u hn hp
    (by unfold State.unitsAt at hdue ⊢; rw [hunits, hdue])
  have hticket : v.ticket n p t = s.ticket n p t := by
    unfold State.ticket State.unitsAt
    rw [hvunits, hunits]
  dsimp only
  rw [hruns, heq]
  obtain ⟨⟨re, rb, hdone⟩, hqueue, hstore', hbusy, hmacs⟩ := hfin
  rw [hticket] at hdone
  refine ⟨by rw [hdone]; rfl, hqueue, hstore.trans hstore', by rw [hdone]; rfl, fun y hy => ?_, fun va a hy => ?_⟩
  · obtain ⟨rfl, rfl⟩ := hok y hy
    exact ⟨by rw [hdone]; rfl, hmacs, hbusy⟩
  · rw [hdone, hpoison va a hy]
    rfl

/-- Operations of units that a packet's own runs share the command with. -/
theorem go_unitUop {op : Nat} {s : State} (h : s.unitTurn n p t op) (pass : Bool) :
    M.go s (unitUop op n p t pass) = M.go s (runTicket op n p t pass) := by
  obtain ⟨-, -, -, hturn, -⟩ := h
  unfold M.go unitUop
  rw [bind_run, cur_run]
  simp only [hturn, if_true]

theorem State.unitTurn.bounds {s : State} {op : Nat} (h : s.unitTurn n p t op) : n < 12 ∧ p < 32 := by
  obtain ⟨hup, -⟩ := h
  simp only [State.unitUp, Bool.and_eq_true, decide_eq_true_eq] at hup
  exact hup.1

/-- A unit's number names its stack and pseudo-channel. -/
theorem uKey_parts (hp : p < 32) : uKey n p / 32 = n ∧ uKey n p % 32 = p := by
  unfold uKey
  omega

end Sys2Proof.Machine
end

section
/-!
PROOFS. A failed check in a unit's run (R234, R235): the run is queued again, the unit has a strike, and with two that count it is out.
-/
namespace Sys2Proof.Machine

variable {s0 : State} {n p t : Nat}

/-! ### What a unit's queue and the strikes are seen by -/

/-- A unit's queue and tickets, the strikes, and what tells which of them count. -/
def State.runView (s : State) (n p : Nat) : ((List Nat × (Nat → Ticket)) × List Strike) × Nat × Nat :=
  ((((s.unitsAt (uKey n p)).queue, s.ticket n p), s.strikes), s.now, s.fld F.cdStrikeCfg_windowH (dieOf n))

theorem State.strikesOf_congr {s u : State} (h : u.runView n p = s.runView n p) :
    u.strikesOf (dieOf n) (uKey n p) true = s.strikesOf (dieOf n) (uKey n p) true := by
  simp only [State.runView, Prod.mk.injEq] at h
  obtain ⟨⟨-, hstrikes⟩, hnow, hwindow⟩ := h
  simp only [State.strikesOf, State.strikeLive, State.inWindow, hstrikes, hnow, hwindow]

/-! ### Records and counts beside them -/

/-- The registers of the records, of the feature values and of runs executed again. -/
def noteRegs : List RegName := .featGalliard :: .featGen :: .galUnitReexec :: recordRegs

/-- An effect of a record, of a feature value's change, of an entry in the retirement log or of a count of runs executed again. -/
def Eff.Notes : Eff → Prop
  | .reg r _ => r.name ∈ noteRegs
  | .retlog _ => True
  | e => e.Records

theorem Eff.Records.notes {e : Eff} (h : e.Records) : e.Notes := by
  cases e with
  | reg r v => exact List.mem_cons_of_mem _ (List.mem_cons_of_mem _ (List.mem_cons_of_mem _ h))
  | retlog _ => trivial
  | _ => exact h

theorem errRecord_notes {e : ErrRec} : Only Eff.Notes (errRecord e : M s0 Unit) := fun u =>
  (errRecord_records e u).mono fun _ => Eff.Records.notes

theorem featSet_notes {f : Fld} {v i : Nat} (h : f.reg ∈ noteRegs) : Only Eff.Notes (featSet f v i : M s0 Unit) :=
  .bind .cur fun _ => .ite (.bind (.setF' _ _ _ _ _ fun _ => h) fun _ => .bind (.bump' _ _ _ _ _ fun _ => (by decide : RegName.featGen ∈ noteRegs)) fun _ =>
    errRecord_notes) (.pure ())

theorem logRetire_notes {kind idx : Nat} {on : Bool} : Only Eff.Notes (logRetire kind idx on : M s0 Unit) :=
  .bind .cur fun _ => .eff _ trivial

/-- Such effects leave a unit's queue, its state register and the strikes. -/
theorem Steps.notes_keep {s u : State} (h : Steps Eff.Notes s u) : u.runView n p = s.runView n p ∧ SameRegs noteRegs s u := by
  have hregs : SameRegs noteRegs s u := h.sameRegs fun e he => by cases e <;> first | exact he | trivial
  have hkeep := h.keeps (fun u => (u.units, u.strikes, u.now)) fun e u he => by cases e <;> first | rfl | exact he.elim
  simp only [Prod.mk.injEq] at hkeep
  obtain ⟨hunits, hstrikes, hnow⟩ := hkeep
  refine ⟨?_, hregs⟩
  unfold State.runView State.ticket State.unitsAt
  rw [hunits, hstrikes, hnow, hregs.fld (by decide)]

/-- A run of such effects, from where it begins to where it ends. -/
theorem Only.notes_keep {m : M s0 Unit} {u v : At s0} (h : Only Eff.Notes m) (hv : (m u).2 = v) :
    v.1.runView n p = u.1.runView n p ∧ SameRegs noteRegs u.1 v.1 := hv ▸ (h u).notes_keep

/-! ### The unit's state register -/

theorem unitState_exists (hn : n < 12) (hp : p < 32) : (F.galUnitState_service.at n p 0).exists = true := by
  simp [Fld.at, Reg.exists, RegName.count, RegName.spec, F.galUnitState_service, hn, hp]

/-- A field of the unit's state leaves its queue and the strikes. -/
theorem runView_setF {f : Fld} {v i j : Nat} (h : f.reg = .galUnitState) (u : At s0) :
    (after (setF f v i j) u).runView n p = u.1.runView n p := by
  have hsets : Steps (setsReg [.galUnitState]) u.1 (after (setF f v i j) u) :=
    Only.setF' f v i j 0 (fun x => ⟨_, x, rfl, by simp [Fld.at, h]⟩) u
  obtain ⟨-, hunits, hstrikes, hnow⟩ := hsets.setsReg_keeps
  have hregs : SameRegs [.galUnitState] u.1 (after (setF f v i j) u) := fun r hr => hsets.reg_eq r hr
  unfold State.runView State.ticket State.unitsAt
  rw [hunits, hstrikes, hnow, hregs.fld (by decide)]

/-- The unit's part in service and its strikes, as its state register shows them. -/
def State.standing (s : State) (n p : Nat) : Nat × Nat := (s.fld F.galUnitState_strikes n p, s.unitService n p)

theorem SameRegs.standing {ns : List RegName} {s u : State} (h : SameRegs ns s u) (hns : RegName.galUnitState ∉ ns) :
    u.standing n p = s.standing n p := by
  unfold State.standing State.unitService
  rw [h.fld (f := F.galUnitState_strikes) hns, h.fld (f := F.galUnitState_service) hns]

theorem standing_refreshUnit (u : At s0) : (after (refreshUnit n p) u).standing n p = u.1.standing n p := by
  unfold State.standing State.unitService refreshUnit
  rw [after_cur_bind, fld_after_setF_other F.galUnitState_queued _ _ _ _ _ _ _ _ _ (by decide) (by decide) (by decide),
    fld_after_setF_other F.galUnitState_queued _ _ _ _ _ _ _ _ _ (by decide) (by decide) (by decide)]

/-! ### Out of service -/

theorem setService_out (u : At s0) (hn : n < 12) (hp : p < 32) (hin : u.1.unitService n p = 0) :
    (after (setService n p 1) u).runView n p = u.1.runView n p ∧
      (after (setService n p 1) u).standing n p = ((u.1.standing n p).1, 1) ∧
      (after (setService n p 1) u).unitMode n p = u.1.unitMode n p := by
  unfold setService
  rw [after_cur_bind]
  dsimp only
  rw [if_pos ⟨hin, by decide⟩, after_bind]
  obtain ⟨v, hv⟩ : ∃ v : At s0, (setF F.galUnitState_service 1 n p 0 u).2 = v := ⟨_, rfl⟩
  have hview : v.1.runView n p = u.1.runView n p := hv ▸ runView_setF rfl u
  have hservice : v.1.unitService n p = 1 := hv ▸ fld_after_setF _ _ _ _ _ u (unitState_exists hn hp) (by decide) (by decide)
  have hstrikes : v.1.fld F.galUnitState_strikes n p = u.1.fld F.galUnitState_strikes n p :=
    hv ▸ fld_after_setF_other _ _ _ _ _ _ _ _ _ u (by decide) (by decide) (by decide)
  have hmode : v.1.unitMode n p = u.1.unitMode n p :=
    hv ▸ fld_after_setF_other _ _ _ _ _ _ _ _ _ u (by decide) (by decide) (by decide)
  rw [hv]
  obtain ⟨hfeat, hregs⟩ := (featSet_notes (f := F.featGalliard_value) (v := u.1.fld F.featGalliard_value - 1) (by decide)).notes_keep
    (n := n) (p := p) (u := v) rfl
  refine ⟨hfeat.trans hview, (hregs.standing (by decide)).trans ?_, (hregs.fld (by decide) ..).trans hmode⟩
  unfold State.standing
  rw [hservice, hstrikes]

/-- A NEAR or EXITING unit that leaves service keeps its queue. -/
theorem unitOut_out (u : At s0) (hn : n < 12) (hp : p < 32) (hin : u.1.unitService n p = 0)
    (hmode : u.1.unitMode n p = 2 ∨ u.1.unitMode n p = 3) :
    (after (unitOut n p) u).runView n p = u.1.runView n p ∧ (after (unitOut n p) u).standing n p = ((u.1.standing n p).1, 1) := by
  obtain ⟨v, hv⟩ : ∃ v : At s0, (setService n p 1 u).2 = v := ⟨_, rfl⟩
  obtain ⟨w, hw⟩ : ∃ w : At s0, (logRetire 4 (uKey n p) true v).2 = w := ⟨_, rfl⟩
  obtain ⟨x, hx⟩ : ∃ x : At s0, (modUnits (uKey n p) (fun y => { y with outDue := false }) w).2 = x := ⟨_, rfl⟩
  obtain ⟨hviewV, hstandV, -⟩ := setService_out u hn hp hin
  obtain ⟨hviewW, hregsW⟩ := logRetire_notes.notes_keep (n := n) (p := p) hw
  have hviewX : x.1.runView n p = w.1.runView n p := by
    have hunit : x.1.unitsAt (uKey n p) = { w.1.unitsAt (uKey n p) with outDue := false } := hx ▸ unitsAt_modUnits w
    subst hx
    unfold State.runView State.ticket
    rw [hunit]
    rfl
  have hstandX : x.1.standing n p = w.1.standing n p := by subst hx; rfl
  have hview : x.1.runView n p = u.1.runView n p := hviewX.trans (hviewW.trans (hv ▸ hviewV))
  have hstand : x.1.standing n p = ((u.1.standing n p).1, 1) :=
    hstandX.trans ((hregsW.standing (by decide)).trans (hv ▸ hstandV))
  have hout : after (unitOut n p) u = after (if u.1.unitMode n p = 2 then startExit n p
      else if u.1.unitMode n p = 1 then becomeNormal n p else pure ()) x := by
    unfold unitOut
    rw [after_cur_bind, if_pos hin, after_bind, hv, after_bind, hw, after_bind, hx]
  rw [hout]
  obtain hnear | hexit := hmode
  · rw [if_pos hnear]
    refine ⟨(runView_setF rfl x).trans hview, .trans ?_ hstand⟩
    unfold State.standing State.unitService startExit
    rw [fld_after_setF_other F.galUnitState_mode _ _ _ _ _ _ _ _ _ (by decide) (by decide) (by decide),
      fld_after_setF_other F.galUnitState_mode _ _ _ _ _ _ _ _ _ (by decide) (by decide) (by decide)]
  · rw [if_neg (by omega), if_neg (by omega)]
    exact ⟨hview, hstand⟩

/-! ### A strike -/

/-- What a strike leaves of a unit in service. -/
structure StruckAs (n p : Nat) (u y : State) : Prop where
  queue : (y.unitsAt (uKey n p)).queue = (u.unitsAt (uKey n p)).queue
  tickets : y.ticket n p = u.ticket n p
  strikes : y.strikes = u.strikes ++ [{ loc := uKey n p, unit := true, time := u.now }]
  standing : y.standing n p = (min (y.strikesOf (dieOf n) (uKey n p) true) 2,
    if 2 ≤ y.strikesOf (dieOf n) (uKey n p) true then 1 else 0)

theorem addStrike_view {u v : At s0} (hv : (addStrike (uKey n p) true u).2 = v) : v.1.runView n p =
      ((((u.1.unitsAt (uKey n p)).queue, u.1.ticket n p), u.1.strikes ++ [{ loc := uKey n p, unit := true, time := u.1.now }]),
        u.1.now, u.1.fld F.cdStrikeCfg_windowH (dieOf n)) ∧
    SameRegs [] u.1 v.1 := by
  subst hv
  exact ⟨rfl, fun _ _ => rfl⟩

theorem unitStrike_struck (u : At s0) (hn : n < 12) (hp : p < 32) (hin : u.1.unitService n p = 0)
    (hmode : u.1.unitMode n p = 2 ∨ u.1.unitMode n p = 3) : StruckAs n p u.1 (after (unitStrike n p) u) := by
  obtain ⟨v, hv⟩ : ∃ v : At s0, (addStrike (uKey n p) true u).2 = v := ⟨_, rfl⟩
  obtain ⟨w, hw⟩ : ∃ w : At s0, (setF F.galUnitState_strikes (min (v.1.strikesOf (dieOf n) (uKey n p) true) 2) n p 0 v).2 = w := ⟨_, rfl⟩
  obtain ⟨x, hx⟩ : ∃ x : At s0, (errRecord (unitRec n p 1) w).2 = x := ⟨_, rfl⟩
  obtain ⟨hviewV, hregsV⟩ := addStrike_view hv
  have hviewW : w.1.runView n p = v.1.runView n p := hw ▸ runView_setF rfl v
  obtain ⟨hviewX, hregsX⟩ := errRecord_notes.notes_keep (n := n) (p := p) hx
  have hview : x.1.runView n p = v.1.runView n p := hviewX.trans hviewW
  have hfirst : w.1.fld F.galUnitState_strikes n p = min (v.1.strikesOf (dieOf n) (uKey n p) true) 2 :=
    hw ▸ fld_after_setF _ _ _ _ _ v (unitState_exists hn hp) (by decide) (by
      have : (2 : Nat) < 2 ^ (F.galUnitState_strikes.hi + 1 - F.galUnitState_strikes.lo) := by decide
      omega)
  have hservice : w.1.unitService n p = 0 := by
    refine Eq.trans ?_ hin
    subst hw
    exact (fld_after_setF_other F.galUnitState_strikes F.galUnitState_service _ _ _ _ _ _ _ _ (by decide) (by decide) (by decide)).trans
      (hregsV.fld (by simp) ..)
  have hmodeW : w.1.unitMode n p = u.1.unitMode n p := by
    subst hw
    exact (fld_after_setF_other F.galUnitState_strikes F.galUnitState_mode _ _ _ _ _ _ _ _ (by decide) (by decide) (by decide)).trans
      (hregsV.fld (by simp) ..)
  have hstand : x.1.standing n p = (min (v.1.strikesOf (dieOf n) (uKey n p) true) 2, 0) := by
    rw [hregsX.standing (by decide)]
    unfold State.standing
    rw [hfirst, hservice]
  have hmodeX : x.1.unitMode n p = u.1.unitMode n p := (hregsX.fld (by decide) ..).trans hmodeW
  have hrun : after (unitStrike n p) u = after (if 2 ≤ v.1.strikesOf (dieOf n) (uKey n p) true then
      (do errRecord (unitRec n p 2); unitOut n p) else bump F.galUnitReexec_count 1 n p) x := by
    unfold unitStrike
    rw [after_bind, hv, after_cur_bind]
    dsimp only
    rw [after_bind, hw, after_bind, hx]
  have hcases : (after (unitStrike n p) u).runView n p = v.1.runView n p ∧ (after (unitStrike n p) u).standing n p =
      (min (v.1.strikesOf (dieOf n) (uKey n p) true) 2, if 2 ≤ v.1.strikesOf (dieOf n) (uKey n p) true then 1 else 0) := by
    rw [hrun]
    split
    · obtain ⟨y, hy⟩ : ∃ y : At s0, (errRecord (unitRec n p 2) x).2 = y := ⟨_, rfl⟩
      obtain ⟨hviewY, hregsY⟩ := errRecord_notes.notes_keep (n := n) (p := p) hy
      have hstandY := (hregsY.standing (n := n) (p := p) (by decide)).trans hstand
      obtain ⟨hviewZ, hstandZ⟩ := unitOut_out y hn hp (congrArg Prod.snd hstandY)
        (by rw [show y.1.unitMode n p = u.1.unitMode n p from (hregsY.fld (by decide) ..).trans hmodeX]; exact hmode)
      rw [after_bind, hy]
      exact ⟨hviewZ.trans (hviewY.trans hview), hstandZ.trans (by rw [hstandY])⟩
    · obtain ⟨hviewY, hregsY⟩ := (Only.bump' F.galUnitReexec_count 1 n p 0 fun _ =>
        (by decide : RegName.galUnitReexec ∈ noteRegs)).notes_keep (n := n) (p := p) (u := x) rfl
      exact ⟨hviewY.trans hview, (hregsY.standing (by decide)).trans hstand⟩
  obtain ⟨hviewY, hstandY⟩ := hcases
  have hcount := State.strikesOf_congr hviewY
  have hshown := hviewY.trans hviewV
  simp only [State.runView, Prod.mk.injEq] at hshown
  obtain ⟨⟨⟨hqueue, htickets⟩, hstrikes⟩, -⟩ := hshown
  exact ⟨hqueue, htickets, hstrikes, by rw [hcount]; exact hstandY⟩

/-- The register that shows the queue's length says nothing of a strike. -/
theorem StruckAs.refreshed {v : State} (z : At s0) (h : StruckAs n p v z.1) : StruckAs n p v (after (refreshUnit n p) z) := by
  obtain ⟨hqueue, htickets, hstrikes, hstanding⟩ := h
  have hview : (after (refreshUnit n p) z).runView n p = z.1.runView n p := by
    unfold refreshUnit
    rw [after_cur_bind]
    exact runView_setF rfl z
  have hcount := State.strikesOf_congr hview
  simp only [State.runView, Prod.mk.injEq] at hview
  obtain ⟨⟨⟨hqueueY, hticketsY⟩, hstrikesY⟩, -⟩ := hview
  refine ⟨hqueueY.trans hqueue, hticketsY.trans htickets, hstrikesY.trans hstrikes, ?_⟩
  rw [standing_refreshUnit, hcount]
  exact hstanding

/-! ### The run is queued again -/

/-- A ticket queued again. -/
def Ticket.again (k : Ticket) (la : Option Nat) : Ticket := { k with st := 1, result := [], failLa := la }

/-- The tickets of a run queued again. -/
def requeue (n p t la : Nat) (run : List Nat) : M s0 Unit :=
  each run fun r => modTicket n p r fun k => k.again (if r = t then some la else k.failLa)

/-- What the queueing again leaves of a ticket. -/
structure AgainAs (n p r : Nat) (queued : Prop) (u y : State) : Prop where
  words : (y.ticket n p r).words = (u.ticket n p r).words
  queued : queued ∨ (u.ticket n p r).st = 1 ∧ (u.ticket n p r).result = [] → (y.ticket n p r).st = 1 ∧ (y.ticket n p r).result = []

theorem requeue_again {la : Nat} (run : List Nat) (r : Nat) (u : At s0) :
    AgainAs n p r (r ∈ run) u.1 (after (requeue n p t la run) u) := by
  induction run generalizing u with
  | nil => exact ⟨rfl, fun h => h.resolve_left (by simp)⟩
  | cons q run ih =>
    obtain ⟨v, hv⟩ : ∃ v : At s0, (modTicket n p q (fun k => k.again (if q = t then some la else k.failLa)) u).2 = v := ⟨_, rfl⟩
    have hfirst : v.1.ticket n p r = if r = q then (u.1.ticket n p q).again (if q = t then some la else (u.1.ticket n p q).failLa)
        else u.1.ticket n p r := hv ▸ ticket_modTicket r u
    have hrun : after (requeue n p t la (q :: run)) u = after (requeue n p t la run) v := hv ▸ rfl
    obtain ⟨hwords, hqueued⟩ := ih v
    rw [hrun]
    split at hfirst
    · next hr =>
      subst hr
      exact ⟨hwords.trans (by rw [hfirst]; rfl), fun _ => hqueued (.inr (by rw [hfirst]; exact ⟨rfl, rfl⟩))⟩
    · next hr =>
      refine ⟨hwords.trans (by rw [hfirst]), fun h => hqueued ?_⟩
      rw [hfirst]
      exact h.imp (fun hm => (List.mem_cons.1 hm).resolve_left hr) id

theorem requeue_units {la : Nat} (run : List Nat) :
    Only (fun e => ∃ k x, e = .units k x) (requeue n p t la run : M s0 Unit) :=
  .each _ fun _ => .bind .cur fun _ => .eff _ ⟨_, _, rfl⟩

/-- Such effects leave all but the units' own state. -/
theorem Steps.units_keep {s u : State} (h : Steps (fun e => ∃ k x, e = .units k x) s u) :
    u.bank = s.bank ∧ u.strikes = s.strikes ∧ u.now = s.now := by
  have hkeep := h.keeps (fun u => (u.bank, u.strikes, u.now)) fun e u ⟨k, x, he⟩ => by subst he; rfl
  simp only [Prod.mk.injEq] at hkeep
  exact hkeep

theorem requeue_queue {la : Nat} (run : List Nat) (u : At s0) :
    ((after (requeue n p t la run) u).unitsAt (uKey n p)).queue = (u.1.unitsAt (uKey n p)).queue := by
  induction run generalizing u with
  | nil => rfl
  | cons q run ih =>
    obtain ⟨v, hv⟩ : ∃ v : At s0, (modTicket n p q (fun k => k.again (if q = t then some la else k.failLa)) u).2 = v := ⟨_, rfl⟩
    have hrun : after (requeue n p t la (q :: run)) u = after (requeue n p t la run) v := hv ▸ rfl
    have hqueue : (v.1.unitsAt (uKey n p)).queue = (u.1.unitsAt (uKey n p)).queue := by
      subst hv
      unfold modTicket
      exact (congrArg UnitSt.queue (unitsAt_modUnits u)).trans rfl
    rw [hrun, ih, hqueue]

/-- A unit whose run begins anew in front of its queue. -/
def UnitSt.rerun (y : UnitSt) (t : Nat) (run : List Nat) : UnitSt :=
  { y with queue := run ++ y.queue.filter fun r => !run.contains r, reexec := y.reexec + 1, running := some (t / 4) }

/-- The queueing of a run again, before the strike. -/
def failQueue (n p t la : Nat) (run : List Nat) : M s0 Unit := do
  requeue n p t la run
  modUnits (uKey n p) fun y => y.rerun t run

/-- What the queueing again leaves of a unit and of all else. -/
structure QueuedAs (n p : Nat) (run : List Nat) (u y : State) : Prop where
  queue : (y.unitsAt (uKey n p)).queue = run ++ (u.unitsAt (uKey n p)).queue.filter fun r => !run.contains r
  tickets : ∀ r ∈ run, (y.ticket n p r).st = 1 ∧ (y.ticket n p r).result = [] ∧ (y.ticket n p r).words = (u.ticket n p r).words
  bank : y.bank = u.bank
  strikes : y.strikes = u.strikes
  now : y.now = u.now

theorem failQueue_queued {la : Nat} (run : List Nat) (u : At s0) : QueuedAs n p run u.1 (after (failQueue n p t la run) u) := by
  obtain ⟨v, hv⟩ : ∃ v : At s0, (requeue n p t la run u).2 = v := ⟨_, rfl⟩
  have hagain (r : Nat) : AgainAs n p r (r ∈ run) u.1 v.1 := hv ▸ requeue_again run r u
  have hqueue : (v.1.unitsAt (uKey n p)).queue = (u.1.unitsAt (uKey n p)).queue := hv ▸ requeue_queue run u
  obtain ⟨hbank, hstrikes, hnow⟩ : v.1.bank = u.1.bank ∧ v.1.strikes = u.1.strikes ∧ v.1.now = u.1.now :=
    hv ▸ (requeue_units (n := n) (p := p) (t := t) (la := la) run u).units_keep
  have hunit : (after (modUnits (uKey n p) fun y => y.rerun t run) v).unitsAt (uKey n p) = (v.1.unitsAt (uKey n p)).rerun t run :=
    unitsAt_modUnits v
  have hticket (r : Nat) : (after (modUnits (uKey n p) fun y => y.rerun t run) v).ticket n p r = v.1.ticket n p r := by
    unfold State.ticket
    rw [hunit]
    rfl
  unfold failQueue
  rw [after_bind, hv]
  refine ⟨?_, fun r hr => ?_, hbank, hstrikes, hnow⟩
  · rw [hunit, ← hqueue]
    rfl
  · obtain ⟨hwords, hqueued⟩ := hagain r
    rw [hticket]
    obtain ⟨hst, hresult⟩ := hqueued (.inl hr)
    exact ⟨hst, hresult, hwords⟩

theorem failRun_eq (u : At s0) : ∃ la w, (takeFresh u).2 = w ∧
    after (failRun n p t) u = after (refreshUnit n p) (unitStrike n p (failQueue n p t la (u.1.runTickets n p t) w).2).2 := by
  refine ⟨(Config.free (takeFresh u).1).toNat % 2 ^ 31 / 64 * 64, (takeFresh u).2, rfl, ?_⟩
  unfold failRun failQueue
  rw [after_cur_bind]
  dsimp only
  rw [after_bind, after_bind, after_bind, after_bind, bind_run]
  rfl

theorem failRun_fails (u : At s0) (hn : n < 12) (hp : p < 32) (hin : u.1.unitService n p = 0)
    (hmode : u.1.unitMode n p = 2 ∨ u.1.unitMode n p = 3) :
    let y := after (failRun n p t) u
    ∃ v, QueuedAs n p (u.1.runTickets n p t) u.1 v ∧ StruckAs n p v y := by
  obtain ⟨la, w, hw, heq⟩ := failRun_eq (n := n) (p := p) (t := t) u
  have hfresh : Steps (fun e => e = .fresh) u.1 w.1 := hw ▸
    (Only.bind .cur fun _ => .bind (.eff _ rfl) fun _ => .pure _ : Only (fun e => e = .fresh) (takeFresh : M s0 Nat)) u
  obtain ⟨hbank, hunits, hstrikes, hnow⟩ : w.1.bank = u.1.bank ∧ w.1.units = u.1.units ∧ w.1.strikes = u.1.strikes ∧ w.1.now = u.1.now := by
    have hkeep := hfresh.keeps (fun u => (u.bank, u.units, u.strikes, u.now)) fun e u he => by subst he; rfl
    simp only [Prod.mk.injEq] at hkeep
    exact hkeep
  obtain ⟨v, hv⟩ : ∃ v : At s0, (failQueue n p t la (u.1.runTickets n p t) w).2 = v := ⟨_, rfl⟩
  obtain ⟨z, hz⟩ : ∃ z : At s0, (unitStrike n p v).2 = z := ⟨_, rfl⟩
  obtain ⟨hqueue, htickets, hbankV, hstrikesV, hnowV⟩ : QueuedAs n p (u.1.runTickets n p t) w.1 v.1 := hv ▸ failQueue_queued _ w
  have hfld (f : Fld) : v.1.fld f n p = u.1.fld f n p := by
    unfold State.fld
    rw [State.reg, hbankV, hbank]
    rfl
  have hstruck : StruckAs n p v.1 z.1 := hz ▸ unitStrike_struck v hn hp ((hfld _).trans hin)
    (by unfold State.unitMode at hmode ⊢; rw [hfld]; exact hmode)
  have hunitsW : w.1.unitsAt (uKey n p) = u.1.unitsAt (uKey n p) := by
    unfold State.unitsAt
    rw [hunits]
  have hticketW (r : Nat) : w.1.ticket n p r = u.1.ticket n p r := by
    unfold State.ticket
    rw [hunitsW]
  refine ⟨v.1, ⟨hqueue.trans (by rw [hunitsW]), fun r hr => ?_, hbankV.trans hbank, hstrikesV.trans hstrikes, hnowV.trans hnow⟩, ?_⟩
  · rw [← hticketW]
    exact htickets r hr
  · rw [heq, hv, hz]
    exact hstruck.refreshed z

/-- The command of an operation code whose check fails. -/
theorem ticketFails_of {cmd : Nat → Nat → Nat → Instr} {op : Nat}
    (h : ∀ n p t s, s.unitTurn n p t op → exec (cmd n p t) s = M.go s (runTicket op n p t false)) : TicketFails cmd op := by
  intro n p t s hturn
  obtain ⟨hn, hp⟩ := hturn.bounds
  refine answers_of_go (h n p t s hturn) ?_
  obtain ⟨-, hin, hmode, hrun, hop⟩ := hturn
  have hfail : after (runTicket op n p t false) ⟨s, Reach.refl s⟩ = after (failRun n p t) ⟨s, Reach.refl s⟩ := by
    unfold runTicket
    rw [after_cur_bind]
    simp only [hrun, hop, and_self, if_true, Bool.false_eq_true, if_false]
  obtain ⟨v, ⟨hqueue, htickets, -, hstrikes, hnow⟩, ⟨hqueueY, hticketsY, hstrikesY, hstanding⟩⟩ :=
    failRun_fails (n := n) (p := p) (t := t) ⟨s, Reach.refl s⟩ hn hp hin hmode
  dsimp only
  rw [hfail]
  simp only [State.standing, Prod.mk.injEq] at hstanding
  refine ⟨hqueueY.trans hqueue, fun r hr => ?_, ?_, hstanding⟩
  · rw [hticketsY]
    exact htickets r hr
  · rw [hstrikesY, hstrikes, hnow]

/-! ### The unit operations -/

theorem ticketRuns_all :
    TicketRuns (fun n p t => .uopNone n p t) 0x00 ∧ TicketRuns (fun n p t => .uopLoad (uKey n p) t true) 0x01 ∧
    TicketRuns (fun n p t => .uopStore (uKey n p) t true) 0x02 ∧ TicketRuns (fun n p t => .matvec n p t true) 0x10 ∧
    TicketRuns (fun n p t => .expert n p t true) 0x11 ∧ TicketRuns (fun n p t => .elt n p t true) 0x20 ∧
    TicketRuns (fun n p t => .kvWrite (uKey n p) t true) 0x30 ∧ TicketRuns (fun n p t => .attnPart n p t true) 0x31 ∧
    TicketRuns (fun n p t => .join (uKey n p) t true) 0x32 ∧ TicketRuns (fun n p t => .pcopy n p t) 0x40 ∧
    TicketRuns (fun n p t => .selftest n p t true) 0x7E := by
  have named {n p t op : Nat} {s : State} (h : s.unitTurn n p t op) :
      M.go s (unitUop op (uKey n p / 32) (uKey n p % 32) t true) = M.go s (runTicket op n p t true) := by
    obtain ⟨hn, hp⟩ := uKey_parts (n := n) h.bounds.2
    rw [hn, hp]
    exact go_unitUop h true
  exact ⟨ticketRuns_of fun _ _ _ _ _ => rfl, ticketRuns_of fun _ _ _ _ h => named h, ticketRuns_of fun _ _ _ _ h => named h,
    ticketRuns_of fun _ _ _ _ h => go_unitUop h true, ticketRuns_of fun _ _ _ _ h => go_unitUop h true,
    ticketRuns_of fun _ _ _ _ h => go_unitUop h true, ticketRuns_of fun _ _ _ _ h => named h,
    ticketRuns_of fun _ _ _ _ h => go_unitUop h true, ticketRuns_of fun _ _ _ _ h => named h,
    ticketRuns_of fun _ _ _ _ _ => rfl, ticketRuns_of fun _ _ _ _ _ => rfl⟩

theorem ticketFails_all :
    TicketFails (fun n p t => .uopLoad (uKey n p) t false) 0x01 ∧ TicketFails (fun n p t => .uopStore (uKey n p) t false) 0x02 ∧
    TicketFails (fun n p t => .kvWrite (uKey n p) t false) 0x30 ∧ TicketFails (fun n p t => .join (uKey n p) t false) 0x32 ∧
    TicketFails (fun n p t => .matvec n p t false) 0x10 ∧ TicketFails (fun n p t => .expert n p t false) 0x11 ∧
    TicketFails (fun n p t => .elt n p t false) 0x20 ∧ TicketFails (fun n p t => .attnPart n p t false) 0x31 ∧
    TicketFails (fun n p t => .selftest n p t false) 0x7E := by
  have named {n p t op : Nat} {s : State} (h : s.unitTurn n p t op) :
      M.go s (unitUop op (uKey n p / 32) (uKey n p % 32) t false) = M.go s (runTicket op n p t false) := by
    obtain ⟨hn, hp⟩ := uKey_parts (n := n) h.bounds.2
    rw [hn, hp]
    exact go_unitUop h false
  exact ⟨ticketFails_of fun _ _ _ _ h => named h, ticketFails_of fun _ _ _ _ h => named h, ticketFails_of fun _ _ _ _ h => named h,
    ticketFails_of fun _ _ _ _ h => named h, ticketFails_of fun _ _ _ _ h => go_unitUop h false,
    ticketFails_of fun _ _ _ _ h => go_unitUop h false, ticketFails_of fun _ _ _ _ h => go_unitUop h false,
    ticketFails_of fun _ _ _ _ h => go_unitUop h false, ticketFails_of fun _ _ _ _ _ => rfl⟩

end Sys2Proof.Machine
end

section
/-!
PROOFS. The shares of stack-class packets (R212, R224 to R228, R239): where they lie, how they run, and what each counts on its unit.
-/
namespace Sys2Proof.Machine

variable {s0 : State} {α β γ : Type} {part ctx : Nat} {ns : List RegName} {K : Course}

/-! ### Where shares lie -/

section
variable (S : Serves K) {ac : Acc} (h : S.acc ac)
include h

theorem Serves.matvecHomes {p : Pkt} : AlongA K (fun _ => True) (Machine.matvecHomes p ac : A s0 _) :=
  .bind (.mapAll _ fun _ => S.shareHome h) fun _ _ => .ifThen (.throw (Q := fun _ => True) _) fun _ =>
    .ifThen (.throw (Q := fun _ => True) _) fun _ => .pure trivial

theorem Serves.expertHomes {p : Pkt} : AlongA K (fun _ => True) (Machine.expertHomes p ac : A s0 _) :=
  .bind (.mapAll _ fun _ => S.shareHome h) fun _ _ => .ifThen (.throw (Q := fun _ => True) _) fun _ => .pure trivial

theorem Serves.pairHomes {pairs : List (Nat × Nat)} : AlongA K (fun _ => True) (Machine.pairHomes ac pairs : A s0 _) :=
  .mapAll _ fun _ => .bind (S.pageHome h) fun _ _ => .bind (S.pageHome h) fun _ _ => .pure trivial

theorem Serves.eltHomes {p : Pkt} : AlongA K (fun _ => True) (Machine.eltHomes p ac : A s0 _) :=
  .bind (S.pairHomes h) fun _ _ => .ifThen (.throw (Q := fun _ => True) _) fun _ => .pure trivial

theorem Serves.copyHomes {p : Pkt} : AlongA K (fun _ => True) (Machine.copyHomes p ac : A s0 _) :=
  .bind (S.pairHomes h) fun _ _ => .ifThen (.throw (Q := fun _ => True) _) fun _ => .pure trivial

theorem Serves.rdChunks {a n c : Nat} : AlongA K (fun _ => True) (Machine.rdChunks ac a n c : A s0 _) :=
  .bind (S.rd h) fun _ _ => .pure trivial

end

/-! ### Shares run, but for the counters of their units -/

/-- The chunk values of share (a, b) of NEAR_MATVEC, in its scratch. -/
def matvecValues (va : Acc) (p : Pkt) (a b : Nat) : A s0 (List Nat) := do
  let x := p.desc 2
  let w := p.desc 3
  let rows ← mapA (fun m => rdRow va x [m, a, b]) (List.range (x.size 1))
  let cols ← mapA (fun n => rdRow va w [n, a, b]) (List.range (w.size 1))
  let vs := shareAll (a * w.size 0 / 256) ((arithOf x.fmt w.fmt).getD {}) rows cols
  wrVia va [{ va := (matvecShare p a b).scratch, bs := bytes32 vs }]
  pure vs

/-- The chunk values of share u of NEAR_EXPERT, in its scratch. -/
def expertValues (va : Acc) (p : Pkt) (u : Nat) : A s0 (List Nat) := do
  let x := p.desc 2
  let g := p.desc 30
  let d := p.desc 31
  let rows ← mapA (fun m => rdRow va x [m, u]) (List.range (x.size 1))
  let gu ← mapA (fun n => rdRow va g [n, u]) (List.range (g.size 1))
  let dn ← mapA (fun n => rdRow va d [n, u]) (List.range (d.size 1))
  let hs := rows.map fun r => gated (p.f 7 11 8) (productRow ((arithOf x.fmt g.fmt).getD {}) r gu)
  let vs := shareAll (u * d.size 0 / 256) ((arithOf 0 d.fmt).getD {}) hs dn
  wrVia va [{ va := (expertShare p u).scratch, bs := bytes32 vs }]
  pure vs

section
variable (E : Stores K) {va : Acc} (h : E.acc va)
include h

theorem Stores.matvecValues {p : Pkt} {a b : Nat} : AlongA K (fun _ => True) (Machine.matvecValues va p a b : A s0 (List Nat)) :=
  .bind (.mapAll _ fun _ => E.rdRow h) fun _ _ => .bind (.mapAll _ fun _ => E.rdRow h) fun _ _ => .bind (E.wrVia h) fun _ _ => .pure trivial

theorem Stores.expertValues {p : Pkt} {u : Nat} : AlongA K (fun _ => True) (Machine.expertValues va p u : A s0 (List Nat)) :=
  .bind (.mapAll _ fun _ => E.rdRow h) fun _ _ => .bind (.mapAll _ fun _ => E.rdRow h) fun _ _ =>
    .bind (.mapAll _ fun _ => E.rdRow h) fun _ _ => .bind (E.wrVia h) fun _ _ => .pure trivial

end

/-- What LOAD and MATVEC of a share use, for these chunk values. -/
def matvecUse (p : Pkt) (vs : List Nat) : UopUse :=
  let x := p.desc 2
  let w := p.desc 3
  let ar := (arithOf x.fmt w.fmt).getD {}
  let xb := fmtBytes x.fmt (x.size 1 * w.size 0) + if isMx x.fmt then x.size 1 * w.size 0 / 32 else 0
  let wb := fmtBytes w.fmt (w.size 0 * w.size 1) + if isMx w.fmt then w.size 0 * w.size 1 / 32 else 0
  let macs := x.size 1 * w.size 1 * w.size 0
  { macs := macs, rd := xb + wb, wr := 4 * vs.length
    cycles := 24 + ceilDiv xb 80 + 64 + max (ceilDiv wb 80) (ceilDiv macs (lanes ar x.fmt w.fmt)) + ceilDiv (4 * vs.length) 80 }

/-- A share of NEAR_MATVEC runs: its values, then the two commands of its run counted. -/
theorem runMatvecShare_eq (ac : Acc) (p : Pkt) (a b u : Nat) : (runMatvecShare ac p a b u : A s0 Unit) = (do
    let s ← (cur : M s0 _)
    let vs ← matvecValues (s.via ac u) p a b
    (countShare u 2 (matvecUse p vs) : M s0 _)) := by
  unfold runMatvecShare matvecValues
  simp only [bind_assoc, pure_bind]
  rfl

theorem runExpertShare_eq (ac : Acc) (p : Pkt) (u home : Nat) : (runExpertShare ac p u home : A s0 Unit) = (do
    let s ← (cur : M s0 _)
    let vs ← expertValues (s.via ac home) p u
    (countShare home 2 { expertUse ((p.desc 2).size 1) (p.desc 2).fmt (p.desc 30) (p.desc 31) with wr := 4 * vs.length } : M s0 _)) := by
  unfold runExpertShare expertValues
  simp only [bind_assoc, pure_bind]

/-! ### Shares run in memory without an error -/

section
variable (hn : CountsUnits ns) {ac : Acc} (h : ac.part = part ∧ ac.ctx = ctx) {p : Pkt}
include hn h

theorem runMatvecShare_working {a b u : Nat} :
    AlongA (working part ctx ns) (fun _ => True) (runMatvecShare ac p a b u : A s0 Unit) := by
  rw [runMatvecShare_eq]
  exact .bind .cur fun s _ => .bind ((storesWorking hn.toCounting).matvecValues (via_serves h u)) fun _ _ =>
    .lift (countShare_reading hn).working

theorem runExpertShare_working {u home : Nat} :
    AlongA (working part ctx ns) (fun _ => True) (runExpertShare ac p u home : A s0 Unit) := by
  rw [runExpertShare_eq]
  exact .bind .cur fun s _ => .bind ((storesWorking hn.toCounting).expertValues (via_serves h home)) fun _ _ =>
    .lift (countShare_reading hn).working

theorem runEltShare_working {u : Nat} {pairs : List (Int × Int)} :
    AlongA (working part ctx ns) (fun _ => True) (runEltShare ac p u pairs : A s0 Unit) := by
  let E := storesWorking (part := part) (ctx := ctx) hn.toCounting
  refine .bind .cur fun s _ => .bind (.mapAll _ fun x => ?_) fun _ _ => .bind (E.wrVia (via_serves h u)) fun _ _ =>
    .lift (countShare_reading hn).working
  exact .bind (E.rdElem (via_serves h u)) fun _ _ => .bind (.ite (E.rdElem (via_serves h u)) (.pure trivial)) fun _ _ => .pure trivial

omit h in
theorem unitArrive_working {n q r bytes : Nat} : Along (working part ctx ns) (unitArrive n q r bytes : M s0 Unit) :=
  Along.working (.ite (.bind (bump_units hn (by decide)) fun _ => bump_units hn (by decide)) (bump_units hn (by decide)))

theorem runCopyShare_working {hs : List ((Nat × Nat) × Nat × Nat)} {u : Nat} :
    AlongA (working part ctx ns) (fun _ => True) (runCopyShare ac p hs u : A s0 Unit) := by
  let E := storesWorking (part := part) (ctx := ctx) hn.toCounting
  refine .bind .cur fun s _ => .bind (.mapAll _ fun _ => .bind (E.rdElem (via_serves h u)) fun _ _ => .pure trivial) fun _ _ =>
    .bind (.mapAll _ fun _ => .bind (E.rdScale (via_serves h u)) fun _ _ => .pure trivial) fun _ _ =>
    .bind (E.wrVia (via_serves h u)) fun _ _ => ?_
  exact .ifThen (.lift (.each _ fun _ => unitArrive_working hn)) fun _ => .lift (countShare_reading hn).working

/-! ### The works -/

theorem matvecWork_working : AlongA (working part ctx ns) (fun _ => True) (matvecWork p ac : A s0 _) := by
  let S := servesWorking (part := part) (ctx := ctx) hn.toCounting
  exact .bind (S.matvecHomes h) fun _ _ => .bind (.lift (countFallback_reading hn).working) fun _ _ =>
    .bind (.mapAll _ fun _ => runMatvecShare_working hn h) fun _ _ =>
    .bind (.mapAll _ fun _ => .bind (.mapAll _ fun _ => S.rdChunks h) fun _ _ => .pure trivial) fun _ _ => .pure trivial

theorem expertWork_working : AlongA (working part ctx ns) (fun _ => True) (expertWork p ac : A s0 _) := by
  let S := servesWorking (part := part) (ctx := ctx) hn.toCounting
  exact .bind (S.expertHomes h) fun _ _ => .bind (.lift (countFallback_reading hn).working) fun _ _ =>
    .bind (.mapAll _ fun _ => runExpertShare_working hn h) fun _ _ => .bind (.mapAll _ fun _ => S.rdChunks h) fun _ _ => .pure trivial

theorem eltWork_working : AlongA (working part ctx ns) (fun _ => True) (eltWork p ac : A s0 _) :=
  .bind ((servesWorking hn.toCounting).eltHomes h) fun _ _ => .bind (.lift (countFallback_reading hn).working) fun _ _ =>
    .bind (.mapAll _ fun _ => runEltShare_working hn h) fun _ _ => .pure trivial

theorem nearCopyWork_working : AlongA (working part ctx ns) (fun _ => True) (nearCopyWork p ac : A s0 _) :=
  .bind ((servesWorking hn.toCounting).probeAll h) fun _ _ => .bind ((servesWorking hn.toCounting).copyHomes h) fun _ _ =>
    .bind (.lift (countFallback_reading hn).working) fun _ _ => .bind (.mapAll _ fun _ => runCopyShare_working hn h) fun _ _ => .pure trivial

end

/-! ### Operations go on from their works where units are ready -/

theorem nearElt_yields {p : Pkt} {ac : Acc} {us : List Nat} {l k : Log} {t u : At s0} (hready : t.1.unitsReady ac.ctx 1 us)
    (hac : ac.part = part ∧ ac.ctx = ctx) (ht : t.1.Still part ctx) (h : Yields (eltWork p ac) l t us k u) :
    Yields (nearEltBody p ac) l t {} k (openDest ac (p.desc 3) [p.desc 2] u).2 := by
  obtain ⟨hs, k1, u1, hhomes, h⟩ := h.of_bind
  obtain ⟨_, k2, u2, hfall, h⟩ := h.of_bind
  obtain ⟨_, k3, u3, hshares, h⟩ := h.of_bind
  obtain ⟨rfl, rfl, rfl⟩ := h.of_pure
  obtain ⟨hready, -⟩ := hready.read (fun S hac => S.eltHomes hac) ht hac hhomes
  exact .bind hhomes (.bind (needUnits_yields hready) (.bind hfall (.bind hshares (.bind .liftUnit .pure))))

theorem nearCopy_yields {p : Pkt} {ac : Acc} {us : List Nat} {l k : Log} {t u : At s0} (hready : t.1.unitsReady ac.ctx 1 us)
    (hac : ac.part = part ∧ ac.ctx = ctx) (ht : t.1.Still part ctx) (h : Yields (nearCopyWork p ac) l t us k u) :
    Yields (nearCopyBody p ac) l t {} k u := by
  obtain ⟨_, k1, u1, hprobe, h⟩ := h.of_bind
  obtain ⟨hs, k2, u2, hhomes, h⟩ := h.of_bind
  obtain ⟨_, k3, u3, hfall, h⟩ := h.of_bind
  obtain ⟨_, k4, u4, hshares, h⟩ := h.of_bind
  obtain ⟨rfl, rfl, rfl⟩ := h.of_pure
  obtain ⟨hready, hstill⟩ := hready.read (fun S hac => S.probeAll hac) ht hac hprobe
  obtain ⟨hready, -⟩ := hready.read (fun S hac => S.copyHomes hac) hstill hac hhomes
  exact .bind hprobe (.bind hhomes (.bind (needUnits_yields hready) (.bind hfall (.bind hshares .pure))))

/-- What follows the shares of a product: Y's rows, then its destination left open where it does not stand apart. -/
def nearPut (ac : Acc) (y : Desc) (others : List Desc) (m ns : Nat) (groups : List (List Nat)) (dies : State → List Nat) : A s0 Unit := do
  nearOut ac y m groups ns (dies (← (cur : M s0 _)))
  (openDest ac y others : M s0 _)

theorem nearMatvec_yields {p : Pkt} {ac : Acc} {hs : List ((Nat × Nat) × Nat)} {groups : List (List Nat)} {l k k' : Log} {t u w : At s0}
    (hready : t.1.unitsReady ac.ctx 2 (hs.map Prod.snd)) (hac : ac.part = part ∧ ac.ctx = ctx) (ht : t.1.Still part ctx)
    (h : Yields (matvecWork p ac) l t (hs, groups) k u)
    (hput : Yields (nearPut ac (p.desc 4) [p.desc 2, p.desc 3] ((p.desc 2).size 1) ((p.desc 3).size 1) groups
      fun s => matvecDies s ac.ctx p hs) k u () k' w) : Yields (nearMatvecBody p ac) l t {} k' w := by
  obtain ⟨hs', k1, u1, hhomes, h⟩ := h.of_bind
  obtain ⟨_, k2, u2, hfall, h⟩ := h.of_bind
  obtain ⟨_, k3, u3, hshares, h⟩ := h.of_bind
  obtain ⟨groups', hgroups, hpair⟩ := h.of_map
  cases hpair
  obtain ⟨s, k4, u4, hcur, hput⟩ := hput.of_bind
  obtain ⟨_, k5, u5, hout, hopen⟩ := hput.of_bind
  obtain ⟨hready, -⟩ := hready.read (fun S hac => S.matvecHomes hac) ht hac hhomes
  exact .bind hhomes (.bind (needUnits_yields hready) (.bind hfall (.bind hshares (.bind hgroups (.bind hcur (.bind hout
    (.bind hopen .pure)))))))

theorem nearExpert_yields {p : Pkt} {ac : Acc} {homes : List Nat} {groups : List (List Nat)} {l k k' : Log} {t u w : At s0}
    (hready : t.1.unitsReady ac.ctx 2 homes) (hac : ac.part = part ∧ ac.ctx = ctx) (ht : t.1.Still part ctx)
    (h : Yields (expertWork p ac) l t (homes, groups) k u)
    (hput : Yields (nearPut ac (p.desc 4) [p.desc 2, p.desc 30, p.desc 31] ((p.desc 2).size 1) ((p.desc 31).size 1) groups
      fun s => [s.dieFor ac.ctx (homes.headD 0 / 32)]) k u () k' w) : Yields (nearExpertBody p ac) l t {} k' w := by
  obtain ⟨homes', k1, u1, hhomes, h⟩ := h.of_bind
  obtain ⟨_, k2, u2, hfall, h⟩ := h.of_bind
  obtain ⟨_, k3, u3, hshares, h⟩ := h.of_bind
  obtain ⟨shares, hchunks, hpair⟩ := h.of_map
  cases hpair
  obtain ⟨s, k4, u4, hcur, hput⟩ := hput.of_bind
  obtain ⟨_, k5, u5, hout, hopen⟩ := hput.of_bind
  obtain ⟨hready, -⟩ := hready.read (fun S hac => S.expertHomes hac) ht hac hhomes
  exact .bind hhomes (.bind (needUnits_yields hready) (.bind hfall (.bind hshares (.bind hchunks (.bind hcur (.bind hout
    (.bind hopen .pure)))))))

/-- Planned rows of column groups are written, and counted; nothing else that a read finds changes. -/
theorem Yields.nearOut {ac : Acc} {y : Desc} {m n : Nat} {groups : List (List Nat)} {dies : List Nat} {ps : List Wr} {l k : Log}
    {t u : At s0} (hn : CountsRows ns) (h : Yields (wrPlan ac (rowWrites y (groupRows m n groups))) l t ps k u) (hu : u.1.Still part ctx) :
    ∃ v, Yields (Machine.nearOut ac y m groups n dies) l t () k v ∧ Writing part ctx ns (fun f => ps.foldl Wr.onto f) u.1 v.1 := by
  have hws : rowWrites y (groupRows m n groups) = (List.range m).flatMap fun i =>
      (outRow y [i] (groups.flatMap fun g => ((g.drop (i * n)).take n).map of32)).1 := by
    unfold rowWrites groupRows
    rw [List.flatMap_map]
  rw [hws] at h
  have hdo := wrDo_writes (ps := ps) (t := u) hn.toCounting hu
  have hcount : Along (reading part ctx ns) (each (groups.zip dies) fun (g, d) => do
      let cs := (List.range m).map fun i => (outCodes y.fmt (((g.drop (i * n)).take n).map of32)).2.2
      countShared F.cdArraySat_count (2 ^ d) ((cs.map Prod.fst).foldl (· + ·) 0)
      countShared F.cdArrayNan_count (2 ^ d) ((cs.map Prod.snd).foldl (· + ·) 0) : M s0 _) :=
    .each _ fun _ => .bind (countShared_reading hn.toCounting hn.sat) fun _ => countShared_reading hn.toCounting hn.nan
  exact ⟨_, .bind (.bind h .liftUnit) .liftUnit, hdo.trans (hcount.writing (t := ⟨_, (wrDo ps u).2.2⟩) hdo.still)⟩

end Sys2Proof.Machine
end

section
/-!
PROOFS. What a product's shares count on their units (R239): two commands for each share that a unit in service runs.
-/
namespace Sys2Proof.Machine

variable {s0 : State} {α β γ : Type} {part ctx : Nat} {ns : List RegName} {K : Course}

/-! ### Units exist -/

theorem unitsPerRow_le (t : Nat) : unitsPerRow t ≤ 32 ∧ 0 < unitsPerRow t := by
  unfold unitsPerRow
  split <;> decide

theorem place_unit_lt {t dead r u : Nat} (hu : u < 32) : (place t dead r u).2 < 32 := by
  unfold place
  dsimp only
  split
  · rw [List.getD_eq_getElem?_getD]
    cases hget : ((List.range (unitsPerRow t)).filter fun x => !(deadUnits t dead).contains x)[
        ((deadUnits t dead).length * r + (deadUnits t dead).idxOf u) %
          ((List.range (unitsPerRow t)).filter fun x => !(deadUnits t dead).contains x).length]? with
    | none => simp
    | some x =>
      exact lt_of_lt_of_le (List.mem_range.1 (List.mem_of_mem_filter (List.mem_of_getElem? hget))) (unitsPerRow_le t).1
  · exact hu

theorem unitOf_lt (a : Nat) : unitOf a < 32 :=
  have ⟨hle, hpos⟩ := unitsPerRow_le (targetOf a)
  lt_of_lt_of_le (Nat.mod_lt _ hpos) hle

/-- A page of a stack lies in a unit that exists. -/
theorem physUnit_lt {s : State} {a : Nat} (ht : targetOf a < 12) : s.physUnit a < 384 := by
  have hplace := place_unit_lt (t := targetOf a) (dead := s.dead (targetOf a)) (r := rowOf a) (unitOf_lt a)
  unfold State.physUnit
  dsimp only
  rw [if_pos ht]
  omega

/-- Twelve stacks and the deep tier, as rows of 32 units. -/
theorem physUnit_stack (s : State) (a : Nat) : s.physUnit a / 32 < 13 := by
  have hplace := place_unit_lt (t := targetOf a) (dead := s.dead (targetOf a)) (r := rowOf a) (unitOf_lt a)
  unfold State.physUnit
  dsimp only
  split <;> omega

/-- An answer of the list is the answer of one of its elements. -/
theorem Yields.mapA_mem {f : α → A s0 β} {xs : List α} {ys : List β} {l k : Log} {t u : At s0} (h : Yields (mapA f xs) l t ys k u)
    {y : β} (hy : y ∈ ys) : ∃ x ∈ xs, ∃ l t k u, Yields (f x) l t y k u := by
  induction xs generalizing ys l t k u with
  | nil =>
    obtain ⟨rfl, -, -⟩ := h.of_pure
    cases hy
  | cons x xs ih =>
    obtain ⟨z, k1, u1, hx, hrest⟩ := h.of_bind
    obtain ⟨zs, k2, u2, hxs, hp⟩ := hrest.of_bind
    obtain ⟨rfl, -, -⟩ := hp.of_pure
    obtain rfl | hy := List.mem_cons.1 hy
    · exact ⟨x, List.mem_cons_self .., l, t, k1, u1, hx⟩
    · obtain ⟨x', hx', hrun⟩ := ih hxs hy
      exact ⟨x', List.mem_cons_of_mem _ hx', hrun⟩

section
variable {ac : Acc} {l k : Log} {t u : At s0} {h : Nat}

/-- A refusal under a condition has not come where the operation goes on. -/
theorem Yields.of_throwIf {c : Prop} [Decidable c] {e : Stop} {f : PUnit → A s0 β} {b : β}
    (h : Yields (if c then MonadExcept.throw e >>= f else f ()) l t b k u) : Yields (f ()) l t b k u := by
  split at h
  · obtain ⟨_, _, _, hthrow, -⟩ := h.of_bind
    exact absurd hthrow Yields.throw
  · exact h

theorem pageHome_lt {w va : Nat} {write : Bool} (hrun : Yields (pageHome ac w va write) l t h k u) : h < 384 := by
  obtain ⟨a, k1, u1, -, hrun⟩ := hrun.of_bind
  obtain ⟨s, k2, u2, -, hrun⟩ := hrun.of_bind
  replace hrun := Yields.of_throwIf hrun
  split at hrun
  · next ht =>
    obtain ⟨rfl, -, -⟩ := hrun.of_pure
    exact physUnit_lt ht
  · exact absurd hrun Yields.throw

theorem oneHome_lt {w : Nat} {write : Bool} {vas hs : List Nat} (hrun : Yields (oneHome ac w write vas) l t hs k u) : ∀ h ∈ hs, h < 384 :=
  fun _ hmem =>
    have ⟨_, _, _, _, _, _, hpage⟩ := hrun.mapA_mem hmem
    pageHome_lt hpage

theorem shareHome_lt {x : Share} (hrun : Yields (shareHome ac x) l t h k u) : h < 384 := by
  obtain ⟨hs, k1, u1, hparts, hrun⟩ := hrun.of_bind
  obtain ⟨sc, k2, u2, hscratch, hrun⟩ := hrun.of_bind
  have hall : ∀ g ∈ hs.flatten ++ sc, g < 384 := by
    intro g hg
    obtain hg | hg := List.mem_append.1 hg
    · obtain ⟨ys, hys, hg⟩ := List.mem_flatten.1 hg
      obtain ⟨_, _, _, _, _, _, hone⟩ := hparts.mapA_mem hys
      exact oneHome_lt hone g hg
    · exact oneHome_lt hscratch g hg
  dsimp only at hrun
  split at hrun
  · exact absurd hrun Yields.throw
  · next g rest heq =>
    split at hrun
    · obtain ⟨rfl, -, -⟩ := hrun.of_pure
      exact hall _ (heq ▸ List.mem_cons_self ..)
    · exact absurd hrun Yields.throw

theorem matvecHomes_lt {p : Pkt} {hs : List ((Nat × Nat) × Nat)} (hrun : Yields (matvecHomes p ac) l t hs k u) :
    ∀ x ∈ hs, x.2 < 384 := by
  obtain ⟨homes, k1, u1, hhomes, hrun⟩ := hrun.of_bind
  obtain ⟨rfl, -, -⟩ := (Yields.of_throwIf (Yields.of_throwIf hrun)).of_pure
  intro x hx
  obtain ⟨_, _, _, _, _, _, hshare⟩ := hhomes.mapA_mem (List.of_mem_zip (a := x.1) (b := x.2) hx).2
  exact shareHome_lt hshare

theorem expertHomes_lt {p : Pkt} {hs : List Nat} (hrun : Yields (expertHomes p ac) l t hs k u) : ∀ x ∈ hs, x < 384 := by
  obtain ⟨homes, k1, u1, hhomes, hrun⟩ := hrun.of_bind
  obtain ⟨rfl, -, -⟩ := (Yields.of_throwIf hrun).of_pure
  intro x hx
  obtain ⟨_, _, _, _, _, _, hshare⟩ := hhomes.mapA_mem hx
  exact shareHome_lt hshare

theorem expertHomes_length {p : Pkt} {hs : List Nat} (hrun : Yields (expertHomes p ac) l t hs k u) : hs.length = (p.desc 31).size 2 := by
  obtain ⟨homes, k1, u1, hhomes, hrun⟩ := hrun.of_bind
  obtain ⟨rfl, -, -⟩ := (Yields.of_throwIf hrun).of_pure
  rw [hhomes.mapA_length, List.length_range]

end

/-! ### Counts of commands -/

/-- From s to t each unit in service has counted two commands for each time the list names it. -/
structure SharesCounted (us : List Nat) (s t : State) : Prop where
  service : ∀ n p, t.unitService n p = s.unitService n p
  commands : ∀ u < 384, s.unitService (u / 32) (u % 32) = 0 → t.fld F.galUnitCommands_count (u / 32) (u % 32) =
    satAdd 64 (s.fld F.galUnitCommands_count (u / 32) (u % 32)) (2 * us.count u)

/-- What leaves the units' registers counts no share. -/
theorem SharesCounted.of_regs {s t : State} (h : SameRegs ns s t) (hstate : RegName.galUnitState ∉ ns)
    (hcmd : RegName.galUnitCommands ∉ ns) : SharesCounted [] s t where
  service n p := h.fld hstate n p 0
  commands u _ _ := by
    rw [h.fld (f := F.galUnitCommands_count) hcmd]
    exact (satAdd_zero (State.fld_lt ..)).symm

theorem SharesCounted.trans {us vs : List Nat} {s t w : State} (h : SharesCounted us s t) (k : SharesCounted vs t w) :
    SharesCounted (us ++ vs) s w where
  service n p := (k.service n p).trans (h.service n p)
  commands u hu hin := by
    rw [k.commands u hu ((h.service ..).trans hin), h.commands u hu hin, satAdd_satAdd, List.count_append, Nat.mul_add]

theorem SharesCounted.unitsCounted {us : List Nat} {s t : State} (h : SharesCounted us s t) (hus : ∀ u ∈ us, u < 384) :
    UnitsCounted s t us 2 := fun u hu hin => h.commands u (hus u hu) hin

/-- What a share's commands count on its unit. -/
def shareTally (n p : Nat) (x : UopUse) : M s0 Unit := do
  countUop n p x
  bump F.galUnitCommands_count (2 - 1) n p

/-- What a unit's counting leaves of other units' counts. -/
theorem fld_after_bumps_other {ls : List (Fld × Nat)} {n p n' p' : Nat} {g : Fld} (hne : ¬(n' = n ∧ p' = p)) (t : At s0) :
    (after (each ls fun e => bump e.1 e.2 n p) t).fld g n' p' = t.1.fld g n' p' := by
  induction ls generalizing t with
  | nil => rfl
  | cons e ls ih =>
    refine (ih _).trans (fld_after_bump_ne t fun he => hne ?_)
    simp only [Fld.at, Reg.mk.injEq] at he
    exact ⟨he.2.1, he.2.2.1⟩

theorem shareTally_sets {n p : Nat} {x : UopUse} : Only (setsReg (unitFields.map Fld.reg)) (shareTally n p x : M s0 Unit) :=
  .bind countUop_sets fun _ => .bump' _ _ _ _ _ fun v => ⟨_, v, rfl, (by decide : RegName.galUnitCommands ∈ unitFields.map Fld.reg)⟩

theorem shareTally_same {n p : Nat} {x : UopUse} (t : At s0) (hn : n < 12) (hp : p < 32) :
    (after (shareTally n p x) t).fld F.galUnitCommands_count n p = satAdd 64 (t.1.fld F.galUnitCommands_count n p) 2 := by
  obtain ⟨v, hv⟩ : ∃ v : At s0, (countUop n p x t).2 = v := ⟨_, rfl⟩
  have hcommands : v.1.fld F.galUnitCommands_count n p = satAdd 64 (t.1.fld F.galUnitCommands_count n p) 1 :=
    hv ▸ (countUop_counted t hn hp).commands
  have hlast := fld_after_bump (f := F.galUnitCommands_count) (d := 2 - 1) v (unitField_exists (by decide) hn hp) (by decide) (by decide)
  unfold shareTally
  rw [after_bind, hv, hlast, hcommands]
  exact satAdd_satAdd 64 _ 1 1

theorem shareTally_other {n p n' p' : Nat} {x : UopUse} (t : At s0) (hne : ¬(n' = n ∧ p' = p)) :
    (after (shareTally n p x) t).fld F.galUnitCommands_count n' p' = t.1.fld F.galUnitCommands_count n' p' := by
  obtain ⟨v, hv⟩ : ∃ v : At s0, (countUop n p x t).2 = v := ⟨_, rfl⟩
  have hcommands : v.1.fld F.galUnitCommands_count n' p' = t.1.fld F.galUnitCommands_count n' p' := by
    subst hv
    exact fld_after_bumps_other (ls := commandCounts x) hne t
  unfold shareTally
  rw [after_bind, hv, ← hcommands]
  refine fld_after_bump_ne v fun he => hne ?_
  simp only [Fld.at, Reg.mk.injEq] at he
  exact ⟨he.2.1, he.2.2.1⟩

/-- A share on a unit in service is counted; one on cores is not. -/
theorem after_countShare {u : Nat} {x : UopUse} (t : At s0) :
    ∀ r, (after (countShare u 2 x) t).reg r =
      (if t.1.unitService (u / 32) (u % 32) = 0 then after (shareTally (u / 32) (u % 32) x) t else t.1).reg r := by
  intro r
  unfold countShare
  rw [after_cur_bind]
  split
  · obtain ⟨v, hv⟩ : ∃ v : At s0, (countUop (u / 32) (u % 32) x t).2 = v := ⟨_, rfl⟩
    unfold shareTally
    rw [after_bind, after_bind, after_bind, hv]
    rfl
  · rfl

/-- A share's two commands. -/
theorem countShare_counted {u : Nat} {x : UopUse} (hu : u < 384) (t : At s0) : SharesCounted [u] t.1 (after (countShare u 2 x) t) := by
  have hfld (f : Fld) (n p : Nat) : (after (countShare u 2 x) t).fld f n p =
      (if t.1.unitService (u / 32) (u % 32) = 0 then after (shareTally (u / 32) (u % 32) x) t else t.1).fld f n p := by
    unfold State.fld
    rw [after_countShare t]
  refine ⟨fun n p => (hfld _ n p).trans ?_, fun v hv hinv => (hfld _ _ _).trans ?_⟩
  · split
    · exact SameRegs.fld (fun r hr => (shareTally_sets t).reg_eq r hr) (by decide) n p 0
    · rfl
  · by_cases hvu : v = u
    · subst hvu
      rw [if_pos hinv, shareTally_same t (by omega) (Nat.mod_lt _ (by decide)), List.count_singleton_self]
    · have hcount : [u].count v = 0 := by simp [Ne.symm hvu]
      have hzero : satAdd 64 (t.1.fld F.galUnitCommands_count (v / 32) (v % 32)) 0 = t.1.fld F.galUnitCommands_count (v / 32) (v % 32) :=
        satAdd_zero (State.fld_lt ..)
      rw [hcount, Nat.mul_zero, hzero]
      split
      · exact shareTally_other t (by omega)
      · rfl

/-! ### A product counts its shares -/

/-- Each share of a list counts its own commands: so does the list. -/
theorem SharesCounted.mapA {f : α → A s0 β} {g : α → Nat} {xs : List α} {ys : List β} {l k : Log} {t u : At s0}
    (hf : ∀ x ∈ xs, ∀ l t b k u, t.1.Still part ctx → Yields (f x) l t b k u → u.1.Still part ctx ∧ SharesCounted [g x] t.1 u.1)
    (ht : t.1.Still part ctx) (h : Yields (Machine.mapA f xs) l t ys k u) :
    u.1.Still part ctx ∧ SharesCounted (xs.map g) t.1 u.1 := by
  induction xs generalizing ys l t with
  | nil =>
    obtain ⟨-, -, rfl⟩ := h.of_pure
    exact ⟨ht, .of_regs (ns := []) (fun _ _ => rfl) (by simp) (by simp)⟩
  | cons x xs ih =>
    obtain ⟨y, k1, u1, hx, hrest⟩ := h.of_bind
    obtain ⟨ys', k2, u2, hxs, hp⟩ := hrest.of_bind
    obtain ⟨-, rfl, rfl⟩ := hp.of_pure
    obtain ⟨hstill, hfirst⟩ := hf x (List.mem_cons_self ..) _ _ _ _ _ ht hx
    obtain ⟨hstill', hothers⟩ := ih (fun x hx => hf x (List.mem_cons_of_mem _ hx)) hstill hxs
    exact ⟨hstill', hfirst.trans hothers⟩

/-- What keeps to the counters of accesses counts no share. -/
theorem AlongA.noShare {Q : α → Prop} {m : A s0 α} {l k : Log} {t u : At s0} {a : α} (h : AlongA (Machine.working part ctx counters) Q m)
    (hm : Yields m l t a k u) (ht : t.1.Still part ctx) : u.1.Still part ctx ∧ SharesCounted [] t.1 u.1 := by
  obtain ⟨hstill, hsteps, -⟩ := h.yields hm ht
  exact ⟨hstill, .of_regs hsteps.served.regs (by decide) (by decide)⟩

/-- A share whose values are found by accesses alone counts its two commands. -/
theorem share_counted {m : State → A s0 β} {use : β → UopUse} {h : Nat} (hh : h < 384)
    (hm : ∀ s, AlongA (working part ctx counters) (fun _ => True) (m s)) {l k : Log} {t u : At s0} {b : Unit} (ht : t.1.Still part ctx)
    (hrun : Yields (do let s ← (cur : M s0 _); let vs ← m s; (countShare h 2 (use vs) : M s0 _) : A s0 Unit) l t b k u) :
    u.1.Still part ctx ∧ SharesCounted [h] t.1 u.1 := by
  obtain ⟨s, k1, u1, hcur, hrest⟩ := hrun.of_bind
  obtain ⟨vs, k2, u2, hvs, hlast⟩ := hrest.of_bind
  obtain ⟨rfl, -, rfl⟩ := hcur.of_lift
  obtain ⟨hstill, hnone⟩ := (hm _).noShare hvs ht
  obtain ⟨-, -, rfl⟩ := Yields.of_lift (m := countShare h 2 (use vs)) hlast
  obtain ⟨hstill', -⟩ := (countShare_reading countsUnits_counters (part := part) (ctx := ctx) (u := h) (cmds := 2) (x := use vs)) u2 hstill
  exact ⟨hstill', hnone.trans (countShare_counted hh u2)⟩

theorem countFallback_counted {us : List Nat} {l k : Log} {t u : At s0} {b : Unit} (ht : t.1.Still part ctx)
    (h : Yields ((countFallback us : M s0 Unit) : A s0 Unit) l t b k u) : u.1.Still part ctx ∧ SharesCounted [] t.1 u.1 := by
  obtain ⟨-, -, rfl⟩ := h.of_lift
  have hsets : Only (setsReg [.hbSplitFallback]) (countFallback us : M s0 Unit) :=
    .bind .cur fun _ => .ite (.bump' _ _ _ _ _ fun v => ⟨_, v, rfl, by decide⟩) (.pure ())
  exact ⟨(countFallback_reading countsUnits_counters t ht).1,
    .of_regs (fun r hr => (hsets t).reg_eq r hr) (by decide) (by decide)⟩

theorem matvecWork_counted {p : Pkt} {ac : Acc} {hs : List ((Nat × Nat) × Nat)} {groups : List (List Nat)} {l k : Log} {t u : At s0}
    (hac : ac.part = part ∧ ac.ctx = ctx) (ht : t.1.Still part ctx) (h : Yields (matvecWork p ac) l t (hs, groups) k u) :
    SharesCounted (hs.map Prod.snd) t.1 u.1 ∧ ∀ x ∈ hs.map Prod.snd, x < 384 := by
  let E := storesWorking (part := part) (ctx := ctx) counting_counters
  obtain ⟨hs', k1, u1, hhomes, h⟩ := h.of_bind
  obtain ⟨_, k2, u2, hfall, h⟩ := h.of_bind
  obtain ⟨_, k3, u3, hshares, h⟩ := h.of_bind
  obtain ⟨groups', hgroups, hpair⟩ := h.of_map
  cases hpair
  have hbound := matvecHomes_lt hhomes
  obtain ⟨hstill1, hcount1⟩ := (E.matvecHomes hac).noShare hhomes ht
  obtain ⟨hstill2, hcount2⟩ := countFallback_counted hstill1 hfall
  obtain ⟨hstill3, hcount3⟩ := SharesCounted.mapA (g := Prod.snd) (fun x hx l t b k u ht hrun => by
    obtain ⟨⟨a, b⟩, home⟩ := x
    dsimp only at hrun
    rw [runMatvecShare_eq] at hrun
    exact share_counted (hbound _ hx) (fun s => E.matvecValues (via_serves hac _)) ht hrun) hstill2 hshares
  obtain ⟨-, hcount4⟩ := (AlongA.mapAll _ fun _ => .bind (.mapAll _ fun _ => E.rdChunks hac) fun _ _ => .pure trivial).noShare hgroups hstill3
  refine ⟨?_, fun x hx => ?_⟩
  · have hall := ((hcount1.trans hcount2).trans hcount3).trans hcount4
    rwa [List.append_nil, List.nil_append] at hall
  · obtain ⟨y, hy, rfl⟩ := List.mem_map.1 hx
    exact hbound y hy

theorem expertWork_counted {p : Pkt} {ac : Acc} {homes : List Nat} {groups : List (List Nat)} {l k : Log} {t u : At s0}
    (hac : ac.part = part ∧ ac.ctx = ctx) (ht : t.1.Still part ctx) (h : Yields (expertWork p ac) l t (homes, groups) k u) :
    SharesCounted homes t.1 u.1 ∧ ∀ x ∈ homes, x < 384 := by
  let E := storesWorking (part := part) (ctx := ctx) counting_counters
  obtain ⟨homes', k1, u1, hhomes, h⟩ := h.of_bind
  obtain ⟨_, k2, u2, hfall, h⟩ := h.of_bind
  obtain ⟨_, k3, u3, hshares, h⟩ := h.of_bind
  obtain ⟨shares, hchunks, hpair⟩ := h.of_map
  cases hpair
  have hbound := expertHomes_lt hhomes
  have hlen : homes.length = ((p.desc 31).size 2) := expertHomes_length hhomes
  obtain ⟨hstill1, hcount1⟩ := (E.expertHomes hac).noShare hhomes ht
  obtain ⟨hstill2, hcount2⟩ := countFallback_counted hstill1 hfall
  obtain ⟨hstill3, hcount3⟩ := SharesCounted.mapA (g := Prod.snd) (fun x hx l t b k u ht hrun => by
    dsimp only at hrun
    rw [runExpertShare_eq] at hrun
    exact share_counted (hbound x.2 (List.of_mem_zip hx).2) (fun s => E.expertValues (via_serves hac _)) ht hrun) hstill2 hshares
  obtain ⟨-, hcount4⟩ := (AlongA.mapAll _ fun _ => E.rdChunks hac).noShare hchunks hstill3
  refine ⟨?_, hbound⟩
  have hall := ((hcount1.trans hcount2).trans hcount3).trans hcount4
  rwa [List.append_nil, List.nil_append, List.nil_append, List.map_snd_zip (by rw [hlen, List.length_range])] at hall

end Sys2Proof.Machine
end

section
/-!
PROOFS. O39: the stack-class packets end, their units' commands counted, and the units' tickets run or fail.
-/
namespace Sys2Proof.Machine

variable {s0 : State} {α β γ : Type} {part ctx : Nat} {ns : List RegName} {c id op : Nat}

/-- The state after an operation that ends. -/
theorem Yields.runs {s : State} {m : A s α} {a : α} {k : Log} {u : At s} (h : Yields m {} ⟨s, Reach.refl s⟩ a k u) :
    (s.runs m).2.2 = u.1 := by
  unfold State.runs runA
  rw [h]

/-! ### Products -/

/-- The rows of a product put, and its destination left open where it does not stand apart. -/
theorem Yields.nearPut {ac : Acc} {y : Desc} {others : List Desc} {m n : Nat} {groups : List (List Nat)} {dies : State → List Nat}
    {ps : List Wr} {l k : Log} {t u : At s0} (hn : CountsRows ns) (hac : ac.part = part ∧ ac.ctx = ctx)
    (h : Yields (wrPlan ac (rowWrites y (groupRows m n groups))) l t ps k u) (ht : t.1.Still part ctx) :
    ∃ w, Yields (Machine.nearPut ac y others m n groups dies) l t () k w ∧ Steps (Eff.Serves ns) t.1 w.1 ∧
      (y.apart others = true → ∀ a, w.1.seen a = t.1.after ps a) := by
  obtain ⟨hstill, ⟨hsteps, hseen⟩, -⟩ := ((servesReading _ _ hn.toCounting).wrPlan hac).yields h ht
  obtain ⟨v, hout, hwrote⟩ := h.nearOut (dies := dies t.1) hn hstill
  obtain ⟨-, hopen⟩ := openDest_working hn.toCounting hac (z := y) (others := others) v hwrote.still
  refine ⟨_, .bind (.lift (m := cur)) (.bind hout .liftUnit), hsteps.trans (hwrote.steps.trans hopen), fun hapart a => ?_⟩
  rw [openDest_apart hapart]
  change v.1.seen a = _
  rw [hwrote.seen]
  unfold State.after
  rw [funext hseen]

/-- A product of units, by its works, its rows and the units that share it. -/
structure NearProduct (s : State) (c m n : Nat) (y : Desc) (others : List Desc) (work : A s α) (homes : α → List Nat)
    (groups : α → List (List Nat)) (body : A s Fin) (dies : α → State → List Nat) : Prop where
  works : AlongA (working (s.partOf c) c (unitCounters ++ counters)) (fun _ => True) work
  counted : ∀ {v k u}, Yields work {} ⟨s, Reach.refl s⟩ v k u → s.Still (s.partOf c) c →
    SharesCounted (homes v) s u.1 ∧ ∀ x ∈ homes v, x < 384
  goes : ∀ {v k u k' w}, s.unitsReady c 2 (homes v) → s.Still (s.partOf c) c → Yields work {} ⟨s, Reach.refl s⟩ v k u →
    Yields (nearPut (s.acc c) y others m n (groups v) (dies v)) k u () k' w → Yields body {} ⟨s, Reach.refl s⟩ {} k' w

/-- A product's packet ends with its shares counted and its rows stored. -/
theorem NearProduct.ends {cmd : Nat → Nat → Instr} {body : {s0 : State} → Nat → Pkt → Acc → A s0 Fin} (hruns : RunsBody cmd op body)
    (hclass : engineClass op = 0) {s : State} {p : Pkt} {y : Desc} {others : List Desc} {work : A s α} {homes : α → List Nat}
    {groups : α → List (List Nat)} {dies : α → State → List Nat} {m n : Nat} {v : α} {ps : List Wr}
    (h : NearProduct s c m n y others work homes groups (body c p (s.acc c)) dies)
    (hready : s.ready c id op p (body c p (s.acc c))) (hunits : s.unitsReady c 2 (homes v))
    (hfinds : s.finds (plans (s.acc c) work fun v => rowWrites y (groupRows m n (groups v))) (v, ps)) :
    Answers (cmd c id) s fun t => t.ended c id stOk 0 ∧ t.slots = s.slots ∧ UnitsCounted s t (homes v) 2 ∧
      SameRegs (unitCounters ++ counters ++ followers) s t ∧ (y.apart others = true → ∀ a, t.seen a = (s.runs work).2.2.after ps a) := by
  obtain ⟨hissued, hcalm, haff⟩ := hready
  obtain ⟨k, u, k', u', hwork, hplan⟩ := hfinds.of_plans
  obtain ⟨hstill, hsteps, -⟩ := h.works.yields hwork hcalm.still
  obtain ⟨hcounted, hbound⟩ := h.counted hwork hcalm.still
  obtain ⟨w, hput, hrows, hseen⟩ := Yields.nearPut (others := others) (dies := dies v) countsRows_counters ⟨rfl, rfl⟩ hplan hstill
  have hserved : Served (unitCounters ++ counters) s w.1 :=
    (hsteps.trans (hrows.mono fun _ => Eff.Serves.mono (List.subset_append_right ..))).served
  obtain ⟨t, ht, hend⟩ := hruns.ends hissued (.inl hclass) haff (h.goes hunits hcalm.still hwork hput) rfl hserved
  have hall : SharesCounted (homes v) s t := by
    have hlast := (hcounted.trans (.of_regs hrows.served.regs (by decide) (by decide))).trans
      (.of_regs hend.booked.regs (by decide) (by decide))
    rwa [List.append_nil, List.append_nil] at hlast
  refine ⟨t, ht, hend.ended, hend.slots, hall.unitsCounted hbound, hend.regs hserved (fun _ hm => hm) (by decide), fun hapart a => ?_⟩
  rw [hend.booked.store.seen, hseen hapart, hwork.runs]

theorem nearMatvec_product (s : State) (c : Nat) (p : Pkt) :
    NearProduct s c ((p.desc 2).size 1) ((p.desc 3).size 1) (p.desc 4) [p.desc 2, p.desc 3] (matvecWork p (s.acc c))
      (fun v => v.1.map Prod.snd) Prod.snd (nearMatvecBody p (s.acc c)) fun v s => matvecDies s c p v.1 where
  works := matvecWork_working (ac := s.acc c) (part := s.partOf c) (ctx := c) countsUnits_counters ⟨rfl, rfl⟩
  counted hwork hstill := matvecWork_counted (part := s.partOf c) (ctx := c) ⟨rfl, rfl⟩ hstill hwork
  goes hunits hstill hwork hput := nearMatvec_yields (t := ⟨s, Reach.refl s⟩) (ac := s.acc c) hunits ⟨rfl, rfl⟩ hstill hwork hput

theorem nearExpert_product (s : State) (c : Nat) (p : Pkt) :
    NearProduct s c ((p.desc 2).size 1) ((p.desc 31).size 1) (p.desc 4) [p.desc 2, p.desc 30, p.desc 31]
      (expertWork p (s.acc c)) Prod.fst Prod.snd (nearExpertBody p (s.acc c)) fun v s => [s.dieFor c (v.1.headD 0 / 32)] where
  works := expertWork_working (ac := s.acc c) (part := s.partOf c) (ctx := c) countsUnits_counters ⟨rfl, rfl⟩
  counted hwork hstill := expertWork_counted (part := s.partOf c) (ctx := c) ⟨rfl, rfl⟩ hstill hwork
  goes hunits hstill hwork hput := nearExpert_yields (t := ⟨s, Reach.refl s⟩) (ac := s.acc c) hunits ⟨rfl, rfl⟩ hstill hwork hput

/-! ### Elements and copies -/

theorem nearElt_ends (c id : Nat) (s : State) (p : Pkt) (us : List Nat) (hready : s.ready c id 0x42 p (nearEltBody p (s.acc c)))
    (hunits : s.unitsReady c 1 us) (hfinds : s.finds (eltWork p (s.acc c)) us) :
    Answers (.nearElt c id) s fun t => t.ended c id stOk 0 ∧ t.slots = s.slots ∧ SameRegs (unitCounters ++ counters ++ followers) s t ∧
      ((p.desc 3).apart [p.desc 2] = true → SameStore (s.runs (eltWork p (s.acc c))).2.2 t) := by
  obtain ⟨hissued, hcalm, haff⟩ := hready
  have hac : (s.acc c).part = s.partOf c ∧ (s.acc c).ctx = c := ⟨rfl, rfl⟩
  have hwork := hfinds.yields
  obtain ⟨hstill, hsteps, -⟩ := (eltWork_working countsUnits_counters hac).yields hwork hcalm.still
  obtain ⟨u, hu⟩ : ∃ u : At s, (runA (eltWork p (s.acc c)) ⟨s, Reach.refl s⟩).2 = u := ⟨_, rfl⟩
  rw [hu] at hwork hstill hsteps
  have hrun := nearElt_yields (t := ⟨s, Reach.refl s⟩) (ac := s.acc c) hunits hac hcalm.still hwork
  obtain ⟨-, hopen⟩ := openDest_working countsUnits_counters.toCounting hac (z := p.desc 3) (others := [p.desc 2]) u hstill
  have hserved : Served (unitCounters ++ counters) s (openDest (s.acc c) (p.desc 3) [p.desc 2] u).2.1 := (hsteps.trans hopen).served
  obtain ⟨t, ht, hend⟩ := runsBody_nearElt.ends hissued (.inl rfl) haff hrun rfl hserved
  refine ⟨t, ht, hend.ended, hend.slots, hend.regs hserved (fun _ hm => hm) (by decide), fun hapart => ?_⟩
  rw [hwork.runs]
  have hstore := hend.booked.store
  rw [openDest_apart hapart] at hstore
  exact hstore

theorem nearCopy_ends (c id : Nat) (s : State) (p : Pkt) (us : List Nat) (hready : s.ready c id 0x43 p (nearCopyBody p (s.acc c)))
    (hunits : s.unitsReady c 1 us) (hfinds : s.finds (nearCopyWork p (s.acc c)) us) :
    Answers (.nearCopy c id) s fun t => t.ended c id stOk 0 ∧ t.slots = s.slots ∧ SameRegs (unitCounters ++ counters ++ followers) s t ∧
      SameStore (s.runs (nearCopyWork p (s.acc c))).2.2 t := by
  obtain ⟨hissued, hcalm, haff⟩ := hready
  have hac : (s.acc c).part = s.partOf c ∧ (s.acc c).ctx = c := ⟨rfl, rfl⟩
  have hwork := hfinds.yields
  obtain ⟨-, hsteps, -⟩ := (nearCopyWork_working countsUnits_counters hac).yields hwork hcalm.still
  have hrun := nearCopy_yields (t := ⟨s, Reach.refl s⟩) (ac := s.acc c) hunits hac hcalm.still hwork
  obtain ⟨t, ht, hend⟩ := runsBody_nearCopy.ends hissued (.inl rfl) haff hrun rfl hsteps.served
  exact ⟨t, ht, hend.ended, hend.slots, hend.regs hsteps.served (fun _ hm => hm) (by decide), hend.booked.store⟩

end Sys2Proof.Machine
end

section
/-!
PROOFS. NEAR_RAW (R29, R229): its two commands as one run, and how the packet ends for them; O39.
-/
namespace Sys2Proof.Machine

variable {s0 : State} {α β γ : Type} {part ctx : Nat} {ns : List RegName} {K : Course} {c id op : Nat}

/-! ### Raw commands along a course -/

section
variable (S : Serves K) {ac : Acc} (h : S.acc ac)
include h

theorem Serves.rawWord {w home : Nat} {ws : List Nat} {e : Nat × Nat × Bool} :
    AlongA K (fun _ => True) (Machine.rawWord ac w home ws e : A s0 (List Nat)) := by
  unfold Machine.rawWord
  split
  dsimp only
  refine .ite (.pure trivial) (.ifThen (.throw (Q := fun _ => True) _) fun _ => .bind (.mapAll _ fun x => ?_) fun _ _ =>
    .bind .cur fun _ _ => .ifThen (.throw (Q := fun _ => True) _) fun _ => .ifThen (.throw (Q := fun _ => True) _) fun _ => .pure trivial)
  exact .bind (S.tr h) fun _ _ => .bind .cur fun _ _ => .ifThen (.throw (Q := fun _ => True) _) fun _ => .pure trivial

theorem Serves.rawWords {w home : Nat} {es : List (Nat × Nat × Bool)} {ws : List Nat} :
    AlongA K (fun _ => True) (Machine.rawWords ac w home es ws : A s0 (List Nat)) := by
  induction es generalizing ws with
  | nil => exact .pure trivial
  | cons e es ih => exact .bind (S.rawWord h) fun _ _ => ih

end

theorem freeUse_reading (hn : Counting ns) : Along (reading part ctx ns) (freeUse : M s0 UopUse) :=
  .bind (takeFresh_reading hn) fun _ => .bind (takeFresh_reading hn) fun _ => .bind (takeFresh_reading hn) fun _ =>
    .bind (takeFresh_reading hn) fun _ => .pure _

/-- How a command ends is itself an answer. -/
theorem AlongA.asAnswer {Q : α → Prop} {m : A s0 α} (h : AlongA K Q m) :
    AlongA K (fun _ => True) (ExceptT.mk (do let x ← m.run; Pure.pure (.ok x)) : A s0 (Except Stop α)) :=
  .andThen (g := fun x => Pure.pure (.ok x)) h fun _ _ => .pure trivial

section
variable (hn : CountsUnits ns) (hops : [RegName.hbAttnJoins, .galPromBytes, .galUnitWrBytes] ⊆ ns)
include hn hops

theorem rawRun_working {u : UCmd} (hu : (employsWorking (part := part) (ctx := ctx) hn.toCounting hops).Runs u) {pos : Nat} :
    AlongA (working part ctx ns) (fun _ => True) (rawRun u pos : A s0 (Option Stop)) := by
  have hcount {x : UopUse} : Along (working part ctx ns) (countUop u.n u.p x : M s0 Unit) := (countUop_reading hn).working
  unfold rawRun
  refine .bind (AlongA.asAnswer (Employs.uopRun _ hu)) fun r _ => ?_
  dsimp only
  split
  · split
    · exact .bind (.lift hcount) fun _ _ => .pure trivial
    · exact .bind (.lift (freeUse_reading hn.toCounting).working) fun _ _ => .bind (.lift hcount) fun _ _ => .pure trivial
    · exact .bind (.lift hcount) fun _ _ => .pure trivial
  · exact .pure trivial

theorem rawWork_working {ac : Acc} (h : ac.part = part ∧ ac.ctx = ctx) {p : Pkt} :
    AlongA (working part ctx ns) (fun _ => True) (rawWork p ac : A s0 _) := by
  let S := servesWorking (part := part) (ctx := ctx) hn.toCounting
  have hclear {n q : Nat} : AlongA (working part ctx ns) (fun _ => True) ((clearBuf n q : M s0 Unit) : A s0 Unit) :=
    .lift (operates_working hn.toCounting hops clearBuf_operates)
  unfold rawWork
  refine .bind .cur fun s _ => ?_
  dsimp only
  refine .bind (S.rawWords h) fun c1 _ => .bind (S.rawWords h) fun c2 _ =>
    .bind (.lift (countFallback_reading hn).working) fun _ _ => .bind hclear fun _ _ => ?_
  have hunit (ws : List Nat) : (employsWorking (part := part) (ctx := ctx) hn.toCounting hops).Runs
      { n := s.rawHome p / 32, p := s.rawHome p % 32,
        ac := { ac with unit := s.unitService (s.rawHome p / 32) (s.rawHome p % 32) == 0 }, tag := 0xFFFF, ws := ws } := by
    refine ⟨h, ?_, Nat.mod_lt _ (by decide)⟩
    exact physUnit_stack s _
  exact .bind (rawRun_working hn hops (hunit _)) fun _ _ => .bind (rawRun_working hn hops (hunit _)) fun _ _ =>
    .bind hclear fun _ _ => .pure trivial

end

/-! ### How the packet ends -/

/-- How NEAR_RAW ends where its second command ended, by how its first did. -/
def rawEnd : Option Stop → Except Stop Fin
  | none => .ok {}
  | some e => .error e

/-- An operation that ends, and what goes on from its answer. -/
theorem Yields.then {m : A s0 α} {f : α → A s0 β} {a : α} {l k : Log} {t u : At s0} (h : Yields m l t a k u) :
    (m >>= f).run.run l t = (f a).run.run k u := by
  rw [run_bind, h]

theorem nearRaw_run {p : Pkt} {ac : Acc} {x : Option Stop} {l k : Log} {t u : At s0} (hready : t.1.unitsReady ac.ctx 2 [t.1.rawHome p])
    (hac : ac.part = part ∧ ac.ctx = ctx) (ht : t.1.Still part ctx) (hx : x ∈ [none, some .internal])
    (h : Yields (rawWork p ac) l t (x, none) k u) : (nearRawBody p ac).run.run l t = ((rawEnd x, k), u) := by
  obtain ⟨s, k0, u0, hcur, h⟩ := h.of_bind
  obtain ⟨hs, -, hu0⟩ := hcur.of_lift
  obtain ⟨c1, k1, u1, hfirst, h⟩ := h.of_bind
  obtain ⟨c2, k2, u2, hsecond, h⟩ := h.of_bind
  obtain ⟨_, k3, u3, hfall, h⟩ := h.of_bind
  obtain ⟨_, k4, u4, hclear, h⟩ := h.of_bind
  obtain ⟨x', k5, u5, hrun1, h⟩ := h.of_bind
  obtain ⟨y', k6, u6, hrun2, h⟩ := h.of_bind
  obtain ⟨_, k7, u7, hclear2, h⟩ := h.of_bind
  obtain ⟨hpair, rfl, rfl⟩ := h.of_pure
  cases hpair
  have hready' : u0.1.unitsReady ac.ctx 2 [s.rawHome p] := by
    rw [hs, hu0]
    exact hready
  obtain ⟨hready', hstill⟩ := hready'.read (fun S hac => S.rawWords hac) (hu0 ▸ ht) hac hfirst
  obtain ⟨hready', -⟩ := hready'.read (fun S hac => S.rawWords hac) hstill hac hsecond
  unfold nearRawBody
  rw [hcur.then]
  dsimp only
  rw [hfirst.then, hsecond.then, (needUnits_yields hready').then, hfall.then, hclear.then, hrun1.then, hrun2.then, hclear2.then]
  simp only [List.mem_cons, List.not_mem_nil, or_false] at hx
  obtain rfl | rfl := hx <;> rfl

/-- A packet without destinations leaves none where it is abandoned. -/
theorem leaveDests_showing {p : Pkt} {body : Acc → A s0 Fin} (hop : p.op ≠ 0x33) (hout : p.outputs = []) :
    Along showing (leaveDests c p body : M s0 Unit) := by
  have hwhat {m : M s0 (List (Option Nat))} : Along showing (whatIf m : M s0 _) := fun t ht => ⟨ht, showing.refl t.1⟩
  unfold leaveDests
  simp only [hop, false_and, if_false, hout, List.flatMap_nil]
  refine .bind .cur fun s => .bind hwhat fun a => .bind (fun t _ => ⟨trivial, takeFresh_books t, fun _ _ => rfl, rfl⟩) fun _ => .bind hwhat fun b => ?_
  exact .pure _

/-- An operation that ends with ST_INTERNAL leaves all but its packet as it stood, where its destinations are none. -/
theorem runPktWith_internal_booked {s : State} {p : Pkt} {source : Nat} {onAbort : M s Unit} {body : Acc → A s Fin}
    {l : Log} {u : At s} (hp : p.id = id) (hrun : runA (body (s.acc c)) ⟨s, Reach.refl s⟩ = ((.error .internal, l), u))
    (hpays : s.pays p (s.partOf c) l = true) (hab : Along showing onAbort) :
    Booked u.1 (after (runPktWith c p source false onAbort body) ⟨s, Reach.refl s⟩) := by
  rw [runPktWith_kept hrun hpays fun h => Bool.noConfusion h, after_bind]
  obtain ⟨v, hv⟩ : ∃ v : At s, (endRun c p source (.error .internal) l onAbort u).2 = v := ⟨_, rfl⟩
  obtain ⟨hsteps, -, -⟩ := settled_core (c := c) (l := l) (t := u) hp
  obtain ⟨w, hw⟩ : ∃ w : At s, settled c p l u = w := ⟨_, rfl⟩
  rw [hw] at hsteps
  obtain ⟨x, hx⟩ : ∃ x : At s, (onAbort w).2 = x := ⟨_, rfl⟩
  have hbooks : Steps Eff.Books w.1 x.1 := hx ▸ (hab w trivial).2.1
  have hend : v.1 = after (endPkt c p.id stInternal 0) x := by
    rw [← hv]
    refine endRun_internal.trans ?_
    rw [hw, after_bind, hx]
  have hlast : Steps Eff.Books x.1 v.1 := hend ▸ endPkt_books x
  rw [hv]
  exact (((hsteps.trans hbooks).trans hlast).trans (refresh_showing (c := c) v trivial).2.1).booked

/-! ### O39 -/

theorem nearRaw_ends (c id : Nat) (s : State) (p : Pkt) (x : Option Stop) (hready : s.ready c id 0x4F p (nearRawBody p (s.acc c)))
    (hunits : s.unitsReady c 2 [s.rawHome p]) (hx : x ∈ [none, some .internal]) (hfinds : s.finds (rawWork p (s.acc c)) (x, none)) :
    Answers (.nearRaw c id) s fun t => t.ended c id (if x.isNone then stOk else stInternal) 0 ∧ t.slots = s.slots ∧
      SameRegs (.hbAttnJoins :: unitCounters ++ counters ++ followers) s t ∧ SameStore (s.runs (rawWork p (s.acc c))).2.2 t := by
  obtain ⟨hissued, hcalm, haff⟩ := hready
  have hn : CountsUnits (.hbAttnJoins :: unitCounters ++ counters) := ⟨⟨⟨by decide, by decide⟩, by decide, by decide⟩, by decide⟩
  have hac : (s.acc c).part = s.partOf c ∧ (s.acc c).ctx = c := ⟨rfl, rfl⟩
  have hwork := hfinds.yields
  obtain ⟨-, hsteps, -⟩ := (rawWork_working hn (by decide) hac).yields hwork hcalm.still
  obtain ⟨u, hu⟩ : ∃ u : At s, (runA (rawWork p (s.acc c)) ⟨s, Reach.refl s⟩).2 = u := ⟨_, rfl⟩
  rw [hu] at hwork hsteps
  have hserved : Served (.hbAttnJoins :: unitCounters ++ counters) s u.1 := hsteps.served
  have hrun := nearRaw_run (t := ⟨s, Reach.refl s⟩) (ac := s.acc c) hunits hac hcalm.still hx hwork
  rw [hwork.runs]
  simp only [List.mem_cons, List.not_mem_nil, or_false] at hx
  obtain rfl | rfl := hx
  · obtain ⟨t, ht, hend⟩ := runsBody_nearRaw.ends hissued (.inl rfl) haff hrun rfl hserved
    exact ⟨t, ht, hend.ended, hend.slots, hend.regs hserved (fun _ hm => hm) (by decide), hend.booked.store⟩
  · have ⟨_, _, hpkt, hop, _⟩ := hissued
    obtain ⟨hexh, hpays⟩ := haff
    have hlog : (s.runs (nearRawBody p (s.acc c))).2.1 = _ := congrArg (fun y => y.1.2) hrun
    rw [hlog] at hpays
    have hid := State.pkt_id hpkt
    have hbooked := runPktWith_internal_booked (source := 1) (onAbort := leaveDests c p (nearRawBody p)) hid hrun hpays
      (leaveDests_showing (by rw [hop]; decide) (by unfold Pkt.outputs; rw [hop]; rfl))
    have hcore := runPktWith_internal (source := 1) (onAbort := leaveDests c p (nearRawBody p)) hid hrun hpays leaveDests_accesses
    refine answers_of_go (i := .nearRaw c id) (go_opOf hissued 1 nearRawBody) ?_
    rw [hserved.pkt, hpkt] at hcore
    obtain ⟨y, hy, hout⟩ := Option.map_eq_some_iff.1 hcore
    unfold Pkt.outcome Pkt.endsWith at hout
    simp only [Prod.mk.injEq] at hout
    obtain ⟨hst, hstatus, hdetail, -⟩ := hout
    have hend : EndedAs s (after (runPktWith c p 1 false (leaveDests c p (nearRawBody p)) (nearRawBody p)) ⟨s, Reach.refl s⟩) u.1 c id
        { status := stInternal } := ⟨⟨y, hy, hst, hstatus, hdetail⟩, hbooked, hbooked.slots.trans hserved.slots,
          hbooked.adapters.trans hserved.adapters, hbooked.keys.trans hserved.keys⟩
    exact ⟨hend.ended, hend.slots, hend.regs hserved (fun _ hm => hm) (by decide), hend.booked.store⟩

/-- Settles O39: the stack-class packets end by their units' work, and each unit operation's ticket is DONE or its run is queued
again. -/
theorem unitOperationsRunOrFail : Obligations.UnitOperationsRunOrFail := by
  have hruns := ticketRuns_all
  obtain ⟨r0, r1, r2, r3, r4, r5, r6, r7, r8, r9, r10⟩ := hruns
  exact ⟨fun c id s p hs groups ps hready hunits hfinds =>
      (nearMatvec_product s c p).ends runsBody_nearMatvec rfl (v := (hs, groups)) hready hunits hfinds,
    fun c id s p homes groups ps hready hunits hfinds =>
      (nearExpert_product s c p).ends runsBody_nearExpert rfl (v := (homes, groups)) hready hunits hfinds,
    nearElt_ends, nearCopy_ends, nearRaw_ends, r0, r1, r2, r3, r4, r5, r6, r7, r8, r9, r10, ticketFails_all⟩

end Sys2Proof.Machine
end

section
/-!
PROOFS. Snapshots of slots and adapters, and the keys of the index of pages (R279, R286, R306): what their registers show.
-/
namespace Sys2Proof.Machine

variable {s0 : State} {α β γ : Type}

/-! ### Runs that set registers alone -/

/-- Registers of these names alone are set: the rest of the state stays. -/
theorem Steps.sets_rest {ns : List RegName} {s t : State} (h : Steps (setsReg ns) s t) :
    SameRegs ns s t ∧ SameStore s t ∧ t.slots = s.slots ∧ t.adapters = s.adapters ∧ t.keys = s.keys := by
  refine ⟨fun r hr => h.reg_eq r hr, ?_⟩
  rw [h.eq_of_setsReg]
  exact ⟨⟨rfl, rfl, rfl, rfl⟩, rfl, rfl, rfl⟩

theorem setF_sets {ns : List RegName} {f : Fld} {v i j k : Nat} (h : f.reg ∈ ns) : Only (setsReg ns) (setF f v i j k : M s0 Unit) :=
  .setF' _ _ _ _ _ fun x => ⟨_, x, rfl, h⟩

/-! ### A slot's words -/

/-- Words put into a row of registers that hold all of their bits. -/
theorem reg_after_setRow {name : RegName} {f : Nat → Nat} {l : List Nat} (hx : ∀ i ∈ l, (⟨name, i, 0, 0⟩ : Reg).exists = true)
    (hheld : name.held % 2 ^ 64 = 2 ^ 64 - 1) (i : Nat) (t : At s0) :
    (after (each l fun i => setReg ⟨name, i, 0, 0⟩ (f i)) t).reg ⟨name, i, 0, 0⟩ =
      if i ∈ l then f i % 2 ^ 64 else t.1.reg ⟨name, i, 0, 0⟩ := by
  induction l generalizing t with
  | nil => rfl
  | cons j l ih =>
    rw [each_cons, after_bind, ih fun i hi => hx i (List.mem_cons_of_mem _ hi)]
    have hfirst := reg_after_setReg ⟨name, j, 0, 0⟩ ⟨name, i, 0, 0⟩ (f j) t
    by_cases hl : i ∈ l
    · rw [if_pos hl, if_pos (List.mem_cons_of_mem _ hl)]
    · rw [if_neg hl]
      refine hfirst.trans ?_
      by_cases hij : i = j
      · subst hij
        rw [if_pos ⟨rfl, hx i (List.mem_cons_self ..)⟩, if_pos (List.mem_cons_self ..), hheld, Nat.and_two_pow_sub_one_eq_mod,
          Nat.mod_mod]
      · rw [if_neg fun h => hij (congrArg Reg.i h.1), if_neg fun h => (List.mem_cons.1 h).elim hij hl]

theorem reqSnapshot_shows (n : Nat) (s : State) (hn : n < 8192) (hopen : s.opens ⟨.srvReqSel, 0, 0, 0⟩ = true) :
    Answers (.reqSnapshot n) s fun t => t.fld F.srvReqSel_slot = n ∧
      (∀ i, i < 24 → t.reg ⟨.srvReqData, i, 0, 0⟩ = s.slotW n i % 2 ^ 64) ∧
      SameRegs [.srvReqSel, .srvReqData] s t ∧ t.slots = s.slots ∧ SameStore s t := by
  refine answers_of_go (m := atReg ⟨.srvReqSel, 0, 0, 0⟩ (reqSnapshot (n % 8192))) rfl ?_
  rw [Nat.mod_eq_of_lt hn, after_atReg (t := ⟨s, Reach.refl s⟩) hopen]
  obtain ⟨u, hu⟩ : ∃ u : At s, (setF F.srvReqSel_slot n 0 0 0 (⟨s, Reach.refl s⟩ : At s)).2 = u := ⟨_, rfl⟩
  have hsel : u.1.fld F.srvReqSel_slot = n := hu ▸ fld_after_setF _ _ _ _ _ _ (by decide) (by decide) (by
    have : 8192 = 2 ^ (F.srvReqSel_slot.hi + 1 - F.srvReqSel_slot.lo) := by decide
    omega)
  have hsets : Only (setsReg [.srvReqSel, .srvReqData]) (reqSnapshot n : M s Unit) :=
    .bind .cur fun _ => .bind (setF_sets (by decide)) fun _ => .each _ fun i => .setReg' _ _ fun x => ⟨_, x, rfl, by simp⟩
  obtain ⟨hregs, hstore, hslots, -⟩ := (hsets ⟨s, Reach.refl s⟩).sets_rest
  have hrow : Only (setsReg [.srvReqData]) (each (List.range 24) fun i => setReg ⟨.srvReqData, i, 0, 0⟩ (s.slotW n i) : M s Unit) :=
    .each _ fun i => .setReg' _ _ fun x => ⟨_, x, rfl, List.mem_cons_self ..⟩
  have hrun : after (reqSnapshot n) (⟨s, Reach.refl s⟩ : At s) =
      after (each (List.range 24) fun i => setReg ⟨.srvReqData, i, 0, 0⟩ (s.slotW n i)) u := by
    unfold reqSnapshot
    rw [after_cur_bind, after_bind, hu]
  rw [hrun] at hregs hstore hslots ⊢
  refine ⟨?_, fun i hi => ?_, hregs, hslots, hstore⟩
  · exact ((hrow u).sets_rest.1.fld (by decide) 0 0 0).trans hsel
  · rw [reg_after_setRow (fun i hi => ?_) (by decide), if_pos (List.mem_range.2 hi)]
    have := List.mem_range.1 hi
    simp [Reg.exists, RegName.count, RegName.spec, this]

/-! ### An adapter's fields -/

/-- Two fields share no bit. -/
def Fld.apart (f g : Fld) : Bool := f.reg != g.reg || decide (f.hi < g.lo) || decide (g.hi < f.lo)

theorem fld_after_setF_apart {f g : Fld} {v : Nat} (t : At s0) (hf : f.fits = true) (hg : g.fits = true) (h : f.apart g = true) :
    (after (setF f v) t).fld g = t.1.fld g := by
  simp only [Fld.apart, Bool.or_eq_true, bne_iff_ne, ne_eq, decide_eq_true_eq] at h
  obtain (hreg | hlo) | hhi := h
  · exact fld_after_setF_ne f g v _ _ _ _ _ _ t fun he => hreg (congrArg Reg.name he).symm
  · exact fld_after_setF_other f g v _ _ _ _ _ _ t hf hg (.inl hlo)
  · exact fld_after_setF_other f g v _ _ _ _ _ _ t hf hg (.inr hhi)

/-- Fields set one after another, no two sharing a bit, each read the value set. -/
theorem fld_after_setFs {ls : List (Fld × Nat)} (hls : ∀ e ∈ ls, (e.1.at 0 0 0).exists = true ∧ e.1.fits = true)
    (hapart : (ls.map Prod.fst).Pairwise fun f g => g.apart f = true) {f : Fld} {v : Nat} (hmem : (f, v) ∈ ls)
    (hv : v < 2 ^ (f.hi + 1 - f.lo)) (t : At s0) : (after (each ls fun e => setF e.1 e.2) t).fld f = v := by
  induction ls generalizing t with
  | nil => cases hmem
  | cons e ls ih =>
    rw [List.map_cons, List.pairwise_cons] at hapart
    obtain ⟨hfirst, hrest⟩ := hapart
    rw [each_cons, after_bind]
    obtain rfl | hmem := List.mem_cons.1 hmem
    · obtain ⟨hx, hfit⟩ := hls _ (List.mem_cons_self ..)
      have hothers (u : At s0) : (after (each ls fun e => setF e.1 e.2) u).fld f = u.1.fld f := by
        clear ih hrest hv hmem
        induction ls generalizing u with
        | nil => rfl
        | cons g ls ih =>
          rw [each_cons, after_bind, ih (fun e he => hls e (by simp only [List.mem_cons] at he ⊢; tauto))
            (fun g hg => hfirst g (List.mem_cons_of_mem _ hg))]
          exact fld_after_setF_apart u (hls g (by simp)).2 hfit (hfirst g.1 (by simp))
      exact (hothers _).trans (fld_after_setF f v 0 0 0 t hx hfit hv)
    · exact ih (fun e he => hls e (List.mem_cons_of_mem _ he)) hrest hmem _

/-- What an adapter's snapshot sets. -/
def adapterShows (n : Nat) (x : Adapter) : List (Fld × Nat) :=
  [(F.srvAdapterSel_adapter, n), (F.srvAdapterData0_image, if x.bound then x.image else 0), (F.srvAdapterData1_users, x.users),
    (F.srvAdapterData1_bound, b2n x.bound), (F.srvAdapterData1_partition, x.part), (F.srvAdapterData1_rank, x.rank)]

theorem adapterSnapshot_shows (n : Nat) (s : State) (hn : n < 4096) (hopen : s.opens ⟨.srvAdapterSel, 0, 0, 0⟩ = true) :
    Answers (.adapterSnapshot n) s fun t =>
      let x := s.adaptersAt n
      t.fld F.srvAdapterSel_adapter = n ∧ t.flag F.srvAdapterData1_bound = x.bound ∧
      (x.image < 2 ^ 52 → t.fld F.srvAdapterData0_image = if x.bound then x.image else 0) ∧
      (x.part < 16 → t.fld F.srvAdapterData1_partition = x.part) ∧ (x.rank < 256 → t.fld F.srvAdapterData1_rank = x.rank) ∧
      (x.users < 2 ^ 14 → t.fld F.srvAdapterData1_users = x.users) ∧
      SameRegs [.srvAdapterSel, .srvAdapterData0, .srvAdapterData1] s t ∧ t.adapters = s.adapters ∧ SameStore s t := by
  refine answers_of_go (m := atReg ⟨.srvAdapterSel, 0, 0, 0⟩ (adapterSnapshot (n % 4096))) rfl ?_
  rw [Nat.mod_eq_of_lt hn, after_atReg (t := ⟨s, Reach.refl s⟩) hopen]
  have hrun : after (adapterSnapshot n) (⟨s, Reach.refl s⟩ : At s) =
      after (each (adapterShows n (s.adaptersAt n)) fun e => setF e.1 e.2) (⟨s, Reach.refl s⟩ : At s) := by
    unfold adapterSnapshot adapterShows
    rw [after_cur_bind]
    simp only [each_cons, after_bind, setFlag]
    rfl
  have hfields : (adapterShows n (s.adaptersAt n)).map Prod.fst = [F.srvAdapterSel_adapter, F.srvAdapterData0_image,
    F.srvAdapterData1_users, F.srvAdapterData1_bound, F.srvAdapterData1_partition, F.srvAdapterData1_rank] := rfl
  have hall : ∀ f ∈ (adapterShows n (s.adaptersAt n)).map Prod.fst, (f.at 0 0 0).exists = true ∧ f.fits = true ∧
      f.reg ∈ [RegName.srvAdapterSel, .srvAdapterData0, .srvAdapterData1] := by
    rw [hfields]
    decide
  have hread {f : Fld} {v : Nat} (hmem : (f, v) ∈ adapterShows n (s.adaptersAt n)) (hv : v < 2 ^ (f.hi + 1 - f.lo)) :=
    fld_after_setFs (fun e he => have ⟨hx, hfit, _⟩ := hall e.1 (List.mem_map_of_mem he); ⟨hx, hfit⟩) (hfields ▸ by decide) hmem hv
      (⟨s, Reach.refl s⟩ : At s)
  have hsets : Only (setsReg [.srvAdapterSel, .srvAdapterData0, .srvAdapterData1])
      (each (adapterShows n (s.adaptersAt n)) (fun e => setF e.1 e.2) : M s Unit) := by
    generalize adapterShows n (s.adaptersAt n) = ls at hall
    induction ls with
    | nil => exact .pure ()
    | cons e ls ih =>
      exact .bind (setF_sets (hall e.1 (by simp)).2.2) fun _ => ih fun f hf => hall f (by simp only [List.map_cons, List.mem_cons]; exact .inr hf)
  obtain ⟨hregs, hstore, -, hadapters, -⟩ := (hsets ⟨s, Reach.refl s⟩).sets_rest
  rw [hrun]
  dsimp only
  refine ⟨hread (by simp [adapterShows]) hn, ?_, fun h => ?_, fun h => hread (by simp [adapterShows]) h,
    fun h => hread (by simp [adapterShows]) h,
    fun h => hread (by simp [adapterShows]) (h.trans (by decide)), hregs, hadapters, hstore⟩
  · have hb := hread (f := F.srvAdapterData1_bound) (v := b2n (s.adaptersAt n).bound) (by simp [adapterShows])
      (by cases (s.adaptersAt n).bound <;> decide)
    unfold State.flag
    rw [hb]
    cases (s.adaptersAt n).bound <;> rfl
  · refine hread (by simp [adapterShows]) ?_
    split
    · exact h
    · decide

/-! ### Keys -/

theorem keysAt_keys {k k' : Nat} {v : Option Nat} (u : At s0) :
    (after (eff (.keys k v)) u).keysAt k' = if k' = k then v else u.1.keysAt k' := by
  change Tab.get none (Tab.put none u.1.keys k v) k' = _
  rw [Tab.get_put]
  rfl

theorem keysAt_congr {s t : State} (h : t.keys = s.keys) (k : Nat) : t.keysAt k = s.keysAt k := by
  unfold State.keysAt
  rw [h]

theorem pfxKeyClear_clears (s : State) (hopen : s.opens ⟨.srvPfxKeyCtrl, 0, 0, 0⟩ = true) : Answers .pfxKeyClear s fun t =>
    t.keysAt s.keySel = none ∧ (∀ k, k ≠ s.keySel → t.keysAt k = s.keysAt k) ∧ t.flag F.srvPfxKeyStatus_valid = false ∧
    SameRegs [.srvPfxKeyStatus] s t ∧ SameStore s t := by
  refine answers_of_go (m := atReg ⟨.srvPfxKeyCtrl, 0, 0, 0⟩ keyClear) rfl ?_
  rw [after_atReg (t := ⟨s, Reach.refl s⟩) hopen]
  obtain ⟨u, hu⟩ : ∃ u : At s, (eff (.keys s.keySel none) (⟨s, Reach.refl s⟩ : At s)).2 = u := ⟨_, rfl⟩
  have hkeys (k : Nat) : u.1.keysAt k = if k = s.keySel then none else s.keysAt k := hu ▸ keysAt_keys _
  have hrest : u.1 = { s with keys := u.1.keys } := by subst hu; rfl
  have hsel : u.1.keySel = s.keySel := by rw [hrest]; rfl
  have hsets : Only (setsReg [.srvPfxKeyStatus]) (setFlag F.srvPfxKeyStatus_valid (u.1.keysAt u.1.keySel).isSome : M s Unit) :=
    setF_sets (by decide)
  obtain ⟨hregs, hstore, -, -, hsame⟩ := (hsets u).sets_rest
  have hrun : after keyClear (⟨s, Reach.refl s⟩ : At s) = after (setFlag F.srvPfxKeyStatus_valid (u.1.keysAt u.1.keySel).isSome) u := by
    unfold keyClear refreshKey
    rw [after_cur_bind, after_bind, hu, after_cur_bind]
  rw [hrun]
  have hat (k : Nat) := keysAt_congr hsame k
  refine ⟨?_, fun k hk => ?_, ?_, fun r hr => (hregs r hr).trans (by rw [hrest]; rfl), .trans (by rw [hrest]; exact .refl _) hstore⟩
  · rw [hat, hkeys, if_pos rfl]
  · rw [hat, hkeys, if_neg hk]
  · rw [flag_after_setFlag _ (by decide) (by decide), hsel, hkeys, if_pos rfl]
    rfl

theorem pfxKeyLoad_loads (s : State) (hopen : s.opens ⟨.srvPfxKeyCtrl, 0, 0, 0⟩ = true) : Answers .pfxKeyLoad s fun t =>
    t.keysAt s.keySel = some (s.fld F.srvPfxKeyLo_key + 2 ^ 64 * s.fld F.srvPfxKeyHi_key) ∧
    (∀ k, k ≠ s.keySel → t.keysAt k = s.keysAt k) ∧ t.fld F.srvPfxKeyLo_key = 0 ∧ t.fld F.srvPfxKeyHi_key = 0 ∧
    t.flag F.srvPfxKeyStatus_valid = true ∧ SameRegs [.srvPfxKeyLo, .srvPfxKeyHi, .srvPfxKeyStatus] s t ∧ SameStore s t := by
  refine answers_of_go (m := atReg ⟨.srvPfxKeyCtrl, 0, 0, 0⟩ keyLoad) rfl ?_
  rw [after_atReg (t := ⟨s, Reach.refl s⟩) hopen]
  obtain ⟨u, hu⟩ : ∃ u : At s, (eff (.keys s.keySel (some (s.fld F.srvPfxKeyLo_key + 2 ^ 64 * s.fld F.srvPfxKeyHi_key)))
    (⟨s, Reach.refl s⟩ : At s)).2 = u := ⟨_, rfl⟩
  obtain ⟨v, hv⟩ : ∃ v : At s, (setF F.srvPfxKeyLo_key 0 0 0 0 u).2 = v := ⟨_, rfl⟩
  obtain ⟨w, hw⟩ : ∃ w : At s, (setF F.srvPfxKeyHi_key 0 0 0 0 v).2 = w := ⟨_, rfl⟩
  have hkeys (k : Nat) : u.1.keysAt k =
      if k = s.keySel then some (s.fld F.srvPfxKeyLo_key + 2 ^ 64 * s.fld F.srvPfxKeyHi_key) else s.keysAt k := hu ▸ keysAt_keys _
  have hrest : u.1 = { s with keys := u.1.keys } := by subst hu; rfl
  have hlo : v.1.fld F.srvPfxKeyLo_key = 0 := hv ▸ fld_after_setF _ _ _ _ _ u (by decide) (by decide) (by decide)
  have hhi : w.1.fld F.srvPfxKeyHi_key = 0 := hw ▸ fld_after_setF _ _ _ _ _ v (by decide) (by decide) (by decide)
  have hlo' : w.1.fld F.srvPfxKeyLo_key = 0 := (hw ▸ fld_after_setF_apart v (by decide) (by decide) (by decide) :
    w.1.fld F.srvPfxKeyLo_key = v.1.fld F.srvPfxKeyLo_key).trans hlo
  have hregsV : Steps (setsReg [.srvPfxKeyLo, .srvPfxKeyHi, .srvPfxKeyStatus]) u.1 v.1 := hv ▸ setF_sets (by decide) u
  have hregsW : Steps (setsReg [.srvPfxKeyLo, .srvPfxKeyHi, .srvPfxKeyStatus]) v.1 w.1 := hw ▸ setF_sets (by decide) v
  have hsteps := hregsV.trans hregsW
  have hsel : w.1.keySel = s.keySel := by
    obtain ⟨hregs, -⟩ := hsteps.sets_rest
    unfold State.keySel State.flag
    rw [hregs.fld (by decide), hregs.fld (by decide), hrest]
    rfl
  have hstatus : Only (setsReg [.srvPfxKeyStatus]) (setFlag F.srvPfxKeyStatus_valid (w.1.keysAt w.1.keySel).isSome : M s Unit) :=
    setF_sets (by decide)
  obtain ⟨hregsX, -, -, -, -⟩ := (hstatus w).sets_rest
  obtain ⟨hregs, hstore, -, -, hsame⟩ := (hsteps.trans ((hstatus w).mono fun e ⟨r, x, he, hr⟩ => ⟨r, x, he, by
    simp only [List.mem_cons, List.not_mem_nil, or_false] at hr ⊢
    exact .inr (.inr hr)⟩)).sets_rest
  obtain ⟨-, -, -, -, hsameW⟩ := hsteps.sets_rest
  have hrun : after keyLoad (⟨s, Reach.refl s⟩ : At s) = after (setFlag F.srvPfxKeyStatus_valid (w.1.keysAt w.1.keySel).isSome) w := by
    unfold keyLoad refreshKey
    rw [after_cur_bind, after_bind, hu, after_bind, hv, after_bind, hw, after_cur_bind]
  rw [hrun]
  refine ⟨?_, fun k hk => ?_, ?_, ?_, ?_, fun r hr => (hregs r hr).trans (by rw [hrest]; rfl), .trans (by rw [hrest]; exact .refl _) hstore⟩
  · rw [keysAt_congr hsame, hkeys, if_pos rfl]
  · rw [keysAt_congr hsame, hkeys, if_neg hk]
  · exact (hregsX.fld (by decide) 0 0 0).trans hlo'
  · exact (hregsX.fld (by decide) 0 0 0).trans hhi
  · rw [flag_after_setFlag _ (by decide) (by decide), hsel, keysAt_congr hsameW, hkeys, if_pos rfl]
    rfl

end Sys2Proof.Machine
end

section
/-!
PROOFS. PREFIX_LOOKUP, PREFIX_INSERT and KV_MOVE (R270, R273 to R276): what they store, and what they count.
-/
namespace Sys2Proof.Machine

variable {s0 : State} {α β γ : Type} {part ctx : Nat} {ns : List RegName} {c id op : Nat} {K : Course}

/-! ### Operations that end with counts -/

/-- Counts that an operation ends with: of registers apart, none of which accesses count in. -/
structure Tallies (cs : List (Fld × Nat)) : Prop where
  fields : ∀ e ∈ cs, (e.1.at 0 0 0).exists = true ∧ e.1.fits = true ∧ wrapsRound e.1.reg = false ∧ e.1.hi + 1 - e.1.lo = 64
  nodup : ((cs.map Prod.fst).map Fld.reg).Nodup
  apart : ∀ n ∈ (cs.map Prod.fst).map Fld.reg, n ∉ counters ∧ n ∉ RegName.stkRegGranules :: .dtRegGranules :: followers

theorem tally_sets {cs : List (Fld × Nat)} :
    Only (setsReg ((cs.map Prod.fst).map Fld.reg)) (each cs (fun e => bump e.1 e.2) : M s0 Unit) := by
  suffices h : ∀ ls : List (Fld × Nat), (∀ e ∈ ls, e ∈ cs) →
      Only (setsReg ((cs.map Prod.fst).map Fld.reg)) (each ls (fun e => bump e.1 e.2) : M s0 Unit) from h cs fun _ h => h
  intro ls hls
  induction ls with
  | nil => exact .pure ()
  | cons e ls ih =>
    exact .bind (.bump' _ _ _ _ _ fun v => ⟨_, v, rfl, List.mem_map_of_mem (List.mem_map_of_mem (hls e (List.mem_cons_self ..)))⟩)
      fun _ => ih fun e he => hls e (List.mem_cons_of_mem _ he)

/-- What the end of an operation with counts leaves, from the state before them. -/
structure TalliedAs (s t x : State) (c id : Nat) (cs : List (Fld × Nat)) : Prop where
  ended : t.ended c id stOk 0
  store : SameStore x t
  slots : t.slots = s.slots
  keys : t.keys = s.keys
  counts : ∀ f d, (f, d) ∈ cs → t.fld f = satAdd 64 (s.fld f) d
  regs : SameRegs ((cs.map Prod.fst).map Fld.reg ++ counters ++ followers) s t

theorem RunsBody.endsTallied {cmd : Nat → Nat → Instr} {body : {s0 : State} → Nat → Pkt → Acc → A s0 Fin} (h : RunsBody cmd op body)
    {s : State} {p : Pkt} (hready : s.ready c id op p (body c p (s.acc c))) (hturn : s.servedNow c id op) {cs : List (Fld × Nat)}
    (hcs : Tallies cs) {x : At s} (hx : Steps (Eff.Serves counters) s x.1) {k : Log}
    (hrun : Yields (body c p (s.acc c)) {} ⟨s, Reach.refl s⟩ {} k (each cs (fun e => bump e.1 e.2) x).2) :
    Answers (cmd c id) s fun t => TalliedAs s t x.1 c id cs := by
  obtain ⟨hissued, -, haff⟩ := hready
  obtain ⟨y, hy⟩ : ∃ y : At s, (each cs (fun e => bump e.1 e.2) x).2 = y := ⟨_, rfl⟩
  have hcount : Steps (setsReg ((cs.map Prod.fst).map Fld.reg)) x.1 y.1 := hy ▸ tally_sets x
  obtain ⟨-, hstore, -⟩ := hcount.sets_rest
  have hserved : Served ((cs.map Prod.fst).map Fld.reg ++ counters) s y.1 := by
    refine (hx.mono fun _ => Eff.Serves.mono (List.subset_append_right ..)).trans (hcount.mono fun e he => ?_) |>.served
    obtain ⟨r, v, rfl, hr⟩ := he
    exact List.mem_append_left _ hr
  rw [hy] at hrun
  obtain ⟨t, ht, hend⟩ := h.ends hissued hturn haff hrun rfl hserved
  refine ⟨t, ht, hend.ended, hstore.trans hend.booked.store, hend.slots, hend.keys, fun f d hmem => ?_,
    hend.regs hserved (fun _ hm => hm) fun n hm => List.mem_append_right _ ((by decide : [_, _] ⊆ counters) hm)⟩
  have hname : f.reg ∈ (cs.map Prod.fst).map Fld.reg := List.mem_map_of_mem (List.mem_map_of_mem hmem)
  obtain ⟨hcounters, hbooks⟩ := hcs.apart _ hname
  obtain ⟨-, -, -, hwidth⟩ := hcs.fields _ hmem
  have hlast := fld_after_bumps (fun e he => (hcs.fields e he).1)
    (fun e he => ⟨(hcs.fields e he).2.1, (hcs.fields e he).2.2.1⟩) hcs.nodup hmem x
  have hlast' : y.1.fld f = satAdd (f.hi + 1 - f.lo) (x.1.fld f) d := hy ▸ hlast
  rw [hend.booked.regs.fld hbooks, hlast', hx.served.regs.fld hcounters, hwidth]

/-- Planned writes are made, and counted. -/
theorem Yields.wrAll {ac : Acc} {ws ps : List Wr} {l k : Log} {t u : At s0} (hn : Counting ns) (h : Yields (wrPlan ac ws) l t ps k u)
    (hu : u.1.Still part ctx) :
    ∃ v, Yields (Machine.wrAll ac ws) l t () k v ∧ Writing part ctx ns (fun f => ps.foldl Wr.onto f) u.1 v.1 :=
  ⟨_, .bind h .liftUnit, wrDo_writes hn hu⟩

/-- A planned write after a work: the state, and what a read finds in it. -/
theorem Yields.store {ac : Acc} {ws ps : List Wr} {l k : Log} {t u : At s0} (hn : Counting ns) (hac : ac.part = part ∧ ac.ctx = ctx)
    (h : Yields (wrPlan ac ws) l t ps k u) (ht : t.1.Still part ctx) :
    ∃ v, Yields (Machine.wrAll ac ws) l t () k v ∧ v.1.Still part ctx ∧ Steps (Eff.Serves ns) t.1 v.1 ∧
      ∀ a, v.1.seen a = t.1.after ps a := by
  obtain ⟨hstill, ⟨hsteps, hseen⟩, -⟩ := ((servesReading part ctx hn).wrPlan hac).yields h ht
  obtain ⟨v, hrun, hwrote⟩ := Yields.wrAll hn h hstill
  refine ⟨v, hrun, hwrote.still, hsteps.trans hwrote.steps, fun a => ?_⟩
  rw [hwrote.seen]
  unfold State.after
  rw [funext hseen]

/-! ### The hashes and the index -/

section
variable (S : Serves K) {ac : Acc} (h : S.acc ac)
include h

theorem Serves.pfxChain {p : Pkt} {left i x : Nat} : AlongA K (fun _ => True) (Machine.pfxChain ac p left i x : A s0 (List Nat)) := by
  induction left generalizing i x with
  | zero => exact .pure trivial
  | succ left ih =>
    exact .bind (Q := fun _ => True) (.ite (.pure trivial) (.bind (S.rd h) fun _ _ => .pure trivial)) fun _ _ => .bind ih fun _ _ => .pure trivial

theorem Serves.pfxHashes {p : Pkt} : AlongA K (fun _ => True) (Machine.pfxHashes ac p : A s0 (List Nat)) := S.pfxChain h

theorem Serves.pfxFind {p : Pkt} {x i : Nat} : AlongA K (fun _ => True) (Machine.pfxFind ac p x i : A s0 _) :=
  .bind .cur fun _ _ => .bind (S.rdWords h) fun _ _ => .pure trivial

end

theorem Stores.lookupPages (E : Stores K) {ac : Acc} (h : E.acc ac) {p : Pkt} {live : Bool} {i : Nat} {hs : List Nat} :
    AlongA K (fun _ => True) (Machine.lookupPages ac p live i hs : A s0 _) := by
  induction hs generalizing live i with
  | nil => exact .pure trivial
  | cons x hs ih =>
    refine .bind (.ite (E.pfxFind h) (.pure trivial)) fun hit _ => ?_
    match hit with
    | some _ => exact .bind .cur fun _ _ => .bind (E.wrAll E.one h) fun _ _ => .bind ih fun _ _ => .pure trivial
    | none => exact .bind ih fun _ _ => .pure trivial

theorem Stores.insertPage (E : Stores K) {ac : Acc} (h : E.acc ac) {p : Pkt} {live : Bool} {i x : Nat} :
    AlongA K (fun _ => True) (Machine.insertPage ac p live i x : A s0 _) := by
  refine .ite (.pure trivial) (.bind (E.pfxFind h) fun hit _ => ?_)
  match hit with
  | some _ => exact .pure trivial
  | none =>
    refine .bind .cur fun s _ => .bind (E.rdWords h) fun ws _ => .bind (E.rdWord h) fun value _ => ?_
    dsimp only
    split
    · exact .bind (E.wrAll E.one h) fun _ _ => .pure trivial
    · split
      · exact .bind (E.wrAll E.one h) fun _ _ => .pure trivial
      · exact .pure trivial

theorem Stores.insertPages (E : Stores K) {ac : Acc} (h : E.acc ac) {p : Pkt} {live : Bool} {i : Nat} {hs : List Nat} :
    AlongA K (fun _ => True) (Machine.insertPages ac p live i hs : A s0 _) := by
  induction hs generalizing i with
  | nil => exact .pure trivial
  | cons x hs ih => exact .bind (E.insertPage h) fun _ _ => .bind ih fun _ _ => .pure trivial

/-! ### An index that is not in use -/

theorem lookupPages_dead {ac : Acc} {p : Pkt} {i : Nat} {hs : List Nat} {l : Log} {t : At s0} :
    Yields (lookupPages ac p false i hs) l t (hs.flatMap fun h => pfxResult h 0 0 0, 0) l t := by
  induction hs generalizing i with
  | nil => exact .pure
  | cons x hs ih => exact .bind (a := none) .pure (.bind ih .pure)

theorem insertPages_dead {ac : Acc} {p : Pkt} {i : Nat} {hs : List Nat} {l : Log} {t : At s0} :
    Yields (insertPages ac p false i hs) l t (hs.flatMap fun h => pfxResult h 0 0 3, hs.map fun _ => 3) l t := by
  induction hs generalizing i with
  | nil => exact .pure
  | cons x hs ih => exact .bind .pure (.bind ih .pure)

/-- The run of an operation has one end. -/
theorem Yields.unique {m : A s0 α} {l k k' : Log} {t u u' : At s0} {a a' : α} (h : Yields m l t a k u) (h' : Yields m l t a' k' u') :
    a' = a ∧ k' = k ∧ u' = u := by
  unfold Yields at h h'
  rw [h] at h'
  cases h'
  exact ⟨rfl, rfl, rfl⟩

/-! ### The packets -/

theorem lookupWork_working (hn : Counting ns) {ac : Acc} (h : ac.part = part ∧ ac.ctx = ctx) {p : Pkt} :
    AlongA (working part ctx ns) (fun _ => True) (lookupWork p ac : A s0 _) :=
  .bind .cur fun _ _ => .bind ((servesWorking hn).pfxHashes h) fun _ _ => .bind ((storesWorking hn).lookupPages h) fun _ _ => .pure trivial

theorem insertWork_working (hn : Counting ns) {ac : Acc} (h : ac.part = part ∧ ac.ctx = ctx) {p : Pkt} :
    AlongA (working part ctx ns) (fun _ => True) (insertWork p ac : A s0 _) :=
  .bind .cur fun _ _ => .bind ((servesWorking hn).pfxHashes h) fun _ _ => .bind ((storesWorking hn).insertPages h) fun _ _ => .pure trivial

/-- The counts of a lookup and of an insert (R275, R276). -/
def lookupCounts (pages hits : Nat) : List (Fld × Nat) := [(F.srvPfxLookups_count, pages), (F.srvPfxHits_count, hits)]
def insertCounts (pages new evicted : Nat) : List (Fld × Nat) :=
  [(F.srvPfxLookups_count, pages), (F.srvPfxInserts_count, new), (F.srvPfxEvicts_count, evicted)]

theorem Tallies.of_fields {fs : List Fld} (hfs : (∀ f ∈ fs, (f.at 0 0 0).exists = true ∧ f.fits = true ∧ wrapsRound f.reg = false ∧
      f.hi + 1 - f.lo = 64) ∧ (fs.map Fld.reg).Nodup ∧
      ∀ n ∈ fs.map Fld.reg, n ∉ counters ∧ n ∉ RegName.stkRegGranules :: .dtRegGranules :: followers)
    {cs : List (Fld × Nat)} (h : cs.map Prod.fst = fs) : Tallies cs := by
  subst h
  obtain ⟨hfields, hnodup, hapart⟩ := hfs
  exact ⟨fun e he => hfields e.1 (List.mem_map_of_mem he), hnodup, hapart⟩

theorem tallies_lookup (pages hits : Nat) : Tallies (lookupCounts pages hits) :=
  .of_fields (fs := [F.srvPfxLookups_count, F.srvPfxHits_count]) (by decide) rfl
theorem tallies_insert (pages new evicted : Nat) : Tallies (insertCounts pages new evicted) :=
  .of_fields (fs := [F.srvPfxLookups_count, F.srvPfxInserts_count, F.srvPfxEvicts_count]) (by decide) rfl

/-- The hashes are read in memory that stays as a read finds it. -/
theorem pfxHashes_seen {p : Pkt} {ac : Acc} {l k : Log} {t u : At s0} {hs : List Nat} (hac : ac.part = part ∧ ac.ctx = ctx)
    (ht : t.1.Still part ctx) (h : Yields (pfxHashes ac p) l t hs k u) : ∀ a, u.1.seen a = t.1.seen a :=
  (((servesReading part ctx counting_counters).pfxHashes hac).yields h ht).2.1.2

/-- A lookup in an index that is not in use misses every page, and changes nothing that a read finds. -/
theorem lookupWork_dead {p : Pkt} {ac : Acc} {l k : Log} {t u : At s0} {hs : List Nat} {bs : List Byte} {n : Nat}
    (hac : ac.part = part ∧ ac.ctx = ctx) (ht : t.1.Still part ctx) (hdead : t.1.pfxLive p ac.part = false)
    (h : Yields (lookupWork p ac) l t (hs, bs, n) k u) :
    n = 0 ∧ bs = hs.flatMap (fun h => pfxResult h 0 0 0) ∧ ∀ a, u.1.seen a = t.1.seen a := by
  obtain ⟨s, k0, u0, hcur, h⟩ := h.of_bind
  obtain ⟨rfl, -, rfl⟩ := hcur.of_lift
  obtain ⟨hs', k1, u1, hhash, h⟩ := h.of_bind
  obtain ⟨⟨bs', n'⟩, k2, u2, hpages, h⟩ := h.of_bind
  obtain ⟨hpair, rfl, rfl⟩ := h.of_pure
  cases hpair
  rw [show (cur u0).1.pfxLive p ac.part = false from hdead] at hpages
  obtain ⟨hpair, -, rfl⟩ := lookupPages_dead.unique hpages
  cases hpair
  exact ⟨rfl, rfl, pfxHashes_seen hac ht hhash⟩

theorem insertWork_dead {p : Pkt} {ac : Acc} {l k : Log} {t u : At s0} {hs : List Nat} {bs : List Byte} {os : List Nat}
    (hac : ac.part = part ∧ ac.ctx = ctx) (ht : t.1.Still part ctx) (hdead : t.1.pfxLive p ac.part = false)
    (h : Yields (insertWork p ac) l t (hs, bs, os) k u) :
    newPages os = 0 ∧ bs = hs.flatMap (fun h => pfxResult h 0 0 3) ∧ ∀ a, u.1.seen a = t.1.seen a := by
  obtain ⟨s, k0, u0, hcur, h⟩ := h.of_bind
  obtain ⟨rfl, -, rfl⟩ := hcur.of_lift
  obtain ⟨hs', k1, u1, hhash, h⟩ := h.of_bind
  obtain ⟨⟨bs', os'⟩, k2, u2, hpages, h⟩ := h.of_bind
  obtain ⟨hpair, rfl, rfl⟩ := h.of_pure
  cases hpair
  rw [show (cur u0).1.pfxLive p ac.part = false from hdead] at hpages
  obtain ⟨hpair, -, rfl⟩ := insertPages_dead.unique hpages
  cases hpair
  refine ⟨?_, rfl, pfxHashes_seen hac ht hhash⟩
  unfold newPages
  rw [List.filter_eq_nil_iff.2 (by simp)]
  rfl

theorem prefixLookup_ends (c id : Nat) (s : State) (p : Pkt) (hs : List Nat) (bs : List Byte) (n : Nat) (ps : List Wr)
    (hready : s.ready c id 0x53 p (prefixLookupBody p (s.acc c))) (hturn : s.engineTurn c id 0x53 = true)
    (hfinds : s.finds (plans (s.acc c) (lookupWork p (s.acc c)) fun v => resultWrites p v.1.length v.2.2 v.2.1) ((hs, bs, n), ps)) :
    Answers (.prefixLookup c id) s fun t => t.ended c id stOk 0 ∧ t.slots = s.slots ∧ t.keys = s.keys ∧
      (∀ a, t.seen a = (s.runs (lookupWork p (s.acc c))).2.2.after ps a) ∧
      t.fld F.srvPfxLookups_count = satAdd 64 (s.fld F.srvPfxLookups_count) hs.length ∧
      t.fld F.srvPfxHits_count = satAdd 64 (s.fld F.srvPfxHits_count) n ∧
      SameRegs ([.srvPfxLookups, .srvPfxHits] ++ counters ++ followers) s t ∧
      (s.pfxLive p (s.acc c).part = false → n = 0 ∧ bs = hs.flatMap (fun h => pfxResult h 0 0 0) ∧ ∀ a, t.seen a = s.after ps a) := by
  have ⟨_, hcalm, _⟩ := hready
  have hac : (s.acc c).part = s.partOf c ∧ (s.acc c).ctx = c := ⟨rfl, rfl⟩
  obtain ⟨k, u, k', u', hwork, hplan⟩ := hfinds.of_plans
  obtain ⟨hstill, hsteps, -⟩ := (lookupWork_working counting_counters hac).yields hwork hcalm.still
  obtain ⟨x, hput, -, hwrote, hseen⟩ := hplan.store counting_counters hac hstill
  have hbody : Yields (prefixLookupBody p (s.acc c)) {} ⟨s, Reach.refl s⟩ {} k'
      (each (lookupCounts hs.length n) (fun e => bump e.1 e.2) x).2 := by
    obtain ⟨_, _, _, hcur, h⟩ := hwork.of_bind
    obtain ⟨hs', _, _, hhash, h⟩ := h.of_bind
    obtain ⟨⟨bs', n'⟩, _, _, hpages, h⟩ := h.of_bind
    obtain ⟨hpair, rfl, rfl⟩ := h.of_pure
    cases hpair
    exact .bind hcur (.bind hhash (.bind hpages (.bind hput (.bind .liftUnit (.bind .liftUnit .pure)))))
  obtain ⟨t, ht, hend⟩ := runsBody_prefixLookup.endsTallied hready (.inr hturn) (tallies_lookup hs.length n) (hsteps.trans hwrote) hbody
  refine ⟨t, ht, hend.ended, hend.slots, hend.keys, fun a => ?_, hend.counts _ _ (by simp [lookupCounts]),
    hend.counts _ _ (by simp [lookupCounts]), hend.regs, fun hdead => ?_⟩
  · rw [hend.store.seen, hseen, hwork.runs]
  · obtain ⟨hn, hbs, hsame⟩ := lookupWork_dead (t := ⟨s, Reach.refl s⟩) hac hcalm.still hdead hwork
    refine ⟨hn, hbs, fun a => ?_⟩
    rw [hend.store.seen, hseen]
    unfold State.after
    rw [funext hsame]

theorem prefixInsert_ends (c id : Nat) (s : State) (p : Pkt) (hs : List Nat) (bs : List Byte) (os : List Nat) (ps : List Wr)
    (hready : s.ready c id 0x54 p (prefixInsertBody p (s.acc c))) (hturn : s.engineTurn c id 0x54 = true)
    (hfinds : s.finds (plans (s.acc c) (insertWork p (s.acc c)) fun v => resultWrites p v.1.length (newPages v.2.2) v.2.1)
      ((hs, bs, os), ps)) :
    Answers (.prefixInsert c id) s fun t => t.ended c id stOk 0 ∧ t.slots = s.slots ∧ t.keys = s.keys ∧
      (∀ a, t.seen a = (s.runs (insertWork p (s.acc c))).2.2.after ps a) ∧
      t.fld F.srvPfxLookups_count = satAdd 64 (s.fld F.srvPfxLookups_count) hs.length ∧
      t.fld F.srvPfxInserts_count = satAdd 64 (s.fld F.srvPfxInserts_count) (newPages os) ∧
      t.fld F.srvPfxEvicts_count = satAdd 64 (s.fld F.srvPfxEvicts_count) (os.filter (· == 2)).length ∧
      SameRegs ([.srvPfxLookups, .srvPfxInserts, .srvPfxEvicts] ++ counters ++ followers) s t ∧
      (s.pfxLive p (s.acc c).part = false →
        newPages os = 0 ∧ bs = hs.flatMap (fun h => pfxResult h 0 0 3) ∧ ∀ a, t.seen a = s.after ps a) := by
  have ⟨_, hcalm, _⟩ := hready
  have hac : (s.acc c).part = s.partOf c ∧ (s.acc c).ctx = c := ⟨rfl, rfl⟩
  obtain ⟨k, u, k', u', hwork, hplan⟩ := hfinds.of_plans
  obtain ⟨hstill, hsteps, -⟩ := (insertWork_working counting_counters hac).yields hwork hcalm.still
  obtain ⟨x, hput, -, hwrote, hseen⟩ := hplan.store counting_counters hac hstill
  have hbody : Yields (prefixInsertBody p (s.acc c)) {} ⟨s, Reach.refl s⟩ {} k'
      (each (insertCounts hs.length (newPages os) (os.filter (· == 2)).length) (fun e => bump e.1 e.2) x).2 := by
    obtain ⟨_, _, _, hcur, h⟩ := hwork.of_bind
    obtain ⟨hs', _, _, hhash, h⟩ := h.of_bind
    obtain ⟨⟨bs', os'⟩, _, _, hpages, h⟩ := h.of_bind
    obtain ⟨hpair, rfl, rfl⟩ := h.of_pure
    cases hpair
    exact .bind hcur (.bind hhash (.bind hpages (.bind hput (.bind .liftUnit (.bind .liftUnit (.bind .liftUnit .pure))))))
  obtain ⟨t, ht, hend⟩ := runsBody_prefixInsert.endsTallied hready (.inr hturn) (tallies_insert hs.length _ _) (hsteps.trans hwrote) hbody
  refine ⟨t, ht, hend.ended, hend.slots, hend.keys, fun a => ?_, hend.counts _ _ (by simp [insertCounts]),
    hend.counts _ _ (by simp [insertCounts]), hend.counts _ _ (by simp [insertCounts]), hend.regs, fun hdead => ?_⟩
  · rw [hend.store.seen, hseen, hwork.runs]
  · obtain ⟨hn, hbs, hsame⟩ := insertWork_dead (t := ⟨s, Reach.refl s⟩) hac hcalm.still hdead hwork
    refine ⟨hn, hbs, fun a => ?_⟩
    rw [hend.store.seen, hseen]
    unfold State.after
    rw [funext hsame]

/-! ### KV_MOVE -/

/-- The moves of KV_MOVE's list, before they are counted. -/
def kvMoves (p : Pkt) (ac : Acc) : A s0 Unit := do
  let h := nth (p.captured 200) 0
  let size := kvPageBytes (bits h 35 32) (64 * 2 ^ bits h 41 40) (bit h 44)
  let _ ← mapA (fun i => do
    let ea := nth (p.captured 201) (2 * i)
    let va := nth (p.captured 201) (2 * i + 1)
    let e ← rdWord ac ea
    let bs ← rd ac (entryAddr e) size
    wrAll ac [{ va := va, bs := bs }]
    wrAll ac [{ va := ea, bs := toBytes 8 (setBits (setBits e 51 6 (va / 64)) 2 2 (b2n (!p.b 3 0))) }]
    wrAll ac [{ va := p.w 2 + 16 + 16 * i + 8, bs := toBytes 8 (entryAddr e) }]) (List.range (bits h 31 0))

theorem Stores.kvMoves (E : Stores K) {ac : Acc} (h : E.acc ac) {p : Pkt} :
    AlongA K (fun _ => True) (Machine.kvMoves p ac : A s0 Unit) :=
  .bind (.mapAll _ fun _ => .bind (E.rdWord h) fun _ _ => .bind (E.rd h) fun _ _ => .bind (E.wrAll E.one h) fun _ _ =>
    .bind (E.wrAll E.one h) fun _ _ => E.wrAll E.one h) fun _ _ => .pure trivial

theorem kvMove_ends (c id : Nat) (s : State) (p : Pkt) (f : Fin) (hready : s.ready c id 0x55 p (kvMoveBody p (s.acc c)))
    (hfinds : s.finds (kvMoveBody p (s.acc c)) f) : Answers (.kvMove c id) s fun t => t.ended c id stOk 0 ∧ t.slots = s.slots ∧
      t.fld F.hbKvPagesMoved_count = satAdd 64 (s.fld F.hbKvPagesMoved_count) (bits (nth (p.captured 200) 0) 31 0) ∧
      SameRegs (.hbKvPagesMoved :: counters ++ followers) s t ∧ SameStore (s.runs (kvMoveBody p (s.acc c))).2.2 t := by
  have ⟨_, hcalm, _⟩ := hready
  obtain ⟨_, k, x, hmoves, hrest⟩ := hfinds.yields.of_bind
  have hkv : Yields (kvMoves p (s.acc c)) {} ⟨s, Reach.refl s⟩ () k x := .bind hmoves .pure
  obtain ⟨-, hsteps, -⟩ := ((storesWorking (part := s.partOf c) (ctx := c) counting_counters).kvMoves (ac := s.acc c) ⟨rfl, rfl⟩).yields hkv hcalm.still
  have hbody : Yields (kvMoveBody p (s.acc c)) {} ⟨s, Reach.refl s⟩ {} k
      (each [(F.hbKvPagesMoved_count, bits (nth (p.captured 200) 0) 31 0)] (fun e => bump e.1 e.2) x).2 :=
    .bind hmoves (.bind .liftUnit .pure)
  obtain ⟨t, ht, hend⟩ := runsBody_kvMove.endsTallied hready (.inl rfl) (.of_fields (fs := [F.hbKvPagesMoved_count]) (by decide) rfl)
    hsteps hbody
  refine ⟨t, ht, hend.ended, hend.slots, hend.counts _ _ (List.mem_singleton_self _), hend.regs, ?_⟩
  rw [hbody.runs]
  exact SameStore.trans ((tally_sets x).sets_rest.2.1.symm) hend.store

end Sys2Proof.Machine
end

section
/-!
PROOFS. KV_RELEASE (R255, R262) and ADAPTER_BIND (R289): the pages that are given back, and the adapter that is bound.
-/
namespace Sys2Proof.Machine

variable {s0 : State} {α β γ : Type} {part ctx : Nat} {ns : List RegName} {c id op : Nat} {K : Course}

/-! ### KV_RELEASE -/

section
variable (E : Stores K) {ac : Acc} (h : E.acc ac)
include h

theorem Stores.kvReleases {k : Kv} : AlongA K (fun _ => True) (Machine.kvReleases ac k : A s0 _) :=
  .bind (.mapAll _ fun _ => .bind (.mapAll _ fun _ => .bind (E.rdWord h) fun _ _ => .pure trivial) fun _ _ => .pure trivial) fun _ _ =>
    .pure trivial

theorem Stores.kvLowest {k : Kv} {x : KvSeq} {left n : Nat} : AlongA K (fun _ => True) (Machine.kvLowest ac k x left n : A s0 Nat) := by
  induction left generalizing n with
  | zero => exact .pure trivial
  | succ left ih => exact .bind (.mapAll _ fun _ => E.rdWord h) fun _ _ => .ite (.pure trivial) ih

end

/-- The first pages of the sequences written after a release (R262). -/
def kvFirsts (ac : Acc) (k : Kv) : A s0 Unit := do
  let _ ← mapA (fun (i, x) => do
    let n ← kvLowest ac k x x.slots x.first
    wrAll ac [{ va := k.seqsAt + 64 * i + 12, bs := toBytes 4 n }]) ((List.range k.seqs.length).zip k.seqs)

theorem Stores.kvFirsts (E : Stores K) {ac : Acc} (h : E.acc ac) {k : Kv} : AlongA K (fun _ => True) (Machine.kvFirsts ac k : A s0 Unit) :=
  .bind (.mapAll _ fun _ => .bind (E.kvLowest h) fun _ _ => E.wrAll E.one h) fun _ _ => .pure trivial

theorem rdPool_working (hn : Counting ns) {ac : Acc} (h : ac.part = part ∧ ac.ctx = ctx) {k : Kv} {n : Nat} :
    AlongA (working part ctx ns) (fun _ => True) (rdPool ac k n : A s0 Pool) :=
  .ite (.pure trivial) (.bind ((servesWorking hn).rdWords (ac := { ac with source := 2 }) h) fun _ _ => .pure trivial)

theorem kvGive_working (hn : Counting ns) (hrel : RegName.hbKvPagesReleased ∈ ns) {ac : Acc} (h : ac.part = part ∧ ac.ctx = ctx)
    {k : Kv} {l : List (Nat × (Bool × Nat) × Nat × Nat)} {n : Nat} :
    AlongA (working part ctx ns) (fun _ => True) (kvGive ac k l n : A s0 Unit) :=
  .bind (rdPool_working hn h) fun _ _ => .ite (.bind (wrAll_working hn h) fun _ _ => .bind (wrAll_working hn h) fun _ _ =>
    .lift (bump_reading hn hrel).working) (.pure trivial)

theorem kvReleaseBody_working (hn : Counting ns) (hrel : RegName.hbKvPagesReleased ∈ ns) {ac : Acc} (h : ac.part = part ∧ ac.ctx = ctx)
    {p : Pkt} : AlongA (working part ctx ns) (fun f => f = {}) (kvReleaseBody p ac : A s0 Fin) := by
  let E := storesWorking (part := part) (ctx := ctx) hn
  exact .bind (E.kvReleases h) fun _ _ => .bind (wrAll_working hn h) fun _ _ => .bind (.mapAll _ fun _ => kvGive_working hn hrel h) fun _ _ =>
    .bind (.mapAll _ fun _ => .bind (E.kvLowest h) fun _ _ => E.wrAll E.one h) fun _ _ => .pure rfl

/-- Where every page is shared, none returns to a pool. -/
theorem returnsTo_shared {l : List (Nat × (Bool × Nat) × Nat × Nat)} (h : ∀ y ∈ l, entryShared y.2.2.2 = true) (n : Nat) :
    returnsTo n l = [] := by
  unfold returnsTo
  rw [List.filter_eq_nil_iff.2 fun y hy => by simp [h y hy]]
  rfl

/-- A release of shared pages alone leaves the count. -/
theorem kvReleaseBody_shared {ac : Acc} (hac : ac.part = part ∧ ac.ctx = ctx) {p : Pkt} {l : List (Nat × (Bool × Nat) × Nat × Nat)}
    {k k' : Log} {t u u' : At s0} {f : Fin} (ht : t.1.Still part ctx) (hl : Yields (kvReleases ac p.kv) {} t l k u)
    (hshared : ∀ y ∈ l, entryShared y.2.2.2 = true) (h : Yields (kvReleaseBody p ac) {} t f k' u') :
    SameRegs counters t.1 u'.1 := by
  let E := storesWorking (part := part) (ctx := ctx) counting_counters
  obtain ⟨l', k1, u1, hl', h⟩ := h.of_bind
  obtain ⟨rfl, rfl, rfl⟩ := hl.unique hl'
  obtain ⟨_, k2, u2, hclear, h⟩ := h.of_bind
  obtain ⟨_, k3, u3, hgive, h⟩ := h.of_bind
  obtain ⟨_, k4, u4, hfirst, h⟩ := h.of_bind
  obtain ⟨-, -, rfl⟩ := h.of_pure
  have hnone : stackList.filter (fun n => returnsTo n l' != []) = [] := List.filter_eq_nil_iff.2 fun n _ => by
    simp [returnsTo_shared hshared n]
  rw [hnone] at hgive
  obtain ⟨-, -, rfl⟩ := hgive.of_pure
  obtain ⟨hstill1, hsteps1, -⟩ := (E.kvReleases hac).yields hl ht
  obtain ⟨hstill2, hsteps2, -⟩ := (wrAll_working counting_counters hac).yields hclear hstill1
  obtain ⟨-, hsteps3, -⟩ := (E.kvFirsts hac).yields (.bind hfirst .pure : Yields (kvFirsts ac p.kv) _ _ () _ _) hstill2
  exact ((hsteps1.trans hsteps2).trans hsteps3).served.regs

theorem kvRelease_ends (c id : Nat) (s : State) (p : Pkt) (l : List (Nat × (Bool × Nat) × Nat × Nat)) (f : Fin)
    (hready : s.ready c id 0x52 p (kvReleaseBody p (s.acc c))) (hturn : s.engineTurn c id 0x52 = true)
    (hl : s.finds (kvReleases (s.acc c) p.kv) l) (hfinds : s.finds (kvReleaseBody p (s.acc c)) f) :
    Answers (.kvRelease c id) s fun t => t.ended c id stOk 0 ∧ t.slots = s.slots ∧
      SameStore (s.runs (kvReleaseBody p (s.acc c))).2.2 t ∧ SameRegs (.hbKvPagesReleased :: counters ++ followers) s t ∧
      ((∀ y ∈ l, entryShared y.2.2.2 = true) → t.fld F.hbKvPagesReleased_count = s.fld F.hbKvPagesReleased_count) := by
  have hn : Counting (.hbKvPagesReleased :: counters) := ⟨by decide, by decide⟩
  have hac : (s.acc c).part = s.partOf c ∧ (s.acc c).ctx = c := ⟨rfl, rfl⟩
  have ⟨_, hcalm, _⟩ := hready
  obtain ⟨t, ht, hend, hserved⟩ := runsBody_kvRelease.endsWorking (ns := .hbKvPagesReleased :: counters) hready (.inr hturn)
    (kvReleaseBody_working hn (List.mem_cons_self ..) hac) hfinds
  refine ⟨t, ht, hend.ended, hend.slots, hend.booked.store, hend.regs hserved (fun _ hm => hm) (by decide), fun hshared => ?_⟩
  have hregs := kvReleaseBody_shared hac hcalm.still hl.yields hshared hfinds.yields
  rw [hend.booked.regs.fld (by decide)]
  exact hregs.fld (by decide) 0 0 0

/-! ### ADAPTER_BIND -/

theorem Serves.placeOf (S : Serves K) {ac : Acc} (h : S.acc ac) {va : Nat} :
    AlongA K (fun _ => True) (Machine.placeOf ac va : A s0 Nat) := by
  refine .bind (S.leafOf h).free fun r _ => .bind .cur fun s _ => ?_
  split
  · exact .pure trivial
  · split
    · exact .pure trivial
    · exact .ite (.throw _) (.throw _)

theorem Serves.liesIn (S : Serves K) {ac : Acc} (h : S.acc ac) {va n : Nat} {deep : Bool} :
    AlongA K (fun _ => True) (Machine.liesIn ac va n deep : A s0 Bool) :=
  .bind (S.placeOf h) fun _ _ => .bind (S.placeOf h) fun _ _ => .pure trivial

/-- A packet whose operation runs to its end has ended, and all else is as the operation left it. -/
theorem RunsBody.endsBooked {cmd : Nat → Nat → Instr} {body : {s0 : State} → Nat → Pkt → Acc → A s0 Fin} (h : RunsBody cmd op body)
    {s : State} {p : Pkt} (hready : s.ready c id op p (body c p (s.acc c))) (hturn : s.servedNow c id op) {k : Log} {u : At s}
    (hrun : Yields (body c p (s.acc c)) {} ⟨s, Reach.refl s⟩ {} k u) (hstands : (u.1.pkt c id).isSome = true) :
    Answers (cmd c id) s fun t => t.ended c id stOk 0 ∧ Booked u.1 t ∧ (t.pkt c id).map Pkt.seqIdx = (u.1.pkt c id).map Pkt.seqIdx := by
  obtain ⟨hissued, -, hexh, hpays⟩ := hready
  obtain ⟨source, atomic, onAbort, hgo⟩ := h c id s p hissued hturn
  obtain ⟨-, -, hpkt, -⟩ := hissued
  have hlog : (s.runs (body c p (s.acc c))).2.1 = k := by
    unfold State.runs runA
    rw [hrun]
  rw [hlog] at hpays
  obtain ⟨hbooked, hcore⟩ := runPktWith_ends (source := source) (atomic := atomic) (onAbort := onAbort)
    (State.pkt_id hpkt) hrun rfl hexh hpays
  refine answers_of_go hgo ⟨?_, hbooked, ?_⟩
  · obtain ⟨y, hy⟩ := Option.isSome_iff_exists.1 hstands
    rw [hy] at hcore
    obtain ⟨z, hz, hzcore⟩ := Option.map_eq_some_iff.1 hcore
    unfold Pkt.core Pkt.outcome Pkt.endsWith at hzcore
    simp only [Prod.mk.injEq] at hzcore
    obtain ⟨⟨hst, hstatus, hdetail, -⟩, -⟩ := hzcore
    exact ⟨z, hz, hst, hstatus, hdetail⟩
  · have hidx := congrArg (Option.map Prod.snd) hcore
    rwa [Option.map_map, Option.map_map] at hidx

theorem adaptersAt_modAdapters {n m : Nat} {y : Adapter} (u : At s0) :
    (after (modAdapters n fun _ => y) u).adaptersAt m = if m = n then y else u.1.adaptersAt m := by
  change Tab.get {} (Tab.put {} u.1.adapters n y) m = _
  rw [Tab.get_put]
  rfl

/-- ADAPTER_BIND goes on to its end where nothing stands against it. -/
theorem adapterBind_binds {c id : Nat} {s : State} {p : Pkt} {y : Adapter} {k : Log} {u : At s}
    (hready : s.ready c id 0x66 p (adapterBindBody p (s.acc c))) (hreads : Steps (Eff.Serves counters) s u.1)
    (hseen : ∀ a, u.1.seen a = s.seen a)
    (hrun : Yields (adapterBindBody p (s.acc c)) {} ⟨s, Reach.refl s⟩ {} k (modAdapters (p.f 2 11 0) (fun _ => y) u).2) :
    Answers (.adapterBind c id) s fun t => t.ended c id stOk 0 ∧ t.adaptersAt (p.f 2 11 0) = y ∧
      (∀ m, m ≠ p.f 2 11 0 → t.adaptersAt m = s.adaptersAt m) ∧ t.slots = s.slots ∧ (∀ a, t.seen a = s.seen a) ∧
      SameRegs (counters ++ followers) s t := by
  have hserved := hreads.served
  have ⟨⟨_, _, hpkt, _⟩, _, _⟩ := hready
  obtain ⟨v, hv⟩ : ∃ v : At s, (modAdapters (p.f 2 11 0) (fun _ => y) u).2 = v := ⟨_, rfl⟩
  have hrest : v.1 = { u.1 with adapters := v.1.adapters } := by subst hv; rfl
  have hat (m : Nat) : v.1.adaptersAt m = if m = p.f 2 11 0 then y else u.1.adaptersAt m := hv ▸ adaptersAt_modAdapters u
  rw [hv] at hrun
  have hstands : (v.1.pkt c id).isSome = true := by
    rw [hrest]
    change (u.1.pkt c id).isSome = true
    rw [hserved.pkt, hpkt]
    rfl
  obtain ⟨t, ht, hend, hbooked, -⟩ := runsBody_adapterBind.endsBooked hready (.inl rfl) hrun hstands
  have hadapters (m : Nat) : t.adaptersAt m = v.1.adaptersAt m := by
    unfold State.adaptersAt
    rw [hbooked.adapters]
  refine ⟨t, ht, hend, ?_, fun m hm => ?_, ?_, fun a => ?_, ?_⟩
  · rw [hadapters, hat, if_pos rfl]
  · rw [hadapters, hat, if_neg hm]
    unfold State.adaptersAt
    rw [hserved.adapters]
  · rw [hbooked.slots, hrest]
    exact hserved.slots
  · rw [hbooked.store.seen, hrest]
    exact hseen a
  · have hregs : SameRegs counters s v.1 := fun r hr => (congrArg (fun x => State.reg x r) hrest).trans (hserved.regs r hr)
    exact hregs.booked hbooked.regs (fun _ hm => hm) (by decide)

/-- An adapter is unbound: no access is made. -/
theorem adapterBind_unbinds_yields {s : State} {p : Pkt} {ac : Acc} (hflag : p.b 4 8 = true) (hword : p.w 3 = 0) (hrank : p.f 4 7 0 = 0)
    (hx : (s.adaptersAt (p.f 2 11 0)).bound = true → (s.adaptersAt (p.f 2 11 0)).part = ac.part ∧ (s.adaptersAt (p.f 2 11 0)).users = 0) :
    Yields (adapterBindBody p ac) {} ⟨s, Reach.refl s⟩ {} {} (modAdapters (p.f 2 11 0) (fun _ => {}) ⟨s, Reach.refl s⟩).2 := by
  have hpart : ((s.adaptersAt (p.f 2 11 0)).bound && (s.adaptersAt (p.f 2 11 0)).part != ac.part) = false := by
    cases hb : (s.adaptersAt (p.f 2 11 0)).bound <;> simp [hb] at hx ⊢
    exact hx.1
  have husers : ((s.adaptersAt (p.f 2 11 0)).bound && (s.adaptersAt (p.f 2 11 0)).users != 0) = false := by
    cases hb : (s.adaptersAt (p.f 2 11 0)).bound <;> simp [hb] at hx ⊢
    exact hx.2
  refine .bind (.lift (m := cur)) ?_
  rw [cur_run]
  simp only [hpart, husers, hflag, hword, hrank, ne_eq, not_true_eq_false, Bool.false_eq_true, if_false, if_true]
  exact .bind .liftUnit .pure

/-- An adapter is bound: its image is looked up alone. -/
theorem adapterBind_binds_yields {s : State} {p : Pkt} {ac : Acc} {k : Log} {u : At s} (hflag : p.b 4 8 = false) (hword : p.w 3 % 4096 = 0)
    (hlies : Yields (liesIn ac (p.w 3) 512 true) {} ⟨s, Reach.refl s⟩ true k u) (hrank : 0 < p.f 4 7 0)
    (hlimit : p.f 4 7 0 ≤ bits (s.fld F.featAdapters_value) 23 16)
    (hquota : (s.adaptersAt (p.f 2 11 0)).bound = false → s.adaptersHeld ac.part < s.inForce F.schPartQuota_adapters ac.part)
    (hx : (s.adaptersAt (p.f 2 11 0)).bound = true → (s.adaptersAt (p.f 2 11 0)).part = ac.part ∧ (s.adaptersAt (p.f 2 11 0)).users = 0) :
    Yields (adapterBindBody p ac) {} ⟨s, Reach.refl s⟩ {} k (modAdapters (p.f 2 11 0)
      (fun _ => { bound := true, image := p.w 3, part := ac.part, rank := p.f 4 7 0, users := 0 }) u).2 := by
  have hpart : ((s.adaptersAt (p.f 2 11 0)).bound && (s.adaptersAt (p.f 2 11 0)).part != ac.part) = false := by
    cases hb : (s.adaptersAt (p.f 2 11 0)).bound <;> simp [hb] at hx ⊢
    exact hx.1
  have husers : ((s.adaptersAt (p.f 2 11 0)).bound && (s.adaptersAt (p.f 2 11 0)).users != 0) = false := by
    cases hb : (s.adaptersAt (p.f 2 11 0)).bound <;> simp [hb] at hx ⊢
    exact hx.2
  have hroom : (!(s.adaptersAt (p.f 2 11 0)).bound && decide (s.inForce F.schPartQuota_adapters ac.part ≤ s.adaptersHeld ac.part)) = false := by
    cases hb : (s.adaptersAt (p.f 2 11 0)).bound <;> simp [hb] at hquota ⊢
    exact hquota
  have hok : ¬(p.f 4 7 0 = 0 ∨ bits (s.fld F.featAdapters_value) 23 16 < p.f 4 7 0) := by omega
  refine .bind (.lift (m := cur)) ?_
  rw [cur_run]
  simp only [hpart, hflag, hword, ne_eq, not_true_eq_false, Bool.false_eq_true, if_false]
  refine .bind hlies ?_
  simp only [Bool.not_true, Bool.false_eq_true, if_false, hok, husers, hroom]
  exact .bind .liftUnit .pure

theorem adapterBind_ends (c id : Nat) (s : State) (p : Pkt) (hready : s.ready c id 0x66 p (adapterBindBody p (s.acc c))) :
    let n := p.f 2 11 0
    let x := s.adaptersAt n
    let rank := p.f 4 7 0
    let part := (s.acc c).part
    let binds (y : Adapter) : Prop := Answers (.adapterBind c id) s fun t => t.ended c id stOk 0 ∧ t.adaptersAt n = y ∧
      (∀ m, m ≠ n → t.adaptersAt m = s.adaptersAt m) ∧ t.slots = s.slots ∧ (∀ a, t.seen a = s.seen a) ∧
      SameRegs (counters ++ followers) s t
    (x.bound = true → x.part = part ∧ x.users = 0) →
    (p.b 4 8 = true → p.w 3 = 0 → rank = 0 → binds {}) ∧
    (p.b 4 8 = false → p.w 3 % 4096 = 0 → s.finds (liesIn (s.acc c) (p.w 3) 512 true) true → 0 < rank →
      rank ≤ bits (s.fld F.featAdapters_value) 23 16 →
      (x.bound = false → s.adaptersHeld part < s.inForce F.schPartQuota_adapters part) →
      binds { bound := true, image := p.w 3, part := part, rank := rank, users := 0 }) := by
  intro n x rank part binds hx
  have ⟨_, hcalm, _⟩ := hready
  refine ⟨fun hflag hword hrank => ?_, fun hflag hword hlies hrank hlimit hquota => ?_⟩
  · exact adapterBind_binds hready (.refl s) (fun _ => rfl) (adapterBind_unbinds_yields hflag hword hrank hx)
  · obtain ⟨-, ⟨hsteps, hseen⟩, -⟩ := ((servesReading (s.partOf c) c counting_counters).liesIn (ac := s.acc c) ⟨rfl, rfl⟩).yields hlies.yields
      hcalm.still
    exact adapterBind_binds hready hsteps hseen (adapterBind_binds_yields hflag hword hlies.yields hrank hlimit hquota hx)

end Sys2Proof.Machine
end

section
/-!
PROOFS. KV_APPEND (R246 to R250, R267, R269): accesses whose packet notes the sequence they belong to (R463, R471), and the rows appended.
-/
namespace Sys2Proof.Machine

variable {s0 : State} {α β γ : Type} {part ctx : Nat} {ns : List RegName} {c id op : Nat} {K : Course}

/-! ### Pages and rows of sequences -/

section
variable (S : Serves K) {ac : Acc} (h : S.acc ac)
include h

theorem Serves.kvPageVa {p : Pkt} {k : Kv} {i : Nat} {x : KvSeq} {pg : Bool × Nat} {hd : Nat} :
    AlongA K (fun _ => True) (Machine.kvPageVa p ac k i x pg hd : A s0 Nat) := by
  unfold Machine.kvPageVa
  split
  · exact .pure trivial
  · exact .bind (S.rdWord h) fun _ _ => .pure trivial

theorem Serves.kvHomes {p : Pkt} {k : Kv} {i : Nat} {x : KvSeq} {pgs : List (Bool × Nat)} :
    AlongA K (fun _ => True) (Machine.kvHomes p ac k i x pgs : A s0 (List Nat)) :=
  .mapAll _ fun _ => .bind (S.kvPageVa h) fun _ _ => S.pageHome h

theorem Serves.appendUnits {p : Pkt} : AlongA K (fun _ => True) (Machine.appendUnits p ac : A s0 (List Nat)) :=
  .bind (.mapAll _ fun _ => S.kvHomes h) fun _ _ => .pure trivial

theorem Serves.stageWords {p : Pkt} : AlongA K (fun _ => True) (Machine.stageWords p ac : A s0 (List Nat)) :=
  .ite (S.rdWords h) (.pure trivial)

theorem Serves.attendUnits {p : Pkt} {words : List Nat} : AlongA K (fun _ => True) (Machine.attendUnits p ac words : A s0 (List Nat)) :=
  .bind (.mapAll _ fun _ => S.kvHomes h) fun _ _ => .pure trivial

variable (hvia : ∀ s u, S.acc (State.via s ac u))
include hvia

/-- A page is accessed by its unit or by the cores, with the packet's rights. -/
theorem Serves.pageVia {va : Nat} : AlongA K S.acc (Machine.pageVia ac va : A s0 Acc) := by
  refine .bind (S.tr h) fun a _ => .bind .cur fun s _ => .pure ?_
  split
  · exact hvia _ _
  · exact h

theorem Serves.kvReadPages {p : Pkt} {k : Kv} {near : Bool} {i : Nat} {x : KvSeq} {hd : Nat} :
    AlongA K (fun _ => True) (Machine.kvReadPages p ac k near i x hd : A s0 (List KvPage)) := by
  refine .mapAll _ fun pg => .bind (S.kvPageVa h) fun va _ => .bind (S.pageHome h) fun home _ => .bind .cur fun s _ => .bind (S.rd ?_)
    fun _ _ => .pure trivial
  split
  · exact hvia _ _
  · exact h

end

section
variable (E : Stores K) {ac : Acc} (h : E.acc ac) (hvia : ∀ s u, E.acc (State.via s ac u))
include h hvia

theorem Stores.kvOpenPage {k : Kv} {x : KvSeq} {pg : Bool × Nat} {hd va : Nat} :
    AlongA K (fun _ => True) (Machine.kvOpenPage ac k x pg hd va : A s0 Unit) :=
  .bind (E.wrAll E.one h) fun _ _ => .bind (E.pageVia h hvia) fun _ hac => E.wrWhole hac

theorem Stores.kvPutRow {k : Kv} {region t : Nat} {xs : List Nat} {body : Nat} {glob : Option (Nat × Nat)} :
    AlongA K (fun _ => True) (Machine.kvPutRow ac k region t xs body glob : A s0 Unit) := by
  refine .bind (E.pageVia h hvia) fun via hac => .bind (Q := fun _ => True) ?_ fun s16 _ => .bind (E.wrWhole hac) fun _ _ => ?_
  · exact .ite (.pure trivial) (.ite (.pure trivial) (.bind (E.rd hac) fun _ _ => .pure trivial))
  · cases glob with
    | none => exact .pure trivial
    | some g => exact .bind (E.pageVia h hvia) fun _ hac => E.wrWhole hac

end

/-! ### Work that notes in its packet -/

/-- An effect of accesses that meet no error, or of a note in a packet. -/
def Eff.Annotates (ns : List RegName) : Eff → Prop
  | .ctxs _ _ => True
  | e => e.Serves ns

theorem Eff.Annotates.of_serves {e : Eff} (h : e.Serves ns) : e.Annotates ns := by
  cases e <;> first | exact h | trivial

/-- What such work leaves. -/
structure Annotated (ns : List RegName) (s t : State) : Prop where
  regs : SameRegs ns s t
  slots : t.slots = s.slots
  adapters : t.adapters = s.adapters

theorem Steps.annotated {s t : State} (h : Steps (Eff.Annotates ns) s t) : Annotated ns s t where
  regs := h.sameRegs fun e he => by cases e <;> first | exact he | trivial
  slots := h.keeps _ fun e u he => by cases e <;> first | rfl | exact he.elim
  adapters := h.keeps _ fun e u he => by cases e <;> first | rfl | exact he.elim

/-- The course of accesses that meet no error, of a packet that stands and notes what they belong to. -/
def annotating (part ctx id : Nat) (ns : List RegName) : Course where
  inv s := s.Still part ctx ∧ (s.pkt ctx id).isSome = true
  rel := Steps (Eff.Annotates ns)
  refl := .refl
  trans := .trans

theorem annotating_of_working {s t : State} (hs : (annotating part ctx id ns).inv s) (ht : t.Still part ctx)
    (h : Steps (Eff.Serves ns) s t) : (annotating part ctx id ns).inv t ∧ (annotating part ctx id ns).rel s t :=
  ⟨⟨ht, h.served.pkt ctx id ▸ hs.2⟩, h.mono fun _ => .of_serves⟩

theorem Along.annotating {m : M s0 α} (h : Along (Machine.working part ctx ns) m) : Along (annotating part ctx id ns) m := fun t ht =>
  have ⟨hi, hr⟩ := h t ht.1
  annotating_of_working ht hi hr

theorem AlongA.annotating {Q : α → Prop} {m : A s0 α} (h : AlongA (Machine.working part ctx ns) Q m) : AlongA (annotating part ctx id ns) Q m :=
  fun l t ht =>
    have ⟨hi, hr, hq⟩ := h l t ht.1
    have ⟨hi', hr'⟩ := annotating_of_working ht hi hr
    ⟨hi', hr', hq⟩

/-- What stores along accesses does so beside notes. -/
def Stores.annotating (E : Stores (working part ctx ns)) : Stores (annotating part ctx id ns) where
  acc := E.acc
  fine := E.fine
  table := E.table
  fresh := E.fresh.annotating
  read w g h := (E.read w g h).annotating
  snoop ac g write h := (E.snoop ac g write h).annotating
  root s ac hs := E.root s ac hs.1
  next := E.next
  entry := E.entry
  leaf s ac e size va write a hs := E.leaf s ac e size va write a hs.1
  write g bs := (E.write g bs).annotating
  one w := (E.one w).annotating

/-- Memory without an error rests on no context's packets. -/
theorem State.Still.of_ctxs {s : State} (h : s.Still part ctx) (x : List (Nat × Ctx)) : { s with ctxs := x }.Still part ctx := by
  obtain ⟨⟨hcode, hlost, hgood, hcalm, hentries, honce⟩, huntracked, htables, hbuffers⟩ := h
  exact ⟨⟨hcode, hlost, hgood, hcalm, hentries, honce⟩, huntracked, htables, hbuffers⟩

/-- The packet with the sequence that it notes. -/
theorem pkt_noteSeq {ac : Acc} {p : Pkt} {k : Kv} {i : Nat} (t : At s0) : (after (noteSeq ac p k i) t).pkt ac.ctx p.id =
    (t.1.pkt ac.ctx p.id).map fun y => { y with seqIdx := i, seqCount := k.seqs.length } :=
  pkt_modPkt ac.ctx p.id (fun y => { y with seqIdx := i, seqCount := k.seqs.length }) (fun _ => rfl) t

theorem noteSeq_annotating {ac : Acc} {p : Pkt} {k : Kv} {i : Nat} (hctx : ac.ctx = ctx) (hid : p.id = id) :
    Along (annotating part ctx id ns) (noteSeq ac p k i : M s0 Unit) := fun t ht => by
  refine ⟨⟨ht.1.of_ctxs _, ?_⟩, (Only.bind .cur fun _ => .eff _ trivial : Only (Eff.Annotates ns) (noteSeq ac p k i : M s0 Unit)) t⟩
  have hpkt := pkt_noteSeq (ac := ac) (p := p) (k := k) (i := i) t
  rw [hctx, hid] at hpkt
  rw [hpkt, Option.isSome_map]
  exact ht.2

/-! ### KV_APPEND -/

section
variable (hn : Counting ns) {ac : Acc} (hac : ac.part = part ∧ ac.ctx = ctx) {p : Pkt} (hid : p.id = id)
include hn hac hid

theorem kvAppendPos_annotating {k : Kv} {i : Nat} {x : KvSeq} {row pos : Nat} :
    AlongA (annotating part ctx id ns) (fun _ => True) (kvAppendPos p ac k i x row pos : A s0 Unit) := by
  let E := (storesWorking (part := part) (ctx := ctx) hn).annotating (id := id)
  have hvia : ∀ s u, E.acc (State.via s ac u) := fun _ u => via_serves hac u
  refine .bind (.lift (noteSeq_annotating hac.2 hid)) fun _ _ => .bind (E.rdRotary hac) fun cs _ =>
    .bind (.lift (noteSeq_annotating hac.2 hid)) fun _ _ => .bind (.mapAll _ fun hd => ?_) fun _ _ => .pure trivial
  refine .bind (E.rdRow hac) fun _ _ => .bind (E.rdRow hac) fun _ _ => .bind (E.kvPageVa hac) fun _ _ =>
    .bind (Q := fun _ => True) ?_ fun _ _ => .bind (E.kvPutRow hac hvia) fun _ _ => E.kvPutRow hac hvia
  exact .ite (.bind (E.kvPageVa hac) fun _ _ => .pure trivial) (.pure trivial)

omit hn hac hid in
/-- A part that meets an uncorrectable granule goes on along the same course. -/
theorem AlongA.partOfWork {Q : α → Prop} {m : A s0 α} {ac : Acc} {p : Pkt} (h : AlongA K Q m) :
    AlongA K (fun r => ∀ a, r = .ok a → Q a) (Machine.partOfWork ac p m : A s0 _) := by
  refine .tryCatch (.bind h fun y hy => .pure fun a ha => by cases ha; exact hy) fun e => ?_
  cases e with
  | poison va dpa => exact .bind .cur fun _ _ => .pure nofun
  | _ => exact .throw _

theorem kvAppend_annotating {k : Kv} :
    AlongA (annotating part ctx id ns) (fun _ => True) (kvAppend p ac k : A s0 (List (Nat × Stop))) := by
  let E := (storesWorking (part := part) (ctx := ctx) hn).annotating (id := id)
  have hvia : ∀ s u, E.acc (State.via s ac u) := fun _ u => via_serves hac u
  refine .bind (.mapAll _ fun y => (AlongA.partOfWork (Q := fun _ => True) ?_).free) fun _ _ =>
    .bind (.mapAll _ fun y => (AlongA.partOfWork (Q := fun _ => True) ?_).free) fun _ _ => .pure trivial
  · obtain ⟨⟨i, pg, hd⟩, va⟩ := y
    dsimp only
    split
    · exact .bind (.lift (noteSeq_annotating hac.2 hid)) fun _ _ => E.kvOpenPage hac hvia
    · exact .pure trivial
  · exact .bind (.lift (noteSeq_annotating hac.2 hid)) fun _ _ =>
      .bind (.mapAll _ fun _ => kvAppendPos_annotating hn hac hid) fun _ _ => .pure trivial

end

/-! ### Units whose work is left open (log entry 33) -/

/-- An effect of counting units' work. -/
def Eff.CountsWork : Eff → Prop
  | .reg r _ => r.name ∈ unitCounters
  | .fresh | .units _ _ => True
  | _ => False

theorem bump_countsWork {f : Fld} {d i j k : Nat} (h : f.reg ∈ unitCounters) : Only Eff.CountsWork (bump f d i j k : M s0 Unit) :=
  .bump' _ _ _ _ _ fun _ => h

theorem countShare_countsWork {u cmds : Nat} {x : UopUse} : Only Eff.CountsWork (countShare u cmds x : M s0 Unit) := by
  have huop : Only Eff.CountsWork (countUop (u / 32) (u % 32) x : M s0 Unit) :=
    .bind (bump_countsWork (by decide)) fun _ => .bind (bump_countsWork (by decide)) fun _ => .bind (bump_countsWork (by decide)) fun _ =>
      .bind (bump_countsWork (by decide)) fun _ => bump_countsWork (by decide)
  exact .bind .cur fun _ => .ite (.bind huop fun _ => .bind (bump_countsWork (by decide)) fun _ => .bind .cur fun _ => .eff _ trivial)
    (.pure ())

theorem countFree_countsWork {u : Nat} : Only Eff.CountsWork (countFree u : M s0 Unit) := by
  have hfresh {β : Type} {f : Nat → M s0 β} (h : ∀ n, Only Eff.CountsWork (f n)) : Only Eff.CountsWork (takeFresh >>= f) :=
    .bind (.bind .cur fun _ => .bind (.eff _ trivial) fun _ => .pure _) h
  exact .bind .cur fun _ => .ite (hfresh fun _ => hfresh fun _ => hfresh fun _ => hfresh fun _ => hfresh fun _ => countShare_countsWork)
    (.pure ())

/-- Counting leaves memory and every packet. -/
theorem Steps.countsWork_keeps {s t : State} (h : Steps Eff.CountsWork s t) : SameStore s t ∧ t.ctxs = s.ctxs := by
  have hkeep := h.keeps (fun u => ((u.mem, u.chk, u.merges, u.flash), u.ctxs)) fun e u he => by
    cases e <;> first | rfl | exact he.elim
  simp only [Prod.mk.injEq] at hkeep
  exact hkeep

theorem Eff.Serves.of_countsWork (hn : CountsUnits ns) {e : Eff} (h : e.CountsWork) : e.Serves ns := by
  cases e <;> first | exact hn.units h | exact h.elim | trivial

theorem countFree_reading (hn : CountsUnits ns) {u : Nat} : Along (reading part ctx ns) (countFree u : M s0 Unit) :=
  .of_steps hn.toCounting (countFree_countsWork.mono fun _ => .of_countsWork hn) fun t =>
    have ⟨⟨hmem, hchk, hmerges, _⟩, _⟩ := (countFree_countsWork t).countsWork_keeps
    ⟨hchk, hmerges, hmem⟩

/-- The end of KV_APPEND: its packet notes no sequence, and its units are counted. -/
def appendTail (p : Pkt) (ac : Acc) (us : List Nat) : M s0 Unit := do
  noteSeq ac p p.kv 0xFFFFFFFF
  each us countFree

theorem appendTail_leaves (hn : CountsUnits ns) {p : Pkt} {ac : Acc} {us : List Nat} (hac : ac.part = part ∧ ac.ctx = ctx)
    (hid : p.id = id) (t : At s0) (ht : (annotating part ctx id ns).inv t.1) : let u := after (appendTail p ac us) t
    Steps (Eff.Annotates ns) t.1 u ∧ SameStore t.1 u ∧ (u.pkt ctx id).isSome = true ∧ (u.pkt ctx id).map Pkt.seqIdx = some 0xFFFFFFFF := by
  obtain ⟨v, hv⟩ : ∃ v : At s0, (noteSeq ac p p.kv 0xFFFFFFFF t).2 = v := ⟨_, rfl⟩
  obtain ⟨⟨-, hstands⟩, hnote⟩ : (annotating part ctx id ns).inv v.1 ∧ Steps (Eff.Annotates ns) t.1 v.1 :=
    hv ▸ noteSeq_annotating (p := p) (i := 0xFFFFFFFF) (k := p.kv) hac.2 hid t ht
  have hstore : SameStore t.1 v.1 := hv ▸ ⟨rfl, rfl, rfl, rfl⟩
  have hidx : (v.1.pkt ctx id).map Pkt.seqIdx = some 0xFFFFFFFF := by
    have hnoted := pkt_noteSeq (ac := ac) (p := p) (k := p.kv) (i := 0xFFFFFFFF) t
    rw [hac.2, hid] at hnoted
    obtain ⟨y, hy⟩ := Option.isSome_iff_exists.1 ht.2
    subst hv
    refine (congrArg (Option.map Pkt.seqIdx) hnoted).trans ?_
    rw [hy]
    rfl
  have hcount : Steps Eff.CountsWork v.1 (after (each us countFree) v) := (Only.each _ fun _ => countFree_countsWork) v
  obtain ⟨hsame, hctxs⟩ := hcount.countsWork_keeps
  have hafter : after (appendTail p ac us) t = after (each us countFree) v := by
    unfold appendTail
    rw [after_bind, hv]
  have hpkt : (after (each us countFree) v).pkt ctx id = v.1.pkt ctx id := by
    unfold State.pkt State.ctxsAt
    rw [hctxs]
  dsimp only
  rw [hafter, hpkt]
  exact ⟨hnote.trans (hcount.mono fun _ h => .of_serves (.of_countsWork hn h)), hstore.trans hsame, hstands, hidx⟩

/-! ### KV_APPEND's end -/

/-- KV_APPEND goes on from its work where its units are ready. -/
theorem kvAppendBody_yields {p : Pkt} {ac : Acc} {l k : Log} {t u : At s0} {us : List Nat} (hready : t.1.unitsReady ac.ctx 4 us)
    (hac : ac.part = part ∧ ac.ctx = ctx) (ht : t.1.Still part ctx) (h : Yields (appendWork p ac) l t (us, []) k u) :
    Yields (kvAppendBody p ac) l t {} k (appendTail p ac us u).2 := by
  obtain ⟨us', k1, u1, hus, h⟩ := h.of_bind
  obtain ⟨_, k2, u2, hfall, h⟩ := h.of_bind
  obtain ⟨fs, happ, hpair⟩ := h.of_map
  obtain ⟨rfl, rfl⟩ := Prod.mk.inj hpair
  obtain ⟨hready, -⟩ := hready.read (fun S hac => S.appendUnits hac) ht hac hus
  exact .bind hus (.bind (needUnits_yields hready) (.bind hfall (.bind happ (.bind .liftUnit (.bind .liftUnit .pure)))))

theorem appendWork_annotating (hn : CountsUnits ns) {ac : Acc} (hac : ac.part = part ∧ ac.ctx = ctx) {p : Pkt} (hid : p.id = id) :
    AlongA (annotating part ctx id ns) (fun _ => True) (appendWork p ac : A s0 _) :=
  .bind ((storesWorking hn.toCounting).annotating.appendUnits hac) fun _ _ =>
    .bind (.lift (countFallback_reading hn).working.annotating) fun _ _ =>
      .bind (kvAppend_annotating hn.toCounting hac hid) fun _ _ => .pure trivial

theorem kvAppend_ends (c id : Nat) (s : State) (p : Pkt) (us : List Nat) (hready : s.ready c id 0x50 p (kvAppendBody p (s.acc c)))
    (hunits : s.unitsReady c 4 us) (hfinds : s.finds (appendWork p (s.acc c)) (us, [])) :
    Answers (.kvAppend c id) s fun t => t.ended c id stOk 0 ∧ t.slots = s.slots ∧ t.adapters = s.adapters ∧
      SameStore (s.runs (appendWork p (s.acc c))).2.2 t ∧ SameRegs (unitCounters ++ counters ++ followers) s t ∧
      (t.pkt c id).map Pkt.seqIdx = some 0xFFFFFFFF := by
  have hn := countsUnits_counters
  have hac : (s.acc c).part = s.partOf c ∧ (s.acc c).ctx = c := ⟨rfl, rfl⟩
  have ⟨⟨_, _, hpkt, _⟩, hcalm, _⟩ := hready
  have hid := State.pkt_id hpkt
  have hwork := hfinds.yields
  obtain ⟨hleft, hsteps, -⟩ := (appendWork_annotating hn hac hid).yields hwork ⟨hcalm.still, hpkt ▸ rfl⟩
  obtain ⟨htail, hstore, hsome, hidx⟩ := appendTail_leaves hn (us := us) hac hid _ hleft
  have hbody := kvAppendBody_yields (t := ⟨s, Reach.refl s⟩) (ac := s.acc c) hunits hac hcalm.still hwork
  obtain ⟨t, ht, hend, hbooked, hseq⟩ := runsBody_kvAppend.endsBooked hready (.inl rfl) hbody hsome
  have hall := (hsteps.trans htail).annotated
  refine ⟨t, ht, hend, hbooked.slots.trans hall.slots, hbooked.adapters.trans hall.adapters, ?_, ?_, hseq.trans hidx⟩
  · rw [hwork.runs]
    exact hstore.trans hbooked.store
  · exact SameRegs.booked hall.regs hbooked.regs (fun _ hm => hm) (by decide)

end Sys2Proof.Machine
end

section
/-!
PROOFS. Plans of writes rest on memory as a read finds it, not on packets (R173 to R175, R191, R307): in states that are alike they answer
alike.
-/
namespace Sys2Proof.Machine

variable {s0 : State} {α β γ : Type} {part ctx : Nat} {c id op : Nat}

/-- Two states in which accesses meet no error and find the same. -/
structure Alike (part ctx : Nat) (s t : State) : Prop where
  left : s.Still part ctx
  right : t.Still part ctx
  seen : ∀ x, t.seen x = s.seen x
  regs : SameRegs counters s t
  force : t.force = s.force
  tier : t.tier = s.tier

/-- An action answers alike in states that are alike, and leaves them so. -/
def Agrees (part ctx : Nat) (m : M s0 α) : Prop := ∀ t t' : At s0, Alike part ctx t.1 t'.1 →
  (m t').1 = (m t).1 ∧ Alike part ctx (after m t) (after m t')

/-- An operation that may stop does so. -/
def AgreesA (part ctx : Nat) (m : A s0 α) : Prop := ∀ l, Agrees part ctx (m.run.run l)

/-! ### Along the shape of a program -/

theorem Agrees.pure (a : α) : Agrees part ctx (Pure.pure a : M s0 α) := fun _ _ h => ⟨rfl, h⟩

theorem Agrees.bind {m : M s0 α} {f : α → M s0 β} (h : Agrees part ctx m) (k : ∀ a, Agrees part ctx (f a)) :
    Agrees part ctx (m >>= f) := fun t t' ht => by
  obtain ⟨heq, hal⟩ := h t t' ht
  have hk := k (m t).1 (m t).2 (m t').2 hal
  unfold after
  rw [bind_run, bind_run, heq]
  exact hk

/-- What follows a look at the state, where it looks at what is alike. -/
theorem Agrees.look {f : State → M s0 β} (hf : ∀ s t, Alike part ctx s t → f t = f s) (k : ∀ s, s.Still part ctx → Agrees part ctx (f s)) :
    Agrees part ctx (cur >>= f) := fun t t' ht => by
  have hk := k t.1 ht.left t t' ht
  unfold after
  rw [bind_run, bind_run, cur_run, cur_run, hf _ _ ht]
  exact hk

theorem Agrees.ite {b : Prop} [Decidable b] {m k : M s0 α} (h : b → Agrees part ctx m) (h' : ¬b → Agrees part ctx k) :
    Agrees part ctx (if b then m else k) := by
  split
  · next hb => exact h hb
  · next hb => exact h' hb

theorem AgreesA.pure (a : α) : AgreesA part ctx (Pure.pure a : A s0 α) := fun _ _ _ h => ⟨rfl, h⟩
theorem AgreesA.throw (e : Stop) : AgreesA part ctx (MonadExcept.throw e : A s0 α) := fun _ _ _ h => ⟨rfl, h⟩
theorem AgreesA.modify (f : Log → Log) : AgreesA part ctx (modifyThe Log f : A s0 Unit) := fun _ _ _ h => ⟨rfl, h⟩
theorem AgreesA.get : AgreesA part ctx (MonadState.get : A s0 Log) := fun _ _ _ h => ⟨rfl, h⟩
theorem AgreesA.lift {m : M s0 α} (h : Agrees part ctx m) : AgreesA part ctx (liftM m : A s0 α) := fun l t t' ht => by
  obtain ⟨heq, hal⟩ := h t t' ht
  refine ⟨?_, hal⟩
  change ((Except.ok (m t').1, l) : Except Stop α × Log) = (.ok (m t).1, l)
  rw [heq]

theorem AgreesA.andThen {m : A s0 α} {g : Except Stop α → StateT Log (M s0) (Except Stop β)} (h : AgreesA part ctx m)
    (k : ∀ r, AgreesA part ctx (ExceptT.mk (g r))) : AgreesA part ctx (ExceptT.mk (m.run >>= g)) := fun l t t' ht => by
  obtain ⟨heq, hal⟩ := h l t t' ht
  have hk := k (m.run.run l t).1.1 (m.run.run l t).1.2 _ _ hal
  change ((g (m.run.run l t').1.1).run (m.run.run l t').1.2 (m.run.run l t').2).1 = _ ∧
    Alike part ctx _ ((g (m.run.run l t').1.1).run (m.run.run l t').1.2 (m.run.run l t').2).2.1
  rw [heq]
  exact hk

theorem AgreesA.bind {m : A s0 α} {f : α → A s0 β} (h : AgreesA part ctx m) (k : ∀ a, AgreesA part ctx (f a)) :
    AgreesA part ctx (m >>= f) :=
  .andThen (g := ExceptT.bindCont f) h fun r => match r with
    | .ok a => k a
    | .error e => .throw e

theorem AgreesA.tryCatch {m : A s0 α} {f : Stop → A s0 α} (h : AgreesA part ctx m) (k : ∀ e, AgreesA part ctx (f e)) :
    AgreesA part ctx (MonadExcept.tryCatch m f) :=
  .andThen h fun r => match r with
    | .ok a => .pure a
    | .error e => k e

theorem AgreesA.look {f : State → A s0 β} (hf : ∀ s t, Alike part ctx s t → f t = f s) (k : ∀ s, s.Still part ctx → AgreesA part ctx (f s)) :
    AgreesA part ctx ((liftM (cur : M s0 State) : A s0 State) >>= f) := fun l t t' ht => by
  have hk := k t.1 ht.left l t t' ht
  change ((f t'.1).run.run l t').1 = _ ∧ Alike part ctx _ ((f t'.1).run.run l t').2.1
  rw [hf _ _ ht]
  exact hk

theorem AgreesA.ite {b : Prop} [Decidable b] {m k : A s0 α} (h : AgreesA part ctx m) (h' : AgreesA part ctx k) :
    AgreesA part ctx (if b then m else k) := by
  split <;> assumption

/-! ### What is alike -/

section
variable {s t : State} (h : Alike part ctx s t)
include h

theorem Alike.inForce (f : Fld) (i j k : Nat) : t.inForce f i j k = s.inForce f i j k := by
  unfold State.inForce
  rw [h.force]

theorem Alike.backed (a : Nat) : t.backed a = s.backed a := by
  unfold State.backed State.capacity
  simp only [h.tier, h.inForce]

theorem Alike.leafDecision (ac : Acc) (e size va : Nat) (write : Bool) :
    Machine.leafDecision t ac e size va write = Machine.leafDecision s ac e size va write := by
  unfold Machine.leafDecision State.bindsSet State.allocatesSet State.windowOf State.windowShared
  simp only [h.backed, h.inForce, h.regs.fld (f := F.schCtxSets0_mask) (by decide), h.regs.fld (f := F.schCtxSets1_mask) (by decide)]

theorem Alike.leafAnswer (ac : Acc) (va : Nat) (write : Bool) (r : Except Nat (Nat × Nat)) :
    Machine.leafAnswer t ac va write r = Machine.leafAnswer s ac va write r := by
  cases r with
  | error st => rfl
  | ok x => exact h.leafDecision ac x.1 x.2 _ write

theorem Alike.refusesWrite (a : Nat) : t.refusesWrite a = s.refusesWrite a := by
  unfold State.refusesWrite State.rowSealed State.rowBusy
  rw [h.tier, h.regs.fld (by decide)]

end

/-- States that are alike stay so while an action reads. -/
theorem Along.agrees {m : M s0 α} (h : Along (reading part ctx counters) m)
    (hans : ∀ t t' : At s0, Alike part ctx t.1 t'.1 → (m t').1 = (m t).1) : Agrees part ctx m := fun t t' ht => by
  obtain ⟨hleft, hsteps, hseen⟩ := h t ht.left
  obtain ⟨hright, hsteps', hseen'⟩ := h t' ht.right
  refine ⟨hans t t' ht, hleft, hright, fun x => ?_, fun r hr => ?_, ?_, ?_⟩
  · rw [hseen', ht.seen, hseen]
  · rw [hsteps'.served.regs r hr, ht.regs r hr, hsteps.served.regs r hr]
  · rw [hsteps'.served.force, ht.force, hsteps.served.force]
  · rw [hsteps'.served.tier, ht.tier, hsteps.served.tier]

theorem readGran_agrees {w : Who} {g : Nat} (hg : Quiet g) : Agrees part ctx (readGran w g : M s0 _) :=
  (readGran_reading counting_counters hg).agrees fun t t' ht => by
    obtain ⟨hread, -⟩ := readGran_reads (w := w) counting_counters hg ht.left
    obtain ⟨hread', -⟩ := readGran_reads (w := w) counting_counters hg ht.right
    rw [hread, hread', State.seenGran_congr ht.seen]

/-! ### Plans -/

theorem walkFrom_agrees {ac : Acc} {va fuel level table : Nat} (h : inTiers table = true) :
    Agrees part ctx (walkFrom ac va fuel level table : M s0 _) := by
  let S := servesReading part ctx counting_counters
  induction fuel generalizing level table with
  | zero => exact .pure _
  | succ fuel ih =>
    refine .look (fun s t hst => ?_) fun s _ => .ite (fun _ => .pure _) fun hb => .bind (readGran_agrees ?_) fun r => ?_
    · simp only [hst.backed]
    · exact S.entry s table _ h (Nat.le_add_right ..) (tableEntry_lt ..) (by simpa using hb)
    · obtain ⟨r, rb⟩ := r
      cases r with
      | none => exact .pure _
      | some bs =>
        refine .ite (fun _ => .pure _) fun _ => .ite (fun _ => .ite (fun _ => .pure _) fun _ => .pure _) fun _ => .ite (fun _ => .pure _) fun hn => ?_
        simp only [not_or, Bool.not_eq_false] at hn
        exact .bind (ih hn.2.2.2) fun _ => .pure _

theorem leafWalk_agrees {ac : Acc} {va : Nat} (hac : ac.part = part) : Agrees part ctx (leafWalk ac va : M s0 _) := by
  refine .look (fun s t hst => ?_) fun s hs => .ite (fun _ => .pure _) fun _ => walkFrom_agrees ?_
  · simp only [hst.inForce]
  · rw [hac]
    exact hs.tables

theorem noteGran_agrees {g : Nat} {write : Bool} : AgreesA part ctx (noteGran g write : A s0 Unit) := .ite (.modify _) (.pure ())

theorem noteGrans_agrees {write : Bool} {gs : List Nat} : AgreesA part ctx (noteGrans write gs : A s0 Unit) := by
  induction gs with
  | nil => exact .pure ()
  | cons g gs ih => exact .bind noteGran_agrees fun _ => ih

theorem noteRebuilt_agrees {gs : List Nat} : AgreesA part ctx (noteRebuilt gs : A s0 Unit) := by
  induction gs with
  | nil => exact .pure ()
  | cons g gs ih => exact .bind noteGrans_agrees fun _ => .bind (.modify _) fun _ => ih

theorem tr_agrees {ac : Acc} {va : Nat} {write : Bool} (hac : ac.part = part) : AgreesA part ctx (tr ac va write : A s0 Nat) := by
  refine .bind (.bind (.lift (leafWalk_agrees hac)) fun x => .bind (.bind noteGrans_agrees fun _ => noteRebuilt_agrees) fun _ => .pure _) fun r =>
    .look (fun s t hst => ?_) fun s _ => ?_
  · simp only [hst.leafAnswer]
  · split
    · exact .pure _
    · exact .ite (.throw _) (.throw _)

theorem needLink_agrees {a : Nat} : AgreesA part ctx (needLink a : A s0 Unit) := by
  refine .ite (.look (fun s t hst => ?_) fun s _ => .ite (.throw _) (.ite (.throw _) (.pure ()))) (.pure ())
  rw [hst.regs.fld (by decide)]

theorem snoopAll_agrees {ac : Acc} {write : Bool} {gs : List Nat} : AgreesA part ctx (snoopAll ac write gs : A s0 Unit) := by
  induction gs with
  | nil => exact .pure ()
  | cons g gs ih =>
    refine .bind (.look (fun s t hst => ?_) fun s hs => ?_) fun _ => ih
    · simp only [hst.left.untracked, hst.right.untracked, List.any_nil, Bool.false_and, Bool.false_eq_true, if_false]
    · simp only [hs.untracked, List.any_nil, Bool.false_and, Bool.false_eq_true, if_false, List.find?_nil]
      exact .ite (.bind .get fun _ => .pure ()) (.pure ())

theorem wrPieces_agrees {ac : Acc} (hac : ac.part = part) {w : Wr} {ps : List (Nat × Nat × Nat)} :
    AgreesA part ctx (wrPieces ac w ps : A s0 (List Wr)) := by
  induction ps with
  | nil => exact .pure _
  | cons p ps ih =>
    have hpiece : AgreesA part ctx (do
        let a ← tr ac p.1 true
        if (← (cur : M s0 _)).refusesWrite a then throw (.flt 0x21 p.1 true ac.source)
        needLink a
        snoopAll ac true (gransOf a p.2.2)
        noteUse ac a p.2.2 true
        pure [{ va := a, bs := (w.bs.drop p.2.1).take p.2.2, half := w.half }] : A s0 (List Wr)) := by
      have hrest (a : Nat) : AgreesA part ctx (do
          needLink a
          snoopAll ac true (gransOf a p.2.2)
          noteUse ac a p.2.2 true
          pure [{ va := a, bs := (w.bs.drop p.2.1).take p.2.2, half := w.half }] : A s0 (List Wr)) :=
        .bind needLink_agrees fun _ => .bind snoopAll_agrees fun _ => .bind (.ite (.pure _) noteGrans_agrees) fun _ => .pure _
      refine .bind (tr_agrees hac) fun a => .look (fun s t hst => ?_) fun s _ => .ite (.bind (.throw _) fun _ => hrest a) (hrest a)
      simp only [hst.refusesWrite]
    exact .bind (.ite (.tryCatch hpiece fun _ => .pure _) hpiece) fun _ => .bind ih fun _ => .pure _

/-- A plan of writes answers alike in states that are alike. -/
theorem wrPlan_agrees {ac : Acc} (hac : ac.part = part) {ws : List Wr} : AgreesA part ctx (wrPlan ac ws : A s0 (List Wr)) := by
  induction ws with
  | nil => exact .pure _
  | cons w ws ih => exact .bind (wrPieces_agrees hac) fun _ => .bind ih fun _ => .pure _

/-- What is answered in a state is answered in one alike. -/
theorem AgreesA.yields {m : A s0 α} (h : AgreesA part ctx m) {l k : Log} {t t' u : At s0} {a : α} (hm : Yields m l t a k u)
    (ht : Alike part ctx t.1 t'.1) : ∃ u', Yields m l t' a k u' ∧ Alike part ctx u.1 u'.1 := by
  obtain ⟨heq, hal⟩ := h l t t' ht
  unfold Yields after at *
  rw [hm] at heq hal
  exact ⟨(m.run.run l t').2, Prod.ext heq rfl, hal⟩

end Sys2Proof.Machine
end

section
/-!
PROOFS. ATTEND (R263 to R267): every sequence attended counts once, near or on cores; the output rows are stored.
-/
namespace Sys2Proof.Machine

variable {s0 : State} {α β γ : Type} {part ctx : Nat} {ns : List RegName} {c id op : Nat} {K : Course}

/-! ### The parts of an attention packet -/

/-- The counters of a sequence's work beside its own, and all that ATTEND may raise. -/
def sequenceCounters : List RegName := .hbAttnJoins :: unitCounters ++ counters
def attendCounters : List RegName := [.hbAttnNearSeqs, .hbAttnCoreSeqs] ++ sequenceCounters

theorem countsUnits_sequence : CountsUnits sequenceCounters :=
  ⟨⟨⟨by decide, by decide⟩, by decide, by decide⟩, by decide⟩
theorem countsUnits_attend : CountsUnits attendCounters :=
  ⟨⟨⟨by decide, by decide⟩, by decide, by decide⟩, by decide⟩

theorem Stores.useStage (E : Stores K) {ac : Acc} (h : E.acc ac) {p : Pkt} {words us : List Nat} :
    AlongA K (fun _ => True) (Machine.useStage p ac words us : A s0 Unit) := by
  refine .bind (.mapAll _ fun n => .ite (.bind (.mapAll _ fun b => .bind (E.pageHome h) fun _ _ => .ite ?_ (.pure trivial)) fun _ _ =>
    .pure trivial) (.pure trivial)) fun _ _ => .pure trivial
  exact .bind (.mapAll _ fun _ => .bind (.lift E.freeBytes) fun _ _ => E.wrAll E.one h) fun _ _ => .pure trivial

theorem countJoins_reading (hn : CountsUnits ns) (hjoins : RegName.hbAttnJoins ∈ ns) {k : Kv} {x : KvSeq} {pages : List KvPage} :
    Along (reading part ctx ns) (countJoins k x pages : M s0 Unit) :=
  .each _ fun _ => .ite (.bind (bump_reading hn.toCounting hjoins) fun _ => bump_units hn (by decide)) (.pure ())

/-- The run of an operation whose stop is caught. -/
theorem tryCatch_run {m : A s0 α} {f : Stop → A s0 α} {l : Log} {t : At s0} :
    (ExceptT.tryCatch m f).run.run l t = match m.run.run l t with
      | ((.ok a, k), u) => ((.ok a, k), u)
      | ((.error e, k), u) => (f e).run.run k u := by
  unfold ExceptT.tryCatch
  rw [ExceptT.run_mk, StateT.run_bind, bind_run]
  rcases hrun : m.run.run l t with ⟨⟨r, k⟩, u⟩
  have hm : StateT.run m l t = ((r, k), u) := hrun
  rw [hm]
  cases r <;> rfl

/-- An operation whose stop is caught ran to its end, or what caught it did. -/
theorem Yields.of_tryCatch {m : A s0 α} {f : Stop → A s0 α} {l k : Log} {t u : At s0} {a : α}
    (h : Yields (MonadExcept.tryCatch m f) l t a k u) : Yields m l t a k u ∨ ∃ e j v, Yields (f e) j v a k u := by
  replace h := tryCatch_run.symm.trans h
  rcases hm : m.run.run l t with ⟨⟨r, j⟩, v⟩
  rw [hm] at h
  cases r with
  | ok b => exact .inl (hm.trans h)
  | error e => exact .inr ⟨e, j, v, h⟩

/-- A part that ran to its end. -/
theorem Yields.of_partOfWork {ac : Acc} {p : Pkt} {m : A s0 α} {l k : Log} {t u : At s0} {y : α}
    (h : Yields (partOfWork ac p m) l t (.ok y) k u) : Yields m l t y k u := by
  obtain h | ⟨e, j, v, h⟩ := h.of_tryCatch
  · obtain ⟨z, hm, hz⟩ := h.of_map
    cases hz
    exact hm
  · cases e <;> cases h

theorem failedParts_ok {rs : List (Except (Nat × Stop) α)} (h : ∀ r ∈ rs, r.isOk = true) : failedParts rs = [] := by
  refine List.filterMap_eq_nil_iff.2 fun r hr => ?_
  cases r with
  | ok a => rfl
  | error e => exact absurd (h _ hr) (by simp [Except.isOk, Except.toBool])

/-! ### Sequences counted -/

/-- The counts of sequences have risen (R17). -/
structure SeqsCounted (s t : State) (near core : Nat) : Prop where
  near : t.fld F.hbAttnNearSeqs_count = satAdd 64 (s.fld F.hbAttnNearSeqs_count) near
  core : t.fld F.hbAttnCoreSeqs_count = satAdd 64 (s.fld F.hbAttnCoreSeqs_count) core

theorem SeqsCounted.trans {s t u : State} {m n m' n' : Nat} (h : SeqsCounted s t m n) (k : SeqsCounted t u m' n') :
    SeqsCounted s u (m + m') (n + n') :=
  ⟨by rw [k.near, h.near, satAdd_satAdd], by rw [k.core, h.core, satAdd_satAdd]⟩

/-- Work that raises neither count. -/
theorem SeqsCounted.of_regs {s t : State} (h : SameRegs ns s t) (hnear : RegName.hbAttnNearSeqs ∉ ns) (hcore : RegName.hbAttnCoreSeqs ∉ ns) :
    SeqsCounted s t 0 0 :=
  ⟨(h.fld hnear 0 0 0).trans (satAdd_zero (State.fld_lt ..)).symm, (h.fld hcore 0 0 0).trans (satAdd_zero (State.fld_lt ..)).symm⟩

/-- What a stretch of ATTEND's work leaves, with the sequences it counts. -/
structure Attending (part ctx id : Nat) (s t : State) (near core : Nat) : Prop where
  inv : (annotating part ctx id attendCounters).inv t
  steps : Steps (Eff.Annotates attendCounters) s t
  counted : SeqsCounted s t near core

theorem Attending.trans {s t u : State} {m n m' n' : Nat} (h : Attending part ctx id s t m n) (k : Attending part ctx id t u m' n') :
    Attending part ctx id s u (m + m') (n + n') := ⟨k.inv, h.steps.trans k.steps, h.counted.trans k.counted⟩

theorem Eff.Annotates.mono {ms : List RegName} (hs : ns ⊆ ms) {e : Eff} (h : e.Annotates ns) : e.Annotates ms := by
  cases e <;> first | exact hs h | exact h

/-- Work along a sequence's course counts no sequence. -/
theorem AlongA.attending {Q : α → Prop} {m : A s0 α} (h : AlongA (Machine.annotating part ctx id sequenceCounters) Q m) {l k : Log} {t u : At s0} {a : α}
    (hm : Yields m l t a k u) (ht : (Machine.annotating part ctx id attendCounters).inv t.1) : Attending part ctx id t.1 u.1 0 0 := by
  obtain ⟨hinv, hsteps, -⟩ := h.yields hm ht
  exact ⟨hinv, hsteps.mono fun _ => .mono (List.subset_append_right ..), .of_regs hsteps.annotated.regs (by decide) (by decide)⟩

/-- A sequence's own count. -/
theorem countSeq_attending {near : Bool} {t : At s0} (ht : (annotating part ctx id attendCounters).inv t.1) :
    Attending part ctx id t.1 (after (bump (if near then F.hbAttnNearSeqs_count else F.hbAttnCoreSeqs_count) 1) t)
      (if near then 1 else 0) (if near then 0 else 1) := by
  have hname : (if near then F.hbAttnNearSeqs_count else F.hbAttnCoreSeqs_count).reg ∈ attendCounters := by cases near <;> decide
  obtain ⟨hinv, hsteps⟩ := (bump_reading countsUnits_attend.toCounting hname (d := 1)).working.annotating t ht
  refine ⟨hinv, hsteps, ?_, ?_⟩
  · cases near
    · exact (fld_after_bump_name t (by decide)).trans (satAdd_zero (State.fld_lt ..)).symm
    · exact fld_after_bump t (by decide) (by decide) (by decide)
  · cases near
    · exact fld_after_bump t (by decide) (by decide) (by decide)
    · exact (fld_after_bump_name t (by decide)).trans (satAdd_zero (State.fld_lt ..)).symm

section
variable {ac : Acc} (hac : ac.part = part ∧ ac.ctx = ctx) {p : Pkt} (hid : p.id = id)
include hac hid

theorem attendSeq_attending {k : Kv} {near : Bool} {i : Nat} {x : KvSeq} {l j : Log} {t u : At s0} {rows : List (List Wr × Nat × Nat)}
    (h : Yields (attendSeq p ac k near i x) l t rows j u) (ht : (annotating part ctx id attendCounters).inv t.1) :
    Attending part ctx id t.1 u.1 (if near then 1 else 0) (if near then 0 else 1) := by
  have hn := countsUnits_sequence
  let E := (storesWorking (part := part) (ctx := ctx) hn.toCounting).annotating (id := id)
  have hvia : ∀ s u, E.acc (State.via s ac u) := fun _ u => via_serves hac u
  have hnote {i : Nat} : Along (annotating part ctx id sequenceCounters) (noteSeq ac p k i : M s0 Unit) := noteSeq_annotating hac.2 hid
  obtain ⟨_, j1, u1, hfirst, h⟩ := h.of_bind
  obtain ⟨rs, j2, u2, hrows, h⟩ := h.of_bind
  obtain ⟨_, j3, u3, hcount, h⟩ := h.of_bind
  obtain ⟨-, rfl, rfl⟩ := h.of_pure
  obtain ⟨-, -, rfl⟩ := hcount.of_lift
  have hbefore := AlongA.attending (AlongA.lift hnote) hfirst ht
  have hwork := AlongA.attending (Q := fun _ => True) (.mapAll _ fun kh => .bind (E.kvReadPages hac hvia) fun pages _ =>
    .ifThen (.lift (countJoins_reading hn (by decide)).working.annotating) fun _ => .bind (.mapAll _ fun y => .bind (.lift hnote) fun _ _ =>
      .bind (E.rdRotary hac) fun cs _ => .bind (.lift hnote) fun _ _ => .mapAll _ fun g => .bind (E.rdRow hac) fun _ _ => .pure trivial)
        fun _ _ => .pure trivial) hrows hbefore.inv
  have hall := (hbefore.trans hwork).trans (countSeq_attending (near := near) hwork.inv)
  rwa [Nat.zero_add, Nat.zero_add] at hall

theorem attendSeqs_attending {k : Kv} {near : KvSeq → Bool} {xs : List (Nat × KvSeq)} {l j : Log} {t u : At s0}
    {rs : List (Except (Nat × Stop) (List (List Wr × Nat × Nat)))}
    (h : Yields (mapA (fun (i, x) => partOfWork ac p (attendSeq p ac k (near x) i x)) xs) l t rs j u) (hok : ∀ r ∈ rs, r.isOk = true)
    (ht : (annotating part ctx id attendCounters).inv t.1) :
    Attending part ctx id t.1 u.1 (xs.filter fun x => near x.2 == true).length (xs.filter fun x => near x.2 == false).length := by
  induction xs generalizing l t rs with
  | nil =>
    obtain ⟨-, -, rfl⟩ := h.of_pure
    exact ⟨ht, .refl _, .of_regs (ns := []) (fun _ _ => rfl) (by simp) (by simp)⟩
  | cons x xs ih =>
    obtain ⟨r, j1, u1, hx, h⟩ := h.of_bind
    obtain ⟨rs', hxs, rfl⟩ := h.of_map
    obtain ⟨rows, rfl⟩ : ∃ rows, r = .ok rows := by
      cases r with
      | ok rows => exact ⟨rows, rfl⟩
      | error e => exact absurd (hok _ (List.mem_cons_self ..)) (by simp [Except.isOk, Except.toBool])
    have hone := attendSeq_attending hac hid hx.of_partOfWork ht
    have hall := hone.trans (ih hxs (fun r hr => hok r (List.mem_cons_of_mem _ hr)) hone.inv)
    cases hnear : near x.2 <;> rw [hnear] at hall <;> simpa [hnear, Nat.add_comm] using hall

/-- The work of ATTEND counts every sequence once. -/
theorem attendWork_attending {l k : Log} {t u : At s0} {words us : List Nat} {fs : List (Nat × Stop)}
    {rs : List (Except (Nat × Stop) (List (List Wr × Nat × Nat)))} (h : Yields (attendWork p ac) l t (words, us, fs, rs) k u)
    (hok : ∀ r ∈ rs, r.isOk = true) (ht : (annotating part ctx id attendCounters).inv t.1) :
    Attending part ctx id t.1 u.1 (p.placed words true) (p.placed words false) := by
  have hn := countsUnits_sequence
  let E := (storesWorking (part := part) (ctx := ctx) hn.toCounting).annotating (id := id)
  obtain ⟨words', k1, u1, hwords, h⟩ := h.of_bind
  obtain ⟨wr, k2, u2, hwr, h⟩ := h.of_bind
  obtain ⟨at_, k3, u3, hat, h⟩ := h.of_bind
  obtain ⟨_, k4, u4, hfall, h⟩ := h.of_bind
  obtain ⟨_, k5, u5, hstage, h⟩ := h.of_bind
  obtain ⟨fs', k6, u6, happ, h⟩ := h.of_bind
  obtain ⟨rs', hseqs, hpair⟩ := h.of_map
  simp only [Prod.mk.injEq] at hpair
  obtain ⟨rfl, rfl, rfl, rfl⟩ := hpair
  have h1 := (E.stageWords hac).attending hwords ht
  have h2 := (AlongA.ite (E.appendUnits hac) (.pure trivial)).attending hwr h1.inv
  have h3 := (E.attendUnits hac).attending hat h2.inv
  have h4 := (AlongA.lift (countFallback_reading hn).working.annotating).attending hfall h3.inv
  have h5 := (E.useStage hac).attending hstage h4.inv
  have h6 := (AlongA.ite (kvAppend_annotating hn.toCounting hac hid) (.pure trivial)).attending happ h5.inv
  have h7 := attendSeqs_attending hac hid hseqs hok h6.inv
  have hall := (((((h1.trans h2).trans h3).trans h4).trans h5).trans h6).trans h7
  simp only [Nat.zero_add] at hall
  exact hall

end

/-! ### ATTEND's end -/

/-- The rows of the sequences attended. -/
def attendRows (rs : List (Except (Nat × Stop) (List (List Wr × Nat × Nat)))) : List (List Wr × Nat × Nat) :=
  rs.flatMap fun r => match r with
    | .ok rows => rows
    | .error _ => []

theorem flatMap_attendRows (rs : List (Except (Nat × Stop) (List (List Wr × Nat × Nat)))) :
    (attendRows rs).flatMap Prod.fst = attendWrites rs := by
  unfold attendRows attendWrites
  rw [List.flatMap_assoc]
  refine congrArg (rs.flatMap ·) (funext fun r => ?_)
  cases r <;> rfl

/-- What ATTEND does after its work: it notes no sequence, puts its rows, and counts its units. -/
def attendEnd (p : Pkt) (ac : Acc) (us : List Nat) (rows : List (List Wr × Nat × Nat)) : A s0 Fin := do
  (noteSeq ac p p.kv 0xFFFFFFFF : M s0 _)
  putRows ac p.dies rows
  (each us countFree : M s0 _)
  (openDest ac (p.desc 5) [p.desc 2, p.desc 10] : M s0 _)
  pure {}

/-- A note leaves all that accesses rest on. -/
theorem noteSeq_alike {ac : Acc} {p : Pkt} {k : Kv} {i : Nat} {t : At s0} (ht : t.1.Still part ctx) :
    Alike part ctx t.1 (after (noteSeq ac p k i) t) := ⟨ht, ht.of_ctxs _, fun _ => rfl, fun _ _ => rfl, rfl, rfl⟩

/-- What ATTEND plans after its work is stored, though its packet notes no sequence any more. -/
theorem attendEnd_stores (hn : CountsUnits ns) {ac : Acc} (hac : ac.part = part ∧ ac.ctx = ctx) {p : Pkt} (hid : p.id = id) {us : List Nat}
    {rows : List (List Wr × Nat × Nat)} {ws ps : List Wr} {k k' : Log} {t u : At s0} (ht : (annotating part ctx id ns).inv t.1)
    (hrows : rows.flatMap Prod.fst = ws) (hplan : Yields (wrPlan ac ws) k t ps k' u) :
    ∃ w, Yields (attendEnd p ac us rows) k t {} k' w ∧ (annotating part ctx id ns).inv w.1 ∧
      Steps (Eff.Annotates ns) t.1 w.1 ∧ ((p.desc 5).apart [p.desc 2, p.desc 10] = true → ∀ a, w.1.seen a = t.1.after ps a) := by
  obtain ⟨v, hv⟩ : ∃ v : At s0, (noteSeq ac p p.kv 0xFFFFFFFF t).2 = v := ⟨_, rfl⟩
  obtain ⟨hinv, hnote⟩ : (annotating part ctx id ns).inv v.1 ∧ Steps (Eff.Annotates ns) t.1 v.1 :=
    hv ▸ noteSeq_annotating (p := p) (i := 0xFFFFFFFF) (k := p.kv) hac.2 hid t ht
  have halike : Alike part ctx t.1 v.1 := hv ▸ noteSeq_alike ht.1
  obtain ⟨v1, hplan1, -⟩ := (wrPlan_agrees hac.1).yields hplan halike
  obtain ⟨hstill1, ⟨hsteps1, hseen1⟩, -⟩ := ((servesReading part ctx hn.toCounting).wrPlan hac).yields hplan1 hinv.1
  obtain ⟨v2, hput, hwrote⟩ := Yields.putRows (dies := p.dies) hn.toCountsRows hrows hplan1 hstill1
  have hcount : Along (reading part ctx ns) (each us countFree : M s0 Unit) := .each _ fun _ => countFree_reading hn
  obtain ⟨v3, hv3⟩ : ∃ v3 : At s0, (each us countFree v2).2 = v3 := ⟨_, rfl⟩
  obtain ⟨hstill3, hsteps3, hseen3⟩ : v3.1.Still part ctx ∧ Steps (Eff.Serves ns) v2.1 v3.1 ∧ ∀ x, v3.1.seen x = v2.1.seen x :=
    hv3 ▸ hcount v2 hwrote.still
  obtain ⟨w, hw⟩ : ∃ w : At s0, (openDest ac (p.desc 5) [p.desc 2, p.desc 10] v3).2 = w := ⟨_, rfl⟩
  obtain ⟨hstill, hopen⟩ : w.1.Still part ctx ∧ Steps (Eff.Serves ns) v3.1 w.1 :=
    hw ▸ openDest_working hn.toCounting hac v3 hstill3
  have hserves := ((hsteps1.trans hwrote.steps).trans hsteps3).trans hopen
  obtain ⟨hinvw, hstepsw⟩ := annotating_of_working hinv hstill hserves
  refine ⟨w, ?_, hinvw, hnote.trans hstepsw, fun hapart a => ?_⟩
  · subst hv hv3 hw
    exact .bind .liftUnit (.bind hput (.bind .liftUnit (.bind .liftUnit .pure)))
  · have hlast : w = v3 := by rw [← hw, openDest_apart hapart]; rfl
    rw [hlast, hseen3, hwrote.seen]
    unfold State.after
    rw [funext fun x => (hseen1 x).trans (halike.seen x)]

/-- ATTEND goes on from its work where its units are ready. -/
theorem attendBody_yields {p : Pkt} {ac : Acc} {l k k' : Log} {t u w : At s0} {words us : List Nat}
    {rs : List (Except (Nat × Stop) (List (List Wr × Nat × Nat)))} (hready : t.1.unitsReady ac.ctx 4 us)
    (hac : ac.part = part ∧ ac.ctx = ctx) (ht : t.1.Still part ctx) (hok : ∀ r ∈ rs, r.isOk = true)
    (h : Yields (attendWork p ac) l t (words, us, [], rs) k u) (hend : Yields (attendEnd p ac us (attendRows rs)) k u {} k' w) :
    Yields (attendBody p ac) l t {} k' w := by
  obtain ⟨words', k1, u1, hwords, h⟩ := h.of_bind
  obtain ⟨wr, k2, u2, hwr, h⟩ := h.of_bind
  obtain ⟨at_, k3, u3, hat, h⟩ := h.of_bind
  obtain ⟨_, k4, u4, hfall, h⟩ := h.of_bind
  obtain ⟨_, k5, u5, hstage, h⟩ := h.of_bind
  obtain ⟨fs, k6, u6, happ, h⟩ := h.of_bind
  obtain ⟨rs', hseqs, hpair⟩ := h.of_map
  simp only [Prod.mk.injEq] at hpair
  obtain ⟨rfl, rfl, rfl, rfl⟩ := hpair
  obtain ⟨hready1, hstill1⟩ := hready.read (fun S hac => S.stageWords hac) ht hac hwords
  obtain ⟨hready2, hstill2⟩ := hready1.read (fun S hac => .ite (S.appendUnits hac) (.pure trivial)) hstill1 hac hwr
  obtain ⟨hready3, -⟩ := hready2.read (fun S hac => S.attendUnits hac) hstill2 hac hat
  obtain ⟨_, k7, u7, hnote, hend⟩ := hend.of_bind
  have hparts : Yields (endParts ac p p.kv ([] ++ failedParts rs)) k u () k7 u7 := by
    rw [failedParts_ok hok]
    exact hnote
  exact .bind hwords (.bind hwr (.bind hat (.bind (needUnits_yields hready3) (.bind hfall (.bind hstage (.bind happ (.bind hseqs
    (.bind hparts hend))))))))

theorem attend_ends (c id : Nat) (s : State) (p : Pkt) (words us : List Nat)
    (rs : List (Except (Nat × Stop) (List (List Wr × Nat × Nat)))) (ps : List Wr)
    (hready : s.ready c id 0x51 p (attendBody p (s.acc c))) (hunits : s.unitsReady c 4 us) (hok : ∀ r ∈ rs, r.isOk = true)
    (hfinds : s.finds (plans (s.acc c) (attendWork p (s.acc c)) fun v => attendWrites v.2.2.2) ((words, us, [], rs), ps)) :
    Answers (.attend c id) s fun t => t.ended c id stOk 0 ∧ t.slots = s.slots ∧ t.adapters = s.adapters ∧
      t.fld F.hbAttnNearSeqs_count = satAdd 64 (s.fld F.hbAttnNearSeqs_count) (p.placed words true) ∧
      t.fld F.hbAttnCoreSeqs_count = satAdd 64 (s.fld F.hbAttnCoreSeqs_count) (p.placed words false) ∧
      SameRegs ([.hbAttnNearSeqs, .hbAttnCoreSeqs, .hbAttnJoins] ++ unitCounters ++ counters ++ followers) s t ∧
      ((p.desc 5).apart [p.desc 2, p.desc 10] = true → ∀ a, t.seen a = (s.runs (attendWork p (s.acc c))).2.2.after ps a) := by
  have hac : (s.acc c).part = s.partOf c ∧ (s.acc c).ctx = c := ⟨rfl, rfl⟩
  have ⟨⟨_, _, hpkt, _⟩, hcalm, _⟩ := hready
  have hid := State.pkt_id hpkt
  obtain ⟨k, u, k', u', hwork, hplan⟩ := hfinds.of_plans
  have hdone := attendWork_attending hac hid hwork hok ⟨hcalm.still, hpkt ▸ rfl⟩
  obtain ⟨w, hend, ⟨-, hstands⟩, hsteps, hseen⟩ := attendEnd_stores countsUnits_sequence hac hid (us := us) hdone.inv (flatMap_attendRows rs) hplan
  have hbody := attendBody_yields (t := ⟨s, Reach.refl s⟩) (ac := s.acc c) hunits hac hcalm.still hok hwork hend
  obtain ⟨t, ht, hended, hbooked, -⟩ := runsBody_attend.endsBooked hready (.inl rfl) hbody hstands
  have hrest : SeqsCounted u.1 t 0 0 :=
    .of_regs (SameRegs.booked hsteps.annotated.regs hbooked.regs (fun _ hm => hm) (by decide)) (by decide) (by decide)
  obtain ⟨hnear, hcore⟩ := hdone.counted.trans hrest
  have hall := (hdone.steps.trans (hsteps.mono fun _ => .mono (List.subset_append_right ..))).annotated
  refine ⟨t, ht, hended, hbooked.slots.trans hall.slots, hbooked.adapters.trans hall.adapters, hnear, hcore,
    SameRegs.booked hall.regs hbooked.regs (fun _ hm => hm) (by decide), fun hapart a => ?_⟩
  rw [hbooked.store.seen, hseen hapart, hwork.runs]

end Sys2Proof.Machine
end

section
/-!
PROOFS. The packets of attention, of the index of pages and of adapters together, with the snapshots and the keys (R265 to R279, R286, R289, R306).
-/
namespace Sys2Proof.Machine

/-- Settles O27: each packet by its work's run along accesses that meet no error; KV_APPEND's and ATTEND's packets note what their
accesses belong to, which plans of writes do not rest on. -/
theorem snapshotsAndPrefixKeys : Obligations.SnapshotsAndPrefixKeys := by
  unfold Obligations.SnapshotsAndPrefixKeys
  exact ⟨kvAppend_ends, attend_ends, kvRelease_ends, prefixLookup_ends, prefixInsert_ends, kvMove_ends, adapterBind_ends,
    reqSnapshot_shows, adapterSnapshot_shows, pfxKeyLoad_loads, pfxKeyClear_clears⟩

end Sys2Proof.Machine
end

section
/-!
PROOFS. What a refresh of a context's status leaves (R32 to R34, R316, R318), and packets of the control class: their command is
their packet's action, then a refresh.
-/
namespace Sys2Proof.Machine

variable {s0 : State} {α β : Type} {c id op q : Nat}

/-! ### Registers, queues and contexts marked -/

/-- An effect that sets a register of the names given, or changes the callers' own state. -/
def Eff.Marks (ns : List RegName) : Eff → Prop
  | .reg r _ => r.name ∈ ns
  | .que _ _ | .ctxs _ _ => True
  | _ => False

theorem Eff.Marks.setsIn {ns : List RegName} {e : Eff} (h : e.Marks ns) : e.setsIn ns := by
  cases e <;> first | exact h | trivial

theorem Eff.Marks.mono {ns ms : List RegName} (hs : ns ⊆ ms) {e : Eff} (h : e.Marks ns) : e.Marks ms := by
  cases e <;> first | exact hs h | exact h

theorem Steps.marks_regs {ns : List RegName} {s t : State} (h : Steps (Eff.Marks ns) s t) : SameRegs ns s t :=
  h.sameRegs fun _ => Eff.Marks.setsIn

/-- Marks change the registers, the queues and the contexts alone. -/
theorem Steps.marks_eq {ns : List RegName} {s t : State} (h : Steps (Eff.Marks ns) s t) :
    t = { s with bank := t.bank, que := t.que, ctxs := t.ctxs } := by
  induction h with
  | refl => rfl
  | step _ e he ih =>
    rw [ih]
    cases e <;> first | rfl | exact he.elim

theorem Steps.marks_store {ns : List RegName} {s t : State} (h : Steps (Eff.Marks ns) s t) : SameStore s t := by
  rw [h.marks_eq]
  exact ⟨rfl, rfl, rfl, rfl⟩

theorem Steps.marks {ns : List RegName} {s t : State} (h : Steps (setsReg ns) s t) : Steps (Eff.Marks ns) s t :=
  h.mono fun e he => by
    obtain ⟨r, v, rfl, hr⟩ := he
    exact hr

theorem setF_marks {ns : List RegName} {f : Fld} {v i j k : Nat} (h : f.reg ∈ ns) : Only (Eff.Marks ns) (setF f v i j k : M s0 Unit) :=
  .setF' _ _ _ _ _ fun _ => h
theorem setFlag_marks {ns : List RegName} {f : Fld} {v : Bool} {i j k : Nat} (h : f.reg ∈ ns) :
    Only (Eff.Marks ns) (setFlag f v i j k : M s0 Unit) := setF_marks h
theorem setScalar_marks {i v : Nat} : Only (Eff.Marks [.clrS]) (setScalar c i v : M s0 Unit) := setF_marks (by decide)
theorem setPred_marks {i : Nat} {v : Bool} : Only (Eff.Marks [.clrPred]) (setPred c i v : M s0 Unit) :=
  .bind .cur fun _ => setF_marks (by decide)
theorem modQue_marks {ns : List RegName} {k : Nat} {f : Queue → Queue} : Only (Eff.Marks ns) (modQue k f : M s0 Unit) :=
  .bind .cur fun _ => .eff _ trivial
theorem modCtxs_marks {ns : List RegName} {k : Nat} {f : Ctx → Ctx} : Only (Eff.Marks ns) (modCtxs k f : M s0 Unit) :=
  .bind .cur fun _ => .eff _ trivial
theorem endPkt_marks {ns : List RegName} {st d : Nat} : Only (Eff.Marks ns) (endPkt c id st d : M s0 Unit) := modCtxs_marks
theorem waitPkt_marks {ns : List RegName} : Only (Eff.Marks ns) (waitPkt c id : M s0 Unit) := modCtxs_marks

/-! ### A refresh -/

/-- Fields of the registers that a refresh sets which it leaves. -/
def keptFlds : List Fld := [F.clrSqStatus_head, F.clrSqStatus_dbOverrun, F.clrCqStatus_tail, F.clrCtxStatus_cqXlateErr]

/-- The field shares no bit with one that a refresh leaves. -/
def Fld.clear (f : Fld) : Bool := keptFlds.all fun g => decide (f.reg ≠ g.reg) || decide (f.hi < g.lo) || decide (g.hi < f.lo)

/-- The second state shows what the first holds: status bits that follow a context, and when its state last changed, are all that
differs. -/
structure Follows (s t : State) : Prop where
  rest : t = { s with bank := t.bank, ctxs := t.ctxs }
  regs : SameRegs followers s t
  kept : ∀ f ∈ keptFlds, ∀ i j k, t.fld f i j k = s.fld f i j k
  ctx : ∀ k, ∃ a b, t.ctxsAt k = { s.ctxsAt k with since := a, blockedAt := b }

/-- The course of what shows a state. -/
def following : Course where
  inv _ := True
  rel := Follows
  refl _ := ⟨rfl, fun _ _ => rfl, fun _ _ _ _ _ => rfl, fun _ => ⟨_, _, rfl⟩⟩
  trans {s t u} h k := by
    refine ⟨?_, h.regs.trans k.regs, fun f hf i j m => (k.kept f hf i j m).trans (h.kept f hf i j m), fun m => ?_⟩
    · rw [k.rest, h.rest]
    · obtain ⟨a, b, ht⟩ := h.ctx m
      obtain ⟨a', b', hu⟩ := k.ctx m
      exact ⟨a', b', by rw [hu, ht]⟩

theorem setF_following {f : Fld} {v i j k : Nat} (hf : f.reg ∈ followers) (hfit : f.fits = true) (hclear : f.clear = true) :
    Along following (setF f v i j k : M s0 Unit) := fun t _ => by
  refine ⟨trivial, rfl, ((Only.setF (ns := followers) f v i j k hf) t).reg_eq, fun g hg i' j' k' => ?_, fun _ => ⟨_, _, rfl⟩⟩
  have hgfit : g.fits = true := by
    revert g
    decide
  have hdisj := List.all_eq_true.1 hclear g hg
  simp only [Bool.or_eq_true, decide_eq_true_eq, or_assoc] at hdisj
  obtain hne | hdisj := hdisj
  · exact fld_after_setF_ne f g v i j k i' j' k' t fun h => hne (congrArg Reg.name h).symm
  · exact fld_after_setF_other f g v i j k i' j' k' t hfit hgfit hdisj

theorem setFlag_following {f : Fld} {v : Bool} {i j k : Nat} (hf : f.reg ∈ followers) (hfit : f.fits = true)
    (hclear : f.clear = true) : Along following (setFlag f v i j k : M s0 Unit) := setF_following hf hfit hclear

theorem ctxsAt_modCtxs (k : Nat) (f : Ctx → Ctx) (t : At s0) (k' : Nat) :
    (after (modCtxs k f) t).ctxsAt k' = if k' = k then f (t.1.ctxsAt k) else t.1.ctxsAt k' := Tab.get_put ..

theorem modCtxs_following {k : Nat} {f : Ctx → Ctx} (hf : ∀ x, ∃ a b, f x = { x with since := a, blockedAt := b }) :
    Along following (modCtxs k f : M s0 Unit) := fun t _ => by
  refine ⟨trivial, rfl, fun _ _ => rfl, fun _ _ _ _ _ => rfl, fun k' => ?_⟩
  rw [ctxsAt_modCtxs]
  split
  · next h => exact h ▸ hf _
  · exact ⟨_, _, rfl⟩

theorem refreshSet_following {x : Nat} : Along following (refreshSet x : M s0 Unit) := by
  refine .bind .cur fun s => ?_
  have howner : Along following (match s.holderOf x with
      | some c => if s.fld F.cdSetOwner_partition (x / 40) (x % 40) ≠ s.fld F.schCtxCfg_partition c then
          setF F.cdSetOwner_partition (s.fld F.schCtxCfg_partition c) (x / 40) (x % 40) else pure ()
      | none => pure () : M s0 Unit) := by
    split
    · exact .ite (setF_following (by decide) (by decide) (by decide)) (.pure ())
    · exact .pure ()
  exact .ifThen (setF_following (by decide) (by decide) (by decide)) fun _ =>
    .ifThen (setFlag_following (by decide) (by decide) (by decide)) fun _ => howner

theorem refreshQueue_following : Along following (refreshQueue c q : M s0 Unit) :=
  .bind .cur fun _ => .bind (setFlag_following (by decide) (by decide) (by decide)) fun _ =>
    .bind (setFlag_following (by decide) (by decide) (by decide)) fun _ => setF_following (by decide) (by decide) (by decide)

theorem refreshCtx_following : Along following (refreshCtx c : M s0 Unit) :=
  .bind .cur fun _ => .bind (setF_following (by decide) (by decide) (by decide)) fun _ =>
    .bind (setFlag_following (by decide) (by decide) (by decide)) fun _ =>
      .bind (setFlag_following (by decide) (by decide) (by decide)) fun _ =>
        .bind (.each _ fun _ => refreshQueue_following) fun _ => .each _ fun _ => refreshSet_following

theorem refreshState_following : Along following (refreshState c : M s0 Unit) :=
  .bind .cur fun _ => .ite
    (.ite (.bind (setF_following (by decide) (by decide) (by decide)) fun _ =>
      .bind (setF_following (by decide) (by decide) (by decide)) fun _ =>
        .ite (modCtxs_following fun _ => ⟨_, _, rfl⟩) (.pure ())) (.pure ()))
    (.ite (.ite (.bind (setFlag_following (by decide) (by decide) (by decide)) fun _ =>
      .ite (modCtxs_following fun _ => ⟨_, _, rfl⟩) (.pure ())) (.pure ())) (.pure ()))

theorem refresh_following : Along following (refresh c : M s0 Unit) :=
  .bind refreshCtx_following fun _ => refreshState_following

theorem refresh_follows (t : At s0) : Follows t.1 (after (refresh c) t) := (refresh_following t trivial).2
theorem refreshState_follows (t : At s0) : Follows t.1 (after (refreshState c) t) := (refreshState_following t trivial).2

section
variable {s t : State} (h : Follows s t)
include h

theorem Follows.store : SameStore s t := by
  rw [h.rest]
  exact ⟨rfl, rfl, rfl, rfl⟩

theorem Follows.que : t.que = s.que := by rw [h.rest]
theorem Follows.queAt (k : Nat) : t.queAt k = s.queAt k := by
  unfold State.queAt
  rw [h.que]
theorem Follows.pwr : t.pwr = s.pwr := by rw [h.rest]
theorem Follows.out : t.out = s.out := by rw [h.rest]
theorem Follows.merges : t.merges = s.merges := h.store.2.2.1
theorem Follows.force : t.force = s.force := by rw [h.rest]

theorem Follows.pkts (k : Nat) : (t.ctxsAt k).pkts = (s.ctxsAt k).pkts := by
  obtain ⟨a, b, hk⟩ := h.ctx k
  rw [hk]

theorem Follows.held (k : Nat) : (t.ctxsAt k).held = (s.ctxsAt k).held := by
  obtain ⟨a, b, hk⟩ := h.ctx k
  rw [hk]

theorem Follows.cqPages (k : Nat) : (t.ctxsAt k).cqPages = (s.ctxsAt k).cqPages := by
  obtain ⟨a, b, hk⟩ := h.ctx k
  rw [hk]

theorem Follows.pkt (k i : Nat) : t.pkt k i = s.pkt k i := congrArg (List.find? fun p : Pkt => p.id == i) (h.pkts k)

theorem Follows.ended {k i st d : Nat} (hs : s.ended k i st d) : t.ended k i st d := by
  obtain ⟨p, hp, hrest⟩ := hs
  exact ⟨p, (h.pkt k i).trans hp, hrest⟩

theorem Follows.stands {k i : Nat} {st : PState} (hs : s.stands k i st) : t.stands k i st := by
  obtain ⟨p, hp, hrest⟩ := hs
  exact ⟨p, (h.pkt k i).trans hp, hrest⟩

/-- A field of a register that no refresh sets, or one of those it leaves. -/
theorem Follows.fld {f : Fld} (hf : f.reg ∉ followers ∨ f ∈ keptFlds) (i j k : Nat) : t.fld f i j k = s.fld f i j k :=
  hf.elim (fun hf => h.regs.fld hf i j k) fun hf => h.kept f hf i j k

theorem Follows.flag {f : Fld} (hf : f.reg ∉ followers ∨ f ∈ keptFlds) (i j k : Nat) : t.flag f i j k = s.flag f i j k :=
  congrArg (· != 0) (h.fld hf i j k)

theorem Follows.scalar (k i : Nat) : t.scalar k i = s.scalar k i := h.fld (.inl (by decide)) _ _ _
theorem Follows.pred (k i : Nat) : t.pred k i = s.pred k i := congrArg (bit · i) (h.fld (.inl (by decide)) _ _ _)

end

/-! ### Packets that end or wait -/

theorem ended_endPkt {t : At s0} {p : Pkt} (h : t.1.pkt c id = some p) (st d : Nat) : (after (endPkt c id st d) t).ended c id st d :=
  ⟨_, (pkt_endPkt st d t).trans (congrArg (Option.map _) h), rfl, rfl, rfl⟩

theorem pkt_waitPkt (t : At s0) : (after (waitPkt c id) t).pkt c id = (t.1.pkt c id).map fun y => { y with st := .waiting } :=
  pkt_modPkt c id (fun y => { y with st := .waiting }) (fun _ => rfl) t

theorem stands_waitPkt {t : At s0} {p : Pkt} (h : t.1.pkt c id = some p) : (after (waitPkt c id) t).stands c id .waiting :=
  ⟨_, (pkt_waitPkt t).trans (congrArg (Option.map _) h), rfl⟩

/-- A packet with another number stays as it is. -/
theorem pkt_modPkt_ne {i : Nat} (hi : i ≠ id) (f : Pkt → Pkt) (hf : ∀ p, (f p).id = p.id) (t : At s0) :
    (after (modPkt c id f) t).pkt c i = t.1.pkt c i := by
  have hfind : ∀ l : List Pkt, (l.map fun p => if p.id == id then f p else p).find? (fun p => p.id == i) =
      l.find? fun p => p.id == i := by
    intro l
    induction l with
    | nil => rfl
    | cons p l ih =>
      rw [List.map_cons, List.find?_cons, List.find?_cons, ih]
      by_cases hp : p.id = id
      · have hne : (id == i) = false := by simpa using fun h => hi h.symm
        simp only [hp, BEq.rfl, if_true, hf, hne]
      · simp only [beq_iff_eq, hp, if_false]
  unfold State.pkt
  rw [show (after (modPkt c id f) t).ctxsAt c = _ from ctxsAt_modCtxs c _ t c, if_pos rfl]
  exact hfind _

theorem ended_endPkt_ne {t : At s0} {i st d : Nat} (hi : i ≠ id) (h : t.1.ended c i st d) (st' d' : Nat) :
    (after (endPkt c id st' d') t).ended c i st d := by
  obtain ⟨p, hp, hrest⟩ := h
  exact ⟨p, (pkt_modPkt_ne hi (fun y => { y with st := .done, status := st', detail := d' }) (fun _ => rfl) t).trans hp, hrest⟩

/-- Ending any packet with a status and DETAIL leaves one that has so ended. -/
theorem ended_endPkt_same {t : At s0} {i st d : Nat} (h : t.1.ended c i st d) : (after (endPkt c id st d) t).ended c i st d := by
  by_cases hi : i = id
  · obtain ⟨p, hp, -⟩ := h
    subst hi
    exact ended_endPkt hp st d
  · exact ended_endPkt_ne hi h st d

/-! ### The commands of the control class -/

/-- The command of a control packet is its packet's action, then a refresh. -/
theorem answers_ctl {i : Instr} {s : State} {p : Pkt} {f : Pkt → M s Unit} (hexec : exec i s = M.go s (ctlOf c id op f))
    (h : s.issued c id op p) {P : State → Prop} (hP : ∀ t, Follows (after (f p) ⟨s, Reach.refl s⟩) t → P t) : Answers i s P := by
  refine answers_of_go hexec (hP _ ?_)
  obtain ⟨hload, hup, hpkt, rfl, hst, hstop⟩ := h
  have hon : onIssued c id [p.op] f ⟨s, Reach.refl s⟩ = f p ⟨s, Reach.refl s⟩ := by
    unfold onIssued
    rw [bind_run, cur_run]
    simp [hpkt, hst, hup, hstop]
  have hrun : after (ctlOf c id p.op f) ⟨s, Reach.refl s⟩ = after (refresh c) (f p ⟨s, Reach.refl s⟩).2 := by
    unfold ctlOf
    rw [after_cur_bind]
    simp only [hload, if_true, after_bind, hon]
  rw [hrun]
  exact refresh_follows _

/-- What marks and the refresh after them leave. -/
theorem Follows.of_steps {ns : List RegName} {s t u : State} (h : Follows t u) (hm : Steps (Eff.Marks ns) s t) :
    SameRegs (ns ++ followers) s u ∧ SameStore s u := by
  refine ⟨(hm.marks_regs.mono (List.subset_append_left _ _)).trans (h.regs.mono (List.subset_append_right _ _)), ?_⟩
  obtain ⟨h1, h2, h3, h4⟩ := hm.marks_store
  obtain ⟨k1, k2, k3, k4⟩ := h.store
  exact ⟨k1.trans h1, k2.trans h2, k3.trans h3, k4.trans h4⟩

end Sys2Proof.Machine
end

section
/-!
PROOFS. O11 and O16: the doorbell (R37); NOP, SET_SCALAR, SCALAR_OP and SET_PRED (R53 to R55).
-/
namespace Sys2Proof.Machine

variable {s0 : State} {α β : Type} {c id op q : Nat}

/-! ### Registers of callers -/

theorem exists_of_opens {s : State} {r : Reg} (h : s.opens r = true) : r.exists = true := by
  unfold State.opens at h
  exact (Bool.and_eq_true_iff.1 h).1

theorem queAt_modQue (k : Nat) (f : Queue → Queue) (t : At s0) (k' : Nat) :
    (after (modQue k f) t).queAt k' = if k' = k then f (t.1.queAt k) else t.1.queAt k' := Tab.get_put ..

/-- Whether a queue fetches rests on two enables and two stops (R494). -/
theorem State.sqFetches_congr {s t : State} (hsq : t.fld F.clrCtxCfg_sqEn c = s.fld F.clrCtxCfg_sqEn c)
    (hcq : t.flag F.clrCqCfg_en c = s.flag F.clrCqCfg_en c) (hhalt : (t.queAt (qKey c q)).halt = (s.queAt (qKey c q)).halt)
    (herr : (t.queAt (qKey c q)).errStop = (s.queAt (qKey c q)).errStop) : t.sqFetches c q = s.sqFetches c q := by
  unfold State.sqFetches
  rw [hsq, hcq, hhalt, herr]

theorem scalar_exists {i : Nat} (hc : c < 256) (hi : i < 64) : (F.clrS_value.at c i 0).exists = true := by
  simp [Reg.exists, Fld.at, F.clrS_value, RegName.count, RegName.spec, hc, hi]

theorem pred_exists (hc : c < 256) : (F.clrPred_p.at c 0 0).exists = true := by
  simp [Reg.exists, Fld.at, F.clrPred_p, RegName.count, RegName.spec, hc]

theorem scalar_setScalar {i : Nat} (hc : c < 256) (hi : i < 64) (v : Nat) (t : At s0) :
    (after (setScalar c i v) t).scalar c i = v % 2 ^ 64 := fld_after_setF_mod _ _ _ _ _ _ (scalar_exists hc hi) (by decide)

theorem scalar_setScalar_ne {i j : Nat} (h : j ≠ i) (v : Nat) (t : At s0) :
    (after (setScalar c i v) t).scalar c j = t.1.scalar c j :=
  fld_after_setF_ne _ _ _ _ _ _ _ _ _ _ fun e => h (congrArg Reg.j e)

theorem pred_setPred {i : Nat} (hc : c < 256) (hi : i < 8) (v : Bool) (t : At s0) (j : Nat) :
    (after (setPred c i v) t).pred c j = if j = i then v else t.1.pred c j := by
  have hrun : after (setPred c i v) t = after (setF F.clrPred_p (setBits (t.1.fld F.clrPred_p c) i i (b2n v)) c) t := rfl
  have hlt : t.1.fld F.clrPred_p c < 2 ^ 8 := bits_lt _ F.clrPred_p.hi F.clrPred_p.lo
  have hfld := fld_after_setF_mod F.clrPred_p (setBits (t.1.fld F.clrPred_p c) i i (b2n v)) c 0 0 t (pred_exists hc) (by decide)
  unfold State.pred bit
  rw [hrun, hfld]
  generalize t.1.fld F.clrPred_p c = w at hlt
  rw [show F.clrPred_p.hi + 1 - F.clrPred_p.lo = 8 from rfl, Nat.testBit_mod_two_pow, testBit_setBits _ _ _ _ _ (by omega)]
  by_cases hj : j = i
  · subst hj
    cases v <;> simp [hi, b2n]
  · rw [if_neg (by omega), if_neg hj]
    by_cases hj8 : j < 8
    · simp [hj8]
    · simp only [hj8, decide_false, Bool.false_and]
      exact (Nat.testBit_lt_two_pow (hlt.trans_le (Nat.pow_le_pow_right (by omega) (by omega)))).symm

/-! ### The doorbell (R37) -/

section
variable {tail : Nat} {s : State}

/-- Where the doorbell is accepted. -/
theorem doorbell_accepts (h : (tail % (2 * s.sqDepth c q) + (2 * s.sqDepth c q - s.fld F.clrSqStatus_head c q % (2 * s.sqDepth c q))) %
    (2 * s.sqDepth c q) ≤ s.sqDepth c q) : after (doorbell c q tail) ⟨s, Reach.refl s⟩ = after (do
      setF F.clrSqDb_tail (tail % (2 * s.sqDepth c q)) c q
      modQue (qKey c q) fun x => { x with stuck := false }
      refresh c) ⟨s, Reach.refl s⟩ := by
  unfold doorbell
  rw [after_cur_bind]
  simp only [h, if_true]

/-- Where it is refused. -/
theorem doorbell_refuses (h : ¬(tail % (2 * s.sqDepth c q) + (2 * s.sqDepth c q - s.fld F.clrSqStatus_head c q % (2 * s.sqDepth c q))) %
    (2 * s.sqDepth c q) ≤ s.sqDepth c q) : after (doorbell c q tail) ⟨s, Reach.refl s⟩ = after (do
      setFlag F.clrSqStatus_dbOverrun true c q
      modQue (qKey c q) fun x => { x with stuck := false }
      refresh c) ⟨s, Reach.refl s⟩ := by
  unfold doorbell
  rw [after_cur_bind]
  simp only [h, if_false]

/-- A queue's registers set, its look-ahead freed, the status refreshed: everything else of the queue stays. -/
theorem unstuck_leaves {m : M s Unit} {ns : List RegName} (hm : Only (setsReg ns) m) (hns : ns ⊆ [.clrSqDb, .clrSqStatus]) :
    let u := after m ⟨s, Reach.refl s⟩
    let t := after (do m; modQue (qKey c q) fun x => { x with stuck := false }; refresh c) ⟨s, Reach.refl s⟩
    (∀ f : Fld, f.reg ∉ followers ∨ f ∈ keptFlds → ∀ i j k, t.fld f i j k = u.fld f i j k) ∧ t.sqFetches c q = s.sqFetches c q ∧
      SameRegs (.clrSqDb :: followers) s t ∧ SameStore s t := by
  intro u t
  have ht : t = after (refresh c) (modQue (qKey c q) (fun x => { x with stuck := false }) (m ⟨s, Reach.refl s⟩).2).2 := by
    change after _ _ = _
    rw [after_bind, after_bind]
  have hfollow : Follows (after (modQue (qKey c q) fun x => { x with stuck := false }) (m ⟨s, Reach.refl s⟩).2) t :=
    by rw [ht]; exact refresh_follows _
  have hmarks : Steps (Eff.Marks ns) s (after (modQue (qKey c q) fun x => { x with stuck := false }) (m ⟨s, Reach.refl s⟩).2) :=
    (hm ⟨s, Reach.refl s⟩).marks.trans (modQue_marks (m ⟨s, Reach.refl s⟩).2)
  obtain ⟨hregs, hstore⟩ := hfollow.of_steps hmarks
  have hsub : ns ++ followers ⊆ .clrSqDb :: followers :=
    List.append_subset.2 ⟨fun _ h => (by decide : [RegName.clrSqDb, .clrSqStatus] ⊆ .clrSqDb :: followers) (hns h),
      List.subset_cons_self _ _⟩
  have hque : u.queAt (qKey c q) = s.queAt (qKey c q) := by
    change (after m ⟨s, Reach.refl s⟩).queAt _ = _
    rw [Steps.eq_of_setsReg (hm ⟨s, Reach.refl s⟩)]
    rfl
  have hqueue : t.queAt (qKey c q) = { s.queAt (qKey c q) with stuck := false } := by
    rw [hfollow.queAt, queAt_modQue, if_pos rfl]
    exact congrArg (fun x : Queue => { x with stuck := false }) hque
  refine ⟨fun f hf i j k => hfollow.fld hf i j k, ?_, hregs.mono hsub, hstore⟩
  refine State.sqFetches_congr ((hregs.mono hsub).fld (by decide) _ _ _) ?_ (by rw [hqueue]) (by rw [hqueue])
  exact congrArg (· != 0) ((hregs.mono hsub).fld (f := F.clrCqCfg_en) (by decide) _ _ _)

end

/-- Settles O11: by whether the doorbell is accepted; either way one field is set, and the refresh leaves the fields it is about. -/
theorem doorbellAcceptedOrOverrun : Obligations.DoorbellAcceptedOrOverrun := by
  unfold Obligations.DoorbellAcceptedOrOverrun
  intro c q tail s hopen hdepth
  have hx : (F.clrSqDb_tail.at c q 0).exists = true := exists_of_opens hopen
  have hxs : (F.clrSqStatus_dbOverrun.at c q 0).exists = true := hx
  refine answers_of_go rfl ?_
  rw [after_atReg hopen]
  dsimp only
  split
  · next haccept =>
    obtain ⟨hfld, hfetch, hregs, hstore⟩ := unstuck_leaves (c := c) (q := q) (s := s) (ns := [.clrSqDb])
      (Only.setF F.clrSqDb_tail (tail % (2 * s.sqDepth c q)) c q 0 (by decide)) (by decide)
    rw [doorbell_accepts haccept]
    have hlt : tail % (2 * s.sqDepth c q) < 2 ^ (12 + 1 - 0) :=
      calc tail % (2 * s.sqDepth c q) < 2 * s.sqDepth c q := Nat.mod_lt _ (Nat.mul_pos (by omega) (Nat.two_pow_pos _))
        _ ≤ 2 * 2 ^ 12 := Nat.mul_le_mul_left _ (Nat.pow_le_pow_right (by omega) hdepth)
    refine ⟨⟨?_, ?_⟩, ?_, hfetch, hregs, hstore⟩
    · exact (hfld _ (.inl (by decide)) _ _ _).trans (fld_after_setF _ _ _ _ _ _ hx (by decide) hlt)
    · exact congrArg (· != 0) ((hfld F.clrSqStatus_dbOverrun (.inr (by decide)) _ _ _).trans
        (fld_after_setF_ne _ _ _ _ _ _ _ _ _ _ fun e => by cases e))
    · exact (hfld F.clrSqStatus_head (.inr (by decide)) _ _ _).trans (fld_after_setF_ne _ _ _ _ _ _ _ _ _ _ fun e => by cases e)
  · next hrefuse =>
    obtain ⟨hfld, hfetch, hregs, hstore⟩ := unstuck_leaves (c := c) (q := q) (s := s) (ns := [.clrSqStatus])
      (Only.setFlag F.clrSqStatus_dbOverrun true c q 0 (by decide)) (by decide)
    rw [doorbell_refuses hrefuse]
    refine ⟨⟨?_, ?_⟩, ?_, hfetch, hregs, hstore⟩
    · exact (hfld F.clrSqDb_tail (.inl (by decide)) _ _ _).trans (fld_after_setF_ne _ _ _ _ _ _ _ _ _ _ fun e => by cases e)
    · exact (congrArg (· != 0) (hfld F.clrSqStatus_dbOverrun (.inr (by decide)) _ _ _)).trans (flag_after_setFlag _ hxs (by decide))
    · exact (hfld F.clrSqStatus_head (.inr (by decide)) _ _ _).trans
        (fld_after_setF_other _ _ _ _ _ _ _ _ _ _ (by decide) (by decide) (by decide))

/-! ### Scalar operations on 64-bit words (R54, R55) -/

/-- The results of SCALAR_OP's operations, by their codes, as words of 64 bits compute them. -/
def scalarTable (a b : BitVec 64) (sh : Nat) : List (BitVec 64) :=
  [a + b, a - b, a * b, a &&& b, a ||| b, a ^^^ b, a <<< sh, a >>> sh, a.sshiftRight sh,
    if a.ult b then a else b, if a.ult b then b else a, if a.slt b then a else b, if a.slt b then b else a]

/-- SET_PRED's comparisons and its logic, by their codes. -/
def predTable (a b : BitVec 64) (pA pB : Bool) : List Bool :=
  [a == b, a != b, a.ult b, !a.ult b, a.slt b, !a.slt b, true, false, pA && pB, pA || pB, !pA]

/-- The signed reading of a word. -/
theorem s64_eq_toInt {x : Nat} (hx : x < 2 ^ 64) : s64 x = (BitVec.ofNat 64 x).toInt := by
  unfold s64 signed
  rw [BitVec.toInt_eq_toNat_cond, BitVec.toNat_ofNat, Nat.mod_eq_of_lt hx]
  dsimp only
  split <;> split <;> omega

section
variable {x y : Nat} (hx : x < 2 ^ 64) (hy : y < 2 ^ 64)
include hx hy

theorem ult_ofNat : (BitVec.ofNat 64 x).ult (BitVec.ofNat 64 y) = decide (x < y) := by
  unfold BitVec.ult
  rw [BitVec.toNat_ofNat, BitVec.toNat_ofNat, Nat.mod_eq_of_lt hx, Nat.mod_eq_of_lt hy]

theorem slt_ofNat : (BitVec.ofNat 64 x).slt (BitVec.ofNat 64 y) = decide (s64 x < s64 y) := by
  rw [s64_eq_toInt hx, s64_eq_toInt hy]
  rfl

theorem beq_ofNat : (BitVec.ofNat 64 x == BitVec.ofNat 64 y) = (x == y) := by
  rw [Bool.eq_iff_iff, beq_iff_eq, beq_iff_eq, ← BitVec.toNat_inj, BitVec.toNat_ofNat, BitVec.toNat_ofNat, Nat.mod_eq_of_lt hx,
    Nat.mod_eq_of_lt hy]

/-- Every operation of SCALAR_OP gives what the words' own operation gives, or none. -/
theorem scalarOp_eq {op : Nat} (hop : op < 16) :
    scalarOp op x y = (scalarTable (BitVec.ofNat 64 x) (BitVec.ofNat 64 y) (y % 64))[op]?.map BitVec.toNat := by
  have hmx : (BitVec.ofNat 64 x).toNat = x := by rw [BitVec.toNat_ofNat, Nat.mod_eq_of_lt hx]
  have hmy : (BitVec.ofNat 64 y).toNat = y := by rw [BitVec.toNat_ofNat, Nat.mod_eq_of_lt hy]
  have hslt : (BitVec.ofNat 64 x).slt (BitVec.ofNat 64 y) = decide (s64 x < s64 y) := slt_ofNat hx hy
  have hult : (BitVec.ofNat 64 x).ult (BitVec.ofNat 64 y) = decide (x < y) := ult_ofNat hx hy
  unfold scalarTable
  rw [hult, hslt]
  have hi := s64_eq_toInt hx
  have hj := s64_eq_toInt hy
  generalize BitVec.ofNat 64 x = a at *
  generalize BitVec.ofNat 64 y = b at *
  subst hmx hmy
  have hab : s64 a.toNat = s64 b.toNat → a = b := fun h => BitVec.eq_of_toInt_eq (hi.symm.trans (h.trans hj))
  interval_cases op
  · exact congrArg some (BitVec.toNat_add a b).symm
  · refine congrArg some ?_
    rw [BitVec.toNat_sub, Nat.mod_eq_of_lt hy, Nat.add_comm]
  · exact congrArg some (BitVec.toNat_mul a b).symm
  · exact congrArg some (BitVec.toNat_and a b).symm
  · exact congrArg some (BitVec.toNat_or a b).symm
  · exact congrArg some (BitVec.toNat_xor a b).symm
  · exact congrArg some BitVec.toNat_shiftLeft.symm
  · exact congrArg some (BitVec.toNat_ushiftRight a _).symm
  · refine congrArg some ?_
    change wrap 64 (s64 a.toNat >>> (b.toNat % 64)) = (BitVec.ofInt 64 (a.toInt >>> (b.toNat % 64))).toNat
    rw [BitVec.toNat_ofInt, hi]
    rfl
  · refine congrArg some ?_
    split
    · simp_all
      omega
    · simp_all
  · refine congrArg some ?_
    split
    · simp_all
      omega
    · simp_all
  · refine congrArg some ?_
    obtain hlt | heq | hgt := lt_trichotomy (s64 a.toNat) (s64 b.toNat)
    · simp [hlt, hlt.le]
    · simp [hab heq]
    · simp [hgt.not_ge, hgt.le.not_gt]
  · refine congrArg some ?_
    obtain hlt | heq | hgt := lt_trichotomy (s64 a.toNat) (s64 b.toNat)
    · simp [hlt, hlt.le]
    · simp [hab heq]
    · simp [hgt.not_ge, hgt.le.not_gt]
  · rfl
  · rfl
  · rfl

/-- Every comparison of SET_PRED is the words' own. -/
theorem setPredCond_eq {cond : Nat} (hcond : cond < 8) (pA pB : Bool) :
    (predTable (BitVec.ofNat 64 x) (BitVec.ofNat 64 y) pA pB)[cond]? = some (setPredCond cond x y) := by
  unfold predTable
  rw [bne, beq_ofNat hx hy, ult_ofNat hx hy, slt_ofNat hx hy]
  have hge : (!decide (x < y)) = decide (y ≤ x) := by simp [← decide_not]
  have hges : (!decide (s64 x < s64 y)) = decide (s64 y ≤ s64 x) := by simp [← decide_not]
  rw [hge, hges]
  interval_cases cond <;> rfl

end

/-- The value that SET_PRED gives its predicate is that of its table. -/
theorem setPredValue_eq {p : Pkt} (ha : p.srcA < 2 ^ 64) (hb : p.srcB < 2 ^ 64) :
    setPredValue p = (predTable (BitVec.ofNat 64 p.srcA) (BitVec.ofNat 64 p.srcB) (bit (nth p.aux 2) (p.f 2 10 8))
      (bit (nth p.aux 2) (p.f 2 18 16)))[p.f 2 35 32]? := by
  have hlt : p.f 2 35 32 < 16 := bits_lt _ 35 32
  unfold setPredValue
  by_cases hcond : p.f 2 35 32 < 8
  · rw [setPredCond_eq ha hb hcond]
    split <;> simp_all
  · generalize p.f 2 35 32 = k at *
    interval_cases k <;> rfl

/-! ### The packets -/

section
variable {s : State} {p : Pkt}

/-- A scalar that a packet has written before it ends. -/
theorem setScalar_then_end (hc : c < 256) (h : s.issued c id op p) (v st d : Nat) {t : State}
    (ht : Follows (after (do setScalar c (p.f 2 5 0) v; endPkt c p.id st d) ⟨s, Reach.refl s⟩) t) :
    t.ended c id st d ∧ t.scalar c (p.f 2 5 0) = v % 2 ^ 64 ∧ (∀ i, i ≠ p.f 2 5 0 → t.scalar c i = s.scalar c i) ∧
      SameRegs (.clrS :: followers) s t ∧ SameStore s t := by
  obtain ⟨-, -, hpkt, -⟩ := h
  obtain rfl := State.pkt_id hpkt
  have hlt : p.f 2 5 0 < 64 := bits_lt _ 5 0
  refine ⟨ht.ended (ended_endPkt (t := (setScalar c (p.f 2 5 0) v ⟨s, Reach.refl s⟩).2) hpkt st d), ?_, fun i hi => ?_,
    ht.of_steps ((setScalar_marks ⟨s, Reach.refl s⟩).trans (endPkt_marks (setScalar c (p.f 2 5 0) v ⟨s, Reach.refl s⟩).2))⟩
  · exact (ht.scalar _ _).trans (scalar_setScalar hc hlt v ⟨s, Reach.refl s⟩)
  · exact (ht.scalar _ _).trans (scalar_setScalar_ne hi v ⟨s, Reach.refl s⟩)

/-- A packet that ends without an effect. -/
theorem end_alone (h : s.issued c id op p) (st d : Nat) {t : State} (ht : Follows (after (endPkt c p.id st d) ⟨s, Reach.refl s⟩) t) :
    t.ended c id st d ∧ (∀ i, t.scalar c i = s.scalar c i) ∧ (∀ i, t.pred c i = s.pred c i) ∧ SameRegs followers s t ∧ SameStore s t := by
  obtain ⟨-, -, hpkt, -⟩ := h
  obtain rfl := State.pkt_id hpkt
  exact ⟨ht.ended (ended_endPkt (t := ⟨s, Reach.refl s⟩) hpkt st d), fun i => ht.scalar c i, fun i => ht.pred c i,
    ht.of_steps (endPkt_marks (ns := []) ⟨s, Reach.refl s⟩)⟩

/-- A predicate that a packet has written before it ends. -/
theorem setPred_then_end (hc : c < 256) (h : s.issued c id op p) (v : Bool) (st d : Nat) {t : State}
    (ht : Follows (after (do setPred c (p.f 2 2 0) v; endPkt c p.id st d) ⟨s, Reach.refl s⟩) t) :
    t.ended c id st d ∧ t.pred c (p.f 2 2 0) = v ∧ (∀ i, i ≠ p.f 2 2 0 → t.pred c i = s.pred c i) ∧
      SameRegs (.clrPred :: followers) s t ∧ SameStore s t := by
  obtain ⟨-, -, hpkt, -⟩ := h
  obtain rfl := State.pkt_id hpkt
  have hlt : p.f 2 2 0 < 8 := bits_lt _ 2 0
  have hpred : ∀ i, t.pred c i = if i = p.f 2 2 0 then v else s.pred c i :=
    fun i => (ht.pred c i).trans (pred_setPred hc hlt v ⟨s, Reach.refl s⟩ i)
  exact ⟨ht.ended (ended_endPkt (t := (setPred c (p.f 2 2 0) v ⟨s, Reach.refl s⟩).2) hpkt st d), (hpred _).trans (if_pos rfl),
    fun i hi => (hpred i).trans (if_neg hi),
    ht.of_steps ((setPred_marks ⟨s, Reach.refl s⟩).trans (endPkt_marks (setPred c (p.f 2 2 0) v ⟨s, Reach.refl s⟩).2))⟩

end

section
variable {s : State} {p : Pkt}

/-- The action of SCALAR_OP with a result, or without one. -/
theorem scalarOp_answers (hc : c < 256) (h : s.issued c id 0x02 p) (r : Option (BitVec 64)) :
    scalarOp (p.f 2 35 32) p.srcA p.srcB = r.map BitVec.toNat → Answers (.scalarOp c id) s fun t =>
      (∀ i, i ≠ p.f 2 5 0 → t.scalar c i = s.scalar c i) ∧ SameRegs (.clrS :: followers) s t ∧ SameStore s t ∧
      match r with
      | some v => t.scalar c (p.f 2 5 0) = v.toNat ∧ t.ended c id stOk 0
      | none => t.scalar c (p.f 2 5 0) = s.scalar c (p.f 2 5 0) ∧ t.ended c id stBadParam (wordDetail 2 32) := by
  intro hr
  refine answers_ctl rfl h fun t ht => ?_
  rw [hr] at ht
  cases r with
  | some v =>
    obtain ⟨hend, hval, hother, hregs, hstore⟩ := setScalar_then_end hc h v.toNat stOk 0 ht
    exact ⟨hother, hregs, hstore, hval.trans (Nat.mod_eq_of_lt v.isLt), hend⟩
  | none =>
    obtain ⟨hend, hscalar, -, hregs, hstore⟩ := end_alone h stBadParam (2 + 32 * 256) ht
    exact ⟨fun i _ => hscalar i, hregs.mono (List.subset_cons_self _ _), hstore, hscalar _, hend⟩

/-- The action of SET_PRED with a value, or without one. -/
theorem setPred_answers (hc : c < 256) (h : s.issued c id 0x03 p) (r : Option Bool) : setPredValue p = r →
    Answers (.setPred c id) s fun t =>
      (∀ i, i ≠ p.f 2 2 0 → i < 8 → t.pred c i = s.pred c i) ∧ SameRegs (.clrPred :: followers) s t ∧ SameStore s t ∧
      match r with
      | some v => t.pred c (p.f 2 2 0) = v ∧ t.ended c id stOk 0
      | none => t.pred c (p.f 2 2 0) = s.pred c (p.f 2 2 0) ∧ t.ended c id stBadParam (wordDetail 2 32) := by
  intro hr
  refine answers_ctl rfl h fun t ht => ?_
  rw [hr] at ht
  cases r with
  | some v =>
    obtain ⟨hend, hval, hother, hregs, hstore⟩ := setPred_then_end hc h v stOk 0 ht
    exact ⟨fun i hi _ => hother i hi, hregs, hstore, hval, hend⟩
  | none =>
    obtain ⟨hend, -, hpred, hregs, hstore⟩ := end_alone h stBadParam (2 + 32 * 256) ht
    exact ⟨fun i _ _ => hpred i, hregs.mono (List.subset_cons_self _ _), hstore, hpred _, hend⟩

end

/-- Settles O16: each packet's action sets one register or none and ends; what it sets is the entry of its table. -/
theorem scalarAndPredicatePackets : Obligations.ScalarAndPredicatePackets := by
  unfold Obligations.ScalarAndPredicatePackets
  refine ⟨fun c id s p _ h => ?_, fun c id s p hc h => ?_, fun c id s p hc h ha hb => ?_, fun c id s p hc h ha hb => ?_⟩
  · refine answers_ctl rfl h fun t ht => ?_
    obtain ⟨hend, -, -, hsame⟩ := end_alone h stOk 0 ht
    exact ⟨hend, hsame⟩
  · exact answers_ctl rfl h fun t ht => setScalar_then_end hc h (p.w 3) stOk 0 ht
  · exact scalarOp_answers hc h _ (scalarOp_eq ha hb (bits_lt _ 35 32))
  · exact setPred_answers hc h _ (setPredValue_eq ha hb)

end Sys2Proof.Machine
end

section
/-!
PROOFS. O17: BRANCH, CALL and RETURN (R57, R58).
-/
namespace Sys2Proof.Machine

variable {s0 : State} {c id op q : Nat}

/-! ### Chains that end -/

/-- The chain on top, if one runs, has slots left. -/
def State.chainGoes (s : State) (c q : Nat) : Prop := ∀ g ∈ (s.queAt (qKey c q)).chain.head?, g.pos < g.len

theorem popEnded_marks (ns : List RegName) (fuel : Nat) : Only (Eff.Marks ns) (popEnded c q fuel : M s0 Unit) := by
  induction fuel with
  | zero => exact .pure ()
  | succ fuel ih =>
    refine .bind .cur fun s => ?_
    cases (s.queAt (qKey c q)).chain with
    | nil => exact .pure ()
    | cons f fs =>
      refine .ite ?_ (.pure ())
      exact .bind modQue_marks fun _ => .bind endPkt_marks fun _ => ih

/-- Where the chain on top has slots left none ends. -/
theorem popEnded_of_goes (fuel : Nat) {t : At s0} (h : t.1.chainGoes c q) : after (popEnded c q fuel) t = t.1 := by
  cases fuel with
  | zero => rfl
  | succ fuel =>
    unfold popEnded
    rw [after_cur_bind]
    unfold State.chainGoes at h
    cases hchain : (t.1.queAt (qKey c q)).chain with
    | nil => rfl
    | cons f fs =>
      rw [hchain] at h
      have hpos : ¬(f.len ≤ f.pos ∧ t.1.steering c q = false) := fun hend => absurd (h f rfl) (Nat.not_lt.2 hend.1)
      simp only [hpos, if_false]
      rfl

/-- What ending a CALL ST_OK keeps, chains that end keep. -/
theorem popEnded_keeps {P : State → Prop} (calls : Nat → Prop)
    (hque : ∀ (t : At s0) f, P t.1 → P (after (modQue (qKey c q) f) t))
    (hend : ∀ (t : At s0) i, calls i → P t.1 → P (after (endPkt c i stOk 0) t)) (fuel : Nat) :
    ∀ t : At s0, (∀ g ∈ (t.1.queAt (qKey c q)).chain, calls g.call) → P t.1 → P (after (popEnded c q fuel) t) := by
  induction fuel with
  | zero => exact fun _ _ h => h
  | succ fuel ih =>
    intro t hcalls h
    unfold popEnded
    rw [after_cur_bind]
    cases hchain : (t.1.queAt (qKey c q)).chain with
    | nil => exact h
    | cons f fs =>
      rw [hchain] at hcalls
      dsimp only
      split
      · rw [after_bind, after_bind]
        refine ih _ (fun g hg => hcalls g (List.mem_cons_of_mem _ ?_)) (hend _ _ (hcalls f List.mem_cons_self) (hque _ _ h))
        have hq := congrArg Queue.chain ((queAt_modQue (qKey c q) (fun x => { x with chain := fs }) t (qKey c q)).trans (if_pos rfl))
        exact hq.subst (motive := (g ∈ ·)) hg
      · exact h

theorem popEnded_ended_ok {i : Nat} (fuel : Nat) {t : At s0} (h : t.1.ended c i stOk 0) :
    (after (popEnded c q fuel) t).ended c i stOk 0 :=
  popEnded_keeps (P := fun s => s.ended c i stOk 0) (fun _ => True) (fun _ _ h => h) (fun _ _ _ h => ended_endPkt_same h) fuel t
    (fun _ _ => trivial) h

theorem popEnded_ended {i st d : Nat} (fuel : Nat) {t : At s0} (hcalls : ∀ g ∈ (t.1.queAt (qKey c q)).chain, g.call ≠ i)
    (h : t.1.ended c i st d) : (after (popEnded c q fuel) t).ended c i st d :=
  popEnded_keeps (P := fun s => s.ended c i st d) (· ≠ i) (fun _ _ h => h) (fun _ _ hi h => ended_endPkt_ne hi.symm h _ _) fuel t
    hcalls h

/-! ### BRANCH -/

theorem Answers.weaken {i : Instr} {s : State} {P Q : State → Prop} (h : Answers i s P) (hPQ : ∀ t, P t → Q t) : Answers i s Q :=
  h.imp fun t ht => ⟨ht.1, hPQ t ht.2⟩

section
variable {s : State} {p : Pkt}

/-- A BRANCH in a ring. -/
theorem branch_in_ring (h : s.issued c id 0x04 p)
    (hring : (if p.parent.isSome = true then (s.queAt (qKey c p.q)).chain else []) = []) : Answers (.branch c id) s fun t =>
    let ofs := signed 32 (p.w 2)
    let x := s.queAt (qKey c p.q)
    let y := t.queAt (qKey c p.q)
    SameRegs followers s t ∧ SameStore s t ∧ y.chain = x.chain ∧
      (ofs ≤ 0 → t.ended c id stBadParam 2 ∧ y.skip = x.skip) ∧ (ofs = 1 → t.ended c id stOk 0 ∧ y.skip = x.skip) ∧
      (1 < ofs → t.stands c id .waiting ∧ y.skip = some ⟨id, ofs.toNat - 1, 0⟩) := by
  refine answers_ctl rfl h fun t ht => ?_
  obtain ⟨-, -, hpkt, -⟩ := h
  obtain rfl := State.pkt_id hpkt
  rw [after_cur_bind] at ht
  simp only [hring] at ht
  dsimp only
  by_cases hneg : signed 32 (p.w 2) ≤ 0
  · rw [if_pos hneg] at ht
    obtain ⟨hregs, hstore⟩ := ht.of_steps (endPkt_marks (ns := []) ⟨s, Reach.refl s⟩)
    have hque : t.queAt (qKey c p.q) = s.queAt (qKey c p.q) := ht.queAt _
    refine ⟨hregs, hstore, by rw [hque], fun _ => ⟨ht.ended (ended_endPkt (t := ⟨s, Reach.refl s⟩) hpkt _ _), by rw [hque]⟩,
      fun h1 => ?_, fun h1 => ?_⟩ <;> omega
  · rw [if_neg hneg] at ht
    by_cases hone : signed 32 (p.w 2) = 1
    · rw [if_pos hone] at ht
      obtain ⟨hregs, hstore⟩ := ht.of_steps (endPkt_marks (ns := []) ⟨s, Reach.refl s⟩)
      have hque : t.queAt (qKey c p.q) = s.queAt (qKey c p.q) := ht.queAt _
      refine ⟨hregs, hstore, by rw [hque], fun h1 => absurd h1 hneg,
        fun _ => ⟨ht.ended (ended_endPkt (t := ⟨s, Reach.refl s⟩) hpkt _ _), by rw [hque]⟩, fun h1 => ?_⟩
      omega
    · rw [if_neg hone] at ht
      let skip : Queue → Queue := fun x => { x with
        skip := some ⟨p.id, (signed 32 (p.w 2)).toNat - 1, 0⟩, laterSkip := x.skip.orElse fun _ => x.laterSkip }
      obtain ⟨hregs, hstore⟩ := ht.of_steps ((modQue_marks (ns := []) (k := qKey c p.q) (f := skip) ⟨s, Reach.refl s⟩).trans
        (waitPkt_marks (modQue (qKey c p.q) skip ⟨s, Reach.refl s⟩).2))
      have hque : t.queAt (qKey c p.q) = skip (s.queAt (qKey c p.q)) :=
        (ht.queAt _).trans ((queAt_modQue (qKey c p.q) skip ⟨s, Reach.refl s⟩ _).trans (if_pos rfl))
      refine ⟨hregs, hstore, by rw [hque], fun h1 => absurd h1 hneg, fun h1 => absurd h1 hone, fun _ => ⟨?_, by rw [hque]⟩⟩
      exact ht.stands (stands_waitPkt (t := (modQue (qKey c p.q) skip ⟨s, Reach.refl s⟩).2) hpkt)

/-- A BRANCH in a chain. -/
theorem branch_in_chain (h : s.issued c id 0x04 p) (hin : p.parent.isSome = true) {f : Frame} {fs : List Frame}
    (hchain : (s.queAt (qKey c p.q)).chain = f :: fs) : Answers (.branch c id) s fun t =>
    SameRegs followers s t ∧ SameStore s t ∧ ((∀ g ∈ f :: fs, g.call ≠ id) →
      let target := (p.chainOff : Int) + signed 32 (p.w 2)
      let y := t.queAt (qKey c p.q)
      (0 ≤ target ∧ target.toNat ∈ f.starts → t.ended c id stOk 0 ∧
        (target < f.len → y.chain = { f with pos := target.toNat } :: fs)) ∧
      (¬(0 ≤ target ∧ target.toNat ∈ f.starts) → t.ended c id stBadParam 2 ∧ (f.pos < f.len → y.chain = f :: fs))) := by
  refine answers_ctl rfl h fun t ht => ?_
  obtain ⟨-, -, hpkt, -⟩ := h
  obtain rfl := State.pkt_id hpkt
  rw [after_cur_bind] at ht
  simp only [hin, if_true, hchain, List.contains_iff_mem] at ht
  dsimp only
  by_cases htarget : 0 ≤ (p.chainOff : Int) + signed 32 (p.w 2) ∧ ((p.chainOff : Int) + signed 32 (p.w 2)).toNat ∈ f.starts
  · let jump : Queue → Queue := fun x => { x with chain := { f with pos := ((p.chainOff : Int) + signed 32 (p.w 2)).toNat } :: fs }
    let u := (endPkt c p.id stOk 0 (modQue (qKey c p.q) jump ⟨s, Reach.refl s⟩).2).2
    have hu : u.1.queAt (qKey c p.q) = jump (s.queAt (qKey c p.q)) :=
      (queAt_modQue (qKey c p.q) jump ⟨s, Reach.refl s⟩ _).trans (if_pos rfl)
    have hend : u.1.ended c p.id stOk 0 := ended_endPkt (t := (modQue (qKey c p.q) jump ⟨s, Reach.refl s⟩).2) hpkt _ _
    have htu : Follows (after (popEnded c p.q 5) u) t := by
      rw [if_pos htarget, after_bind, after_bind] at ht
      exact ht
    obtain ⟨hregs, hstore⟩ := htu.of_steps (((modQue_marks (ns := []) ⟨s, Reach.refl s⟩).trans (endPkt_marks _)).trans
      (popEnded_marks [] 5 u))
    refine ⟨hregs, hstore, fun _ => ⟨fun _ => ⟨htu.ended (popEnded_ended_ok 5 hend), fun hlt => ?_⟩, fun hno => absurd htarget hno⟩⟩
    have hgoes : u.1.chainGoes c p.q := by
      unfold State.chainGoes
      rw [hu]
      intro g hg
      obtain rfl := Option.some.inj hg
      simpa using (Int.toNat_lt htarget.1).2 hlt
    rw [htu.queAt, popEnded_of_goes 5 hgoes, hu]
  · let u := (endPkt c p.id stBadParam 2 ⟨s, Reach.refl s⟩).2
    have hend : u.1.ended c p.id stBadParam 2 := ended_endPkt (t := ⟨s, Reach.refl s⟩) hpkt _ _
    have htu : Follows (after (popEnded c p.q 5) u) t := by
      rw [if_neg htarget, after_bind] at ht
      exact ht
    obtain ⟨hregs, hstore⟩ := htu.of_steps ((endPkt_marks (ns := []) ⟨s, Reach.refl s⟩).trans (popEnded_marks [] 5 u))
    have hu : (u.1.queAt (qKey c p.q)).chain = f :: fs := hchain
    refine ⟨hregs, hstore, fun hcalls => ⟨fun hyes => absurd hyes htarget, fun _ =>
      ⟨htu.ended (popEnded_ended 5 (hu ▸ hcalls) hend), fun hlt => ?_⟩⟩⟩
    have hgoes : u.1.chainGoes c p.q := by
      unfold State.chainGoes
      rw [hu]
      intro g hg
      obtain rfl := Option.some.inj hg
      exact hlt
    rw [htu.queAt, popEnded_of_goes 5 hgoes, hu]

/-! ### CALL and RETURN -/

theorem call_opens (h : s.issued c id 0x05 p) : Answers (.call c id) s fun t =>
    (t.queAt (qKey c p.q)).chain = ⟨p.w 2, p.f 3 12 0, 0, id, p.aux⟩ :: (s.queAt (qKey c p.q)).chain ∧
    t.stands c id .waiting ∧ SameRegs followers s t ∧ SameStore s t := by
  refine answers_ctl rfl h fun t ht => ?_
  obtain ⟨-, -, hpkt, -⟩ := h
  obtain rfl := State.pkt_id hpkt
  let push : Queue → Queue := fun x => { x with chain := ⟨p.w 2, p.f 3 12 0, 0, p.id, p.aux⟩ :: x.chain }
  have hque : t.queAt (qKey c p.q) = push (s.queAt (qKey c p.q)) :=
    (ht.queAt _).trans ((queAt_modQue (qKey c p.q) push ⟨s, Reach.refl s⟩ _).trans (if_pos rfl))
  exact ⟨by rw [hque], ht.stands (stands_waitPkt (t := (modQue (qKey c p.q) push ⟨s, Reach.refl s⟩).2) hpkt),
    ht.of_steps ((modQue_marks (ns := []) ⟨s, Reach.refl s⟩).trans (waitPkt_marks (modQue (qKey c p.q) push ⟨s, Reach.refl s⟩).2))⟩

/-- A RETURN outside a chain. -/
theorem ret_outside (h : s.issued c id 0x06 p) (hchain : (s.queAt (qKey c p.q)).chain = []) : Answers (.ret c id) s fun t =>
    SameRegs followers s t ∧ SameStore s t ∧ t.ended c id stBadParam 0 := by
  refine answers_ctl rfl h fun t ht => ?_
  rw [after_cur_bind] at ht
  simp only [hchain] at ht
  obtain ⟨hend, -, -, hregs, hstore⟩ := end_alone h stBadParam 0 ht
  exact ⟨hregs, hstore, hend⟩

/-- Ending a packet leaves every packet in flight. -/
theorem pkt_endPkt_isSome {i : Nat} {t : At s0} {y : Pkt} (h : t.1.pkt c i = some y) (st d : Nat) :
    ∃ z, (after (endPkt c id st d) t).pkt c i = some z := by
  by_cases hi : i = id
  · subst hi
    exact ⟨_, (pkt_endPkt st d t).trans (congrArg (Option.map _) h)⟩
  · exact ⟨y, (pkt_modPkt_ne hi (fun y => { y with st := .done, status := st, detail := d }) (fun _ => rfl) t).trans h⟩

/-- A RETURN in a chain. -/
theorem ret_closes (h : s.issued c id 0x06 p) {f : Frame} {fs : List Frame} (hchain : (s.queAt (qKey c p.q)).chain = f :: fs) :
    Answers (.ret c id) s fun t => SameRegs followers s t ∧ SameStore s t ∧ t.ended c id stOk 0 ∧
      (∀ y, s.pkt c f.call = some y → t.ended c f.call stOk 0) ∧
      ((∀ g ∈ fs.head?, g.pos < g.len) → (t.queAt (qKey c p.q)).chain = fs) := by
  refine answers_ctl rfl h fun t ht => ?_
  obtain ⟨-, -, hpkt, -⟩ := h
  obtain rfl := State.pkt_id hpkt
  let pop : Queue → Queue := fun x => { x with chain := fs }
  let v := (modQue (qKey c p.q) pop ⟨s, Reach.refl s⟩).2
  let w := (endPkt c f.call stOk 0 v).2
  let u := (endPkt c p.id stOk 0 w).2
  have htu : Follows (after (popEnded c p.q 5) u) t := by
    rw [after_cur_bind] at ht
    simp only [hchain] at ht
    rw [after_bind, after_bind, after_bind] at ht
    exact ht
  have hu : (u.1.queAt (qKey c p.q)).chain = fs :=
    congrArg Queue.chain ((queAt_modQue (qKey c p.q) pop ⟨s, Reach.refl s⟩ _).trans (if_pos rfl))
  obtain ⟨hregs, hstore⟩ := htu.of_steps ((((modQue_marks (ns := []) ⟨s, Reach.refl s⟩).trans (endPkt_marks v)).trans
    (endPkt_marks w)).trans (popEnded_marks [] 5 u))
  obtain ⟨z, hz⟩ := pkt_endPkt_isSome (id := f.call) (t := v) hpkt stOk 0
  refine ⟨hregs, hstore, htu.ended (popEnded_ended_ok 5 (ended_endPkt (t := w) hz _ _)), fun y hy => ?_, fun hgoes => ?_⟩
  · exact htu.ended (popEnded_ended_ok 5 (ended_endPkt_same (t := w) (ended_endPkt (t := v) hy _ _)))
  · have hu' : u.1.chainGoes c p.q := by
      unfold State.chainGoes
      rwa [hu]
    rw [htu.queAt, popEnded_of_goes 5 hu', hu]

end

/-- Settles O17: by the source of the packet; a chain with slots left stays on top. -/
theorem branchCallReturn : Obligations.BranchCallReturn := by
  unfold Obligations.BranchCallReturn
  refine ⟨fun c id s p h => ?_, fun c id s p h => call_opens h, fun c id s p h => ?_⟩
  · cases hparent : p.parent with
    | none => exact (branch_in_ring h (by rw [hparent]; rfl)).weaken fun t ⟨hregs, hstore, hring⟩ =>
        ⟨hregs, hstore, fun _ => hring, fun _ _ hsome => by cases hsome⟩
    | some parent =>
      cases hchain : (s.queAt (qKey c p.q)).chain with
      | nil =>
        refine (branch_in_ring h (by rw [hchain, ite_self])).weaken fun t ⟨hregs, hstore, _⟩ => ⟨hregs, hstore, nofun, ?_⟩
        exact fun f fs _ hcons => absurd (hchain.symm.trans hcons) nofun
      | cons f fs =>
        refine (branch_in_chain h (by rw [hparent]; rfl) hchain).weaken fun t ⟨hregs, hstore, hin⟩ => ⟨hregs, hstore, nofun, ?_⟩
        rintro f' fs' - hcons hcalls
        rw [hcons] at hcalls
        obtain ⟨rfl, rfl⟩ := List.cons.inj (hchain.symm.trans hcons)
        exact hin hcalls
  · cases hchain : (s.queAt (qKey c p.q)).chain with
    | nil => exact (ret_outside h hchain).weaken fun t ⟨hregs, hstore, hend⟩ => ⟨hregs, hstore, fun _ => hend, nofun⟩
    | cons f fs =>
      refine (ret_closes h hchain).weaken fun t ⟨hregs, hstore, hend, hcall, hgoes⟩ => ⟨hregs, hstore, nofun, ?_⟩
      rintro f' fs' hcons
      obtain ⟨rfl, rfl⟩ := List.cons.inj hcons
      exact ⟨hend, hcall, hgoes⟩

end Sys2Proof.Machine
end

section
/-!
PROOFS. O12, O15 and O20 refuted: each at one concrete state that meets the hypotheses and whose answer the model computes.
-/
namespace Sys2Proof.Machine

/-! ### States to refute at -/

/-- What an answered command leaves, seen through a function. -/
def seenAfter {β : Type} (i : Instr) (s : State) (f : State → β) : Option β :=
  match exec i s with
  | .next t => some (f t)
  | _ => none

/-- The answer's state is the one the model computes. -/
theorem answers_sees {i : Instr} {s : State} {P : State → Prop} (h : Answers i s P) {β : Type} (f : State → β) :
    ∃ t, P t ∧ seenAfter i s f = some (f t) := by
  obtain ⟨t, ht, hP⟩ := h
  refine ⟨t, hP, ?_⟩
  unfold seenAfter
  rw [ht]

/-- The module READY, with no reset asserted, context 0 of partition 0 enabled and in the state given, and further registers. -/
def readyState (ctxState : Nat) (more : List (Reg × W64)) : State :=
  { State.reset with
    rst := { sources := [], closed := [], firmware := true, published := true }
    bank := (⟨.rstStatus, 0, 0, 0⟩, 0x80000000) :: (⟨.schCtxCfg, 0, 0, 0⟩, 0x80000000) ::
      (⟨.schCtxState, 0, 0, 0⟩, BitVec.ofNat 64 (ctxState * 2 ^ 28)) :: more }

/-! ### O12 -/

/-- A CALL and a RETURN of queue 0 that have issued, both under issue number 0. -/
def callAndReturn : State :=
  { readyState 3 [] with ctxs := [(0, { pkts := [{ id := 0, op := 0x05, words := [], dies := 1 },
      { id := 0, op := 0x06, words := [], dies := 1 }] })] }

/-- Refutes O12: nothing says that issue numbers differ. Where a CALL and a RETURN of the queue carry one number, ABORT ends the
packet found under it twice: ST_CANCELLED for the CALL, then ST_OK for the RETURN. -/
theorem not_abortAndResume : ¬ Obligations.AbortAndResume := by
  unfold Obligations.AbortAndResume
  intro h
  have hopen : callAndReturn.opens ⟨.clrSqCtrl, 0, 0, 0⟩ = true := by decide +kernel
  obtain ⟨t, hP, hseen⟩ := answers_sees (h.1 0 0 callAndReturn hopen) fun t => (t.pkt 0 0).map Pkt.status
  have hstatus : (t.pkt 0 0).map Pkt.status = some stOk := by
    have hcomputed : seenAfter (.sqAbort 0 0) callAndReturn (fun t => (t.pkt 0 0).map Pkt.status) = some (some stOk) := by
      decide +kernel
    exact Option.some.inj (hseen.symm.trans hcomputed)
  obtain ⟨-, -, -, -, -, -, -, -, -, -, hsteer⟩ := hP
  have hcall := (hsteer rfl 0 { id := 0, op := 0x05, words := [], dies := 1 } (by decide +kernel) rfl rfl).2 rfl
    (by decide +kernel) (by decide +kernel) (by decide +kernel)
  obtain ⟨p, hp, -, hcancelled, -⟩ := hcall
  rw [hp] at hstatus
  exact absurd (hcancelled.symm.trans (Option.some.inj hstatus)) (by decide)

/-! ### O15 -/

/-- Context 0 runs, its addresses mapped; its queue 0 holds one slot with a NOP, and a STEP_BEGIN of queue 1 has issued and not yet
opened its step. -/
def stepOpening : State :=
  { readyState 3 [(⟨.clrCtxCfg, 0, 0, 0⟩, 1), (⟨.clrSqBase, 0, 0, 0⟩, 0x10000), (⟨.clrSqCfg, 0, 0, 0⟩, 0x60001),
      (⟨.clrSqDb, 0, 0, 0⟩, 1), (⟨.clrCqCfg, 0, 0, 0⟩, 0x60003)] with
    force := [(⟨.schPartRoot, 0, 0, 0⟩, 0x40000001), (⟨.schPartWin, 0, 0, 0⟩, 0x8002000000000000)]
    ctxs := [(0, { rr := [3], nextId := 1, pkts := [{ id := 0, q := 1, op := 0x60, words := [], dies := 1 }] })]
    mem := [(0x40000000, 1), (0x40000002, 1), (0x40000003, 0x40), (0x40010000, 15)]
    sched := { State.reset.sched with buckets := [(0, 100000)] } }

theorem except_eq_ok {ε α : Type} {x : Except ε α} {a : α} (h : x.toOption = some a) : x = .ok a := by
  cases x with
  | error e => cases h
  | ok b => exact congrArg Except.ok (Option.some.inj h)

/-- The NOP is the next packet of queue 0's ring. -/
theorem stepOpening_next : stepOpening.nextInRing 0 0 (List.replicate 8 0) := by
  refine ⟨by decide, by decide +kernel, by decide +kernel, by decide +kernel, by decide +kernel, by decide +kernel,
    { grans := [(1024, false), (0x1000400, false), (0x1000000, false)] },
    Prod.ext (Prod.ext (except_eq_ok ?_) ?_) (Subtype.ext ?_), ?_⟩ <;> decide +kernel

/-- Refutes O15: the hypotheses say that no step is open, not that none is being opened. Behind a STEP_BEGIN that has issued and not
opened its step, the queues are stuck (R302): the NOP is not fetched and HEAD stays. -/
theorem not_fetchTakesSkipsOrRefuses : ¬ Obligations.FetchTakesSkipsOrRefuses := by
  unfold Obligations.FetchTakesSkipsOrRefuses
  intro h
  have hfetch := h 0 0 stepOpening (List.replicate 8 0) stepOpening_next rfl rfl rfl rfl rfl (by decide +kernel) (by decide +kernel)
    (.inr (by decide +kernel)) (by decide +kernel)
  obtain ⟨-, -, -, hnop⟩ := hfetch
  obtain ⟨t, ⟨⟨hhead, -⟩, -⟩, hseen⟩ := answers_sees (hnop (by decide +kernel) (by decide +kernel) rfl)
    fun t => t.fld F.clrSqStatus_head 0 0
  have hcomputed : seenAfter (.packetFetch 0) stepOpening (fun t => t.fld F.clrSqStatus_head 0 0) = some 0 := by decide +kernel
  rw [hcomputed, hhead] at hseen
  exact absurd hseen (by decide +kernel)

/-! ### O20 -/

/-- A WAIT_VALUE with a time-out of 1 microsecond, and a bit above the 64 of its last word. -/
def wideWait : Pkt := { id := 0, op := 0x0A, words := [0, 0, 0, 0, 2 ^ 96 + 2 ^ 32], dies := 1, st := .waiting }

/-- A swapped-out context with that packet waiting, at microsecond 1. -/
def swappedOut : State := { readyState 1 [] with now := 1, ctxs := [(0, { nextId := 1, pkts := [wideWait] })] }

/-- Refutes O20: nothing says that a packet's words are of 64 bits. The statement reads TIMEOUT_US as 32 bits of word 4, the check of a
swapped-out context's waits as all of the word above bit 31: with a bit set above bit 63 it has not passed yet. -/
theorem not_waitValueComparesAndEnds : ¬ Obligations.WaitValueComparesAndEnds := by
  unfold Obligations.WaitValueComparesAndEnds
  intro h
  obtain ⟨-, -, -, htimeout, -⟩ := h
  have hswapped := htimeout 0 0 swappedOut wideWait (by decide) (by decide +kernel) (by decide +kernel) (by decide +kernel) rfl rfl
    (by decide +kernel) (by decide +kernel)
  obtain ⟨t, ⟨hrunnable, -⟩, hseen⟩ := answers_sees hswapped fun t => t.flag F.schCtxState_runnable 0
  have hcomputed : seenAfter (.waitValueTimeout 0 0) swappedOut (fun t => t.flag F.schCtxState_runnable 0) = some false := by
    decide +kernel
  rw [hcomputed, hrunnable] at hseen
  exact absurd hseen (by decide)

end Sys2Proof.Machine
end

section
/-!
PROOFS. Accesses along any course that keeps to their single steps (R183 to R195, R470 to R472): stores, decoding, rebuilds, error
records. Two such courses: accesses set the registers of the memory, the sets and the error ring alone; where no narrow write is
among them the merge entries only become fewer.
-/
namespace Sys2Proof.Machine

variable {s0 : State} {α β : Type} {K : Course}

/-- The registers that accesses and the faults they meet set. -/
def deviceRegs : List RegName :=
  recordRegs ++ [.stkChCe, .dtChCe, .stkChUe, .dtChUe, .stkChMergeRmw, .dtChMergeRmw, .hbParityRestores, .hbParityRebuilds,
    .hbParityDouble, .cdSetStatus, .galFlushViol, .stkRegGranules, .dtRegGranules]

/-- An effect of accesses that neither sets a register nor changes a merge entry. -/
def Eff.Stores : Eff → Prop
  | .fresh | .byte _ _ | .dropMem _ | .chk _ _ | .injected _ | .tier _ | .sched _ | .err _ | .thm _ | .sets _ _ | .emit _ => True
  | _ => False

/-- A course keeps to the single steps of accesses: registers of theirs, stores, merge entries dropped. -/
structure Touches (K : Course) : Prop where
  reg : ∀ {s0 : State} (f : Fld) (v i j k : Nat), f.reg ∈ deviceRegs → Along K (setF f v i j k : M s0 Unit)
  stores : ∀ {s0 : State} (e : Eff), e.Stores → Along K (eff e : M s0 Unit)
  drops : ∀ {s0 : State} (p : Merge → Bool), Along K (modMerges (List.filter p) : M s0 Unit)

section
variable (T : Touches K)
include T

/-! ### Single steps -/

theorem Touches.bump {f : Fld} {d i j k : Nat} (h : f.reg ∈ deviceRegs) : Along K (Machine.bump f d i j k : M s0 Unit) :=
  .bind .cur fun _ => T.reg _ _ _ _ _ h
theorem Touches.bumpCh {fs fd : Fld} {d t c i : Nat} (hs : fs.reg ∈ deviceRegs) (hd : fd.reg ∈ deviceRegs) :
    Along K (Machine.bumpCh fs fd d t c i : M s0 Unit) := .ite (T.bump hs) (T.bump hd)
theorem Touches.setCh {fs fd : Fld} {v t c i : Nat} (hs : fs.reg ∈ deviceRegs) (hd : fd.reg ∈ deviceRegs) :
    Along K (Machine.setCh fs fd v t c i : M s0 Unit) := .ite (T.reg _ _ _ _ _ hs) (T.reg _ _ _ _ _ hd)
theorem Touches.modInjected {f : List Nat → List Nat} : Along K (Machine.modInjected f : M s0 Unit) :=
  .bind .cur fun _ => T.stores _ trivial
theorem Touches.modTier {f : Tier → Tier} : Along K (Machine.modTier f : M s0 Unit) := .bind .cur fun _ => T.stores _ trivial
theorem Touches.modSched {f : Sched → Sched} : Along K (Machine.modSched f : M s0 Unit) := .bind .cur fun _ => T.stores _ trivial
theorem Touches.modErr {f : ErrSt → ErrSt} : Along K (Machine.modErr f : M s0 Unit) := .bind .cur fun _ => T.stores _ trivial
theorem Touches.modThm {f : Thm → Thm} : Along K (Machine.modThm f : M s0 Unit) := .bind .cur fun _ => T.stores _ trivial
theorem Touches.modSets {k : Nat} {f : SetSt → SetSt} : Along K (Machine.modSets k f : M s0 Unit) :=
  .bind .cur fun _ => T.stores _ trivial
theorem Touches.takeFresh : Along K (Machine.takeFresh : M s0 Nat) := .bind .cur fun _ => .bind (T.stores _ trivial) fun _ => .pure _

theorem Touches.raiseVec {v : Nat} : Along K (Machine.raiseVec v : M s0 Unit) :=
  .bind .cur fun _ => .ite (T.reg _ _ _ _ _ (by decide)) (.ite (T.stores _ trivial) T.modThm)

theorem Touches.pokeBytes {a : Nat} {bs : List Byte} : Along K (Machine.pokeBytes a bs : M s0 Unit) := by
  induction bs generalizing a with
  | nil => exact .pure ()
  | cons b bs ih => exact .bind (T.stores _ trivial) fun _ => ih

/-! ### Stores and error records -/

theorem Touches.backGran {g : Nat} {bs : List Byte} : Along K (Machine.backGran g bs : M s0 Unit) :=
  .bind T.pokeBytes fun _ => .bind (T.stores _ trivial) fun _ => T.modInjected

theorem Touches.storeGran {g : Nat} {bs : List Byte} : Along K (Machine.storeGran g bs : M s0 Unit) :=
  .bind .cur fun _ => .ite
    (.ite
      (.bind T.pokeBytes fun _ => .bind (T.stores _ trivial) fun _ => .bind (T.setCh (by decide) (by decide)) fun _ =>
        .bind (T.setCh (by decide) (by decide)) fun _ => .bind (T.setCh (by decide) (by decide)) fun _ => T.modInjected)
      T.backGran)
    (.bind T.pokeBytes fun _ => T.stores _ trivial)

theorem Touches.writeGran {g : Nat} {bs : List Byte} : Along K (Machine.writeGran g bs : M s0 Unit) :=
  .bind (T.drops _) fun _ => T.storeGran

theorem Touches.poisonGran {g : Nat} : Along K (Machine.poisonGran g : M s0 Unit) :=
  .bind (T.drops _) fun _ => .ifThen T.pokeBytes fun _ => T.stores _ trivial

theorem Touches.errPut {ws : List Nat} : Along K (Machine.errPut ws : M s0 Unit) :=
  .bind .cur fun _ => .ifThen T.writeGran fun _ => .bind (T.reg _ _ _ _ _ (by decide)) fun _ => .bind T.modErr fun _ =>
    .ite T.raiseVec (.pure ())

theorem Touches.errDrop : Along K (Machine.errDrop : M s0 Unit) := .bind (T.bump (by decide)) fun _ => T.modErr

theorem Touches.errReport : Along K (Machine.errReport : M s0 Unit) :=
  .bind .cur fun _ => .ite (.bind T.errPut fun _ => T.modErr) (.pure ())

theorem Touches.errStoreSome {l : List (List Nat)} : Along K (Machine.errStoreSome l : M s0 _) := by
  induction l with
  | nil => exact .pure _
  | cons ws rest ih => exact .bind .cur fun _ => .ite (.bind T.errPut fun _ => ih) (.pure _)

theorem Touches.errFlush : Along K (Machine.errFlush : M s0 Unit) :=
  .bind .cur fun _ => .ite (.bind T.errStoreSome fun _ => .bind T.modErr fun _ => .ite T.errReport (.pure ())) (.pure ())

theorem Touches.errRecord {e : ErrRec} : Along K (Machine.errRecord e : M s0 Unit) :=
  .bind .cur fun _ => .ite (.bind T.errFlush fun _ => .bind .cur fun _ => .ite T.errPut T.errDrop) (.ite T.modErr T.errDrop)

/-! ### Granules -/

theorem Touches.decodeGran {g : Nat} : Along K (Machine.decodeGran g : M s0 (Option (List Byte))) := by
  refine .bind .cur fun s => .ite (.pure _) ?_
  split
  · exact .pure _
  · exact .bind (T.bumpCh (by decide) (by decide)) fun _ => .bind T.backGran fun _ => .pure _
  · exact .pure _

theorem Touches.takeUncorrectable {w : Who} {g : Nat} : Along K (Machine.takeUncorrectable w g : M s0 Unit) :=
  .bind .cur fun _ => .ite (.bind (T.bumpCh (by decide) (by decide)) fun _ => .ifThen T.modTier fun _ => .bind T.poisonGran fun _ =>
    T.errRecord) (.pure ())

theorem Touches.writeOut {m : Merge} : Along K (Machine.writeOut m : M s0 Unit) := by
  refine .bind (T.drops _) fun _ => .ite T.storeGran (.bind .cur fun s => .bind (T.bumpCh (by decide) (by decide)) fun _ =>
    .bind T.decodeGran fun old => ?_)
  cases old with
  | some bs => exact T.storeGran
  | none => exact .ite (.bind T.errRecord fun _ => T.storeGran) T.takeUncorrectable

theorem Touches.writeOutAll {ms : List Merge} : Along K (Machine.writeOutAll ms : M s0 Unit) := by
  induction ms with
  | nil => exact .pure ()
  | cons m ms ih => exact .bind T.writeOut fun _ => ih

theorem Touches.settle {g : Nat} : Along K (Machine.settle g : M s0 Unit) := .bind .cur fun _ => T.writeOutAll

theorem Touches.xorPeers {g : Nat} {ns : List Nat} : Along K (Machine.xorPeers g ns : M s0 (Option (List Byte))) := by
  induction ns with
  | nil => exact .pure _
  | cons n ns ih => exact .bind .cur fun _ => .bind T.decodeGran fun _ => .bind ih fun _ => .pure _

theorem Touches.decodeNow {g : Nat} : Along K (Machine.decodeNow g : M s0 (Option (List Byte))) :=
  .bind T.settle fun _ => .bind T.decodeGran fun _ => .ifThen T.takeUncorrectable fun _ => .pure _

theorem Touches.restoreEntry {r : Nat} {gs : List Nat} : Along K (Machine.restoreEntry r gs : M s0 (Option (Nat × Nat))) := by
  induction gs with
  | nil => exact .pure _
  | cons g gs ih =>
    refine .bind T.decodeNow fun d => ?_
    dsimp only
    split
    · exact .pure _
    · exact ih

theorem Touches.restoreGran {copy first g : Nat} : Along K (Machine.restoreGran copy first g : M s0 Bool) :=
  .bind T.decodeNow fun data => match data with
    | some _ => .bind T.backGran fun _ => .bind (T.bump (by decide)) fun _ => .pure _
    | none => .pure _

theorem Touches.restoreAll {copy first g : Nat} {ns : List Nat} : Along K (Machine.restoreAll copy first g ns : M s0 Unit) := by
  induction ns with
  | nil => exact .pure ()
  | cons n ns ih => exact .bind T.decodeGran fun _ => .ite (.bind T.restoreGran fun _ => ih) ih

theorem Touches.rebuildGran {w : Who} {g : Nat} : Along K (Machine.rebuildGran w g : M s0 (Option (List Byte))) := by
  refine .bind .cur fun s => .bind T.xorPeers fun sum => ?_
  cases sum with
  | some bs => exact .ifThen T.backGran fun _ => .bind (T.bump (by decide)) fun _ => .bind T.errRecord fun _ => .pure _
  | none =>
    refine .bind T.poisonGran fun _ => .bind (T.bump (by decide)) fun _ => .bind T.restoreEntry fun e => ?_
    cases e with
    | some e => exact .bind T.restoreAll fun _ => .bind T.errRecord fun _ => .pure _
    | none => exact .bind T.errRecord fun _ => .pure _

theorem Touches.bankError {x g : Nat} : Along K (Machine.bankError x g : M s0 Unit) :=
  .bind T.poisonGran fun _ => .bind .cur fun _ => .bind T.modSets fun _ =>
    .ite (.bind (T.reg _ _ _ _ _ (by decide)) fun _ => T.reg _ _ _ _ _ (by decide)) (.pure ())

theorem Touches.sbufRead {g : Nat} : Along K (Machine.sbufRead g : M s0 Unit) := by
  unfold Machine.sbufRead
  split
  · exact .bind .cur fun _ => .ite (.bind T.takeFresh fun _ => .ite T.bankError (.pure ())) (.pure ())
  · exact .pure ()

theorem Touches.readGran {w : Who} {g : Nat} : Along K (Machine.readGran w g : M s0 (Option (List Byte) × Bool)) := by
  have hrebuild : Along K (do let r ← Machine.rebuildGran w g; pure (r, true) : M s0 _) := .bind T.rebuildGran fun _ => .pure _
  refine .bind T.settle fun _ => .bind T.sbufRead fun _ => .bind .cur fun s =>
    .ite (.ite hrebuild (.pure _)) (.bind T.decodeGran fun r => ?_)
  cases r with
  | some bs => exact .pure _
  | none => exact .ite hrebuild (.bind T.takeUncorrectable fun _ => .pure _)

theorem Touches.snoopFor {ac : Acc} {g : Nat} {write : Bool} :
    AlongA K (fun _ => True) (Machine.snoopFor ac g write : A s0 Unit) := by
  refine .bind (AlongA.free .cur) fun s _ => .ite (.bind .get fun l _ => .ite
    (.bind (.modify _) fun _ _ => .bind (.lift (T.bump (by decide))) fun _ _ => .lift T.errRecord) (.pure trivial)) ?_
  split
  · exact .pure trivial
  · exact .ite (.throw _) (.ite (.bind (.lift (T.stores _ trivial)) fun _ _ => .lift T.modThm) (.pure trivial))

theorem Touches.spendAt {part a n : Nat} : Along K (Machine.spendAt part a n : M s0 Unit) :=
  .each _ fun _ => .bind T.modSched fun _ => .ite (T.bump (by decide)) (T.bump (by decide))

/-- Reads by virtual address keep to such a course. -/
def Touches.serves : Serves K where
  acc _ := True
  fine _ := True
  table _ := True
  fresh := T.takeFresh
  read _ _ _ := T.readGran
  snoop _ _ _ _ := T.snoopFor
  root _ _ _ _ := trivial
  next _ _ := trivial
  entry _ _ _ _ _ _ _ := trivial
  leaf _ _ _ _ _ _ _ _ _ hdvd h := ⟨leafDecision_place hdvd h, fun _ _ => trivial⟩

/-! ### Writes, on a course that takes any change of the merge entries -/

section
variable (hmerges : ∀ {s0 : State} (f : List Merge → List Merge), Along K (modMerges f : M s0 Unit))
include hmerges

theorem Touches.writeNarrow {g off : Nat} {bs : List Byte} {record : Bool} :
    Along K (Machine.writeNarrow g off bs record : M s0 Unit) := by
  refine .bind .cur fun s => ?_
  dsimp only
  split
  · exact .bind (hmerges _) fun _ => .ite T.writeOut (.pure ())
  · exact .ifThen T.writeOutAll fun _ => hmerges _

theorem Touches.writeAt {a : Nat} {bs : List Byte} {record : Bool} : Along K (Machine.writeAt a bs record : M s0 Unit) := by
  unfold Machine.writeAt
  induction gransOf a bs.length with
  | nil => exact .pure ()
  | cons g gs ih =>
    exact .bind (.ite T.writeGran (.ite (T.writeNarrow hmerges) (.bind .cur fun _ => .ite T.pokeBytes (.pure ())))) fun _ => ih

end

end

/-! ### Accesses set the registers of devices alone -/

/-- An effect of accesses that sets no register but those of devices. -/
def Eff.Tends (e : Eff) : Prop := e.Accesses ∧ e.setsIn deviceRegs

theorem touches_tends : Touches (byEffects Eff.Tends) where
  reg f v i j k h := (Only.setF' f v i j k fun _ => ⟨trivial, h⟩).along
  stores e h := (Only.eff e ⟨by cases e <;> trivial, by cases e <;> trivial⟩).along
  drops p := (Only.bind .cur fun _ => .eff _ ⟨trivial, trivial⟩).along

theorem modMerges_tends (f : List Merge → List Merge) : Along (byEffects Eff.Tends) (modMerges f : M s0 Unit) :=
  (Only.bind .cur fun _ => .eff _ ⟨trivial, trivial⟩).along

theorem Steps.tends_regs {s t : State} (h : Steps Eff.Tends s t) : SameRegs deviceRegs s t := h.sameRegs fun _ he => he.2

theorem Steps.tends_ctxs {s t : State} (h : Steps Eff.Tends s t) : t.ctxs = s.ctxs :=
  h.keeps State.ctxs fun e u he => by cases e <;> first | rfl | exact he.1.elim

theorem Steps.tends_que {s t : State} (h : Steps Eff.Tends s t) : t.que = s.que :=
  h.keeps State.que fun e u he => by cases e <;> first | rfl | exact he.1.elim

theorem Steps.tends_force {s t : State} (h : Steps Eff.Tends s t) : t.force = s.force :=
  h.keeps State.force fun e u he => by cases e <;> first | rfl | exact he.1.elim

theorem errRecord_tends {e : ErrRec} : Only Eff.Tends (errRecord e : M s0 Unit) := touches_tends.errRecord.only
theorem raiseVec_tends {v : Nat} : Only Eff.Tends (raiseVec v : M s0 Unit) := touches_tends.raiseVec.only
theorem writeAt_tends {a : Nat} {bs : List Byte} {record : Bool} : Only Eff.Tends (writeAt a bs record : M s0 Unit) :=
  (touches_tends.writeAt modMerges_tends).only
theorem spendAt_tends {part a n : Nat} : Only Eff.Tends (spendAt part a n : M s0 Unit) :=
  touches_tends.spendAt.only

/-! ### Merge entries that only become fewer -/

/-- The course on which every merge entry was one before. -/
def shrinking : Course where
  inv _ := True
  rel s t := t.merges ⊆ s.merges
  refl _ _ h := h
  trans h k _ hm := h (k hm)

theorem touches_shrinking : Touches shrinking where
  reg f v i j k h t _ := ⟨trivial, fun _ hm => hm⟩
  stores e h t _ := by
    refine ⟨trivial, ?_⟩
    cases e <;> first | exact fun _ hm => hm | exact h.elim
  drops p t _ := ⟨trivial, fun _ hm => (List.mem_filter.1 hm).1⟩

end Sys2Proof.Machine
end

section
/-!
PROOFS. O14: completed packets and their records (R41, R58, R72, R73).
-/
namespace Sys2Proof.Machine

variable {s0 : State} {c id : Nat}

/-! ### Records -/

theorem held_modCtxs (f : Ctx → Ctx) (t : At s0) : ((after (modCtxs c f) t).ctxsAt c).held = (f (t.1.ctxsAt c)).held := by
  rw [ctxsAt_modCtxs, if_pos rfl]

/-- A record held while the ring is disabled. -/
theorem postRecord_holds {t : At s0} (h : t.1.flag F.clrCqCfg_en c = false) (ws : List Nat) (irq : Bool) :
    after (postRecord c ws irq) t = after (modCtxs c fun x => { x with held := x.held ++ [(ws, irq)] }) t := by
  unfold postRecord
  rw [after_cur_bind]
  simp only [h, Bool.false_eq_true, if_false]

/-- A record written while it is enabled. -/
theorem postRecord_puts {t : At s0} (h : t.1.flag F.clrCqCfg_en c = true) (ws : List Nat) (irq : Bool) :
    after (postRecord c ws irq) t = after (putRecord c ws irq) t := by
  unfold postRecord
  rw [after_cur_bind]
  simp only [h, if_true]

/-- What a record written changes: by effects of accesses, and the ring's TAIL. -/
def Eff.Puts (e : Eff) : Prop := e.Accesses ∧ e.setsIn (.clrCqStatus :: deviceRegs)

theorem Eff.Tends.puts {e : Eff} (h : e.Tends) : e.Puts :=
  ⟨h.1, by cases e <;> first | exact List.mem_cons_of_mem _ h.2 | exact h.2⟩

/-- The end of a record's writing: TAIL and the interrupt. -/
theorem advance_puts {v : Nat} {irq : Bool} :
    Only Eff.Puts (do setF F.clrCqStatus_tail v c; if irq then ctxIrq c : M s0 Unit) :=
  .bind (.setF' _ _ _ _ _ fun _ => ⟨trivial, List.mem_cons_self⟩) fun _ =>
    .ite (.bind .cur fun _ => raiseVec_tends.mono fun _ => Eff.Tends.puts) (.pure ())

theorem putRecord_puts {ws : List Nat} {irq : Bool} : Only Eff.Puts (putRecord c ws irq : M s0 Unit) :=
  .bind .cur fun _ => .ite
    (.bind (writeAt_tends.mono fun _ => Eff.Tends.puts) fun _ => .bind (spendAt_tends.mono fun _ => Eff.Tends.puts) fun _ => advance_puts)
    advance_puts

theorem Steps.puts_ctxs {s t : State} (h : Steps Eff.Puts s t) : t.ctxs = s.ctxs :=
  h.keeps State.ctxs fun e u he => by cases e <;> first | rfl | exact he.1.elim

theorem Steps.puts_que {s t : State} (h : Steps Eff.Puts s t) : t.que = s.que :=
  h.keeps State.que fun e u he => by cases e <;> first | rfl | exact he.1.elim

/-- A record written advances TAIL by one modulo twice the depth (R73). -/
theorem tail_putRecord (hc : c < 256) {t : At s0} (hdepth : t.1.fld F.clrCqCfg_depthLog2 c ≤ 14) (ws : List Nat) (irq : Bool) :
    (after (putRecord c ws irq) t).fld F.clrCqStatus_tail c = (t.1.fld F.clrCqStatus_tail c + 1) % (2 * t.1.cqDepth c) := by
  have hexists : (F.clrCqStatus_tail.at c 0 0).exists = true := by
    simp [Reg.exists, Fld.at, F.clrCqStatus_tail, RegName.count, RegName.spec, hc]
  have hlt : (t.1.fld F.clrCqStatus_tail c + 1) % (2 * t.1.cqDepth c) < 2 ^ (14 + 1 - 0) :=
    calc (t.1.fld F.clrCqStatus_tail c + 1) % (2 * t.1.cqDepth c) < 2 * t.1.cqDepth c :=
          Nat.mod_lt _ (Nat.mul_pos (by decide) (Nat.two_pow_pos _))
      _ ≤ 2 * 2 ^ 14 := Nat.mul_le_mul_left _ (Nat.pow_le_pow_right (by decide) hdepth)
  have hadvance : ∀ u : At s0, (after (do
      setF F.clrCqStatus_tail ((t.1.fld F.clrCqStatus_tail c + 1) % (2 * t.1.cqDepth c)) c
      if irq then ctxIrq c : M s0 Unit) u).fld F.clrCqStatus_tail c = (t.1.fld F.clrCqStatus_tail c + 1) % (2 * t.1.cqDepth c) := by
    intro u
    rw [after_bind]
    have hirq : Only Eff.Tends (if irq then ctxIrq c else pure () : M s0 Unit) := .ite (.bind .cur fun _ => raiseVec_tends) (.pure ())
    exact ((hirq _).tends_regs.fld (by decide) _ _ _).trans (fld_after_setF _ _ _ _ _ _ hexists (by decide) hlt)
  unfold putRecord
  rw [after_cur_bind]
  dsimp only
  split
  · rw [after_bind, after_bind]
    exact hadvance _
  · exact hadvance t

/-! ### What leaves every packet -/

/-- The course that leaves every packet. -/
def keepingPkts : Course where
  inv _ := True
  rel := SamePkts
  refl _ _ _ := rfl
  trans := SamePkts.trans

theorem modCtxs_keepingPkts {k : Nat} {f : Ctx → Ctx} (hf : ∀ x, (f x).pkts = x.pkts) : Along keepingPkts (modCtxs k f : M s0 Unit) :=
  fun t _ => ⟨trivial, modCtxs_samePkts hf t⟩

theorem modQue_keepingPkts {k : Nat} {f : Queue → Queue} : Along keepingPkts (modQue k f : M s0 Unit) :=
  fun _ _ => ⟨trivial, fun _ _ => rfl⟩

theorem keepingPkts_of_ctxs {α : Type} {m : M s0 α} (h : ∀ t : At s0, (after m t).ctxs = t.1.ctxs) : Along keepingPkts m := fun t _ => by
  refine ⟨trivial, fun c id => ?_⟩
  unfold State.pkt State.ctxsAt
  rw [h t]

theorem refresh_keepingPkts : Along keepingPkts (refresh c : M s0 Unit) := fun t _ => ⟨trivial, (refresh_follows t).pkt⟩

theorem unstick_keepingPkts : Along keepingPkts (unstick c : M s0 Unit) := .each _ fun _ => modQue_keepingPkts

theorem stepFails_keepingPkts {f : StepFail} {packet : Bool} : Along keepingPkts (stepFails c f packet : M s0 Unit) := by
  have hrecord : ∀ e, Along keepingPkts (errRecord e : M s0 Unit) := fun e => keepingPkts_of_ctxs fun t => (errRecord_tends t).tends_ctxs
  have hfail : ∀ g : Ctx → Option StepFail, Along keepingPkts (modCtxs c fun x => { x with enc := { x.enc with fail := g x } } : M s0 Unit) :=
    fun _ => modCtxs_keepingPkts fun _ => rfl
  exact .bind .cur fun _ => .ifThen (modCtxs_keepingPkts fun _ => rfl) fun _ =>
    .ite (.bind (keepingPkts_of_ctxs fun _ => rfl) fun _ => .bind (hrecord _) fun _ => hfail _)
      (.ifThen (hrecord _) fun _ => hfail _)

theorem postPktRecord_keepingPkts {p : Pkt} : Along keepingPkts (postPktRecord c p : M s0 Unit) :=
  .bind .cur fun _ => .ite (.bind .cur fun _ => .ite (keepingPkts_of_ctxs fun t => (putRecord_puts t).puts_ctxs)
    (modCtxs_keepingPkts fun _ => rfl)) (.pure ())

theorem unstickAll_keepingPkts : Along keepingPkts (unstickAll : M s0 Unit) := .bind .cur fun _ => .each _ fun _ => unstick_keepingPkts

/-- The end of a packet's leaving: queues look again. -/
def looksAgain (c op : Nat) : M s0 Unit := do
  if op = 0x52 then unstickAll else unstick c
  refresh c

theorem looksAgain_keepingPkts {op : Nat} : Along keepingPkts (looksAgain c op : M s0 Unit) := by
  refine .ite ?_ ?_
  · exact .bind unstickAll_keepingPkts fun _ => refresh_keepingPkts
  · exact .bind unstick_keepingPkts fun _ => refresh_keepingPkts

/-- Before it, the queue's stop. -/
theorem stops_keepingPkts {b : Prop} [Decidable b] {op k : Nat} : Along keepingPkts (do
    if b then modQue k fun x => { x with errStop := true }
    looksAgain c op : M s0 Unit) := by
  refine .ite ?_ ?_
  · exact .bind modQue_keepingPkts fun _ => looksAgain_keepingPkts
  · exact looksAgain_keepingPkts

/-- A packet that leaves its caller is no longer in flight. -/
theorem pkt_completePkt {p : Pkt} (t : At s0) : (after (completePkt c p) t).pkt c p.id = none := by
  have hdropped : (after (modCtxs c fun x => { x with pkts := x.pkts.filter fun y => y.id != p.id }) t).pkt c p.id = none := by
    unfold State.pkt
    rw [ctxsAt_modCtxs, if_pos rfl, List.find?_eq_none]
    intro y hy
    have hne := (List.mem_filter.1 hy).2
    simpa using hne
  unfold completePkt
  rw [after_cur_bind, after_bind]
  refine Eq.trans ?_ hdropped
  suffices h : Along keepingPkts _ from (h _ trivial).2 c p.id
  refine .ite (.bind stepFails_keepingPkts fun _ => looksAgain_keepingPkts) ?_
  refine .ite (.bind postPktRecord_keepingPkts fun _ => ?_) (stops_keepingPkts)
  exact .ite (.bind (modCtxs_keepingPkts fun _ => rfl) fun _ => stops_keepingPkts) (stops_keepingPkts)

/-! ### A packet outside a step -/

/-- The queues look again: nothing but their look-ahead changes. -/
structure Looks (s t : State) : Prop where
  rest : t = { s with que := t.que }
  errStop : ∀ k, (t.queAt k).errStop = (s.queAt k).errStop

/-- The course of queues that look again. -/
def looking : Course where
  inv _ := True
  rel := Looks
  refl _ := ⟨rfl, fun _ => rfl⟩
  trans h k := ⟨by rw [k.rest, h.rest], fun q => (k.errStop q).trans (h.errStop q)⟩

theorem unstick_looking : Along looking (unstick c : M s0 Unit) := .each _ fun q t _ => by
  refine ⟨trivial, rfl, fun k => ?_⟩
  rw [queAt_modQue]
  split
  · next h => rw [h]
  · rfl

theorem unstickAll_looking : Along looking (unstickAll : M s0 Unit) := .bind .cur fun _ => .each _ fun _ => unstick_looking

/-- What the end of a packet's leaving leaves: records held, TAIL, the queues' stops. -/
theorem looksAgain_leaves {op : Nat} (t : At s0) : ∃ u : State, Looks t.1 u ∧ Follows u (after (looksAgain c op) t) := by
  unfold looksAgain
  split
  · rw [after_bind]
    exact ⟨_, (unstickAll_looking t trivial).2, refresh_follows _⟩
  · rw [after_bind]
    exact ⟨_, (unstick_looking t trivial).2, refresh_follows _⟩

/-- A packet outside a step leaves its caller: its record, its queue's stop, and the queues look again. -/
theorem completePkt_outside {p : Pkt} (hp : p.inStep = false) (t : At s0) : after (completePkt c p) t = after (do
    modCtxs c fun x => { x with pkts := x.pkts.filter fun y => y.id != p.id }
    postPktRecord c p
    if p.status ≠ 0 ∧ t.1.flag F.clrSqCfg_stopOnErr c p.q = true then modQue (qKey c p.q) fun x => { x with errStop := true }
    looksAgain c p.op) t := by
  have hsends : sendsToEncore (t.1.ctxsAt c) p = false := by simp [sendsToEncore, hp]
  have hself : { p with recovered := p.recovered || (t.1.ctxsAt c).repeats p } = p := by
    have hrepeats : (t.1.ctxsAt c).repeats p = false := by simp [Ctx.repeats, hp]
    rw [hrepeats, Bool.or_false]
  unfold completePkt
  rw [after_cur_bind]
  simp only [hself]
  simp [hsends, hp, looksAgain]

/-- No record is due of a packet that ends ST_OK without COMPLETE (R73). -/
theorem postPktRecord_silent {p : Pkt} (hok : p.status = 0) (hsilent : p.complete = false) (t : At s0) :
    after (postPktRecord c p) t = t.1 := by
  unfold postPktRecord
  rw [after_cur_bind]
  simp [hok, hsilent]

/-- The record that is due of any other. -/
theorem postPktRecord_posts {p : Pkt} (hdue : p.status ≠ 0 ∨ p.complete = true) (t : At s0) :
    after (postPktRecord c p) t = after (postRecord c
      (recordWords c p.q p.seq p.status p.op (p.f 1 63 32) p.chainOff p.detail p.parent.isSome p.skipped p.split p.recovered t.1.now)
      (p.irq || (p.status != 0 && t.1.flag F.clrCqCfg_irqOnErr c))) t := by
  unfold postPktRecord
  rw [after_cur_bind, if_pos hdue]

section
variable {s : State} {p : Pkt}

/-- The state once the packet is no longer in flight, and once its record is posted. -/
def dropped (c : Nat) (p : Pkt) (s : State) : At s :=
  (modCtxs c (fun x => { x with pkts := x.pkts.filter fun y => y.id != p.id }) ⟨s, Reach.refl s⟩).2
def recorded (c : Nat) (p : Pkt) (s : State) : At s := (postPktRecord c p (dropped c p s)).2

theorem held_dropped : ((dropped c p s).1.ctxsAt c).held = (s.ctxsAt c).held :=
  held_modCtxs (fun x => { x with pkts := x.pkts.filter fun y => y.id != p.id }) ⟨s, Reach.refl s⟩
theorem dropped_eq : (dropped c p s).1 = { s with ctxs := (dropped c p s).1.ctxs } := rfl
theorem fld_dropped (f : Fld) (i j k : Nat) : (dropped c p s).1.fld f i j k = s.fld f i j k := by
  rw [dropped_eq]
  rfl
theorem flag_dropped (f : Fld) (i j k : Nat) : (dropped c p s).1.flag f i j k = s.flag f i j k := congrArg (· != 0) (fld_dropped f i j k)
theorem now_dropped : (dropped c p s).1.now = s.now := rfl
theorem recorded_eq : (recorded c p s).1 = after (postPktRecord c p) (dropped c p s) := rfl

/-- What a packet that has left its caller outside a step leaves: its record as it was posted, and its queue's stop. -/
theorem completePkt_leaves (hp : p.inStep = false) : let t := after (completePkt c p) ⟨s, Reach.refl s⟩
    (t.ctxsAt c).held = ((recorded c p s).1.ctxsAt c).held ∧
      t.fld F.clrCqStatus_tail c = (recorded c p s).1.fld F.clrCqStatus_tail c ∧
      (p.status ≠ 0 → s.flag F.clrSqCfg_stopOnErr c p.q = true → (t.queAt (qKey c p.q)).errStop = true) := by
  intro t
  have ht : t = after (completePkt c p) ⟨s, Reach.refl s⟩ := rfl
  rw [completePkt_outside hp, after_bind, after_bind] at ht
  change t = after _ (recorded c p s) at ht
  split at ht
  · rw [after_bind] at ht
    obtain ⟨u, hlooks, hfollows⟩ := looksAgain_leaves (c := c) (op := p.op)
      (modQue (qKey c p.q) (fun x => { x with errStop := true }) (recorded c p s)).2
    rw [← ht] at hfollows
    have hctx : u.ctxsAt c = (recorded c p s).1.ctxsAt c := by rw [hlooks.rest]; rfl
    refine ⟨(hfollows.held c).trans (congrArg Ctx.held hctx), (hfollows.fld (.inr (by decide)) _ _ _).trans ?_, fun _ _ => ?_⟩
    · rw [hlooks.rest]
      rfl
    · rw [hfollows.queAt, hlooks.errStop]
      exact congrArg Queue.errStop ((queAt_modQue _ _ (recorded c p s) _).trans (if_pos rfl))
  · next hstop =>
    obtain ⟨u, hlooks, hfollows⟩ := looksAgain_leaves (c := c) (op := p.op) (recorded c p s)
    rw [← ht] at hfollows
    have hctx : u.ctxsAt c = (recorded c p s).1.ctxsAt c := by rw [hlooks.rest]; rfl
    refine ⟨(hfollows.held c).trans (congrArg Ctx.held hctx), (hfollows.fld (.inr (by decide)) _ _ _).trans ?_,
      fun hst hflag => absurd ⟨hst, hflag⟩ hstop⟩
    rw [hlooks.rest]
    rfl

/-- The command of a packet whose every part has ended. -/
theorem completion_answers (hup : s.callerUp c = true) (hpkt : s.pkt c id = some p) (hst : p.st = .done)
    (hunder : ∀ y ∈ (s.ctxsAt c).pkts, y.parent ≠ some id) {P : State → Prop} (hP : P (after (completePkt c p) ⟨s, Reach.refl s⟩)) :
    Answers (.packetCompletion c id) s P := by
  have hall : (s.ctxsAt c).pkts.all (fun y => y.parent != some id) = true := by simpa using hunder
  refine answers_of_go (m := completePkt c p) ?_ hP
  change M.go s _ = _
  simp [hpkt, hst, hup, hall]

end

/-- Settles O14: outside a step the packet is dropped and its record posted or held; nothing after that touches either. -/
theorem packetCompletionPosts : Obligations.PacketCompletionPosts := by
  unfold Obligations.PacketCompletionPosts
  intro c id s p hup hpkt hst hunder
  obtain rfl := State.pkt_id hpkt
  refine completion_answers hup hpkt hst hunder ⟨pkt_completePkt _, fun hstep => ?_⟩
  obtain ⟨hheld, htail, hstop⟩ := completePkt_leaves (c := c) (s := s) hstep
  rw [hheld, htail, recorded_eq]
  refine ⟨fun hok hsilent => ?_, fun hdue => ⟨fun hoff => ?_, fun hon hc hdepth => ?_⟩, hstop⟩
  · rw [postPktRecord_silent hok hsilent]
    exact ⟨held_dropped, fld_dropped ..⟩
  · rw [postPktRecord_posts hdue, postRecord_holds ((flag_dropped ..).trans hoff), held_modCtxs, held_dropped, now_dropped, flag_dropped]
  · rw [postPktRecord_posts hdue, postRecord_puts ((flag_dropped ..).trans hon),
      tail_putRecord hc ((fld_dropped ..).trans_le hdepth)]
    unfold State.cqDepth
    rw [fld_dropped, fld_dropped]

end Sys2Proof.Machine
end

section
/-!
PROOFS. O13: writes of event counters and the waits they end (R35, R67); EN of the completion ring (R73, R74).
-/
namespace Sys2Proof.Machine

variable {s0 : State} {α : Type} {c id : Nat}

/-! ### Waits that end -/

/-- What every action of a list keeps, the list keeps. -/
theorem after_each_keeps {f : α → M s0 Unit} {Q : State → Prop} (xs : List α)
    (hQ : ∀ y ∈ xs, ∀ t : At s0, Q t.1 → Q (after (f y) t)) : ∀ t : At s0, Q t.1 → Q (after (each xs f) t) := by
  induction xs with
  | nil => exact fun _ h => h
  | cons x xs ih =>
    exact fun t h => ih (fun y hy => hQ y (List.mem_cons_of_mem _ hy)) (f x t).2 (hQ x List.mem_cons_self t h)

/-- What holds after a list's actions, where one of them establishes it and every one keeps it. -/
theorem after_each_mem {xs : List α} {f : α → M s0 Unit} {I Q : State → Prop} (hI : ∀ y (t : At s0), I t.1 → I (after (f y) t))
    (hQ : ∀ y (t : At s0), Q t.1 → Q (after (f y) t)) {x : α} (hx : x ∈ xs) (hfx : ∀ t : At s0, I t.1 → Q (after (f x) t)) :
    ∀ t : At s0, I t.1 → Q (after (each xs f) t) := by
  induction xs with
  | nil => cases hx
  | cons y ys ih =>
    intro t ht
    obtain rfl | hmem := List.mem_cons.1 hx
    · exact after_each_keeps ys (fun y _ => hQ y) (f x t).2 (hfx t ht)
    · exact ih hmem (f y t).2 (hI y t ht)

section
variable {p : Pkt} {pd : Nat} {sat : Bool}

theorem logOutcome_keepingPkts {v : Nat} : Along keepingPkts (logOutcome c p v : M s0 Unit) :=
  .ite (modCtxs_keepingPkts fun x => by split <;> rfl) (.pure ())

theorem bank_logOutcome (v : Nat) (t : At s0) : (after (logOutcome c p v) t).bank = t.1.bank := by
  unfold logOutcome
  split <;> rfl

theorem logOutcome_marks {ns : List RegName} {v : Nat} : Only (Eff.Marks ns) (logOutcome c p v : M s0 Unit) :=
  .ite modCtxs_marks (.pure ())

theorem endWait_marks : Only (Eff.Marks [.clrPred]) (endWait c p pd sat : M s0 Unit) :=
  .bind setPred_marks fun _ => .bind logOutcome_marks fun _ => endPkt_marks

/-- The end of a wait, with what came before its packet's end. -/
theorem endWait_run (t : At s0) : after (endWait c p pd sat) t =
    after (endPkt c p.id stOk (b2n sat)) (logOutcome c p (b2n sat) (setPred c pd sat t).2).2 := by
  unfold endWait
  rw [after_bind, after_bind]

theorem pred_endWait (hc : c < 256) (hpd : pd < 8) (t : At s0) (j : Nat) :
    (after (endWait c p pd sat) t).pred c j = if j = pd then sat else t.1.pred c j := by
  rw [← pred_setPred hc hpd, endWait_run]
  unfold State.pred State.fld State.reg
  exact congrArg (fun b => bit (bits (Bank.get b _).toNat _ _) j) (bank_logOutcome (b2n sat) (setPred c pd sat t).2)

theorem pkt_logOutcome (t : At s0) (i : Nat) : (logOutcome c p (b2n sat) (setPred c pd sat t).2).2.1.pkt c i = t.1.pkt c i :=
  (logOutcome_keepingPkts (c := c) (p := p) (v := b2n sat) (setPred c pd sat t).2 trivial).2 c i

theorem ended_endWait {t : At s0} {y : Pkt} (h : t.1.pkt c p.id = some y) :
    (after (endWait c p pd sat) t).ended c p.id stOk (b2n sat) := by
  rw [endWait_run]
  exact ended_endPkt ((pkt_logOutcome t _).trans h) _ _

theorem pkt_endWait_isSome {t : At s0} {i : Nat} {y : Pkt} (h : t.1.pkt c i = some y) :
    ∃ z, (after (endWait c p pd sat) t).pkt c i = some z := by
  rw [endWait_run]
  exact pkt_endPkt_isSome ((pkt_logOutcome t _).trans h) _ _

theorem ended_endWait_same {t : At s0} {i : Nat} (h : t.1.ended c i stOk (b2n sat)) :
    (after (endWait c p pd sat) t).ended c i stOk (b2n sat) := by
  rw [endWait_run]
  obtain ⟨y, hy, hrest⟩ := h
  exact ended_endPkt_same ⟨y, (pkt_logOutcome t _).trans hy, hrest⟩

end

/-! ### Event counters -/

/-- A waiting EVENT_WAIT of the event whose threshold is reached. -/
def State.reached (s : State) (c e : Nat) (p : Pkt) : Bool :=
  p.op == 0x83 && p.st == .waiting && p.f 3 4 0 == e && decide (p.w 4 ≤ s.fld F.clrEvent_count c e)

/-- The waits of an event that has changed: each that is reached ends. -/
def endReached (c e : Nat) (s : State) : M s0 Unit :=
  each (s.ctxsAt c).pkts fun p => if s.reached c e p then endWait c p (p.f 5 2 0) true else pure ()

theorem eventChanged_run (e : Nat) (t : At s0) :
    after (eventChanged c e) t = after (refreshState c) (endReached c e t.1 t).2 := rfl

theorem endReached_marks {e : Nat} {s : State} : Only (Eff.Marks [.clrPred]) (endReached c e s : M s0 Unit) :=
  .each _ fun _ => .ite endWait_marks (.pure ())

theorem endReached_ends (hc : c < 256) {e : Nat} {s : State} {p : Pkt} (hp : p ∈ (s.ctxsAt c).pkts) (hreached : s.reached c e p = true)
    {t : At s0} {y : Pkt} (hy : t.1.pkt c p.id = some y) :
    (after (endReached c e s) t).ended c p.id stOk 1 ∧ (after (endReached c e s) t).pred c (p.f 5 2 0) = true := by
  have hlt : ∀ x : Pkt, x.f 5 2 0 < 8 := fun x => bits_lt _ 2 0
  refine after_each_mem (I := fun u => ∃ z, u.pkt c p.id = some z)
    (Q := fun u => u.ended c p.id stOk 1 ∧ u.pred c (p.f 5 2 0) = true) (fun x u ⟨z, hz⟩ => ?_) (fun x u ⟨hend, hpred⟩ => ?_) hp
    (fun u ⟨z, hz⟩ => ?_) t ⟨y, hy⟩
  · split
    · exact pkt_endWait_isSome hz
    · exact ⟨z, hz⟩
  · split
    · refine ⟨ended_endWait_same (sat := true) hend, ?_⟩
      rw [pred_endWait hc (hlt x)]
      split
      · rfl
      · exact hpred
    · exact ⟨hend, hpred⟩
  · rw [if_pos hreached]
    exact ⟨ended_endWait hz, (pred_endWait hc (hlt p) u _).trans (if_pos rfl)⟩

/-- A write of an event counter. -/
theorem writeEvent_answers {e : Nat} (v : W64) {s : State} (hopen : s.opens ⟨.clrEvent, c, e, 0⟩ = true) :
    Answers (.eventCounterWrite c e v) s fun t =>
      t.fld F.clrEvent_count c e = v.toNat ∧
      (∀ id p, s.pkt c id = some p → p.op = 0x83 → p.st = .waiting → p.f 3 4 0 = e → p.w 4 ≤ v.toNat →
        t.ended c id stOk 1 ∧ t.pred c (p.f 5 2 0) = true) ∧
      SameRegs (.clrEvent :: .clrPred :: followers) s t ∧ SameStore s t := by
  refine answers_of_go rfl ?_
  rw [after_atReg hopen]
  have hexists : (F.clrEvent_count.at c e 0).exists = true := exists_of_opens hopen
  have hc : c < 256 := by
    simp [Reg.exists, Fld.at, F.clrEvent_count, RegName.count, RegName.spec] at hexists
    omega
  let u : At s := (setF F.clrEvent_count v.toNat c e 0 ⟨s, Reach.refl s⟩).2
  let w : At s := (endReached c e u.1 u).2
  have hcount : u.1.fld F.clrEvent_count c e = v.toNat := fld_after_setF _ _ _ _ _ _ hexists (by decide) v.isLt
  have ht : Follows w.1 (after (writeEvent c e v.toNat) ⟨s, Reach.refl s⟩) := by
    have hrun : after (writeEvent c e v.toNat) ⟨s, Reach.refl s⟩ = after (refreshState c) w := by
      unfold writeEvent
      rw [after_bind, eventChanged_run]
    rw [hrun]
    exact refreshState_follows w
  have hmarks : Steps (Eff.Marks [.clrEvent, .clrPred]) s w.1 :=
    (setF_marks (by decide) ⟨s, Reach.refl s⟩).trans ((endReached_marks u).mono fun _ => Eff.Marks.mono (by decide))
  refine ⟨?_, fun i p hpkt hop hst hev hle => ?_, ht.of_steps hmarks⟩
  · calc _ = w.1.fld F.clrEvent_count c e := ht.fld (.inl (by decide)) _ _ _
      _ = u.1.fld F.clrEvent_count c e := (endReached_marks u).marks_regs.fld (by decide) _ _ _
      _ = v.toNat := hcount
  · obtain rfl := State.pkt_id hpkt
    have hreached : u.1.reached c e p = true := by
      unfold State.reached
      simp [hcount, hop, hst, hev, hle]
    have hmem : p ∈ (u.1.ctxsAt c).pkts := List.mem_of_find?_eq_some hpkt
    obtain ⟨hend, hpred⟩ : w.1.ended c p.id stOk 1 ∧ w.1.pred c (p.f 5 2 0) = true := endReached_ends hc hmem hreached (t := u) hpkt
    exact ⟨ht.ended hend, (ht.pred _ _).trans hpred⟩

/-! ### EN of the completion ring -/

theorem Touches.walk {K : Course} (T : Touches K) {ac : Acc} {va : Nat} {write : Bool} :
    Along K (Machine.walk ac va write : M s0 (Except Nat Nat)) :=
  .bind (T.serves.leafWalk trivial) fun _ => .bind .cur fun _ => .pure _

theorem ringPages_tends {ac : Acc} {vas : List Nat} : Only Eff.Tends (ringPages ac vas : M s0 (Option (List Nat))) := by
  induction vas with
  | nil => exact .pure _
  | cons va vas ih => exact .bind touches_tends.walk.only fun _ => .bind ih fun _ => .pure _

theorem putHeld_puts {rs : List (List Nat × Bool)} : Only Eff.Puts (putHeld c rs : M s0 Unit) := by
  induction rs with
  | nil => exact .pure ()
  | cons r rs ih => exact .bind putRecord_puts fun _ => ih

theorem Steps.puts_regs {s t : State} (h : Steps Eff.Puts s t) : SameRegs (.clrCqStatus :: deviceRegs) s t := h.sameRegs fun _ he => he.2

/-- The virtual addresses of the ring's pages. -/
def State.ringVas (s : State) (c : Nat) : List Nat :=
  (List.range (ceilDiv (32 * s.cqDepth c) 4096)).map fun i => s.fld F.clrCqBase_base c * 4096 + 4096 * i

/-- The translation of the ring's pages. -/
def pagesRun (c : Nat) (s : State) : Option (List Nat) × At s :=
  (ringPages (s.acc c) (s.ringVas c) : M s _) ⟨s, Reach.refl s⟩

section
variable {s : State}

/-- Where a page does not translate. -/
theorem enableRing_fails (hoff : s.flag F.clrCqCfg_en c = false) (h : (pagesRun c s).1 = none) :
    after (enableRing c) ⟨s, Reach.refl s⟩ = after (refresh c) (setFlag F.clrCtxStatus_cqXlateErr true c 0 0 (pagesRun c s).2).2 := by
  unfold enableRing
  rw [after_cur_bind, if_pos hoff, after_bind]
  change after (match (pagesRun c s).1 with | none => _ | some ps => _) (pagesRun c s).2 = _
  rw [h]
  exact after_bind _ _ _

/-- Where every page translates. -/
theorem enableRing_opens (hoff : s.flag F.clrCqCfg_en c = false) {ps : List Nat} (h : (pagesRun c s).1 = some ps) :
    after (enableRing c) ⟨s, Reach.refl s⟩ = after (do
      setFlag F.clrCqCfg_en true c
      modCtxs c fun x => { x with cqPages := ps, held := [] }
      putHeld c (s.ctxsAt c).held
      unstick c
      refresh c) (pagesRun c s).2 := by
  unfold enableRing
  rw [after_cur_bind, if_pos hoff, after_bind]
  change after (match (pagesRun c s).1 with | none => _ | some ps => _) (pagesRun c s).2 = _
  rw [h]

theorem ctxsAt_congr {s t : State} (h : t.ctxs = s.ctxs) (k : Nat) : t.ctxsAt k = s.ctxsAt k := by
  unfold State.ctxsAt
  rw [h]

theorem Looks.ctxsAt {s t : State} (h : Looks s t) (k : Nat) : t.ctxsAt k = s.ctxsAt k := by
  rw [h.rest]
  rfl

theorem Looks.fld {s t : State} (h : Looks s t) (f : Fld) (i j k : Nat) : t.fld f i j k = s.fld f i j k := by
  rw [h.rest]
  rfl

/-- The ring opens: EN, its pages, and no record held. -/
theorem opening_leaves (hexists : (F.clrCqCfg_en.at c 0 0).exists = true) (rs : List (List Nat × Bool)) (ps : List Nat) (t : At s0) :
    let y := after (do
      setFlag F.clrCqCfg_en true c
      modCtxs c fun x => { x with cqPages := ps, held := [] }
      putHeld c rs
      unstick c
      refresh c) t
    y.flag F.clrCqCfg_en c = true ∧ (y.ctxsAt c).cqPages = ps ∧ (y.ctxsAt c).held = [] := by
  rw [after_bind, after_bind, after_bind, after_bind]
  let u : At s0 := (setFlag F.clrCqCfg_en true c 0 0 t).2
  let v : At s0 := (modCtxs c (fun x => { x with cqPages := ps, held := [] }) u).2
  let w : At s0 := (putHeld c rs v).2
  let x : At s0 := (unstick c w).2
  have hx : Follows x.1 (after (refresh c) x) := refresh_follows x
  have hlooks : Looks w.1 x.1 := (unstick_looking w trivial).2
  have hput : Steps Eff.Puts v.1 w.1 := putHeld_puts v
  have hctx : x.1.ctxsAt c = { u.1.ctxsAt c with cqPages := ps, held := [] } :=
    calc x.1.ctxsAt c = w.1.ctxsAt c := hlooks.ctxsAt c
      _ = v.1.ctxsAt c := ctxsAt_congr hput.puts_ctxs c
      _ = _ := (ctxsAt_modCtxs c (fun x => { x with cqPages := ps, held := [] }) u c).trans (if_pos rfl)
  have hset : u.1.flag F.clrCqCfg_en c = true := flag_after_setFlag t hexists (by decide)
  have hkept : x.1.fld F.clrCqCfg_en c = u.1.fld F.clrCqCfg_en c :=
    calc x.1.fld F.clrCqCfg_en c = w.1.fld F.clrCqCfg_en c := hlooks.fld _ _ _ _
      _ = v.1.fld F.clrCqCfg_en c := hput.puts_regs.fld (by decide) _ _ _
  exact ⟨(hx.flag (.inl (by decide)) _ _ _).trans ((congrArg (· != 0) hkept).trans hset),
    (hx.cqPages c).trans (congrArg Ctx.cqPages hctx), (hx.held c).trans (congrArg Ctx.held hctx)⟩

/-- The answer of an enable: an error noted, or the ring open. -/
theorem enableRing_answers (hopen : s.opens ⟨.clrCqCfg, c, 0, 0⟩ = true) (hoff : s.flag F.clrCqCfg_en c = false) :
    Answers (.cqEnable c) s fun t => match (pagesRun c s).1 with
      | none => t.flag F.clrCqCfg_en c = false ∧ t.flag F.clrCtxStatus_cqXlateErr c = true ∧ (t.ctxsAt c).held = (s.ctxsAt c).held
      | some ps => t.flag F.clrCqCfg_en c = true ∧ (t.ctxsAt c).cqPages = ps ∧ (t.ctxsAt c).held = [] := by
  have hexists : (F.clrCqCfg_en.at c 0 0).exists = true := exists_of_opens hopen
  have hc : c < 256 := by
    simp [Reg.exists, Fld.at, F.clrCqCfg_en, RegName.count, RegName.spec] at hexists
    omega
  have hstatus : (F.clrCtxStatus_cqXlateErr.at c 0 0).exists = true := by
    simp [Reg.exists, Fld.at, F.clrCtxStatus_cqXlateErr, RegName.count, RegName.spec, hc]
  have hpages : Steps Eff.Tends s (pagesRun c s).2.1 := ringPages_tends ⟨s, Reach.refl s⟩
  refine answers_of_go rfl ?_
  rw [after_atReg hopen]
  cases hrun : (pagesRun c s).1 with
  | none =>
    rw [enableRing_fails hoff hrun]
    let u : At s := (setFlag F.clrCtxStatus_cqXlateErr true c 0 0 (pagesRun c s).2).2
    have ht : Follows u.1 (after (refresh c) u) := refresh_follows u
    have hctx : u.1.ctxsAt c = s.ctxsAt c := ctxsAt_congr (t := (pagesRun c s).2.1) hpages.tends_ctxs c
    refine ⟨?_, ?_, (ht.held c).trans (congrArg Ctx.held hctx)⟩
    · calc _ = u.1.flag F.clrCqCfg_en c := ht.flag (.inl (by decide)) _ _ _
        _ = (pagesRun c s).2.1.flag F.clrCqCfg_en c :=
          congrArg (· != 0) (fld_after_setF_ne F.clrCtxStatus_cqXlateErr F.clrCqCfg_en (b2n true) c 0 0 c 0 0 _ fun e => by cases e)
        _ = s.flag F.clrCqCfg_en c := congrArg (· != 0) (hpages.tends_regs.fld (by decide) _ _ _)
        _ = false := hoff
    · exact (ht.flag (.inr (by decide)) _ _ _).trans (flag_after_setFlag (pagesRun c s).2 hstatus (by decide))
  | some ps =>
    rw [enableRing_opens hoff hrun]
    exact opening_leaves hexists _ ps _

end

/-- Settles O13: the list of packets is gone through, each wait that is reached ending; the ring's pages are translated by reads alone,
which set no register of a caller. -/
theorem eventCounterAndCompletionRing : Obligations.EventCounterAndCompletionRing := by
  unfold Obligations.EventCounterAndCompletionRing
  exact ⟨fun c e v s hopen => writeEvent_answers v hopen, fun c s hopen hoff => enableRing_answers hopen hoff⟩

end Sys2Proof.Machine
end

section
/-!
PROOFS. O21: EVENT_WAIT and its time-out, the fences, EVENT_SIGNAL (R67 to R69, R186).
-/
namespace Sys2Proof.Machine

variable {s0 : State} {c id : Nat}

/-! ### EVENT_WAIT -/

section
variable {s : State} {p : Pkt}

/-- A wait that ends with a comparison, then a refresh. -/
theorem wait_ends (hc : c < 256) (hpkt : s.pkt c p.id = some p) {sat : Bool} {t : State}
    (ht : Follows (after (endWait c p (p.f 5 2 0) sat) ⟨s, Reach.refl s⟩) t) :
    t.ended c p.id stOk (b2n sat) ∧ t.pred c (p.f 5 2 0) = sat ∧ SameStore s t ∧ SameRegs (.clrPred :: followers) s t := by
  have hlt : p.f 5 2 0 < 8 := bits_lt _ 2 0
  obtain ⟨hregs, hstore⟩ := ht.of_steps (endWait_marks ⟨s, Reach.refl s⟩)
  exact ⟨ht.ended (ended_endWait (t := ⟨s, Reach.refl s⟩) hpkt),
    (ht.pred _ _).trans ((pred_endWait hc hlt ⟨s, Reach.refl s⟩ _).trans (if_pos rfl)), hstore, hregs⟩

theorem eventWait_answers (hc : c < 256) (h : s.issued c id 0x83 p) (hlog : s.logged c p = none) : Answers (.eventWait c id) s fun t =>
    SameStore s t ∧ SameRegs (.clrPred :: followers) s t ∧
      if p.w 4 ≤ s.fld F.clrEvent_count c (p.f 3 4 0) then t.ended c id stOk 1 ∧ t.pred c (p.f 5 2 0) = true
      else t.stands c id .waiting ∧ ∀ i, i < 8 → t.pred c i = s.pred c i := by
  refine answers_ctl rfl h fun t ht => ?_
  obtain ⟨-, -, hpkt, -⟩ := h
  obtain rfl := State.pkt_id hpkt
  rw [after_cur_bind] at ht
  simp only [hlog] at ht
  split
  · next hle =>
    rw [if_pos hle] at ht
    obtain ⟨hend, hpred, hstore, hregs⟩ := wait_ends hc hpkt ht
    exact ⟨hstore, hregs, hend, hpred⟩
  · next hle =>
    rw [if_neg hle] at ht
    obtain ⟨hregs, hstore⟩ := ht.of_steps (waitPkt_marks (ns := []) ⟨s, Reach.refl s⟩)
    exact ⟨hstore, hregs.mono (List.subset_cons_self _ _), ht.stands (stands_waitPkt (t := ⟨s, Reach.refl s⟩) hpkt),
      fun i _ => ht.pred c i⟩

/-- The command of a waiting packet acts on that packet. -/
theorem answers_waiting {i : Instr} {op : Nat} {f : Pkt → M s Unit} (hexec : exec i s = M.go s (onWaiting c id op f))
    (hup : s.callerUp c = true) (hpkt : s.pkt c id = some p) (hop : p.op = op) (hst : p.st = .waiting) {P : State → Prop}
    (hP : P (after (f p) ⟨s, Reach.refl s⟩)) : Answers i s P := by
  refine answers_of_go hexec ?_
  unfold onWaiting
  rw [after_cur_bind]
  simpa [hpkt, hop, hst, hup] using hP

theorem eventWaitTimeout_answers (hc : c < 256) (hload : s.loaded c = true) (hup : s.callerUp c = true) (hpkt : s.pkt c id = some p)
    (hop : p.op = 0x83) (hst : p.st = .waiting) (hset : p.f 5 63 32 ≠ 0) (hover : p.at_ + p.f 5 63 32 ≤ s.now) :
    Answers (.eventWaitTimeout c id) s fun t =>
      let sat := decide (p.w 4 ≤ s.fld F.clrEvent_count c (p.f 3 4 0))
      t.ended c id stOk (b2n sat) ∧ t.pred c (p.f 5 2 0) = sat ∧ SameStore s t ∧ SameRegs (.clrPred :: followers) s t := by
  have htimed : s.timedOut p (p.f 5 63 32) = true := by
    unfold State.timedOut
    simp [hset, hover]
  obtain rfl := State.pkt_id hpkt
  refine answers_waiting rfl hup hpkt hop hst ?_
  rw [after_cur_bind]
  simp only [hload, htimed, Bool.and_self, if_true]
  rw [after_bind]
  exact wait_ends hc hpkt (refresh_follows _)

end

/-! ### Storage in a scope -/

theorem inScope_congr {s t : State} (h : t.force = s.force) (w a : Nat) : t.inScope w a = s.inScope w a := by
  unfold State.inScope State.physUnit State.dead State.inForce
  rw [h]

/-- A merge entry written out is gone, and none comes in its stead. -/
theorem writeOut_drops (m : Merge) (t : At s0) : ∀ x ∈ (after (writeOut m) t).merges, x ∈ t.1.merges ∧ x.gran ≠ m.gran := by
  let drop : M s0 Unit := modMerges fun ms => ms.filter fun x => x.gran != m.gran
  have hmerges : ∀ u : At s0, (drop u).2.1 = { u.1 with merges := u.1.merges.filter fun x => x.gran != m.gran } := fun _ => rfl
  have htwice : (drop (drop t).2).2 = (drop t).2 := by
    refine Subtype.ext ?_
    rw [hmerges, hmerges, List.filter_filter]
    simp
  have hrun : after (writeOut m) t = after (writeOut m) (drop t).2 := by
    unfold writeOut
    rw [after_bind, after_bind]
    change after _ (drop t).2 = after _ (drop (drop t).2).2
    rw [htwice]
  intro x hx
  rw [hrun] at hx
  have hmem : x ∈ (drop t).2.1.merges := (touches_shrinking.writeOut (m := m) (drop t).2 trivial).2 hx
  rw [hmerges] at hmem
  simpa using List.mem_filter.1 hmem

theorem writeOutAll_drops (ms : List Merge) (t : At s0) :
    ∀ x ∈ (after (writeOutAll ms) t).merges, x ∈ t.1.merges ∧ ∀ m ∈ ms, x.gran ≠ m.gran := by
  induction ms generalizing t with
  | nil => exact fun x hx => ⟨hx, nofun⟩
  | cons m ms ih =>
    intro x hx
    obtain ⟨hmem, hms⟩ := ih (writeOut m t).2 x hx
    obtain ⟨hold, hm⟩ := writeOut_drops m t x hmem
    refine ⟨hold, fun y hy => ?_⟩
    obtain rfl | hy := List.mem_cons.1 hy
    · exact hm
    · exact hms y hy

theorem flushScope_tends {w : Nat} : Only Eff.Tends (flushScope w : M s0 Unit) := .bind .cur fun _ => touches_tends.writeOutAll.only

/-- After a flush no merge entry of the scope is left. -/
theorem flushScope_clears (w : Nat) (t : At s0) : ∀ m ∈ (after (flushScope w) t).merges,
    (after (flushScope w) t).inScope w (64 * m.gran) = false := by
  intro m hm
  rw [inScope_congr (flushScope_tends t).tends_force]
  obtain ⟨hold, hne⟩ := writeOutAll_drops _ t m hm
  by_contra hin
  exact hne m (List.mem_filter.2 ⟨hold, by simpa using hin⟩) rfl

/-! ### The drain (R69) -/

section
variable {K : Course} (T : Touches K)
include T

theorem Touches.kvPageVa {p : Pkt} {ac : Acc} {k : Kv} {i : Nat} {x : KvSeq} {pg : Bool × Nat} {h : Nat} :
    AlongA K (fun _ => True) (Machine.kvPageVa p ac k i x pg h : A s0 Nat) := by
  unfold Machine.kvPageVa
  split
  · exact .pure trivial
  · exact .bind (T.serves.rdWord trivial) fun _ _ => .pure trivial

theorem Touches.kvPlaces {p : Pkt} {ac : Acc} {k : Kv} : AlongA K (fun _ => True) (Machine.kvPlaces p ac k : A s0 (List Place)) :=
  .bind (.mapAll _ fun _ => .mapAll _ fun _ => .mapAll _ fun _ => .mapAll _ fun _ =>
    .ite (.pure trivial) (.tryCatch (.bind T.kvPageVa fun _ _ => .pure trivial) fun _ => .pure trivial)) fun _ _ => .pure trivial

theorem Touches.rdPool {ac : Acc} {k : Kv} {n : Nat} : AlongA K (fun _ => True) (Machine.rdPool ac k n : A s0 Pool) :=
  .ite (.pure trivial) (.bind (T.serves.rdWords trivial) fun _ _ => .pure trivial)

theorem Touches.appendRuns {p : Pkt} : Along K (Machine.appendRuns c p : M s0 (List (Nat × Nat))) :=
  .ite (.bind .cur fun _ => .bind (.runA T.kvPlaces) fun _ => .pure _) (.pure _)

theorem Touches.poolRings {ac : Acc} {k : Kv} : Along K (Machine.poolRings ac k : M s0 (List (Nat × Nat))) :=
  .bind (.runA (.mapAll _ fun _ => T.rdPool)) fun _ => .pure _

/-- Finding what an issued packet has still to write reads memory alone. -/
theorem Touches.writesOf {p : Pkt} : Along K (Machine.writesOf c p : M s0 (List (Nat × Nat))) := by
  have hstage : ∀ ac : Acc, Along K (runA (if p.kv.stage = 0 then pure [] else rdWords ac p.kv.stage 12 : A s0 (List Nat))) :=
    fun _ => .runA (.ite (.pure trivial) (T.serves.rdWords trivial))
  refine .bind .cur fun s => ?_
  dsimp only
  split
  case h_7 => exact T.appendRuns
  case h_8 => exact .bind T.appendRuns fun _ => .bind (hstage _) fun _ => .pure _
  case h_9 => exact .bind T.poolRings fun _ => .pure _
  case h_13 =>
    split
    · exact .pure _
    · exact .pure _
  all_goals exact .pure _

theorem Touches.pagesInScope {ac : Acc} {w : Nat} {vas : List Nat} : Along K (Machine.pagesInScope ac w vas : M s0 Bool) := by
  induction vas with
  | nil => exact .pure _
  | cons va vas ih => exact .bind T.walk fun _ => .bind .cur fun _ => .bind ih fun _ => .pure _

theorem Touches.effectsInScope {w : Nat} {p : Pkt} : Along K (Machine.effectsInScope c w p : M s0 Bool) :=
  .bind .cur fun _ => .ite (.pure _) (.ite (.pure _) (.ite (.pure _) (.bind T.writesOf fun _ => T.pagesInScope)))

theorem Touches.anyInScope {w : Nat} {ps : List Pkt} : Along K (Machine.anyInScope c w ps : M s0 Bool) := by
  induction ps with
  | nil => exact .pure _
  | cons p ps ih => exact .bind T.effectsInScope fun _ => .bind ih fun _ => .pure _

end

/-- Finding whether a drain is complete reads memory alone. -/
theorem drained_tends {p : Pkt} : Only Eff.Tends (drained c p : M s0 Bool) :=
  .bind .cur fun _ => .bind touches_tends.anyInScope.only fun _ => .pure _

/-- A scope that names no storage has nothing to wait for. -/
theorem anyInScope_empty {w : Nat} (hw : bits w 16 0 = 0) (ps : List Pkt) (t : At s0) : (anyInScope c w ps t).1 = false := by
  induction ps generalizing t with
  | nil => rfl
  | cons p ps ih =>
    have hfirst : effectsInScope c w p t = (false, t) := by
      unfold effectsInScope
      rw [bind_run, cur_run]
      simp only [hw, if_true]
      rfl
    unfold anyInScope
    rw [bind_run, hfirst, bind_run]
    change (false || (anyInScope c w ps t).1) = false
    rw [ih, Bool.or_false]

theorem drained_of_empty {p : Pkt} (hw : p.w 2 = 0) (t : At s0) : (drained c p t).1 = true := by
  have hbits : bits (p.w 2) 16 0 = 0 := by rw [hw]; rfl
  unfold drained
  rw [bind_run, cur_run, bind_run]
  change (!(anyInScope c (p.w 2) _ t).1) = true
  rw [anyInScope_empty hbits]
  rfl

/-! ### FENCE and EVENT_SIGNAL -/

/-- Waits that end leave every packet in flight. -/
theorem endReached_isSome {e i : Nat} {s : State} {t : At s0} {y : Pkt} (h : t.1.pkt c i = some y) :
    ∃ z, (after (endReached c e s) t).pkt c i = some z := by
  refine after_each_keeps (Q := fun u => ∃ z, u.pkt c i = some z) _ (fun x _ u ⟨z, hz⟩ => ?_) t ⟨y, h⟩
  split
  · exact pkt_endWait_isSome hz
  · exact ⟨z, hz⟩

/-- What a changed event leaves: packets in flight, counters, merge entries, values in force. -/
theorem eventChanged_leaves {e : Nat} (t : At s0) : (∀ i y, t.1.pkt c i = some y → ∃ z, (after (eventChanged c e) t).pkt c i = some z) ∧
    (after (eventChanged c e) t).fld F.clrEvent_count c e = t.1.fld F.clrEvent_count c e ∧
    (after (eventChanged c e) t).merges = t.1.merges ∧ (after (eventChanged c e) t).force = t.1.force := by
  rw [eventChanged_run]
  have hmarks : Steps (Eff.Marks [.clrPred]) t.1 (endReached c e t.1 t).2.1 := endReached_marks t
  have hfollows : Follows (endReached c e t.1 t).2.1 (after (refreshState c) (endReached c e t.1 t).2) := refreshState_follows _
  obtain ⟨-, -, hmerges, -⟩ := hmarks.marks_store
  have hforce : (endReached c e t.1 t).2.1.force = t.1.force := by rw [hmarks.marks_eq]
  refine ⟨fun i y hy => ?_, (hfollows.fld (.inl (by decide)) _ _ _).trans (hmarks.marks_regs.fld (by decide) _ _ _),
    hfollows.merges.trans hmerges, hfollows.force.trans hforce⟩
  obtain ⟨z, hz⟩ := endReached_isSome (c := c) (e := e) (s := t.1) hy
  exact ⟨z, (hfollows.pkt _ _).trans hz⟩

theorem Steps.tends_pkt {s t : State} (h : Steps Eff.Tends s t) (c i : Nat) : t.pkt c i = s.pkt c i :=
  (h.mono fun _ he => he.1).accesses_pkt c i

section
variable (st d : Nat) (t : At s0)

theorem fld_endPkt (f : Fld) (i j k : Nat) : (after (endPkt c id st d) t).fld f i j k = t.1.fld f i j k := rfl
theorem merges_endPkt : (after (endPkt c id st d) t).merges = t.1.merges := rfl
theorem force_endPkt : (after (endPkt c id st d) t).force = t.1.force := rfl

end

section
variable (f : Fld) (v i j k : Nat) (t : At s0)

theorem pkt_setF (x : Nat) : (after (setF f v i j k) t).pkt c x = t.1.pkt c x := rfl
theorem merges_setF : (after (setF f v i j k) t).merges = t.1.merges := rfl
theorem force_setF : (after (setF f v i j k) t).force = t.1.force := rfl

end

/-- An EVENT_SIGNAL's addition, and its packet's end. -/
def addEvent (c e n i : Nat) : M s0 Unit := do
  setF F.clrEvent_count (((← cur).fld F.clrEvent_count c e + n) % 2 ^ 64) c e
  eventChanged c e
  endPkt c i stOk 0

theorem addEvent_leaves {e n i : Nat} (hc : c < 256) (he : e < 32) (t : At s0) :
    (∀ y, t.1.pkt c i = some y → (after (addEvent c e n i) t).ended c i stOk 0) ∧
    (after (addEvent c e n i) t).fld F.clrEvent_count c e = (t.1.fld F.clrEvent_count c e + n) % 2 ^ 64 ∧
    (after (addEvent c e n i) t).merges = t.1.merges ∧ (after (addEvent c e n i) t).force = t.1.force := by
  have hexists : (F.clrEvent_count.at c e 0).exists = true := by
    simp [Reg.exists, Fld.at, F.clrEvent_count, RegName.count, RegName.spec, hc, he]
  unfold addEvent
  rw [after_cur_bind]
  generalize t.1.fld F.clrEvent_count c e + n = v
  have hcount := fld_after_setF F.clrEvent_count (v % 2 ^ 64) c e 0 t hexists (by decide) (Nat.mod_lt _ (by decide))
  rw [after_bind, after_bind]
  obtain ⟨hstay, hevent, hmerges, hforce⟩ := eventChanged_leaves (c := c) (e := e) (setF F.clrEvent_count (v % 2 ^ 64) c e 0 t).2
  refine ⟨fun y hy => ?_, ?_, ?_, ?_⟩
  · obtain ⟨z, hz⟩ := hstay i y ((pkt_setF ..).trans hy)
    exact ended_endPkt hz _ _
  · rw [fld_endPkt]
    exact hevent.trans hcount
  · rw [merges_endPkt]
    exact hmerges.trans (merges_setF ..)
  · rw [force_endPkt]
    exact hforce.trans (force_setF ..)

section
variable {s : State} {p : Pkt}

/-- Where its state stands once the drain has been looked at, and once the scope's merge entries are written out. -/
def looked (c : Nat) (p : Pkt) (s : State) : At s := ((drained c p : M s Bool) ⟨s, Reach.refl s⟩).2
def flushed (c : Nat) (p : Pkt) (s : State) : At s := (flushScope (p.w 2) (looked c p s)).2

theorem flushed_tends : Steps Eff.Tends s (flushed c p s).1 :=
  (drained_tends ⟨s, Reach.refl s⟩).trans (flushScope_tends (looked c p s))

theorem pkt_flushed (i : Nat) : (flushed c p s).1.pkt c i = s.pkt c i := flushed_tends.tends_pkt c i

theorem flushed_cleared {t : State} (hmerges : t.merges = (flushed c p s).1.merges) (hforce : t.force = (flushed c p s).1.force) :
    ∀ m ∈ t.merges, t.inScope (p.w 2) (64 * m.gran) = false := by
  intro m hm
  rw [hmerges] at hm
  rw [inScope_congr hforce]
  exact flushScope_clears (p.w 2) (looked c p s) m hm

theorem fence_ends (h : s.issued c id 0x80 p) (hdrained : p.w 2 = 0 ∨ ((drained c p : M s Bool) ⟨s, Reach.refl s⟩).1 = true) :
    Answers (.fence c id) s fun t => t.ended c id stOk 0 ∧ ∀ m ∈ t.merges, t.inScope (p.w 2) (64 * m.gran) = false := by
  refine answers_ctl rfl h fun t ht => ?_
  obtain ⟨-, -, hpkt, -⟩ := h
  obtain rfl := State.pkt_id hpkt
  have hyes : ((drained c p : M s Bool) ⟨s, Reach.refl s⟩).1 = true := hdrained.elim (fun hw => drained_of_empty hw _) fun hd => hd
  have hend : Follows (after (endPkt c p.id stOk 0) (flushed c p s)) t := by
    rw [after_bind, hyes, if_pos rfl, after_bind] at ht
    exact ht
  exact ⟨hend.ended (ended_endPkt ((pkt_flushed _).trans hpkt) _ _), flushed_cleared (hend.merges.trans (merges_endPkt ..))
    (hend.force.trans (force_endPkt ..))⟩

theorem fence_stays (h : s.issued c id 0x80 p) (hno : ((drained c p : M s Bool) ⟨s, Reach.refl s⟩).1 = false) :
    Answers (.fence c id) s fun t => t.stands c id .issued := by
  refine answers_ctl rfl h fun t ht => ?_
  obtain ⟨-, -, hpkt, -, hst, -⟩ := h
  have hlooked : Follows (looked c p s).1 t := by
    rw [after_bind, hno, if_neg (by decide)] at ht
    exact ht
  have hkept : (looked c p s).1.pkt c id = s.pkt c id :=
    (drained_tends ⟨s, Reach.refl s⟩).tends_pkt c id
  exact hlooked.stands ⟨p, hkept.trans hpkt, hst⟩

theorem eventSignal_ends (hc : c < 256) (h : s.issued c id 0x82 p) (hyes : ((drained c p : M s Bool) ⟨s, Reach.refl s⟩).1 = true) :
    Answers (.eventSignal c id) s fun t => t.ended c id stOk 0 ∧
      t.fld F.clrEvent_count c (p.f 3 4 0) = (s.fld F.clrEvent_count c (p.f 3 4 0) + p.w 4) % 2 ^ 64 ∧
      ∀ m ∈ t.merges, t.inScope (p.w 2) (64 * m.gran) = false := by
  refine answers_ctl rfl h fun t ht => ?_
  obtain ⟨-, -, hpkt, -⟩ := h
  obtain rfl := State.pkt_id hpkt
  have hend : Follows (after (addEvent c (p.f 3 4 0) (p.w 4) p.id) (flushed c p s)) t := by
    rw [after_bind, hyes, if_pos rfl, after_bind] at ht
    exact ht
  obtain ⟨hended, hcount, hmerges, hforce⟩ := addEvent_leaves (e := p.f 3 4 0) (n := p.w 4) (i := p.id) hc (bits_lt _ 4 0) (flushed c p s)
  rw [flushed_tends.tends_regs.fld (by decide)] at hcount
  exact ⟨hend.ended (hended p ((pkt_flushed _).trans hpkt)), (hend.fld (.inl (by decide)) _ _ _).trans hcount,
    flushed_cleared (hend.merges.trans hmerges) (hend.force.trans hforce)⟩

end

/-- Settles O21: a wait is its comparison; a drain is looked at by reads alone, and writing out the scope's merge entries leaves none
of it. -/
theorem eventsFencesAndSignals : Obligations.EventsFencesAndSignals := by
  unfold Obligations.EventsFencesAndSignals
  exact ⟨fun c id s p hc h hlog => eventWait_answers hc h hlog,
    fun c id s p hc hload hup hpkt hop hst hset hover => eventWaitTimeout_answers hc hload hup hpkt hop hst hset hover,
    fun c id s p h hdrained => fence_ends h hdrained, fun c id s p h hno => fence_stays h hno,
    fun c id s p hc h hyes => eventSignal_ends hc h hyes⟩

end Sys2Proof.Machine
end

section
/-!
PROOFS. O54: cues and droop (R71, R390 to R393). What PWR_DIE shows rests on the controller's state and on registers other than
itself.
-/
namespace Sys2Proof.Machine

variable {s0 : State} {c id : Nat}

/-! ### What PWR_DIE shows -/

/-- The controller's state, and every register but what it shows of the dies, is the same. -/
structure SamePower (s t : State) : Prop where
  pwr : t.pwr = s.pwr
  regs : SameRegs [.pwrDie] s t

section
variable {s t : State} (h : SamePower s t)
include h

theorem SamePower.fld {f : Fld} (hf : f.reg ∉ [RegName.pwrDie]) (i j k : Nat) : t.fld f i j k = s.fld f i j k := h.regs.fld hf i j k
theorem SamePower.flag {f : Fld} (hf : f.reg ∉ [RegName.pwrDie]) (i j k : Nat) : t.flag f i j k = s.flag f i j k :=
  congrArg (· != 0) (h.fld hf i j k)

theorem SamePower.nominal : t.nominal = s.nominal := by unfold State.nominal; rw [h.fld (by decide)]
theorem SamePower.boost : t.boost = s.boost := by unfold State.boost; rw [h.fld (by decide)]
theorem SamePower.top (c : Nat) : t.top c = s.top c := by unfold State.top; rw [h.boost]
theorem SamePower.tickPoint (c : Nat) : t.tickPoint c = s.tickPoint c := by unfold State.tickPoint; rw [h.pwr, h.nominal]
theorem SamePower.railCeiling (c : Nat) : t.railCeiling c = s.railCeiling c := by unfold State.railCeiling; rw [h.pwr, h.top]
theorem SamePower.railLow (c : Nat) : t.railLow c = s.railLow c := by unfold State.railLow; rw [h.pwr]
theorem SamePower.temp (i : Nat) : t.temp i = s.temp i := by unfold State.temp; rw [h.fld (by decide)]

theorem SamePower.hottest (part : Nat) : t.hottest part = s.hottest part := by
  unfold State.hottest
  have hvalid : (fun i => t.flag F.tmpSense_valid i) = fun i => s.flag F.tmpSense_valid i := funext fun i => h.flag (by decide) _ _ _
  have htemp : t.temp = s.temp := funext h.temp
  rw [hvalid, htemp]

theorem SamePower.atLeast (part : Nat) (x : Int) : t.atLeast part x = s.atLeast part x := by unfold State.atLeast; rw [h.hottest]
theorem SamePower.dutyCeiling (g : Nat) : t.dutyCeiling g = s.dutyCeiling g := by
  unfold State.dutyCeiling
  simp only [h.atLeast]
theorem SamePower.heatLimit (d : Nat) : t.heatLimit d = s.heatLimit d := by unfold State.heatLimit; rw [h.atLeast, h.top, h.pwr]
theorem SamePower.pointNow (c : Nat) : t.pointNow c = s.pointNow c := by
  unfold State.pointNow
  rw [h.tickPoint, h.railCeiling, h.heatLimit, h.dutyCeiling, h.railLow]

theorem SamePower.cueHolds (d : Nat) : t.cueHolds d = s.cueHolds d := by unfold State.cueHolds; rw [h.flag (by decide), h.pwr]
theorem SamePower.sentToRest (d : Nat) : t.sentToRest d = s.sentToRest d := by unfold State.sentToRest; rw [h.flag (by decide), h.pwr]
theorem SamePower.hubKept : t.hubKept = s.hubKept := by unfold State.hubKept; rw [h.flag (by decide), h.pwr]
theorem SamePower.braking : t.braking = s.braking := by unfold State.braking; rw [h.pwr]

theorem SamePower.awake (c : Nat) : t.awake c = s.awake c := by
  unfold State.awake
  rw [h.flag (by decide), h.fld (by decide), h.fld (by decide), h.atLeast, h.boost, h.nominal]

theorem SamePower.requested (c : Nat) : t.requested c = s.requested c := by
  unfold State.requested State.busyOf
  rw [h.flag (by decide), h.nominal, h.pwr, h.sentToRest, h.cueHolds, h.awake]

theorem SamePower.asked (c : Nat) : t.asked c = s.asked c := by unfold State.asked; rw [h.pwr, h.requested]

theorem SamePower.hubStep : t.hubStep = s.hubStep := by
  unfold State.hubStep
  rw [h.hubKept, h.railLow, h.pwr, h.atLeast, h.braking]

/-- The clock of a die or of the hub. -/
theorem SamePower.clockNow (d : Nat) : t.clockNow d = s.clockNow d := by
  unfold State.clockNow
  rw [h.hubStep, h.pointNow, h.pwr]

/-- What caps it. -/
theorem SamePower.causes (d : Nat) : t.causes d = s.causes d := by
  unfold State.causes State.extLow
  simp only [h.asked, h.tickPoint, h.hubKept, h.railLow, h.railCeiling, h.pwr, h.atLeast, h.heatLimit, h.braking]

end

/-- PWR_DIE of die d shows what holds in state s. -/
structure Shows (s : State) (d : Nat) (u : State) : Prop where
  fNow : u.fld F.pwrDie_fNow d = s.clockNow d % 2 ^ 16
  capped : u.flag F.pwrDie_capped d = !(s.causes d).isEmpty
  cause : u.fld F.pwrDie_cause d = (s.causes d).headD 0
  cueHold : u.flag F.pwrDie_cueHold d = (decide (d < 2) && s.cueHolds d)

theorem causes_head_lt (s : State) (d : Nat) : (s.causes d).headD 0 < 8 := by
  have hall : ∀ x ∈ s.causes d, x < 8 := by
    intro x hx
    unfold State.causes at hx
    simp only [List.mem_filterMap, List.mem_cons, List.not_mem_nil, or_false] at hx
    obtain ⟨e, he, hex⟩ := hx
    split at hex
    · cases hex
      obtain rfl | rfl | rfl | rfl | rfl := he <;> norm_num
    · cases hex
  cases hcauses : s.causes d with
  | nil => decide
  | cons x xs => exact hall x (by rw [hcauses]; exact List.mem_cons_self)

theorem refreshDie_samePower {d : Nat} (t : At s0) : SamePower t.1 (after (refreshDie d) t) := by
  have honly : Only (setsReg [.pwrDie]) (refreshDie d : M s0 Unit) :=
    .bind .cur fun _ => .bind (.setF _ _ _ _ _ (by decide)) fun _ => .bind (.setF _ _ _ _ _ (by decide)) fun _ =>
      .bind (.setF _ _ _ _ _ (by decide)) fun _ => .bind (.setFlag _ _ _ _ _ (by decide)) fun _ =>
      .bind (.setF _ _ _ _ _ (by decide)) fun _ => .bind (.setFlag _ _ _ _ _ (by decide)) fun _ => .setFlag _ _ _ _ _ (by decide)
  exact ⟨by rw [Steps.eq_of_setsReg (honly t)], (honly t).reg_eq⟩

/-- Fields that share no bit, each set once: each holds its value, as wide as it is. -/
theorem fld_after_sets {ls : List (Fld × Nat)} {i : Nat} (hexists : ∀ e ∈ ls, (e.1.at i 0 0).exists = true)
    (hfits : ∀ e ∈ ls, e.1.fits = true) (hapart : ls.Pairwise fun a b => b.1.hi < a.1.lo ∨ a.1.hi < b.1.lo) {f : Fld} {v : Nat}
    (hmem : (f, v) ∈ ls) (t : At s0) : (after (each ls fun e => setF e.1 e.2 i) t).fld f i = v % 2 ^ (f.hi + 1 - f.lo) := by
  induction ls generalizing t with
  | nil => cases hmem
  | cons e ls ih =>
    obtain ⟨hfirst, hrest⟩ := List.pairwise_cons.1 hapart
    obtain rfl | hmem := List.mem_cons.1 hmem
    · refine after_each_keeps (Q := fun u => u.fld f i = v % 2 ^ (f.hi + 1 - f.lo)) ls (fun x hx u hu => ?_) (setF f v i 0 0 t).2
        (fld_after_setF_mod f v i 0 0 t (hexists (f, v) List.mem_cons_self) (hfits (f, v) List.mem_cons_self))
      exact (fld_after_setF_other x.1 f x.2 i 0 0 i 0 0 u (hfits x (List.mem_cons_of_mem _ hx)) (hfits (f, v) List.mem_cons_self)
        (hfirst x hx)).trans hu
    · exact ih (fun e he => hexists e (List.mem_cons_of_mem _ he)) (fun e he => hfits e (List.mem_cons_of_mem _ he)) hrest hmem
        (setF e.1 e.2 i 0 0 t).2

/-- The fields of PWR_DIE of die d with the values they follow (R401). -/
def dieFields (s : State) (d : Nat) : List (Fld × Nat) :=
  [(F.pwrDie_fReq, if d = 2 then 1200 else 500 + 25 * s.asked d), (F.pwrDie_fNow, s.clockNow d),
    (F.pwrDie_vNow, if d = 2 then 0 else s.voltage d (s.pointNow d)), (F.pwrDie_capped, b2n !(s.causes d).isEmpty),
    (F.pwrDie_cause, (s.causes d).headD 0), (F.pwrDie_rest, b2n (d < 2 && s.rests d)), (F.pwrDie_cueHold, b2n (d < 2 && s.cueHolds d))]

theorem refreshDie_run (d : Nat) (t : At s0) :
    after (refreshDie d) t = after (each (dieFields t.1 d) fun e => setF e.1 e.2 d) t := by
  unfold refreshDie setFlag
  rw [after_cur_bind]
  simp only [dieFields, each, after_bind, after_pure]
  rfl

theorem refreshDie_shows {d : Nat} (hd : d < 3) (t : At s0) : Shows t.1 d (after (refreshDie d) t) := by
  have hfields : (dieFields t.1 d).map Prod.fst =
      [F.pwrDie_fReq, F.pwrDie_fNow, F.pwrDie_vNow, F.pwrDie_capped, F.pwrDie_cause, F.pwrDie_rest, F.pwrDie_cueHold] := rfl
  have hof : ∀ e ∈ dieFields t.1 d, e.1 ∈
      [F.pwrDie_fReq, F.pwrDie_fNow, F.pwrDie_vNow, F.pwrDie_capped, F.pwrDie_cause, F.pwrDie_rest, F.pwrDie_cueHold] :=
    fun e he => hfields ▸ List.mem_map_of_mem he
  have hexists : ∀ e ∈ dieFields t.1 d, (e.1.at d 0 0).exists = true := by
    intro e he
    have hreg : ∀ f ∈ [F.pwrDie_fReq, F.pwrDie_fNow, F.pwrDie_vNow, F.pwrDie_capped, F.pwrDie_cause, F.pwrDie_rest, F.pwrDie_cueHold],
        f.reg = .pwrDie := by decide
    simp [Fld.at, hreg e.1 (hof e he), Reg.exists, RegName.count, RegName.spec, hd]
  have hfits : ∀ e ∈ dieFields t.1 d, e.1.fits = true := fun e he =>
    (by decide : ∀ f ∈ [F.pwrDie_fReq, F.pwrDie_fNow, F.pwrDie_vNow, F.pwrDie_capped, F.pwrDie_cause, F.pwrDie_rest, F.pwrDie_cueHold],
      f.fits = true) e.1 (hof e he)
  have hapart : (dieFields t.1 d).Pairwise fun a b => b.1.hi < a.1.lo ∨ a.1.hi < b.1.lo := by
    refine List.Pairwise.of_map Prod.fst (S := fun a b : Fld => b.hi < a.lo ∨ a.hi < b.lo) (fun _ _ h => h) ?_
    rw [hfields]
    decide
  have hval : ∀ f v, (f, v) ∈ dieFields t.1 d → (after (refreshDie d) t).fld f d = v % 2 ^ (f.hi + 1 - f.lo) := by
    intro f v hmem
    rw [refreshDie_run]
    exact fld_after_sets hexists hfits hapart hmem t
  have hflag : ∀ f b, f.hi + 1 - f.lo = 1 → (f, b2n b) ∈ dieFields t.1 d → (after (refreshDie d) t).flag f d = b := by
    intro f b hone hmem
    unfold State.flag
    rw [hval f _ hmem, hone]
    cases b <;> rfl
  exact ⟨hval F.pwrDie_fNow _ (by simp [dieFields]), hflag F.pwrDie_capped _ rfl (by simp [dieFields]),
    (hval F.pwrDie_cause _ (by simp [dieFields])).trans (Nat.mod_eq_of_lt (causes_head_lt t.1 d)),
    hflag F.pwrDie_cueHold _ rfl (by simp [dieFields])⟩

theorem SamePower.refl (s : State) : SamePower s s := ⟨rfl, fun _ _ => rfl⟩
theorem SamePower.trans {s t u : State} (h : SamePower s t) (k : SamePower t u) : SamePower s u :=
  ⟨k.pwr.trans h.pwr, h.regs.trans k.regs⟩

/-- What is shown of a state is shown of one with the same power. -/
theorem Shows.of_same {s t u : State} {d : Nat} (h : SamePower s t) (hu : Shows t d u) : Shows s d u := by
  obtain ⟨hclock, hcapped, hcause, hhold⟩ := hu
  rw [h.clockNow] at hclock
  rw [h.causes] at hcapped hcause
  rw [h.cueHolds] at hhold
  exact ⟨hclock, hcapped, hcause, hhold⟩

theorem fld_refreshDie_ne {d d' : Nat} (hne : d ≠ d') (f : Fld) (t : At s0) : (after (refreshDie d') t).fld f d = t.1.fld f d := by
  rw [refreshDie_run]
  refine after_each_keeps (Q := fun u => u.fld f d = t.1.fld f d) _ (fun e _ u hu => ?_) t rfl
  exact (fld_after_setF_ne e.1 f e.2 d' 0 0 d 0 0 u fun h => hne (congrArg Reg.i h)).trans hu

/-- After a refresh PWR_DIE shows what holds. -/
theorem refreshDies_shows (t : At s0) :
    SamePower t.1 (after refreshDies t) ∧ ∀ d, d < 3 → Shows t.1 d (after refreshDies t) := by
  unfold refreshDies
  refine ⟨after_each_keeps (f := refreshDie) (Q := fun u => SamePower t.1 u) (List.range 3)
    (fun d _ u hu => hu.trans (refreshDie_samePower u)) t (SamePower.refl _), fun d hd => ?_⟩
  refine (after_each_mem (f := refreshDie) (xs := List.range 3) (I := fun u => SamePower t.1 u) (Q := fun u => SamePower t.1 u ∧ Shows t.1 d u)
    (fun d' u hu => hu.trans (refreshDie_samePower u)) (fun d' u hu => ?_) (List.mem_range.2 hd)
    (fun u hu => ⟨hu.trans (refreshDie_samePower u), (refreshDie_shows hd u).of_same hu⟩) t (SamePower.refl _)).2
  obtain ⟨hsame, hshow⟩ := hu
  refine ⟨hsame.trans (refreshDie_samePower u), ?_⟩
  by_cases hdd : d = d'
  · subst hdd
    exact (refreshDie_shows hd u).of_same hsame
  · obtain ⟨hclock, hcapped, hcause, hhold⟩ := hshow
    exact ⟨(fld_refreshDie_ne hdd _ u).trans hclock, (congrArg (· != 0) (fld_refreshDie_ne hdd F.pwrDie_capped u)).trans hcapped,
      (fld_refreshDie_ne hdd _ u).trans hcause, (congrArg (· != 0) (fld_refreshDie_ne hdd F.pwrDie_cueHold u)).trans hhold⟩

theorem refreshDies_diesShown (t : At s0) : (after refreshDies t).diesShown := by
  obtain ⟨hsame, hshows⟩ := refreshDies_shows t
  intro d hd
  obtain ⟨hclock, hcapped, hcause, -⟩ := hshows d hd
  rw [hsame.clockNow, hsame.causes]
  exact ⟨hclock, hcapped, hcause⟩

/-! ### CUE (R71, R390) -/

/-- The hold begins between the cue's issue and its phase, or at its issue. -/
theorem holdFrom_bounds (s : State) (q : Cue) : q.at_ ≤ s.holdFrom q ∧ (s.holdFrom q ≤ q.start ∨ s.holdFrom q = q.at_) := by
  unfold State.holdFrom
  dsimp only
  omega

/-- A later cue takes the dies it names from those of its kind whose phase has not begun. -/
theorem leaves_eq (q o : Cue) : q.leaves o =
    let both (d : Nat) : Nat := if d = 0 then 3 else d
    let common := both q.dies &&& both o.dies
    if q.kind = o.kind ∧ o.begun = false ∧ common ≠ 0 then
      (if common = both o.dies then none else some { o with dies := both o.dies - common })
    else some o := by
  unfold Cue.leaves Cue.mask
  dsimp only
  rw [Nat.and_comm (if o.dies = 0 then 3 else o.dies)]
  by_cases hkind : q.kind = o.kind
  · cases hbegun : o.begun
    · by_cases hcommon : (if q.dies = 0 then 3 else q.dies) &&& (if o.dies = 0 then 3 else o.dies) = 0
      · simp [hcommon]
      · simp [hkind, hcommon]
    · simp
  · simp [hkind]

section
variable {s : State} {p : Pkt}

/-- The cue that a CUE packet brings (R71). -/
def cueOf (s : State) (p : Pkt) : Cue :=
  { kind := p.f 2 19 16, dies := p.f 2 49 48, at_ := p.at_, start := p.at_ + p.f 2 15 0
    finish := p.at_ + p.f 2 15 0 + (if p.f 2 47 32 = 0 then s.fld F.pwrCfg_cueHoldUs else p.f 2 47 32), level := p.f 2 31 24 }

theorem pwr_endPkt (st d : Nat) (t : At s0) : (after (endPkt c id st d) t).pwr = t.1.pwr := rfl

/-- What CUE leaves of the controller's state: the cues, where it is taken. -/
theorem cue_leaves (h : s.issued c id 0x81 p) : Answers (.cue c id) s fun t => t.ended c id stOk 0 ∧
    t.pwr = if s.flag F.pwrCfg_cueEn && s.sec.switches.all (fun w => w.kind != 2) then
      { s.pwr with cues := s.pwr.cues.filterMap (cueOf s p).leaves ++ [{ cueOf s p with hold := s.holdFrom (cueOf s p) }] }
    else s.pwr := by
  refine answers_ctl rfl h fun t ht => ?_
  obtain ⟨-, -, hpkt, -⟩ := h
  obtain rfl := State.pkt_id hpkt
  rw [after_cur_bind] at ht
  dsimp only at ht
  split
  · next htaken =>
    rw [if_pos htaken, after_bind] at ht
    let u : At s := (takeCue (cueOf s p) ⟨s, Reach.refl s⟩).2
    have hu : Follows (after (endPkt c p.id stOk 0) u) t := ht
    exact ⟨hu.ended (ended_endPkt (t := u) hpkt _ _), hu.pwr⟩
  · next hignored =>
    rw [if_neg hignored] at ht
    exact ⟨ht.ended (ended_endPkt (t := ⟨s, Reach.refl s⟩) hpkt _ _), ht.pwr⟩

end

/-! ### A cue's phase and its count (R390, R391) -/

theorem modPwr_run (f : Pwr → Pwr) (t : At s0) : after (modPwr f) t = { t.1 with pwr := f t.1.pwr } := rfl

/-- The points computed from a state's last measurements, kept with what was requested. -/
def withPoints (s : State) (x : Pwr) : Pwr :=
  { x with points := (List.range 6).map fun c => s.grantPoint c (s.grants.1.getD c 0), asked := (List.range 6).map s.requested }

theorem fld_modPwr (g : Pwr → Pwr) (t : At s0) (f : Fld) (i j k : Nat) : (after (modPwr g) t).fld f i j k = t.1.fld f i j k := rfl

/-- Computing the points changes those alone, and then what PWR_DIE shows. -/
theorem computePoints_run (t : At s0) : after computePoints t = after refreshDies (modPwr (withPoints t.1) t).2 := by
  unfold computePoints
  rw [after_cur_bind]
  dsimp only
  rw [after_bind]
  rfl

/-- Cues that have ended and been counted, forgotten. -/
theorem forgotten (cs : List Cue) : ∀ y ∈ cs.filter fun y => !(y.ended && y.counted), y.ended = true → y.counted = false := by
  intro y hy hended
  simpa [hended] using (List.mem_filter.1 hy).2

section
variable {s : State} {i : Nat} {q : Cue}

theorem cuePhaseStart_answers (hon : s.tempoOn = true) (hq : s.pwr.cues[i]? = some q) (hended : q.ended = false)
    (hholding : q.holding = false) (hhold : q.hold ≤ s.now) : Answers (.cuePhaseStart i) s fun t =>
      t.pwr.cues[i]? = some { q with holding := true, begun := decide (q.start ≤ s.now) } ∧
      (s.flag F.pwrCfg_cueEn = true → q.kind = 0 ∨ q.kind = 2 → ∀ d, d < 2 → q.names d = true → t.flag F.pwrDie_cueHold d = true) := by
  let begin : Cue → Cue := fun x => { x with holding := true, begun := decide (x.start ≤ s.now) }
  refine answers_of_go (m := do modCue i begin; computePoints) ?_ ?_
  · change M.go s (match s.pwr.cues[i]? with | some q => _ | none => _) = _
    rw [hq]
    simp [whenM, hon, hended, hholding, hhold, begin]
  rw [after_bind]
  let v : At s := (modCue i begin ⟨s, Reach.refl s⟩).2
  let u : At s := (modPwr (withPoints v.1) v).2
  have hu : u.1 = { v.1 with pwr := withPoints v.1 v.1.pwr } := rfl
  obtain ⟨hsame, hshows⟩ := refreshDies_shows u
  have hcues : u.1.pwr.cues = s.pwr.cues.modify i begin := by rw [hu]; rfl
  have hat : u.1.pwr.cues[i]? = some (begin q) := by rw [hcues, List.getElem?_modify_eq, hq]; rfl
  rw [computePoints_run]
  refine ⟨by rw [hsame.pwr]; exact hat, fun hen hkind d hd hnames => ?_⟩
  have hflag : u.1.flag F.pwrCfg_cueEn = true := by rw [hu]; exact hen
  rw [(hshows d (by omega)).cueHold]
  have hany : ∃ x ∈ u.1.pwr.cues, ((x.kind == 0 || x.kind == 2) && x.names d && x.holding && !x.ended) = true :=
    ⟨begin q, List.mem_of_getElem? hat, by
      have hk : (q.kind == 0 || q.kind == 2) = true := by simpa using hkind
      change ((q.kind == 0 || q.kind == 2) && q.names d && true && !q.ended) = true
      rw [hk, hnames, hended]
      rfl⟩
  simp only [State.cueHolds, hflag, hd, decide_true, Bool.true_and]
  exact List.any_eq_true.2 hany

theorem cuePhaseEnd_answers (hon : s.tempoOn = true) (hq : s.pwr.cues[i]? = some q) (hbegun : q.begun = true)
    (hended : q.ended = false) (hfinish : q.finish ≤ s.now) : Answers (.cuePhaseEnd i) s fun t =>
      (∀ y ∈ t.pwr.cues, y.ended = true → y.counted = false) ∧
      (q.counted = false → { q with ended := true, holding := false } ∈ t.pwr.cues) ∧ t.diesShown := by
  let finish : Cue → Cue := fun x => { x with ended := true, holding := false }
  refine answers_of_go (m := do
    modCue i finish
    modPwr fun x => { x with cues := x.cues.filter fun y => !(y.ended && y.counted) }
    refreshDies) ?_ ?_
  · change M.go s (match s.pwr.cues[i]? with | some q => _ | none => _) = _
    rw [hq]
    simp [whenM, hon, hended, hbegun, hfinish, finish]
  rw [after_bind, after_bind]
  let u : At s := (modPwr (fun x => { x with cues := x.cues.filter fun y => !(y.ended && y.counted) })
    (modCue i finish ⟨s, Reach.refl s⟩).2).2
  obtain ⟨hsame, -⟩ := refreshDies_shows u
  have hcues : (after refreshDies u).pwr.cues = (s.pwr.cues.modify i finish).filter fun y => !(y.ended && y.counted) := by
    rw [hsame.pwr]
    rfl
  refine ⟨?_, fun hcounted => ?_, refreshDies_diesShown u⟩
  · rw [hcues]
    exact forgotten _
  · rw [hcues, List.mem_filter]
    have hat : (s.pwr.cues.modify i finish)[i]? = some (finish q) := by rw [List.getElem?_modify_eq, hq]; rfl
    exact ⟨List.mem_of_getElem? hat, by simp [hcounted]⟩

/-- One count of the cues, and the cue that has been counted. -/
theorem cueCount_leaves {f : Fld} (hexists : (f.at 0 0 0).exists = true) (hfit : f.fits = true) (hwrap : wrapsRound f.reg = false)
    (hwide : f.hi + 1 - f.lo = 64) (hq : s.pwr.cues[i]? = some q) : let t := after (do
      bump f 1
      modCue i fun x => { x with counted := true }
      modPwr fun x => { x with cues := x.cues.filter fun y => !(y.ended && y.counted) }) ⟨s, Reach.refl s⟩
    (t.fld f = satAdd 64 (s.fld f) 1 ∧ SameRegs [f.reg] s t) ∧ (∀ y ∈ t.pwr.cues, y.ended = true → y.counted = false) ∧
      (q.ended = false → { q with counted := true } ∈ t.pwr.cues) := by
  let count : Cue → Cue := fun x => { x with counted := true }
  let u : At s := (bump f 1 0 0 0 ⟨s, Reach.refl s⟩).2
  intro t
  have ht : t = { u.1 with pwr := { u.1.pwr with cues := (u.1.pwr.cues.modify i count).filter fun y => !(y.ended && y.counted) } } := by
    change after _ _ = _
    rw [after_bind, after_bind]
    rfl
  have hset : Steps (setsReg [f.reg]) s u.1 := Only.bump f 1 0 0 0 (List.mem_singleton_self _) ⟨s, Reach.refl s⟩
  have hpwr : u.1.pwr = s.pwr := by rw [Steps.eq_of_setsReg hset]
  have hcues : t.pwr.cues = (s.pwr.cues.modify i count).filter fun y => !(y.ended && y.counted) := by rw [ht, ← hpwr]
  refine ⟨⟨?_, ?_⟩, ?_, fun hended => ?_⟩
  · rw [← hwide, ← fld_after_bump ⟨s, Reach.refl s⟩ hexists hfit hwrap, ht]
    rfl
  · rw [ht]
    exact hset.reg_eq
  · rw [hcues]
    exact forgotten _
  · rw [hcues, List.mem_filter]
    have hat : (s.pwr.cues.modify i count)[i]? = some (count q) := by rw [List.getElem?_modify_eq, hq]; rfl
    exact ⟨List.mem_of_getElem? hat, by simp [hended]⟩

theorem cueEvaluation_answers (busy : Nat) (hon : s.tempoOn = true) (hq : s.pwr.cues[i]? = some q) (hbegun : q.begun = true)
    (hcounted : q.counted = false) (hstart : q.start + 20 ≤ s.now) : Answers (.cueEvaluation i busy) s fun t =>
      (10 ≤ busy → t.fld F.pwrCueHits_count = satAdd 64 (s.fld F.pwrCueHits_count) 1 ∧ SameRegs [.pwrCueHits] s t) ∧
      (busy < 10 → t.fld F.pwrCueMisses_count = satAdd 64 (s.fld F.pwrCueMisses_count) 1 ∧ SameRegs [.pwrCueMisses] s t) ∧
      (∀ y ∈ t.pwr.cues, y.ended = true → y.counted = false) ∧ (q.ended = false → { q with counted := true } ∈ t.pwr.cues) := by
  by_cases hbusy : 10 ≤ busy
  · refine answers_of_go (m := do
      bump F.pwrCueHits_count 1
      modCue i fun x => { x with counted := true }
      modPwr fun x => { x with cues := x.cues.filter fun y => !(y.ended && y.counted) }) ?_ ?_
    · change M.go s (match s.pwr.cues[i]? with | some q => _ | none => _) = _
      rw [hq]
      simp [whenM, hon, hbegun, hcounted, hstart, hbusy]
    · obtain ⟨hhit, hrest⟩ := cueCount_leaves (f := F.pwrCueHits_count) (by decide) (by decide) rfl rfl hq
      exact ⟨fun _ => hhit, fun hlow => by omega, hrest⟩
  · refine answers_of_go (m := do
      bump F.pwrCueMisses_count 1
      modCue i fun x => { x with counted := true }
      modPwr fun x => { x with cues := x.cues.filter fun y => !(y.ended && y.counted) }) ?_ ?_
    · change M.go s (match s.pwr.cues[i]? with | some q => _ | none => _) = _
      rw [hq]
      simp [whenM, hon, hbegun, hcounted, hstart, hbusy]
    · obtain ⟨hmiss, hrest⟩ := cueCount_leaves (f := F.pwrCueMisses_count) (by decide) (by decide) rfl rfl hq
      exact ⟨fun hhigh => absurd hhigh hbusy, fun _ => hmiss, hrest⟩

end

/-! ### Droop (R392, R393) -/

section
variable {s : State} {d : Nat}

theorem droopCounter_exists (hd : d < 2) : (F.pwrHalfSteps_count.at d 0 0).exists = true ∧ (F.pwrDroops_count.at d 0 0).exists = true ∧
    (F.pwrFallbacks_count.at d 0 0).exists = true := by
  simp [Fld.at, Reg.exists, RegName.count, RegName.spec, F.pwrHalfSteps_count, F.pwrDroops_count, F.pwrFallbacks_count, hd]

/-- The counts of a half-step: one, and a droop where it is the first of a run. -/
def countHalf (d n : Nat) : M s0 Unit := do
  bump F.pwrHalfSteps_count 1 d
  if n = 0 then bump F.pwrDroops_count 1 d

/-- A half-step after n of its run (R392). -/
def halfStep (s : State) (d n : Nat) : M s0 Unit :=
  whenM (s.tempoOn = true ∧ d < 2 ∧ n < 8 ∧ s.pwr.droop.contains d = false) do
    modPwr fun x => { x with runs := Tab.put (0, 0) x.runs d (s.now + 1, n + 1) }
    countHalf d n

theorem exec_droopDetect : exec (.droopDetect d) s = M.go s (halfStep s d
    (if (Tab.get (0, 0) s.pwr.runs d).1 = s.now + 1 then (Tab.get (0, 0) s.pwr.runs d).2 else 0)) := rfl

theorem countHalf_leaves (hd : d < 2) (n : Nat) (t : At s0) : (after (countHalf d n) t).pwr = t.1.pwr ∧
    (after (countHalf d n) t).fld F.pwrHalfSteps_count d = satAdd 64 (t.1.fld F.pwrHalfSteps_count d) 1 ∧
    (after (countHalf d n) t).fld F.pwrDroops_count d =
      (if n = 0 then satAdd 64 (t.1.fld F.pwrDroops_count d) 1 else t.1.fld F.pwrDroops_count d) ∧
    SameRegs [.pwrHalfSteps, .pwrDroops] t.1 (after (countHalf d n) t) := by
  obtain ⟨hhalf, hdroop, -⟩ := droopCounter_exists hd
  have hsets : Only (setsReg [.pwrHalfSteps, .pwrDroops]) (countHalf d n : M s0 Unit) :=
    .bind (.bump _ _ _ _ _ (by decide)) fun _ => .ite (.bump _ _ _ _ _ (by decide)) (.pure ())
  have hsteps := hsets t
  refine ⟨by rw [Steps.eq_of_setsReg hsteps], ?_, ?_, hsteps.reg_eq⟩
  all_goals
    unfold countHalf
    rw [after_bind]
  · have hfirst := fld_after_bump (d := 1) t hhalf (by decide) rfl
    split
    · exact (fld_after_bump_name _ (by decide)).trans hfirst
    · exact hfirst
  · have hkept : (bump F.pwrHalfSteps_count 1 d 0 0 t).2.1.fld F.pwrDroops_count d = t.1.fld F.pwrDroops_count d :=
      fld_after_bump_name t (by decide)
    split
    · exact (fld_after_bump (d := 1) _ hdroop (by decide) rfl).trans (congrArg (satAdd 64 · 1) hkept)
    · exact hkept

theorem droopDetect_answers (hon : s.tempoOn = true) (hd : d < 2) (hout : d ∉ s.pwr.droop) {n : Nat} (hn : n < 8)
    (hrun : (n = 0 ∧ (Tab.get (0, 0) s.pwr.runs d).1 ≠ s.now + 1) ∨ Tab.get (0, 0) s.pwr.runs d = (s.now + 1, n)) :
    Answers (.droopDetect d) s fun t => Tab.get (0, 0) t.pwr.runs d = (s.now + 1, n + 1) ∧
      t.fld F.pwrHalfSteps_count d = satAdd 64 (s.fld F.pwrHalfSteps_count d) 1 ∧
      t.fld F.pwrDroops_count d = (if n = 0 then satAdd 64 (s.fld F.pwrDroops_count d) 1 else s.fld F.pwrDroops_count d) ∧
      SameRegs [.pwrHalfSteps, .pwrDroops] s t := by
  have hlast : (if (Tab.get (0, 0) s.pwr.runs d).1 = s.now + 1 then (Tab.get (0, 0) s.pwr.runs d).2 else 0) = n := by
    obtain ⟨rfl, hne⟩ | heq := hrun
    · exact if_neg hne
    · rw [heq]
      exact if_pos rfl
  have hgo : exec (.droopDetect d) s = M.go s (halfStep s d n) := by rw [exec_droopDetect, hlast]
  refine answers_of_go hgo ?_
  let u : At s := (modPwr (fun x => { x with runs := Tab.put (0, 0) x.runs d (s.now + 1, n + 1) }) ⟨s, Reach.refl s⟩).2
  have hrun : after (halfStep s d n) ⟨s, Reach.refl s⟩ = after (countHalf d n) u := by
    have hgoes : s.tempoOn = true ∧ d < 2 ∧ n < 8 ∧ s.pwr.droop.contains d = false := ⟨hon, hd, hn, by simpa using hout⟩
    unfold halfStep whenM
    rw [if_pos hgoes, after_bind]
  obtain ⟨hpwr, hhalf, hdroop, hregs⟩ := countHalf_leaves hd n u
  rw [hrun]
  refine ⟨?_, hhalf, hdroop, hregs⟩
  rw [hpwr]
  exact (Tab.get_put (0, 0) s.pwr.runs d d (s.now + 1, n + 1)).trans (if_pos rfl)

/-- The controller's state is its own: neither records nor counts change it. -/
theorem Steps.tends_pwr {s t : State} (h : Steps Eff.Tends s t) : t.pwr = s.pwr :=
  h.keeps State.pwr fun e u he => by cases e <;> first | rfl | exact he.1.elim

/-- A record once a second leaves which dies are in fallback, and every register but those of devices. -/
theorem oncePerSecond_leaves (key : Nat) (e : ErrRec) (t : At s0) :
    (after (oncePerSecond key e) t).pwr.droop = t.1.pwr.droop ∧ SameRegs deviceRegs t.1 (after (oncePerSecond key e) t) := by
  unfold oncePerSecond
  rw [after_cur_bind]
  dsimp only
  split
  · rw [after_bind]
    let u : At s0 := (modPwr (fun x => { x with recorded := Tab.put 0 x.recorded key (t.1.now + 1) }) t).2
    have hrecord : Steps Eff.Tends u.1 (after (errRecord e) u) := errRecord_tends u
    have hnoted : u.1.pwr.droop = t.1.pwr.droop := rfl
    exact ⟨(congrArg Pwr.droop hrecord.tends_pwr).trans hnoted, hrecord.tends_regs⟩
  · exact ⟨rfl, fun _ _ => rfl⟩

/-- The clock of a die in fallback, and out of it. -/
theorem clockNow_droop {t : State} (hd : d < 2) :
    t.clockNow d = (500 + 25 * t.pointNow d) / (if t.pwr.droop.contains d then 2 else 1) := if_neg (by omega)

theorem mem_causes_of_droop {t : State} (h : d ∈ t.pwr.droop) : 5 ∈ t.causes d := by
  unfold State.causes
  exact List.mem_filterMap.2 ⟨(5, t.pwr.droop.contains d), by simp, by simp [h]⟩

/-- A die's fall back after its eighth half-step (R393). -/
def fallBack (s : State) (d : Nat) : M s0 Unit :=
  whenM (s.tempoOn = true ∧ d < 2 ∧ (Tab.get (0, 0) s.pwr.runs d).2 = 8 ∧ s.pwr.droop.contains d = false) do
    modPwr fun x => { x with droop := x.droop ++ [d], runs := Tab.put (0, 0) x.runs d (0, 0) }
    bump F.pwrFallbacks_count 1 d
    oncePerSecond (2 + d) { kind := 0x71, sev := 1, source := 7, loc := d }
    refreshDies

theorem exec_droopFallback : exec (.droopFallback d) s = M.go s (fallBack s d) := rfl

/-- The state before PWR_DIE follows: the die in fallback, counted. -/
theorem fallBack_run (hd : d < 2) (hgoes : s.tempoOn = true ∧ d < 2 ∧ (Tab.get (0, 0) s.pwr.runs d).2 = 8 ∧
    s.pwr.droop.contains d = false) : ∃ w : At s, after (fallBack s d) ⟨s, Reach.refl s⟩ = after refreshDies w ∧
      w.1.pwr.droop = s.pwr.droop ++ [d] ∧ w.1.fld F.pwrFallbacks_count d = satAdd 64 (s.fld F.pwrFallbacks_count d) 1 := by
  let u : At s := (modPwr (fun x => { x with droop := x.droop ++ [d], runs := Tab.put (0, 0) x.runs d (0, 0) }) ⟨s, Reach.refl s⟩).2
  let v : At s := (bump F.pwrFallbacks_count 1 d 0 0 u).2
  have hbumped : v.1.pwr = u.1.pwr := by
    have hset : Steps (setsReg [RegName.pwrFallbacks]) u.1 v.1 := Only.bump _ 1 d 0 0 (by decide) u
    rw [Steps.eq_of_setsReg hset]
  have hcounted : v.1.fld F.pwrFallbacks_count d = satAdd 64 (u.1.fld F.pwrFallbacks_count d) 1 :=
    fld_after_bump u (droopCounter_exists hd).2.2 (by decide) rfl
  obtain ⟨hdroop, hregs⟩ := oncePerSecond_leaves (2 + d) { kind := 0x71, sev := 1, source := 7, loc := d } v
  refine ⟨(oncePerSecond (2 + d) { kind := 0x71, sev := 1, source := 7, loc := d } v).2, ?_, ?_, ?_⟩
  · unfold fallBack whenM
    rw [if_pos hgoes, after_bind, after_bind, after_bind]
  · exact hdroop.trans (congrArg Pwr.droop hbumped)
  · exact (hregs.fld (by decide) _ _ _).trans (hcounted.trans (congrArg (satAdd 64 · 1) (fld_modPwr ..)))

theorem droopFallback_answers (hon : s.tempoOn = true) (hd : d < 2) (hout : d ∉ s.pwr.droop)
    (hruns : (Tab.get (0, 0) s.pwr.runs d).2 = 8) : Answers (.droopFallback d) s fun t =>
      t.pwr.droop = s.pwr.droop ++ [d] ∧ t.clockNow d = (500 + 25 * t.pointNow d) / 2 ∧
      t.fld F.pwrFallbacks_count d = satAdd 64 (s.fld F.pwrFallbacks_count d) 1 ∧ 5 ∈ t.causes d ∧ t.diesShown := by
  refine answers_of_go exec_droopFallback ?_
  obtain ⟨w, hrun, hdroop, hcount⟩ := fallBack_run hd ⟨hon, hd, hruns, by simpa using hout⟩
  obtain ⟨hsame, -⟩ := refreshDies_shows w
  have hin : (after refreshDies w).pwr.droop = s.pwr.droop ++ [d] := by rw [hsame.pwr, hdroop]
  have hmem : d ∈ (after refreshDies w).pwr.droop := by rw [hin]; simp
  rw [hrun]
  refine ⟨hin, ?_, (hsame.fld (by decide) _ _ _).trans hcount, mem_causes_of_droop hmem, refreshDies_diesShown w⟩
  rw [clockNow_droop hd, if_pos (by simpa using hmem)]

/-- A die's recovery (R393). -/
def recover (s : State) (d : Nat) : M s0 Unit :=
  whenM (s.pwr.droop.contains d) do
    modPwr fun x => { x with droop := x.droop.filter (· != d) }
    refreshDies

theorem exec_droopRecover : exec (.droopRecover d) s = M.go s (recover s d) := rfl

/-- The state before PWR_DIE follows: the die out of fallback. -/
theorem recover_run (hgoes : s.pwr.droop.contains d = true) : ∃ w : At s, after (recover s d) ⟨s, Reach.refl s⟩ = after refreshDies w ∧
    w.1.pwr.droop = s.pwr.droop.filter (· != d) := by
  refine ⟨(modPwr (fun x => { x with droop := x.droop.filter (· != d) }) ⟨s, Reach.refl s⟩).2, ?_, rfl⟩
  unfold recover whenM
  rw [if_pos hgoes, after_bind]

theorem droopRecover_answers (hd : d < 2) (hin : d ∈ s.pwr.droop) : Answers (.droopRecover d) s fun t =>
    t.pwr.droop = s.pwr.droop.filter (· != d) ∧ t.clockNow d = 500 + 25 * t.pointNow d ∧ t.diesShown := by
  refine answers_of_go exec_droopRecover ?_
  obtain ⟨w, hrun, hdroop⟩ := recover_run (s := s) (d := d) (by simpa using hin)
  obtain ⟨hsame, -⟩ := refreshDies_shows w
  have hout : (after refreshDies w).pwr.droop = s.pwr.droop.filter (· != d) := by rw [hsame.pwr, hdroop]
  rw [hrun]
  refine ⟨hout, ?_, refreshDies_diesShown w⟩
  rw [clockNow_droop hd, hout, if_neg (by simp), Nat.div_one]

end

/-- Settles O54: the cues are changed one at a time, PWR_DIE follows the state that a command has left, and a half-step counts onto its
two counters. -/
theorem cuesAndDroop : Obligations.CuesAndDroop := by
  unfold Obligations.CuesAndDroop
  refine ⟨fun c id s p h => ?_, fun i q s hon hq hended hholding hhold => cuePhaseStart_answers hon hq hended hholding hhold,
    fun i q s hon hq hbegun hended hfinish => cuePhaseEnd_answers hon hq hbegun hended hfinish,
    fun i busy q s hon hq hbegun hcounted hstart => cueEvaluation_answers busy hon hq hbegun hcounted hstart,
    fun d n s hon hd hout hn hrun => droopDetect_answers hon hd hout hn hrun,
    fun d s hon hd hout hruns => droopFallback_answers hon hd hout hruns, fun d s hd hin => droopRecover_answers hd hin⟩
  refine (cue_leaves h).weaken fun t ⟨hend, hpwr⟩ => ⟨hend, fun hoff => ?_, fun hen hswitch => ?_⟩
  · simpa [hoff] using hpwr
  · have hall : s.sec.switches.all (fun w => w.kind != 2) = true := by simpa using hswitch
    rw [if_pos (by simp [hen, hall])] at hpwr
    obtain ⟨hissue, hbound⟩ := holdFrom_bounds s (cueOf s p)
    refine ⟨s.holdFrom (cueOf s p), hissue, hbound, ?_⟩
    rw [hpwr]
    exact congrArg (fun f => s.pwr.cues.filterMap f ++ [{ cueOf s p with hold := s.holdFrom (cueOf s p) }]) (funext (leaves_eq (cueOf s p)))

end Sys2Proof.Machine
end

section
/-!
PROOFS. O19: scalars loaded, reduced and stored; signals and time stamps (R53, R56, R60, R67).
-/
namespace Sys2Proof.Machine

variable {s0 : State} {α β : Type} {c id op : Nat}

/-! ### Runs begun in a state -/

section
variable {s : State} {m : A s α} {a : α} {k : Log} {u : At s}

/-- The log with which an operation ends. -/
theorem Yields.log (h : Yields m {} ⟨s, Reach.refl s⟩ a k u) : (s.runs m).2.1 = k := by
  unfold State.runs runA
  rw [h]

/-- What one operation affords another affords that notes the same. -/
theorem Yields.affords {m' : A s β} {b : β} {p : Pkt} {v : At s} (h : Yields m {} ⟨s, Reach.refl s⟩ a k u)
    (h' : Yields m' {} ⟨s, Reach.refl s⟩ b k v) (haff : s.affords c p m) : s.affords c p m' := by
  obtain ⟨hx, hpays⟩ := haff
  refine ⟨hx, ?_⟩
  rw [h'.log]
  exact h.log ▸ hpays

end

/-! ### From an operation's run to its packet -/

section
variable {cmd : Nat → Nat → Instr} {body : {s0 : State} → Nat → Pkt → Acc → A s0 Fin} {s : State} {p : Pkt} {f : Fin} {k : Log} {u : At s}

/-- A packet whose operation has ended and kept the packets has ended; what the operation left stays. -/
theorem RunsBody.finishes (h : RunsBody cmd op body) (hissued : s.issued c id op p) (hturn : engineClass op = 0)
    (haff : s.affords c p (body c p (s.acc c))) (hrun : Yields (body c p (s.acc c)) {} ⟨s, Reach.refl s⟩ f k u) (hw : f.wait = false)
    (hkept : u.1.pkt c id = s.pkt c id) : Answers (cmd c id) s fun t => t.ended c id f.status f.detail ∧ Booked u.1 t := by
  obtain ⟨source, atomic, onAbort, hgo⟩ := h c id s p hissued (.inl hturn)
  obtain ⟨-, -, hpkt, -⟩ := hissued
  obtain ⟨hx, hpays⟩ := haff
  rw [hrun.log] at hpays
  obtain ⟨hbooked, hcore⟩ := runPktWith_ends (source := source) (atomic := atomic) (onAbort := onAbort)
    (State.pkt_id hpkt) hrun hw hx hpays
  refine answers_of_go hgo ⟨?_, hbooked⟩
  rw [hkept, hpkt] at hcore
  obtain ⟨y, hy, hycore⟩ := Option.map_eq_some_iff.1 hcore
  unfold Pkt.core Pkt.outcome Pkt.endsWith at hycore
  simp only [Prod.mk.injEq] at hycore
  exact ⟨y, hy, hycore.1.1, hycore.1.2.1, hycore.1.2.2.1⟩

/-- An operation that has noted nothing costs nothing. -/
theorem used_nothing : Log.used {} = [] := by decide

theorem settled_free (t : At s0) : settled c p {} t = t := by
  unfold settled settleUp
  rw [used_nothing]
  simp only [Bool.false_eq_true, if_false, ne_eq, not_true_eq_false]
  rfl

theorem pays_nothing (part : Nat) : s.pays p part {} = true := by
  unfold State.pays
  rw [used_nothing]
  rfl

/-- What a refresh after an action shows. -/
theorem follows_refresh (m : M s0 Unit) (t : At s0) : Follows (after m t) (after (do m; refresh c) t) := by
  rw [after_bind]
  exact refresh_follows _

/-- The command of an operation that accesses no memory is the operation, its packet's end, then a refresh. -/
theorem RunsBody.finishesFree (h : RunsBody cmd op body) (hissued : s.issued c id op p) (hturn : engineClass op = 0)
    (hx : p.exhausted = false) (hrun : Yields (body c p (s.acc c)) {} ⟨s, Reach.refl s⟩ f {} u) (hw : f.wait = false) {P : State → Prop}
    (hP : ∀ t, Follows (after (endPkt c id f.status f.detail) u) t → P t) : Answers (cmd c id) s P := by
  obtain ⟨source, atomic, onAbort, hgo⟩ := h c id s p hissued (.inl hturn)
  obtain ⟨-, -, hpkt, -⟩ := hissued
  refine answers_of_go hgo (hP _ ?_)
  have hend : after (endRun c p source (.ok f) {} onAbort) u = after (endPkt c id f.status f.detail) u := by
    rw [endRun_ok hw hx, settled_free, State.pkt_id hpkt]
  have hshown := follows_refresh (c := c) (endRun c p source (.ok f) {} onAbort) u
  rw [hend] at hshown
  rw [runPktWith_kept hrun (pays_nothing _) fun _ => rfl]
  exact hshown

end

theorem runsBody_loadScalar : RunsBody .loadScalar 0x07 loadScalarBody := runsBody_opOf fun _ _ _ => rfl
theorem runsBody_storeScalar : RunsBody .storeScalar 0x08 (fun _ => storeScalarBody) := runsBody_opOf fun _ _ _ => rfl
theorem runsBody_reduce : RunsBody .reduce 0x09 reduceBody := runsBody_opOf fun _ _ _ => rfl
theorem runsBody_signal : RunsBody .signal 0x0B signalBody := runsBody_opOf fun _ _ _ => rfl
theorem runsBody_timestamp : RunsBody .timestamp 0x84 timestampBody := runsBody_opOf fun _ _ _ => rfl

/-! ### One aligned word written (R60) -/

theorem noteGrans_yields (write : Bool) (gs : List Nat) (l : Log) (t : At s0) : ∃ k, Yields (noteGrans write gs : A s0 Unit) l t () k t := by
  induction gs generalizing l with
  | nil => exact ⟨l, .pure⟩
  | cons g gs ih =>
    have hnote : ∃ k, Yields (noteGran g write : A s0 Unit) l t () k t := by
      unfold noteGran
      split
      · exact ⟨_, rfl⟩
      · exact ⟨l, .pure⟩
    obtain ⟨k, hk⟩ := hnote
    obtain ⟨k', hk'⟩ := ih k
    exact ⟨k', hk.bind hk'⟩

theorem snoopAll_yields {ac : Acc} {part ctx : Nat} {t : At s0} (ht : t.1.Still part ctx) (hunit : ac.unit = false) (write : Bool)
    (gs : List Nat) (l : Log) : Yields (snoopAll ac write gs : A s0 Unit) l t () l t := by
  induction gs with
  | nil => exact .pure
  | cons g gs ih =>
    have hone : Yields (snoopFor ac g write : A s0 Unit) l t () l t := by
      refine Yields.bind (Yields.lift (m := cur)) ?_
      have hfilter : (cur t).1.thm.filter = [] := ht.untracked
      simp only [hunit, hfilter, Bool.false_eq_true, if_false, List.find?_nil]
      exact .pure
    exact hone.bind ih

theorem needLink_yields {a : Nat} {t : At s0} (h : regionOf a = .companion → t.1.linkActive = true) (l : Log) :
    Yields (needLink a : A s0 Unit) l t () l t := by
  unfold needLink
  split
  · next hr =>
    refine Yields.bind (Yields.lift (m := cur)) ?_
    have hactive : (cur t).1.fld F.thmLinkStatus_state = 2 := by simpa [State.linkActive] using h hr
    simp only [hactive]
    exact .pure
  · exact .pure

/-- An aligned word lies in one page. -/
theorem pagePieces_word {va : Nat} (h : va % 8 = 0) : pagePieces va 8 = [(va, 0, 8)] := by
  have hone : (va + 8 - 1) / 65536 + 1 - va / 65536 = 1 := by omega
  unfold pagePieces
  rw [if_neg (by decide), hone]
  simp only [List.range_one, List.map_cons, List.map_nil, List.cons.injEq, Prod.mk.injEq, and_true]
  omega

section
variable {s : State} {p : Pkt} {va a v : Nat}

/-- A storable word is planned: its one piece, at the address it translates to. -/
theorem plan_word (h : s.storable c p va a v) : ∃ k u, Writing (s.partOf c) c counters (fun f => f) s u.1 ∧
    Yields (wrPlan (s.acc c) [{ va := va, bs := toBytes 8 v }]) {} ⟨s, Reach.refl s⟩ [{ va := a, bs := toBytes 8 v }] k u := by
  obtain ⟨hcalm, hword, -, htr, hrefuses, hlink, -⟩ := h
  let S := servesReading (s.partOf c) c counting_counters
  have hrun := State.finds.yields htr
  set u : At s := (runA (tr (s.acc c) va true) ⟨s, Reach.refl s⟩).2
  obtain ⟨hstill, ⟨hsteps, hseen⟩, -⟩ := (S.tr (va := va) (write := true) acc_serves).yields hrun hcalm.still
  have hlinked : regionOf a = .companion → u.1.linkActive = true := fun hr => by
    have hfld : u.1.fld F.thmLinkStatus_state = s.fld F.thmLinkStatus_state := hsteps.served.regs.fld (by decide) _ _ _
    exact (congrArg (· == 2) hfld).trans (hlink hr)
  have hrefuses' : u.1.refusesWrite a = false := by
    rw [← hrefuses]
    unfold State.refusesWrite State.rowSealed State.rowBusy
    rw [hsteps.served.tier, hsteps.served.regs.fld (by decide)]
  obtain ⟨k, hnote⟩ := noteGrans_yields true (gransOf a 8) (s.runs (tr (s.acc c) va true)).2.1 u
  refine ⟨k, u, ⟨hstill, hsteps, hseen⟩, ?_⟩
  have hpiece : Yields (do
      let a ← tr (s.acc c) va true
      if (← (cur : M s _)).refusesWrite a then throw (.flt 0x21 va true (s.acc c).source)
      needLink a
      snoopAll (s.acc c) true (gransOf a 8)
      noteUse (s.acc c) a 8 true
      pure [{ va := a, bs := ((toBytes 8 v).drop 0).take 8, half := none }] : A s (List Wr)) {} ⟨s, Reach.refl s⟩
      [{ va := a, bs := toBytes 8 v }] k u := by
    refine hrun.bind (Yields.bind (Yields.lift (m := cur)) ?_)
    rw [show (cur u).1 = u.1 from rfl, show (cur u).2 = u from rfl]
    simp only [hrefuses', Bool.false_eq_true, if_false]
    exact (needLink_yields hlinked _).bind ((snoopAll_yields hstill rfl true _ _).bind (hnote.bind .pure))
  have hpieces : Yields (wrPieces (s.acc c) { va := va, bs := toBytes 8 v } [(va, 0, 8)]) {} ⟨s, Reach.refl s⟩
      [{ va := a, bs := toBytes 8 v }] k u := by
    unfold wrPieces
    exact hpiece.bind (Yields.bind (m := wrPieces _ _ []) (a := []) .pure .pure)
  unfold wrPlan
  rw [show ({ va := va, bs := toBytes 8 v } : Wr).bs.length = 8 from rfl, pagePieces_word hword]
  exact hpieces.bind (Yields.bind (m := wrPlan _ []) (a := []) .pure .pure)
/-- A storable word is stored, and nothing else that a read finds changes. -/
theorem store_word (h : s.storable c p va a v) : ∃ k u, Writing (s.partOf c) c counters (runAt a (toBytes 8 v)) s u.1 ∧
    Yields (wrAll (s.acc c) [{ va := va, bs := toBytes 8 v }]) {} ⟨s, Reach.refl s⟩ () k u := by
  obtain ⟨k, u, hplanned, hplan⟩ := plan_word h
  have hdo := wrDo_writes (ps := [{ va := a, bs := toBytes 8 v }]) (t := u) counting_counters hplanned.still
  exact ⟨k, _, (hplanned.trans hdo).congr fun _ => rfl, hplan.bind .liftUnit⟩

theorem WordStored.of_seen {t : State} (h : ∀ x, t.seen x = runAt a (toBytes 8 v) s.seen x) : WordStored s t a v := fun x => by
  rw [h x]
  unfold runAt
  rw [show (toBytes 8 v).length = 8 from rfl]

end

/-! ### What follows an operation -/

section
variable {s : State} {p : Pkt}

theorem sourceOf_lt (p : Pkt) (w : Nat) : p.f w 5 0 < 64 := bits_lt _ 5 0

theorem loadScalar_answers {v : Nat} (hc : c < 256) (h : s.issued c id 0x07 p) (hv : (s.runs (rdWord (s.acc c) (p.w 3))).1 = .ok v)
    (haff : s.affords c p (rdWord (s.acc c) (p.w 3))) : Answers (.loadScalar c id) s fun t => t.scalar c (p.f 2 5 0) = v % 2 ^ 64 ∧
      ∀ i, i ≠ p.f 2 5 0 → t.scalar c i = (s.runs (rdWord (s.acc c) (p.w 3))).2.2.scalar c i := by
  have hread := State.finds.yields hv
  set u : At s := (runA (rdWord (s.acc c) (p.w 3)) ⟨s, Reach.refl s⟩).2 with hu
  have hrun : Yields (loadScalarBody c p (s.acc c)) {} ⟨s, Reach.refl s⟩ {} _ (setScalar c (p.f 2 5 0) v u).2 :=
    hread.bind (.bind .liftUnit .pure)
  have hok : (s.runs (loadScalarBody c p (s.acc c))).1 = .ok {} := by
    unfold State.runs runA
    rw [hrun]
  refine (runsBody_loadScalar.packetRuns c id s p {} h (.inl rfl) hok rfl (hread.affords hrun haff)).weaken fun t ⟨_, _, _, hregs⟩ => ?_
  rw [hrun.runs] at hregs
  refine ⟨(hregs.fld (by decide) _ _ _).trans (scalar_setScalar hc (sourceOf_lt p 2) v u), fun i hi => ?_⟩
  exact (hregs.fld (by decide) _ _ _).trans ((scalar_setScalar_ne hi v u).trans (congrArg (State.scalar · c i) hread.runs.symm))

theorem storeScalar_answers {a : Nat} (h : s.issued c id 0x08 p) (hst : s.storable c p (p.w 3) a p.srcA) :
    Answers (.storeScalar c id) s fun t => t.ended c id stOk 0 ∧ WordStored s t a p.srcA ∧ ∀ i j, t.scalar i j = s.scalar i j := by
  obtain ⟨k, u, hwrote, hwrite⟩ := store_word hst
  have hrun : Yields (storeScalarBody p (s.acc c)) {} ⟨s, Reach.refl s⟩ {} k u := hwrite.bind .pure
  have haff := hwrite.affords hrun hst.2.2.2.2.2.2
  refine (runsBody_storeScalar.finishes h rfl haff hrun rfl (hwrote.steps.served.pkt c id)).weaken fun t ⟨hend, hbooked⟩ => ?_
  refine ⟨hend, .of_seen fun x => (hbooked.store.seen x).trans (hwrote.seen x), fun i j => ?_⟩
  exact (hbooked.regs.fld (by decide) _ _ _).trans (hwrote.steps.served.regs.fld (by decide) _ _ _)

/-! ### Signals (R60) -/

/-- The context's interrupt changes no memory and no packet. -/
theorem ctxIrq_leaves (t : At s0) : SameStore t.1 (after (ctxIrq c) t) ∧ (after (ctxIrq c) t).ctxs = t.1.ctxs := by
  have hrun : after (ctxIrq c) t = after (raiseVec (t.1.fld F.clrCtxCfg_vector c)) t := rfl
  rw [hrun]
  unfold raiseVec
  rw [after_cur_bind]
  split
  · exact ⟨⟨rfl, rfl, rfl, rfl⟩, rfl⟩
  · split <;> exact ⟨⟨rfl, rfl, rfl, rfl⟩, rfl⟩

/-- One that is not masked is sent where the link is ACTIVE. -/
theorem ctxIrq_sends {t : At s0} (hmask : t.1.vecMasked (t.1.fld F.clrCtxCfg_vector c) = false) (hlink : t.1.linkActive = true) :
    after (ctxIrq c) t = { t.1 with out := t.1.out ++ [.irq (t.1.fld F.clrCtxCfg_vector c)] } := by
  have hrun : after (ctxIrq c) t = after (raiseVec (t.1.fld F.clrCtxCfg_vector c)) t := rfl
  rw [hrun]
  unfold raiseVec
  rw [after_cur_bind, hmask, hlink]
  rfl

theorem pkt_of_ctxs {s t : State} (h : t.ctxs = s.ctxs) (c i : Nat) : t.pkt c i = s.pkt c i := by
  unfold State.pkt
  rw [ctxsAt_congr h]

/-- The interrupt a SIGNAL asks for. -/
def signalIrq (c : Nat) (p : Pkt) (t : At s0) : At s0 := if p.b 4 0 then (ctxIrq c t).2 else t

theorem signalIrq_leaves (t : At s0) : SameStore t.1 (signalIrq c p t).1 ∧ (signalIrq c p t).1.ctxs = t.1.ctxs := by
  unfold signalIrq
  split
  · exact ctxIrq_leaves t
  · exact ⟨.refl _, rfl⟩

theorem signalBody_yields {ac : Acc} {l k : Log} {t u : At s0} (h : p.w 2 ≠ 0 →
    Yields (wrAll ac [{ va := p.w 2, bs := toBytes 8 (p.w 3) }] : A s0 Unit) l t () k u) (hnone : p.w 2 = 0 → k = l ∧ u = t) :
    Yields (signalBody c p ac) l t {} k (signalIrq c p u) := by
  have hirq : Yields (do
      if p.b 4 0 then (ctxIrq c : M s0 _)
      pure {} : A s0 Fin) k u {} k (signalIrq c p u) := by
    unfold signalIrq
    split
    · exact .bind .liftUnit .pure
    · exact .pure
  unfold signalBody
  by_cases hw : p.w 2 = 0
  · obtain ⟨rfl, rfl⟩ := hnone hw
    rw [if_neg (by simpa using hw)]
    exact hirq
  · rw [if_pos hw]
    exact (h hw).bind hirq

theorem signal_stores {a : Nat} (h : s.issued c id 0x0B p) (hw : p.w 2 ≠ 0) (hst : s.storable c p (p.w 2) a (p.w 3)) :
    Answers (.signal c id) s fun t => t.ended c id stOk 0 ∧ WordStored s t a (p.w 3) := by
  obtain ⟨k, u, hwrote, hwrite⟩ := store_word hst
  have hrun : Yields (signalBody c p (s.acc c)) {} ⟨s, Reach.refl s⟩ {} k (signalIrq c p u) :=
    signalBody_yields (fun _ => hwrite) fun h => absurd h hw
  obtain ⟨hstore, hctxs⟩ := signalIrq_leaves (c := c) (p := p) u
  have hpkt : (signalIrq c p u).1.pkt c id = s.pkt c id := (pkt_of_ctxs hctxs c id).trans (hwrote.steps.served.pkt c id)
  refine (runsBody_signal.finishes h rfl (hwrite.affords hrun hst.2.2.2.2.2.2) hrun rfl hpkt).weaken fun t ⟨hend, hbooked⟩ => ?_
  exact ⟨hend, .of_seen fun x => ((hstore.trans hbooked.store).seen x).trans (hwrote.seen x)⟩

theorem out_endPkt {st d : Nat} (t : At s0) : (after (endPkt c id st d) t).out = t.1.out := rfl

theorem signal_sends (h : s.issued c id 0x0B p) (hw : p.w 2 = 0) (hx : p.exhausted = false) :
    Answers (.signal c id) s fun t => t.ended c id stOk 0 ∧ SameStore s t ∧ (p.b 4 0 = false → t.out = s.out ∧ SameRegs followers s t) ∧
      (p.b 4 0 = true → s.vecMasked (s.fld F.clrCtxCfg_vector c) = false → s.linkActive = true →
        t.out = s.out ++ [.irq (s.fld F.clrCtxCfg_vector c)] ∧ SameRegs followers s t) := by
  have hrun : Yields (signalBody c p (s.acc c)) {} ⟨s, Reach.refl s⟩ {} {} (signalIrq c p ⟨s, Reach.refl s⟩) :=
    signalBody_yields (fun h => absurd hw h) fun _ => ⟨rfl, rfl⟩
  set u := signalIrq c p ⟨s, Reach.refl s⟩ with hu
  obtain ⟨hstore, hctxs⟩ : SameStore s u.1 ∧ u.1.ctxs = s.ctxs := signalIrq_leaves _
  have hpkt : u.1.pkt c id = some p := (pkt_of_ctxs hctxs c id).trans h.2.2.1
  refine runsBody_signal.finishesFree h rfl hx hrun rfl fun t hshown => ?_
  obtain ⟨hregs, hkept⟩ := hshown.of_steps (endPkt_marks (ns := []) u)
  have hout : t.out = u.1.out := hshown.out.trans (out_endPkt u)
  refine ⟨hshown.ended (ended_endPkt hpkt _ _), hstore.trans hkept, fun hb => ?_, fun hb hmask hlink => ?_⟩
  · have hsame : u = ⟨s, Reach.refl s⟩ := by simp [hu, signalIrq, hb]
    rw [hsame] at hout hregs
    exact ⟨hout, hregs⟩
  · have hsent : u.1 = { s with out := s.out ++ [.irq (s.fld F.clrCtxCfg_vector c)] } := by
      rw [hu]
      unfold signalIrq
      rw [if_pos hb]
      exact ctxIrq_sends hmask hlink
    refine ⟨by rw [hout, hsent], fun r hr => (hregs r hr).trans ?_⟩
    rw [hsent]
    rfl

/-! ### Time stamps (R67) -/

/-- The state with a time stamp in its scalar, and logged for a rerun. -/
def stamped (c : Nat) (p : Pkt) (t : At s0) : At s0 := (logOutcome c p p.at_ (setScalar c (p.f 2 5 0) p.at_ t).2).2

theorem stamped_marks (t : At s0) : Steps (Eff.Marks [.clrS]) t.1 (stamped c p t).1 :=
  (setScalar_marks t).trans (logOutcome_marks (setScalar c (p.f 2 5 0) p.at_ t).2)

theorem pkt_stamped (t : At s0) (i : Nat) : (stamped c p t).1.pkt c i = t.1.pkt c i :=
  ((logOutcome_keepingPkts (setScalar c (p.f 2 5 0) p.at_ t).2 trivial).2 c i).trans (pkt_setF ..)

theorem scalar_stamped (hc : c < 256) (t : At s0) : (stamped c p t).1.scalar c (p.f 2 5 0) = p.at_ % 2 ^ 64 := by
  have hbank : (stamped c p t).1.bank = (after (setScalar c (p.f 2 5 0) p.at_) t).bank :=
    bank_logOutcome p.at_ (setScalar c (p.f 2 5 0) p.at_ t).2
  have hfld : (stamped c p t).1.fld F.clrS_value c (p.f 2 5 0) = (after (setScalar c (p.f 2 5 0) p.at_) t).fld F.clrS_value c (p.f 2 5 0) := by
    unfold State.fld State.reg
    rw [hbank]
  exact hfld.trans (scalar_setScalar hc (sourceOf_lt p 2) p.at_ t)

theorem timestampBody_yields {ac : Acc} {l k : Log} {t u : At s0} (hlog : t.1.logged c p = none) (h : p.w 3 ≠ 0 →
    Yields (wrAll ac [{ va := p.w 3, bs := toBytes 8 p.at_ }] : A s0 Unit) l t () k u) (hnone : p.w 3 = 0 → k = l ∧ u = t) :
    Yields (timestampBody c p ac) l t {} k (stamped c p u) := by
  have hstamp : Yields (do
      (setScalar c (p.f 2 5 0) p.at_ : M s0 _)
      (logOutcome c p p.at_ : M s0 _)
      pure {} : A s0 Fin) k u {} k (stamped c p u) := .bind .liftUnit (.bind .liftUnit .pure)
  refine Yields.bind (Yields.lift (m := cur)) ?_
  have hv : ((cur t).1.logged c p).getD p.at_ = p.at_ := by
    rw [show (cur t).1 = t.1 from rfl, hlog]
    rfl
  simp only [hv]
  by_cases hw : p.w 3 = 0
  · obtain ⟨rfl, rfl⟩ := hnone hw
    rw [if_neg (by simpa using hw)]
    exact hstamp
  · rw [if_pos hw]
    exact (h hw).bind hstamp

theorem timestamp_stamps (hc : c < 256) (h : s.issued c id 0x84 p) (hw : p.w 3 = 0) (hlog : s.logged c p = none) (hx : p.exhausted = false) :
    Answers (.timestamp c id) s fun t => t.ended c id stOk 0 ∧ t.scalar c (p.f 2 5 0) = p.at_ % 2 ^ 64 ∧
      SameRegs (.clrS :: followers) s t ∧ SameStore s t := by
  have hrun : Yields (timestampBody c p (s.acc c)) {} ⟨s, Reach.refl s⟩ {} {} (stamped c p ⟨s, Reach.refl s⟩) :=
    timestampBody_yields hlog (fun h => absurd hw h) fun _ => ⟨rfl, rfl⟩
  have hmarks := stamped_marks (c := c) (p := p) ⟨s, Reach.refl s⟩
  have hpkt := (pkt_stamped (c := c) (p := p) ⟨s, Reach.refl s⟩ id).trans h.2.2.1
  refine runsBody_timestamp.finishesFree h rfl hx hrun rfl fun t hshown => ?_
  obtain ⟨hregs, hstore⟩ := hshown.of_steps (hmarks.trans (endPkt_marks (stamped c p ⟨s, Reach.refl s⟩)))
  refine ⟨hshown.ended (ended_endPkt hpkt _ _), ?_, hregs, hstore⟩
  exact (hshown.scalar _ _).trans ((fld_endPkt ..).trans (scalar_stamped hc _))

theorem timestamp_stores {a : Nat} (hc : c < 256) (h : s.issued c id 0x84 p) (hw : p.w 3 ≠ 0) (hst : s.storable c p (p.w 3) a p.at_)
    (hlog : s.logged c p = none) : Answers (.timestamp c id) s fun t =>
      t.ended c id stOk 0 ∧ t.scalar c (p.f 2 5 0) = p.at_ % 2 ^ 64 ∧ WordStored s t a p.at_ := by
  obtain ⟨k, u, hwrote, hwrite⟩ := store_word hst
  have hrun : Yields (timestampBody c p (s.acc c)) {} ⟨s, Reach.refl s⟩ {} k (stamped c p u) :=
    timestampBody_yields hlog (fun _ => hwrite) fun h => absurd h hw
  have hpkt := (pkt_stamped (c := c) (p := p) u id).trans (hwrote.steps.served.pkt c id)
  refine (runsBody_timestamp.finishes h rfl (hwrite.affords hrun hst.2.2.2.2.2.2) hrun rfl hpkt).weaken fun t ⟨hend, hbooked⟩ => ?_
  refine ⟨hend, (hbooked.regs.fld (by decide) _ _ _).trans (scalar_stamped hc u), .of_seen fun x => ?_⟩
  exact (((stamped_marks u).marks_store.trans hbooked.store).seen x).trans (hwrote.seen x)

/-! ### Reductions (R56) -/

/-- The state with a reduction's value in its scalar and, where asked, in its predicate. -/
def reduced (c : Nat) (p : Pkt) (v : Nat) (t : At s0) : At s0 :=
  let u := (setScalar c (p.f 2 5 0) v t).2
  if p.b 2 19 then (setPred c (p.f 2 18 16) (v != 0) u).2 else u

/-- The registers a reduction writes. -/
def reducedRegs (p : Pkt) : List RegName := .clrS :: if p.b 2 19 then [.clrPred] else []

theorem reduced_marks (v : Nat) (t : At s0) : Steps (Eff.Marks (reducedRegs p)) t.1 (reduced c p v t).1 := by
  have hscalar : Steps (Eff.Marks (reducedRegs p)) t.1 (after (setScalar c (p.f 2 5 0) v) t) :=
    (setScalar_marks t).mono fun _ => Eff.Marks.mono fun n hn => by simp_all [reducedRegs]
  unfold reduced
  by_cases hb : p.b 2 19 = true
  · rw [if_pos hb]
    exact hscalar.trans ((setPred_marks (setScalar c (p.f 2 5 0) v t).2).mono fun _ => Eff.Marks.mono fun n hn => by
      simp_all [reducedRegs])
  · rw [if_neg hb]
    exact hscalar

theorem pkt_setPred {i : Nat} {v : Bool} (t : At s0) (x : Nat) : (after (setPred c i v) t).pkt c x = t.1.pkt c x := rfl

theorem pkt_reduced (v : Nat) (t : At s0) (i : Nat) : (reduced c p v t).1.pkt c i = t.1.pkt c i := by
  have hset : (after (setScalar c (p.f 2 5 0) v) t).pkt c i = t.1.pkt c i := pkt_setF ..
  unfold reduced
  split
  · exact (pkt_setPred (setScalar c (p.f 2 5 0) v t).2 i).trans hset
  · exact hset

theorem scalar_reduced (v : Nat) (t : At s0) (i : Nat) :
    (reduced c p v t).1.scalar c i = (after (setScalar c (p.f 2 5 0) v) t).scalar c i := by
  unfold reduced
  split
  · exact (setPred_marks (setScalar c (p.f 2 5 0) v t).2).marks_regs.fld (by decide) _ _ _
  · rfl

theorem reduceBody_yields {ac : Acc} {l k : Log} {t u : At s0} {vs : List (Nat × Nat)} (h : Yields (rdTensor ac (p.desc 3)) l t vs k u) :
    let v := reduceValue (p.f 2 11 8) (p.desc 3).fmt (vs.map Prod.fst)
    Yields (reduceBody c p ac) l t { detail := v } k (reduced c p v u) := by
  intro v
  refine h.bind (.bind .liftUnit ?_)
  unfold reduced
  by_cases hb : p.b 2 19 = true
  · simp only [hb, if_true]
    exact .bind .liftUnit .pure
  · simp only [hb]
    exact .pure

theorem reduce_answers {vs : List (Nat × Nat)} (hc : c < 256) (h : s.issued c id 0x09 p) (hcalm : s.Calm c)
    (hfinds : s.finds (rdTensor (s.acc c) (p.desc 3)) vs) (haff : s.affords c p (rdTensor (s.acc c) (p.desc 3))) :
    let v := reduceValue (p.f 2 11 8) (p.desc 3).fmt (vs.map Prod.fst)
    Answers (.reduce c id) s fun t => t.ended c id stOk v ∧ t.scalar c (p.f 2 5 0) = v % 2 ^ 64 ∧
      (∀ i, i ≠ p.f 2 5 0 → t.scalar c i = s.scalar c i) ∧
      (p.b 2 19 = true → t.pred c (p.f 2 18 16) = (v != 0) ∧ ∀ i, i ≠ p.f 2 18 16 → i < 8 → t.pred c i = s.pred c i) ∧
      SameRegs (reducedRegs p ++ counters ++ followers) s t ∧ ∀ a, t.seen a = s.seen a := by
  intro v
  have hread := hfinds.yields
  set u : At s := (runA (rdTensor (s.acc c) (p.desc 3)) ⟨s, Reach.refl s⟩).2
  obtain ⟨-, ⟨hsteps, hseen⟩, -⟩ := (Serves.rdTensor (servesReading (s.partOf c) c counting_counters) acc_serves).yields hread hcalm.still
  have hrun : Yields (reduceBody c p (s.acc c)) {} ⟨s, Reach.refl s⟩ { detail := v } _ (reduced c p v u) := reduceBody_yields hread
  have hmarks := reduced_marks (c := c) (p := p) v u
  have hpkt := (pkt_reduced (c := c) (p := p) v u id).trans (hsteps.served.pkt c id)
  refine (runsBody_reduce.finishes h rfl (hread.affords hrun haff) hrun rfl hpkt).weaken fun t ⟨hend, hbooked⟩ => ?_
  have hscalar (i : Nat) : t.scalar c i = (after (setScalar c (p.f 2 5 0) v) u).scalar c i :=
    (hbooked.regs.fld (by decide) _ _ _).trans (scalar_reduced v u i)
  refine ⟨hend, (hscalar _).trans (scalar_setScalar hc (sourceOf_lt p 2) v u), fun i hi => ?_, fun hb => ?_, ?_, fun a => ?_⟩
  · exact (hscalar i).trans ((scalar_setScalar_ne hi v u).trans (hsteps.served.regs.fld (by decide) _ _ _))
  · have hpred (i : Nat) : t.pred c i = if i = p.f 2 18 16 then v != 0 else s.pred c i := by
      have hset : (reduced c p v u).1.pred c i =
          if i = p.f 2 18 16 then v != 0 else (after (setScalar c (p.f 2 5 0) v) u).pred c i := by
        unfold reduced
        rw [if_pos hb]
        exact pred_setPred hc (bits_lt _ 18 16) (v != 0) (setScalar c (p.f 2 5 0) v u).2 i
      have hold : (after (setScalar c (p.f 2 5 0) v) u).pred c i = s.pred c i :=
        congrArg (bit · i) (((setScalar_marks u).marks_regs.fld (by decide) _ _ _).trans (hsteps.served.regs.fld (by decide) _ _ _))
      exact (congrArg (bit · i) (hbooked.regs.fld (by decide) _ _ _)).trans (hset.trans (by rw [← hold]))
    exact ⟨by rw [hpred, if_pos rfl], fun i hi _ => by rw [hpred, if_neg hi]⟩
  · have hboth : SameRegs (reducedRegs p ++ counters) s (reduced c p v u).1 :=
      (hsteps.served.regs.mono (List.subset_append_right _ _)).trans (hmarks.marks_regs.mono (List.subset_append_left _ _))
    exact hboth.booked hbooked.regs (fun _ hn => hn) fun n hn => List.mem_append_right _ ((by decide : [_, _] ⊆ counters) hn)
  · exact ((hmarks.marks_store.trans hbooked.store).seen a).trans (hseen a)

end

/-- Settles O19: each operation runs to its end; what it writes after its accesses is read back, and the rest stays. -/
theorem scalarLoadsAndStores : Obligations.ScalarLoadsAndStores := by
  unfold Obligations.ScalarLoadsAndStores
  exact ⟨fun c id s p v hc h hv haff => loadScalar_answers hc h hv haff,
    fun c id s p vs hc h hcalm hfinds haff => reduce_answers hc h hcalm hfinds haff,
    fun c id s p a h hst => storeScalar_answers h hst, fun c id s p a h hw hst => signal_stores h hw hst,
    fun c id s p h hw hx => signal_sends h hw hx, fun c id s p hc h hw hlog hx => timestamp_stamps hc h hw hlog hx,
    fun c id s p a hc h hw hst hlog => timestamp_stores hc h hw hst hlog⟩

end Sys2Proof.Machine
end

section
/-!
PROOFS. O60: output conversion (R49, R117, R124). A value is a rational number; rounding lands within half a step of its grid, and a
code's value grows with the code.
-/
namespace Sys2Proof.Machine

/-! ### Values as rational numbers -/

/-- A magnitude m * 2^e. -/
def magOf (m : Nat) (e : Int) : ℚ := m * 2 ^ e

/-- A signed value. -/
def valueOf (neg : Bool) (m : Nat) (e : Int) : ℚ := if neg then -magOf m e else magOf m e

theorem zpow_add_two (a b : Int) : (2 : ℚ) ^ (a + b) = 2 ^ a * 2 ^ b := zpow_add₀ two_ne_zero a b

theorem magOf_nonneg (m : Nat) (e : Int) : 0 ≤ magOf m e := by
  unfold magOf
  positivity

theorem abs_valueOf (neg : Bool) (m : Nat) (e : Int) : |valueOf neg m e| = magOf m e := by
  unfold valueOf
  split
  · rw [abs_neg, abs_of_nonneg (magOf_nonneg m e)]
  · rw [abs_of_nonneg (magOf_nonneg m e)]

theorem magOf_scale (m d : Nat) (e : Int) : magOf m (e + d) = magOf (m * 2 ^ d) e := by
  unfold magOf
  rw [zpow_add_two, zpow_natCast]
  push_cast
  ring

/-- A numerator at an exponent is the value over that power of two. -/
theorem numerAt_eq {neg : Bool} {m : Nat} {e k : Int} (h : k ≤ e) : (numerAt neg m e k : ℚ) = valueOf neg m e * 2 ^ (-k) := by
  have hshift : ((m <<< (e - k).toNat : Nat) : ℚ) = magOf m e * 2 ^ (-k) := by
    unfold magOf
    rw [Nat.shiftLeft_eq, mul_assoc, ← zpow_add_two, ← sub_eq_add_neg, ← Int.toNat_of_nonneg (by omega : 0 ≤ e - k), zpow_natCast]
    push_cast
    rfl
  unfold numerAt valueOf
  dsimp only
  split
  · rw [neg_mul, ← hshift]
    push_cast
    rfl
  · rw [← hshift, Int.cast_natCast]

/-! ### Rounding -/

/-- q steps of 2^x are the nearest to v, of which M + 1 bits are kept, with no step below 2^emin. -/
structure Rounds (M : Nat) (emin : Int) (v : ℚ) (q : Nat) (x : Int) : Prop where
  low : emin ≤ x
  close : |v - magOf q x| ≤ 2 ^ x / 2
  even : |v - magOf q x| = 2 ^ x / 2 → q % 2 = 0
  below : v < magOf (2 ^ (M + 1)) x
  above : emin < x → magOf (2 ^ M) x ≤ v

theorem rounds_exact {M q : Nat} {emin x : Int} {v : ℚ} (hlow : emin ≤ x) (hv : v = magOf q x) (hbelow : v < magOf (2 ^ (M + 1)) x)
    (habove : emin < x → magOf (2 ^ M) x ≤ v) : Rounds M emin v q x := by
  have hpos : (0 : ℚ) < 2 ^ x / 2 := by positivity
  refine ⟨hlow, ?_, fun h => ?_, hbelow, habove⟩
  · rw [hv, sub_self, abs_zero]
    exact hpos.le
  · rw [hv, sub_self, abs_zero] at h
    exact absurd h hpos.ne

/-- A quotient by 2h rounded to nearest even, from the quotient d and the remainder r. -/
theorem quotient_close {d r h : Nat} (hr : r < 2 * h) :
    let q := if h < r ∨ (r = h ∧ d % 2 = 1) then d + 1 else d
    |((2 * h * d + r : Nat) : ℤ) - (q * (2 * h) : Nat)| ≤ h ∧
      (|((2 * h * d + r : Nat) : ℤ) - (q * (2 * h) : Nat)| = h → q % 2 = 0) := by
  intro q
  by_cases hup : h < r ∨ (r = h ∧ d % 2 = 1)
  · have hq : q = d + 1 := if_pos hup
    have hdist : ((2 * h * d + r : Nat) : ℤ) - (q * (2 * h) : Nat) = -((2 * h - r : Nat) : ℤ) := by
      rw [hq, Nat.cast_sub hr.le]
      push_cast
      ring
    rw [hdist, abs_neg, Nat.abs_cast, hq]
    omega
  · have hq : q = d := if_neg hup
    have hdist : ((2 * h * d + r : Nat) : ℤ) - (q * (2 * h) : Nat) = (r : ℤ) := by
      rw [hq]
      push_cast
      ring
    rw [hdist, Nat.abs_cast, hq]
    omega

/-- The same distance, for what is rounded as rational numbers. -/
theorem shifted_close {m s : Nat} {e x : Int} (hs : x = e + (s + 1 : Nat)) :
    let q := if 2 ^ s < m % 2 ^ (s + 1) ∨ (m % 2 ^ (s + 1) = 2 ^ s ∧ m / 2 ^ (s + 1) % 2 = 1) then m / 2 ^ (s + 1) + 1 else m / 2 ^ (s + 1)
    |magOf m e - magOf q x| ≤ 2 ^ x / 2 ∧ (|magOf m e - magOf q x| = 2 ^ x / 2 → q % 2 = 0) := by
  intro q
  have hstep : 2 ^ (s + 1) = 2 * 2 ^ s := pow_succ' 2 s
  obtain ⟨hclose, heven⟩ := quotient_close (d := m / 2 ^ (s + 1)) (r := m % 2 ^ (s + 1)) (h := 2 ^ s)
    (hstep ▸ Nat.mod_lt _ (Nat.two_pow_pos _))
  rw [← hstep, Nat.div_add_mod] at hclose heven
  have hdist : |magOf m e - magOf q x| = ((|(m : ℤ) - (q * 2 ^ (s + 1) : Nat)| : ℤ) : ℚ) * 2 ^ e := by
    rw [hs, magOf_scale]
    unfold magOf
    rw [← sub_mul, abs_mul, abs_of_pos (by positivity : (0 : ℚ) < 2 ^ e)]
    push_cast
    rfl
  have hhalf : (2 : ℚ) ^ x / 2 = ((2 ^ s : Nat) : ℤ) * 2 ^ e := by
    rw [hs, zpow_add_two, zpow_natCast, pow_succ]
    push_cast
    ring
  have hpos : (0 : ℚ) < 2 ^ e := by positivity
  rw [hdist, hhalf]
  refine ⟨mul_le_mul_of_nonneg_right (Int.cast_le.2 hclose) hpos.le, fun h => heven ?_⟩
  exact Int.cast_injective (mul_right_cancel₀ hpos.ne' h)

/-- Rounding lands within half a step, on an even count of steps where it lies halfway. -/
theorem roundTo_rounds (M : Nat) (emin : Int) (m : Nat) (e : Int) :
    Rounds M emin (magOf m e) (roundTo (M + 1) emin m e).1 (roundTo (M + 1) emin m e).2 := by
  unfold roundTo
  by_cases hm : m = 0
  · subst hm
    rw [if_pos rfl]
    refine rounds_exact le_rfl (by simp [magOf]) ?_ fun h => absurd h (lt_irrefl _)
    unfold magOf
    push_cast
    rw [zero_mul]
    positivity
  rw [if_neg hm]
  have hlo : magOf 1 (e + Nat.log2 m) ≤ magOf m e := by
    rw [magOf_scale, one_mul]
    exact mul_le_mul_of_nonneg_right (Nat.cast_le.2 (Nat.log2_self_le hm)) (by positivity)
  have hhi : magOf m e < magOf 1 (e + (Nat.log2 m + 1 : Nat)) := by
    rw [magOf_scale, one_mul]
    exact mul_lt_mul_of_pos_right (Nat.cast_lt.2 Nat.lt_log2_self) (by positivity)
  set x := max (e + (Nat.log2 m : Int) + 1 - ((M + 1 : Nat) : Int)) emin with hx
  have hbelow : magOf m e < magOf (2 ^ (M + 1)) x := by
    refine hhi.trans_le ?_
    rw [← one_mul (2 ^ (M + 1)), ← magOf_scale]
    unfold magOf
    exact mul_le_mul_of_nonneg_left (zpow_le_zpow_right₀ one_le_two (by omega)) (by positivity)
  have habove : emin < x → magOf (2 ^ M) x ≤ magOf m e := fun hlt => by
    refine le_trans ?_ hlo
    rw [← one_mul (2 ^ M), ← magOf_scale]
    unfold magOf
    exact mul_le_mul_of_nonneg_left (zpow_le_zpow_right₀ one_le_two (by omega)) (by positivity)
  have hlow : emin ≤ x := le_max_right _ _
  by_cases hexact : x ≤ e
  · simp only [hexact, if_true]
    refine rounds_exact hlow ?_ hbelow habove
    rw [Nat.shiftLeft_eq, ← magOf_scale]
    congr 1
    omega
  · simp only [hexact, if_false]
    obtain ⟨s, hs⟩ : ∃ s : Nat, x = e + (s + 1 : Nat) := ⟨(x - e).toNat - 1, by omega⟩
    have hshift : (x - e).toNat = s + 1 := by omega
    obtain ⟨hclose, heven⟩ := shifted_close (m := m) hs
    rw [hshift, Nat.add_sub_cancel]
    simp only [Nat.shiftRight_eq_div_pow]
    exact ⟨hlow, hclose, heven, hbelow, habove⟩

/-! ### What is rounded is nearest -/

section
variable {M q : Nat} {emin x : Int} {v : ℚ} (h : Rounds M emin v q x)
include h

/-- No other count of steps is nearer, and one as near means an even count. -/
theorem Rounds.grid (j : ℤ) : |v - magOf q x| ≤ |v - j * 2 ^ x| ∧ (|v - magOf q x| = |v - j * 2 ^ x| → j * 2 ^ x ≠ magOf q x → q % 2 = 0) := by
  by_cases hj : j = q
  · subst hj
    exact ⟨le_of_eq rfl, fun _ hne => absurd rfl hne⟩
  · have hpos : (0 : ℚ) < 2 ^ x := by positivity
    have hone : (1 : ℚ) ≤ |(q : ℚ) - j| := by
      have hint : (1 : ℤ) ≤ |(q : ℤ) - j| := Int.one_le_abs (by omega)
      exact_mod_cast hint
    have hfar : 2 ^ x ≤ |v - magOf q x| + |v - j * 2 ^ x| :=
      calc (2 : ℚ) ^ x ≤ |(q : ℚ) - j| * 2 ^ x := le_mul_of_one_le_left hpos.le hone
        _ = |(v - j * 2 ^ x) - (v - magOf q x)| := by rw [← abs_of_pos hpos, ← abs_mul, abs_of_pos hpos]; congr 1; unfold magOf; ring
        _ ≤ |v - magOf q x| + |v - j * 2 ^ x| := (abs_sub _ _).trans_eq (add_comm _ _)
    have hclose := h.close
    exact ⟨by linarith, fun heq _ => h.even (by linarith)⟩

/-- No value of M + 1 bits is nearer, and another as near means an even count of steps. -/
theorem Rounds.nearest {n : Bool} {wm : Nat} {we : Int} (hwm : wm < 2 ^ (M + 1)) (hwe : emin ≤ we) :
    |v - magOf q x| ≤ |v - valueOf n wm we| ∧ (|v - magOf q x| = |v - valueOf n wm we| → valueOf n wm we ≠ magOf q x → q % 2 = 0) := by
  by_cases hx : x ≤ we
  · obtain ⟨d, rfl⟩ : ∃ d : Nat, we = x + d := ⟨(we - x).toNat, by omega⟩
    have hgrid : valueOf n wm (x + d) = ((if n then -(wm * 2 ^ d : Nat) else (wm * 2 ^ d : Nat) : ℤ) : ℚ) * 2 ^ x := by
      unfold valueOf
      rw [magOf_scale]
      unfold magOf
      split <;> push_cast <;> ring
    rw [hgrid]
    exact h.grid _
  · have hless : magOf wm we < magOf (2 ^ M) x := by
      obtain ⟨d, rfl⟩ : ∃ d : Nat, x = we + (d + 1 : Nat) := ⟨(x - we).toNat - 1, by omega⟩
      rw [magOf_scale]
      refine mul_lt_mul_of_pos_right (Nat.cast_lt.2 (hwm.trans_le ?_)) (by positivity)
      rw [← pow_add]
      exact Nat.pow_le_pow_right two_pos (by omega)
    have habove := h.above (by omega)
    have hfarther : v - magOf (2 ^ M) x < |v - valueOf n wm we| := by
      have hsigned : valueOf n wm we ≤ magOf wm we := (le_abs_self _).trans_eq (abs_valueOf n wm we)
      exact lt_of_lt_of_le (by linarith) (le_abs_self _)
    have hpower := (h.grid (2 ^ M : Nat)).1
    have hmag : (((2 ^ M : Nat) : ℤ) : ℚ) * 2 ^ x = magOf (2 ^ M) x := by
      unfold magOf
      push_cast
      rfl
    rw [hmag, abs_of_nonneg (sub_nonneg.2 habove)] at hpower
    exact ⟨by linarith, fun heq => absurd heq (by linarith : |v - magOf q x| < _).ne⟩

/-- The count keeps within its bits. -/
theorem Rounds.count_le : q ≤ 2 ^ (M + 1) := by
  by_contra hq
  have hpos : (0 : ℚ) < 2 ^ x := by positivity
  have hmore : magOf (2 ^ (M + 1)) x + 2 ^ x ≤ magOf q x := by
    have hnat : ((2 ^ (M + 1) : Nat) : ℚ) + 1 ≤ q := by exact_mod_cast (by omega : 2 ^ (M + 1) + 1 ≤ q)
    unfold magOf
    nlinarith
  have hclose := (abs_le.1 h.close).1
  have hbelow := h.below
  linarith

theorem Rounds.le_count (hx : emin < x) : 2 ^ M ≤ q := by
  by_contra hq
  have hpos : (0 : ℚ) < 2 ^ x := by positivity
  have hless : magOf q x + 2 ^ x ≤ magOf (2 ^ M) x := by
    have hnat : (q : ℚ) + 1 ≤ ((2 ^ M : Nat) : ℚ) := by exact_mod_cast (by omega : q + 1 ≤ 2 ^ M)
    unfold magOf
    nlinarith
  have hclose := (abs_le.1 h.close).2
  have habove := h.above hx
  linarith

end

/-! ### Codes and their values -/

/-- The significand of a code with M mantissa bits. -/
def sig (M N : Nat) : Nat := if N < 2 ^ M then N else 2 ^ M + N % 2 ^ M

/-- A code's value, in units of the smallest. -/
def units (M N : Nat) : Nat := sig M N * 2 ^ (N / 2 ^ M - 1)

theorem sig_lt (M N : Nat) : sig M N < 2 ^ (M + 1) := by
  have hmod : N % 2 ^ M < 2 ^ M := Nat.mod_lt _ (Nat.two_pow_pos M)
  unfold sig
  rw [pow_succ]
  split <;> omega

/-- The code of d binades and q steps in the last (R117). -/
theorem units_code {M d q : Nat} (hq : q ≤ 2 ^ (M + 1)) (hd : d ≠ 0 → 2 ^ M ≤ q) : units M (d * 2 ^ M + q) = q * 2 ^ d := by
  have hpos : 0 < 2 ^ M := Nat.two_pow_pos M
  have hdouble : 2 ^ (M + 1) = 2 ^ M + 2 ^ M := by rw [pow_succ]; omega
  have hmul (a b : Nat) (hb : b < 2 ^ M) : (a * 2 ^ M + b) / 2 ^ M = a ∧ (a * 2 ^ M + b) % 2 ^ M = b := by
    constructor
    · rw [Nat.mul_comm, Nat.mul_add_div hpos, Nat.div_eq_of_lt hb, Nat.add_zero]
    · rw [Nat.mul_comm, Nat.mul_add_mod, Nat.mod_eq_of_lt hb]
  unfold units sig
  by_cases hsub : q < 2 ^ M
  · have hzero : d = 0 := by
      by_contra hne
      exact absurd (hd hne) (by omega)
    subst hzero
    simp [hsub, Nat.div_eq_of_lt hsub]
  · by_cases htop : q = 2 ^ (M + 1)
    · have hform : d * 2 ^ M + q = (d + 2) * 2 ^ M + 0 := by rw [htop, hdouble]; ring
      obtain ⟨hdiv, hmod⟩ := hmul (d + 2) 0 hpos
      rw [hform, hdiv, hmod, if_neg (by nlinarith), htop]
      simp only [Nat.add_zero, Nat.reduceSubDiff]
      ring
    · have hform : d * 2 ^ M + q = (d + 1) * 2 ^ M + (q - 2 ^ M) := by rw [Nat.add_mul]; omega
      obtain ⟨hdiv, hmod⟩ := hmul (d + 1) (q - 2 ^ M) (by omega)
      rw [hform, hdiv, hmod, if_neg (by nlinarith), Nat.add_sub_cancel]
      congr 1
      omega

/-- Every code is of that form. -/
theorem code_form (M N : Nat) : N = (N / 2 ^ M - 1) * 2 ^ M + sig M N ∧ (N / 2 ^ M - 1 ≠ 0 → 2 ^ M ≤ sig M N) := by
  have hpos : 0 < 2 ^ M := Nat.two_pow_pos M
  unfold sig
  by_cases hsub : N < 2 ^ M
  · simp [hsub, Nat.div_eq_of_lt hsub]
  · rw [if_neg hsub]
    have hdiv : 1 ≤ N / 2 ^ M := (Nat.one_le_div_iff hpos).2 (by omega)
    obtain ⟨d, hd⟩ : ∃ d, N / 2 ^ M = d + 1 := ⟨N / 2 ^ M - 1, by omega⟩
    have hform := Nat.div_add_mod N (2 ^ M)
    rw [hd] at hform ⊢
    refine ⟨?_, fun _ => Nat.le_add_right _ _⟩
    rw [Nat.add_sub_cancel]
    linarith [Nat.mul_comm (2 ^ M) (d + 1), Nat.add_mul d 1 (2 ^ M)]

/-- A code's value grows with the code. -/
theorem units_strictMono (M : Nat) : StrictMono (units M) := by
  refine strictMono_nat_of_lt_succ fun N => ?_
  obtain ⟨hform, hnormal⟩ := code_form M N
  have hlt := sig_lt M N
  have hnext : units M (N + 1) = (sig M N + 1) * 2 ^ (N / 2 ^ M - 1) := by
    rw [← units_code (M := M) (q := sig M N + 1) hlt (fun hd => (hnormal hd).trans (Nat.le_succ _)), ← Nat.add_assoc, ← hform]
  rw [hnext]
  exact Nat.mul_lt_mul_of_pos_right (Nat.lt_succ_self _) (Nat.two_pow_pos _)

theorem magOf_code (M N : Nat) (emin : Int) : magOf (sig M N) (emin + (N / 2 ^ M - 1 : Nat)) = magOf (units M N) emin := magOf_scale ..

/-! ### Formats -/

/-- The largest finite code of a format with infinities, or with one NaN code (R117). -/
def FpFmt.top (f : FpFmt) : Nat := if f.kind = 0 then (2 ^ f.ebits - 1) * 2 ^ f.mant - 1 else 2 ^ (f.mant + f.ebits) - 2

/-- The value of a code without its sign bit, and a sign. -/
def FpFmt.signedNum (f : FpFmt) (neg : Bool) (N : Nat) : Num :=
  if N ≤ f.top then .fin neg (sig f.mant N) (f.emin + (N / 2 ^ f.mant - 1 : Nat))
  else if f.kind = 0 ∧ N % 2 ^ f.mant = 0 then .inf neg else .nan

/-- A format of R124 that has infinities, or one NaN code. -/
structure FpFmt.Usual (f : FpFmt) : Prop where
  mant : 1 ≤ f.mant
  ebits : 1 ≤ f.ebits
  kind : f.kind ≤ 1

/-- The codes of E binades of M steps that are finite: all but the last binade, or all but the last code. -/
theorem finite_code {M E N : Nat} (hM : 2 ≤ M) (hE : 2 ≤ E) (hN : N < M * E) :
    (N ≤ (E - 1) * M - 1 ↔ N / M ≠ E - 1) ∧ (N ≤ M * E - 2 ↔ ¬(N / M = E - 1 ∧ N % M = M - 1)) := by
  obtain ⟨E, rfl⟩ : ∃ k, E = k + 1 := ⟨E - 1, by omega⟩
  have hform := Nat.div_add_mod N M
  have hmod : N % M < M := Nat.mod_lt _ (by omega)
  have hdiv : N / M ≤ E := Nat.lt_succ_iff.1 (Nat.div_lt_of_lt_mul hN)
  have hfull : M ≤ M * E := Nat.le_mul_of_pos_right M (by omega)
  rw [Nat.add_sub_cancel, Nat.mul_comm E M, Nat.mul_add_one]
  obtain hlast | hbefore : N / M = E ∨ M * (N / M) + M ≤ M * E := by
    obtain hlast | hbefore := hdiv.eq_or_lt
    · exact .inl hlast
    · exact .inr (Nat.mul_le_mul_left M hbefore)
  · rw [hlast] at hform ⊢
    omega
  · have hne : N / M ≠ E := fun h => by
      rw [h] at hbefore
      omega
    omega

/-- The one code of the last of E binades whose fraction is 0. -/
theorem last_binade {m e N : Nat} (hN : N < 2 ^ (m + e)) (hfrac : N % 2 ^ m = 0) (hlast : (2 ^ e - 1) * 2 ^ m ≤ N) : N = (2 ^ e - 1) * 2 ^ m := by
  obtain ⟨d, rfl⟩ := Nat.dvd_of_mod_eq_zero hfrac
  rw [pow_add] at hN
  rw [Nat.mul_comm] at hlast
  have hupper := Nat.lt_of_mul_lt_mul_left hN
  have hlower := Nat.le_of_mul_le_mul_left hlast (Nat.two_pow_pos m)
  rw [Nat.mul_comm]
  congr 1
  omega

section
variable {f : FpFmt} (hf : f.Usual)
include hf

/-- A code is finite, or its fraction tells an infinity from NaN. -/
theorem FpFmt.Usual.decode_eq (w : Nat) : f.decode w = f.signedNum (w.testBit (f.mant + f.ebits)) (w % 2 ^ (f.mant + f.ebits)) := by
  obtain ⟨hmant, hebits, hkind⟩ := hf
  have hM : 2 ≤ 2 ^ f.mant := Nat.le_self_pow (by omega) 2
  have hE : 2 ≤ 2 ^ f.ebits := Nat.le_self_pow (by omega) 2
  have hfrac : w % 2 ^ f.mant = w % 2 ^ (f.mant + f.ebits) % 2 ^ f.mant :=
    (Nat.mod_mod_of_dvd w (Nat.pow_dvd_pow 2 (Nat.le_add_right _ _))).symm
  have hexp : w / 2 ^ f.mant % 2 ^ f.ebits = w % 2 ^ (f.mant + f.ebits) / 2 ^ f.mant := by
    rw [pow_add, Nat.mod_mul_right_div_self]
  have hlt : w % 2 ^ (f.mant + f.ebits) < 2 ^ f.mant * 2 ^ f.ebits := by
    rw [← pow_add]
    exact Nat.mod_lt _ (Nat.two_pow_pos _)
  obtain ⟨hieee, hone⟩ := finite_code hM hE hlt
  unfold FpFmt.decode FpFmt.signedNum FpFmt.top sig
  dsimp only
  rw [hfrac, hexp]
  generalize w.testBit (f.mant + f.ebits) = neg
  generalize w % 2 ^ (f.mant + f.ebits) = N at *
  have hfinite : (if N / 2 ^ f.mant = 0 then Num.fin neg (N % 2 ^ f.mant) f.emin
      else .fin neg (2 ^ f.mant + N % 2 ^ f.mant) (f.emin + (N / 2 ^ f.mant : Nat) - 1)) =
      .fin neg (if N < 2 ^ f.mant then N else 2 ^ f.mant + N % 2 ^ f.mant) (f.emin + (N / 2 ^ f.mant - 1 : Nat)) := by
    by_cases hsub : N < 2 ^ f.mant
    · rw [if_pos (Nat.div_eq_of_lt hsub), if_pos hsub, Nat.div_eq_of_lt hsub, Nat.mod_eq_of_lt hsub]
      simp
    · have hdiv : 1 ≤ N / 2 ^ f.mant := (Nat.one_le_div_iff (Nat.two_pow_pos _)).2 (by omega)
      rw [if_neg (by omega), if_neg hsub, Nat.cast_sub hdiv, add_sub_assoc]
      rfl
  rw [hfinite]
  obtain hk | hk : f.kind = 0 ∨ f.kind = 1 := by omega
  · simp only [hk, true_and, if_true, zero_ne_one, false_and, if_false, hieee]
    split <;> simp_all
  · simp only [hk, one_ne_zero, false_and, if_false, true_and, pow_add, hone]
    split <;> simp_all

omit hf in
/-- A code with its sign bit, taken apart. -/
theorem FpFmt.signed_parts (neg : Bool) {N : Nat} (hN : N < 2 ^ (f.mant + f.ebits)) :
    (f.signed neg N).testBit (f.mant + f.ebits) = neg ∧ f.signed neg N % 2 ^ (f.mant + f.ebits) = N := by
  unfold FpFmt.signed
  refine ⟨?_, by rw [Nat.add_mul_mod_self_right, Nat.mod_eq_of_lt hN]⟩
  rw [Nat.testBit_eq_decide_div_mod_eq, Nat.add_mul_div_right _ _ (Nat.two_pow_pos _), Nat.div_eq_of_lt hN]
  cases neg <;> rfl

omit hf in
/-- A code within its width is its sign bit and the rest. -/
theorem FpFmt.signed_of_lt {w : Nat} (hw : w < 2 ^ (f.mant + f.ebits + 1)) :
    w = f.signed (w.testBit (f.mant + f.ebits)) (w % 2 ^ (f.mant + f.ebits)) := by
  unfold FpFmt.signed
  have hdiv : w / 2 ^ (f.mant + f.ebits) < 2 := Nat.div_lt_of_lt_mul (by rwa [← pow_succ])
  have hform := Nat.mod_add_div w (2 ^ (f.mant + f.ebits))
  rw [Nat.testBit_eq_decide_div_mod_eq, Nat.mod_eq_of_lt hdiv]
  obtain hzero | hone : w / 2 ^ (f.mant + f.ebits) = 0 ∨ w / 2 ^ (f.mant + f.ebits) = 1 :=
    Nat.le_one_iff_eq_zero_or_eq_one.1 (Nat.lt_succ_iff.1 hdiv)
  · rw [hzero] at hform ⊢
    simpa [b2n] using hform.symm
  · rw [hone] at hform ⊢
    simpa [b2n] using hform.symm

theorem FpFmt.Usual.decode_signed (neg : Bool) {N : Nat} (hN : N < 2 ^ (f.mant + f.ebits)) :
    f.decode (f.signed neg N) = f.signedNum neg N := by
  obtain ⟨hsign, hrest⟩ := f.signed_parts neg hN
  rw [hf.decode_eq, hsign, hrest]

omit hf in
/-- Where a code's value is finite, and which it is. -/
theorem FpFmt.signedNum_fin {neg n : Bool} {N m : Nat} {e : Int} (h : f.signedNum neg N = .fin n m e) :
    N ≤ f.top ∧ n = neg ∧ m = sig f.mant N ∧ e = f.emin + (N / 2 ^ f.mant - 1 : Nat) := by
  unfold FpFmt.signedNum at h
  split at h
  · next hN =>
    cases h
    exact ⟨hN, rfl, rfl, rfl⟩
  · split at h <;> cases h

omit hf in
theorem FpFmt.code_eq (m : Nat) (e : Int) : f.code m e =
    ((roundTo (f.mant + 1) f.emin m e).2 - f.emin).toNat * 2 ^ f.mant + (roundTo (f.mant + 1) f.emin m e).1 := rfl

omit hf in
/-- The value of the code that a magnitude rounds to: the steps rounded to. -/
theorem FpFmt.code_units (m : Nat) (e : Int) : magOf (units f.mant (f.code m e)) f.emin =
    magOf (roundTo (f.mant + 1) f.emin m e).1 (roundTo (f.mant + 1) f.emin m e).2 := by
  have hrounds := roundTo_rounds f.mant f.emin m e
  have hlow := hrounds.low
  rw [f.code_eq, units_code hrounds.count_le fun hd => hrounds.le_count (by omega), ← magOf_scale]
  congr 1
  omega

/-- No value of the format's bits is nearer than that code's, and another as near means an even code. -/
theorem FpFmt.Usual.code_nearest (m : Nat) (e : Int) {n : Bool} {wm : Nat} {we : Int} (hwm : wm < 2 ^ (f.mant + 1)) (hwe : f.emin ≤ we) :
    |magOf m e - magOf (units f.mant (f.code m e)) f.emin| ≤ |magOf m e - valueOf n wm we| ∧
      (|magOf m e - magOf (units f.mant (f.code m e)) f.emin| = |magOf m e - valueOf n wm we| →
        valueOf n wm we ≠ magOf (units f.mant (f.code m e)) f.emin → f.code m e % 2 = 0) := by
  obtain ⟨hnear, heven⟩ := (roundTo_rounds f.mant f.emin m e).nearest (n := n) hwm hwe
  rw [f.code_units]
  refine ⟨hnear, fun heq hne => ?_⟩
  have hparity := heven heq hne
  have hdvd : 2 ∣ 2 ^ f.mant := dvd_pow_self 2 (by have := hf.mant; omega)
  rw [f.code_eq, Nat.add_mod, hparity, Nat.mul_mod, Nat.mod_eq_zero_of_dvd hdvd]
  simp

omit hf in
theorem magOf_lt_iff {a b : Nat} {e : Int} : magOf a e < magOf b e ↔ a < b := by
  unfold magOf
  rw [mul_lt_mul_iff_of_pos_right (by positivity)]
  exact Nat.cast_lt

omit hf in
theorem magOf_le_iff {a b : Nat} {e : Int} : magOf a e ≤ magOf b e ↔ a ≤ b := by
  rw [← not_lt, ← not_lt, magOf_lt_iff]

omit hf in
theorem FpFmt.emin_le (N : Nat) : f.emin ≤ f.emin + (N / 2 ^ f.mant - 1 : Nat) := Int.le_add_of_nonneg_right (Int.natCast_nonneg _)

/-- The value of a code rounds to that code. -/
theorem FpFmt.Usual.code_of_code (N : Nat) : f.code (sig f.mant N) (f.emin + (N / 2 ^ f.mant - 1 : Nat)) = N := by
  have hnear := (hf.code_nearest (sig f.mant N) (f.emin + (N / 2 ^ f.mant - 1 : Nat)) (n := false) (sig_lt f.mant N) (f.emin_le N)).1
  rw [show valueOf false _ _ = magOf _ _ from rfl, sub_self, abs_zero, magOf_code] at hnear
  have hsame := sub_eq_zero.1 (abs_nonpos_iff.1 hnear)
  refine (units_strictMono f.mant).injective (le_antisymm ?_ ?_)
  · exact magOf_le_iff.1 hsame.ge
  · exact magOf_le_iff.1 hsame.le

/-- What lies beyond the largest code lies beyond its value. -/
theorem FpFmt.Usual.top_le {m : Nat} {e : Int} (h : f.top < f.code m e) : magOf (units f.mant f.top) f.emin ≤ magOf m e := by
  have hgreater : magOf (units f.mant f.top) f.emin < magOf (units f.mant (f.code m e)) f.emin := magOf_lt_iff.2 (units_strictMono _ h)
  have hnear := (hf.code_nearest m e (n := false) (sig_lt f.mant f.top) (f.emin_le f.top)).1
  rw [show valueOf false _ _ = magOf _ _ from rfl, magOf_code] at hnear
  by_contra hless
  rw [abs_of_nonpos (by linarith), abs_of_nonpos (by linarith)] at hnear
  linarith

/-- A magnitude as large as a power of two beyond the largest value has a code beyond it. -/
theorem FpFmt.Usual.top_lt_code {m : Nat} {e we : Int} (hwe : f.emin ≤ we) (hbig : magOf 1 we ≤ magOf m e)
    (htop : magOf (units f.mant f.top) f.emin < magOf 1 we) : f.top < f.code m e := by
  have hnear := (hf.code_nearest m e (n := false) (wm := 1) (Nat.one_lt_two_pow (by omega)) hwe).1
  rw [show valueOf false 1 we = magOf 1 we from rfl, abs_of_nonneg (sub_nonneg.2 hbig)] at hnear
  have hle := (le_abs_self _).trans hnear
  exact (units_strictMono f.mant).lt_iff_lt.1 (magOf_lt_iff.1 (by linarith : magOf (units f.mant f.top) f.emin < _))

end

/-! ### Conversion (R124) -/

/-- The values compared have signs; their distances do not. -/
theorem abs_sub_valueOf (neg n : Bool) (m wm : Nat) (e we : Int) :
    |valueOf neg m e - valueOf n wm we| = |magOf m e - valueOf (n != neg) wm we| := by
  cases neg
  · cases n <;> rfl
  · rw [abs_sub_comm]
    unfold valueOf
    cases n
    · simp [add_comm]
    · simp [neg_add_eq_sub]

/-- Values that agree with their signs turned agree. -/
theorem valueOf_inj {neg a b : Bool} {m n : Nat} {e e' : Int} (h : valueOf (a != neg) m e = valueOf (b != neg) n e') :
    valueOf a m e = valueOf b n e' := by
  have hturn (x : Bool) (k : Nat) (i : Int) : valueOf (x != neg) k i = (if neg then -1 else 1) * valueOf x k i := by
    unfold valueOf
    cases neg <;> cases x <;> simp
  rw [hturn, hturn] at h
  exact mul_left_cancel₀ (by split <;> norm_num) h

theorem numerAt_near {neg n : Bool} {m wm : Nat} {e we k : Int} (he : k ≤ e) (hwe : k ≤ we) :
    (((numerAt neg m e k - numerAt n wm we k).natAbs : Nat) : ℚ) = |magOf m e - valueOf (n != neg) wm we| * 2 ^ (-k) := by
  rw [← abs_sub_valueOf, Nat.cast_natAbs, Int.cast_abs, Int.cast_sub, numerAt_eq he, numerAt_eq hwe, ← sub_mul, abs_mul,
    abs_of_pos (by positivity : (0 : ℚ) < 2 ^ (-k))]

section
variable {fmt : Nat} (hfmt : fmt ≤ 4)
include hfmt

theorem usual_of_le : (fpFmt fmt).Usual := by
  interval_cases fmt <;> exact ⟨by decide, by decide, by decide⟩

theorem elemNum_eq (w : Nat) : elemNum fmt w = (fpFmt fmt).decode w := by
  interval_cases fmt <;> rfl

theorem limits_top : (fpLimits fmt).1 = (fpFmt fmt).top := by
  interval_cases fmt <;> decide

/-- What stands for a value beyond the largest is the largest, or no finite code. -/
theorem limits_above : (fpLimits fmt).2.1 < 2 ^ ((fpFmt fmt).mant + (fpFmt fmt).ebits) ∧
    ((fpLimits fmt).2.1 ≤ (fpFmt fmt).top → (fpLimits fmt).2.1 = (fpFmt fmt).top) := by
  interval_cases fmt <;> decide

theorem limits_inf : (fpFmt fmt).kind = 0 → (fpLimits fmt).2.2.1 = (2 ^ (fpFmt fmt).ebits - 1) * 2 ^ (fpFmt fmt).mant ∧
    (fpLimits fmt).2.2.1 ≠ (fpLimits fmt).1 := by
  interval_cases fmt <;> decide

theorem limits_nan : (fpLimits fmt).2.2.2 = nth [0x7FC00000, 0x7FC0, 0x7E00, 0x7F, 0x7E] fmt := by
  interval_cases fmt <;> decide

theorem width_eq : nth [32, 16, 16, 8, 8] fmt = (fpFmt fmt).mant + (fpFmt fmt).ebits + 1 := by
  interval_cases fmt <;> decide

/-- The largest values lie below 2^128. -/
theorem top_lt : (fpFmt fmt).emin ≤ 128 ∧ magOf (units (fpFmt fmt).mant (fpFmt fmt).top) (fpFmt fmt).emin < magOf 1 128 := by
  have hunits : (fpFmt fmt).emin ≤ 128 ∧ units (fpFmt fmt).mant (fpFmt fmt).top < 2 ^ (128 - (fpFmt fmt).emin).toNat := by
    interval_cases fmt <;> decide +kernel
  obtain ⟨hemin, hless⟩ := hunits
  refine ⟨hemin, ?_⟩
  rw [show (128 : Int) = (fpFmt fmt).emin + (128 - (fpFmt fmt).emin).toNat by omega, magOf_scale, one_mul]
  exact magOf_lt_iff.2 hless

omit hfmt in
theorem convert_fin (neg : Bool) (m : Nat) (e : Int) : convert fmt (.fin neg m e) = if (fpLimits fmt).1 < (fpFmt fmt).code m e then
    ((fpFmt fmt).signed neg (fpLimits fmt).2.1, (fpLimits fmt).2.1 == (fpLimits fmt).1)
    else ((fpFmt fmt).signed neg ((fpFmt fmt).code m e), false) := rfl

theorem code_lt {N : Nat} (hN : N ≤ (fpFmt fmt).top) : N < 2 ^ ((fpFmt fmt).mant + (fpFmt fmt).ebits) :=
  hN.trans_lt (by interval_cases fmt <;> decide)

theorem signed_even (neg : Bool) (N : Nat) : (fpFmt fmt).signed neg N % 2 = N % 2 := by
  have hdvd : 2 ∣ 2 ^ ((fpFmt fmt).mant + (fpFmt fmt).ebits) := dvd_pow_self 2 (by have := (usual_of_le hfmt).mant; omega)
  unfold FpFmt.signed
  rw [Nat.add_mod, Nat.mul_mod, Nat.mod_eq_zero_of_dvd hdvd]
  simp

/-- What a finite value is converted to, where that is finite, is nearest to it. -/
theorem convert_nearest {neg cn wn : Bool} {m w cm wm : Nat} {e ce we : Int}
    (hc : elemNum fmt (convert fmt (.fin neg m e)).1 = .fin cn cm ce) (hw : elemNum fmt w = .fin wn wm we) :
    |magOf m e - valueOf (cn != neg) cm ce| ≤ |magOf m e - valueOf (wn != neg) wm we| ∧
      (|magOf m e - valueOf (cn != neg) cm ce| = |magOf m e - valueOf (wn != neg) wm we| →
        valueOf (wn != neg) wm we ≠ valueOf (cn != neg) cm ce → (convert fmt (.fin neg m e)).1 % 2 = 0) := by
  have hf := usual_of_le hfmt
  rw [elemNum_eq hfmt] at hc hw
  rw [hf.decode_eq] at hw
  obtain ⟨hN, -, rfl, rfl⟩ := (fpFmt fmt).signedNum_fin hw
  generalize w % 2 ^ ((fpFmt fmt).mant + (fpFmt fmt).ebits) = N at hN
  rw [convert_fin, limits_top hfmt] at hc ⊢
  by_cases hbeyond : (fpFmt fmt).top < (fpFmt fmt).code m e
  · rw [if_pos hbeyond] at hc ⊢
    obtain ⟨hwidth, htop⟩ := limits_above hfmt
    rw [hf.decode_signed neg hwidth] at hc
    obtain ⟨habove, rfl, rfl, rfl⟩ := (fpFmt fmt).signedNum_fin hc
    rw [htop habove, bne_self_eq_false, show valueOf false _ _ = magOf _ _ from rfl, magOf_code]
    have hle := hf.top_le hbeyond
    have hless : valueOf (wn != cn) (sig (fpFmt fmt).mant N) ((fpFmt fmt).emin + (N / 2 ^ (fpFmt fmt).mant - 1 : Nat)) ≤
        magOf (units (fpFmt fmt).mant (fpFmt fmt).top) (fpFmt fmt).emin :=
      ((le_abs_self _).trans_eq (abs_valueOf ..)).trans ((magOf_code ..).trans_le (magOf_le_iff.2 ((units_strictMono _).monotone hN)))
    rw [abs_of_nonneg (by linarith), abs_of_nonneg (by linarith)]
    exact ⟨by linarith, fun heq hne => absurd (by linarith) hne⟩
  · rw [if_neg hbeyond] at hc ⊢
    rw [hf.decode_signed neg (code_lt hfmt (not_lt.1 hbeyond))] at hc
    obtain ⟨-, rfl, rfl, rfl⟩ := (fpFmt fmt).signedNum_fin hc
    rw [bne_self_eq_false, show valueOf false _ _ = magOf _ _ from rfl, magOf_code, signed_even hfmt]
    exact hf.code_nearest m e (sig_lt ..) ((fpFmt fmt).emin_le N)

/-- A code's value is converted back to the code. -/
theorem convert_code {w : Nat} (hw : w < 2 ^ ((fpFmt fmt).mant + (fpFmt fmt).ebits + 1)) : convert fmt (elemNum fmt w) =
    if elemNum fmt w = .nan then ((fpLimits fmt).2.2.2, false) else (w, false) := by
  have hf := usual_of_le hfmt
  have hform := (fpFmt fmt).signed_of_lt hw
  rw [elemNum_eq hfmt, hf.decode_eq]
  have hlt : w % 2 ^ ((fpFmt fmt).mant + (fpFmt fmt).ebits) < 2 ^ ((fpFmt fmt).mant + (fpFmt fmt).ebits) := Nat.mod_lt _ (Nat.two_pow_pos _)
  generalize w.testBit ((fpFmt fmt).mant + (fpFmt fmt).ebits) = neg at hform ⊢
  generalize w % 2 ^ ((fpFmt fmt).mant + (fpFmt fmt).ebits) = N at hform hlt ⊢
  subst hform
  unfold FpFmt.signedNum
  split
  · next hN =>
    rw [convert_fin, hf.code_of_code, limits_top hfmt, if_neg (by omega), if_neg nofun]
  · next hN =>
    split
    · next hinf =>
      obtain ⟨hkind, hfrac⟩ := hinf
      obtain ⟨hcode, hne⟩ := limits_inf hfmt hkind
      have hlast : N = (2 ^ (fpFmt fmt).ebits - 1) * 2 ^ (fpFmt fmt).mant := last_binade hlt hfrac (by
        unfold FpFmt.top at hN
        rw [if_pos hkind] at hN
        omega)
      rw [if_neg nofun, show convert fmt (.inf neg) = ((fpFmt fmt).signed neg (fpLimits fmt).2.2.1, (fpLimits fmt).2.2.1 == (fpLimits fmt).1) from rfl,
        beq_eq_false_iff_ne.2 hne, hcode, ← hlast]
    · rw [if_pos rfl]
      rfl

/-- A value of 2^128 or more is converted to what stands for one beyond the largest. -/
theorem convert_beyond (neg : Bool) {m : Nat} {e : Int} (he : 0 ≤ e) (hm : 0 < m) : convert fmt (.fin neg (m * 2 ^ 128) e) =
    ((fpFmt fmt).signed neg (fpLimits fmt).2.1, (fpLimits fmt).2.1 == (fpLimits fmt).1) := by
  obtain ⟨hemin, htop⟩ := top_lt hfmt
  have hbig : magOf 1 128 ≤ magOf (m * 2 ^ 128) e := by
    rw [← magOf_scale]
    unfold magOf
    refine mul_le_mul (Nat.cast_le.2 hm) (zpow_le_zpow_right₀ one_le_two ?_) (by positivity) (by positivity)
    push_cast
    omega
  rw [convert_fin, limits_top hfmt, if_pos ((usual_of_le hfmt).top_lt_code hemin hbig htop)]

end

/-- Settles O60: a code's value is exact at its own step; rounding to within half a step is nearest among the values of the format; the
largest value is nearest to all beyond it. -/
theorem conversionRoundsToNearestEven : Obligations.ConversionRoundsToNearestEven := by
  unfold Obligations.ConversionRoundsToNearestEven
  refine ⟨fun fmt w hfmt hw => ?_, fun fmt m neg e hfmt => ?_, fun m neg e he hm => ?_⟩
  · rw [width_eq hfmt] at hw
    rw [convert_code hfmt hw, limits_nan hfmt]
  · intro c w cm wm cn wn ce we hc hw k near far
    obtain ⟨hnear, heven⟩ := convert_nearest hfmt hc hw
    have hpos : (0 : ℚ) < 2 ^ (-k) := by positivity
    have hke : k ≤ e := min_le_left _ _
    have hkce : k ≤ ce := (min_le_right _ _).trans (min_le_left _ _)
    have hkwe : k ≤ we := (min_le_right _ _).trans (min_le_right _ _)
    have hnearq : (near : ℚ) = _ := numerAt_near hke hkce
    have hfarq : (far : ℚ) = _ := numerAt_near hke hkwe
    refine ⟨?_, fun heq hne => heven ?_ fun hsame => hne ?_⟩
    · rw [← Nat.cast_le (α := ℚ), hnearq, hfarq]
      exact mul_le_mul_of_nonneg_right hnear hpos.le
    · rw [← Nat.cast_inj (R := ℚ), hnearq, hfarq] at heq
      exact mul_right_cancel₀ hpos.ne' heq
    · rw [← Int.cast_inj (α := ℚ), numerAt_eq hkce, numerAt_eq hkwe]
      exact congrArg (· * (2 : ℚ) ^ (-k)) (valueOf_inj hsame).symm
  · exact ⟨convert_beyond (by decide) neg he hm, convert_beyond (by decide) neg he hm, convert_beyond (by decide) neg he hm,
      convert_beyond (by decide) neg he hm, convert_beyond (by decide) neg he hm, rfl⟩

end Sys2Proof.Machine
end
